-- ==== Sys2Proof/Word.lean ====
section
/-! DEFINITION. The words of the T1's registers, descriptors and memories, and the sparse containers State is made of. -/

namespace Sys2Proof

/-- One byte of a memory (R9). -/
abbrev Byte := BitVec 8

/-- A 16-bit field: a T16 value, a tag, an event code. -/
abbrev Half := BitVec 16

/-- A 32-bit register, descriptor word or T32 value (R13). -/
abbrev Word := BitVec 32

/-- A 64-bit register or digest (R14, R221). -/
abbrev DWord := BitVec 64

/-- A sparse map from a number (a unit, a rail, an offset) to what is held there, keys rising. -/
abbrev Tab (α : Type) := List (Nat × α)

/-- A byte-addressed memory: (address, byte) pairs, addresses strictly rising, no entry equal to what an
unlisted address reads as. -/
abbrev Mem := List (Nat × BitVec 8)

end Sys2Proof
end

