-- ==== Sys2Proof/Syntax.lean ====
section
/-! DEFINITION. The commands of the block: one constructor of Instr for each row of the operation table, and the operands
they carry. What the environment measures or holds (host buffers, temperatures, link partners, the outcome of a test) is an
operand of the command it belongs to. -/

namespace Sys2Proof

/-- The two masters of the register file (R13, R14). -/
inductive Master where
  | host
  | mgmt
deriving DecidableEq, Repr

/-- What the host memory at a ticket's buffer gives: its bytes, or a failed access (HOST_FAULT, R354). -/
inductive HostBuf where
  | ok (bytes : List Byte)
  | fault
deriving DecidableEq, Repr

/-- An entry of a ticket's list (R349): address, length, and the two reserved words as one number. -/
structure SglEntry where
  addr : Nat
  len : Nat
  rsvd : Nat
deriving DecidableEq, Repr

/-- A ticket as R349 lays it out, without its opcode, which the command names. `slot`: which of the tickets read from its rail it is (R346);
`p` holds P0 to P10, `buf` what a read of the host buffer gives, `segs` the entries of the list when SGL is set. -/
structure Ticket where
  rail : Nat
  slot : Nat
  tag : Half
  fence : Bool
  quiet : Bool
  sgl : Bool
  rsvd : BitVec 29
  addr : DWord
  len : Word
  p : List Word
  buf : HostBuf
  segs : List SglEntry
deriving DecidableEq, Repr

/-- What G288 found in the GDDR7 accesses of one command (R323): the (region, byte offset) of each codeword corrected and of
each found uncorrectable. -/
structure MemObs where
  ce : List (Nat × Nat)
  ue : List (Nat × Nat)
deriving DecidableEq, Repr

/-- What the residue checker of a port reports of one addition (R282, R283): the lane, the element of its unit, the two operands that the port still holds, whether
it is the check of the normaliser and rounder, the window value the lane returned, the residue the checker predicted, and what other
lanes return for these operands where it is not the exact value. -/
structure ResidueObs where
  lane : Nat
  elem : Nat
  x : Word
  y : Word
  norm : Bool
  got : Nat
  pred : Nat
  others : List (Nat × Nat)
deriving DecidableEq, Repr

/-- A residue disagreement of an addition that no packet starts: port, chunk and unit, and what the checker reports (R282). -/
structure AddObs where
  port : Nat
  chunk : Nat
  unit : Nat
  obs : ResidueObs
deriving DecidableEq, Repr

/-- What the environment reports of one descriptor's run: local-store stalls (R171), the core addresses of store codewords
corrected and of an uncorrectable one (R173), the GDDR7 accesses (R323), work past START + BUDGET (R239), core clocks a pop
waited for its record (R188), and the residue disagreements of the additions that a collective's start makes (R282). -/
structure Env where
  stall : Nat
  storeCe : List Nat
  storeUe : Option Nat
  mem : MemObs
  late : Bool
  popWait : Nat
  adds : List AddObs
deriving DecidableEq, Repr

/-- A descriptor (R241): its number in the recipe and its sixteen words W0 to W15. -/
structure Desc where
  num : Nat
  w : List Word
deriving DecidableEq, Repr

/-- What a level-scrub step reads of a row with a cell away from its level (R130, R132): the array's position in the bank, the row group, and
for the first read and the read after each rewrite the cells that do not read their level exactly, each as (column, sum of the M
fine-mode conversions in 1/8 unit). -/
structure RowRead where
  pos : Nat
  group : Nat
  reads : List (List (Nat × Int))
deriving DecidableEq, Repr

/-- What a converter's test input gives (R140): position, row group and column, and the sum of the 16 conversions at each of the nine points
−255, −192, −128, −64, 0, 64, 128, 192 and 255. -/
structure ConvTest where
  pos : Nat
  group : Nat
  col : Nat
  sums : List Int
deriving DecidableEq, Repr

/-- The figures a calibration run measures for one array (R119). -/
structure ArrFig where
  gainErr : Half
  offset : Half
  detBound : Half
  noise : Half
deriving DecidableEq, Repr

/-- What one bank's part of a calibration run measures (R140): REXT in 0.01 Ω through each compute die's reference domain, the converters
whose test points are not exact, the core's temperature, the cell gain of the calibration columns against the reference in 0.001 %, and
the figures of the bank's four arrays in position order. -/
structure CalObs where
  rext : List Nat
  conv : List ConvTest
  temp : Int
  gain : Int
  figs : List ArrFig
deriving DecidableEq, Repr

/-- What NVM gives when the blocks of R144 and R145 are read (R146): the calibration blocks and the remap copies A and B of the cores that
do not read as they were last written. -/
structure NvmRead where
  cal : List (Nat × List Byte)
  remap : List (Nat × List Byte × List Byte)
deriving DecidableEq, Repr

/-- The stamp of an event: beat, device and source sequence (R31, R310). -/
structure Stamp where
  beat : Nat
  dev : Nat
  seq : Nat
deriving DecidableEq, Repr

/-- How the loss of a device is recovered from (R376): its replica drops out, its shadow is restored, or the job stops; and that the restore of
its shadow is complete (R379). -/
inductive Recov where
  | dropOut
  | shadow
  | stop
  | restored
deriving DecidableEq, Repr

/-- The report a device sends up the tree when its window closes (R304): the devices it covers, commit readiness, replay
causes (R215), failing causes (R225), micro-batches dropped (R193), stretch factor (R307), compare results as
(predicate, JOB_ALL, value) (R253), HOLD (R391), EVACUATE (R327), the devices that report themselves lost (R375), the ports that
routes must avoid, as (device, port) (R299, log 25), and the lost devices whose shadow it has restored (R379, log 143). -/
structure Report where
  devs : List Nat
  ready : Bool
  causes : List Nat
  origins : List (Nat × Stamp)
  fails : List Nat
  drops : List Nat
  k : Nat
  compares : List (Nat × Bool × Bool)
  hold : Bool
  lost : List Nat
  downs : List (Nat × Nat)
  restored : List Nat
deriving DecidableEq, Repr

/-- The tick message (R302): the beat it opens, the stretch granted, the commit decision and causes, job-wide compare results,
dropped micro-batches, HOLD, the routing generation, the devices lost, and what the leader has chosen for lost devices (R376, log 143). -/
structure TickMsg where
  beat : Nat
  k : Nat
  commit : Bool
  causes : List Nat
  origins : List (Nat × Stamp)
  fails : List Nat
  drops : List Nat
  preds : List (Nat × Bool)
  hold : Bool
  gen : Nat
  lost : List Nat
  recov : List (Nat × Recov)
deriving DecidableEq, Repr

/-- A collective packet: the header fields of R272 and the payload of R271. -/
structure Packet where
  desc : Nat
  phase : Nat
  mode : Nat
  legacy : Bool
  arcB : Bool
  src : Nat
  chunk : Nat
  unit : Nat
  jobId : Word
  beat : Word
  payRes : Byte
  agreeCrc : Word
  payload : List Byte
deriving DecidableEq, Repr

/-- A packet on the links (R298 to R300): source, destination, virtual channel, generation, an identifying number, its bytes, the port it
came in by (none: launched here), the dimension whose travel it finishes on a detour, and whether it is in its VC's second buffer
class. -/
structure LinkPkt where
  src : Nat
  dst : Nat
  vc : Nat
  gen : Nat
  id : Nat
  data : List Byte
  inPort : Option Nat
  via : Option Nat
  second : Bool
deriving DecidableEq, Repr

/-- The end of a port's link training (R297): lanes in service as a mask, the partner's number and port (none: not configured),
the measured one-way delay in ns (R303), and whether the partner end is sealed (R301). -/
structure TrainObs where
  lanes : BitVec 6
  partner : Option Nat
  pport : Nat
  delay : Nat
  partnerSealed : Bool
deriving DecidableEq, Repr

/-- What a start-up step finds (R448, R449, R381): the firmware copies verify, and the check of core map and NVM of the copy that
runs completes (R427); core map, NVM and security root pass (R381); what NVM gives of the calibration and remap blocks (R146); the highest rate code each GDDR7 device passes (R316); units that
fail a directed test or captured pattern (R366); and what the calibration of R140 measures, by 4 × core + bank. -/
structure StartObs where
  fwOk : Bool
  selfOk : Bool
  coreMapOk : Bool
  nvmOk : Bool
  secOk : Bool
  nvm : NvmRead
  rates : List Nat
  dtFail : List (Nat × Nat)
  cals : List (Nat × CalObs)
  temp : Int
deriving DecidableEq, Repr

/-- One logged step of a buddy shadow (R378): the step, the gradient as UPDATE read it, and the estimator and error-memory
banks the step wrote. -/
structure ShadowLog where
  step : Nat
  grad : List Byte
  est : List Byte
  err : List Byte
deriving DecidableEq, Repr

/-- A committed shadow as a standby reads it from its holder (R378, R379). -/
structure ShadowImage where
  dev : Nat
  step : Nat
  epoch : Nat
  hi : List Byte
  comp : List Byte
  mom : List Byte
  est : List Byte
  err : List Byte
  logs : List ShadowLog
  digest : DWord
  base : DWord
deriving DecidableEq, Repr

/-- The committed banks of a replica group's member, as another member copies them (R370): which device sent them, masters, moments,
estimators and error memory, and the digest of the epoch they hold. -/
structure BankCopy where
  src : Nat
  hi : List Byte
  comp : List Byte
  mom : List Byte
  est : List Byte
  err : List Byte
  digest : DWord
deriving DecidableEq, Repr

/-- One step's shadow or log traffic (R378). `full`: the working state of a step whose number is a multiple of N, here `n`; `size`: bytes of
one shadow bank. -/
structure ShadowMsg where
  dev : Nat
  n : Nat
  size : Nat
  step : Nat
  epoch : Nat
  full : Bool
  hi : List Byte
  comp : List Byte
  mom : List Byte
  est : List Byte
  err : List Byte
  grad : List Byte
  digest : DWord
  base : DWord
deriving DecidableEq, Repr

/-- The 1,040 bytes a member of a replica group sends (R367). -/
structure DigestMsg where
  dev : Nat
  attempt : DWord
  committed : DWord
  cores : List DWord
deriving DecidableEq, Repr

/-- An element of an UPDATE that a core returned otherwise than the arithmetic gives it (R372): descriptor, element, and what came: hi, comp, m
and v. -/
structure WrongOut where
  desc : Nat
  elem : Nat
  out : List Word
deriving DecidableEq, Repr

/-- What the two runs of a suspect's updates returned (R372): where the suspect and where the test core did not return the exact values, the
digital array of the core that a differing output came from if any; and the committed banks of a member whose localisation names no unit
(R370). -/
structure LocObs where
  suspect : List WrongOut
  test : List WrongOut
  dga : Option Nat
  copy : Option BankCopy
deriving DecidableEq, Repr

/-- A step of a PLDM Type 5 transfer (R428): the request, a block of image data, and the end with what the ROM's key and the
image's header say. -/
inductive FwCmd where
  | request
  | data (bytes : List Byte)
  | done (verifies : Bool) (svn build : Half)
deriving DecidableEq, Repr

/-- An MCTP control message (R410): the assignment of an EID, or any other control request. -/
inductive MctpCtl where
  | setEid (eid : Byte)
  | other (code : Nat)
deriving DecidableEq, Repr

/-- The foreground work still running when a window closes (R309, R453): descriptors in descriptor order with logical core and
engine code, a link resend still outstanding, and a collective that ran past its slot on a five-lane port (R307). -/
structure WinObs where
  busy : List (Nat × Nat × Nat)
  linkResend : Bool
  lateOnFive : Bool
deriving DecidableEq, Repr

/-- The comparators of R403, by what they watch. -/
inductive ThermSource where
  | die
  | memory
  | outlet
  | stage
deriving DecidableEq, Repr

/-- The commands of the block, one constructor for each row of the operation table, in the table's order. -/
inductive Instr where
  | identify (t : Ticket)
  | createRail (t : Ticket)
  | deleteRail (t : Ticket)
  | createPass (t : Ticket)
  | deletePass (t : Ticket)
  | status (t : Ticket)
  | memWrite (t : Ticket)
  | memRead (t : Ticket) (g : MemObs)
  | regionQuery (t : Ticket)
  | regionFree (t : Ticket)
  | recipeLoad (t : Ticket)
  | recipeUnload (t : Ticket)
  | recipeStart (t : Ticket)
  | recipeStop (t : Ticket)
  | stepRun (t : Ticket)
  | invoke (t : Ticket)
  | ckptSave (t : Ticket)
  | ckptRestore (t : Ticket)
  | shadowCfg (t : Ticket) (accepted : Bool)
  | shadowRestore (t : Ticket) (img : Option ShadowImage)
  | calRun (t : Ticket)
  | sctRead (t : Ticket)
  | testEnter (t : Ticket)
  | testLeave (t : Ticket) (fails : List (Nat × Nat))
  | directedTest (t : Ticket) (fails : Bool)
  | eventRead (t : Ticket)
  | historyRead (t : Ticket)
  | ratioRead (t : Ticket)
  | telemetryRead (t : Ticket)
  | setWakeTol (t : Ticket)
  | idleEnter (t : Ticket)
  | idleExit (t : Ticket) (nvm : NvmRead)
  | powerLimit (t : Ticket)
  | powerQuery (t : Ticket)
  | domainSet (t : Ticket)
  | groupDefine (t : Ticket)
  | groupDelete (t : Ticket)
  | beatSet (t : Ticket)
  | domainJoin (t : Ticket)
  | linkQuery (t : Ticket)
  | secQuery (t : Ticket)
  | certRead (t : Ticket)
  | measure (t : Ticket)
  | ticketBadOpcode (op : Half) (t : Ticket)
  | railTail (n : Nat) (v : Word)
  | passHead (n : Nat) (v : Word)
  | ticketFetch (n : Nat) (read : Option (List (List Word)))
  | completionWrite (n : Nat)
  | passTimer (n : Nat)
  | mboxEnSet
  | mboxDisable
  | mboxReset
  | registerWrite (off : Nat) (v : Word) (hwSet : Word)
  | rcCounterRead (off : Nat) (hwAdd : Nat)
  | lowWordRead (m : Master) (off : Nat)
  | badAccess (m : Master) (write : Bool) (off size : Nat)
  | anaRowlimWrite (v : Word)
  | anaCtlWrite (v : Word)
  | calCtlWrite (v : Word)
  | calCmdGo (v : Word)
  | memPatrolCfgWrite (v : Word)
  | tgGo (dev : Nat) (v : Word)
  | tgStop (dev : Nat) (v : Word)
  | tgRunDone (dev errors : Nat) (first : Word)
  | regRead (off : Nat)
  | regWrite (off : Nat) (v : Word)
  | lock (power take : Bool)
  | powerOn
  | powerOff
  | mgmtPowerLimit (watts : Word)
  | ownerSet (secured : Bool) (cert : List Byte)
  | recipeKey (secured : Bool) (slot : Nat) (key : Option (List Byte))
  | linkKey (secured : Bool) (port : Nat) (sending : Bool) (key : List Byte) (beat : Nat)
  | recClear (secured : Bool)
  | exportData (secured : Bool) (page : Nat)
  | classClear (secured : Bool) (cls unit : Nat)
  | debugUnlock (secured doSeal : Bool)
  | mctpControl (c : MctpCtl)
  | mctpUnsupportedType (ty : Nat)
  | pldmBase (cmd : Nat)
  | pldmSensorRead (id : Nat)
  | pldmUnsupportedType (ty : Nat)
  | pldmFirmwareUpdate (c : FwCmd)
  | activateFirmware (selfContained : Bool)
  | spdmGetCertificate
  | spdmChallenge (nonce : List Byte)
  | spdmGetMeasurements (nonce : List Byte)
  | spdmKeyExchange (chains : Bool)
  | alwaysOnPowerUp (mgmtSel : Bool) (addr : BitVec 3)
  | inputBelow34V (mv : Nat)
  | mainRailEnable (mv : Nat)
  | railPowerGoodTimeout (rail : Nat)
  | domainRetry (dom : Nat) (good : Bool) (nvm : NvmRead)
  | startupStep (o : StartObs)
  | selfHeatTimeout
  | firmwareBoot (aOk bOk : Bool)
  | bootWatchdog
  | sysctlWatchdog
  | pwrWarn (mv : Nat)
  | braceLeave (mv lowest us : Nat)
  | pwrUvReset (mv : Nat)
  | pwrOvw (mv : Nat)
  | ovWarnClear (mv : Nat)
  | pwrOvShut (mv : Nat)
  | ovRestart (mv : Nat)
  | thermShutdown (src : ThermSource) (temp : Int)
  | modReset
  | modResetRelease
  | perstAssert
  | perstRelease (width rate : Nat)
  | functionLevelReset
  | bar4Access (write : Option (List Byte)) (off len : Nat) (g : MemObs)
  | cablePresentChange (port : Nat) (present : Bool)
  | portRetrain (port : Nat)
  | portTrainingDone (port : Nat) (o : TrainObs)
  | laneDrop (port lane : Nat)
  | laneRetrain (port lane : Nat) (good : Bool)
  | retryBlockFail (port seq : Nat) (lane : Option Nat) (uncorr : Nat) (data : List Byte) (crc : Word)
  | linkResendRequest (port seq : Nat)
  | creditReturn (port vc bytes : Nat)
  | packetRoute (p : LinkPkt)
  | e2eResendTimeout (id : Nat)
  | routeTableReceive (gen beat : Nat) (dead : List Nat) (down : List (Nat × Nat))
  | sealTagFail (port seq : Nat)
  | tickMessage (m : TickMsg) (skew : Int)
  | beatTick (pavg : Nat)
  | epochFenceStall
  | flywheelTick (pavg : Nat)
  | masterChange
  | windowClose (o : WinObs)
  | beatReport (r : Report)
  | stretchLimit
  | slotStart (slot : Nat)
  | sequencerWaitRelease (d : Nat)
  | nop (d : Desc) (e : Env)
  | amp (d : Desc) (e : Env)
  | dmp (d : Desc) (e : Env)
  | diag (d : Desc) (e : Env)
  | ewise (d : Desc) (e : Env)
  | reduce (d : Desc) (e : Env)
  | softmax (d : Desc) (e : Env)
  | norm (d : Desc) (e : Env)
  | deriv (d : Desc) (e : Env)
  | softmaxBwd (d : Desc) (e : Env)
  | normBwd (d : Desc) (e : Env)
  | lossXent (d : Desc) (e : Env)
  | gather (d : Desc) (e : Env)
  | scatter (d : Desc) (e : Env)
  | scatterAdd (d : Desc) (e : Env)
  | convert (d : Desc) (e : Env)
  | quantise (d : Desc) (e : Env)
  | push (d : Desc) (e : Env)
  | pop (d : Desc) (e : Env)
  | popPrefetch (cluster bytes : Nat) (e : Env)
  | stashWriteback (cluster bytes : Nat) (e : Env)
  | move (d : Desc) (e : Env)
  | transpose (d : Desc) (e : Env)
  | gatherMem (d : Desc) (e : Env)
  | expand (d : Desc) (e : Env)
  | allreduce (d : Desc) (e : Env)
  | reduceScatter (d : Desc) (e : Env)
  | allgather (d : Desc) (e : Env)
  | broadcast (d : Desc) (e : Env)
  | sendrecv (d : Desc) (e : Env)
  | collPacket (port vc : Nat) (p : Packet) (o : Option ResidueObs)
  | collComplete (vc : Nat)
  | update (d : Desc) (e : Env)
  | awrite (d : Desc) (e : Env)
  | compare (d : Desc) (e : Env)
  | digestTensor (d : Desc) (e : Env)
  | digestExchange (d : Desc) (e : Env) (peers : List DigestMsg) (copy : Option BankCopy)
  | fence (d : Desc) (e : Env)
  | commit (d : Desc) (e : Env) (shadowArrived : Bool)
  | replayStart
  | replayLimit
  | boundaryApply
  | scrubStep (core bank pos : Nat) (finds : List RowRead) (sigma : Nat)
  | scrubLate (core bank ageUs : Nat)
  | scrubAgeLimit (core bank : Nat)
  | arrayReplace (array : Nat)
  | calBankRun (core bank : Nat) (o : CalObs)
  | dieTempSample (cd0 cd1 iod : Int) (clusters : List Int)
  | coolantSample (inlet outlet : Int)
  | checksumWindow (array : Nat)
  | tasting (array : Nat)
  | patrolScrub (region frame : Nat) (g : MemObs) (lost : Bool)
  | frameRepair (region frame src : Nat) (data : List Byte)
  | memTempSample (dev : Nat) (temp : Int)
  | evacClear
  | localise (core : Nat) (o : LocObs)
  | coreSpare (core : Nat) (failing : List Nat) (us : Nat) (cals : List (Nat × CalObs))
  | deviceLost (dev : Nat) (choice : Option Recov)
  | replicaDrop (dev : Nat) (members : List Nat)
  | shadowTraffic (m : ShadowMsg)
  | recordWrite
  | pageFlush (taken : Bool)
  | operatingHourTick
  | coreWatchdog (core : Nat)
  | endToEndAcknowledgement (id : Nat)
  | retryBlockAcknowledgement (port seq corr : Nat)
  | highWordRead (m : Master) (off : Nat)
deriving DecidableEq, Repr

end Sys2Proof
end

