-- ==== Sys2Proof/Decode.lean ====
section
/-! DEFINITION. Commands as words. No row of the operation table gives a field any bits: a command of this block is an event
with operands, not an encoded word, so no word spells one. -/

namespace Sys2Proof

/-- The command a word spells by the table's bits: none, since the table gives no row bits. -/
def decodeTableWord (_nbits _w : Nat) : Option Instr :=
  none

end Sys2Proof
end

