-- ==== Sys2Proof/Config.lean ====
section
/-! DEFINITION. What an implementation fixes and the manual does not state: free values and uninterpreted functions. None of
these constants has a body, so nothing can be proved about their values. -/

namespace Sys2Proof.Config

/-- The analogue part of conversion number n in units, with the reference trim in force: converter output minus the exact sum, before
the clamp and the limit of R116. DESIGN CHOICE, log 6. -/
opaque convError : Nat → Int → Int

/-- The fixed table-and-polynomial method of R167: function number (an FN code of R247), T32 argument and T32 parameter (the α of
ELU, else 0) to T32 result. The special values of R167 are applied before it. Log 7. -/
opaque fixedMethod : Nat → BitVec 32 → BitVec 32 → BitVec 32

/-- SHA-384 of a byte string (R229, R356, R430): a published standard, not stated by the spec. Log 8. -/
opaque sha384 : List (BitVec 8) → List (BitVec 8)

/-- AES-GCM-256: key, 96-bit nonce, data to the sealed unit with its 16-byte tag (R301). Log 8. -/
opaque aesGcm : List (BitVec 8) → BitVec 96 → List (BitVec 8) → List (BitVec 8)

/-- ECDSA P-384 verification: key, message hash, signature (R229, R427). Log 8. -/
opaque ecdsaVerify : List (BitVec 8) → List (BitVec 8) → List (BitVec 8) → Bool

/-- ECDSA P-384 signature with the device identity key (R355, R430). Log 8. -/
opaque identitySign : List (BitVec 8) → List (BitVec 8)

/-- The identity page of IDENTIFY for a core map, the words of the two firmware copies, memory RATE and PCIe width and rate (R355):
its layout is not stated. Log 9. -/
opaque identityPage : List (Nat × Nat) → List Nat → Nat → Nat → Nat → List (BitVec 8)

/-- The certificate chain of slot 0, DER-encoded (R355, R430). Log 9. -/
opaque certChain : List (BitVec 8)

/-- The measurement of an index of R430 (ROM, FW, FW_CFG, DEBUG) of what the bytes hold that it covers. Log 9. -/
opaque measurement : Nat → List (BitVec 8) → List (BitVec 8)

/-- Security version of the factory release (R434). Log 2. -/
opaque factorySvn : BitVec 16

/-- SHA-384 of the factory release's image (R430). Log 2. -/
opaque factoryHash : List (BitVec 8)

/-- Build number of the factory release (R434). Log 2. -/
opaque factoryBuild : BitVec 16

/-- The scale of a Q8 operand that names no tensor: R213 gives a scale to tensors only. DESIGN CHOICE, log 13. -/
opaque noTensorScale : BitVec 16

/-- A free 32-bit value: the payload or result number n that the manual leaves open. Log 6. -/
opaque freeWord : Nat → BitVec 32

/-- The subsystem vendor and device IDs in NVM (R336). Log 6. -/
opaque pciSubsystem : BitVec 32

/-- The reading of a sensor that no command samples (IIN, VBUS, TEMP_STAGE of R426), by sensor ID and number of free values drawn.
DESIGN CHOICE, log 3. -/
opaque sensorReading : Nat → Nat → BitVec 32

/-- A free byte of the pages whose layout a chapter does not give (telemetry pages beyond their entries, PLDM and SPDM
responses): page kind and byte index. Log 9. -/
opaque responseByte : Nat → Nat → BitVec 8

end Sys2Proof.Config
end

