-- ==== Sys2Proof/Machine/State.lean ====
section
/-! DEFINITION. The state of the module as plain data: every register, queue, memory and mode the spec gives it, the queue of
waiting commands, and the state right after reset (before the always-on domain powers up, R448 step 1). -/

namespace Sys2Proof.Machine

/-- Why a command cannot be carried out. Raised by the meanings that take a unit's number from the environment. -/
inductive Fault where
  /-- The command names a core, array, bank, port, lane, device, region, rail or pass that does not exist. Safe: the module has no
  such unit, so no command of its environment names one. -/
  | noSuchUnit
deriving DecidableEq, Repr

/-- Why a command has no meaning. Raised by Dispatch alone. -/
inductive Refusal where
  /-- The command of this mnemonic has no meaning yet. Safe: nothing is claimed of it. -/
  | notModelled (mnemonic : String)
deriving DecidableEq, Repr

/-- HIF_STAT.STATE (R350). -/
inductive DevState where
  | boot
  | ready
  | running
  | test
  | idle
  | lost
  | fault
deriving DecidableEq, Repr

/-- PWR_STAT.SUPPLY (R407). -/
inductive Supply where
  | normal
  | brace
  | ovWarn
  | starting
deriving DecidableEq, Repr

/-- LNK_PORT_STAT.STATE (R312). -/
inductive PortState where
  | disabled
  | training
  | up
  | degraded
  | down
  | miswired
  | sealMismatch
deriving DecidableEq, Repr

/-- EVT_RCP_STAT.STATE (R260). -/
inductive RunState where
  | idle
  | running
  | stopping
  | failed
deriving DecidableEq, Repr

/-- FLT unit-history state (R361). -/
inductive UnitState where
  | clean
  | transient
  | permanent
  | retired
deriving DecidableEq, Repr

/-- A completion waiting for its pass, with RAIL_HEAD as it stood when the ticket completed (R347, R349). -/
structure Completion where
  rail : Nat
  head : Nat
  tag : Half
  status : Half
  res : List Word
  quiet : Bool
deriving DecidableEq, Repr

/-- A ticket that has been read and has not completed (R346): its number among those read from its rail, opcode and tag, the sixteen words
where TICKET_FETCH read them, and whether its command has come. -/
structure RailSlot where
  id : Nat
  op : Half
  tag : Half
  words : List Word
  taken : Bool
deriving DecidableEq, Repr

/-- A command rail (R344 to R346). `inflight`: the tickets read and not completed, in slot order. -/
structure Rail where
  base : DWord
  log2 : Nat
  pass : Nat
  prio : Nat
  head : Nat
  tail : Nat
  err : Bool
  inflight : List RailSlot
deriving DecidableEq, Repr

/-- A completion pass (R344, R347, R348). `used` counts slots written and not yet freed, `since` the completions written since
the vector was last requested. -/
structure Pass where
  base : DWord
  log2 : Nat
  vec : Nat
  cnt : Nat
  time : Nat
  head : Nat
  tail : Nat
  phase : Bool
  used : Nat
  waiting : List Completion
  since : Nat
  timer : Bool
deriving DecidableEq, Repr

/-- A BAR4 window (R341). -/
structure Win where
  en : Bool
  region : BitVec 6
  baseMib : Word
deriving DecidableEq, Repr

/-- A ticket that has been read and waits to start, with its opcode and what its command carries beside it. -/
structure WaitTicket where
  op : Half
  t : Ticket
  obs : MemObs
  img : Option ShadowImage
  fails : List (Nat × Nat)
  nvm : NvmRead
  ok : Bool
deriving DecidableEq, Repr

/-- The host interface and mailbox (R336 to R358). -/
structure Hif where
  state : DevState
  ready : Bool
  mboxEn : Bool
  arailBase : DWord
  arailLog2 : Nat
  apassBase : DWord
  apassLog2 : Nat
  irqStat : BitVec 4
  irqMask : BitVec 4
  railErr : DWord
  wins : Tab Win
  hostLatch : Tab Word
  mgmtLatch : Tab Word
  rails : Tab Rail
  passes : Tab Pass
  turns : List Nat
  seqBusy : Option WaitTicket
  waitq : List WaitTicket
  deleting : List WaitTicket
  limits : List WaitTicket
  msix : Tab Word
  vecReq : Tab Nat
  readData : List Word
  poisoned : Bool
  perst : Bool
  width : Nat
  rate : Nat
  held : Bool
deriving DecidableEq, Repr

/-- An event record (R420). -/
structure Record where
  seq : Nat
  code : Nat
  prio : Nat
  storm : Bool
  relay : Bool
  device : Nat
  hours : Nat
  srcSeq : Nat
  pcycle : Nat
  beat : Nat
  payload : List Word
deriving DecidableEq, Repr

/-- The side-band management port (R410 to R414, R435). `rspStatus`, `rspData` are the last response it gave, `pem` the event records its
PlatformEventMessages carried (R5, R411). -/
structure Sbm where
  eid : Byte
  i3c : Bool
  addr : BitVec 3
  session : Bool
  lockPower : Bool
  lockSecurity : Bool
  alertMask : Word
  rspStatus : Nat
  rspData : List Word
  rspBytes : List Byte
  pem : List Record
  fwImage : List Byte
  fwDone : Option (Bool × Half × Half)
deriving DecidableEq, Repr

/-- Supply, power domains, idle level, duty and temperatures (R388 to R409, R440 to R449); temperatures are in 0.1 °C, as R426 gives them. -/
structure Pwr where
  aon : Bool
  supply : Supply
  sticky : BitVec 10
  limit : Word
  wakeTol : Word
  vin : Word
  pin : Word
  dom : BitVec 36
  cd0 : Int
  cd1 : Int
  iod : Int
  inlet : Int
  outlet : Int
  idle : Nat
  pd : Nat
  ceil : Nat
  braced : Bool
  duty : Nat
  lowDuty : Nat
  stretchReq : Nat
  therm : Nat
  thermLatch : Bool
  ovLatch : Bool
  offLatch : Bool
  ovHours : List Nat
  ovWait : Bool
  braceLow : Word
  pwrgood : Bool
  modReset : Bool
  startStep : Nat
  startFail : Option (Nat × Nat)
  ticksOut : Nat
  tickDriven : Bool
  mgmtLimit : Bool
deriving DecidableEq, Repr

/-- An open storm record of the beat (R424, R425): the stamp of its first event, the unit, events counted, last sequence. -/
structure Storm where
  first : Record
  unit : Nat
  count : Nat
  last : Nat
deriving DecidableEq, Repr

/-- Always-on registers and the event recorder (R415 to R425, R433). `hours` counts 1/65,536 h. -/
structure Recorder where
  alarm : BitVec 14
  hours : Nat
  savedHours : Nat
  pcycle : Nat
  seq : Nat
  first : List Record
  firstFull : Bool
  circ : Tab Record
  page : List Record
  aonBuf : List Record
  aonLost : Nat
  sel : Word
  queue : List Record
  seen : List ((Nat × Nat) × Nat)
  storms : List Storm
  coal : List Nat
  drop : List Nat
  carried : Bool
  carryBeats : Nat
  srcSeq : Nat
deriving DecidableEq, Repr

/-- A firmware copy, with the SHA-384 of its image (R427, R428, R430, R434). -/
structure FwCopy where
  svn : Half
  build : Half
  valid : Bool
  hash : List Byte
deriving DecidableEq, Repr

/-- A link key (R301). The key in use of port p and direction d (1 sending) is held under 2 × p + d, a pending one under
12 + 2 × p + d; `active` is true of a key in use until a SEAL_FAIL spoils it (R294). -/
structure LinkKey where
  key : List Byte
  beat : Nat
  active : Bool
deriving DecidableEq, Repr

/-- The security root (R427 to R434). -/
structure Sec where
  debug : Nat
  owner : Option (List Byte)
  fwB : Bool
  failover : Bool
  rsealed : BitVec 6
  keys : Tab (List Byte)
  linkKeys : Tab LinkKey
  copyA : FwCopy
  copyB : FwCopy
  rollback : Half
  activate : Bool
  unlockArmed : Bool
  sealArmed : Bool
  unlocked : Bool
  unlocks : Nat
  wdCount : Nat
  bootGood : Bool
deriving DecidableEq, Repr

/-- A spare row of an array (R145): the data row it serves, whether it is in use or bad. -/
structure Spare where
  row : Nat
  inUse : Bool
  bad : Bool
deriving DecidableEq, Repr

/-- An outlier-weight entry (R98), with its row group. -/
structure OutEnt where
  group : Nat
  row : Nat
  col : Nat
  resid : Half
deriving DecidableEq, Repr

/-- An array's outlier segment (R98, R99, R104): channel rows with the input index each serves, where it is known (log 17), and
the weight entries, spilled ones included. -/
structure Segment where
  chans : List (Option Nat × List Half)
  ents : List OutEnt
deriving DecidableEq, Repr

/-- What QUANTISE keeps beside an array's entry of an outlier part (log 17): the channel of each channel row, and the entries it
spilled (R98, R104, R248). -/
structure PartInfo where
  region : Nat
  off : Nat
  chans : List Nat
  spill : List OutEnt
deriving DecidableEq, Repr

/-- Where a run of an array's data rows was last written from (R132): codes, scales and the rows covered, with the format, the
epoch, the outlier segment of that write and where it was read (R85, R139). -/
structure RowSrc where
  row0 : Nat
  nrows : Nat
  region : Nat
  addr : Nat
  sregion : Nat
  saddr : Nat
  fmt : Nat
  epoch : Nat
  seg : Segment
  part : Option (Nat × Nat)
deriving DecidableEq, Repr

/-- A vector captured for tasting (R112): activation codes and side vector, the step and epoch it belongs to, its product's words, and what the Sieve decided
its conversions by: sign, rows in use, masked rows, row limit and block-split flags (R79). -/
structure Captured where
  acts : List Byte
  side : List Half
  step : Nat
  epoch : Nat
  sgn : Bool
  rows : Nat
  masked : List Nat
  limit : Nat
  bsplit : BitVec 8
  fields : List Word
deriving DecidableEq, Repr

/-- A checksum window (R108, R126): group conversions in it, the sum of its discrepancies and of their squares, and the margins in force
from its first conversion on. -/
structure ChkWin where
  n : Nat
  sum : Int
  sq : Int
  mean : Nat
  rms : Nat
deriving DecidableEq, Repr

/-- One analogue array (R85, R108, R119, R139, R145). `refOn` and `refNext`: its products run in reference mode, now and from
the next tick. `moved` is the array that took its block, `lost` marks choice 3 of R139. `pendSrc` are the sources of a write
that reached it before its re-placement. `figOn`: the figures of the calibration in force since the last tick (R141); `chk`, `chkDone`: the
checksum window that fills and those complete; `tasteAhead`: its tasting comes ahead of its turn (R109). -/
structure ArrayS where
  status : Nat
  holds : Bool
  fmt : Nat
  epoch : Nat
  src : List RowSrc
  bsplit : BitVec 8
  seg : Segment
  spares : Tab Spare
  spareNext : Tab Spare
  calEpoch : Word
  tempCal : Int
  fig : ArrFig
  figOn : ArrFig
  baseline : Option (Int × Int)
  chk : ChkWin
  chkDone : List ChkWin
  steps : Nat
  tasteDue : Bool
  tasteAhead : Bool
  captured : Option Captured
  tasteFails : Nat
  refOn : Bool
  refNext : Bool
  moved : Option Nat
  lost : Bool
  plan : Option (Nat × Nat)
  pendSrc : List RowSrc
deriving DecidableEq, Repr

/-- One logical core's analogue side (R93, R129 to R135, R142, R147, R150). `ageRef`, `ageNext`: banks at 2 × P, now and from
the next tick. `pass`: positions done of each bank's scrub pass. `calBlock`: its calibration block failed (R146). `noisy`: banks that need
M above 230, `noisyCal`: those calibrated for it since (R131). `coef`: the temperature coefficient and `trim` the trim in force, in
0.001 %/°C and 0.001 % (R115, R140); `runs`: temperature and cell gain of the core's runs, the latest first; `gainSum`: the gains of the
banks of the run in progress; `failedOnce`: converters that failed once in it (R143). -/
structure CoreS where
  bank : Nat
  writing : BitVec 4
  temp : Int
  tempCal : Int
  band : Nat
  m : List Nat
  scrubbed : Bool
  pass : List Nat
  calBlock : Bool
  late : BitVec 4
  ageRef : BitVec 4
  ageNext : BitVec 4
  lagRef : Bool
  lagNext : Bool
  banksDone : BitVec 4
  failedOnce : List Nat
  noisy : BitVec 4
  noisyCal : BitVec 4
  coef : Int
  trim : Int
  runs : List (Int × Int)
  runCount : Nat
  gainSum : Int
deriving DecidableEq, Repr

/-- The analogue arrays, Sieve and Colander (R67 to R139). `cells` holds the charge states S0 to S3 of the 520 columns of
physical row r of array a under 1,040 × a + r; `scales` the scales of block b of array a under 16 × a + b; `rem` the checksum
remainders under 1,040 × a + r; `sct` the published entries of the self-characterisation table (R118, R119); `tasteBeats` the beats
of a RUN recipe not yet counted as a step (R112). -/
structure Ana where
  w1lim : Nat
  w3lim : Nat
  w2lim : Nat
  w1new : Nat
  w3new : Nat
  w2new : Nat
  forceSplit : Bool
  noSkip : Bool
  interval : Nat
  intervalNew : Nat
  rmsMargin : Nat
  meanMargin : Nat
  sctEpoch : Half
  coldRef : Bool
  hotRef : Bool
  arrays : Tab ArrayS
  cores : Tab CoreS
  cells : Tab (List (BitVec 2))
  scales : Tab (List Half)
  rem : Tab (List Int)
  parts : List PartInfo
  spillFill : Tab Nat
  sct : Tab (List Word)
  tasteBeats : Nat
deriving DecidableEq, Repr

/-- A converter's calibration values (R140): the sum of its 16 conversions at 0, the difference of its sums at 192 and −192, and what is
left at each of the nine points, times 384. -/
structure ConvCal where
  offset : Int
  gain : Int
  lin : List Int
deriving DecidableEq, Repr

/-- Calibration (R140 to R156). `goCores` are the cores named by CAL_CMD whose runs have not completed. `vals` holds the values of the
converters that have been calibrated, by CONVERTER unit, `valsNext` those that take effect at the next tick (R141); `uCur` the REXT
reading each die's unit current is set from; `blk` the calibration blocks in NVM as last written (R144), `remap` the remap copies A and B
(R145), both by logical core. -/
structure Cal where
  trig : Nat
  cmdCore : Byte
  goCores : List Nat
  due : List Nat
  urgent : List Nat
  busy : List Nat
  rextFault : Bool
  rext : Word
  epochCnt : Word
  vals : Tab ConvCal
  valsNext : Tab ConvCal
  uCur : List Nat
  blk : Tab (List Byte)
  remap : Tab (List Byte × List Byte)
deriving DecidableEq, Repr

/-- An allocated GDDR7 region (R320 to R322, R334): `base` gives the first frame in each device that holds part of it. -/
structure Region where
  kind : Nat
  index : Nat
  spread : Nat
  size : Nat
  place : Nat
  base : Tab Nat
  frames : Nat
deriving DecidableEq, Repr

/-- A traffic generator (R335). -/
structure TrafficGen where
  go : Bool
  stop : Bool
  raw : Bool
  dir : Nat
  pattern : Nat
  frames : Word
  first : Word
deriving DecidableEq, Repr

/-- The GDDR7 subsystem (R315 to R335, R198, R204). `temps`: each device's level and last sample in 0.1 °C. `poison`: marked codewords, as region and
codeword; `freed`: those in no region, as device, frame and codeword (R323). Frames of bank pairs are keyed region × 2^32 + frame within the bank. -/
structure MemSys where
  rate : Nat
  trained : BitVec 24
  evac : Bool
  hot : List Nat
  patrol : Nat
  patrolNew : Nat
  temps : Tab (Nat × Int)
  regions : Tab Region
  half1 : List Nat
  written : List Nat
  poison : List (Nat × Nat)
  tg : Tab TrafficGen
  slotEpoch : Tab Nat
  live : List Nat
  old : List (Nat × Nat × List Byte)
  freed : List (Nat × Nat × Nat)
deriving DecidableEq, Repr

/-- The memories. `lstore` is keyed core × 3 MiB + address, `cstore` cluster × 8 MiB + offset, `gddr` region × 2^40 + byte
offset within the whole region (both banks of a pair), `host` the host address. -/
structure Store where
  lstore : Mem
  cstore : Mem
  gddr : Mem
  host : Mem
deriving DecidableEq, Repr

/-- A retry block of 8 KiB with its control words: sequence number and CRC-32 (R291). -/
structure Block where
  seq : Nat
  crc : Word
  data : List Byte
deriving DecidableEq, Repr

/-- One link port (R289 to R301, R312). `sent` holds the retry blocks not yet acknowledged, `blk` the bytes of the open one, `wire` the
blocks put on the line, the last ones again where they were asked for; `plain` the bytes of the open sealed unit and `sealCount` the units
sealed; `rxWant` the block asked for again; `credit` the bytes each VC has in the partner's receive buffer, `rx` those it has in this
port's own and `returned` those given back; `rr` the VC served last; `wasDown`: it has been DOWN and returns at a boundary; `upNext`,
`downNext`, `laneNext` what the next boundary or tick applies. -/
structure Port where
  state : PortState
  lanes : BitVec 6
  partner : Nat
  pport : Nat
  cable : Bool
  delay : Nat
  sealFails : Nat
  sealDown : Bool
  wasDown : Bool
  downNext : Bool
  upNext : Bool
  laneNext : BitVec 6
  laneFails : Tab Nat
  sent : List Block
  txSeq : Nat
  blk : List Byte
  wire : List Block
  plain : List Byte
  sealCount : Nat
  rxWant : Option Nat
  credit : Tab Nat
  rx : Tab Nat
  returned : Tab Nat
  rr : Nat
deriving DecidableEq, Repr

/-- A routing table (R299, R300): dead devices and DOWN ports of the domain it was computed for. -/
structure Route where
  dead : List Nat
  down : List (Nat × Nat)
deriving DecidableEq, Repr

/-- Links, domain and beat (R289 to R314). `routed` holds the packets waiting at a port for credit, `out` those sent, `unacked` the
end-to-end packets launched here and `acked` the (source, number) of those delivered here that were acknowledged; `downs` the ports that
routes must avoid, as this device knows them, `tables` the tables it has sent as master, each with its generation and beat, and `late` the
replay (false) and failing (true) causes raised after the window closed or while no step was in progress, which belong to the next attempt
(R215, R304), `forwarded` the
tick messages of the beat with their ports, `reported` the reports sent up the tree in the beat with their ports, and `silent` the devices whose reports the last tick message missed (R375). -/
structure Lnk where
  ports : Tab Port
  dimX : Nat
  dimY : Nat
  dimZ : Nat
  cx : Nat
  cy : Nat
  cz : Nat
  domain : Bool
  master : Nat
  standby : Option Nat
  beat : Nat
  period : Nat
  stretch : Nat
  stretchRun : Nat
  flywheel : Bool
  missed : Nat
  skew : Half
  tickRx : Option TickMsg
  merged : Option Report
  forwarded : List (Nat × TickMsg)
  reported : List (Nat × Report)
  windowOpen : Bool
  gen : Nat
  routes : Tab Route
  genNext : Option (Nat × Nat)
  unacked : Tab LinkPkt
  resends : Tab Nat
  routed : List (LinkPkt × Nat)
  out : List (LinkPkt × Nat)
  acked : List (Nat × Nat)
  dead : List Nat
  downs : List (Nat × Nat)
  tables : List (Nat × Nat × Route)
  late : List (Bool × Nat × Stamp)
  silent : List Nat
deriving DecidableEq, Repr

/-- Recipe header fields kept after load (R227). -/
structure RHead where
  isRun : Bool
  legacy : Bool
  jobId : Word
  coreMask : BitVec 128
  seed : DWord
  base : DWord
  beatUs : Nat
  gapPct : Nat
  replayMax : Nat
  fenceLimit : Nat
  splitReserve : Nat
  stkHigh : Nat
  stkHard : Nat
  stkHead : Nat
  beats : Nat
  decay : Word
  keyId : Nat
deriving DecidableEq, Repr

/-- Tensor table entry (R230). -/
structure Tensor where
  fmt : Nat
  kind : Nat
  headroom : Nat
  dim0 : Nat
  dim1 : Nat
  initE : Word
  estBase : Nat
  estCount : Nat
deriving DecidableEq, Repr

/-- Region table entry (R231). -/
structure RegionEnt where
  kind : Nat
  index : Nat
  spread : Nat
  region : Nat
  size : Nat
deriving DecidableEq, Repr

/-- Layer table entry (R232). -/
structure Layer where
  segment : Nat
  frozen : Bool
  trainable : Bool
  masters : Nat
  first : Nat
  clipk : Word
  rhi : Half
  rlo : Half
deriving DecidableEq, Repr

/-- Segment table entry (R233). -/
structure SegEnt where
  first : Nat
  last : Nat
  recomp : Bool
deriving DecidableEq, Repr

/-- Slot table entry (R236). -/
structure Slot where
  kind : Nat
  predEn : Bool
  predPol : Bool
  pred : Nat
  beat : Nat
  start : Nat
  budget : Nat
  mb : Nat
deriving DecidableEq, Repr

/-- A loaded recipe (R227 to R254): its header, tables, descriptors and outlier budgets, the SHA-384 of the image, and the
bytes R356 hashes for a checkpoint layout. -/
structure Recipe where
  head : RHead
  size : Nat
  tensors : List Tensor
  regions : List RegionEnt
  layers : List Layer
  segs : List SegEnt
  slots : List Slot
  descs : List Desc
  budgets : List Nat
  hash : List Byte
  layout : List Byte
deriving DecidableEq, Repr

/-- A parallel group (R262, R357): VC and, for each member in ring order, device, next port and previous port. -/
structure Group where
  vc : Nat
  members : List (Nat × Nat × Nat)
deriving DecidableEq, Repr

/-- Recipes and groups (R254 to R262). `pending` holds definitions (some) and deletions (none) waiting for the boundary. -/
structure Rcp where
  slots : Tab Recipe
  state : RunState
  handle : Nat
  nextStep : Nat
  startNext : Option (Nat × Nat)
  unloadAtStop : Bool
  groups : Tab Group
  pending : List (Nat × Option Group)
deriving DecidableEq, Repr

/-- A Stockpot record (R186): layer, kind, record number, absolute offset and bytes it takes. -/
structure StkRec where
  layer : Nat
  kind : Nat
  slot : Nat
  off : Nat
  len : Nat
deriving DecidableEq, Repr

/-- A Stockpot frame (R185): its micro-batch and step, the absolute offset it starts at, its records newest first. -/
structure StkFrame where
  mb : Nat
  step : Nat
  start : Nat
  recs : List StkRec
deriving DecidableEq, Repr

/-- A cluster's Stockpot (R185 to R189, R203): live frames oldest first, whether STASH_HIGH has been raised and not re-armed, the
absolute offset up to which bytes have been written back to GDDR7, a multiple of 2,048, the offset from which on the head holds the
frames' bytes, and those bytes by offset. -/
structure Stk where
  frames : List StkFrame
  high : Bool
  wrote : Nat
  low : Nat
  head : Mem
deriving DecidableEq, Repr

/-- What a step attempt starts from and a replay returns to (R198, R216): the Stockpots' frames, the micro-batches' tags, those not
drained, what has run for them and those dropped, the live epochs and the image slots' epochs. -/
structure Saved where
  stk : Tab Stk
  tags : Tab Nat
  pendMb : Tab Nat
  mbRan : List (Nat × Nat)
  drops : List Nat
  live : List Nat
  slotEpoch : Tab Nat
deriving DecidableEq, Repr

/-- A micro-batch that runs in parts (R193, R194): how often it has been split in the step, its parts in order as (rows, depth), and the
number of the part that runs. -/
structure MbSplit where
  mb : Nat
  count : Nat
  parts : List (Nat × Nat)
  cur : Nat
deriving DecidableEq, Repr

/-- The step attempt or invocation in progress (R215 to R217, R193, R199, R242). A micro-batch of a step is keyed 65,536 × step + number:
`tags` holds the epoch of each one that still matters, `pendMb` that of each one not yet drained, `mbRan` the descriptors that have run for
them (R198), `drops` those that were dropped (R193), and `thinSegs` their thinned segments (R190); `origins` holds the stamp of each cause raised here and `replayFrom` that of a cause another device raised (R310);
`offSlots` holds the reserve slots whose half met STASH_FULL, by number and slot (R194). -/
structure Stp where
  active : Bool
  begun : Bool
  step : Nat
  attempt : Nat
  beat : Nat
  held : Bool
  halted : Bool
  slotsOn : List Nat
  skipped : List Nat
  done : List Nat
  waiting : List Nat
  faulted : List Nat
  preds : BitVec 16
  compares : List (Nat × Bool × Bool)
  causes : List Nat
  origins : Tab Stamp
  fails : List Nat
  lastCause : Nat
  replayDue : Option Nat
  replayFrom : Option Stamp
  commitReady : Bool
  boundary : Bool
  raised : List (Nat × Nat)
  tags : Tab Nat
  pendMb : Tab Nat
  mbRan : List (Nat × Nat)
  drops : List Nat
  offSlots : List (Nat × Nat)
  splits : List MbSplit
  reserveUsed : Nat
  thinMb : List Nat
  thinSegs : List (Nat × Nat)
  fenceWait : Bool
  fenceBeats : Nat
  fencePassed : Bool
  corr : Tab (Word × Word)
  base : Tab (Word × Word)
  observed : List Nat
  refAll : Bool
  ratioParts : List ((Nat × Nat) × (Word × Word))
  nonfin : List Nat
  layerDig : Tab DWord
  coreDig : Tab DWord
  grads : List (Nat × List Word)
  shadowSent : Option ShadowMsg
  saved : Option Saved
deriving DecidableEq, Repr

/-- Committed results of the steps (R218 to R226, R30). `shown`: a step has committed since reset (R226). -/
structure Upd where
  epoch : Nat
  lastStep : Nat
  digest : DWord
  digestEpoch : Word
  layerDig : Tab DWord
  stat : Word
  shown : Bool
deriving DecidableEq, Repr

/-- A partial held by the owner of a chunk (R269): unit, arc, payload, in order of arrival, and an element that a rerun
of its addition settled (R283). -/
structure Partial where
  chunk : Nat
  unit : Nat
  arcB : Bool
  payload : List Byte
  fix : Option (Nat × Word)
deriving DecidableEq, Repr

/-- A collective in progress on one VC (R263 to R281): `bad` when it read an uncorrectable word in a RUN recipe (R323). -/
structure CollS where
  vc : Nat
  desc : Desc
  me : Nat
  group : Group
  crc : Word
  partials : List Partial
  doneUnits : List (Nat × Nat)
  ovf : List Nat
  amax : Tab Word
  failed : Bool
  bad : Bool
  flaws : List ((Nat × Nat × Bool) × Nat)
deriving DecidableEq, Repr

/-- A collective packet that has arrived for a collective of this beat which has not started: port, VC, packet, and what the residue
checker reports of it (R274). -/
structure Early where
  port : Nat
  vc : Nat
  pkt : Packet
  obs : Option ResidueObs
deriving DecidableEq, Repr

/-- A collective descriptor that waits behind the one on its VC (R263), with what its start was told: whether it read an uncorrectable word,
and the residue disagreements of its first additions. -/
structure CollWait where
  desc : Desc
  bad : Bool
  adds : List AddObs
deriving DecidableEq, Repr

/-- A unit asked for again from the sending hop and not yet come (R283, R284). -/
structure UnitAsk where
  port : Nat
  desc : Nat
  chunk : Nat
  unit : Nat
  arcB : Bool
deriving DecidableEq, Repr

/-- Collectives (R261 to R288). `early` holds the packets that came before their collective, `resends` the units asked for again. -/
structure Coll where
  running : List CollS
  queue : List CollWait
  early : List Early
  resends : List UnitAsk
deriving DecidableEq, Repr

/-- A unit-history entry (R361). Hours are in 1/256 h. -/
structure UnitHist where
  cls : Nat
  unit : Nat
  ce : Nat
  err : Nat
  first : Nat
  last : Nat
  prev : Nat
  state : UnitState
  dtFail : Bool
  lastEvent : Nat
  phys : Nat
deriving DecidableEq, Repr

/-- A captured pattern (R373). -/
structure Pattern where
  cls : Nat
  unit : Nat
  opcode : Nat
  fields : List Word
  operands : List Word
  output : List Word
  hour : Nat
deriving DecidableEq, Repr

/-- What a step's traffic has put in the SHADOW region and no tick has taken over yet (R378). -/
structure ShadowWork where
  step : Nat
  epoch : Nat
  full : Bool
  digest : DWord
  base : DWord
deriving DecidableEq, Repr

/-- The head of a shadow that this device holds for another (R378); its banks and log slots lie in the SHADOW region. `size`: bytes of one
bank; `second`: the second bank is the committed one; `valid`: a full step has been committed; `logs`: the valid slots with the step each
holds; `work`: the step whose traffic has come. -/
structure Shadow where
  dev : Nat
  n : Nat
  size : Nat
  second : Bool
  valid : Bool
  work : Option ShadowWork
  logs : Tab Nat
  step : Nat
  epoch : Nat
  digest : DWord
  base : DWord
deriving DecidableEq, Repr

/-- An UPDATE of a suspect core in a failed attempt (R372): the core, the descriptor's words, the first master it updates and the x of the digests
(R221), its operands and exact results by element (hi, comp, gradient, m, v; hi, comp, m, v), and the hyperparameter row. -/
structure LocRun where
  core : Nat
  desc : Desc
  first : Nat
  x : Nat
  operands : List (List Word)
  exact : List (List Word)
  row : List Word
deriving DecidableEq, Repr

/-- Faults, unit history and recovery (R359 to R387). `swapped`: logical cores swapped to a spare for a replay, each with the
physical core it left (R370); `usedPhys`: physical cores out of service. `degraded`: the device is treated as lost for capacity it lost, until a
recipe that does without it is loaded (R24). `recov`: lost devices whose recovery
is awaited, each with the leader's choice; `restored`: those whose shadow this device has restored and not yet reported (R376, R379). `locRuns`: the
updates of the suspects, kept until localisation ends; `locRef`: the core digests they are compared with (R372). `lostNext`, `lostTick`: the device becomes LOST at the next step boundary, or
at the next tick. -/
structure Flt where
  hist : List UnitHist
  fatal : Bool
  degraded : Bool
  localising : Bool
  patterns : List Pattern
  coreMap : Tab Nat
  absent : List Nat
  usedPhys : List Nat
  suspects : List Nat
  swapped : Tab Nat
  moving : List Nat
  spareBanks : List Nat
  bankNext : List Nat
  wdHours : List Nat
  shadowCfg : Option (Nat × Nat)
  shadow : Option Shadow
  recov : Tab Recov
  restored : List Nat
  locRuns : List LocRun
  locRef : List DWord
  lastRecov : Word
  lostNext : Bool
  lostTick : Bool
  disagreed : Bool
deriving DecidableEq, Repr

/-- The whole module. `pending` is the queue of waiting commands, first in first out; `ctr` the COUNT registers keyed by
BAR0 offset; `free` the number of the next free value (the model's own field, log 6). -/
structure State where
  pending : List Instr
  ctr : Tab Word
  hif : Hif
  sbm : Sbm
  pwr : Pwr
  evt : Recorder
  sec : Sec
  ana : Ana
  cal : Cal
  mem : MemSys
  store : Store
  lnk : Lnk
  rcp : Rcp
  stp : Stp
  upd : Upd
  stk : Tab Stk
  coll : Coll
  flt : Flt
  free : Nat
deriving DecidableEq, Repr

/-- The host interface at reset: the fields of R339 and R340 at their reset values, no rail and no pass. -/
def Hif.reset : Hif :=
  { state := .boot, ready := false, mboxEn := false, arailBase := 0, arailLog2 := 4, apassBase := 0, apassLog2 := 4,
    irqStat := 0, irqMask := 0, railErr := 0, wins := [], hostLatch := [], mgmtLatch := [], rails := [], passes := [],
    turns := [], seqBusy := none, waitq := [], deleting := [], limits := [], msix := [], vecReq := [], readData := [], poisoned := false,
    perst := false, width := 16, rate := 6, held := false }

/-- The management port at reset (R435). -/
def Sbm.reset : Sbm :=
  { eid := 0, i3c := false, addr := 0, session := false, lockPower := false, lockSecurity := false, alertMask := 0,
    rspStatus := 0, rspData := [], rspBytes := [], pem := [], fwImage := [], fwDone := none }

/-- Supply and power at reset: SUPPLY = STARTING, D = 8, limit 1,200 W, WAKE_TOL 100 µs (R407 to R409). -/
def Pwr.reset : Pwr :=
  { aon := false, supply := .starting, sticky := 0, limit := 0x4B0, wakeTol := 0x64, vin := 0, pin := 0, dom := 0,
    cd0 := 0, cd1 := 0, iod := 0, inlet := 0, outlet := 0, idle := 0, pd := 8, ceil := 8,
    braced := false, duty := 8, lowDuty := 8, stretchReq := 0, therm := 0, thermLatch := false, ovLatch := false, offLatch := false,
    ovHours := [], ovWait := false, braceLow := 0, pwrgood := false, modReset := false,
    startStep := 0, startFail := none, ticksOut := 0, tickDriven := false, mgmtLimit := false }

/-- The recorder of a new module: SEQ 0, both areas empty (R416). -/
def Recorder.reset : Recorder :=
  { alarm := 0, hours := 0, savedHours := 0, pcycle := 0, seq := 0, first := [], firstFull := false, circ := [], page := [],
    aonBuf := [], aonLost := 0, sel := 0, queue := [], seen := [], storms := [], coal := [0, 0, 0, 0], drop := [0, 0, 0, 0],
    carried := false, carryBeats := 0, srcSeq := 0 }

/-- The security root of a shipped module: LOCKED, no owner, no keys, both copies of the factory release, copy A (R429, R431,
R434). -/
def Sec.reset : Sec :=
  { debug := 1, owner := none, fwB := false, failover := false, rsealed := 0, keys := [], linkKeys := [],
    copyA := { svn := Config.factorySvn, build := Config.factoryBuild, valid := true, hash := Config.factoryHash },
    copyB := { svn := Config.factorySvn, build := Config.factoryBuild, valid := true, hash := Config.factoryHash },
    rollback := Config.factorySvn, activate := false, unlockArmed := false, sealArmed := false, unlocked := false,
    unlocks := 0, wdCount := 0, bootGood := false }

/-- An array that has not been measured and holds no weights (R119, R120). Its format and epoch before the first write: W2 and 0. DESIGN
CHOICE, log 97 (R85). -/
def ArrayS.blank : ArrayS :=
  { status := 4, holds := false, fmt := 6, epoch := 0, src := [], bsplit := 0, seg := { chans := [], ents := [] },
    spares := [], spareNext := [], calEpoch := 0, tempCal := 0,
    fig := { gainErr := 0, offset := 0, detBound := 0, noise := 0 }, figOn := { gainErr := 0, offset := 0, detBound := 0, noise := 0 },
    baseline := none, chk := { n := 0, sum := 0, sq := 0, mean := 0, rms := 0 }, chkDone := [], steps := 0, tasteDue := false,
    tasteAhead := false, captured := none, tasteFails := 0, refOn := false, refNext := false, moved := none, lost := false,
    plan := none, pendSrc := [] }

/-- A core's analogue side at reset: BAND 1, nothing scrubbed, the coefficient 0.08 %/°C (R93, R140, R150). -/
def CoreS.blank : CoreS :=
  { bank := 0, writing := 0, temp := 0, tempCal := 0, band := 1, m := [24, 24, 24, 24], scrubbed := false,
    pass := [0, 0, 0, 0], calBlock := false, late := 0, ageRef := 0, ageNext := 0, lagRef := false, lagNext := false, banksDone := 0, failedOnce := [],
    noisy := 0, noisyCal := 0, coef := 80, trim := 0, runs := [], runCount := 0, gainSum := 0 }

/-- The analogue block at reset (R91, R92, R125 to R127). -/
def Ana.reset : Ana :=
  { w1lim := 0x80, w3lim := 0x7F, w2lim := 0x55, w1new := 0x80, w3new := 0x7F, w2new := 0x55, forceSplit := false,
    noSkip := false, interval := 0x1F4, intervalNew := 0x1F4, rmsMargin := 0x10, meanMargin := 0x10, sctEpoch := 0,
    coldRef := false, hotRef := false, arrays := [], cores := [], cells := [], scales := [], rem := [], parts := [],
    spillFill := [], sct := [], tasteBeats := 0 }

/-- Calibration at reset (R152 to R155). -/
def Cal.reset : Cal :=
  { trig := 8, cmdCore := 0, goCores := [], due := [], urgent := [], busy := [], rextFault := false, rext := 0,
    epochCnt := 0, vals := [], valsNext := [], uCur := [0, 0], blk := [], remap := [] }

/-- The GDDR7 subsystem at reset: not trained, patrol period 4 hours, no region (R331, R332, R334). -/
def MemSys.reset : MemSys :=
  { rate := 0, trained := 0, evac := false, hot := [], patrol := 4, patrolNew := 4, temps := [], regions := [], half1 := [],
    written := [], poison := [], tg := [], slotEpoch := [], live := [], old := [], freed := [] }

/-- A port at reset: DISABLED, with empty buffers (R312). -/
def Port.blank : Port :=
  { state := .disabled, lanes := 0, partner := 0, pport := 0, cable := false, delay := 0, sealFails := 0, sealDown := false,
    wasDown := false, downNext := false, upNext := false, laneNext := 0, laneFails := [], sent := [], txSeq := 0, blk := [], wire := [],
    plain := [], sealCount := 0, rxWant := none, credit := [], rx := [], returned := [], rr := 0 }

/-- Links, domain and beat at reset: 1 × 1 × 1, period 200 µs, no tick (R313). -/
def Lnk.reset : Lnk :=
  { ports := [], dimX := 1, dimY := 1, dimZ := 1, cx := 0, cy := 0, cz := 0, domain := false, master := 0, standby := none,
    beat := 0, period := 0xC8, stretch := 0, stretchRun := 0, flywheel := false, missed := 0, skew := 0, tickRx := none,
    merged := none, forwarded := [], reported := [], windowOpen := false, gen := 0, routes := [], genNext := none, unacked := [],
    resends := [], routed := [], out := [], acked := [], dead := [], downs := [], tables := [], late := [], silent := [] }

/-- No recipe loaded (R260). -/
def Rcp.reset : Rcp :=
  { slots := [], state := .idle, handle := 0, nextStep := 0, startNext := none, unloadAtStop := false, groups := [],
    pending := [] }

/-- No step in progress. -/
def Stp.reset : Stp :=
  { active := false, begun := false, step := 0, attempt := 0, beat := 0, held := false, halted := false, slotsOn := [],
    skipped := [], done := [], waiting := [], faulted := [], preds := 0, compares := [], causes := [], fails := [],
    lastCause := 0, replayDue := none, origins := [], replayFrom := none, commitReady := false, boundary := false, raised := [], tags := [],
    pendMb := [], mbRan := [], drops := [], offSlots := [], splits := [], reserveUsed := 0, thinMb := [], thinSegs := [], fenceWait := false,
    fenceBeats := 0, fencePassed := false, corr := [], base := [], observed := [], refAll := false, ratioParts := [], nonfin := [], layerDig := [],
    coreDig := [], grads := [], shadowSent := none, saved := none }

/-- Nothing committed: epoch, digest and EVT_UPD_STAT are zero (R225, R226). -/
def Upd.reset : Upd :=
  { epoch := 0, lastStep := 0, digest := 0, digestEpoch := 0, layerDig := [], stat := 0, shown := false }

/-- No collective. -/
def Coll.reset : Coll :=
  { running := [], queue := [], early := [], resends := [] }

/-- The fault manager of a new module: every unit CLEAN, four spare cores on each die (R361, R386). -/
def Flt.reset : Flt :=
  { hist := [], fatal := false, degraded := false, localising := false, patterns := [], coreMap := [], absent := [],
    usedPhys := [], suspects := [], swapped := [], moving := [], spareBanks := [], bankNext := [], wdHours := [],
    shadowCfg := none, shadow := none, recov := [], restored := [], locRuns := [], locRef := [], lastRecov := 0, lostNext := false, lostTick := false, disagreed := false }

/-- The module right after reset: every field at the value the spec states, or the log names. -/
def State.reset : State :=
  { pending := [], ctr := [], hif := Hif.reset, sbm := Sbm.reset, pwr := Pwr.reset, evt := Recorder.reset, sec := Sec.reset,
    ana := Ana.reset, cal := Cal.reset, mem := MemSys.reset,
    store := { lstore := [], cstore := [], gddr := [], host := [] }, lnk := Lnk.reset, rcp := Rcp.reset, stp := Stp.reset,
    upd := Upd.reset, stk := [], coll := Coll.reset, flt := Flt.reset, free := 0 }

end Sys2Proof.Machine
end

