-- ==== Sys2Proof/Machine/Ops.lean ====
section
/-! DEFINITION. The named operations over the state that the meanings share: sparse maps and memories, the COUNT registers,
the event recorder's intake, alarm and interrupt bits, completions, and the accessors of units. -/

namespace Sys2Proof.Machine

/-! ### Sparse maps -/

/-- What a map holds under a key. -/
def Tab.find {α : Type} (t : Tab α) (k : Nat) : Option α :=
  match t with
  | [] => none
  | (j, v) :: r => if j = k then some v else Tab.find r k

/-- What a map holds under a key, or the given value. -/
def Tab.get {α : Type} (t : Tab α) (k : Nat) (d : α) : α :=
  (Tab.find t k).getD d

/-- A map with one key's value set, keys rising. -/
def Tab.put {α : Type} (t : Tab α) (k : Nat) (v : α) : Tab α :=
  match t with
  | [] => [(k, v)]
  | (j, w) :: r => if j = k then (k, v) :: r else if k < j then (k, v) :: (j, w) :: r else (j, w) :: Tab.put r k v

/-- A map without a key. -/
def Tab.del {α : Type} (t : Tab α) (k : Nat) : Tab α :=
  t.filter (fun e => e.1 != k)

/-! ### Byte memories: an unlisted byte reads 0x00 (log 4) -/

/-- What an address that is not listed reads as. -/
def Mem.unlisted : Byte := 0

/-- The canonical form: addresses strictly rising, no entry equal to what an unlisted address reads as. -/
abbrev Mem.wf (m : Mem) : Prop :=
  m.Pairwise (fun x y => x.1 < y.1) ∧ ∀ c ∈ m, c.2 ≠ Mem.unlisted

/-- The byte at an address. -/
def Mem.get (m : Mem) (a : Nat) : Byte :=
  match m with
  | [] => Mem.unlisted
  | (b, v) :: r => if b = a then v else Mem.get r a

/-- The entries of a run of bytes from an address on. -/
def Mem.cells (a : Nat) (bs : List Byte) : Mem :=
  match bs with
  | [] => []
  | b :: r => if b = Mem.unlisted then Mem.cells (a + 1) r else (a, b) :: Mem.cells (a + 1) r

/-- A memory with a run of bytes written from an address on. -/
def Mem.write (m : Mem) (a : Nat) (bs : List Byte) : Mem :=
  m.filter (fun c => c.1 < a) ++ Mem.cells a bs ++ m.filter (fun c => a + bs.length ≤ c.1)

/-- The run of n bytes from address a on, the entries at or past a given in rising order. -/
def Mem.fill (a n : Nat) (m : Mem) : List Byte :=
  match n with
  | 0 => []
  | n + 1 =>
    match m with
    | [] => Mem.unlisted :: Mem.fill (a + 1) n []
    | (b, v) :: r => if b = a then v :: Mem.fill (a + 1) n r else Mem.unlisted :: Mem.fill (a + 1) n ((b, v) :: r)

/-- The n bytes from address a on. -/
def Mem.read (m : Mem) (a n : Nat) : List Byte :=
  Mem.fill a n (m.filter (fun c => a ≤ c.1 && c.1 < a + n))

/-! ### Little-endian words (R9) -/

/-- The number whose little-endian bytes are given. -/
def leNat (bs : List Byte) : Nat :=
  bs.foldr (fun b n => b.toNat + 256 * n) 0

/-- The n little-endian bytes of a number. -/
def leBytes (n v : Nat) : List Byte :=
  match n with
  | 0 => []
  | n + 1 => BitVec.ofNat 8 v :: leBytes n (v / 256)

/-- The little-endian 32-bit words of a byte string. -/
def leWords (n : Nat) (bs : List Byte) : List Word :=
  match n with
  | 0 => []
  | n + 1 => BitVec.ofNat 32 (leNat (bs.take 4)) :: leWords n (bs.drop 4)

/-- The bytes of a list of 32-bit words. -/
def wordBytes (ws : List Word) : List Byte :=
  ws.flatMap (fun w => leBytes 4 w.toNat)

/-- Bits [hi:lo] of a word as a number. -/
def fld (w : Word) (hi lo : Nat) : Nat :=
  (w.toNat / 2 ^ lo) % 2 ^ (hi - lo + 1)

/-- A number placed at bit lo of a word. -/
def at_ (v lo : Nat) : Word :=
  BitVec.ofNat 32 (v * 2 ^ lo)

/-- A flag as a number. -/
def b2n (b : Bool) : Nat :=
  if b then 1 else 0

/-- A signed value as two's complement in a word (R453). -/
def sWord (i : Int) : Word :=
  BitVec.ofInt 32 i

/-- A signed value as two's complement in a byte (R333, R409). -/
def sByte (i : Int) : Nat :=
  (BitVec.ofInt 8 i).toNat

/-- The number of bits set among the low n bits. -/
def popCount (n v : Nat) : Nat :=
  match n with
  | 0 => 0
  | n + 1 => v % 2 + popCount n (v / 2)

/-- a / b rounded up. -/
def cdiv (a b : Nat) : Nat :=
  (a + b - 1) / b

/-! ### CRC-32 (R144) -/

/-- CRC-32 of IEEE 802.3, one bit at a time (R144). -/
def crcBits (k : Nat) (c : BitVec 32) : BitVec 32 :=
  match k with
  | 0 => c
  | k + 1 => crcBits k (if c.getLsbD 0 then (c >>> 1) ^^^ 0xEDB88320 else c >>> 1)

/-- CRC-32 of a byte string (R144). -/
def crc32 (bs : List Byte) : Word :=
  bs.foldl (fun c b => crcBits 8 (c ^^^ b.setWidth 32)) 0xFFFFFFFF ^^^ 0xFFFFFFFF

/-! ### COUNT registers: BAR0 offsets (R337), the two SBM_ counters beyond the host's view -/

/-- A COUNT register's value. -/
def State.ctrGet (s : State) (off : Nat) : Word :=
  Tab.get s.ctr off 0

/-- The value a COUNT register holds after n more events: it holds at 0xFFFF_FFFF (R65). -/
def satAdd (w : Word) (n : Nat) : Word :=
  BitVec.ofNat 32 (min 0xFFFF_FFFF (w.toNat + n))

/-- n events counted in a COUNT register (R65, R90, R124). -/
def State.count (s : State) (off n : Nat) : State :=
  if n = 0 then s else { s with ctr := Tab.put s.ctr off (satAdd (s.ctrGet off) n) }

/-- EVT_NUM_ block (R64, R337). -/
def cQ8Sat : Nat := 0x400
def cL8Sat : Nat := 0x404
def cT16Ovf : Nat := 0x408
def cFlush : Nat := 0x40C
def cWSat : Nat := 0x410
def cUfBlk : Nat := 0x414
def cSOvf : Nat := 0x418
def cNan : Nat := 0x41C
/-- EVT_ENG_ block (R179). -/
def cLsStall : Nat := 0x440
def cStoreCe : Nat := 0x444
def cStoreUe : Nat := 0x448
def cIdxOor : Nat := 0x44C
def cRouteDropEng : Nat := 0x450
/-- EVT_STK_ block (R202). -/
def cStkThin : Nat := 0x460
def cStkRecomp : Nat := 0x464
def cStkSplit : Nat := 0x468
def cStkFence : Nat := 0x46C
def cStkPopWait : Nat := 0x470
/-- EVT_UPD_ block (R224). -/
def cUpdReplay : Nat := 0x480
def cUpdScorr : Nat := 0x484
def cUpdNonfin : Nat := 0x488
def cUpdRatio : Nat := 0x48C
/-- EVT_RCP_ block (R259). -/
def cSlotLate : Nat := 0x4C0
def cPredSkip : Nat := 0x4C4
def cRefused : Nat := 0x4C8
/-- EVT_COL_ block (R287). -/
def cResidue : Nat := 0x4E0
def cAdderQuar : Nat := 0x4E4
def cColResend : Nat := 0x4E8
def cOvfBlk : Nat := 0x4EC
def cStale : Nat := 0x4F0
/-- ANA_ counters (R89, R123, R149). -/
def cConv : Nat := 0x1000
def cSkipPlane : Nat := 0x1004
def cSkipVec : Nat := 0x1008
def cSplit : Nat := 0x100C
def cBSplit : Nat := 0x1010
def cClamp : Nat := 0x1014
def cOutlSpill : Nat := 0x1300
def cOutlDrop : Nat := 0x1304
def cChkWin : Nat := 0x1308
def cChkFail : Nat := 0x130C
def cTaste : Nat := 0x1310
def cTasteFail : Nat := 0x1314
def cRefVec : Nat := 0x1318
def cScrubPass : Nat := 0x1340
def cScrubFix : Nat := 0x1344
def cScrubLate : Nat := 0x1348
def cRowRemap : Nat := 0x134C
def cRowRetire : Nat := 0x1350
/-- CAL_ counters (R156). -/
def cCalRun : Nat := 0x1840
def cCalFail : Nat := 0x1844
def cCalBlkBad : Nat := 0x1848
/-- MEM_ counters (R330, R335). -/
def cMemCe : Nat := 0x2010
def cMemUe : Nat := 0x2014
def cMemShort : Nat := 0x2018
def cMemRmw : Nat := 0x201C
def cPatrolFix : Nat := 0x2020
def cTgErr (d : Nat) : Nat := 0x2408 + 16 * d
/-- LNK_ counters (R314). -/
def cFecCorr : Nat := 0x3060
def cFecUncorr : Nat := 0x3064
def cRetry : Nat := 0x3068
def cLaneDrop : Nat := 0x306C
def cSealFail : Nat := 0x3070
def cStretch : Nat := 0x3074
def cOverrun : Nat := 0x3078
def cRouteDrop : Nat := 0x307C
/-- PWR_ counters (R406). -/
def cBrace : Nat := 0x4030
def cHold : Nat := 0x4034
def cDutyBeats : Nat := 0x4038
/-- Recorder counters (R433). -/
def cRecDrop : Nat := 0x5070
def cRecCoal : Nat := 0x5074
/-- FLT_ counters (R385). -/
def cTrans : Nat := 0x7010
def cPerm : Nat := 0x7014
def cDigest : Nat := 0x7018
def cDigestMis : Nat := 0x701C
def cLocalise : Nat := 0x7020
def cRecovery : Nat := 0x7024
def cHistLost : Nat := 0x7028
/-- HIF_BAD_ACC_CNT (R340). -/
def cBadAcc : Nat := 0x40
/-- SBM_DROP_CNT and SBM_BAD_ACC_CNT, at 0x00C and 0x010 of the management port's view (R435). -/
def cSbmDrop : Nat := 0x1000C
def cSbmBadAcc : Nat := 0x10010

/-! ### Interrupts and alarms -/

/-- A vector's message requested (R340, R348). Key 100 counts the SMBus alerts and I3C in-band interrupts of R415. -/
def State.msi (s : State) (v : Nat) : State :=
  { s with hif := { s.hif with vecReq := Tab.put s.hif.vecReq v (Tab.get s.hif.vecReq v 0 + 1) } }

/-- Hardware sets bit i of HIF_IRQ_STAT: vector 0 is requested when the bit becomes 1 unmasked and no unmasked bit was 1
(R340). -/
def State.setIrq (s : State) (i : Nat) : State :=
  let st := s.hif.irqStat
  let new : BitVec 4 := st ||| BitVec.ofNat 4 (2 ^ i)
  let s1 := { s with hif := { s.hif with irqStat := new } }
  if st.getLsbD i || s.hif.irqMask.getLsbD i || (st &&& ~~~s.hif.irqMask) != 0 then s1 else s1.msi 0

/-- What setting a bit of EVT_ALARM (mask bit c) or PWR_STICKY (mask bit 14 + i) does (R415): ALARM in HIF_IRQ_STAT, and the
management alert unless SBM_ALERT_MASK masks it. -/
def State.alert (s : State) (maskBit : Nat) : State :=
  let s1 := s.setIrq 0
  if s.sbm.alertMask.getLsbD maskBit then s1 else s1.msi 100

/-- Hardware sets bit i of PWR_STICKY (R408). -/
def State.setSticky (s : State) (i : Nat) : State :=
  if s.pwr.sticky.getLsbD i then s
  else ({ s with pwr := { s.pwr with sticky := s.pwr.sticky ||| BitVec.ofNat 10 (2 ^ i) } }).alert (14 + i)

/-- Hardware sets the EVT_ALARM bit of an event class (R415). -/
def State.setAlarm (s : State) (cls : Nat) : State :=
  if s.evt.alarm.getLsbD cls then s
  else ({ s with evt := { s.evt with alarm := s.evt.alarm ||| BitVec.ofNat 14 (2 ^ cls) } }).alert cls

/-! ### Events (R18, R31, R310, R416 to R425, R453) -/

/-- The priority of an event code (R423): 0 ALARM, 1 ERROR, 2 WARNING, 3 INFO. -/
def prioOf (code : Nat) : Nat :=
  if [0x1003, 0x1005, 0x1008, 0x2002, 0x2005, 0x2006, 0x3008, 0x6003, 0xA002, 0xA003, 0xA004, 0xA005, 0xB002, 0xB004,
      0xB00A, 0xB00B].contains code then 0
  else if [0x3005, 0x3006, 0x4005, 0x4006, 0x4007, 0x5001, 0x5101, 0x6001, 0x6007, 0x6009, 0x7001, 0x7003, 0x7004, 0x8002,
      0x8004, 0x8006, 0x9102, 0x9103, 0xB001, 0xB008, 0xB009, 0xC002].contains code then 1
  else if [0x1007, 0x3001, 0x3007, 0x4001, 0x4002, 0x6005, 0x600A, 0x8001, 0x8003, 0x8005, 0xB007, 0xC001,
      0xD003].contains code then 3
  else 2

/-- The beat number when there is no beat: all ones (R420). -/
def noBeat : Nat := 2 ^ 48 - 1

/-- This device's number (R25). -/
def State.device (s : State) : Nat :=
  s.lnk.cx + 16 * s.lnk.cy + 128 * s.lnk.cz

/-- The beat an event is stamped with: the beat in progress, or the next once its window has closed (R304); none before the
domain's first tick or while the main rails are off (R419). -/
def State.stampBeat (s : State) : Nat :=
  if s.lnk.domain && s.pwr.pwrgood && s.pwr.tickDriven then (if s.lnk.windowOpen then s.lnk.beat else s.lnk.beat + 1) % 2 ^ 48 else noBeat

/-- A record of an event of this device, not yet numbered (R420). -/
def State.mkRecord (s : State) (code : Nat) (payload : List Word) : Record :=
  { seq := 0, code := code, prio := prioOf code, storm := false, relay := false, device := s.device, hours := s.evt.hours,
    srcSeq := s.evt.srcSeq, pcycle := s.evt.pcycle, beat := s.stampBeat, payload := payload }

/-- One more event in the four counts by priority. -/
def bumpPrio (l : List Nat) (p n : Nat) : List Nat :=
  l.set p (l.getD p 0 + n)

/-- An event counted into the storm record of its code and unit, opened with the event's stamp if there is none (R424). -/
def addStorm (l : List Storm) (r : Record) (unit : Nat) : List Storm :=
  match l with
  | [] => [{ first := r, unit := unit, count := 1, last := r.srcSeq }]
  | t :: rest =>
    if t.first.code = r.code ∧ t.unit = unit then { t with count := t.count + 1, last := r.srcSeq } :: rest
    else t :: addStorm rest r unit

/-- Events of a code and unit seen in this beat. -/
def seenOf (l : List ((Nat × Nat) × Nat)) (k : Nat × Nat) : Nat :=
  ((l.find? (fun e => e.1 == k)).map (·.2)).getD 0

/-- One more event of a code and unit in this beat. -/
def bumpSeen (l : List ((Nat × Nat) × Nat)) (k : Nat × Nat) : List ((Nat × Nat) × Nat) :=
  if l.any (fun e => e.1 == k) then l.map (fun e => if e.1 == k then (e.1, e.2 + 1) else e) else l ++ [(k, 1)]

/-- What the recorder's intake does with an event (R424). -/
inductive Intake where
  | keep
  | coalesce
  | drop
  | overflow
deriving DecidableEq, Repr

/-- The fixed order of R424: coalescing after eight; dropping of INFO above 768 and of WARNING above 921 queued records, and of a source
sequence past 65,535; overflow of a full queue. -/
def intakeOf (e : Recorder) (code prio unit : Nat) : Intake :=
  if 8 ≤ seenOf e.seen (code, unit) then .coalesce
  else if 65535 < e.srcSeq then .drop
  else if prio = 3 ∧ 768 < e.queue.length then .drop
  else if prio = 2 ∧ 921 < e.queue.length then .drop
  else if 1024 ≤ e.queue.length then .overflow
  else .keep

/-- The recorder after the intake of one record (R424). -/
def Recorder.take (e : Recorder) (r : Record) (unit : Nat) : Recorder :=
  let e1 := { e with srcSeq := e.srcSeq + 1, seen := bumpSeen e.seen (r.code, unit) }
  match intakeOf e r.code r.prio unit with
  | .keep => { e1 with queue := e.queue ++ [r] }
  | .coalesce => { e1 with storms := addStorm e.storms r unit, coal := bumpPrio e.coal r.prio 1 }
  | .drop => { e1 with drop := bumpPrio e.drop r.prio 1 }
  | .overflow => { e1 with storms := addStorm e.storms r unit, drop := bumpPrio e.drop r.prio 1 }

/-- The always-on domain's own record while the main rails are off: a full buffer keeps its first 255 and overwrites the last,
counting what is lost in the last record's W15 (R419, R453). -/
def Recorder.takeAon (e : Recorder) (r : Record) : Recorder :=
  let e1 := { e with srcSeq := e.srcSeq + 1 }
  if e.aonBuf.length < 256 then { e1 with aonBuf := e.aonBuf ++ [r] }
  else { e1 with aonBuf := e.aonBuf.take 255 ++ [r], aonLost := e.aonLost + 1 }

/-- A record taken in for a unit (0 where the code has none): the alarm bit of an ALARM event (R415), then the record, to the
recorder's queue or, with the main rails off, to the always-on buffer. -/
def State.record (s : State) (r : Record) (unit : Nat) : State :=
  let code := r.code
  let s1 := if prioOf code = 0 then s.setAlarm (code / 4096) else s
  if s.pwr.pwrgood then
    let s2 := { s1 with evt := s1.evt.take r unit }
    match intakeOf s.evt code (prioOf code) unit with
    | .keep => s2
    | .coalesce => s2.count cRecCoal 1
    | .drop => s2.count cRecDrop 1
    | .overflow => s2.count cRecDrop 1
  else if s.pwr.aon then { s1 with evt := s1.evt.takeAon r }
  else s1

/-- An event raised for a unit. -/
def State.raiseU (s : State) (code unit : Nat) (payload : List Word) : State :=
  s.record (s.mkRecord code payload) unit

/-- An event raised for the device as a whole. -/
def State.raise (s : State) (code : Nat) (payload : List Word) : State :=
  s.raiseU code 0 payload

/-- A number as a payload word. -/
def wd (n : Nat) : Word := BitVec.ofNat 32 n

/-- The words of an origin's stamp in a relayed record (R453). -/
def stampWords (t : Stamp) : List Word :=
  [wd t.beat, wd (t.dev % 1024 * 2 ^ 16 + t.beat / 2 ^ 32 % 65536), wd (t.seq % 65536)]

/-- An event raised on a cause: one that another device raised is relayed with its stamp (R310). -/
def State.raiseFor (s : State) (o : Option Stamp) (code : Nat) (payload : List Word) : State :=
  match o with
  | none => s.raise code payload
  | some t => s.record { s.mkRecord code (stampWords t ++ payload) with relay := true } 0

/-- An event raised at most once for a key in a step attempt (R61, R66, R81, R106, R210). -/
def State.raiseOnce (s : State) (code key unit : Nat) (payload : List Word) : State :=
  if s.stp.raised.contains (code, key) then s
  else ({ s with stp := { s.stp with raised := (code, key) :: s.stp.raised } }).raiseU code unit payload


/-! ### Units of State -/

/-- Array a of the device (R22). -/
def State.array (s : State) (a : Nat) : ArrayS :=
  Tab.get s.ana.arrays a ArrayS.blank

/-- Array a replaced. -/
def State.setArray (s : State) (a : Nat) (x : ArrayS) : State :=
  { s with ana := { s.ana with arrays := Tab.put s.ana.arrays a x } }

/-- Logical core c's analogue side. -/
def State.core (s : State) (c : Nat) : CoreS :=
  Tab.get s.ana.cores c CoreS.blank

/-- Logical core c's analogue side replaced. -/
def State.setCore (s : State) (c : Nat) (x : CoreS) : State :=
  { s with ana := { s.ana with cores := Tab.put s.ana.cores c x } }

/-- Link port p. -/
def State.port (s : State) (p : Nat) : Port :=
  Tab.get s.lnk.ports p Port.blank

/-- Link port p replaced. -/
def State.setPort (s : State) (p : Nat) (x : Port) : State :=
  { s with lnk := { s.lnk with ports := Tab.put s.lnk.ports p x } }

/-- Region r, when allocated. -/
def State.region (s : State) (r : Nat) : Option Region :=
  Tab.find s.mem.regions r

/-- The recipe in slot h of region 63. -/
def State.recipe (s : State) (h : Nat) : Option Recipe :=
  Tab.find s.rcp.slots h

/-- The recipe that is RUNNING or STOPPING (R260). -/
def State.runningRecipe (s : State) : Option Recipe :=
  match s.rcp.state with
  | .running => s.recipe s.rcp.handle
  | .stopping => s.recipe s.rcp.handle
  | .idle => none
  | .failed => none

/-- The state code of HIF_STAT (R350). -/
def DevState.code (d : DevState) : Nat :=
  match d with
  | .boot => 0
  | .ready => 1
  | .running => 2
  | .test => 3
  | .idle => 4
  | .lost => 5
  | .fault => 6

/-- Whether READY is asserted in a state (R440). -/
def DevState.isReady (d : DevState) : Bool :=
  match d with
  | .ready => true
  | .running => true
  | .test => true
  | .idle => true
  | .boot => false
  | .lost => false
  | .fault => false

/-- STATE changes: READY follows (R440) and STATE_CHANGE is set in HIF_IRQ_STAT (R340); outside TEST, ANA_CTL reads zero and
the traffic generators are stopped (R92, R328). -/
def State.setState (s : State) (d : DevState) : State :=
  if s.hif.state = d then s
  else ({ s with hif := { s.hif with state := d, ready := d.isReady },
                 ana := { s.ana with forceSplit := false, noSkip := false },
                 mem := { s.mem with
                   tg := s.mem.tg.map (fun (e : Nat × TrafficGen) => (e.1, { e.2 with go := false, stop := false })) } }).setIrq 1

/-- The STATE in which a device that is not testing, idle, lost or failed stands: RUNNING while a recipe is RUNNING or
STOPPING (R350). -/
def State.settle (s : State) : State :=
  match s.rcp.state with
  | .running => s.setState .running
  | .stopping => s.setState .running
  | .idle => s.setState .ready
  | .failed => s.setState .ready

/-- Whether the window of the beat has closed: what is raised from there on counts as raised after the closing tick (R304). -/
def State.afterClose (s : State) : Bool :=
  s.pwr.tickDriven && !s.lnk.windowOpen

/-- The stamp of the event raised last (R31, R310). -/
def State.lastStamp (s : State) : Stamp :=
  { beat := s.stampBeat, dev := s.device, seq := s.evt.srcSeq - 1 }

/-- A cause kept for the attempt that is in progress after the tick, or the next one of the recipe that runs (R215, R304). -/
def State.keepLate (s : State) (x : Bool × Nat × Stamp) : State :=
  if s.runningRecipe.isNone || s.lnk.late.any (fun y => y.1 == x.1 && y.2.1 == x.2.1) then s
  else { s with lnk := { s.lnk with late := s.lnk.late ++ [x] } }

/-- A replay cause of R215 whose event has a stamp, in the attempt in progress. -/
def State.causeAt (s : State) (c : Nat) (t : Stamp) : State :=
  if s.afterClose || !s.stp.active then s.keepLate (false, c, t)
  else if !s.stp.causes.contains c then
    { s with stp := { s.stp with causes := c :: s.stp.causes, origins := Tab.put s.stp.origins c t } }
  else s

/-- A replay cause of R215, raised by the event recorded last. -/
def State.cause (s : State) (c : Nat) : State :=
  s.causeAt c s.lastStamp

/-- A cause of R225 that ends the step without commit and without replay (R210, R256, R274). -/
def State.fail (s : State) (c : Nat) : State :=
  if s.afterClose || !s.stp.active then s.keepLate (true, c, s.lastStamp)
  else if !s.stp.fails.contains c then { s with stp := { s.stp with fails := c :: s.stp.fails } } else s

/-- A number put among those of a list, once. -/
def addOnce (l : List Nat) (n : Nat) : List Nat :=
  if l.contains n then l else l ++ [n]

/-- The next free value's number taken (log 6). -/
def State.draw (s : State) (n : Nat) : State :=
  { s with free := s.free + n }

/-! ### Host memory and completions -/

/-- Bytes split over the segments of a ticket's list, in order (R349). -/
def spread (segs : List SglEntry) (bs : List Byte) (m : Mem) : Mem :=
  match segs with
  | [] => m
  | g :: r => spread r (bs.drop g.len) (Mem.write m g.addr (bs.take g.len))

/-- The device writes bytes to a ticket's buffer (R349). -/
def State.toHost (s : State) (t : Ticket) (bs : List Byte) : State :=
  { s with store := { s.store with
      host := if t.sgl then spread t.segs bs s.store.host else Mem.write s.store.host t.addr.toNat bs } }

/-- A ticket's completion, placed behind those its pass still has to write; dropped when its rail is gone (R347, R353). It no
longer counts as in flight on its rail. -/
def State.post (s : State) (op : Half) (t : Ticket) (status : Nat) (res : List Word) : State :=
  match Tab.find s.hif.rails t.rail with
  | none => s
  | some r =>
    let r' := { r with inflight := r.inflight.filter (fun x => !(x.id == t.slot && x.op == op)) }
    let s1 := { s with hif := { s.hif with rails := Tab.put s.hif.rails t.rail r' } }
    match Tab.find s1.hif.passes r.pass with
    | none => s1
    | some p =>
      let c : Completion := { rail := t.rail, head := r.head, tag := t.tag, status := BitVec.ofNat 16 status, res := res, quiet := t.quiet }
      { s1 with hif := { s1.hif with passes := Tab.put s1.hif.passes r.pass { p with waiting := p.waiting ++ [c] } } }

/-- STATUS values (R354). -/
def stSuccess : Nat := 0x0
def stBadOpcode : Nat := 0x1
def stBadParam : Nat := 0x2
def stBadState : Nat := 0x3
def stNoResource : Nat := 0x4
def stDenied : Nat := 0x5
def stRefused : Nat := 0x6
def stStepFailed : Nat := 0x7
def stAborted : Nat := 0x8
def stHostFault : Nat := 0x9
def stDeviceFault : Nat := 0xA
def stBadCheckpoint : Nat := 0xB

/-- Parameter word Pi of a ticket (R349). -/
def par (t : Ticket) (i : Nat) : Nat :=
  (t.p.getD i 0).toNat

/-- The committed epoch as results, low word first. -/
def State.epochWord (s : State) : Word :=
  wd s.upd.epoch

end Sys2Proof.Machine
end

