-- ==== Sys2Proof/Machine/Flags.lean ====
section
/-! DEFINITION. What a computation leaves in the numeric counters and events (R64 to R66), and the status registers whose bits
are computed from the rest of the state. -/

namespace Sys2Proof.Machine

/-- The numeric events one descriptor's arithmetic met: one count for each counter of R64, and whether it produced a canonical
NaN or met an invalid scale or exponent (R66). -/
structure NumFx where
  q8sat : Nat
  l8sat : Nat
  t16ovf : Nat
  flush : Nat
  wsat : Nat
  ufblk : Nat
  sovf : Nat
  nan : Nat
  nanRes : Bool
deriving DecidableEq, Repr

/-- No numeric event. -/
def fx0 : NumFx :=
  { q8sat := 0, l8sat := 0, t16ovf := 0, flush := 0, wsat := 0, ufblk := 0, sovf := 0, nan := 0, nanRes := false }

/-- Arithmetic that gathers its numeric events. -/
abbrev Nm (α : Type) := StateM NumFx α

/-- A finite overflow into T16 (R41). -/
def Nm.t16ovf : Nm Unit := modify (fun f => { f with t16ovf := f.t16ovf + 1 })
/-- A result flushed to zero (R43). -/
def Nm.flush : Nm Unit := modify (fun f => { f with flush := f.flush + 1 })
/-- A canonical NaN produced (R66). -/
def Nm.nanRes : Nm Unit := modify (fun f => { f with nanRes := true })
/-- A NaN met by a narrow format, or an invalid scale or exponent (R64). -/
def Nm.nan : Nm Unit := modify (fun f => { f with nan := f.nan + 1 })
/-- An invalid scale or exponent: counted, and a NAN_RESULT (R50, R52, R66). -/
def Nm.invalid : Nm Unit := modify (fun f => { f with nan := f.nan + 1, nanRes := true })
/-- A Q8 saturation (R57). -/
def Nm.q8sat : Nm Unit := modify (fun f => { f with q8sat := f.q8sat + 1 })
/-- An L8 saturation (R58). -/
def Nm.l8sat : Nm Unit := modify (fun f => { f with l8sat := f.l8sat + 1 })
/-- A saturated weight code (R56). -/
def Nm.wsat : Nm Unit := modify (fun f => { f with wsat := f.wsat + 1 })
/-- An underflow block (R60). -/
def Nm.ufblk : Nm Unit := modify (fun f => { f with ufblk := f.ufblk + 1 })
/-- A block saturated entirely (R61). -/
def Nm.sovf : Nm Unit := modify (fun f => { f with sovf := f.sovf + 1 })

/-- The numeric counters after a computation (R64). -/
def State.applyCounts (s : State) (f : NumFx) : State :=
  (((((((s.count cQ8Sat f.q8sat).count cL8Sat f.l8sat).count cT16Ovf f.t16ovf).count cFlush f.flush).count cWSat
    f.wsat).count cUfBlk f.ufblk).count cSOvf f.sovf).count cNan f.nan

/-- The numeric counters and NAN_RESULT (0x4004), once per descriptor per step attempt (R64, R66). -/
def State.applyFx (s : State) (f : NumFx) (desc : Nat) : State :=
  let s1 := s.applyCounts f
  if f.nanRes then s1.raiseOnce 0x4004 desc 0 [wd desc] else s1

/-! ### Outputs of J2 (R440, R441) -/

/-- The level of an output: driven high, driven low, or high-impedance. -/
inductive Level where
  | high
  | low
  | hiZ
deriving DecidableEq, Repr

/-- A tri-state output: high while asserted, else high-impedance (R440). -/
def triState (b : Bool) : Level :=
  if b then .high else .hiZ

/-- An open-drain output: low while asserted, else high-impedance (R440). -/
def openDrain (b : Bool) : Level :=
  if b then .low else .hiZ

/-- The main-side outputs drive only with the main rails up and MOD_RESET_N high (R441). -/
def State.mainDrives (s : State) : Bool :=
  s.pwr.aon && s.pwr.pwrgood && !s.pwr.modReset

/-- READY (R440). -/
def State.pinReady (s : State) : Level :=
  triState (s.mainDrives && s.hif.ready)

/-- PWRGOOD (R440). -/
def State.pinPwrgood (s : State) : Level :=
  triState s.mainDrives

/-- ALERT_N: any bit of EVT_ALARM or PWR_STICKY (R415, R440). -/
def State.pinAlertN (s : State) : Level :=
  openDrain (s.pwr.aon && !s.pwr.modReset && (s.evt.alarm != 0 || s.pwr.sticky != 0))

/-- The unmasked bits of EVT_ALARM and PWR_STICKY (R435). -/
def State.unmaskedAlert (s : State) : Bool :=
  (s.evt.alarm &&& ~~~(s.sbm.alertMask.setWidth 14)) != 0
    || (s.pwr.sticky &&& ~~~((s.sbm.alertMask >>> 14).setWidth 10)) != 0

/-- MGMT_ALERT_N: an unmasked bit, in SMBus mode (R437, R440). -/
def State.pinMgmtAlertN (s : State) : Level :=
  openDrain (s.pwr.aon && !s.pwr.modReset && !s.sbm.i3c && s.unmaskedAlert)

/-- THERM_N: the die level is CRITICAL, or the latch of R403 holds (R440). -/
def State.pinThermN (s : State) : Level :=
  openDrain (s.pwr.aon && !s.pwr.modReset && (s.pwr.therm == 4 || s.pwr.thermLatch))

/-- FAULT_N: STATE is FAULT, or start-up has stopped (R440). -/
def State.pinFaultN (s : State) : Level :=
  openDrain (s.pwr.aon && !s.pwr.modReset && ((s.pwr.pwrgood && s.hif.state == .fault) || s.pwr.startFail.isSome))

/-- TICK_OUT between pulses: high-impedance until the first tick after DOMAIN_SET, then driven low (R440). -/
def State.pinTickOut (s : State) : Level :=
  if s.mainDrives && s.pwr.tickDriven then .low else .hiZ

/-! ### Duty (R399) -/

/-- D: the least of the power value, the thermal ceiling, and 1 while braced at a level that draws more than 450 W (R392,
R399). -/
def State.dutyNow (s : State) : Nat :=
  min (min s.pwr.pd s.pwr.ceil) (if s.pwr.braced && s.pwr.idle < 3 then 1 else 8)

/-- D recomputed where it may only fall: inside a beat (R399). -/
def State.dutyFall (s : State) : State :=
  let d := min s.pwr.duty s.dutyNow
  { s with pwr := { s.pwr with duty := d, lowDuty := min s.pwr.lowDuty d } }

/-- D recomputed at a tick, where it may also rise (R399). -/
def State.dutyTick (s : State) : State :=
  let d := s.dutyNow
  { s with pwr := { s.pwr with duty := d, lowDuty := d } }

/-- The stretch asked for at a duty: min(8, ceil(8 × (8 − D) / D)) (R399). -/
def dutyStretch (d : Nat) : Nat :=
  if d < 8 then min 8 (cdiv (8 * (8 - d)) (max d 1)) else 0

end Sys2Proof.Machine
end

