-- ==== Sys2Proof/Machine/Float.lean ====
section
/-! DEFINITION. T32, T32C, T16 and FP16 arithmetic to the bit (R36 to R47, R54, R55): values are unpacked exactly, computed
exactly over the integers and rounded once. -/

namespace Sys2Proof.Machine

/-- A floating-point value read exactly: (−1)^neg × m × 2^e for a finite non-zero value (R37). -/
inductive FVal where
  | nan
  | inf (neg : Bool)
  | zero (neg : Bool)
  | fin (neg : Bool) (m : Nat) (e : Int)
deriving DecidableEq, Repr

/-- How a descriptor computes: Legacy numerics mode of its recipe (R42) and its SAT flag (R41). -/
structure FMode where
  legacy : Bool
  sat : Bool
deriving DecidableEq, Repr

/-- The encoding fields of a format with f fraction bits and bias b, read under R37; a subnormal reads as zero unless `sub`
(R42, R43). -/
def unpackWith (sub neg : Bool) (ex fr f maxEx : Nat) (bias : Int) : FVal :=
  if ex = maxEx then (if fr = 0 then .inf neg else .nan)
  else if ex = 0 then (if fr = 0 || !sub then .zero neg else .fin neg fr (1 - bias - f))
  else .fin neg (2 ^ f + fr) ((ex : Int) - bias - f)

/-- A T32 operand (R36, R43). -/
def unpack32 (legacy : Bool) (w : Word) : FVal :=
  unpackWith legacy (w.getLsbD 31) (fld w 30 23) (fld w 22 0) 23 255 127

/-- A T16 operand (R36, R43). -/
def unpack16 (legacy : Bool) (h : Half) : FVal :=
  unpackWith legacy (h.getLsbD 15) (h.toNat / 128 % 256) (h.toNat % 128) 7 255 127

/-- An FP16 value; its subnormals are always read (R44). -/
def unpackFp16 (h : Half) : FVal :=
  unpackWith true (h.getLsbD 15) (h.toNat / 1024 % 32) (h.toNat % 1024) 10 31 15

/-- A T32C value (R45): comp extends the significand by 16 bits. -/
def unpack32c (legacy : Bool) (hi : Word) (comp : Half) : FVal :=
  match unpack32 legacy hi with
  | .fin neg m e => .fin neg (m * 65536 + comp.toNat) (e - 16)
  | v => v

/-- The value rounded to p bits, ties to even, at its own exponent or, in Legacy numerics mode, no finer than the subnormal
grid; `sticky` says that a non-zero tail lies below the bits of m (R39, R42, R43). The result is a significand and the exponent
of its last bit. -/
def roundBits (p : Nat) (legacy : Bool) (m : Nat) (e : Int) (sticky : Bool) : Nat × Int :=
  let top : Int := e + Nat.log2 m
  let q0 : Int := top - (p - 1 : Nat)
  let q : Int := if legacy then max q0 (-126 - (p - 1 : Nat)) else q0
  if q ≤ e then (m * 2 ^ (e - q).toNat, q)
  else
    let sh := (q - e).toNat
    let mq := m / 2 ^ sh
    let rem := m % 2 ^ sh
    let half := 2 ^ (sh - 1)
    let up := half < rem || (rem == half && (sticky || mq % 2 == 1))
    (if up then mq + 1 else mq, q)

/-- The largest finite magnitude of a format of p bits: (2^p − 1) × 2^(128 − p). -/
def maxFin (p : Nat) (neg : Bool) : FVal :=
  .fin neg (2 ^ p - 1) (128 - (p : Int))

/-- A rounded significand placed in the exponent range −126 to 127: overflow under R41, flush under R43. `wide` is a T16
result, whose finite overflows are counted. -/
def placeIn (p : Nat) (md : FMode) (wide neg : Bool) (m : Nat) (q : Int) : Nm FVal := do
  if m = 0 then return .zero neg
  let top : Int := q + Nat.log2 m
  if 127 < top then
    if wide then Nm.t16ovf
    return if md.sat then maxFin p neg else .inf neg
  else if top < -126 && !md.legacy then
    Nm.flush
    return .zero neg
  else return .fin neg m q

/-- An exact value rounded once to p bits, to nearest, ties to even (R39). -/
def roundTo (p : Nat) (md : FMode) (wide : Bool) (v : FVal) (sticky : Bool) : Nm FVal :=
  match v with
  | .fin neg m e =>
    let r := roundBits p md.legacy m e sticky
    placeIn p md wide neg r.1 r.2
  | v => return v

/-- The T32 encoding of a value that fits it; every NaN is the canonical NaN (R36, R38). -/
def pack32 (v : FVal) : Word :=
  match v with
  | .nan => 0x7FC00000
  | .inf neg => if neg then 0xFF800000 else 0x7F800000
  | .zero neg => if neg then 0x80000000 else 0
  | .fin neg m e =>
    let up := 23 - Nat.log2 m
    let m' := if 23 < Nat.log2 m then m / 2 ^ (Nat.log2 m - 23) else m * 2 ^ up
    let ex : Int := e + Nat.log2 m + 127
    let body := if ex ≤ 0 then (m * 2 ^ (e + 149).toNat) else ex.toNat * 2 ^ 23 + (m' - 2 ^ 23)
    BitVec.ofNat 32 (body + if neg then 2 ^ 31 else 0)

/-- The T16 encoding of a value that fits it (R36, R38). -/
def pack16 (v : FVal) : Half :=
  (pack32 v >>> 16).setWidth 16

/-- The T32C encoding of a value of at most 40 significant bits: hi truncated toward zero, comp the 16 bits removed (R46). -/
def pack32c (v : FVal) : Word × Half :=
  match v with
  | .fin neg m e =>
    let l := Nat.log2 m
    let q : Int := max (e + l - 39) (-165)
    let g := if q ≤ e then m * 2 ^ (e - q).toNat else m / 2 ^ (q - e).toNat
    let hiM := g / 65536
    (if hiM = 0 then (if neg then 0x80000000 else 0) else pack32 (.fin neg hiM (q + 16)),
      if hiM = 0 then 0 else BitVec.ofNat 16 (g % 65536))
  | v => (pack32 v, 0)

/-- A result in T32, noting a NaN produced (R66). -/
def out32 (v : FVal) : Nm Word := do
  if v = .nan then Nm.nanRes
  return pack32 v

/-! ### Exact operations -/

/-- The value negated. -/
def FVal.neg (v : FVal) : FVal :=
  match v with
  | .nan => .nan
  | .inf n => .inf !n
  | .zero n => .zero !n
  | .fin n m e => .fin (!n) m e

/-- The sign of a value; NaN counts as positive. -/
def FVal.sign (v : FVal) : Bool :=
  match v with
  | .nan => false
  | .inf n => n
  | .zero n => n
  | .fin n _ _ => n

/-- The magnitude of a value. -/
def FVal.abs (v : FVal) : FVal :=
  if v.sign then v.neg else v

/-- A signed significand. -/
def sgnInt (neg : Bool) (m : Nat) : Int :=
  if neg then -(m : Int) else m

/-- An exact dyadic number i × 2^e as a value; an exact zero takes the given sign. -/
def ofDyadic (zeroNeg : Bool) (i : Int) (e : Int) : FVal :=
  if i = 0 then .zero zeroNeg else .fin (decide (i < 0)) i.natAbs e

/-- The exact sum with IEEE special values: x + (−x) is +0, (−0) + (−0) is −0 (R39). -/
def FVal.add (x y : FVal) : FVal :=
  match x, y with
  | .nan, _ => .nan
  | _, .nan => .nan
  | .inf a, .inf b => if a = b then .inf a else .nan
  | .inf a, _ => .inf a
  | _, .inf b => .inf b
  | .zero a, .zero b => .zero (a && b)
  | .zero _, v => v
  | v, .zero _ => v
  | .fin a m e, .fin b n f =>
    let g := min e f
    ofDyadic false (sgnInt a m * 2 ^ (e - g).toNat + sgnInt b n * 2 ^ (f - g).toNat) g

/-- The exact product with IEEE special values (R39). -/
def FVal.mul (x y : FVal) : FVal :=
  match x, y with
  | .nan, _ => .nan
  | _, .nan => .nan
  | .inf _, .zero _ => .nan
  | .zero _, .inf _ => .nan
  | .inf a, .inf b => .inf (a != b)
  | .inf a, .fin b _ _ => .inf (a != b)
  | .fin a _ _, .inf b => .inf (a != b)
  | .zero a, .zero b => .zero (a != b)
  | .zero a, .fin b _ _ => .zero (a != b)
  | .fin a _ _, .zero b => .zero (a != b)
  | .fin a m e, .fin b n f => .fin (a != b) (m * n) (e + f)

/-- The quotient to 64 bits below the divisor's significand, with a sticky tail (R39). -/
def FVal.div (x y : FVal) : FVal × Bool :=
  match x, y with
  | .nan, _ => (.nan, false)
  | _, .nan => (.nan, false)
  | .inf _, .inf _ => (.nan, false)
  | .zero _, .zero _ => (.nan, false)
  | .inf a, .zero b => (.inf (a != b), false)
  | .inf a, .fin b _ _ => (.inf (a != b), false)
  | .zero a, .inf b => (.zero (a != b), false)
  | .zero a, .fin b _ _ => (.zero (a != b), false)
  | .fin a _ _, .inf b => (.zero (a != b), false)
  | .fin a _ _, .zero b => (.inf (a != b), false)
  | .fin a m e, .fin b n f => (.fin (a != b) (m * 2 ^ 64 / n) (e - f - 64), m * 2 ^ 64 % n != 0)

/-- The integer square root, one bit at a time from bit k − 1 down. -/
def isqrtFrom (k n r : Nat) : Nat :=
  match k with
  | 0 => r
  | k + 1 => if (r + 2 ^ k) * (r + 2 ^ k) ≤ n then isqrtFrom k n (r + 2 ^ k) else isqrtFrom k n r

/-- The integer square root of a number below 2^128. -/
def isqrt (n : Nat) : Nat :=
  isqrtFrom 64 n 0

/-- The square root with a sticky tail (R39). -/
def FVal.sqrt (x : FVal) : FVal × Bool :=
  match x with
  | .nan => (.nan, false)
  | .zero n => (.zero n, false)
  | .inf n => (if n then .nan else .inf false, false)
  | .fin n m e =>
    if n then (.nan, false)
    else
      let o := (e % 2).toNat
      let big := m * 2 ^ o * 2 ^ 64
      let r := isqrt big
      (.fin false r ((e - o) / 2 - 32), r * r != big)

/-- 1 / √x with a sticky tail (R167). -/
def FVal.rsqrt (x : FVal) : FVal × Bool :=
  match x with
  | .nan => (.nan, false)
  | .zero n => (.inf n, false)
  | .inf n => (if n then .nan else .zero false, false)
  | .fin n m e =>
    if n then (.nan, false)
    else
      let o := (e % 2).toNat
      let d := m * 2 ^ o
      let big := 2 ^ 124 / d
      let r := isqrt big
      (.fin false r (-62 - (e - o) / 2), r * r * d != 2 ^ 124)

/-- Exact comparison of two values neither of which is NaN: −1, 0 or 1 (R39: +0 equals −0). -/
def FVal.cmpVal (x y : FVal) : Int :=
  match x, y with
  | .inf a, .inf b => if a = b then 0 else if a then -1 else 1
  | .inf a, _ => if a then -1 else 1
  | _, .inf b => if b then 1 else -1
  | x, y =>
    match x.add y.neg with
    | .fin n _ _ => if n then -1 else 1
    | _ => 0

/-- x < y; false when either is NaN (R39). -/
def FVal.lt (x y : FVal) : Bool :=
  x != .nan && y != .nan && x.cmpVal y == -1

/-- x = y; false when either is NaN (R39). -/
def FVal.eq (x y : FVal) : Bool :=
  x != .nan && y != .nan && x.cmpVal y == 0

/-- max(x, y): NaN with a NaN operand, max(+0, −0) = +0 (R39). -/
def FVal.max (x y : FVal) : FVal :=
  if x = .nan || y = .nan then .nan
  else if x.lt y then y else if y.lt x then x else if x.sign then y else x

/-- min(x, y): NaN with a NaN operand, min(+0, −0) = −0 (R39). -/
def FVal.min (x y : FVal) : FVal :=
  if x = .nan || y = .nan then .nan
  else if x.lt y then x else if y.lt x then y else if x.sign then x else y

/-! ### T32 operations: one rounding each (R39, R166) -/

/-- An exact value rounded to T32. -/
def to32 (md : FMode) (v : FVal) : Nm Word := do
  out32 (← roundTo 24 md false v false)

/-- x + y. -/
def add32 (md : FMode) (x y : Word) : Nm Word :=
  to32 md ((unpack32 md.legacy x).add (unpack32 md.legacy y))

/-- x − y. -/
def sub32 (md : FMode) (x y : Word) : Nm Word :=
  to32 md ((unpack32 md.legacy x).add (unpack32 md.legacy y).neg)

/-- x × y. -/
def mul32 (md : FMode) (x y : Word) : Nm Word :=
  to32 md ((unpack32 md.legacy x).mul (unpack32 md.legacy y))

/-- x × y + z, rounded once. -/
def fma32 (md : FMode) (x y z : Word) : Nm Word :=
  to32 md (((unpack32 md.legacy x).mul (unpack32 md.legacy y)).add (unpack32 md.legacy z))

/-- x / y. -/
def div32 (md : FMode) (x y : Word) : Nm Word := do
  let q := (unpack32 md.legacy x).div (unpack32 md.legacy y)
  out32 (← roundTo 24 md false q.1 q.2)

/-- √x. -/
def sqrt32 (md : FMode) (x : Word) : Nm Word := do
  let q := (unpack32 md.legacy x).sqrt
  out32 (← roundTo 24 md false q.1 q.2)

/-- 1 / √x, correctly rounded (R167). -/
def rsqrt32 (md : FMode) (x : Word) : Nm Word := do
  let q := (unpack32 md.legacy x).rsqrt
  out32 (← roundTo 24 md false q.1 q.2)

/-- 1 / x, correctly rounded (R167). -/
def recip32 (md : FMode) (x : Word) : Nm Word :=
  div32 md 0x3F800000 x

/-- max(x, y). -/
def max32 (md : FMode) (x y : Word) : Nm Word :=
  to32 md ((unpack32 md.legacy x).max (unpack32 md.legacy y))

/-- min(x, y). -/
def min32 (md : FMode) (x y : Word) : Nm Word :=
  to32 md ((unpack32 md.legacy x).min (unpack32 md.legacy y))

/-- The sign of x changed; exact. -/
def neg32 (x : Word) : Word :=
  x ^^^ 0x80000000

/-- Whether a T32 word is zero as the mode reads it (R43). -/
def isZero32 (legacy : Bool) (x : Word) : Bool :=
  match unpack32 legacy x with
  | .zero _ => true
  | _ => false

/-- Whether a T32 word is NaN. -/
def isNan32 (x : Word) : Bool :=
  fld x 30 23 == 255 && fld x 22 0 != 0

/-- Whether a T32 word is infinite or NaN. -/
def nonFinite32 (x : Word) : Bool :=
  fld x 30 23 == 255

/-- 1.0, 0.5 and −0.5 in T32. -/
def one32 : Word := 0x3F800000
def half32 : Word := 0x3F000000
def negHalf32 : Word := 0xBF000000

/-- An unsigned integer as a T32 value. -/
def nat32 (n : Nat) : Word :=
  match n with
  | 0 => 0
  | n + 1 => pack32 (roundTo 24 { legacy := false, sat := false } false (.fin false (n + 1) 0) false |>.run fx0).1

/-! ### Stochastic rounding (R55) -/

/-- The key of R55 but for the index: seed, step and tensor. -/
structure SrKey where
  seed : DWord
  step : Nat
  tensor : Nat
deriving DecidableEq, Repr

/-- SplitMix64's output for a key (R55; the function's constants are PRESUMED, log 10). -/
def splitMix64 (key : DWord) : DWord :=
  let z0 := key + 0x9E3779B97F4A7C15
  let z1 := (z0 ^^^ (z0 >>> 30)) * 0xBF58476D1CE4E5B9
  let z2 := (z1 ^^^ (z1 >>> 27)) * 0x94D049BB133111EB
  z2 ^^^ (z2 >>> 31)

/-- r of R55: bits [63:48] of the output for seed xor (step mod 2^24) × 2^40 xor tensor × 2^32 xor index. -/
def srBits (k : SrKey) (index : Nat) : Nat :=
  (splitMix64 (k.seed ^^^ BitVec.ofNat 64 (k.step % 2 ^ 24 * 2 ^ 40) ^^^ BitVec.ofNat 64 (k.tensor * 2 ^ 32)
    ^^^ BitVec.ofNat 64 (index % 2 ^ 32)) >>> 48).toNat

/-- How a conversion rounds: to nearest (R54), or stochastically with a key (R55). -/
inductive Rnd where
  | nearest
  | sr (k : SrKey)
deriving DecidableEq, Repr

/-- An exact value rounded to T16 under R54 or R55. A result is flushed by what R39 makes of it, also under R55 (R43); one that R39 takes
up to 2^−126 is kept, and is 2^−126 (log 100). -/
def roundT16 (md : FMode) (rn : Rnd) (index : Nat) (v : FVal) (sticky : Bool) : Nm FVal :=
  match rn, v with
  | .sr k, .fin neg m e =>
    let q0 : Int := e + Nat.log2 m - 7
    let q : Int := if md.legacy then max q0 (-133) else q0
    if q ≤ e || (q0 < -133 && !md.legacy) then roundTo 8 md true v sticky
    else
      let sh := (q - e).toNat
      let d := m % 2 ^ sh * 65536 / 2 ^ sh
      placeIn 8 md true neg (m / 2 ^ sh + if srBits k index < d then 1 else 0) q
  | _, v => roundTo 8 md true v sticky

/-- An exact value as T16 under R54 or R55, noting a NaN produced. -/
def to16 (md : FMode) (rn : Rnd) (index : Nat) (v : FVal) : Nm Half := do
  let r ← roundT16 md rn index v false
  if r = .nan then Nm.nanRes
  return pack16 r

/-- A T32 word as T16 under R54 or R55. -/
def cvt16 (md : FMode) (rn : Rnd) (index : Nat) (x : Word) : Nm Half :=
  to16 md rn index (unpack32 md.legacy x)

/-- A T16 value as T32: exact (R63), a native subnormal reading as zero (R43) and a NaN becoming canonical (R38). -/
def widen16 (legacy : Bool) (h : Half) : Word :=
  pack32 (unpack16 legacy h)

/-! ### T32C (R45 to R47) -/

/-- A T32C operand read as T32 (R47). -/
def read32c (md : FMode) (hi : Word) (comp : Half) : Nm Word :=
  match unpack32c md.legacy hi comp with
  | .fin neg m e => to32 md (.fin neg m e)
  | v => return pack32 v

/-- An exact value rounded to a 40-bit significand and written as T32C (R46). -/
def round40 (md : FMode) (v : FVal) : Nm (Word × Half) := do
  let r ← roundTo 40 md false v false
  return pack32c r

/-- A result in T32C, noting a NaN produced (R66). -/
def out40 (md : FMode) (v : FVal) : Nm (Word × Half) := do
  if v = .nan then Nm.nanRes
  round40 md v

/-- A T32 word taken over: a NaN becomes the canonical one and is noted (R43, R66). -/
def keep32 (w : Word) : Nm Word :=
  if isNan32 w then out32 .nan else return w

/-! ### Exact sums (R73, R94, R158) -/

/-- An exact sum: NaN met, infinities met, and the finite part as i × 2^e. -/
structure ExSum where
  nan : Bool
  pinf : Bool
  ninf : Bool
  i : Int
  e : Int
deriving DecidableEq, Repr

/-- The empty sum. -/
def exZero : ExSum :=
  { nan := false, pinf := false, ninf := false, i := 0, e := 0 }

/-- One more term. -/
def ExSum.add (x : ExSum) (v : FVal) : ExSum :=
  match v with
  | .nan => { x with nan := true }
  | .inf n => if n then { x with ninf := true } else { x with pinf := true }
  | .zero _ => x
  | .fin n m f =>
    let g := min x.e f
    { x with i := x.i * 2 ^ (x.e - g).toNat + sgnInt n m * 2 ^ (f - g).toNat, e := g }

/-- Two exact sums added. -/
def ExSum.plus (x y : ExSum) : ExSum :=
  let g := min x.e y.e
  { nan := x.nan || y.nan, pinf := x.pinf || y.pinf, ninf := x.ninf || y.ninf,
    i := x.i * 2 ^ (x.e - g).toNat + y.i * 2 ^ (y.e - g).toNat, e := g }

/-- The value of an exact sum: NaN with infinities of both signs; an exact zero is +0 (R73, R158). -/
def ExSum.val (x : ExSum) : FVal :=
  if x.nan || (x.pinf && x.ninf) then .nan
  else if x.pinf then .inf false
  else if x.ninf then .inf true
  else ofDyadic false x.i x.e

end Sys2Proof.Machine
end

