-- ==== Sys2Proof/Machine/Quant.lean ====
section
/-! DEFINITION. The integer, code and link-block formats: Q8, W2, W2U, W3, W1, X4, L8 and S1, their quantisation and their
expansion (R35, R48 to R63, R452). Every quotient is compared exactly (R54). -/

namespace Sys2Proof.Machine

/-- Format codes of R35. -/
def fT32 : Nat := 0x0
def fT32C : Nat := 0x1
def fT16 : Nat := 0x2
def fFP16 : Nat := 0x3
def fQ8S : Nat := 0x4
def fQ8U : Nat := 0x5
def fW2 : Nat := 0x6
def fW2U : Nat := 0x7
def fW3 : Nat := 0x8
def fW1 : Nat := 0x9
def fX4T : Nat := 0xA
def fX4Z : Nat := 0xB
def fL8 : Nat := 0xC
def fS1 : Nat := 0xD

/-- Whether a format is a weight code. -/
def isW (f : Nat) : Bool := decide (fW2 ≤ f) && decide (f ≤ fW1)

/-- Whether a format is Q8. -/
def isQ8 (f : Nat) : Bool := f == fQ8S || f == fQ8U

/-- The canonical NaN in T32 and T16 (R38). -/
def nan32 : Word := 0x7FC00000
def nan16 : Half := 0x7FC0

/-! ### Weight codes (R49, R67) -/

/-- The levels of a weight format in units, lowest first. -/
def levelsOf (f : Nat) : List Int :=
  if f = fW2 then [-3, -1, 1, 3]
  else if f = fW2U then [0, 1, 2, 3]
  else if f = fW3 then [-2, 0, 2]
  else [-1, 1]

/-- The largest level magnitude of a format (R213): 127 for Q8S, 255 for Q8U. -/
def topLevel (f : Nat) : Nat :=
  if f = fQ8S then 127 else if f = fQ8U then 255 else if f = fW2 then 3 else if f = fW2U then 3
  else if f = fW3 then 2 else 1

/-- The level a code stands for; the W3 code 0b10 reads as level 0 (R49). -/
def levelOf (f code : Nat) : Int :=
  if f = fW2 then 2 * (code : Int) - 3
  else if f = fW2U then code
  else if f = fW3 then (if code = 1 then 2 else if code = 3 then -2 else 0)
  else 2 * (code : Int) - 1

/-- The code of a level. -/
def codeOf (f : Nat) (l : Int) : Nat :=
  if f = fW2 then ((l + 3) / 2).toNat
  else if f = fW2U then l.toNat
  else if f = fW3 then (if l = 0 then 0 else if l < 0 then 3 else 1)
  else ((l + 1) / 2).toNat

/-- Bits of one code. -/
def codeBits (f : Nat) : Nat :=
  if f = fW1 then 1 else if f = fX4T ∨ f = fX4Z then 4 else 2

/-- Entry i of packed codes of the given width (R49, R51). -/
def packedAt (bits : Nat) (bs : List Byte) (i : Nat) : Nat :=
  (bs.getD (i * bits / 8) 0).toNat / 2 ^ (i * bits % 8) % 2 ^ bits

/-- One byte of packed codes, the first in the low bits. -/
def packByte (bits : Nat) (cs : List Nat) : Nat :=
  match cs with
  | [] => 0
  | c :: r => c + 2 ^ bits * packByte bits r

/-- Codes packed with n bytes of output (R49). -/
def packCodes (bits n : Nat) (cs : List Nat) : List Byte :=
  match n with
  | 0 => []
  | n + 1 => BitVec.ofNat 8 (packByte bits (cs.take (8 / bits))) :: packCodes bits n (cs.drop (8 / bits))

/-! ### Exact quotients -/

/-- x / s: NaN, infinite, or num / den exactly. -/
inductive Quo where
  | nan
  | inf (neg : Bool)
  | rat (num : Int) (den : Nat)
deriving DecidableEq, Repr

/-- The exact quotient by a scale that is +0 or positive (R54, R452). -/
def quoOf (x s : FVal) : Quo :=
  match x, s with
  | .nan, _ => .nan
  | .inf n, _ => .inf n
  | .zero _, _ => .rat 0 1
  | .fin neg m e, .fin _ n f => .rat (sgnInt neg m * 2 ^ (e - f).toNat) (n * 2 ^ (f - e).toNat)
  | .fin neg _ _, _ => .inf neg

/-- A block or tensor scale as a value; none when it is invalid (R50). -/
def scaleVal (legacy : Bool) (h : Half) : Option FVal :=
  match unpack16 legacy h with
  | .nan => none
  | .inf _ => none
  | .zero _ => some (.zero false)
  | .fin neg m e => if neg then none else some (.fin false m e)

/-- The nearest of some levels: ties to the smaller magnitude, then to the positive level (R54). -/
def nearLevel (num : Int) (den : Nat) (ls : List Int) (best : Int) : Int :=
  match ls with
  | [] => best
  | l :: r =>
    let dl := (num - l * den).natAbs
    let db := (num - best * den).natAbs
    let better := dl < db || (dl == db && (l.natAbs < best.natAbs || (l.natAbs == best.natAbs && best < l)))
    nearLevel num den r (if better then l else best)

/-- The two neighbours of num / den among the levels: a nearer zero, b farther; with equal magnitudes a is on the quotient's
side, +1 for zero (R55). -/
def levelPair (num : Int) (den : Nat) (ls : List Int) : Int × Int :=
  let lo := (ls.filter (fun l => l * den ≤ num)).getLastD (ls.headD 0)
  let hi := (ls.filter (fun l => num ≤ l * den)).headD (ls.getLastD 0)
  if lo.natAbs < hi.natAbs then (lo, hi)
  else if hi.natAbs < lo.natAbs then (hi, lo)
  else if num < 0 then (lo, hi) else (hi, lo)

/-- The level a quotient inside the format's range takes, to nearest or stochastically. -/
def pickLevel (rn : Rnd) (index : Nat) (num : Int) (den : Nat) (ls : List Int) : Int :=
  match rn with
  | .nearest => nearLevel num den ls (ls.headD 0)
  | .sr k =>
    let p := levelPair num den ls
    let gap := (p.2 - p.1).natAbs * den
    if gap = 0 then p.1
    else if srBits k index < (num - p.1 * den).natAbs * 65536 / gap then p.2 else p.1

/-- An integer quotient to nearest even, or stochastically (R54, R55). -/
def pickInt (rn : Rnd) (index : Nat) (num : Int) (den : Nat) : Int :=
  let q := num.natAbs / den
  let r := num.natAbs % den
  let up := match rn with
    | .nearest => decide (den < 2 * r) || (2 * r == den && q % 2 == 1)
    | .sr k => decide (srBits k index < r * 65536 / den)
  let m : Int := if up then q + 1 else q
  if num < 0 then -m else m

/-! ### Quantising to weight codes (R56, R60 to R62, R452) -/

/-- What quantising one element gives: its code, saturation, whether R61 counts it (`live`), its outlier residual, and
whether it meets the zero-block bound and is ±0 or NaN (R60). -/
structure WEl where
  code : Nat
  sat : Bool
  live : Bool
  cand : Option Half
  small : Bool
  blank : Bool
deriving DecidableEq, Repr

/-- The code a NaN takes, and every element of a block with an invalid scale: +1 in W2 and W1, 0 in W3 and W2U (R56, R452). -/
def zeroCode (f : Nat) : Nat :=
  if f = fW2 ∨ f = fW1 then codeOf f 1 else codeOf f 0

/-- The bound of R60 on a quotient. -/
def smallQuo (f : Nat) (q : Quo) : Bool :=
  match q with
  | .nan => true
  | .inf neg => neg && f == fW2U
  | .rat n d => if f = fW2U then 2 * n ≤ d else if f = fW3 then n.natAbs ≤ d else 2 * n.natAbs ≤ d

/-- The residual of a finite saturated element: x − level × s in T16, saturated (R56). -/
def residual (legacy : Bool) (x s : FVal) (l : Int) : Nm Half := do
  let p := (ofDyadic false l 0).mul s
  let r ← roundTo 8 { legacy := legacy, sat := true } true (x.add p.neg) false
  return pack16 r

/-- One element quantised to a weight code against a valid scale (R56, R452). -/
def quantW (f : Nat) (legacy : Bool) (rn : Rnd) (index : Nat) (s x : FVal) : Nm WEl := do
  let ls := levelsOf f
  let lo := ls.headD 0
  let hi := ls.getLastD 0
  let q := quoOf x s
  let below := f == fW2U && x.sign
  match q with
  | .nan => do
    Nm.nan
    return { code := zeroCode f, sat := false, live := false, cand := none, small := true, blank := true }
  | .inf neg => do
    Nm.wsat
    let l := if neg then lo else hi
    let cand ← match x with
      | .fin n m e => do
        let r ← residual legacy (.fin n m e) s l
        pure (some r)
      | _ => pure none
    return { code := codeOf f l, sat := true, live := !below, cand := cand, small := smallQuo f q, blank := false }
  | .rat n d =>
    if n < lo * d then do
      Nm.wsat
      let r ← residual legacy x s lo
      return { code := codeOf f lo, sat := true, live := !below, cand := some r, small := smallQuo f q, blank := false }
    else if hi * d < n then do
      Nm.wsat
      let r ← residual legacy x s hi
      return { code := codeOf f hi, sat := true, live := true, cand := some r, small := smallQuo f q, blank := false }
    else
      return { code := codeOf f (pickLevel rn index n d ls), sat := false, live := n != 0, cand := none,
               small := smallQuo f q, blank := n == 0 }

/-- A quantised block: scale written, codes, residual of each candidate, and whether it is a scale overflow (R61). -/
structure WBlock where
  scale : Half
  codes : List Nat
  cands : List (Option Half)
  sovf : Bool
deriving DecidableEq, Repr

/-- Whether some counted element saturates and all do (R61). -/
def allSat (es : List (Bool × Bool)) : Bool :=
  es.any (fun e => e.1 && e.2) && es.all (fun e => !e.1 || e.2)

/-- A block quantised to weight codes; each element comes with its rounding index and whether its row is a flagged channel
(R56, R60, R61, R97, R452). DESIGN CHOICE, log 128: at scale +0 a W2U or Q8U block whose non-zero finite elements are all negative takes
what R60 to R62 say of it, a zero block in W2U and no scale overflow in Q8U, where R452 calls a block with any non-zero finite element a scale
overflow. -/
def quantBlock (f : Nat) (legacy : Bool) (rn : Rnd) (scale : Half) (xs : List (Nat × FVal × Bool)) : Nm WBlock := do
  match scaleVal legacy scale with
  | none => do
    Nm.invalid
    return { scale := nan16, codes := xs.map (fun _ => zeroCode f), cands := xs.map (fun _ => none), sovf := false }
  | some s => do
    let es ← xs.mapM (fun x => do return (x.2.2, ← quantW f legacy rn x.1 s x.2.1))
    if es.all (fun e => e.2.small) then do
      if !es.all (fun e => e.2.blank) then Nm.ufblk
      return { scale := 0, codes := es.map (fun _ => zeroCode f), cands := es.map (fun e => e.2.cand), sovf := false }
    else do
      let ov := allSat (es.map (fun e => (e.2.live && !e.1, e.2.sat)))
      if ov then Nm.sovf
      return { scale := scale, codes := es.map (fun e => e.2.code), cands := es.map (fun e => e.2.cand), sovf := ov }

/-! ### Quantising to Q8 (R57, R61, R452) -/

/-- One element to Q8 against a valid scale: its byte, whether R61 counts it, and whether it saturates. -/
def quantQ8 (f : Nat) (rn : Rnd) (index : Nat) (s x : FVal) : Nm (Byte × Bool × Bool) := do
  let lo : Int := if f = fQ8S then -128 else 0
  let hi : Int := if f = fQ8S then 127 else 255
  let below := f == fQ8U && x.sign
  match quoOf x s with
  | .nan => do
    Nm.nan
    return (0, false, false)
  | .inf neg => do
    Nm.q8sat
    return (BitVec.ofInt 8 (if neg then lo else hi), !below, true)
  | .rat n d => do
    let v := pickInt rn index n d
    if v < lo then do
      Nm.q8sat
      return (BitVec.ofInt 8 lo, !below, true)
    else if hi < v then do
      Nm.q8sat
      return (BitVec.ofInt 8 hi, true, true)
    else return (BitVec.ofInt 8 v, n != 0 && !below, false)

/-- A tensor's elements to Q8 against its scale: the bytes, and whether the tensor is a scale overflow. -/
def quantQ8All (f : Nat) (legacy : Bool) (rn : Rnd) (scale : Half) (xs : List (Nat × FVal)) : Nm (List Byte × Bool) := do
  match scaleVal legacy scale with
  | none => do
    Nm.invalid
    return (xs.map (fun _ => 0), false)
  | some s => do
    let es ← xs.mapM (fun x => quantQ8 f rn x.1 s x.2)
    let ov := allSat (es.map (fun e => e.2))
    if ov then Nm.sovf
    return (es.map (fun e => e.1), ov)

/-! ### Quantising to L8 and S1 (R52, R53, R58, R59) -/

/-- An L8 block: mantissas, exponent byte, flag byte. -/
structure L8Block where
  mant : List Byte
  exp : Byte
  flag : Byte
deriving DecidableEq, Repr

/-- The largest magnitude of a block, NaN taken as 0. -/
def maxMag (xs : List FVal) : FVal :=
  xs.foldl (fun a x => if x = .nan then a else a.max x.abs) (.zero false)

/-- The smallest exponent with M < 127.5 × 2^E, limited to −126 to +120 (R58). -/
def l8Exp (m : FVal) : Int :=
  match m with
  | .fin _ k e =>
    let l : Int := e + Nat.log2 k
    let x : Int := if 2 * k * 2 ^ 6 < 255 * 2 ^ Nat.log2 k then l - 6 else l - 5
    max (-126) (min 120 x)
  | .zero _ => -126
  | _ => 120

/-- One mantissa at an exponent (R58). -/
def l8Mant (rn : Rnd) (index : Nat) (e : Int) (x : FVal) : Nm Int := do
  match quoOf x (.fin false 1 e) with
  | .nan => do
    Nm.nan
    return 0
  | .inf neg => do
    Nm.l8sat
    return if neg then -127 else 127
  | .rat n d => do
    let v := pickInt rn index n d
    if 127 < v then do
      Nm.l8sat
      return 127
    else if v < -127 then do
      Nm.l8sat
      return -127
    else return v

/-- A block to L8 at a fixed exponent, or at the free exponent of R58; a block whose mantissas all round to 0 is a zero block
(R58, R60). -/
def quantL8 (rn : Rnd) (fixed : Option Int) (index : Nat) (xs : List FVal) : Nm L8Block := do
  let e := fixed.getD (l8Exp (maxMag xs))
  let ms ← (xs.zipIdx index).mapM (fun x => l8Mant rn x.2 e x.1)
  if ms.all (· == 0) then do
    if xs.any (fun x => match x with
      | .fin _ _ _ => true
      | .inf _ => true
      | _ => false) then Nm.ufblk
    return { mant := ms.map (fun _ => 0), exp := 0, flag := 1 }
  else return { mant := ms.map (BitVec.ofInt 8), exp := BitVec.ofInt 8 e, flag := 0 }

/-- An S1 block: sign bits and scale, and whether it is a scale overflow (R59, R60). -/
structure S1Block where
  signs : List Bool
  scale : Half
  sovf : Bool
deriving DecidableEq, Repr

/-- The T32 sum of magnitudes in index order, NaN counting as 0 and counted (R59). -/
def absSum (md : FMode) (xs : List FVal) (acc : Word) : Nm Word :=
  match xs with
  | [] => return acc
  | x :: r => do
    if x = .nan then do
      Nm.nan
      absSum md r acc
    else do
      let a ← to32 md ((unpack32 md.legacy acc).add x.abs)
      absSum md r a

/-- A block of 64 to S1 (R59). -/
def quantS1 (md : FMode) (xs : List FVal) : Nm S1Block := do
  let sum ← absSum md xs 0
  let mean ← roundTo 8 md true ((unpack32 md.legacy sum).mul (.fin false 1 (-6))) false
  match mean with
  | .inf _ => do
    Nm.sovf
    return { signs := xs.map (fun x => x != .nan && x.lt (.zero false)), scale := 0x7F7F, sovf := true }
  | .fin _ _ _ =>
    return { signs := xs.map (fun x => x != .nan && x.lt (.zero false)), scale := pack16 mean, sovf := false }
  | _ => do
    if xs.any (fun x => match x with
      | .fin _ _ _ => true
      | .inf _ => true
      | _ => false) then Nm.ufblk
    return { signs := xs.map (fun _ => false), scale := 0, sovf := false }

/-! ### Expansion (R50 to R53, R63) -/

/-- level × s or q × s exactly (R63). -/
def timesScale (q : Int) (s : FVal) : FVal :=
  (ofDyadic false q 0).mul s

/-- A W3 code 0b10 counted when it is written to an array (R49). -/
def noteW3 (f code : Nat) : Nm Unit :=
  if f = fW3 ∧ code = 2 then Nm.nan else return ()

/-- A scale as an operand of an expansion: an invalid one is noted once for its block. -/
def noteScale (legacy : Bool) (h : Half) : Nm (Option FVal) := do
  match scaleVal legacy h with
  | none => do
    Nm.invalid
    return none
  | some s => return some s

/-- One L8 entry: every entry of a zero block is +0, and an exponent that is never produced makes canonical NaNs (R52). -/
def l8Val (m e flag : Byte) : FVal :=
  if flag.getLsbD 0 then .zero false
  else if -126 ≤ e.toInt ∧ e.toInt ≤ 120 then ofDyadic false m.toInt e.toInt
  else .nan

/-- Whether an L8 block's exponent is one that is never produced (R52). -/
def l8Bad (e flag : Byte) : Bool :=
  !flag.getLsbD 0 && !(decide (-126 ≤ e.toInt) && decide (e.toInt ≤ 120))

/-- One S1 entry. -/
def s1Val (neg : Bool) (s : Option FVal) : FVal :=
  match s with
  | none => .nan
  | some v => if neg then v.neg else v

/-- One X4Z entry: (q − z) × s rounded once to T16 (R41, R51). -/
def x4zVal (md : FMode) (q z : Nat) (s : Option FVal) : Nm FVal := do
  match s with
  | none => return .nan
  | some v => roundTo 8 md true (timesScale ((q : Int) - z) v) false

end Sys2Proof.Machine
end

