-- ==== Sys2Proof/Machine/Operands.lean ====
section
/-! DEFINITION. Descriptor words and operands (R241, R243), the address spaces they name (R170, R205, R321), and the reading
and writing of operand elements in every format. -/

namespace Sys2Proof.Machine

/-- Descriptor word i. -/
def Desc.word (d : Desc) (i : Nat) : Word :=
  d.w.getD i 0

/-- Bits [hi:lo] of descriptor word i. -/
def Desc.f (d : Desc) (i hi lo : Nat) : Nat :=
  fld (Desc.word d i) hi lo

/-- Flag bit b of descriptor word i. -/
def Desc.flag (d : Desc) (i b : Nat) : Bool :=
  (Desc.word d i).getLsbD b

/-- Common fields of R241. -/
def Desc.opcode (d : Desc) : Nat := Desc.f d 0 31 24
def Desc.sat (d : Desc) : Bool := Desc.flag d 0 23
def Desc.sr (d : Desc) : Bool := Desc.flag d 0 22
def Desc.ref (d : Desc) : Bool := Desc.flag d 0 21
def Desc.taste (d : Desc) : Bool := Desc.flag d 0 20
def Desc.slot (d : Desc) : Nat := Desc.f d 0 15 0
def Desc.core (d : Desc) : Nat := Desc.f d 1 31 24
def Desc.layer (d : Desc) : Nat := Desc.f d 1 15 0

/-- An operand (R243). -/
structure Opnd where
  tensor : Nat
  fmt : Nat
  mem : Bool
  region : Nat
  addr : Nat
deriving DecidableEq, Repr

/-- The operand whose low word is word i. -/
def Desc.opnd (d : Desc) (i : Nat) : Opnd :=
  { tensor := Desc.f d (i + 1) 31 24, fmt := Desc.f d (i + 1) 23 20, mem := Desc.flag d (i + 1) 19,
    region := Desc.f d (i + 1) 18 13, addr := (Desc.word d i).toNat }

/-- Operands D, A, B, C (R241). -/
def Desc.opD (d : Desc) : Opnd := Desc.opnd d 2
def Desc.opA (d : Desc) : Opnd := Desc.opnd d 4
def Desc.opB (d : Desc) : Opnd := Desc.opnd d 6
def Desc.opC (d : Desc) : Opnd := Desc.opnd d 8

/-- Whether an operand names nothing: TENSOR 0xFF, MEM = 0, ADDR 0 (R253). -/
def Opnd.isNone (o : Opnd) : Bool :=
  o.tensor == 0xFF && !o.mem && o.addr == 0

/-- The operand some bytes further on. -/
def Opnd.at (o : Opnd) (k : Nat) : Opnd :=
  { o with addr := o.addr + k }

/-! ### Core addresses (R170) -/

def localBytes : Nat := 0x300000
def clusterBase : Nat := 0x1000000
def clusterBytes : Nat := 0x800000

/-- Bytes from a core address on. -/
def State.coreRead (s : State) (core addr n : Nat) : List Byte :=
  if addr < localBytes then Mem.read s.store.lstore (core * localBytes + addr) n
  else Mem.read s.store.cstore (core / 8 * clusterBytes + (addr - clusterBase)) n

/-- Bytes written from a core address on. -/
def State.coreWrite (s : State) (core addr : Nat) (bs : List Byte) : State :=
  if addr < localBytes then
    { s with store := { s.store with lstore := Mem.write s.store.lstore (core * localBytes + addr) bs } }
  else
    { s with store := { s.store with
      cstore := Mem.write s.store.cstore (core / 8 * clusterBytes + (addr - clusterBase)) bs } }

/-! ### Regions and bank pairs (R205, R231, R276) -/

/-- The region kinds that are bank pairs: masters (two planes), moments, estimators, error memory. -/
def pairKind (k : Nat) : Bool :=
  k == 3 || k == 4 || k == 5 || k == 6 || k == 0xA

/-- The region's kind and its bytes; an unallocated region is of kind GENERAL and empty. -/
def State.regionKind (s : State) (r : Nat) : Nat :=
  ((s.region r).map (·.kind)).getD 0

def State.regionBytes (s : State) (r : Nat) : Nat :=
  ((s.region r).map (fun x => x.size * 1048576)).getD 0

/-- Bytes of one bank of a pair. -/
def State.bankBytes (s : State) (r : Nat) : Nat :=
  s.regionBytes r / 2

/-- The key of a byte of a region. -/
def gkey (r off : Nat) : Nat := r * 2 ^ 40 + off

/-- The key of a frame of a bank pair. -/
def fkey (r frame : Nat) : Nat := r * 2 ^ 32 + frame

/-- The half that holds the committed copy of a frame. -/
def State.committedHalf (s : State) (r frame : Nat) : Nat :=
  if s.mem.half1.contains (fkey r frame) then 1 else 0

/-- The half an attempt reads: its own write, else the committed copy (R205). -/
def State.attemptHalf (s : State) (r frame : Nat) : Nat :=
  if s.mem.written.contains (fkey r frame) then 1 - s.committedHalf r frame else s.committedHalf r frame

/-- A run of n bytes from off, cut at the 2,048-byte frames of a bank: (frame, offset, length). -/
def pieces (fuel off n : Nat) : List (Nat × Nat × Nat) :=
  match fuel with
  | 0 => []
  | k + 1 =>
    if n = 0 then []
    else
      let m := min n (2048 - off % 2048)
      (off / 2048, off, m) :: pieces k (off + m) (n - m)

/-- Enough pieces for a run of n bytes. -/
def piecesOf (off n : Nat) : List (Nat × Nat × Nat) :=
  pieces (n / 2048 + 2) off n

/-- The region kinds whose bytes an attempt writes in place while reads outside it see what was there before (R30, R257, R343):
GENERAL, HYPER and TELEMETRY. -/
def openKind (k : Nat) : Bool :=
  k == 0 || k == 8 || k == 9

/-- The region bytes without what the attempt in progress has written in place: what its writes have covered put back, last first. -/
def State.visible (s : State) : Mem :=
  s.mem.old.foldl (fun m x => Mem.write m (gkey x.1 x.2.1) x.2.2) s.store.gddr

/-- Bytes of a region: of a bank pair, the attempt's view or the committed one; of another, as the attempt or as others see them. -/
def State.regRead (s : State) (attempt : Bool) (r off n : Nat) : List Byte :=
  if pairKind (s.regionKind r) then
    (piecesOf off n).flatMap (fun p =>
      let h := if attempt then s.attemptHalf r p.1 else s.committedHalf r p.1
      Mem.read s.store.gddr (gkey r (h * s.bankBytes r + p.2.1)) p.2.2)
  else if attempt || !openKind (s.regionKind r) then Mem.read s.store.gddr (gkey r off) n
  else Mem.read s.visible (gkey r off) n

/-- Poison marks left after a write: those of codewords it covers whole go (R323). -/
def clearPoison (marks : List (Nat × Nat)) (r off n : Nat) : List (Nat × Nat) :=
  marks.filter (fun m => !(m.1 == r && decide (off ≤ 32 * m.2) && decide (32 * m.2 + 32 ≤ off + n)))

/-- Bytes stored at a place in a region as it lies in the devices. -/
def State.rawWrite (s : State) (r off : Nat) (bs : List Byte) : State :=
  { s with store := { s.store with gddr := Mem.write s.store.gddr (gkey r off) bs },
           mem := { s.mem with poison := clearPoison s.mem.poison r off bs.length } }

/-- Poison marks with those of n bytes at `from_` set for the bytes at `to_` too, which take their place (R323). -/
def copyPoison (marks : List (Nat × Nat)) (r from_ to_ n : Nat) : List (Nat × Nat) :=
  ((marks.filter (fun m => m.1 == r && decide (from_ ≤ 32 * m.2) && decide (32 * m.2 < from_ + n))).map
    (fun m => (r, (32 * m.2 - from_ + to_) / 32))).foldl (fun l m => if l.contains m then l else m :: l) marks

/-- An attempt's write within one frame of a bank pair: its first write to the frame takes the rest from the committed copy, the marks of
uncorrectable codewords with it (R205, R318, R323). -/
def State.frameWrite (s : State) (r frame off : Nat) (bs : List Byte) : State :=
  let h := s.committedHalf r frame
  let b := s.bankBytes r
  let s1 :=
    if s.mem.written.contains (fkey r frame) then s
    else
      let s0 := s.rawWrite r ((1 - h) * b + 2048 * frame) (Mem.read s.store.gddr (gkey r (h * b + 2048 * frame)) 2048)
      { s0 with mem := { s0.mem with written := fkey r frame :: s0.mem.written,
                                     poison := copyPoison s0.mem.poison r (h * b + 2048 * frame) ((1 - h) * b + 2048 * frame) 2048 } }
  s1.rawWrite r ((1 - h) * b + off) bs

/-- The pieces of a write, each within a frame. -/
def State.framesWrite (s : State) (r : Nat) (ps : List (Nat × Nat × Nat)) (bs : List Byte) : State :=
  match ps with
  | [] => s
  | p :: rest => (s.frameWrite r p.1 p.2.1 (bs.take p.2.2)).framesWrite r rest (bs.drop p.2.2)

/-- What a write in place covers, kept for others' reads and for a discard. -/
def State.keepOld (s : State) (r off n : Nat) : State :=
  if openKind (s.regionKind r) then
    { s with mem := { s.mem with old := (r, off, Mem.read s.store.gddr (gkey r off) n) :: s.mem.old } }
  else s

/-- An attempt's write to a region: of a bank pair, to the working copies only (R205). -/
def State.regWrite (s : State) (r off : Nat) (bs : List Byte) : State :=
  if pairKind (s.regionKind r) then s.framesWrite r (piecesOf off bs.length) bs
  else (s.keepOld r off bs.length).rawWrite r off bs

/-- A write to the committed copies, outside any attempt (tickets, repairs). -/
def State.commitWriteAt (s : State) (r : Nat) (ps : List (Nat × Nat × Nat)) (bs : List Byte) : State :=
  match ps with
  | [] => s
  | p :: rest =>
    (s.rawWrite r (s.committedHalf r p.1 * s.bankBytes r + p.2.1) (bs.take p.2.2)).commitWriteAt r rest (bs.drop p.2.2)

/-- A write to a region outside any attempt. -/
def State.regWriteCommitted (s : State) (r off : Nat) (bs : List Byte) : State :=
  if pairKind (s.regionKind r) then s.commitWriteAt r (piecesOf off bs.length) bs
  else s.rawWrite r off bs

/-- The attempt's frames swapped in: their working copies become the committed ones, and its writes in place are visible (R30, R205,
R257). -/
def State.swapBanks (s : State) : State :=
  { s with mem := { s.mem with
      half1 := (s.mem.half1.filter (fun k => !s.mem.written.contains k))
        ++ s.mem.written.filter (fun k => !s.mem.half1.contains k),
      written := [], old := [] } }

/-- The attempt's frames discarded, and its writes in place undone (R216, R217, R257). -/
def State.dropBanks (s : State) : State :=
  { s with mem := { s.mem with written := [], old := [] }, store := { s.store with gddr := s.visible } }

/-! ### Frame costs (R318, R321) -/

/-- Bytes two ranges share. -/
def overlap (a n b m : Nat) : Nat :=
  min (a + n) (b + m) - max a b

/-- Bytes of frame f of device dev that a FINE access uses. -/
def fineUsed (off n f dev : Nat) : Nat :=
  ((List.range 8).map (fun k => overlap off n ((f * 192 + k * 24 + dev) * 256) 256)).foldl (· + ·) 0

/-- The frames of one FINE row of frames that an access uses in part. -/
def finePart (off n f : Nat) : Nat :=
  ((List.range 24).filter (fun d => 0 < fineUsed off n f d && fineUsed off n f d < 2048)).length

/-- How many frames an access uses fewer than 2,048 bytes of (R318). -/
def shortFrames (spread off n : Nat) : Nat :=
  if n = 0 then 0
  else if spread = 0 then
    let f0 := off / 49152
    let f1 := (off + n - 1) / 49152
    finePart off n f0 + (if f1 = f0 then 0 else finePart off n f1)
  else
    let f0 := off / 2048
    let f1 := (off + n - 1) / 2048
    b2n (overlap off n (f0 * 2048) 2048 < 2048)
      + (if f1 = f0 then 0 else b2n (overlap off n (f1 * 2048) 2048 < 2048))

/-- One access to a region counted: MEM_SHORT_CNT, and MEM_RMW_CNT when it writes (R318). -/
def State.account (s : State) (r off n : Nat) (write : Bool) : State :=
  let k := shortFrames (((s.region r).map (·.spread)).getD 3) off n
  (s.count cMemShort k).count cMemRmw (if write then k else 0)

/-- The device that holds the byte at an offset of a region (R321). -/
def State.deviceOf (s : State) (r off : Nat) : Nat :=
  match s.region r with
  | none => 0
  | some x =>
    let f0 := off / 2048
    if x.spread = 0 then (off / 256) % 24
    else if x.spread = 1 then 6 * x.place + f0 % 6
    else if x.spread = 2 then x.place
    else (f0 + 7 * (f0 / 24) + 13 * (f0 / 576)) % 24

/-- The runs of a region's bytes that lie in its local frame f of a device (R321). -/
def Region.runsIn (x : Region) (dev f : Nat) : List (Nat × Nat) :=
  if x.spread = 0 then (List.range 8).map (fun k => (((f * 8 + k) * 24 + dev) * 256, 256))
  else if x.spread = 1 then (if dev / 6 = x.place then [((6 * f + dev % 6) * 2048, 2048)] else [])
  else if x.spread = 2 then (if dev = x.place then [(f * 2048, 2048)] else [])
  else ((List.range 24).filter (fun j =>
    (24 * f + j + 7 * f + 13 * ((24 * f + j) / 576)) % 24 == dev)).map (fun j => ((24 * f + j) * 2048, 2048))

/-- The local frame of a region that holds the byte at an offset, and the codeword within it (R321). -/
def Region.spotOf (x : Region) (off : Nat) : Nat × Nat :=
  if x.spread = 0 then (off / 256 / 24 / 8, off / 256 / 24 % 8 * 8 + off % 256 / 32)
  else (off / 2048 / (if x.spread = 1 then 6 else if x.spread = 2 then 1 else 24), off % 2048 / 32)

/-- The offset of codeword j of a region's local frame in a device (R321). -/
def Region.offsetAt (x : Region) (dev f j : Nat) : Option Nat :=
  if x.spread = 0 then ((x.runsIn dev f)[j / 8]?).map (fun p => p.1 + j % 8 * 32)
  else ((x.runsIn dev f)[0]?).map (fun p => p.1 + j * 32)

/-- A region freed: its marked codewords stay where they are in the devices, as device, frame and codeword (R323). -/
def State.freePoison (s : State) (r : Nat) : State :=
  match s.region r with
  | none => s
  | some x =>
    let gone := (s.mem.poison.filter (fun m => m.1 == r)).map (fun m =>
      let dev := s.deviceOf r (32 * m.2)
      let p := x.spotOf (32 * m.2)
      (dev, Tab.get x.base dev 0 + p.1, p.2))
    { s with mem := { s.mem with poison := s.mem.poison.filter (fun m => m.1 != r), freed := s.mem.freed ++ gone } }

/-- Where a region has a codeword of a device. -/
def Region.placeOf (x : Region) (m : Nat × Nat × Nat) : Option Nat :=
  match Tab.find x.base m.1 with
  | none => none
  | some b => if b ≤ m.2.1 ∧ m.2.1 < b + x.frames then x.offsetAt m.1 (m.2.1 - b) m.2.2 else none

/-- A region allocated over marked codewords: they are marked in it, but where the allocation itself writes it, estimators and error
memory, whose marks that clears (R211, R276, R323). -/
def State.takePoison (s : State) (r : Nat) : State :=
  match s.region r with
  | none => s
  | some x =>
    let here := s.mem.freed.filterMap x.placeOf
    let fresh := x.kind == 6 || x.kind == 0xA
    { s with mem := { s.mem with freed := s.mem.freed.filter (fun m => (x.placeOf m).isNone),
                                 poison := if fresh then s.mem.poison else here.map (fun o => (r, o / 32)) ++ s.mem.poison } }

/-- Whether a device is in self-refresh: it reached CRITICAL, and the evacuation's tick has come (R327). -/
def State.asleep (s : State) (dev : Nat) : Bool :=
  s.mem.evac && s.hif.state == .lost && s.mem.hot.contains dev

/-- Whether no device that holds part of a region is in self-refresh (R321, R327). -/
def State.regionAwake (s : State) (r : Nat) : Bool :=
  match s.region r with
  | none => true
  | some x => x.base.all (fun e => !s.asleep e.1)

/-! ### Operands as bytes -/

/-- An operand's bytes, from its first byte on, as the attempt sees them. -/
def State.opRead (s : State) (core : Nat) (o : Opnd) (n : Nat) : List Byte :=
  if o.mem then s.regRead true o.region o.addr n else s.coreRead core o.addr n

/-- An operand's bytes written. -/
def State.opWrite (s : State) (core : Nat) (o : Opnd) (bs : List Byte) : State :=
  if o.mem then s.regWrite o.region o.addr bs else s.coreWrite core o.addr bs

/-- Bytes that n elements of a format take in a store or region, planes and scales of W and X4 apart (R35, R49, R52, R53). -/
def fmtBytes (f n : Nat) : Nat :=
  if f = fT32 then 4 * n
  else if f = fT32C then 6 * n
  else if f = fT16 then 2 * n
  else if f = fFP16 then 2 * n
  else if isQ8 f then n
  else if f = fW1 then cdiv n 8
  else if isW f then cdiv n 4
  else if f = fX4T ∨ f = fX4Z then cdiv n 2
  else if f = fL8 then 1088 * cdiv n 1024
  else if f = fS1 then 80 * cdiv n 512
  else 0

/-! ### Elements -/

/-- A list cut into n runs of k. -/
def chunk {α : Type} (k n : Nat) (l : List α) : List (List α) :=
  match n with
  | 0 => []
  | n + 1 => l.take k :: chunk k n (l.drop k)

/-- The 16-bit words of bytes. -/
def halves (n : Nat) (bs : List Byte) : List Half :=
  match n with
  | 0 => []
  | n + 1 => BitVec.ofNat 16 (leNat (bs.take 2)) :: halves n (bs.drop 2)

/-- The bytes of 16-bit words. -/
def halfBytes (hs : List Half) : List Byte :=
  hs.flatMap (fun h => leBytes 2 h.toNat)

/-- The codes of one byte, the first in the low bits. -/
def byteCodes (bits : Nat) (b : Byte) : List Nat :=
  (List.range (8 / bits)).map (fun i => b.toNat / 2 ^ (i * bits) % 2 ^ bits)

/-- The first n packed codes of a byte string. -/
def codesOf (bits n : Nat) (bs : List Byte) : List Nat :=
  (bs.flatMap (byteCodes bits)).take n

/-- Weight codes with their scale plane expanded: level × s (R49, R50, R63). -/
def expandW (f : Nat) (legacy : Bool) (blocks : List (List Nat)) (scales : List Half) : Nm (List FVal) :=
  match blocks with
  | [] => return []
  | b :: r => do
    let s ← noteScale legacy (scales.headD 0)
    let rest ← expandW f legacy r (scales.drop 1)
    return b.map (fun c => match s with
      | none => .nan
      | some v => timesScale (levelOf f c) v) ++ rest

/-- X4T blocks with their tables (R51). -/
def expandX4T (legacy : Bool) (blocks : List (List Nat)) (tables : List (List Half)) : List FVal :=
  match blocks with
  | [] => []
  | b :: r => b.map (fun c => unpack16 legacy ((tables.headD []).getD c 0)) ++ expandX4T legacy r (tables.drop 1)

/-- X4Z blocks with their scales and zero points (R51). -/
def expandX4Z (md : FMode) (blocks : List (List Nat)) (scales : List Half) (zeros : List Byte) : Nm (List FVal) :=
  match blocks with
  | [] => return []
  | b :: r => do
    let s ← noteScale md.legacy (scales.headD 0)
    let z := (zeros.headD 0).toNat % 16
    let xs ← b.mapM (fun c => x4zVal md c z s)
    let rest ← expandX4Z md r (scales.drop 1) (zeros.drop 1)
    return xs ++ rest

/-- The blocks of one L8 group (R52). -/
def expandL8Group (g : List Byte) : Nm (List FVal) := do
  let ms := chunk 32 32 (g.take 1024)
  let es := (g.drop 1024).take 32
  let fs := (g.drop 1056).take 32
  let bl ← ((ms.zip es).zip fs).mapM (fun x => do
    if l8Bad x.1.2 x.2 then Nm.invalid
    return x.1.1.map (fun m => l8Val m x.1.2 x.2))
  return bl.flatten

/-- The blocks of one S1 group (R53). -/
def expandS1Group (legacy : Bool) (g : List Byte) : Nm (List FVal) := do
  let ws := chunk 8 8 (g.take 64)
  let bl ← (ws.zip (halves 8 (g.drop 64))).mapM (fun x => do
    let s ← noteScale legacy x.2
    return (codesOf 1 64 x.1).map (fun c => s1Val (c == 1) s))
  return bl.flatten

/-- n elements of a format as exact values: `bs` their bytes, `aux` the scale plane, tables or scales and zero points of W and
X4, `qs` the tensor scale of Q8 (R47 to R53, R63). -/
def expandElems (md : FMode) (f n : Nat) (bs aux : List Byte) (qs : Half) : Nm (List FVal) := do
  if f = fT32 then return (leWords n bs).map (unpack32 md.legacy)
  else if f = fT32C then do
    let ws ← ((leWords n bs).zip (halves n (bs.drop (4 * n)))).mapM (fun p => read32c md p.1 p.2)
    return ws.map (unpack32 md.legacy)
  else if f = fT16 then return (halves n bs).map (unpack16 md.legacy)
  else if f = fFP16 then return (halves n bs).map unpackFp16
  else if isQ8 f then do
    let s ← noteScale md.legacy qs
    return (bs.take n).map (fun b => match s with
      | none => .nan
      | some v => timesScale (if f = fQ8S then b.toInt else b.toNat) v)
  else if isW f then
    expandW f md.legacy (chunk 64 (cdiv n 64) (codesOf (codeBits f) n bs)) (halves (cdiv n 64) aux)
  else if f = fX4T then
    return expandX4T md.legacy (chunk 64 (cdiv n 64) (codesOf 4 n bs)) ((chunk 32 (cdiv n 64) aux).map (halves 16))
  else if f = fX4Z then
    expandX4Z md (chunk 64 (cdiv n 64) (codesOf 4 n bs)) (halves (cdiv n 64) aux) (aux.drop (2 * cdiv n 64))
  else if f = fL8 then do
    let gs ← (chunk 1088 (cdiv n 1024) bs).mapM expandL8Group
    return gs.flatten.take n
  else do
    let gs ← (chunk 80 (cdiv n 512) bs).mapM (expandS1Group md.legacy)
    return gs.flatten.take n

/-- The bytes of the planes that go with n W or X4 elements: one scale, table, or scale and zero point per block of 64. -/
def auxBytes (f n : Nat) : Nat :=
  if isW f then 2 * cdiv n 64 else if f = fX4T then 32 * cdiv n 64 else if f = fX4Z then 3 * cdiv n 64 else 0

/-- Values as a floating-point format's bytes; T16 is rounded under R54 or R55 with the element's index, `i0` that of the first (R39, R46,
R63). DESIGN CHOICE, log 127: load refuses no vector, digital-array or collective descriptor whose D is Q8, W, L8 or S1 and the spec gives
it no scale; its results are written as T32 words. -/
def renderFrom (md : FMode) (rn : Rnd) (f i0 : Nat) (xs : List FVal) : Nm (List Byte) := do
  if f = fT16 then do
    let hs ← (xs.zipIdx i0).mapM (fun x => to16 md rn x.2 x.1)
    return halfBytes hs
  else if f = fT32C then do
    let ps ← xs.mapM (out40 md)
    return wordBytes (ps.map (·.1)) ++ halfBytes (ps.map (·.2))
  else do
    let ws ← xs.mapM (to32 md)
    return wordBytes ws

/-- The whole of an operand rendered: its first element has index 0. -/
def renderFloat (md : FMode) (rn : Rnd) (f : Nat) (xs : List FVal) : Nm (List Byte) :=
  renderFrom md rn f 0 xs

/-- n free bytes, from free value number k on (log 6). -/
def freeBytes (k n : Nat) : List Byte :=
  (List.range n).map (fun i => (Config.freeWord (k + i)).setWidth 8)

/-- The canonical NaNs that a descriptor which cannot run, or met an uncorrectable word, leaves in n elements; a format without a
NaN gets free bytes (R173, R256, R323, log 12). -/
def nanBytes (k f n : Nat) : List Byte :=
  if f = fT32 then wordBytes (List.replicate n nan32)
  else if f = fT32C then wordBytes (List.replicate n nan32) ++ List.replicate (2 * n) 0
  else if f = fT16 then halfBytes (List.replicate n nan16)
  else freeBytes k (fmtBytes f n)

/-! ### The running recipe -/

/-- A recipe with nothing in it. -/
def Recipe.none : Recipe :=
  { head := { isRun := true, legacy := false, jobId := 0, coreMask := 0, seed := 0, base := 2, beatUs := 200, gapPct := 8,
              replayMax := 4, fenceLimit := 256, splitReserve := 1, stkHigh := 0xC0, stkHard := 0xE0, stkHead := 8,
              beats := 1, decay := 0x3F7AE148, keyId := 0 },
    size := 0, tensors := [], regions := [], layers := [], segs := [], slots := [], descs := [], budgets := [], hash := [],
    layout := [] }

/-- The recipe a descriptor runs under: the running one, or one with nothing in it. -/
def State.cur (s : State) : Recipe :=
  s.runningRecipe.getD Recipe.none

/-- Whether a training recipe runs. -/
def State.train (s : State) : Bool :=
  !s.cur.head.isRun

/-- The region of a kind that the running recipe names. -/
def State.regionOfKind (s : State) (k : Nat) : Option Nat :=
  ((s.cur.regions.find? (fun e => e.kind == k)).map (·.region))

/-- The region of a kind that the device itself keeps bytes in: the one the recipe in force names, else the lowest that is allocated (R220,
R378, log 56). -/
def State.ownRegion (s : State) (k : Nat) : Option Nat :=
  match s.regionOfKind k with
  | some r => some r
  | none => (s.mem.regions.find? (fun e => e.2.kind == k)).map (·.1)

/-- How a descriptor computes (R41, R42). -/
def State.mode (s : State) (d : Desc) : FMode :=
  { legacy := s.cur.head.legacy, sat := Desc.sat d }

/-- How a descriptor's narrow results round (R54, R55, R241). -/
def State.rnd (s : State) (d : Desc) : Rnd :=
  if Desc.sr d then .sr { seed := s.cur.head.seed, step := s.stp.step, tensor := (Desc.opD d).tensor } else .nearest

/-! ### Estimator records and scales (R211 to R214) -/

/-- The record of a group an attempt starts from: a correction of the step, else the committed record. -/
def State.estRec (s : State) (g : Nat) : Word × Word :=
  match Tab.find s.stp.base g with
  | some r => r
  | none =>
    match s.regionOfKind 6 with
    | none => (0, 0)
    | some r =>
      let b := s.regRead false r (8 * g) 8
      (BitVec.ofNat 32 (leNat (b.take 4)), BitVec.ofNat 32 (leNat (b.drop 4)))

/-- A record written to the working bank: part of a frame (R318). -/
def State.estPut (s : State) (g : Nat) (e w1 : Word) : State :=
  match s.regionOfKind 6 with
  | none => s
  | some r => (s.regWrite r (8 * g) (wordBytes [e, w1])).account r (8 * g) 8 true

/-- The read of a record counted (R318). -/
def State.estLook (s : State) (g : Nat) : State :=
  match s.regionOfKind 6 with
  | none => s
  | some r => s.account r (8 * g) 8 false

/-- s = E × 2^h / L rounded once to T16 (R213), under SAT as the descriptor says (R41). -/
def scaleFrom (md : FMode) (e : Word) (h f : Nat) : Nm Half := do
  let q := ((unpack32 md.legacy e).mul (.fin false 1 h)).div (.fin false (topLevel f) 0)
  return pack16 (← roundTo 8 md true q.1 q.2)

/-- The tensor table entry of a number. -/
def State.tensor (s : State) (t : Nat) : Option Tensor :=
  s.cur.tensors[t]?

/-- E of a group: that of its record, or in first use its initial one, +0 for a weight group (R213). -/
def firstUse (init e : Word) : Word := if e = 0 then init else e

/-- The initial estimate of a tensor's data groups. -/
def State.initEst (s : State) (tensor : Nat) : Word :=
  ((s.tensor tensor).map (·.initE)).getD 0

/-- E_used of a data group: its committed estimate, or INIT_E in first use (R213). -/
def State.dataEst (s : State) (t : Tensor) (g : Nat) : Word :=
  firstUse t.initE (s.estRec g).1

/-- The scale of a Q8 tensor's group (R213); a free one for an operand that names no tensor (log 13). -/
def State.dataScale (s : State) (md : FMode) (tensor : Nat) (group : Option Nat) : Nm Half :=
  match s.tensor tensor with
  | none => return Config.noTensorScale
  | some t => scaleFrom md (s.dataEst t (group.getD t.estBase)) t.headroom t.fmt

/-- The record as the attempt's own corrections leave it (R214). -/
def State.estNow (s : State) (g : Nat) : Word × Word :=
  (Tab.find s.stp.corr g).getD (s.estRec g)

/-- E' = max(a, DECAY × E), each operation rounded once (R212). -/
def State.estNext (s : State) (md : FMode) (g : Nat) (init a : Word) : Nm Word := do
  let p ← mul32 md s.cur.head.decay (firstUse init (s.estNow g).1)
  max32 md a p

/-- The step's write of E': AGE grows by 1, CORR keeps what the step's corrections set (R212, R214); a further observation of the
group in the attempt keeps the larger estimate (log 14). -/
def State.observe (s : State) (g : Nat) (e : Word) : State :=
  let r := s.estNow g
  let age := min 0xFFF (fld r.2 31 20 + 1)
  let corr := if (Tab.find s.stp.corr g).isSome || (Tab.find s.stp.base g).isSome then fld r.2 19 16 else 0
  let prev : Word := match s.regionOfKind 6 with
    | some q => if s.stp.observed.contains g then BitVec.ofNat 32 (leNat (s.regRead true q (8 * g) 4)) else 0
    | none => 0
  let e' := if (unpack32 s.cur.head.legacy e).lt (unpack32 s.cur.head.legacy prev) then prev else e
  let s1 := (s.estLook g).estPut g e' (at_ age 20 + at_ corr 16)
  { s1 with stp := { s1.stp with observed := g :: s1.stp.observed } }

/-- A scale correction: E ← 2 × max(a, E), AGE 0, CORR one more in the step (R214). -/
def State.correct (s : State) (md : FMode) (g : Nat) (init a : Word) : State :=
  let cur := s.estNow g
  let n := if (Tab.find s.stp.corr g).isSome || (Tab.find s.stp.base g).isSome then fld cur.2 19 16 else 0
  let run : Nm Word := do
    let m ← max32 md a (firstUse init cur.1)
    mul32 md 0x40000000 m
  let r := run.run fx0
  let s1 := { s with stp := { s.stp with corr := Tab.put s.stp.corr g (r.1, at_ (min 15 (n + 1)) 16) } }
  s1.count cUpdScorr 1

end Sys2Proof.Machine
end

