-- ==== Sys2Proof/Machine/Units.lean ====
section
/-! DEFINITION. Units and their history (R21, R360 to R365): corrected events, errors, directed-test failures, and what the
classification of a unit as PERMANENT does. -/

namespace Sys2Proof.Machine

/-- Classes of R360. -/
def uCore : Nat := 1
def uArray : Nat := 2
def uRow : Nat := 3
def uConv : Nat := 4
def uDga : Nat := 5
def uBank : Nat := 6
def uAdder : Nat := 7
def uPort : Nat := 8
def uLane : Nat := 9
def uGddr : Nat := 0xA
def uRetired : Nat := 0xB

/-- Classes whose entries share the pool (R362). -/
def pooled (cls : Nat) : Bool :=
  cls == uRow || cls == uConv || cls == uBank || cls == uRetired

/-- The physical core that serves a logical core: die × 68 + number; 0x3FF while absent (R21, R24; the map at manufacture is
log 2). -/
def State.phys (s : State) (core : Nat) : Nat :=
  if s.flt.absent.contains core then 0x3FF else Tab.get s.flt.coreMap core (core / 64 * 68 + core % 64)

/-- The operating hour in 1/256 h (R361). -/
def State.hour256 (s : State) : Nat :=
  s.evt.hours / 256

/-- An entry with no event (R361). -/
def State.freshHist (s : State) (cls unit : Nat) : UnitHist :=
  { cls := cls, unit := unit, ce := 0, err := 0, first := 0, last := 0, prev := 0, state := .clean, dtFail := false,
    lastEvent := 0, phys := if cls = uCore then s.phys unit else 0 }

/-- The entry of a unit, when it has one. -/
def State.hist? (s : State) (cls unit : Nat) : Option UnitHist :=
  s.flt.hist.find? (fun e => e.cls == cls && e.unit == unit)

/-- The entry of a unit, or one with no event. PHYS is the core that serves now, a temporary spare among them (R361, R370). -/
def State.histOf (s : State) (cls unit : Nat) : UnitHist :=
  let e := (s.hist? cls unit).getD (s.freshHist cls unit)
  if cls = uCore then { e with phys := s.phys unit } else e

/-- The pooled entry a new one replaces: the CLEAN one with the lowest CE_COUNT, then class, then unit; otherwise the TRANSIENT one
with the oldest error (R362). -/
def victim (l : List UnitHist) : Option UnitHist :=
  let p := l.filter (fun e => pooled e.cls)
  let pick (a : Option UnitHist) (e : UnitHist) (lt : UnitHist → UnitHist → Bool) : Option UnitHist :=
    match a with
    | none => some e
    | some b => if lt e b then some e else some b
  let c := (p.filter (fun e => e.state == .clean)).foldl (fun a e => pick a e (fun x y =>
    x.ce < y.ce || (x.ce == y.ce && (x.cls < y.cls || (x.cls == y.cls && x.unit < y.unit))))) none
  match c with
  | some e => some e
  | none => (p.filter (fun e => e.state == .transient)).foldl (fun a e => pick a e (fun x y => x.last < y.last)) none

/-- The list with a unit's entry set; none when the pool is full and no entry can be reused (R362). -/
def putHist (l : List UnitHist) (e : UnitHist) : Option (List UnitHist) :=
  if l.any (fun x => x.cls == e.cls && x.unit == e.unit) then
    some (l.map (fun x => if x.cls == e.cls && x.unit == e.unit then e else x))
  else if !pooled e.cls || (l.filter (fun x => pooled x.cls)).length < 32768 then some (l ++ [e])
  else (victim l).map (fun v => l.filter (fun x => !(x.cls == v.cls && x.unit == v.unit)) ++ [e])

/-- An entry written, or the event counted as not recorded (R362). -/
def State.setHist (s : State) (e : UnitHist) : State :=
  match putHist s.flt.hist e with
  | some l => { s with flt := { s.flt with hist := l } }
  | none => s.count cHistLost 1

/-- n corrected events of a unit (R363). -/
def State.chargeCe (s : State) (cls unit n : Nat) : State :=
  if n = 0 then s
  else
    let e := s.histOf cls unit
    s.setHist { e with ce := min 0xFFFFFFFF (e.ce + n) }

/-- An array becomes QUARANTINED; its products run in reference mode from the next tick (R120, R139). -/
def State.quarantine (s : State) (a : Nat) : State :=
  s.setArray a { s.array a with status := 3, refNext := true }

/-- A list of arrays QUARANTINED. -/
def State.quarantineAll (s : State) (l : List Nat) : State :=
  match l with
  | [] => s
  | a :: r => (s.quarantine a).quarantineAll r

/-- A logical core waits to be moved to a spare (R139, R374). -/
def State.queueMove (s : State) (core : Nat) : State :=
  { s with flt := { s.flt with moving := if s.flt.moving.contains core then s.flt.moving else s.flt.moving ++ [core] } }

/-- A core that is PERMANENT waits to be moved, and the attempt is withheld (R365, R374). -/
def State.moveCore (s : State) (core : Nat) : State :=
  (s.queueMove core).cause 0xA

/-- The device becomes LOST: foreground work stops (R24, R327, R350). FAULT is left only through reset (R381). -/
def State.lose (s : State) : State :=
  let s1 := { s with stp := { s.stp with active := false, halted := true } }
  if s.hif.state = .fault then s1 else s1.setState .lost

/-- The store a STORE_BANK unit lies in: a core's local store, or 128 + a cluster's store (R360). -/
def storeOf (unit : Nat) : Nat :=
  if unit < 16512 then unit / 129 else 128 + (unit - 16512) / 33

/-- What is done with a unit classified PERMANENT (R365). -/
def State.permanent (s : State) (cls unit : Nat) : State :=
  if cls = uCore then s.moveCore unit
  else if cls = uDga then s.moveCore (unit / 2)
  else if cls = uArray then s.quarantine unit
  else if cls = uConv then
    s.quarantineAll ((List.range 4).map (fun b => 16 * (unit / 16640) + 4 * b + unit % 16640 / 4160))
  else if cls = uBank then
    if (s.flt.spareBanks ++ s.flt.bankNext).any (fun u => storeOf u == storeOf unit && u != unit) then
      if unit < 16512 then s.moveCore (unit / 129) else s.lose
    else { s with flt := { s.flt with bankNext := s.flt.bankNext ++ [unit] } }
  else if cls = uPort then s.setPort unit { s.port unit with downNext := true }
  else if cls = uGddr then { s with flt := { s.flt with lostNext := true } }
  else s

/-- Whether an error makes a unit PERMANENT: a directed-test failure, or the third error within 200 h (R364). -/
def nowPermanent (e : UnitHist) (h : Nat) (dt : Bool) : Bool :=
  dt || (decide (2 ≤ e.err) && decide (h - e.prev ≤ 51200))

/-- An entry after an error at hour h (R364). -/
def UnitHist.withError (e : UnitHist) (h code : Nat) (dt : Bool) : UnitHist :=
  { e with err := min 0xFFFFFFFF (e.err + 1), first := if e.err = 0 then h else e.first, prev := e.last, last := h,
           dtFail := e.dtFail || dt, lastEvent := code,
           state := match e.state with
             | .permanent => .permanent
             | .retired => .retired
             | .clean => if nowPermanent e h dt then .permanent else .transient
             | .transient => if nowPermanent e h dt then .permanent else .transient }

/-- An error charged to a unit, as the event `code` reported it; `dt` is a directed-test failure (R363 to R365). -/
def State.chargeErr (s : State) (cls unit code : Nat) (dt : Bool) : State :=
  let e := s.histOf cls unit
  let e' := UnitHist.withError e s.hour256 code dt
  let s1 := s.setHist e'
  if e'.state = .permanent ∧ e.state ≠ .permanent then
    ((s1.count cPerm 1).raiseU 0xB002 (cls * 2 ^ 22 + unit)
      [wd (cls * 2 ^ 28 + unit), wd e'.err, wd (b2n e'.dtFail * 2 ^ 27 + code)]).permanent cls unit
  else if e'.state = .transient then s1.count cTrans 1
  else s1

/-- A directed-test or captured-pattern failure, which raises no event of its own (R364). -/
def State.dtFailure (s : State) (cls unit : Nat) : State :=
  s.chargeErr cls unit 0xB002 true

/-- A list of (class, unit) that failed directed tests. -/
def State.dtFailures (s : State) (l : List (Nat × Nat)) : State :=
  match l with
  | [] => s
  | u :: r => (s.dtFailure u.1 u.2).dtFailures r

/-- CLASS_CLEAR: the entry returns to CLEAN, keeping CE_COUNT and PHYS (R364). -/
def State.clearHist (s : State) (cls unit : Nat) : State :=
  let e := s.histOf cls unit
  s.setHist { e with state := .clean, err := 0, first := 0, last := 0, prev := 0, dtFail := false, lastEvent := 0 }

/-- The words of an entry (R361). -/
def UnitHist.words (e : UnitHist) : List Word :=
  let st := match e.state with
    | .clean => 0
    | .transient => 1
    | .permanent => 2
    | .retired => 3
  [wd (e.cls * 2 ^ 28 + e.unit), wd e.ce, wd e.err, wd e.first, wd e.last, wd e.prev,
   wd (st * 2 ^ 28 + b2n e.dtFail * 2 ^ 27 + e.lastEvent), wd e.phys]

/-- The STORE_BANK unit of a core address (R170, R360). -/
def bankUnit (core addr : Nat) : Nat :=
  if addr < localBytes then core * 129 + addr / 64 % 128
  else 16512 + core / 8 * 33 + (addr - clusterBase) / 256 % 32

/-- Spare cores left on a die (R386): of its 68 physical cores, those that serve no logical core, were not left by a swapped one and
are not out of service. -/
def State.sparesLeft (s : State) (die : Nat) : List Nat :=
  ((List.range 68).map (fun p => die * 68 + p)).filter (fun p =>
    !((List.range 64).map (fun k => s.phys (die * 64 + k))).contains p && !s.flt.usedPhys.contains p
      && s.flt.swapped.all (fun e => e.2 != p))

/-- A packet received whole at a port: the run of tag failures ends, and the blocks asked for again have come (R291, R301). -/
def State.sealOk (s : State) (port : Nat) : State :=
  s.setPort port { s.port port with sealFails := 0, rxWant := none }

/-- The adder lanes of a port's Ladle that are quarantined: those its history holds as PERMANENT (R283, R288, R365). -/
def State.quarLanes (s : State) (port : Nat) : List Nat :=
  (s.flt.hist.filter (fun e => e.cls == uAdder && e.unit / 513 == port && e.unit % 513 != 512 && e.state == .permanent)).map
    (fun e => e.unit % 513)

/-- Whether the spare lane is out of service, and whether it serves a quarantined lane. -/
def State.spareBad (s : State) (port : Nat) : Bool :=
  ((s.hist? uAdder (port * 513 + 512)).map (fun e => e.state == .permanent)).getD false

def State.spareServes (s : State) (port : Nat) : Bool :=
  !(s.quarLanes port).isEmpty && !s.spareBad port

/-- Whether a logical core is absent (R24). -/
def State.isAbsent (s : State) (core : Nat) : Bool :=
  s.flt.absent.contains core

end Sys2Proof.Machine
end

