-- ==== Sys2Proof/Machine/Run.lean ====
section
/-! DEFINITION. How any descriptor runs: what its operands cover (R243 to R253), whether it may run, what the memories report
of it (R171, R173, R239, R323), and its end (R172, R184). -/

namespace Sys2Proof.Machine

/-- An operand's extent: n elements of a format in so many bytes, read or written. `elems` elements, and so many bytes `span`, must lie in the
operand's tensor (R243). -/
structure Ext where
  op : Opnd
  fmt : Nat
  n : Nat
  bytes : Nat
  write : Bool
  elems : Nat
  span : Nat
deriving DecidableEq, Repr

/-- n elements in the operand's own format. -/
def extOf (o : Opnd) (n : Nat) (write : Bool) : Ext :=
  { op := o, fmt := o.fmt, n := n, bytes := fmtBytes o.fmt n, write := write, elems := n, span := 0 }

/-- n elements of a given format, of no tensor. -/
def extAs (o : Opnd) (f n : Nat) (write : Bool) : Ext :=
  { op := o, fmt := f, n := n, bytes := fmtBytes f n, write := write, elems := 0, span := 0 }

/-- An extent whose n elements are elements of its tensor. -/
def Ext.counted (x : Ext) (n : Nat) : Ext :=
  { x with elems := n }

/-- An extent whose bytes are bytes of its tensor. -/
def Ext.spanned (x : Ext) : Ext :=
  { x with span := x.bytes }

/-- A run of bytes. -/
def extRaw (o : Opnd) (bytes : Nat) (write : Bool) : Ext :=
  { op := o, fmt := fQ8U, n := bytes, bytes := bytes, write := write, elems := 0, span := 0 }

/-- A run of bytes of a destination, in as many elements of its floating-point format as it holds. -/
def extRun (o : Opnd) (bytes : Nat) : Ext :=
  if o.fmt = fT32 ∨ o.fmt = fT32C ∨ o.fmt = fT16 then
    { op := o, fmt := o.fmt, n := bytes / fmtBytes o.fmt 1, bytes := bytes, write := true, elems := 0, span := 0 }
  else extRaw o bytes true

/-- The plane of scales, tables or zero points of n elements. -/
def extAux (o : Opnd) (f n : Nat) : List Ext :=
  if auxBytes f n = 0 then [] else [extRaw o (auxBytes f n) false]

/-- EWISE functions: how many inputs (R247). -/
def ewiseInputs (fn : Nat) : Nat :=
  if fn = 3 ∨ fn = 6 then 3 else if fn = 7 then 1 else if fn < 6 then 2 else 1

/-- Fields of the AMP descriptor (R245). -/
def ampNvec (d : Desc) : Nat := Desc.f d 10 31 16
def ampEnable (d : Desc) : Nat := Desc.f d 10 3 0
def ampBank (d : Desc) : Nat := Desc.f d 10 5 4

/-- Bytes of one array's entry in an image's outlier part: a directory and its segment, padded to 64 (R248). -/
def dirBytes : Nat := 128

/-- Bytes of an array's codes in an image, and of its scale plane. -/
def imageBytes (f : Nat) : Nat := fmtBytes f 524288
def planeBytes : Nat := 16384

/-- Elements that q columns of k take in whole blocks of 64 where a format has blocks (R49, R165). -/
def blockElems (f k q : Nat) : Nat :=
  if f = fX4T ∨ f = fX4Z then 64 * cdiv k 64 * q else k * q

/-- The operand that holds the comp plane of masters (R455): the MASTER_COMP region at half the offset. -/
def compOpnd (r : Recipe) (o : Opnd) : List Opnd :=
  match r.regions.find? (fun e => e.kind == 4) with
  | some e => [{ o with mem := true, region := e.region, addr := o.addr / 2 }]
  | none => []

/-- Masters read, and those written. -/
def extMasters (r : Recipe) (o : Opnd) (n : Nat) (write : Bool) : List Ext :=
  (extAs o fT32 n write).counted n :: (compOpnd r o).map (fun c => extRaw c (2 * n) write)

/-- The format of x̂ in a NORM record: D's own where it is T16, else T32 (R197, log 15). -/
def normFmt (f : Nat) : Nat := if f = fT16 then fT16 else fT32

/-- Where the record of a NORM lies: x̂ right after D's results, then r (log 15). -/
def normXhat (o : Opnd) (n : Nat) : Opnd :=
  { o.at (fmtBytes o.fmt n) with fmt := normFmt o.fmt }

/-- Moments of an UPDATE: m and for ADAMW also v, the latter after the layer's m (R206, R209, log 22). -/
def extMoments (r : Recipe) (d : Desc) (write : Bool) : List Ext :=
  let f := if Desc.flag d 10 5 then fT16 else fT32
  let w := if Desc.flag d 10 5 then 2 else 4
  let first := (Desc.word d 11).toNat
  let n := (Desc.word d 12).toNat
  let m := ((r.layers[Desc.layer d]?).map (·.masters)).getD 0
  (extAs ((Desc.opC d).at (first * w)) f n write).counted n ::
    (if Desc.f d 10 3 0 = 2 then [(extAs ((Desc.opC d).at ((m + first) * w)) f n write).counted n] else [])

/-- The members of a collective's group; two where the group is not defined, the fewest there can be. -/
def membersOf (gs : Tab Group) (d : Desc) : Nat :=
  ((Tab.find gs (Desc.word d 11).toNat).map (fun g => g.members.length)).getD 2

/-- What a collective covers: A, D, and in S1 the error memory, read and written (R265, R276). -/
def collExts (gs : Tab Group) (d : Desc) : List Ext :=
  let n := (Desc.word d 12).toNat
  let op := Desc.opcode d
  let dA := Desc.opA d
  let dD := Desc.opD d
  let dC := Desc.opC d
  (if op = 0x74 ∧ dA.isNone then [] else [extOf dA n false])
    ++ (if op = 0x74 ∧ dD.isNone then []
        else if op = 0x71 then [(extAs dD fT32 n true).counted n]
        else if op = 0x72 then [extOf dD (membersOf gs d * n) true] else [extOf dD n true])
    ++ (if Desc.f d 10 7 4 = 2 ∧ dC.mem then [extAs dC fT32 n false, extAs dC fT32 n true] else [])

/-- Rows of bytes of an operand: those of its tensor, else one. -/
def tableRows (r : Recipe) (o : Opnd) : Nat :=
  match r.tensors[o.tensor]? with
  | some t => max 1 t.dim1
  | none => 1

/-- The operands of a descriptor, with what each covers (R245 to R253). Of what a descriptor's data decide (the rows of a gather or
scatter, the segment behind a directory) it holds what the recipe fixes. -/
def descExts (r : Recipe) (gs : Tab Group) (d : Desc) : List Ext :=
  let w10 := (Desc.word d 10).toNat
  let w11 := (Desc.word d 11).toNat
  let w12 := (Desc.word d 12).toNat
  let dD := Desc.opD d
  let dA := Desc.opA d
  let dB := Desc.opB d
  let dC := Desc.opC d
  let op := Desc.opcode d
  let sum := fun (n : Nat) (acc : Bool) => (if acc then [(extAs dD fT32 n false).counted n] else []) ++ [extOf dD n true]
  if op = 0x10 then
    let nch := Desc.f d 12 5 0
    [(extRaw dA (1024 * ampNvec d) false).counted (1024 * ampNvec d)] ++ sum (512 * popCount 4 (ampEnable d) * ampNvec d) (Desc.flag d 10 8)
      ++ (if nch = 0 then [] else [extRaw dB (64 * ampNvec d) false, extRaw dC (4 * nch) false])
  else if op = 0x20 then
    let k := w10
    let p := Desc.f d 11 31 16
    let q := Desc.f d 11 15 0
    [extOf dA (k * p) false, (extAs dB dB.fmt (blockElems dB.fmt k q) false).counted (k * q)] ++ sum (p * q) (Desc.flag d 12 0)
      ++ extAux dC dB.fmt (blockElems dB.fmt k q)
  else if op = 0x21 then
    [extOf dA w10 false, extOf dB w10 false, extOf dD w10 true] ++ (if Desc.flag d 12 2 then [extOf dC w10 false] else [])
  else if op = 0x30 then
    let n := w10 * w11
    let k := ewiseInputs (Desc.f d 13 7 0)
    [extOf dA n false] ++ (if 2 ≤ k then [extOf dB n false] else []) ++ (if 3 ≤ k then [extOf dC n false] else [])
      ++ [extOf dD n true]
  else if op = 0x31 then [extOf dA (w10 * w11) false, extOf dD w11 true]
  else if op = 0x32 then [extOf dA (w10 * w11) false, extOf dD (w10 * w11) true]
  else if op = 0x33 then
    let n := w10 * w11
    let x := normXhat dD n
    [extOf dA n false, extOf dB w10 false, extOf dC w10 false, extOf dD n true]
      ++ (if r.head.isRun then [] else [extAs x x.fmt n true, extAs (x.at (fmtBytes x.fmt n)) fT32 w11 true])
  else if op = 0x34 ∨ op = 0x35 then
    [extOf dA (w10 * w11) false, extOf dB (w10 * w11) false, extOf dD (w10 * w11) true]
  else if op = 0x36 then
    let acc := dD.at (fmtBytes dD.fmt (w10 * w11))
    [extOf dA (w10 * w11) false, extAs (dA.at (fmtBytes dA.fmt (w10 * w11))) fT32 w11 false, extOf dB (w10 * w11) false,
     extOf dC w10 false, extOf dD (w10 * w11) true, extAs acc fT32 (2 * w10) false, extAs acc fT32 (2 * w10) true]
  else if op = 0x37 then
    [extOf dA (w10 * w11) false, (extRaw dB (4 * w11) false).spanned, extOf dD (w10 * w11) true]
  else if op = 0x38 then
    [(extRaw dA (w11 * w12) false).spanned, (extRaw dB (4 * w10) false).spanned, (extRun dD (w10 * w11)).spanned]
  else if op = 0x39 ∨ op = 0x3A then
    [(extRaw dA (w10 * w11) false).spanned, (extRaw dB (4 * w10) false).spanned, (extRun dD (tableRows r dD * w11)).spanned]
  else if op = 0x40 then
    let nch := Desc.f d 12 5 0
    let vecs := fun (o : Opnd) => match r.tensors[o.tensor]? with
      | some t => if t.dim0 = 0 then 1 else w10 / t.dim0
      | none => 1
    [extOf dA w10 false, extOf dD w10 true] ++ extAux dB dA.fmt w10
      ++ (if isW dD.fmt then [extRaw dB (auxBytes dD.fmt w10) false, extRaw dB (auxBytes dD.fmt w10) true] else [])
      ++ (if nch = 0 then []
          else if isQ8 dD.fmt then [extRaw dC (4 * nch) false, extAs dB fT16 (32 * vecs dD) true]
          else if isQ8 dA.fmt then [extRaw dC (4 * nch) false, extAs dB fT16 (32 * vecs dA) false] else [])
  else if op = 0x41 then
    let nch := Desc.f d 12 21 16
    let narr := Desc.f d 13 11 0
    extMasters r dA (w10 * Desc.f d 11 31 16) false
      ++ [extRaw dD (narr * imageBytes dD.fmt) true, extRaw dB (narr * planeBytes) true,
          extRaw { dD with addr := (Desc.word d 14).toNat } (narr * dirBytes) true]
      ++ (if nch = 0 then [] else [extRaw dC (4 * nch) false])
  else if op = 0x50 then [(extRaw dA (256 * w11) false).spanned]
  else if op = 0x51 then [(extRun dD (256 * w11)).spanned]
  else if op = 0x60 then [(extRaw dA w10 false).spanned, (extRun dD w10).spanned]
  else if op = 0x61 then [extOf dA (w10 * w11) false, extOf { dD with fmt := dA.fmt } (w10 * w11) true]
  else if op = 0x62 then [(extRaw dA (tableRows r dA * w11) false).spanned, (extRaw dB (4 * w10) false).spanned, (extRun dD (w10 * w11)).spanned]
  else if op = 0x63 then
    [(extAs dA dA.fmt (w10 * w11) false).counted (w10 * w11), extRaw dB (2 * (cdiv w11 64 * w10)) false, extOf { dD with fmt := fT16 } (w10 * w11) true]
      ++ (if dC.isNone then [] else [extRaw dC dirBytes false])
  else if op / 16 = 7 then collExts gs d
  else if op = 0x80 then
    [extOf dA w12 false, extRaw dD (32 * tableRows r dD) false] ++ extMasters r dB w12 false ++ extMoments r d false
      ++ extMasters r dB w12 true ++ extMoments r d true
  else if op = 0x90 then
    [extRaw dA (imageBytes dA.fmt) false, extRaw dB planeBytes false] ++ (if dC.isNone then [] else [extRaw dC dirBytes false])
  else if op = 0xA0 then [extOf dA w12 false]
  else if op = 0xB0 then [(extRaw dA (4 * w10) false).spanned, (extRaw dD 8 true).spanned]
  else []

/-- Entries of a segment that its directory covers. -/
def segWords (dir : List Word) : Nat :=
  (List.range 8).foldl (fun m g => max m ((dir.getD (1 + g) 0).toNat + (dir.getD (9 + g) 0).toNat))
    (256 * (dir.headD 0).toNat)

/-- Bytes from an operand's address to the end of its region, bank of a pair or store. -/
def State.roomOf (s : State) (o : Opnd) : Nat :=
  if o.mem then (if pairKind (s.regionKind o.region) then s.bankBytes o.region else s.regionBytes o.region) - o.addr
  else if o.addr < localBytes then localBytes - o.addr
  else clusterBase + clusterBytes - o.addr

/-- Rows of a gather's source or a scatter's destination: its tensor's DIM1 rows, or for an operand that names no tensor those of so
many bytes that fit in its region or store from ADDR on (R175, log 16). -/
def State.rowBound (s : State) (o : Opnd) (rb : Nat) : Nat :=
  match s.tensor o.tensor with
  | none => s.roomOf o / max rb 1
  | some t => t.dim1

/-- The core whose store a descriptor's core operands name: CORE, or TARGET of a DMA descriptor (R250). -/
def Desc.home (d : Desc) : Nat :=
  if Desc.opcode d / 16 = 6 then Desc.f d 12 7 0 % 128 else Desc.core d % 128

/-! ### Slots and micro-batches -/

/-- The slot table entry of a descriptor. -/
def State.slotOf (s : State) (d : Desc) : Option Slot :=
  s.cur.slots[Desc.slot d]?

/-- The micro-batch of a descriptor: its own field for PUSH and POP, else its slot's; none for 0xFFFF (R236, R249). -/
def State.mbOf (s : State) (d : Desc) : Option Nat :=
  if Desc.opcode d = 0x50 ∨ Desc.opcode d = 0x51 then some (Desc.f d 12 15 0)
  else
    match s.slotOf d with
    | none => none
    | some sl => if sl.mb = 0xFFFF then none else some sl.mb

/-- The kind of a descriptor's slot (R236). -/
def State.kindOf (s : State) (d : Desc) : Nat :=
  ((s.slotOf d).map (·.kind)).getD 0

/-- A micro-batch of a step. -/
def mbKey (step mb : Nat) : Nat := step * 65536 + mb

/-- The micro-batch a descriptor works for: in a FWD or RESERVE slot that of the step; elsewhere the oldest one of its number for which it
has not run, since a late micro-batch runs on in a later step (R198, R199, log 108). -/
def State.instOf (s : State) (d : Desc) : Option Nat :=
  (s.mbOf d).map (fun m =>
    if s.kindOf d = 0 ∨ s.kindOf d = 8 then mbKey s.stp.step m
    else ((s.stp.tags.filter (fun p => p.1 % 65536 == m && !s.stp.mbRan.contains (p.1, d.num))).map (·.1)).foldl min
      (mbKey s.stp.step m))

/-! ### Reference mode (R110, R117) -/

/-- The array that a descriptor's array number acts on: the one that took its block, after choice 1 of R139. -/
def State.placed (s : State) (a : Nat) : Nat :=
  (s.array a).moved.getD a

/-- The arrays a product enables, with their positions; a re-placed one stands for the array it took over from (R139). -/
def State.ampArrays (s : State) (d : Desc) : List (Nat × Nat) :=
  ((List.range 4).filter (fun p => (ampEnable d / 2 ^ p) % 2 == 1)).map (fun p =>
    (p, s.placed (16 * (Desc.core d % 128) + 4 * ampBank d + p)))

/-- The epoch tag of a descriptor's micro-batch (R198). -/
def State.tagOf (s : State) (d : Desc) : Option Nat :=
  (s.instOf d).bind (Tab.find s.stp.tags)

/-- Whether a descriptor recomputes a segment whose arrays no longer hold its micro-batch's epoch (R191). -/
def State.oldEpoch (s : State) (d : Desc) (arrs : List (Nat × Nat)) : Bool :=
  ((s.slotOf d).map (·.kind)).getD 0 == 9 && (match s.tagOf d with
    | some e => arrs.any (fun a => (s.array a.2).epoch != e)
    | none => false)

/-- Whether a product runs in reference mode: by its flag, or forced by temperature, a REXT fault, CAL_LAG, a bad calibration
block, a bank at twice its scrub period, a SHORT or QUARANTINED array, a step after a recovery, or a recompute of an epoch that the
arrays no longer hold (R110, R117, R135, R139, R142, R143, R146, R191). -/
def State.ampRef (s : State) (d : Desc) (arrs : List (Nat × Nat)) : Bool :=
  let c := s.core (Desc.core d % 128)
  Desc.ref d || s.ana.coldRef || s.ana.hotRef || s.cal.rextFault || c.lagRef || c.calBlock || c.ageRef.getLsbD (ampBank d)
    || s.stp.refAll || arrs.any (fun a => (s.array a.2).refOn) || s.oldEpoch d arrs

/-- The sources an array's weights come from, the newest first: those kept for a re-placement before those written (R139). -/
def ArrayS.sources (x : ArrayS) : List RowSrc :=
  x.pendSrc ++ x.src

/-- The region that holds the image of an epoch where the one given holds that of another (R198). -/
def State.imageAt (s : State) (epoch r : Nat) : Nat :=
  if s.regionKind r = 2 then
    ((s.cur.regions.find? (fun e => e.kind == 2 && e.index == epoch % 4)).map (·.region)).getD r
  else r

/-- An operand at a place in a region. -/
def regionAt (r off : Nat) : Opnd :=
  { tensor := 0xFF, fmt := 0, mem := true, region := r, addr := off }

/-- What a product in reference mode reads of the image: the codes and scales of its arrays' sources, in the image of its micro-batch's epoch,
and there the directory of the outlier part as well (R110, R191). -/
def State.refExts (s : State) (d : Desc) : List Ext :=
  let arrs := s.ampArrays d
  if s.ampRef d arrs then
    arrs.flatMap (fun a => (s.array a.2).sources.flatMap (fun x =>
      let e := (s.tagOf d).getD x.epoch
      let at_ := fun r => if x.epoch = e then r else s.imageAt e r
      [extRaw (regionAt (at_ x.region) x.addr) (imageBytes x.fmt) false, extRaw (regionAt (at_ x.sregion) x.saddr) planeBytes false]
        ++ (match x.part with
          | some p => if x.epoch = e then [] else [extRaw (regionAt (at_ p.1) p.2) dirBytes false]
          | none => [])))
  else []

/-- The operands of a descriptor as its run finds them: the rows that a scatter's indices name and the segment behind a directory are
those of the data, and a product in reference mode reads the image; the rows of a GATHER_MEM are dealt with as they are fetched. -/
def State.runExts (s : State) (d : Desc) : List Ext :=
  let op := Desc.opcode d
  let l := descExts s.cur s.rcp.groups d
  if op = 0x10 then l ++ s.refExts d
  else if op = 0x39 ∨ op = 0x3A then
    let rb := (Desc.word d 11).toNat
    let bound := s.rowBound (Desc.opD d) rb
    let idx := leWords (Desc.word d 10).toNat (s.opRead (Desc.home d) (Desc.opB d) (4 * (Desc.word d 10).toNat))
    l.take 2 ++ (idx.filter (fun i => decide (i.toNat < bound))).map (fun i => extRun ((Desc.opD d).at (i.toNat * rb)) rb)
  else if op = 0x62 then l.drop 1
  else if op = 0x63 ∨ op = 0x90 then
    let o := Desc.opC d
    if o.isNone then l
    else l ++ [extRaw (o.at dirBytes) (4 * min 131072 (segWords (leWords 32 (s.opRead (Desc.home d) o dirBytes)))) false]
  else l

/-- Assignments beyond an expert's capacity: in-range indices of B's tensor past the rows gathered (R177, log 16). -/
def State.routeDrops (s : State) (core : Nat) (o : Opnd) (n bound : Nat) : Nat :=
  match s.tensor o.tensor with
  | none => 0
  | some t =>
    let extra := t.dim0 * t.dim1 - n
    ((leWords extra (s.opRead core (o.at (4 * n)) (4 * extra))).filter (fun i => i.toNat < bound)).length

/-! ### Classes of descriptors (R244) -/

/-- Whether an opcode is one of R244. -/
def knownOp (op : Nat) : Bool :=
  op == 0 || op == 0x10 || op == 0x20 || op == 0x21 || (decide (0x30 ≤ op) && decide (op ≤ 0x3A)) || op == 0x40 || op == 0x41
    || op == 0x50 || op == 0x51 || (decide (0x60 ≤ op) && decide (op ≤ 0x63)) || (decide (0x70 ≤ op) && decide (op ≤ 0x74))
    || op == 0x80 || op == 0x90 || op == 0xA0 || op == 0xB0 || op == 0xB1 || op == 0xC0 || op == 0xC1

/-- Whether a descriptor is device-level (R244). -/
def deviceLevel (d : Desc) : Bool :=
  let op := Desc.opcode d
  op / 16 == 6 || op / 16 == 7 || op == 0xB1 || op == 0xC1 || (op == 0xC0 && Desc.f d 10 0 0 == 0)

/-- The engines of a descriptor by its flags, as (core, engine): 0 CONV, 1 DGA, 2 WHISK, 3 ROUTER, 4 LINKS, 8 + b BANK b (R244). -/
def enginesOf (d : Desc) : List (Nat × Nat) :=
  let op := Desc.opcode d
  let c := Desc.core d
  if op = 0x10 then if Desc.ref d then [(c, 1)] else [(c, 0), (c, 8 + ampBank d)]
  else if op / 16 = 2 then [(c, 1)]
  else if op / 16 = 3 ∨ op / 16 = 4 ∨ op = 0x80 ∨ op = 0xA0 ∨ op = 0xB0 then [(c, 2)]
  else if op / 16 = 5 then [(c, 3)]
  else if op / 16 = 7 ∨ op = 0xB1 then [(0, 4)]
  else if op = 0x90 then [((Desc.f d 10 10 0) / 16, 8 + Desc.f d 10 10 0 / 4 % 4)]
  else []

/-! ### Uncorrectable and corrected codewords (R173, R323) -/

/-- Readers of MEM_UE (R453). -/
def rdTrain : Nat := 1
def rdRun : Nat := 2
def rdBar4 : Nat := 3
def rdBackground : Nat := 4
def rdMgmt : Nat := 5

/-- Corrected GDDR7 codewords: counted, and charged to their devices (R323, R363). -/
def State.memCe (s : State) (l : List (Nat × Nat)) : State :=
  match l with
  | [] => s
  | x :: r => ((s.count cMemCe 1).chargeCe uGddr (s.deviceOf x.1 x.2) 1).memCe r

/-- Whether a byte of a region lies in a committed bank (R205). -/
def State.inCommitted (s : State) (r off : Nat) : Bool :=
  pairKind (s.regionKind r) && s.committedHalf r (off % max 1 (s.bankBytes r) / 2048) == off / max 1 (s.bankBytes r)

/-- Whether the device belongs to a replica group: the group of a DIGEST_EXCHANGE of the running recipe (R367). -/
def State.inReplica (s : State) : Bool :=
  s.cur.descs.any (fun d => Desc.opcode d == 0xB1 && (Tab.find s.rcp.groups (Desc.word d 11).toNat).isSome)

/-- The member that repairs this device's frames: of the live members of its replica groups but itself, the one with the lowest number (R368). -/
def State.repairer (s : State) : Option Nat :=
  let groups := (s.cur.descs.filter (fun d => Desc.opcode d == 0xB1)).filterMap (fun d => Tab.find s.rcp.groups (Desc.word d 11).toNat)
  let l := (groups.flatMap (fun g => g.members.map (·.1))).filter (fun m => m != s.device && !s.lnk.dead.contains m)
  l.find? (fun m => l.all (fun n => decide (m ≤ n)))

/-- An uncorrectable codeword of a committed bank that no replica can repair is handled as a loss of the device (R368). -/
def State.bankLoss (s : State) (r off : Nat) : State :=
  if s.inCommitted r off && !s.inReplica then { s with flt := { s.flt with lostTick := true } } else s

/-- Uncorrectable GDDR7 codewords read: counted, marked, charged and raised with their reader and core (R323, R368, R453). -/
def State.memUe (s : State) (reader core : Nat) (l : List (Nat × Nat)) : State :=
  match l with
  | [] => s
  | x :: r =>
    let dev := s.deviceOf x.1 x.2
    let key := (x.1, x.2 / 32)
    let s1 := { s with mem := { s.mem with
      poison := if s.mem.poison.contains key then s.mem.poison else key :: s.mem.poison } }
    let s2 := (s1.count cMemUe 1).raiseU 0x5001 (uGddr * 2 ^ 22 + dev)
      [wd (dev + 256 * x.1), wd x.2, wd (x.2 / 2 ^ 32), wd reader, wd core]
    ((s2.chargeErr uGddr dev 0x5001 false).bankLoss x.1 x.2).memUe reader core r

/-- The marked codewords within a run of bytes of a region (R323). -/
def State.poisonIn (s : State) (r off n : Nat) : List (Nat × Nat) :=
  (s.mem.poison.filter (fun m => m.1 == r && decide (0 < n) && decide (off < 32 * m.2 + 32) && decide (32 * m.2 < off + n))).map
    (fun m => (m.1, 32 * m.2))

/-- The marked codewords that an attempt's read of a run of a region meets (R205, R323). -/
def State.readPoison (s : State) (r off n : Nat) : List (Nat × Nat) :=
  if pairKind (s.regionKind r) then
    (piecesOf off n).flatMap (fun p => s.poisonIn r (s.attemptHalf r p.1 * s.bankBytes r + p.2.1) p.2.2)
  else s.poisonIn r off n

/-- Those that its write of part of a frame of a bank pair meets: the rest of the frame is read and kept (R205, R318). -/
def State.mergePoison (s : State) (r off n : Nat) : List (Nat × Nat) :=
  if pairKind (s.regionKind r) then
    (piecesOf off n).flatMap (fun p =>
      let b := s.attemptHalf r p.1 * s.bankBytes r
      (s.poisonIn r (b + 2048 * p.1) 2048).filter (fun m => !(decide (b + p.2.1 ≤ m.2) && decide (m.2 + 32 ≤ b + p.2.1 + p.2.2))))
  else []

/-- The codewords a descriptor's region operands meet already marked. -/
def State.descPoison (s : State) (d : Desc) : List (Nat × Nat) :=
  (s.runExts d).flatMap (fun x =>
    if !x.op.mem then []
    else if x.write then s.mergePoison x.op.region x.op.addr x.bytes
    else s.readPoison x.op.region x.op.addr x.bytes)

/-- The frame costs of region operands (R318). -/
def State.accountExts (s : State) (l : List Ext) : State :=
  match l with
  | [] => s
  | x :: r => (if x.op.mem then s.account x.op.region x.op.addr x.bytes x.write else s).accountExts r

/-- Corrected words of the stores: counted, and charged to their banks (R173, R363). -/
def State.storeCes (s : State) (core : Nat) (l : List Nat) : State :=
  match l with
  | [] => s
  | a :: r => ((s.count cStoreCe 1).chargeCe uBank (bankUnit core a) 1).storeCes core r

/-- An uncorrectable store word: counted, raised with core, store (0 local, 1 cluster) and bank, and charged; in a training recipe
the attempt fails (R173, R359). -/
def State.storeUe (s : State) (core : Nat) (a : Option Nat) : State :=
  match a with
  | none => s
  | some a =>
    let u := bankUnit core a
    let loc : Bool := decide (a < localBytes)
    let s1 := (s.count cStoreUe 1).raiseU 0x5101 (uBank * 2 ^ 22 + u)
      [wd core, wd (if loc then 0 else 1), wd (if loc then a / 64 % 128 else (a - clusterBase) / 256 % 32)]
    let s2 := s1.chargeErr uBank u 0x5101 false
    if s.train then s2.cause 7 else s2

/-- A mark that something of a key has happened in this attempt. -/
def State.mark (s : State) (code key : Nat) : State :=
  { s with stp := { s.stp with raised := (code, key) :: s.stp.raised } }

/-- Work past START + BUDGET: once for each slot of an attempt (R239, R259). -/
def State.noteLate (s : State) (late : Bool) (slot : Nat) : State :=
  if late && !s.stp.raised.contains (0, slot) then (s.mark 0 slot).count cSlotLate 1 else s

/-! ### The run of a descriptor -/

/-- A dropped micro-batch runs none of its remaining descriptors; its halves run in the reserve, where a half that was dropped runs no more
of its slots (R193, R194). -/
def State.dropped (s : State) (d : Desc) : Bool :=
  match s.mbOf d with
  | none => false
  | some m =>
    if s.kindOf d = 8 then s.stp.offSlots.contains (m, Desc.slot d)
    else match s.instOf d with
      | some i => s.stp.drops.contains i
      | none => false

/-- The segment of a layer, and whether it is re-computable (R190, R232, R233). -/
def State.segOf (s : State) (layer : Nat) : Nat :=
  ((s.cur.layers[layer]?).map (·.segment)).getD 0

def State.recomputable (s : State) (layer : Nat) : Bool :=
  ((s.cur.segs[s.segOf layer]?).map (·.recomp)).getD false

/-- Whether a layer's segment was thinned in a micro-batch of a step (R190). -/
def State.thinned (s : State) (inst layer : Nat) : Bool :=
  s.stp.thinSegs.contains (inst, s.segOf layer)

/-- A recompute descriptor of a segment that was not thinned does not run (R191). -/
def State.idleRecomp (s : State) (d : Desc) : Bool :=
  s.kindOf d == 9 && !(match s.instOf d with
    | some i => s.thinned i (Desc.layer d)
    | none => false)

/-- Whether a descriptor's turn comes at all: its slot not skipped, the descriptor without fault, its micro-batch not dropped, the
attempt not stopped, and no recompute of an unthinned segment (R191, R193, R210, R242, R256). -/
def State.willRun (s : State) (d : Desc) : Bool :=
  !s.stp.halted && !s.stp.skipped.contains (Desc.slot d) && !s.stp.faulted.contains d.num && !s.dropped d && !s.idleRecomp d

/-- Whether the sequencer lets a descriptor run: it is the running recipe's own, its slot has started, its turn comes, and it has not run in
this attempt (R239). -/
def State.runs (s : State) (d : Desc) : Bool :=
  s.cur.descs[d.num]? == some d && s.stp.slotsOn.contains (Desc.slot d) && s.willRun d && !s.stp.done.contains d.num

/-! ### The order of descriptors (R172, R184, R239, R263) -/

/-- The queues in which a descriptor keeps its place (R239): its engines, those of reference mode for a product that is forced into it
(R27, R117), and on LINKS the queue of its VC (R263). -/
def State.queuesOf (s : State) (d : Desc) : List (Nat × Nat) :=
  if Desc.opcode d / 16 = 7 then [(Desc.f d 10 3 0, 5)]
  else if Desc.opcode d = 0x10 ∧ s.ampRef d (s.ampArrays d) = true then [(Desc.core d, 1)]
  else enginesOf d

/-- Whether an earlier descriptor of the same beat, or one of an earlier beat whose slot has started, has still to run or to end. -/
def State.ahead (s : State) (d x : Desc) : Bool :=
  decide (x.num < d.num) && ((s.slotOf x).map (·.beat) == (s.slotOf d).map (·.beat) || s.stp.slotsOn.contains (Desc.slot x))
    && s.willRun x && !s.stp.done.contains x.num

/-- Whether an earlier descriptor keeps its place before this one in a queue: work of its slot on one engine of one core goes in
descriptor order, and a later slot's follows the earlier's (R239). A collective only has to be in its VC's queue (R263). -/
def State.engineBusy (s : State) (d : Desc) : Bool :=
  s.cur.descs.any (fun x => s.ahead d x && (s.queuesOf x).any (fun q => (s.queuesOf d).contains q)
    && !(s.coll.running.any (fun y => y.desc.num == x.num) || s.coll.queue.any (fun y => y.1.num == x.num)))

/-- Whether two runs of bytes share a byte, or, for a read, a unit of 4 KiB (R172). -/
def rangesMeet (w x : Ext) : Bool :=
  if x.write then 0 < overlap w.op.addr w.bytes x.op.addr x.bytes
  else w.bytes != 0 && x.bytes != 0 && decide (w.op.addr / 4096 ≤ (x.op.addr + x.bytes - 1) / 4096)
    && decide (x.op.addr / 4096 ≤ (w.op.addr + w.bytes - 1) / 4096)

/-- The store operands of a descriptor, as far as the recipe fixes them: a scatter to no tensor may write up to the end of its store. -/
def State.storeExts (s : State) (d : Desc) : List Ext :=
  let l := (descExts s.cur s.rcp.groups d).filter (fun x => !x.op.mem)
  if (Desc.opcode d = 0x39 ∨ Desc.opcode d = 0x3A) ∧ (s.tensor (Desc.opD d).tensor).isNone then
    l.map (fun x => if x.write then extRaw x.op (s.roomOf x.op) true else x)
  else l

/-- Whether two descriptors name the same bytes by an address: in one core's local store, or in one cluster's store (R170). -/
def sameStore (d x : Desc) (addr : Nat) : Bool :=
  if addr < localBytes then Desc.home x == Desc.home d else Desc.home x / 8 == Desc.home d / 8

/-- Whether a descriptor reads what an earlier one of the same core and slot has still to write in a store, or writes bytes that an earlier
one of the slot has still to write, the moves into the core's store among them (R172, log 126). -/
def State.storeBusy (s : State) (d : Desc) : Bool :=
  s.cur.descs.any (fun x => s.ahead d x && Desc.slot x == Desc.slot d
    && (s.storeExts x).any (fun w => w.write && (s.storeExts d).any (fun y =>
      sameStore d x w.op.addr && rangesMeet w y && (y.write || (Desc.core x == Desc.core d && Desc.home x == Desc.home d)))))

/-- Whether a descriptor still waits: for the move its W15 names (R184), for its engine (R239), or for a store (R172). -/
def State.mustWait (s : State) (d : Desc) : Bool :=
  (Desc.word d 15 != 0xFFFFFFFF && !s.stp.done.contains (Desc.word d 15).toNat) || s.engineBusy d || s.storeBusy d

/-- A descriptor put among those waiting (R172, R184). -/
def State.hold (s : State) (n : Nat) : State :=
  { s with stp := { s.stp with waiting := if s.stp.waiting.contains n then s.stp.waiting else s.stp.waiting ++ [n] } }

/-! ### Epochs that drain (R198) -/

/-- Whether a descriptor reads an epoch's image or arrays. -/
def State.readsEpoch (s : State) (d : Desc) : Bool :=
  Desc.opcode d == 0x10 || Desc.opcode d == 0x63
    || (Desc.opcode d != 0x90 && [Desc.opA d, Desc.opB d, Desc.opC d].any (fun o => o.mem && s.regionKind o.region == 2))

/-- The descriptors of a micro-batch: those of the split reserve only in the step that split it. -/
def State.mbDescs (s : State) (inst : Nat) : List Desc :=
  s.cur.descs.filter (fun d => s.mbOf d == some (inst % 65536)
    && (s.kindOf d != 8 || (s.stp.drops.contains inst && inst / 65536 == s.stp.step)))

/-- The descriptors of a micro-batch that read its epoch. -/
def State.readersOf (s : State) (inst : Nat) : List Desc :=
  (s.mbDescs inst).filter s.readsEpoch

/-- The slot that fixes a micro-batch's tag: its first FWD slot (R236). -/
def State.firstFwd (s : State) (mb : Nat) : Option Nat :=
  s.cur.slots.findIdx? (fun x => x.kind == 0 && x.mb == mb)

/-- Whether a descriptor has run for a micro-batch of a step, or will not. -/
def State.ranFor (s : State) (inst : Nat) (d : Desc) : Bool :=
  s.stp.mbRan.contains (inst, d.num) || (s.kindOf d == 9 && !s.thinned inst (Desc.layer d))
    || (if s.kindOf d = 8 then s.stp.offSlots.contains (inst % 65536, Desc.slot d) else s.stp.drops.contains inst)

/-- Live epochs that a newer commit has replaced and that no micro-batch still needs are live no longer. -/
def State.pruneLive (s : State) : State :=
  { s with mem := { s.mem with live := s.mem.live.filter (fun e => !(decide (e < s.upd.epoch) && s.stp.pendMb.all (fun p => p.2 != e))) } }

/-- A micro-batch of a step whose readers have all run for it, or will not, drains. -/
def State.drainMb (s : State) (inst : Nat) : State :=
  if !s.stp.halted && (Tab.find s.stp.pendMb inst).isSome && (s.readersOf inst).all (s.ranFor inst) then
    ({ s with stp := { s.stp with pendMb := Tab.del s.stp.pendMb inst } }).pruneLive
  else s

/-- Those of several that drain. -/
def State.drainAll (s : State) (l : List Nat) : State :=
  match l with
  | [] => s
  | i :: r => (s.drainMb i).drainAll r

/-- A descriptor has run for the micro-batch it works for, or does not run. -/
def State.passMb (s : State) (d : Desc) : State :=
  match s.instOf d with
  | none => s
  | some i =>
    if (Tab.find s.stp.tags i).isSome then
      ({ s with stp := { s.stp with mbRan := (i, d.num) :: s.stp.mbRan } }).drainMb i
    else s

/-- A descriptor that has completed, or that does not run. -/
def State.finish (s : State) (n : Nat) : State :=
  let s1 := match s.cur.descs[n]? with
    | some d => s.passMb d
    | none => s
  { s1 with stp := { s1.stp with done := if s1.stp.done.contains n then s1.stp.done else s1.stp.done ++ [n],
                                 waiting := s1.stp.waiting.filter (fun m => m != n) } }

/-- Canonical NaNs in everything that is written (R173, R256, R323). -/
def State.nanFill (s : State) (core : Nat) (l : List Ext) : State :=
  match l with
  | [] => s
  | x :: r => (if x.write then (s.opWrite core x.op (nanBytes s.free x.fmt x.n)).draw (fmtBytes x.fmt x.n) else s).nanFill core r

/-- A descriptor that produced a canonical NaN: once per step attempt (R66). -/
def State.nanResult (s : State) (desc : Nat) : State :=
  s.raiseOnce 0x4004 desc 0 [wd desc]

/-- Whether a format has a NaN. -/
def hasNan (f : Nat) : Bool := f == fT32 || f == fT32C || f == fT16

/-- A descriptor's results written with canonical NaNs, which NAN_RESULT reports (R66, R173, R256, R274, R323). -/
def State.nanOut (s : State) (d : Desc) (l : List Ext) : State :=
  let s1 := s.nanFill (Desc.home d) l
  if l.any (fun x => x.write && hasNan x.fmt && x.n != 0) then s1.nanResult d.num else s1

/-- Uncorrectable GDDR7 codewords that a recipe's work met: in a training recipe the attempt is replayed (R323). -/
def State.meetUe (s : State) (core : Nat) (ue : List (Nat × Nat)) : State :=
  let s1 := s.memUe (if s.train then rdTrain else rdRun) core ue
  if s.train && !ue.isEmpty then s1.cause 0xA else s1

/-- The runs whose frame costs a descriptor has at its start: those of its outlier parts QUANTISE counts as it writes them. -/
def State.costExts (s : State) (d : Desc) : List Ext :=
  if Desc.opcode d = 0x41 then (s.runExts d).filter (fun x => x.op.addr != (Desc.word d 14).toNat || !x.write) else s.runExts d

/-- What the memories report of a run: stalls, corrected and uncorrectable words, frame costs and lateness. -/
def State.envFx (s : State) (d : Desc) (e : Env) (ue : List (Nat × Nat)) : State :=
  let core := Desc.home d
  let s1 := ((((s.count cLsStall e.stall).storeCes core e.storeCe).storeUe core e.storeUe).memCe e.mem.ce).meetUe (Desc.core d) ue
  (s1.accountExts (s.costExts d)).noteLate e.late (Desc.slot d)

/-- The run of a descriptor under its opcode (R244): it may be held back or not run at all; else the memories' reports take effect, then
its own effect, and in a RUN recipe an uncorrectable word turns its results into canonical NaNs (R173, R323). -/
def State.runDesc (s : State) (op : Nat) (d : Desc) (e : Env) (body : State → State) : State :=
  if Desc.opcode d ≠ op || !s.runs d then s
  else if s.mustWait d then s.hold d.num
  else
    let ue := e.mem.ue ++ (s.descPoison d).filter (fun k => !e.mem.ue.contains k)
    let s1 := body (s.envFx d e ue)
    let bad := !s.train && (e.storeUe.isSome || !ue.isEmpty)
    (if bad then s1.nanOut d (s.runExts d) else s1).finish d.num

/-- The numeric events of a computation taken over, with its result written. -/
def State.writeFx (s : State) (d : Desc) (core : Nat) (o : Opnd) (r : List Byte × NumFx) : State :=
  (s.opWrite core o r.1).applyFx r.2 d.num

/-- Elements of an operand as exact values; `aux` names the operand that holds the planes of W and X4. DESIGN CHOICE, log 129: a collective's
T32C operand in a MASTER_HI region has its comp plane after its hi plane, as a T32C operand in a store has; R455 names UPDATE's B and
QUANTISE's A alone. -/
def State.elems (s : State) (d : Desc) (core : Nat) (o : Opnd) (aux : Opnd) (n : Nat) : Nm (List FVal) := do
  let md := s.mode d
  let q ← if isQ8 o.fmt then s.dataScale md o.tensor none else pure 0
  expandElems md o.fmt n (s.opRead core o (fmtBytes o.fmt n)) (s.opRead core aux (auxBytes o.fmt n)) q

/-- Elements of a floating-point operand as T32 words (R47, R63). -/
def State.words (s : State) (d : Desc) (core : Nat) (o : Opnd) (n : Nat) : Nm (List Word) := do
  let xs ← s.elems d core o o n
  xs.mapM (to32 (s.mode d))

end Sys2Proof.Machine
end

