-- ==== Sys2Proof/Machine/Arrays.lean ====
section
/-! DEFINITION. The analogue arrays as they are written (R67 to R69, R85 to R88, R107, R132, R139, R140, R145): charge states,
checksum and calibration cells, scales, block-split flags, outlier segments and the sources of rows. -/

namespace Sys2Proof.Machine

/-! ### Rows and their cells -/

/-- Data rows of an array (R69). -/
def dataRows : Nat := 1024

/-- The spare that serves a data row, if one does (R136, R145). -/
def ArrayS.spareFor (x : ArrayS) (row : Nat) : Option Nat :=
  (x.spares.find? (fun e => e.2.inUse && !e.2.bad && e.2.row == row)).map (·.1)

/-- The physical row that serves a data row: spare n is row 1,024 + n (R82, R360). -/
def ArrayS.physRow (x : ArrayS) (row : Nat) : Nat :=
  match x.spareFor row with
  | some n => dataRows + n
  | none => row

/-- The spares as they stand after the next tick: those in force with the changes waiting for it (R136). -/
def ArrayS.nextSpares (x : ArrayS) : Tab Spare :=
  x.spareNext.foldl (fun t e => Tab.put t e.1 e.2) x.spares

/-- The physical rows that hold a data row's codes: the one that serves it, and a spare that will from the next tick (R85, R136). -/
def ArrayS.rowsOf (x : ArrayS) (row : Nat) : List Nat :=
  let p := x.physRow row
  let q := ArrayS.physRow { x with spares := x.nextSpares } row
  if q = p then [p] else [p, q]

/-- The charge state of a code (R67). -/
def stateOf (f code : Nat) : BitVec 2 :=
  if f = fW1 then (if code % 2 = 0 then 1 else 2)
  else if f = fW3 then (if code % 4 = 3 then 0 else if code % 4 = 1 then 2 else 1)
  else BitVec.ofNat 2 code

/-- The level a charge state contributes in a format (R67). -/
def stateLevel (f : Nat) (st : BitVec 2) : Int :=
  if f = fW2U then st.toNat else if f = fW3 then 2 * ((st.toNat : Int) - 1) else 2 * (st.toNat : Int) - 3

/-- The charge state of a level in a format. -/
def levelState (f : Nat) (l : Int) : BitVec 2 :=
  if f = fW2U then BitVec.ofInt 2 l else if f = fW3 then BitVec.ofInt 2 (l / 2 + 1) else BitVec.ofInt 2 ((l + 3) / 2)

/-- The charge of cells that nothing has written is not stated: a free value for each cell (log 6). -/
def freeCells (key : Nat) : List (BitVec 2) :=
  (List.range 520).map (fun c => (Config.freeWord (2 ^ 40 + key * 520 + c)).setWidth 2)

/-- The 520 cells of a physical row. -/
def State.cellRow (s : State) (a row : Nat) : List (BitVec 2) :=
  match Tab.find s.ana.cells (1040 * a + row) with
  | some l => l
  | none => freeCells (1040 * a + row)

/-- The four checksum remainders of a physical row; those of a row that nothing has written are free values (R107, log 6). -/
def State.remRow (s : State) (a row : Nat) : List Int :=
  match Tab.find s.ana.rem (1040 * a + row) with
  | some l => l
  | none => (List.range 4).map (fun k => ((Config.freeWord (2 ^ 41 + (1040 * a + row) * 4 + k)).setWidth 9).toInt)

/-- The 512 scales of a block of an array; +0 in a scale memory that nothing has written, or whose array has lost its power. DESIGN CHOICE,
log 96 (R85). -/
def State.scaleRow (s : State) (a block : Nat) : List Half :=
  Tab.get s.ana.scales (16 * a + block) (List.replicate 512 0)

/-! ### The cells a write places (R67, R107, R132, R140) -/

/-- Sums of the levels of a row over 128 data columns each. -/
def rowSums (ls : List Int) : List Int :=
  (chunk 128 4 ls).map (fun c => c.foldl (· + ·) 0)

/-- The checksum level of a row sum R: the level nearest to R / 128, ties under R54 (R107). -/
def checkLevel (f : Nat) (r : Int) : Int :=
  nearLevel r 128 (levelsOf f) ((levelsOf f).headD 0)

/-- The calibration cells of a physical row: S0 where row + column is even, else S3 (R140). -/
def calCells (row : Nat) : List (BitVec 2) :=
  (List.range 4).map (fun k => if (row + k) % 2 = 0 then 0 else 3)

/-- A row's 520 cells and its four checksum remainders, from its 512 codes. -/
def rowCells (f row : Nat) (codes : List Nat) : List (BitVec 2) × List Int :=
  let st := codes.map (stateOf f)
  let rs := rowSums (st.map (stateLevel f))
  let ls := rs.map (checkLevel f)
  (st ++ ls.map (levelState f) ++ calCells row, (rs.zip ls).map (fun x => x.1 - 128 * x.2))

/-- The test pattern of a free spare row (R132). -/
def testPattern : List (BitVec 2) :=
  (List.range 520).map (fun c => if c % 2 = 0 then 0 else 3)

/-- A physical row programmed. -/
def State.putRow (s : State) (a row : Nat) (cells : List (BitVec 2)) (rem : List Int) : State :=
  { s with ana := { s.ana with cells := Tab.put s.ana.cells (1040 * a + row) cells,
                               rem := Tab.put s.ana.rem (1040 * a + row) rem } }

/-- Data rows programmed from a first row on; a remapped row goes to its spare, and one whose remap waits for the tick to both (R85,
R136). -/
def State.putRows (s : State) (a f row : Nat) (rows : List (List Nat)) : State :=
  match rows with
  | [] => s
  | r :: rest =>
    (((s.array a).rowsOf row).foldl (fun t p => t.putRow a p (rowCells f p r).1 (rowCells f p r).2) s).putRows a f (row + 1) rest

/-- Whether a spare row is free, those that wait for the next tick taken (R137). -/
def ArrayS.isFree (x : ArrayS) (n : Nat) : Bool :=
  match Tab.find x.nextSpares n with
  | none => true
  | some e => !e.inUse && !e.bad

/-- Every free spare programmed with the test pattern (R85). -/
def State.putSpares (s : State) (a : Nat) (ns : List Nat) : State :=
  match ns with
  | [] => s
  | n :: rest =>
    (if (s.array a).isFree n then s.putRow a (dataRows + n) testPattern [0, 0, 0, 0] else s).putSpares a rest

/-- Scale rows written from a first block on. -/
def State.putScales (s : State) (a block : Nat) (rows : List (List Half)) : State :=
  match rows with
  | [] => s
  | r :: rest =>
    ({ s with ana := { s.ana with scales := Tab.put s.ana.scales (16 * a + block) r } }).putScales a (block + 1) rest

/-- −0 read as +0 (R75). -/
def posZero (h : Half) : Half :=
  if h = 0x8000 then 0 else h

/-- The block-split flags of the scales an array holds (R75). -/
def State.bsplitOf (s : State) (a : Nat) : BitVec 8 :=
  BitVec.ofNat 8 (((List.range 8).map (fun g =>
    if ((s.scaleRow a (2 * g)).zip (s.scaleRow a (2 * g + 1))).any (fun p => posZero p.1 != posZero p.2) then 2 ^ g
    else 0)).foldl (· + ·) 0)

/-! ### Images (R49, R85, R180, R248; log 18) -/

/-- Rows from columns. -/
def transposeL {α : Type} (n : Nat) (cols : List (List α)) : List (List α) :=
  cols.foldr (fun c acc => List.zipWith (fun x r => x :: r) c acc) (List.replicate n [])

/-- The codes of data rows row0 to row0 + n − 1 of an array's image: 1,024 × 512 codes, the input running fastest. -/
def imageRows (f row0 n : Nat) (bytes : List Byte) : List (List Nat) :=
  transposeL n ((chunk 1024 512 (codesOf (codeBits f) 524288 bytes)).map (fun c => (c.drop row0).take n))

/-- The scale rows of blocks b0 to b0 + n − 1 of an array's scale plane: 16 × 512 T16 values, block fastest. -/
def imageScales (b0 n : Nat) (bytes : List Byte) : List (List Half) :=
  transposeL n ((chunk 16 512 (halves 8192 bytes)).map (fun c => (c.drop b0).take n))

/-- An array's entry of an outlier part from its words, with what is kept beside it (R98, R99, R248). -/
def parseSegment (dir ents : List Word) (info : Option PartInfo) : Segment :=
  let n := (dir.headD 0).toNat
  let known := match info with
    | some p => p.chans.map some
    | none => []
  let chans := (List.range n).map (fun i =>
    ((known[i]?).getD none,
     ((ents.drop (256 * i)).take 256).flatMap (fun (e : Word) => [BitVec.setWidth 16 e, BitVec.setWidth 16 (e >>> 16)])))
  let es := (List.range 8).flatMap (fun g =>
    ((ents.drop (dir.getD (1 + g) 0).toNat).take (dir.getD (9 + g) 0).toNat).map (fun (e : Word) =>
      ({ group := g, row := fld e 6 0, col := fld e 15 7, resid := (e >>> 16).setWidth 16 } : OutEnt)))
  let spill := match info with
    | some p => p.spill
    | none => []
  { chans := chans, ents := es ++ spill }

/-- What QUANTISE kept beside the outlier part at a place. -/
def State.partInfo (s : State) (r off : Nat) : Option PartInfo :=
  s.ana.parts.find? (fun p => p.region == r && p.off == off)

/-- The segment an AWRITE's C operand names (R85, R253). A segment holds at most the 131,072 entries of its core's slice. -/
def State.segmentAt (s : State) (core : Nat) (o : Opnd) : Segment :=
  if o.isNone then { chans := [], ents := [] }
  else
    let dir := leWords 32 (s.opRead core o 128)
    let n := min 131072 (segWords dir)
    parseSegment dir (leWords n (s.opRead core (o.at 128) (4 * n))) (s.partInfo o.region o.addr)

/-! ### Writes -/

/-- What an array write places: format, first row, the rows' codes, and the scale rows of the blocks they lie in. -/
structure Prog where
  fmt : Nat
  row0 : Nat
  rows : List (List Nat)
  scales : List (List Half)
deriving DecidableEq, Repr

/-- The rows and scales of an image that a write of n rows from row0 takes. -/
def progOf (f row0 n : Nat) (codes scales : List Byte) : Prog :=
  { fmt := f, row0 := row0, rows := imageRows f row0 n codes,
    scales := imageScales (row0 / 64) ((row0 + n - 1) / 64 + 1 - row0 / 64) scales }

/-- W3 codes 0b10 among what is written (R49). -/
def Prog.odd (p : Prog) : Nat :=
  if p.fmt = fW3 then (p.rows.map (fun r => (r.filter (· == 2)).length)).foldl (· + ·) 0 else 0

/-- Sources left after a new one: those it covers whole are gone. -/
def addSrc (l : List RowSrc) (x : RowSrc) : List RowSrc :=
  x :: l.filter (fun y => !(decide (x.row0 ≤ y.row0) && decide (y.row0 + y.nrows ≤ x.row0 + x.nrows)))

/-- An array write programmed: rows, free spares on a full write, scales, flags, format, epoch and segment (R85). -/
def State.program (s : State) (a : Nat) (p : Prog) (src : RowSrc) : State :=
  let s1 := s.putRows a p.fmt p.row0 p.rows
  let s2 := if src.nrows = dataRows then s1.putSpares a (List.range 16) else s1
  let s3 := s2.putScales a (p.row0 / 64) p.scales
  let x := s3.array a
  (s3.setArray a { x with holds := true, fmt := p.fmt, epoch := src.epoch, seg := src.seg, src := addSrc x.src src,
                          bsplit := s3.bsplitOf a }).count cNan p.odd

/-- Whether an array is SHORT or QUARANTINED and its block has not been re-placed (R139). -/
def ArrayS.unplaced (x : ArrayS) : Bool :=
  x.status == 2 || x.status == 3

/-- The epoch of an image: that of its slot in an IMAGE region, else the committed epoch (R85, R198). -/
def State.imageEpoch (s : State) (o : Opnd) : Nat :=
  if o.mem && s.regionKind o.region == 2 then
    Tab.get s.mem.slotEpoch (((s.region o.region).map (·.index)).getD 0) s.upd.epoch
  else s.upd.epoch

/-- Arrays of a bank. -/
def bankArrays (core bank : Nat) : List Nat :=
  (List.range 4).map (fun p => 16 * core + 4 * bank + p)

/-- Bit b of a four-bank mask cleared. -/
def clearBit4 (m : BitVec 4) (b : Nat) : BitVec 4 := m &&& ~~~(BitVec.ofNat 4 (2 ^ b))

/-- Bit b of a four-bank mask set. -/
def setBit4 (m : BitVec 4) (b : Nat) : BitVec 4 := m ||| BitVec.ofNat 4 (2 ^ b)

/-- A foreground write to a bank ends; `more` says that another of the slots in progress still writes to it. The pass in progress is
abandoned (R87, R93); when every array of the bank that holds weights has been written whole in this beat, the scrub age starts again
(R134). DESIGN CHOICE, log 95: those are the bank's enabled arrays, and one AWRITE of 1,024 rows each within a beat is the one write. -/
def State.noteWrite (s : State) (a : Nat) (full more : Bool) : State :=
  let core := a / 16
  let bank := a / 4 % 4
  let c := s.core core
  let s1 := s.setCore core { c with pass := c.pass.set bank 0, writing := if more then c.writing else clearBit4 c.writing bank }
  if full then
    let s2 := s1.mark 3 (s.lnk.beat * 2048 + a)
    if (bankArrays core bank).all (fun y => !(s2.array y).holds || s2.stp.raised.contains (3, s.lnk.beat * 2048 + y)) then
      let c2 := s2.core core
      s2.setCore core { c2 with late := clearBit4 c2.late bank, ageNext := clearBit4 c2.ageNext bank }
    else s2
  else s1

/-- The fields of the AWRITE descriptor (R253). -/
def awArray (d : Desc) : Nat := Desc.f d 10 10 0
def awRow0 (d : Desc) : Nat := Desc.f d 11 31 16
def awRows (d : Desc) : Nat := Desc.f d 11 15 0

/-- The source record of an AWRITE. -/
def State.awSrc (s : State) (d : Desc) : RowSrc :=
  { row0 := awRow0 d, nrows := awRows d, region := (Desc.opA d).region, addr := (Desc.opA d).addr,
    sregion := (Desc.opB d).region, saddr := (Desc.opB d).addr, fmt := (Desc.opA d).fmt, epoch := s.imageEpoch (Desc.opA d),
    seg := s.segmentAt (Desc.home d) (Desc.opC d),
    part := if (Desc.opC d).mem then some ((Desc.opC d).region, (Desc.opC d).addr) else none }

/-- Whether another AWRITE of the slots in progress still has to write to a bank (R93). -/
def State.writesOn (s : State) (d : Desc) (a : Nat) : Bool :=
  s.cur.descs.any (fun e => Desc.opcode e == 0x90 && e.num != d.num && s.placed (awArray e) / 4 == a / 4
    && s.stp.slotsOn.contains (Desc.slot e) && !s.stp.done.contains e.num && s.willRun e)

/-- AWRITE on the state. An array waiting for its re-placement only keeps the sources; one left by choice 3 keeps nothing
(R139). -/
def State.awrite (s : State) (d : Desc) : State :=
  let a := s.placed (awArray d)
  let x := s.array a
  let src := s.awSrc d
  let more := s.writesOn d a
  if x.lost then s.noteWrite a false more
  else if x.unplaced then (s.setArray a { x with pendSrc := addSrc x.pendSrc src }).noteWrite a false more
  else
    let core := Desc.home d
    let p := progOf src.fmt src.row0 src.nrows (s.opRead core (Desc.opA d) (imageBytes src.fmt))
      (s.opRead core (Desc.opB d) planeBytes)
    (s.program a p src).noteWrite a (src.nrows == dataRows) more

/-- AWRITE (descriptor 0x90). -/
def execAwrite (d : Desc) (e : Env) (s : State) : Host.Outcome State Fault Refusal :=
  .next (s.runDesc 0x90 d e (fun t => t.awrite d))

/-! ### Rows from their sources (R110, R132) -/

/-- Rows 0 to 1,023 with what a source gives for those it covers. -/
def coverRows {α : Type} (row0 : Nat) (rows : List α) (cur : List (Option α)) : List (Option α) :=
  cur.take row0
    ++ List.zipWith (fun c r => match c with
        | some v => some v
        | none => some r) (cur.drop row0) rows
    ++ cur.drop (row0 + rows.length)

/-- Each data row's format and codes as its newest source gives them. -/
def State.srcRows (s : State) (l : List RowSrc) (cur : List (Option (Nat × List Nat))) : List (Option (Nat × List Nat)) :=
  match l with
  | [] => cur
  | x :: r =>
    s.srcRows r (coverRows x.row0
      ((imageRows x.fmt x.row0 x.nrows (s.regRead true x.region x.addr (imageBytes x.fmt))).map (fun c => (x.fmt, c))) cur)

/-- Each block's 512 scales as its newest source gives them. -/
def State.srcScales (s : State) (l : List RowSrc) (cur : List (Option (List Half))) : List (Option (List Half)) :=
  match l with
  | [] => cur
  | x :: r =>
    s.srcScales r (coverRows (x.row0 / 64)
      (imageScales (x.row0 / 64) ((x.row0 + x.nrows - 1) / 64 + 1 - x.row0 / 64) (s.regRead true x.sregion x.saddr planeBytes))
      cur)

/-- A source as it stands in the image of a micro-batch's epoch (R110, R191). -/
def State.epochSrc (s : State) (tag : Option Nat) (x : RowSrc) : RowSrc :=
  match tag with
  | none => x
  | some e =>
    if x.epoch = e then x
    else
      let part := x.part.map (fun p => (s.imageAt e p.1, p.2))
      let seg := match part with
        | some p => s.segmentAt 0 (regionAt p.1 p.2)
        | none => x.seg
      { x with region := s.imageAt e x.region, sregion := s.imageAt e x.sregion, epoch := e, part := part, seg := seg }

/-- An array's sources for a product of a micro-batch with the given epoch tag. -/
def State.sourcesFor (s : State) (tag : Option Nat) (a : Nat) : List RowSrc :=
  (s.array a).sources.map (s.epochSrc tag)

/-- The levels of the 1,024 data rows of an array as its sources give them; those of a row without a source are free values
(R110, log 6). -/
def State.sourceLevels (s : State) (a : Nat) (srcs : List RowSrc) : List (List Int) :=
  let x := s.array a
  (s.srcRows srcs (List.replicate dataRows none)).zipIdx.map (fun r => match r.1 with
    | some (f, c) => c.map (levelOf f)
    | none => (freeCells (1040 * a + r.2)).map (stateLevel x.fmt))

/-- The data row that a physical row serves, if any. -/
def ArrayS.servedRow (x : ArrayS) (row : Nat) : Option Nat :=
  if row < dataRows then some row
  else match Tab.find x.nextSpares (row - dataRows) with
    | some e => if e.inUse && !e.bad then some e.row else none
    | none => none

/-- The source of a data row that a physical row serves. -/
def State.rowSrc (s : State) (a row : Nat) : Option RowSrc :=
  ((s.array a).servedRow row).bind (fun r => (s.array a).src.find? (fun q => decide (q.row0 ≤ r) && decide (r < q.row0 + q.nrows)))

/-- The cells and remainders that a physical row's source gives it (R132): the image a data row was last written from, the test pattern
for a free spare; none for a data row without a source. -/
def State.sourceRow (s : State) (a row : Nat) : Option (List (BitVec 2) × List Int) :=
  match (s.array a).servedRow row with
  | none => some (testPattern, [0, 0, 0, 0])
  | some r =>
    (s.rowSrc a row).map (fun q =>
      rowCells q.fmt row ((imageRows q.fmt r 1 (s.regRead false q.region q.addr (imageBytes q.fmt))).headD []))

/-- A read of the image by background work, with its frame costs: a marked codeword is reported and the work abandons it, which the flag
says (R318, R323). -/
def State.imageLook (s : State) (r off n : Nat) : State × Bool :=
  let ue := s.poisonIn r off n
  ((s.account r off n false).memUe rdBackground 0xFF ue, ue.isEmpty)

/-- A physical row's cells written again from their source; one whose image holds an uncorrectable codeword is left (R132, R323). -/
def State.rewriteRow (s : State) (a row : Nat) : State :=
  match s.sourceRow a row with
  | none => s
  | some c =>
    match s.rowSrc a row with
    | none => s.putRow a row c.1 c.2
    | some q =>
      let e := s.imageLook q.region q.addr (imageBytes q.fmt)
      if e.2 then e.1.putRow a row c.1 c.2 else e.1

/-- An array written from one source, as a re-placement or the end of an idle level does; a source with an uncorrectable codeword is left
(R139, R323, R374, R400). -/
def State.programFrom (s : State) (a : Nat) (x : RowSrc) : State :=
  let e := s.imageLook x.region x.addr (imageBytes x.fmt)
  let f := e.1.imageLook x.sregion x.saddr planeBytes
  if !(e.2 && f.2) then f.1
  else f.1.program a (progOf x.fmt x.row0 x.nrows (s.regRead false x.region x.addr (imageBytes x.fmt))
    (s.regRead false x.sregion x.saddr planeBytes)) x

/-- An array written from its sources, the oldest first. -/
def State.programAll (s : State) (a : Nat) (l : List RowSrc) : State :=
  match l with
  | [] => s
  | x :: r => (s.programAll a r).programFrom a x

/-- What an array loses with its power: its cells, and so its weights; its scales and segment are loaded again with them (R85,
R400, R448). -/
def State.loseArray (s : State) (a : Nat) : State :=
  let x := s.array a
  ({ s with ana := { s.ana with cells := s.ana.cells.filter (fun e => e.1 / 1040 != a),
                                rem := s.ana.rem.filter (fun e => e.1 / 1040 != a),
                                scales := s.ana.scales.filter (fun e => e.1 / 16 != a) } }).setArray a
    { x with holds := false, bsplit := 0, seg := { chans := [], ents := [] } }

/-- Spares in use or bad (R137). -/
def ArrayS.sparesUsed (x : ArrayS) : Nat :=
  (x.nextSpares.filter (fun e => e.2.inUse || e.2.bad)).length

/-- STATUS after a spare is taken or found bad (R120, R139). -/
def ArrayS.regrade (x : ArrayS) : ArrayS :=
  if x.status = 0 ∨ x.status = 1 then { x with status := if 12 < x.sparesUsed then 1 else 0 } else x

end Sys2Proof.Machine
end

