-- ==== Sys2Proof/Machine/Sieve.lean ====
section
/-! DEFINITION. The Sieve's decisions for one vector, the converters and the lanes (R70 to R84, R92, R110). -/

namespace Sys2Proof.Machine

/-- The weight of a bit-plane (R72). -/
def planeWeight (signed : Bool) (p : Nat) : Int :=
  if p = 7 then (if signed then -128 else 128) else 2 ^ p

/-- The value of an activation code (R48). -/
def actVal (signed : Bool) (b : Byte) : Int :=
  if signed then b.toInt else b.toNat

/-- How a group of a fired plane is converted. -/
inductive Split where
  | whole
  | rows
  | blocks
deriving DecidableEq, Repr

/-- A converted group of a fired plane: the data rows of its first and of its second pass. -/
structure GroupPlan where
  group : Nat
  split : Split
  first : List Nat
  second : List Nat
deriving DecidableEq, Repr

/-- A fired plane. -/
structure PlanePlan where
  plane : Nat
  groups : List GroupPlan
deriving DecidableEq, Repr

/-- The Sieve's plan for a vector: whether it is skipped as all-zero, the fired planes, and the planes skipped (R76). -/
structure VecPlan where
  zero : Bool
  planes : List PlanePlan
  skipped : Nat
deriving DecidableEq, Repr

/-- What the Sieve decides by: rows in use, masked rows, the bank's row limit, block-split flags, and the test controls of R92. -/
structure SieveCfg where
  rows : Nat
  masked : List Nat
  limit : Nat
  bsplit : BitVec 8
  force : Bool
  noSkip : Bool
deriving DecidableEq, Repr

/-- The unmasked rows of each group with a non-zero activation, with their codes (R76 steps 1 to 3). -/
def liveRows (c : SieveCfg) (acts : List Byte) : List (List (Nat × Byte)) :=
  (chunk 128 8 (acts.zipIdx.map (fun x => (x.2, x.1)))).map (fun g =>
    g.filter (fun x => decide (x.1 < c.rows) && x.2 != 0 && !c.masked.contains x.1))

/-- The row limit of a format (R80). -/
def State.rowLimit (s : State) (f : Nat) : Nat :=
  if f = fW3 then s.ana.w3lim else if f = fW1 then s.ana.w1lim else s.ana.w2lim

/-- A group's conversion in a plane, from its active rows; none where it is not converted (R75, R78, R81, R92). -/
def planGroup (c : SieveCfg) (g : Nat) (active : List Nat) : Option GroupPlan :=
  if active.isEmpty && !c.noSkip then none
  else if c.bsplit.getLsbD g then
    some { group := g, split := .blocks, first := active.filter (fun r => r < 128 * g + 64),
           second := active.filter (fun r => 128 * g + 64 ≤ r) }
  else if c.force || decide (c.limit < active.length) then
    some { group := g, split := .rows, first := active.filter (fun r => r % 2 == 0), second := active.filter (fun r => r % 2 == 1) }
  else some { group := g, split := .whole, first := active, second := [] }

/-- A plane's converted groups. -/
def planPlane (c : SieveCfg) (live : List (List (Nat × Byte))) (p : Nat) : List GroupPlan :=
  live.zipIdx.filterMap (fun g => planGroup c g.2 ((g.1.filter (fun x => x.2.getLsbD p)).map (·.1)))

/-- The plan of a vector (R76 to R81). -/
def planVec (c : SieveCfg) (acts : List Byte) : VecPlan :=
  let live := liveRows c acts
  if live.all (fun g => g.isEmpty) && !c.noSkip then { zero := true, planes := [], skipped := 0 }
  else
    let ps := (List.range 8).map (fun p => ({ plane := p, groups := planPlane c live p } : PlanePlan))
    let fired := ps.filter (fun p => !p.groups.isEmpty)
    { zero := false, planes := fired, skipped := 8 - fired.length }

/-- Groups of a plan converted in a given way. -/
def VecPlan.splits (v : VecPlan) (k : Split) : Nat :=
  (v.planes.map (fun p => (p.groups.filter (fun g => g.split == k)).length)).foldl (· + ·) 0

/-- Array cycles a plan fires: two for a plane with a split group (R81, R84). -/
def VecPlan.cycles (v : VecPlan) : Nat :=
  (v.planes.map (fun p => if p.groups.any (fun g => g.split != .whole) then 2 else 1)).foldl (· + ·) 0

/-- A pass of a group: its bit-plane, the group, its half, the lane it feeds, and the data rows that fire. -/
structure ConvPass where
  plane : Nat
  group : Nat
  half : Nat
  lane : Nat
  rows : List Nat
deriving DecidableEq, Repr

/-- The passes of a group: one, or two for a split one, which in a block split feed a lane each (R75, R81). -/
def GroupPlan.passes (plane : Nat) (g : GroupPlan) : List ConvPass :=
  let first : ConvPass := { plane := plane, group := g.group, half := 0, lane := 2 * g.group, rows := g.first }
  let second : ConvPass := { plane := plane, group := g.group, half := 1, lane := 2 * g.group, rows := g.second }
  match g.split with
  | .whole => [first]
  | .rows => [first, second]
  | .blocks => [first, { second with lane := 2 * g.group + 1 }]

/-- The passes of a plan in the order in which they are converted. -/
def VecPlan.passes (v : VecPlan) : List ConvPass :=
  v.planes.flatMap (fun p => p.groups.flatMap (GroupPlan.passes p.plane))

/-! ### Conversions (R70, R115, R116) -/

/-- The level sums of some data rows over the given columns of an array (R73). -/
def levelSums (width : Nat) (levels : List (List Int)) (rows : List Nat) : List Int :=
  rows.foldl (fun acc r => List.zipWith (· + ·) acc (levels.getD r [])) (List.replicate width 0)

/-- How an array converts: the published DET_BOUND and NOISE_RMS in force, whether the contract binds it, and the trim in force, in
0.001 % (R115, R116, R119). -/
structure ConvCfg where
  det : Nat
  noise : Nat
  bound : Bool
  trim : Int
deriving DecidableEq, Repr

/-- Whether conversions whose weighted errors sum to `err`, of weights that sum to w and whose squares sum to v, keep both limits of R116,
with B and σ in 1/256 unit: |err| ≤ B × w + 3σ × √(2v), which is within B × w + 6σ × √v and keeps any two runs within twice it, the limit for
two runs. DESIGN CHOICE, log 89. -/
def ConvCfg.holds (k : ConvCfg) (err : Int) (w v : Nat) : Bool :=
  let x : Int := 256 * (err.natAbs : Int) - (k.det * w : Nat)
  !k.bound || decide (x ≤ 0) || decide (x * x ≤ (18 * k.noise * k.noise * v : Nat))

/-- Whether one conversion keeps R115: its error is within the published B + 6σ and within ±1 unit and six times 0.3 unit rms (2.8 units,
716 / 256). DESIGN CHOICE, log 89. -/
def ConvCfg.holdsOne (k : ConvCfg) (err : Int) : Bool :=
  !k.bound || decide (256 * err.natAbs ≤ min (k.det + 6 * k.noise) 716)

/-- A sum beyond ±255 gives ±255 (R70). -/
def limit255 (x : Int) : Int :=
  max (-255) (min 255 x)

/-- Conversion number n of the exact sum c, before the limit of R70: the analogue part is Config's free value where the contract admits
it after the errors so far, else none. DESIGN CHOICE, log 6. -/
def ConvCfg.read (k : ConvCfg) (n : Nat) (err wt : Int) (w v : Nat) (c : Int) : Int :=
  let e := Config.convError n k.trim
  let x := limit255 (c + e) - c
  if k.holdsOne x && k.holds (err + wt * x) w v then c + e else c

/-- Two lists of sums added. -/
def addCols (xs ys : List Int) : List Int := List.zipWith (· + ·) xs ys

/-- A lane with so many times a conversion's data columns added (R72). -/
def laneAcc (lanes : List (List Int)) (i : Nat) (w : Int) (out : List Int) : List (List Int) :=
  lanes.set i (addCols (lanes.getD i []) (out.map (fun x => w * x)))

/-- Sixteen lanes of zero. -/
def lanes0 : List (List Int) := List.replicate 16 (List.replicate 512 0)

/-- The number of the first conversion of a pass: of vector v, plane p, group g, half h at a position. -/
def convBase (v p g h pos : Nat) : Nat :=
  (((v * 8 + p) * 16 + 2 * g + h) * 4 + pos) * 520

/-! ### Checksum windows (R107, R108, R126) -/

/-- Group conversions of a window. -/
def windowSize : Nat := 65536

/-- An empty window. -/
def ChkWin.empty : ChkWin := { n := 0, sum := 0, sq := 0, mean := 0, rms := 0 }

/-- The four discrepancies of a conversion, from its 520 outputs and the remainders of the rows that fired. -/
def deltas (out : List Int) (rems : List (List Int)) : List Int :=
  (List.range 4).map (fun k =>
    ((out.drop (128 * k)).take 128).foldl (· + ·) 0 - 128 * out.getD (512 + k) 0
      - (rems.map (fun r => r.getD k 0)).foldl (· + ·) 0)

/-- A window with a conversion's discrepancies added; its first conversion takes the margins that then stand (R126). -/
def ChkWin.add (x : ChkWin) (mean rms : Nat) (ds : List Int) : ChkWin :=
  { n := x.n + 1, sum := x.sum + ds.foldl (· + ·) 0, sq := x.sq + (ds.map (fun d => d * d)).foldl (· + ·) 0,
    mean := if x.n = 0 then mean else x.mean, rms := if x.n = 0 then rms else x.rms }

/-! ### Lanes -/

/-- One array as the converters meet it: position, the levels of its 520 cells and the remainders of the rows that serve its data rows,
how it converts, and the margins of its next window. -/
structure ConvArray where
  pos : Nat
  levels : List (List Int)
  rems : List (List Int)
  cfg : ConvCfg
  mean : Nat
  rms : Nat
deriving DecidableEq, Repr

/-- What an array's conversions of a product have left: for the vector in hand its lanes, the weighted errors of its columns and the
weights; over all vectors the outputs limited, the window that fills and those complete. -/
structure LaneAcc where
  lanes : List (List Int)
  errs : List Int
  w : Nat
  v : Nat
  clamps : Nat
  win : ChkWin
  full : List ChkWin
deriving DecidableEq, Repr

/-- The accumulators before a vector. -/
def LaneAcc.next (x : LaneAcc) : LaneAcc :=
  { x with lanes := lanes0, errs := List.replicate 512 0, w := 0, v := 0 }

/-- The 520 conversions of a pass, numbered from n0, before the limit of R70. -/
def LaneAcc.reads (x : LaneAcc) (a : ConvArray) (signed : Bool) (n0 : Nat) (p : ConvPass) : List Int :=
  let wt := planeWeight signed p.plane
  (levelSums 520 a.levels p.rows).zipIdx.map (fun c =>
    if c.2 < 512 then
      a.cfg.read (n0 + c.2) (x.errs.getD c.2 0) wt (x.w + wt.natAbs) (x.v + wt.natAbs * wt.natAbs) c.1
    else a.cfg.read (n0 + c.2) 0 1 1 1 c.1)

/-- A converted pass: the data columns enter the lane, all enter the checksum (R70 to R73, R108). -/
def LaneAcc.pass (x : LaneAcc) (a : ConvArray) (signed : Bool) (n0 : Nat) (p : ConvPass) : LaneAcc :=
  let wt := planeWeight signed p.plane
  let reads := x.reads a signed n0 p
  let out := reads.map limit255
  let win := x.win.add a.mean a.rms (deltas out (p.rows.map (fun r => a.rems.getD r [])))
  { lanes := laneAcc x.lanes p.lane wt (out.take 512),
    errs := addCols x.errs ((List.zipWith (· - ·) out (levelSums 520 a.levels p.rows)).map (fun e => wt * e)),
    w := x.w + wt.natAbs, v := x.v + wt.natAbs * wt.natAbs, clamps := x.clamps + (reads.filter (fun r => decide (255 < r) || decide (r < -255))).length,
    win := if win.n = windowSize then ChkWin.empty else win, full := if win.n = windowSize then x.full ++ [win] else x.full }

/-- A vector's passes. -/
def LaneAcc.vec (x : LaneAcc) (a : ConvArray) (signed : Bool) (base v : Nat) (plan : VecPlan) : LaneAcc :=
  plan.passes.foldl (fun acc p => acc.pass a signed (base + convBase v p.plane p.group p.half a.pos) p) x.next

/-- The exact lanes of one array, one for each weight block (R73, R110). -/
def exactLanes (signed : Bool) (levels : List (List Int)) (live : List (List (Nat × Byte))) : List (List Int) :=
  (List.range 16).map (fun b =>
    (((live.getD (b / 2) []).filter (fun x => x.1 / 64 == b))).foldl (fun acc x =>
      addCols acc ((levels.getD x.1 []).map (fun l => actVal signed x.2 * l))) (List.replicate 512 0))

end Sys2Proof.Machine
end

