-- ==== Sys2Proof/Machine/Amp.lean ====
section
/-! DEFINITION. AMP: the analogue matrix product with its Colander terms and scale stage, reference mode, the faults of R256, and
the capture of vectors for tasting (R67 to R84, R94 to R96, R100, R110 to R112, R245, R256). -/

namespace Sys2Proof.Machine

/-- Fields of the AMP descriptor (R245). -/
def ampSigned (d : Desc) : Bool := Desc.flag d 10 7
def ampWsgn (d : Desc) : Bool := Desc.flag d 10 6
def ampAcc (d : Desc) : Bool := Desc.flag d 10 8
def ampKbase (d : Desc) : Nat := (Desc.word d 11).toNat
def ampRows (d : Desc) : Nat := Desc.f d 12 31 16
def ampNchan (d : Desc) : Nat := Desc.f d 12 5 0

/-- The channel list of a product or conversion (R96). -/
def State.channels (s : State) (core : Nat) (o : Opnd) (n : Nat) : List Nat :=
  if n = 0 then [] else (leWords n (s.opRead core o (4 * n))).map (·.toNat)

/-- The flagged channels that fall in an array, with their places in the channel list and in the array (R96). -/
def chansHere (kbase : Nat) (cs : List Nat) : List (Nat × Nat × Nat) :=
  (cs.zipIdx.filter (fun c => decide (kbase ≤ c.1) && decide (c.1 < kbase + 1024))).zipIdx.map (fun x => (x.1.2, x.1.1, x.2))

/-- The channel row of a segment that serves an input index: the row kept for it, or, where the segment's rows carry no index, the
row at the channel's place among those of the array (R98, R99, log 17). -/
def Segment.chanRow (g : Segment) (t nth : Nat) : Option (List Half) :=
  match g.chans.find? (fun c => c.1 == some t) with
  | some c => some c.2
  | none => if g.chans.all (fun c => c.1.isNone) then (g.chans[nth]?).map (·.2) else none

/-- The segment whose entries a product uses: in reference mode that of the newest source (R110, R139). -/
def State.segFor (s : State) (ref : Bool) (tag : Option Nat) (a : Nat) : Segment :=
  if ref then (((s.sourcesFor tag a).head?).map (·.seg)).getD (s.array a).seg else (s.array a).seg

/-- The fault that keeps a product from running, if any (R256 causes 1, 2, 4, 5). -/
def State.ampFault (s : State) (d : Desc) : Option Nat :=
  let arrs := s.ampArrays d
  let ref := s.ampRef d arrs
  let here := chansHere (ampKbase d) (s.channels (Desc.home d) (Desc.opC d) (ampNchan d))
  if arrs.any (fun a => (s.array a.2).holds && ((s.array a.2).fmt != fW2U) != ampWsgn d) then some 1
  else if arrs.any (fun a => (s.array a.2).lost) then some 2
  else if !ref && arrs.any (fun a => !(s.array a.2).holds) then some 4
  else if arrs.any (fun a => here.any (fun c => ((s.segFor ref (s.tagOf d) a.2).chanRow c.2.1 c.2.2).isNone)) then some 5
  else none

/-- DESC_FAULT: raised, the descriptor marked, its destination filled with canonical NaNs; a TRAIN step ends without commit and without
replay (R256). -/
def State.descFault (s : State) (d : Desc) (cause : Nat) : State :=
  let s1 := (s.raise 0x9102 [wd d.num, wd cause]).nanOut d ((s.runExts d).filter (fun x => x.op == Desc.opD d))
  let s2 := { s1 with stp := { s1.stp with faulted := d.num :: s1.stp.faulted } }
  if s.train then s2.fail 3 else s2

/-! ### The scale stage (R73, R94) -/

/-- Scales of an array's blocks as values: none for an invalid one; each column's block counts once (R50, R73). -/
def noteScales (legacy : Bool) (rows : List (List Half)) : Nm (List (List (Option FVal))) :=
  rows.mapM (fun r => r.mapM (noteScale legacy))

/-- The Colander terms of an array for one vector, as exact sums for each column, but for s_act × q × r, whose product with
s_act is formed here too (R94). -/
def colander (sAct : FVal) (legacy : Bool) (g : Segment) (rows : Nat) (masked : List Nat) (qs : List Int)
    (chans : List (FVal × List Half)) : List (Nat × FVal) × List (FVal × List Half) :=
  (g.ents.filterMap (fun e =>
    let i := 128 * e.group + e.row
    if i < rows ∧ ¬masked.contains i then
      some (e.col, (timesScale (qs.getD i 0) sAct).mul (unpack16 legacy e.resid))
    else none), chans)

/-- One column's result (R73). -/
def columnOf (md : FMode) (sAct : FVal) (lanes : List Int) (scales : List (Option FVal)) (terms : List FVal) : Nm Word := do
  let x := (lanes.zip scales).foldl (fun acc p => match p.2 with
    | some v => if p.1 = 0 then acc else acc.add (timesScale p.1 (sAct.mul v))
    | none => acc) exZero
  to32 md ((terms.foldl (fun acc t => acc.add t) x).val)

/-- The 512 results of one array for one vector: an invalid scale of any of a column's 16 blocks makes it the canonical NaN (R73). -/
def arrayResults (md : FMode) (sAct : Option FVal) (lanes : List (List Int)) (scales : List (List (Option FVal)))
    (col : List (Nat × FVal) × List (FVal × List Half)) : Nm (List Word) :=
  match sAct with
  | none => return List.replicate 512 nan32
  | some sv =>
    ((transposeL 512 lanes).zip (transposeL 512 scales)).zipIdx.mapM (fun x => do
      if x.1.2.any (fun v => v.isNone) then do
        Nm.nanRes
        return nan32
      else
        columnOf md sv x.1.1 x.1.2
          ((col.1.filter (fun t => t.1 == x.2)).map (·.2)
            ++ col.2.map (fun c => c.1.mul (unpack16 md.legacy (c.2.getD x.2 0)))))

/-! ### One product -/

/-- What a product takes from one array: its number and position, the levels of its data rows, its scales and its segment. -/
structure AmpArray where
  num : Nat
  pos : Nat
  levels : List (List Int)
  scales : List (List Half)
  seg : Segment
deriving DecidableEq, Repr

/-- The levels of the 520 cells of the rows that serve an array's data rows (R67, R82). -/
def State.cellLevels (s : State) (a : Nat) : List (List Int) :=
  let x := s.array a
  (List.range dataRows).map (fun r => (s.cellRow a (x.physRow r)).map (stateLevel x.fmt))

/-- An array as a product sees it: the levels of its cells, or in reference mode those of its sources (R82, R110). -/
def State.ampArray (s : State) (ref : Bool) (tag : Option Nat) (a : Nat × Nat) : AmpArray :=
  let srcs := s.sourcesFor tag a.2
  { num := a.2, pos := a.1,
    levels := if ref then s.sourceLevels a.2 srcs else s.cellLevels a.2,
    scales := if ref then (s.srcScales srcs (List.replicate 16 none)).map (fun r => r.getD (List.replicate 512 0))
      else (List.range 16).map (s.scaleRow a.2),
    seg := s.segFor ref tag a.2 }

/-- How an array converts (R115, R116). -/
def State.convCfg (s : State) (a : Nat) : ConvCfg :=
  let x := s.array a
  { det := x.figOn.detBound.toNat, noise := x.figOn.noise.toNat, bound := decide (x.status < 2),
    trim := (s.core (a / 16)).trim }

/-- An array as the converters meet it, with the levels given. -/
def State.convArray (s : State) (a pos : Nat) (levels : List (List Int)) : ConvArray :=
  { pos := pos, levels := levels, rems := (List.range dataRows).map (fun r => s.remRow a ((s.array a).physRow r)),
    cfg := s.convCfg a, mean := s.ana.meanMargin, rms := s.ana.rmsMargin }

/-- The accumulators of an array's conversions before a product. -/
def State.laneAcc0 (s : State) (a : Nat) : LaneAcc :=
  { lanes := lanes0, errs := List.replicate 512 0, w := 0, v := 0, clamps := 0, win := (s.array a).chk, full := [] }

/-- A vector of a product: its number, activation codes, side vector, and plan. -/
structure AmpVec where
  num : Nat
  acts : List Byte
  side : List Half
  plan : VecPlan
deriving DecidableEq, Repr

/-- The vectors of a product. -/
def State.ampVecs (s : State) (d : Desc) (c : SieveCfg) : List AmpVec :=
  let core := Desc.home d
  let n := ampNvec d
  let sides := if ampNchan d = 0 then [] else chunk 64 n (s.opRead core (Desc.opB d) (64 * n))
  (chunk 1024 n (s.opRead core (Desc.opA d) (1024 * n))).zipIdx.map (fun v =>
    { num := v.2, acts := v.1, side := halves 32 (sides.getD v.2 []), plan := planVec c v.1 })

/-- The analogue conversions of a product's vectors in one array: the lanes of each vector, and the accumulators after the last. -/
def vecLanes (a : ConvArray) (signed : Bool) (base : Nat) (x : LaneAcc) (vs : List AmpVec) : List (List (List Int)) × LaneAcc :=
  vs.foldl (fun acc v =>
    let y := acc.2.vec a signed base v.num v.plan
    (acc.1 ++ [y.lanes], y)) ([], x)

/-- The results of one array over all vectors, from the lanes of each. -/
def ampOne (md : FMode) (signed : Bool) (kbase : Nat) (c : SieveCfg) (chans : List Nat) (sAct : Option FVal)
    (vs : List (AmpVec × List (List Int))) (a : AmpArray) : Nm (List Word) := do
  let scales ← noteScales md.legacy a.scales
  let here := chansHere kbase chans
  let rs ← vs.mapM (fun v => do
    let cw := here.map (fun h => (unpack16 md.legacy (v.1.side.getD h.1 0), (a.seg.chanRow h.2.1 h.2.2).getD []))
    let col := colander (sAct.getD (.zero false)) md.legacy a.seg c.rows c.masked (v.1.acts.map (actVal signed)) cw
    arrayResults md sAct v.2 scales col)
  return rs.flatten

/-- What the Sieve decides by in a product (R76, R80, R92, R96). -/
def State.sieveCfg (s : State) (d : Desc) (arrs : List (Nat × Nat)) (chans : List Nat) : SieveCfg :=
  { rows := ampRows d, masked := (chansHere (ampKbase d) chans).map (fun c => c.2.1 - ampKbase d),
    limit := arrs.foldl (fun m a => min m (s.rowLimit (s.array a.2).fmt)) 128,
    bsplit := arrs.foldl (fun b a => b ||| (s.array a.2).bsplit) 0,
    force := s.hif.state == .test && s.ana.forceSplit, noSkip := s.hif.state == .test && s.ana.noSkip }

/-- The lanes of each enabled array for each vector: exact in reference mode, else converted (R73, R110). -/
def State.ampLanes (s : State) (d : Desc) (ref : Bool) (c : SieveCfg) (vs : List AmpVec) (a : AmpArray) :
    List (List (List Int)) × LaneAcc :=
  if ref then (vs.map (fun v => exactLanes (ampSigned d) a.levels (liveRows c v.acts)), s.laneAcc0 a.num)
  else vecLanes (s.convArray a.num a.pos a.levels) (ampSigned d) s.free (s.laneAcc0 a.num) vs

/-- The results of a product: NVEC × 512 values for each enabled array in position order, added to D under ACC (R73, R245). -/
def State.ampRun (s : State) (d : Desc) (arrs : List (AmpArray × List (List (List Int)))) (c : SieveCfg) (chans : List Nat)
    (vs : List AmpVec) : Nm (List Byte) := do
  let md := s.mode d
  let q ← s.dataScale md (Desc.opA d).tensor none
  let sAct ← noteScale md.legacy q
  let rs ← arrs.mapM (fun a => ampOne md (ampSigned d) (ampKbase d) c chans sAct (vs.zip a.2) a.1)
  let ws := rs.flatten
  if ampAcc d then do
    let old := leWords ws.length (s.opRead (Desc.home d) (Desc.opD d) (4 * ws.length))
    let sum ← (old.zip ws).mapM (fun p => add32 md p.1 p.2)
    return wordBytes sum
  else return wordBytes ws

/-- Sum of a figure over vectors. -/
def sumOf {α : Type} (f : α → Nat) (l : List α) : Nat :=
  (l.map f).foldl (· + ·) 0

/-- Whether some product of the running recipe with the TASTE flag enables an array (R112). -/
def State.tastable (s : State) (a : Nat) : Bool :=
  s.cur.descs.any (fun d => Desc.opcode d == 0x10 && Desc.taste d && (s.ampArrays d).any (fun x => x.2 == a))

/-- The arrays of a core, those whose tasting a failed window has put ahead of their turn first, then by number (R109, R112). -/
def State.tasteOrder (s : State) (core : Nat) : List Nat :=
  let l := (List.range 16).map (16 * core + ·)
  l.filter (fun a => (s.array a).tasteAhead) ++ l.filter (fun a => !(s.array a).tasteAhead)

/-- The array of a core whose turn to be tasted it is: the first of those due that a product can sample (log 90). -/
def State.tasteTurn (s : State) (core : Nat) : Option Nat :=
  (s.tasteOrder core).find? (fun a => (s.array a).tasteDue && s.tastable a)

/-- A product with the TASTE flag captures its first vector that is not all-zero for the array whose turn it is, at most one vector for a
core in a beat (R112). -/
def State.taste (s : State) (d : Desc) (arrs : List (Nat × Nat)) (c : SieveCfg) (vs : List AmpVec) : State :=
  let core := Desc.core d % 128
  let key := s.lnk.beat * 128 + core
  if s.stp.raised.contains (2, key) then s
  else
    match arrs.find? (fun a => s.tasteTurn core == some a.2), vs.find? (fun v => !v.plan.zero) with
    | some a, some v =>
      let x := s.array a.2
      let cap : Captured := { acts := v.acts, side := v.side, step := s.stp.step, epoch := x.epoch, sgn := ampSigned d, rows := c.rows,
                              masked := c.masked, limit := c.limit, bsplit := c.bsplit, fields := d.w }
      (s.setArray a.2 { x with tasteDue := false, captured := some cap }).mark 2 key
    | _, _ => s

/-- What a product's conversions leave in an array: the windows that they filled, and the one that fills (R108). -/
def State.keepWindows (s : State) (l : List (Nat × LaneAcc)) : State :=
  match l with
  | [] => s
  | e :: r =>
    let x := s.array e.1
    (s.setArray e.1 { x with chk := e.2.win, chkDone := x.chkDone ++ e.2.full }).keepWindows r

/-- The product that fires on a core, but for one that ends: the first of the slots in progress that has not run and is not in reference mode;
none outside the window, where the work has been let go (R83, R93, R309, log 43). -/
def State.firingBut (s : State) (core : Nat) (skip : Option Nat) : Option Desc :=
  s.cur.descs.find? (fun e => Desc.opcode e == 0x10 && Desc.core e % 128 == core && s.stp.slotsOn.contains (Desc.slot e)
    && some e.num != skip && !s.stp.done.contains e.num && s.willRun e && !s.ampRef e (s.ampArrays e) && s.lnk.windowOpen)

/-- Whether a bank of a core fires (R93). -/
def State.firing (s : State) (core : Nat) : Bool :=
  (s.firingBut core none).isSome

/-- The bank of a core that fires, or that fired last (R93). -/
def State.firingBank (s : State) (core : Nat) : Nat :=
  match s.firingBut core none with
  | some e => ampBank e
  | none => (s.core core).bank

/-- The counters and events of an analogue product, and the bank that fires after it: that of the core's next product in the slots in
progress, or none (R70, R75, R77, R78, R81, R83, R89, R93). -/
def State.ampCounts (s : State) (d : Desc) (vs : List AmpVec) (clamps : Nat) : State :=
  let splits := sumOf (fun v => v.plan.splits .rows) vs
  let s1 := (((((s.count cConv (sumOf (fun v => v.plan.cycles) vs)).count cSkipPlane (sumOf (fun v => v.plan.skipped) vs)).count
    cSkipVec (sumOf (fun v => b2n v.plan.zero) vs)).count cSplit splits).count cBSplit
    (sumOf (fun v => v.plan.splits .blocks) vs)).count cClamp clamps
  let s2 := if splits = 0 then s1 else s1.raiseOnce 0x3001 d.num 0 [wd d.num, wd splits]
  let k := Desc.core d % 128
  match s2.firingBut k (some d.num) with
  | some e => s2.setCore k { s2.core k with bank := ampBank e }
  | none => s2.setCore k { s2.core k with bank := ampBank d }

/-- AMP on the state. -/
def State.amp (s : State) (d : Desc) : State :=
  match s.ampFault d with
  | some cause => s.descFault d cause
  | none =>
    let arrs := s.ampArrays d
    let ref := s.ampRef d arrs
    let chans := s.channels (Desc.home d) (Desc.opC d) (ampNchan d)
    let c := s.sieveCfg d arrs chans
    let vs := s.ampVecs d c
    let xs := arrs.map (s.ampArray ref (s.tagOf d))
    let ls := xs.map (s.ampLanes d ref c vs)
    let s1 := s.writeFx d (Desc.home d) { Desc.opD d with fmt := fT32 }
      ((s.ampRun d (xs.zip (ls.map (·.1))) c chans vs).run fx0)
    if ref then s1.count cRefVec (ampNvec d)
    else
      let s2 := (s1.keepWindows ((xs.map (·.num)).zip (ls.map (·.2)))).draw (ampNvec d * 8 * 16 * 4 * 520)
      let s3 := s2.ampCounts d vs (sumOf (fun l => l.2.clamps) ls)
      if Desc.taste d then s3.taste d arrs c vs else s3

/-- AMP (descriptor 0x10). -/
def execAmp (d : Desc) (e : Env) (s : State) : Host.Outcome State Fault Refusal :=
  .next (s.runDesc 0x10 d e (fun t => t.amp d))

end Sys2Proof.Machine
end

