-- ==== Sys2Proof/Machine/Approx.lean ====
section
/-! DEFINITION. The functions of R167 that are within 2 ulp: rational approximations, in fixed point with 160 fraction bits and errors
far below a unit in the last place, against which the fixed method's result is held. -/

namespace Sys2Proof.Machine

/-- 1, ln 2 and 2 / √π in fixed point with 160 fraction bits. -/
def apOne : Int := 2 ^ 160
def apLn2 : Int := 2 ^ 160 * 69314718055994530941723212145817656807550013436025 / 10 ^ 50
def apErfC : Int := 2 ^ 160 * 1128379167095512573896158903121545171688 / 10 ^ 39

/-- A finite value in fixed point, rounded down. -/
def apFix (neg : Bool) (m : Nat) (e : Int) : Int :=
  if 0 ≤ e + 160 then sgnInt neg m * 2 ^ (e + 160).toNat else sgnInt neg m / 2 ^ (-(e + 160)).toNat

/-- 1 + r / n × (1 + r / (n + 1) × …), k terms: the exponential series. -/
def apSeries (k n : Nat) (r : Int) : Int :=
  match k with
  | 0 => apOne
  | k + 1 => apOne + r * apSeries k (n + 1) r / (apOne * n)

/-- 2^(k + r / ln 2) for 0 ≤ r < ln 2. -/
def apPow (k r : Int) : FVal :=
  .fin false (apSeries 48 1 r).toNat (k - 160)

/-- e^x for a fixed-point x; far outside the range of T32 a value that overflows or vanishes all the same. -/
def apExp (x : Int) : FVal :=
  if 100 * apOne ≤ x then .fin false 1 200
  else if x ≤ -120 * apOne then .fin false 1 (-180)
  else apPow (x / apLn2) (x % apLn2)

/-- 2^x. -/
def apExp2 (x : Int) : FVal :=
  if 140 * apOne ≤ x then .fin false 1 200
  else if x ≤ -180 * apOne then .fin false 1 (-180)
  else apPow (x / apOne) (x % apOne * apLn2 / apOne)

/-- z + z^3 / 3 + z^5 / 5 + …, k terms, from the power p = z^n on. -/
def apAtanh (k n : Nat) (p zz : Int) : Int :=
  match k with
  | 0 => 0
  | k + 1 => p / n + apAtanh k (n + 2) (p * zz / apOne) zz

/-- ln(m × 2^e) in fixed point. -/
def apLog (m : Nat) (e : Int) : Int :=
  let l := Nat.log2 m
  let z : Int := ((m : Int) - 2 ^ l) * apOne / (m + 2 ^ l)
  2 * apAtanh 60 1 z (z * z / apOne) + (e + l) * apLn2

/-- A fixed-point number as a value. -/
def apVal (i : Int) : FVal := ofDyadic false i (-160)

/-- A positive value in fixed point. -/
def apOf (v : FVal) : Int :=
  match v with
  | .fin n m e => apFix n m e
  | _ => 0

/-- The sign put on a magnitude. -/
def apSign (neg : Bool) (v : FVal) : FVal :=
  if neg then v.neg else v

/-- tanh(±|x|). -/
def apTanh (neg : Bool) (m : Nat) (e : Int) : FVal :=
  let x := apFix false m e
  if x < 2 ^ 140 then .fin neg m e
  else if 12 * apOne ≤ x then .fin neg 1 0
  else
    let y := apOf (apExp (2 * x))
    apSign neg (apVal ((y - apOne) * apOne / (y + apOne)))

/-- sigmoid(±|x|), from E = e^−|x|: 1 / (1 + E), or E / (1 + E). -/
def apSigmoid (neg : Bool) (m : Nat) (e : Int) : FVal :=
  match apExp (-(apFix false m e)) with
  | .fin _ k f =>
    let d := apOne + apOf (.fin false k f)
    if neg then .fin false (k * 2 ^ 160 / d.toNat) f else apVal (apOne * apOne / d)
  | v => v

/-- x − x^3 / 3 + x^5 / (2! × 5) − …, k terms, from the term t = ± x^(2n+1) / n! on. -/
def apErfSum (k n : Nat) (t xx : Int) : Int :=
  match k with
  | 0 => 0
  | k + 1 => t / (2 * n + 1) + apErfSum k (n + 1) (-(t * xx / apOne / (n + 1))) xx

/-- erf(±|x|). -/
def apErf (neg : Bool) (m : Nat) (e : Int) : FVal :=
  let x := apFix false m e
  if x < 2 ^ 140 then .fin neg (m * apErfC.toNat) (e - 160)
  else if 9 * apOne ≤ 2 * x then .fin neg 1 0
  else apSign neg (apVal (apErfSum 110 0 x (x * x / apOne) * apErfC / apOne))

/-- A function of R167, by its FN code, at a finite argument; none for those R167 does not list. -/
def apFn (fn : Nat) (x : FVal) : Option FVal :=
  match x with
  | .fin n m e =>
    if fn = 0x13 then some (apExp (apFix n m e))
    else if fn = 0x14 then some (apExp2 (apFix n m e))
    else if fn = 0x15 then some (apVal (apLog m e))
    else if fn = 0x16 then some (apVal (apLog m e * apOne / apLn2))
    else if fn = 0x17 then some (apErf n m e)
    else if fn = 0x18 then some (apSigmoid n m e)
    else if fn = 0x19 then some (apTanh n m e)
    else none
  | _ => if fn = 0x13 ∨ fn = 0x14 then some (.fin false 1 0) else if fn = 0x18 then some (.fin false 1 (-1)) else none

/-- Whether v lies within 2 units in the last place of T32 of w; a millionth of a unit is left to the approximation. -/
def near2 (v w : FVal) : Bool :=
  match w with
  | .fin _ m e =>
    let q : Int := max (e + Nat.log2 m - 23) (-149)
    !(FVal.fin false (2 ^ 21 + 1) (q - 20)).lt (v.add w.neg).abs && v != .nan
  | _ => false

/-- The exponent of a value's first bit. -/
def FVal.top (v : FVal) : Int :=
  match v with
  | .fin _ m e => e + Nat.log2 m
  | _ => 0

/-- The fixed method's value at an argument that has no special value: the free function of Config where it keeps within 2 ulp, else
the function itself; an overflow is left to the rounding of the result (R41, R167, log 7). -/
def fixedVal (legacy : Bool) (fn : Nat) (x p : Word) : FVal :=
  let v := unpack32 true (Config.fixedMethod fn x p)
  match apFn fn (unpack32 legacy x) with
  | none => v
  | some w => if 127 < w.top then w else if near2 v w then v else w

end Sys2Proof.Machine
end

