-- ==== Sys2Proof/Machine/Whisk.lean ====
section
/-! DEFINITION. The Whisk's vector commands: element-wise functions, reductions, soft-maximum and normalisation with their
derivatives, gathers and scatters in the local store, compare and tensor digest (R164 to R169, R174 to R177, R195 to R197, R242,
R247, R253). -/

namespace Sys2Proof.Machine

/-! ### Functions of R167 -/

/-- A T32 value of the fixed method: a finite overflow under R41, flushed below 2^−126 in native mode (R167). -/
def fixed (md : FMode) (fn : Nat) (x p : Word) : Nm Word :=
  to32 md (fixedVal md.legacy fn x p)

/-- exp and exp2 (FN 0x13, 0x14). -/
def expLike (md : FMode) (fn : Nat) (x : Word) : Nm Word :=
  match unpack32 md.legacy x with
  | .nan => out32 .nan
  | .inf n => return if n then 0 else 0x7F800000
  | _ => fixed md fn x 0

/-- log and log2 (FN 0x15, 0x16). -/
def logLike (md : FMode) (fn : Nat) (x : Word) : Nm Word :=
  match unpack32 md.legacy x with
  | .nan => out32 .nan
  | .zero _ => return 0xFF800000
  | .inf n => if n then out32 .nan else return 0x7F800000
  | .fin n _ _ => if n then out32 .nan else if x = one32 then return 0 else fixed md fn x 0

/-- erf and tanh: odd, ±0 to ±0 and ±∞ to ±1 (FN 0x17, 0x19). -/
def oddLike (md : FMode) (fn : Nat) (x : Word) : Nm Word :=
  match unpack32 md.legacy x with
  | .nan => out32 .nan
  | .zero n => return if n then 0x80000000 else 0
  | .inf n => return if n then 0xBF800000 else one32
  | .fin _ _ _ => fixed md fn x 0

/-- sigmoid (FN 0x18). -/
def sigmoid32 (md : FMode) (x : Word) : Nm Word :=
  match unpack32 md.legacy x with
  | .nan => out32 .nan
  | .inf n => return if n then 0 else one32
  | _ => fixed md 0x18 x 0

/-- exp. -/
def exp32 (md : FMode) (x : Word) : Nm Word := expLike md 0x13 x

/-- erf. -/
def erf32 (md : FMode) (x : Word) : Nm Word := oddLike md 0x17 x

/-- A function of one T32 argument (R167, R247); SOFTPLUS, ELU, SILU and GELU have no stated bits and are the fixed method's
(log 7). -/
def func32 (md : FMode) (fn : Nat) (x imm : Word) : Nm Word :=
  if fn = 0x10 then recip32 md x
  else if fn = 0x11 then sqrt32 md x
  else if fn = 0x12 then rsqrt32 md x
  else if fn = 0x13 ∨ fn = 0x14 then expLike md fn x
  else if fn = 0x15 ∨ fn = 0x16 then logLike md fn x
  else if fn = 0x17 ∨ fn = 0x19 then oddLike md fn x
  else if fn = 0x18 then sigmoid32 md x
  else if fn = 0x1A then max32 md x 0
  else if isNan32 x then out32 .nan
  else if fn = 0x1C then
    if (unpack32 md.legacy x).lt (.zero false) then fixed md fn x imm else to32 md (unpack32 md.legacy x)
  else fixed md fn x 0

/-! ### EWISE (R166, R247) -/

/-- Arithmetic EWISE functions on exact values. -/
def arith (fn : Nat) (a b c : FVal) : FVal :=
  if fn = 0 then a.add b
  else if fn = 1 then a.add b.neg
  else if fn = 2 then a.mul b
  else if fn = 3 then (a.mul b).add c
  else if fn = 4 then a.max b
  else if fn = 5 then a.min b
  else if fn = 6 then (match a with
    | .zero _ => c
    | _ => b)
  else a

/-- Whether FN names an EWISE function (R247). -/
def isEwiseFn (fn : Nat) : Bool :=
  decide (fn ≤ 7) || (decide (0x10 ≤ fn) && decide (fn ≤ 0x1E))

/-- The results of an EWISE descriptor. A function of the transcendental lanes gives a T32 result, which R54 rounds to T16 (R167); RELU is
rounded once as the arithmetic is (R166). -/
def State.ewiseRun (s : State) (d : Desc) : Nm (List Byte) := do
  let md := s.mode d
  let core := Desc.home d
  let fn := Desc.f d 13 7 0
  let n := (Desc.word d 10).toNat * (Desc.word d 11).toNat
  let oA := Desc.opA d
  let a ← s.elems d core oA oA n
  if fn ≤ 7 then do
    let k := ewiseInputs fn
    let b ← if 2 ≤ k then s.elems d core (Desc.opB d) (Desc.opB d) n else pure a
    let c ← if 3 ≤ k then s.elems d core (Desc.opC d) (Desc.opC d) n else pure a
    renderFloat md (s.rnd d) (Desc.opD d).fmt (((a.zip b).zip c).map (fun x => arith fn x.1.1 x.1.2 x.2))
  else do
    let ws ← a.mapM (to32 md)
    let rs ← ws.mapM (fun x => func32 md fn x (Desc.word d 12))
    renderFloat md (if fn = 0x1A then s.rnd d else .nearest) (Desc.opD d).fmt (rs.map (unpack32 md.legacy))

/-- EWISE on the state; an FN that names no function is refused at load and does nothing. -/
def State.ewise (s : State) (d : Desc) : State :=
  if isEwiseFn (Desc.f d 13 7 0) then s.writeFx d (Desc.home d) (Desc.opD d) ((s.ewiseRun d).run fx0) else s

/-- EWISE (descriptor 0x30). -/
def execEwise (d : Desc) (e : Env) (s : State) : Host.Outcome State Fault Refusal :=
  .next (s.runDesc 0x30 d e (fun t => t.ewise d))

/-! ### Sums (R168) -/

/-- One more row of elements on the lanes. -/
def laneAdd (md : FMode) (ls xs : List Word) : Nm (List Word) :=
  match ls, xs with
  | l :: lr, x :: xr => do
    let a ← add32 md l x
    let r ← laneAdd md lr xr
    return a :: r
  | ls, _ => return ls

/-- The rows added in order. -/
def lanesOf (md : FMode) (rows : List (List Word)) (ls : List Word) : Nm (List Word) :=
  match rows with
  | [] => return ls
  | r :: rest => do
    let l ← laneAdd md ls r
    lanesOf md rest l

/-- One level of the pairwise tree. -/
def pairUp (md : FMode) (ls : List Word) : Nm (List Word) :=
  match ls with
  | a :: b :: r => do
    let c ← add32 md a b
    let rest ← pairUp md r
    return c :: rest
  | ls => return ls

/-- The levels of the tree. -/
def treeUp (md : FMode) (k : Nat) (ls : List Word) : Nm Word :=
  match k with
  | 0 => return ls.headD 0
  | k + 1 => do
    let l ← pairUp md ls
    treeUp md k l

/-- A sum in the order of R168: element i on lane i mod 256, then the tree over 8 levels. -/
def sum32 (md : FMode) (xs : List Word) : Nm Word := do
  let ls ← lanesOf md (chunk 256 (cdiv xs.length 256) xs) (List.replicate 256 0)
  treeUp md 8 ls

/-- Maximum or minimum of a row (R168). -/
def extremum (md : FMode) (isMax : Bool) (xs : List Word) : Nm Word :=
  match xs with
  | [] => return 0
  | x :: r => r.foldlM (fun a y => if isMax then max32 md a y else min32 md a y) x

/-- One reduced row (R247: SUM, MAX, MIN, SUMSQ). DESIGN CHOICE, log 101: SUMSQ rounds each square to T32 before its lane adds it. -/
def reduceRow (md : FMode) (fn : Nat) (xs : List Word) : Nm Word := do
  if fn = 0x30 then sum32 md xs
  else if fn = 0x31 then extremum md true xs
  else if fn = 0x32 then extremum md false xs
  else do
    let q ← xs.mapM (fun x => mul32 md x x)
    sum32 md q

/-- The results of a REDUCE descriptor. -/
def State.reduceRun (s : State) (d : Desc) : Nm (List Byte) := do
  let md := s.mode d
  let n := (Desc.word d 10).toNat
  let rows := (Desc.word d 11).toNat
  let xs ← s.words d (Desc.home d) (Desc.opA d) (n * rows)
  let rs ← (chunk n rows xs).mapM (reduceRow md (Desc.f d 13 7 0))
  renderFloat md (s.rnd d) (Desc.opD d).fmt (rs.map (unpack32 md.legacy))

/-- REDUCE on the state. -/
def State.reduceOp (s : State) (d : Desc) : State :=
  if 0x30 ≤ Desc.f d 13 7 0 ∧ Desc.f d 13 7 0 ≤ 0x33 then
    s.writeFx d (Desc.home d) (Desc.opD d) ((s.reduceRun d).run fx0)
  else s

/-- REDUCE (descriptor 0x31). -/
def execReduce (d : Desc) (e : Env) (s : State) : Host.Outcome State Fault Refusal :=
  .next (s.runDesc 0x31 d e (fun t => t.reduceOp d))

/-! ### Rows: soft-maximum and normalisation (R169) -/

/-- e[i] and their sum for a soft-maximum row. -/
def softParts (md : FMode) (xs : List Word) : Nm (List Word × Word) := do
  let m ← extremum md true xs
  let es ← xs.mapM (fun x => do
    let y ← sub32 md x m
    exp32 md y)
  let t ← sum32 md es
  return (es, t)

/-- A soft-maximum row, exact quotients left to the destination's rounding; the flag is a sticky tail. -/
def softRow (md : FMode) (xs : List Word) : Nm (List (FVal × Bool)) := do
  let p ← softParts md xs
  return p.1.map (fun e => (unpack32 md.legacy e).div (unpack32 md.legacy p.2))

/-- Quotients written in a floating-point format, each rounded once (R166). -/
def renderQuo (md : FMode) (rn : Rnd) (f : Nat) (xs : List (FVal × Bool)) : Nm (List Byte) := do
  if f = fT16 then do
    let hs ← xs.zipIdx.mapM (fun x => do
      let r ← roundT16 md rn x.2 x.1.1 x.1.2
      if r = .nan then Nm.nanRes
      return pack16 r)
    return halfBytes hs
  else do
    if f = fT32C then do
      let ps ← xs.mapM (fun x => do
        if x.1 = .nan then Nm.nanRes
        return pack32c (← roundTo 40 md false x.1 x.2))
      return wordBytes (ps.map (·.1)) ++ halfBytes (ps.map (·.2))
    else do
      let ws ← xs.mapM (fun x => do out32 (← roundTo 24 md false x.1 x.2))
      return wordBytes ws

/-- The results of a SOFTMAX descriptor. -/
def State.softmaxRun (s : State) (d : Desc) : Nm (List Byte) := do
  let md := s.mode d
  let n := (Desc.word d 10).toNat
  let rows := (Desc.word d 11).toNat
  let xs ← s.words d (Desc.home d) (Desc.opA d) (n * rows)
  let ys ← (chunk n rows xs).mapM (softRow md)
  renderQuo md (s.rnd d) (Desc.opD d).fmt ys.flatten

/-- SOFTMAX (descriptor 0x32). -/
def execSoftmax (d : Desc) (e : Env) (s : State) : Host.Outcome State Fault Refusal :=
  .next (s.runDesc 0x32 d e (fun t => t.writeFx d (Desc.home d) (Desc.opD d) ((t.softmaxRun d).run fx0)))

/-- mu and rsqrt(v + eps) of a row (R169). -/
def normParts (md : FMode) (n : Nat) (eps : Word) (xs : List Word) : Nm (Word × Word) := do
  let t ← sum32 md xs
  let mu ← div32 md t (nat32 n)
  let qs ← xs.mapM (fun x => do
    let y ← sub32 md x mu
    mul32 md y y)
  let u ← sum32 md qs
  let v ← div32 md u (nat32 n)
  let w ← add32 md v eps
  let r ← rsqrt32 md w
  return (mu, r)

/-- What a normalised row gives: the results and x̂, left exact for their destinations' rounding, and r (R169, R197). -/
structure NormOut where
  ys : List FVal
  xs : List FVal
  r : Word
deriving DecidableEq, Repr

/-- A normalised row. DESIGN CHOICE, log 102: the difference, its product with rsqrt(v + eps) and the product with gamma are each rounded to
T32, and beta is added unfused. -/
def normRow (md : FMode) (n : Nat) (eps : Word) (gamma beta xs : List Word) : Nm NormOut := do
  let p ← normParts md n eps xs
  let us ← xs.mapM (fun x => sub32 md x p.1)
  let ys ← ((us.zip gamma).zip beta).mapM (fun x => do
    let z ← mul32 md x.1.1 p.2
    let g ← mul32 md z x.1.2
    return (unpack32 md.legacy g).add (unpack32 md.legacy x.2))
  return { ys := ys, xs := us.map (fun u => (unpack32 md.legacy u).mul (unpack32 md.legacy p.2)), r := p.2 }

/-- The results of a NORM descriptor; in a TRAIN recipe the NORM record's x̂ and r lie right after them (R197, log 15). -/
def State.normRun (s : State) (d : Desc) : Nm (List Byte) := do
  let md := s.mode d
  let core := Desc.home d
  let n := (Desc.word d 10).toNat
  let rows := (Desc.word d 11).toNat
  let xs ← s.words d core (Desc.opA d) (n * rows)
  let g ← s.words d core (Desc.opB d) n
  let b ← s.words d core (Desc.opC d) n
  let os ← (chunk n rows xs).mapM (normRow md n (Desc.word d 12) g b)
  let ys ← renderFloat md (s.rnd d) (Desc.opD d).fmt (os.flatMap (fun (o : NormOut) => o.ys))
  if s.train then do
    let hs ← renderFloat md (s.rnd d) (normFmt (Desc.opD d).fmt) (os.flatMap (fun (o : NormOut) => o.xs))
    return ys ++ hs ++ wordBytes (os.map (fun (o : NormOut) => o.r))
  else return ys

/-- NORM (descriptor 0x33). -/
def execNorm (d : Desc) (e : Env) (s : State) : Host.Outcome State Fault Refusal :=
  .next (s.runDesc 0x33 d e (fun t => t.writeFx d (Desc.home d) (Desc.opD d) ((t.normRun d).run fx0)))

/-! ### Derivatives (R195 to R197) -/

/-- d of R195 for the functions in table order, from the saved value. -/
def derivOf (md : FMode) (fn : Nat) (alpha v : Word) : Nm Word := do
  if isNan32 v then out32 .nan
  else if fn = 0x20 then fma32 md (neg32 v) v v
  else if fn = 0x21 then fma32 md (neg32 v) v one32
  else if fn = 0x22 then return if (FVal.zero false).lt (unpack32 md.legacy v) then one32 else 0
  else if fn = 0x23 then do
    let e ← exp32 md (neg32 v)
    sub32 md one32 e
  else if fn = 0x24 then
    if (unpack32 md.legacy v).lt (.zero false) then add32 md v alpha else return one32
  else if fn = 0x25 then do
    let g ← sigmoid32 md v
    let t ← fma32 md (neg32 g) g g
    fma32 md v t g
  else do
    let u ← mul32 md v 0x3F3504F3
    let h ← erf32 md u
    let c ← fma32 md half32 h half32
    let q ← mul32 md negHalf32 v
    let q2 ← mul32 md q v
    let x ← exp32 md q2
    let p ← mul32 md x 0x3ECC422A
    fma32 md v p c

/-- The results of a DERIV descriptor: g × d, rounded once. -/
def State.derivRun (s : State) (d : Desc) : Nm (List Byte) := do
  let md := s.mode d
  let core := Desc.home d
  let n := (Desc.word d 10).toNat * (Desc.word d 11).toNat
  let vs ← s.words d core (Desc.opA d) n
  let gs ← s.words d core (Desc.opB d) n
  let rs ← (vs.zip gs).mapM (fun x => do
    let t ← derivOf md (Desc.f d 13 7 0) (Desc.word d 12) x.1
    return (unpack32 md.legacy x.2).mul (unpack32 md.legacy t))
  renderFloat md (s.rnd d) (Desc.opD d).fmt rs

/-- DERIV on the state. -/
def State.derivOp (s : State) (d : Desc) : State :=
  if 0x20 ≤ Desc.f d 13 7 0 ∧ Desc.f d 13 7 0 ≤ 0x26 then
    s.writeFx d (Desc.home d) (Desc.opD d) ((s.derivRun d).run fx0)
  else s

/-- DERIV (descriptor 0x34). -/
def execDeriv (d : Desc) (e : Env) (s : State) : Host.Outcome State Fault Refusal :=
  .next (s.runDesc 0x34 d e (fun t => t.derivOp d))

/-- dx of a soft-maximum row (R196), exact products left to the destination. -/
def softBwdRow (md : FMode) (x : List Word × List Word) : Nm (List FVal) := do
  let ps ← (x.1.zip x.2).mapM (fun p => mul32 md p.1 p.2)
  let c ← sum32 md ps
  (x.1.zip x.2).mapM (fun p => do
    let u ← sub32 md p.2 c
    return (unpack32 md.legacy p.1).mul (unpack32 md.legacy u))

/-- The results of a SOFTMAX_BWD descriptor. -/
def State.softmaxBwdRun (s : State) (d : Desc) : Nm (List Byte) := do
  let md := s.mode d
  let core := Desc.home d
  let n := (Desc.word d 10).toNat
  let rows := (Desc.word d 11).toNat
  let ys ← s.words d core (Desc.opA d) (n * rows)
  let gs ← s.words d core (Desc.opB d) (n * rows)
  let rs ← ((chunk n rows ys).zip (chunk n rows gs)).mapM (softBwdRow md)
  renderFloat md (s.rnd d) (Desc.opD d).fmt rs.flatten

/-- SOFTMAX_BWD (descriptor 0x35). -/
def execSoftmaxBwd (d : Desc) (e : Env) (s : State) : Host.Outcome State Fault Refusal :=
  .next (s.runDesc 0x35 d e (fun t => t.writeFx d (Desc.home d) (Desc.opD d) ((t.softmaxBwdRun d).run fx0)))

/-- One row of NORM_BWD: dx left exact, and the accumulated dgamma and dbeta (R197). -/
def normBwdRow (md : FMode) (n : Word) (gamma dy xh : List Word) (r : Word) (dg db : List Word) :
    Nm (List FVal × List Word × List Word) := do
  let gh ← (dy.zip gamma).mapM (fun p => mul32 md p.1 p.2)
  let sa ← sum32 md gh
  let a ← div32 md sa n
  let ps ← (gh.zip xh).mapM (fun p => mul32 md p.1 p.2)
  let sb ← sum32 md ps
  let b ← div32 md sb n
  let dx ← (gh.zip xh).mapM (fun p => do
    let t ← fma32 md (neg32 p.2) b p.1
    let u ← sub32 md t a
    return (unpack32 md.legacy r).mul (unpack32 md.legacy u))
  let dg' ← (dg.zip (dy.zip xh)).mapM (fun p => do
    let m ← mul32 md p.2.1 p.2.2
    add32 md p.1 m)
  let db' ← (db.zip dy).mapM (fun p => add32 md p.1 p.2)
  return (dx, dg', db')

/-- The rows of NORM_BWD in order. -/
def normBwdRows (md : FMode) (n : Word) (gamma : List Word) (rows : List ((List Word × List Word) × Word))
    (dg db : List Word) : Nm (List FVal × List Word × List Word) :=
  match rows with
  | [] => return ([], dg, db)
  | x :: rest => do
    let p ← normBwdRow md n gamma x.1.1 x.1.2 x.2 dg db
    let q ← normBwdRows md n gamma rest p.2.1 p.2.2
    return (p.1 ++ q.1, q.2.1, q.2.2)

/-- The results of a NORM_BWD descriptor: dx, then dgamma and dbeta accumulated where they lie after dx (log 15). -/
def State.normBwdRun (s : State) (d : Desc) : Nm (List Byte) := do
  let md := s.mode d
  let core := Desc.home d
  let n := (Desc.word d 10).toNat
  let rows := (Desc.word d 11).toNat
  let oA := Desc.opA d
  let oD := Desc.opD d
  let xh ← s.words d core oA (n * rows)
  let rs := leWords rows (s.opRead core (oA.at (fmtBytes oA.fmt (n * rows))) (4 * rows))
  let dy ← s.words d core (Desc.opB d) (n * rows)
  let g ← s.words d core (Desc.opC d) n
  let acc := leWords (2 * n) (s.opRead core (oD.at (fmtBytes oD.fmt (n * rows))) (8 * n))
  let r ← normBwdRows md (Desc.word d 12) g (((chunk n rows dy).zip (chunk n rows xh)).zip rs) (acc.take n) (acc.drop n)
  let b ← renderFloat md (s.rnd d) oD.fmt r.1
  return b ++ wordBytes (r.2.1 ++ r.2.2)

/-- NORM_BWD (descriptor 0x36). -/
def execNormBwd (d : Desc) (e : Env) (s : State) : Host.Outcome State Fault Refusal :=
  .next (s.runDesc 0x36 d e (fun t => t.writeFx d (Desc.home d) (Desc.opD d) ((t.normBwdRun d).run fx0)))

/-- One row of LOSS_XENT: (y − onehot) / n (R196). -/
def lossRow (md : FMode) (n : Word) (label : Nat) (xs : List Word) : Nm (List (FVal × Bool)) := do
  let p ← softParts md xs
  p.1.zipIdx.mapM (fun e => do
    let y ← div32 md e.1 p.2
    let t ← sub32 md y (if e.2 = label then one32 else 0)
    return (unpack32 md.legacy t).div (unpack32 md.legacy n))

/-- The results of a LOSS_XENT descriptor; B holds one 32-bit class index per row (log 15). -/
def State.lossRun (s : State) (d : Desc) : Nm (List Byte) := do
  let md := s.mode d
  let core := Desc.home d
  let n := (Desc.word d 10).toNat
  let rows := (Desc.word d 11).toNat
  let xs ← s.words d core (Desc.opA d) (n * rows)
  let ls := leWords rows (s.opRead core (Desc.opB d) (4 * rows))
  let rs ← ((chunk n rows xs).zip ls).mapM (fun x => lossRow md (Desc.word d 12) x.2.toNat x.1)
  renderQuo md (s.rnd d) (Desc.opD d).fmt rs.flatten

/-- LOSS_XENT (descriptor 0x37). -/
def execLossXent (d : Desc) (e : Env) (s : State) : Host.Outcome State Fault Refusal :=
  .next (s.runDesc 0x37 d e (fun t => t.writeFx d (Desc.home d) (Desc.opD d) ((t.lossRun d).run fx0)))

/-! ### Gathers and scatters in the local store (R174, R175, R177) -/

/-- Rows gathered by index from a table of `bound` rows: +0 for an index beyond it, with the count of such indices. -/
def gatherRows (read : Nat → List Byte) (bytes bound : Nat) (idx : List Word) : List Byte × Nat :=
  match idx with
  | [] => ([], 0)
  | i :: r =>
    let q := gatherRows read bytes bound r
    if i.toNat < bound then (read i.toNat ++ q.1, q.2) else (List.replicate bytes 0 ++ q.1, q.2 + 1)

/-- GATHER on the state. -/
def State.gatherOp (s : State) (d : Desc) : State :=
  let core := Desc.home d
  let n := (Desc.word d 10).toNat
  let rb := (Desc.word d 11).toNat
  let bound := (Desc.word d 12).toNat
  let oA := Desc.opA d
  let g := gatherRows (fun i => s.opRead core (oA.at (i * rb)) rb) rb bound
    (leWords n (s.opRead core (Desc.opB d) (4 * n)))
  (((s.opWrite core (Desc.opD d) g.1).count cIdxOor g.2)).count cRouteDropEng (s.routeDrops core (Desc.opB d) n bound)

/-- GATHER (descriptor 0x38). -/
def execGather (d : Desc) (e : Env) (s : State) : Host.Outcome State Fault Refusal :=
  .next (s.runDesc 0x38 d e (fun t => t.gatherOp d))

/-- Rows written by index in list order; an index beyond the destination is discarded and counted (R175). -/
def State.scatterRows (s : State) (core : Nat) (o : Opnd) (bytes bound : Nat) (rows : List (List Byte × Word)) : State :=
  match rows with
  | [] => s
  | x :: r =>
    (if x.2.toNat < bound then s.opWrite core (o.at (x.2.toNat * bytes)) x.1 else s.count cIdxOor 1).scatterRows
      core o bytes bound r

/-- The rows of a scatter with their indices. -/
def State.scatterSrc (s : State) (d : Desc) : List (List Byte × Word) :=
  let n := (Desc.word d 10).toNat
  let rb := (Desc.word d 11).toNat
  (chunk rb n (s.opRead (Desc.home d) (Desc.opA d) (n * rb))).zip (leWords n (s.opRead (Desc.home d) (Desc.opB d) (4 * n)))

/-- SCATTER (descriptor 0x39). -/
def execScatter (d : Desc) (e : Env) (s : State) : Host.Outcome State Fault Refusal :=
  .next (s.runDesc 0x39 d e (fun t =>
    t.scatterRows (Desc.home d) (Desc.opD d) (Desc.word d 11).toNat (t.rowBound (Desc.opD d) (Desc.word d 11).toNat) (t.scatterSrc d)))

/-- Elements of a row of so many bytes; a T32C row holds its hi words and then its comp words (log 16). -/
def rowElems (f bytes : Nat) : Nat :=
  bytes / (if f = fT16 then 2 else if f = fT32C then 6 else 4)

/-- Row k added to another element by element in D's format, each result under its index in D (R39, R55, R175). -/
def addRows (md : FMode) (rn : Rnd) (f k : Nat) (x y : List Byte) : Nm (List Byte) := do
  let n := rowElems f x.length
  let a ← expandElems md f n x [] 0
  let b ← expandElems md f n y [] 0
  renderFrom md rn f (k * n) ((a.zip b).map (fun p => p.1.add p.2))

/-- Rows added by index in list order. -/
def State.scatterAddRows (s : State) (d : Desc) (o : Opnd) (bytes bound : Nat) (rows : List (List Byte × Word)) : State :=
  match rows with
  | [] => s
  | x :: r =>
    let core := Desc.home d
    (if x.2.toNat < bound then
        let at_ := o.at (x.2.toNat * bytes)
        s.writeFx d core at_ ((addRows (s.mode d) (s.rnd d) o.fmt x.2.toNat (s.opRead core at_ bytes) x.1).run fx0)
      else s.count cIdxOor 1).scatterAddRows d o bytes bound r

/-- SCATTER_ADD (descriptor 0x3A). -/
def execScatterAdd (d : Desc) (e : Env) (s : State) : Host.Outcome State Fault Refusal :=
  .next (s.runDesc 0x3A d e (fun t =>
    t.scatterAddRows d (Desc.opD d) (Desc.word d 11).toNat (t.rowBound (Desc.opD d) (Desc.word d 11).toNat) (t.scatterSrc d)))

/-! ### Compare and digest (R242, R253) -/

/-- One element compared with IMM under R39: unordered makes every comparison false but not-equal. -/
def cmpHit (cmp : Nat) (x imm : FVal) : Bool :=
  if cmp = 6 then x == .nan
  else if cmp = 7 then (match x with
    | .inf _ => true
    | _ => false)
  else if x = .nan || imm = .nan then cmp == 1
  else
    let c := x.cmpVal imm
    if cmp = 0 then c == 0 else if cmp = 1 then c != 0 else if cmp = 2 then c == -1
    else if cmp = 3 then c != 1 else if cmp = 4 then c == 1 else c != -1

/-- The result of a COMPARE descriptor over its elements. -/
def State.compareRun (s : State) (d : Desc) : Nm Bool := do
  let md := s.mode d
  let xs ← s.elems d (Desc.home d) (Desc.opA d) (Desc.opA d) (Desc.word d 12).toNat
  let hit := fun x => cmpHit (Desc.f d 10 6 4) x (unpack32 md.legacy (Desc.word d 11))
  return if Desc.flag d 10 8 then xs.all hit else xs.any hit

/-- COMPARE on the state: the result waits for the next tick, job-wide over the device's reports (R176, R242). -/
def State.compareOp (s : State) (d : Desc) : State :=
  let r := (s.compareRun d).run fx0
  let p := Desc.f d 10 3 0
  let s1 := s.applyFx r.2 d.num
  { s1 with stp := { s1.stp with
      compares := s1.stp.compares.filter (fun c => c.1 != p) ++ [(p, Desc.flag d 10 9, r.1)] } }

/-- COMPARE (descriptor 0xA0). -/
def execCompare (d : Desc) (e : Env) (s : State) : Host.Outcome State Fault Refusal :=
  .next (s.runDesc 0xA0 d e (fun t => t.compareOp d))

/-- The modulus of the digests (R221, R253). -/
def digestP : Nat := 2 ^ 64 - 59

/-- Σ a_i × x^(i+1) mod p over a list, from a first power on. -/
def polySum (x pw : Nat) (as : List Nat) : Nat :=
  match as with
  | [] => 0
  | a :: r => (a * pw + polySum x (pw * x % digestP) r) % digestP

/-- x^k mod p, by squaring, with fuel for the bits of k. -/
def powMod (fuel x k : Nat) : Nat :=
  match fuel with
  | 0 => 1
  | f + 1 =>
    if k = 0 then 1
    else
      let h := powMod f (x * x % digestP) (k / 2)
      if k % 2 = 1 then h * x % digestP else h

/-- DIGEST_TENSOR on the state. -/
def State.digestTensorOp (s : State) (d : Desc) : State :=
  let n := (Desc.word d 10).toNat
  let core := Desc.home d
  let x := s.cur.head.base.toNat % digestP
  s.opWrite core (Desc.opD d)
    (leBytes 8 (polySum x x ((leWords n (s.opRead core (Desc.opA d) (4 * n))).map (·.toNat))))

/-- DIGEST_TENSOR (descriptor 0xB0). -/
def execDigestTensor (d : Desc) (e : Env) (s : State) : Host.Outcome State Fault Refusal :=
  .next (s.runDesc 0xB0 d e (fun t => t.digestTensorOp d))

/-! ### Diagonal and matrix products (R157 to R165) -/

/-- An operand of the digital arrays entering as T16 (R159). DESIGN CHOICE, log 131: an operand in a format that R159's table does not list (Q8,
W, L8, S1, and X4 in DIAG), which no rule refuses at load, is expanded to its values under R63 and rounded to T16. -/
def State.entry16 (s : State) (d : Desc) (o aux : Opnd) (n : Nat) : Nm (List FVal) := do
  let md := s.mode d
  let xs ← s.elems d (Desc.home d) o aux n
  if o.fmt = fT16 then return xs
  else xs.mapM (fun x => roundTo 8 md true x false)

/-- A T16 × T16 product in T32: exact, but an overflow or a flushed result where its exponent leaves the range (R40, R41, R43). -/
def product32 (md : FMode) (x y : FVal) : Nm FVal :=
  roundTo 24 md false (x.mul y) false

/-- The sum of the products of one tile without rounding, +0 for an exact zero (R158). -/
def tileSum (md : FMode) (xs ys : List FVal) : Nm FVal := do
  let ps ← (xs.zip ys).mapM (fun p => product32 md p.1 p.2)
  return (ps.foldl (fun a p => a.add p) exZero).val

/-- The tile sums added to the accumulator in order, each rounded under R39 (R158). -/
def tilesAdd (md : FMode) (tiles : List (List FVal × List FVal)) (acc : Word) : Nm Word :=
  match tiles with
  | [] => return acc
  | t :: r => do
    let x ← to32 md (← tileSum md t.1 t.2)
    let a ← add32 md acc x
    tilesAdd md r a

/-- One output element. -/
def dotProduct (md : FMode) (k : Nat) (acc : Word) (xs ys : List FVal) : Nm Word :=
  tilesAdd md ((chunk 128 (cdiv k 128) xs).zip (chunk 128 (cdiv k 128) ys)) acc

/-- The results of a DMP descriptor: contraction fastest in S and T, q fastest in Y (R158, R180). BCAST or SHARED changes no
bit (R160, R161). With ACC set Y is read as T32 whatever D's format (R158). An X4 T holds each streamed column in whole blocks of 64, so that no block straddles a column or a tile (R49, R165,
log 103). -/
def State.dmpRun (s : State) (d : Desc) : Nm (List Byte) := do
  let md := s.mode d
  let core := Desc.home d
  let k := (Desc.word d 10).toNat
  let p := Desc.f d 11 31 16
  let q := Desc.f d 11 15 0
  let oD := Desc.opD d
  let ss ← s.entry16 d (Desc.opA d) (Desc.opA d) (k * p)
  let kb := blockElems (Desc.opB d).fmt k 1
  let ts ← s.entry16 d (Desc.opB d) (Desc.opC d) (kb * q)
  let y0 ← if Desc.flag d 12 0 then s.words d core { oD with fmt := fT32 } (p * q) else pure (List.replicate (p * q) 0)
  let cols := (chunk kb q ts).map (fun c => c.take k)
  let pairs := (chunk k p ss).flatMap (fun a => cols.map (fun b => (a, b)))
  let ws ← (pairs.zip y0).mapM (fun x => dotProduct md k x.2 x.1.1 x.1.2)
  renderFloat md (s.rnd d) oD.fmt (ws.map (unpack32 md.legacy))

/-- DMP (descriptor 0x20). -/
def execDmp (d : Desc) (e : Env) (s : State) : Host.Outcome State Fault Refusal :=
  .next (s.runDesc 0x20 d e (fun t => t.writeFx d (Desc.home d) (Desc.opD d) ((t.dmpRun d).run fx0)))

/-- The results of a DIAG descriptor (R164): the products are T32 under R40, and c is added with one rounding. DESIGN CHOICE, log 104: c enters
in its own format, not rounded to T16. -/
def State.diagRun (s : State) (d : Desc) : Nm (List Byte) := do
  let md := s.mode d
  let core := Desc.home d
  let n := (Desc.word d 10).toNat
  let a ← s.entry16 d (Desc.opA d) (Desc.opA d) n
  let b ← s.entry16 d (Desc.opB d) (Desc.opB d) n
  let c ← if Desc.flag d 12 2 then s.elems d core (Desc.opC d) (Desc.opC d) n else pure []
  let ps ← (a.zip b).mapM (fun x => product32 md x.1 x.2)
  renderFloat md (s.rnd d) (Desc.opD d).fmt (if Desc.flag d 12 2 then (ps.zip c).map (fun x => x.1.add x.2) else ps)

/-- DIAG (descriptor 0x21). -/
def execDiag (d : Desc) (e : Env) (s : State) : Host.Outcome State Fault Refusal :=
  .next (s.runDesc 0x21 d e (fun t => t.writeFx d (Desc.home d) (Desc.opD d) ((t.diagRun d).run fx0)))

/-- NOP (descriptor 0x00) does nothing but complete. -/
def execNop (d : Desc) (e : Env) (s : State) : Host.Outcome State Fault Refusal :=
  .next (s.runDesc 0x00 d e (fun t => t))

end Sys2Proof.Machine
end

