-- ==== Sys2Proof/Machine/Convert.lean ====
section
/-! DEFINITION. CONVERT and QUANTISE: conversion between formats with scales, side vectors and observations, and the writing of
the next epoch's image with its outlier part (R56 to R63, R95 to R106, R211 to R214, R248, R452, R455). -/

namespace Sys2Proof.Machine

/-- Whether CONVERT performs a conversion of R63's matrix; to weight codes against a scale plane (R56, log 42). -/
def convOk (a d : Nat) : Bool :=
  if d = fT32 then a != fT32 && a != fX4T && a != fX4Z && decide (a ≤ fS1)
  else if d = fT32C then a == fT32 || a == fT16
  else if d = fT16 then a != fT16 && decide (a ≤ fS1)
  else if isQ8 d then a == fT32 || a == fT32C || a == fT16
  else if isW d then a == fT32 || a == fT32C || a == fT16
  else if d = fL8 ∨ d = fS1 then a == fT32 || a == fT16
  else false

/-- The format codes of R61's scale overflow raised once per tensor per step attempt (R59, R61, R66). -/
def State.scaleOvf (s : State) (d : Desc) (tensor : Nat) : State :=
  s.raiseOnce 0x4003 tensor 0 [wd d.num, wd tensor]

/-! ### CONVERT -/

/-- L8 groups of 1,024 elements from blocks of 32: mantissas, exponents and flags; missing blocks are zero bytes (R52, log 19). -/
def packL8 (n : Nat) (bs : List L8Block) : List Byte :=
  (chunk 32 n bs).flatMap (fun g =>
    let pad := 32 - g.length
    g.flatMap (fun b => b.mant ++ List.replicate (32 - b.mant.length) 0) ++ List.replicate (32 * pad) 0
      ++ g.map (fun b => b.exp) ++ List.replicate pad 0 ++ g.map (fun b => b.flag) ++ List.replicate pad 0)

/-- S1 groups of 512 elements from blocks of 64 (R53, log 19). -/
def packS1 (n : Nat) (bs : List S1Block) : List Byte :=
  (chunk 8 n bs).flatMap (fun g =>
    let pad := 8 - g.length
    g.flatMap (fun b => packCodes 1 8 (b.signs.map b2n)) ++ List.replicate (8 * pad) 0
      ++ halfBytes (g.map (fun b => b.scale)) ++ List.replicate (2 * pad) 0)

/-- What a conversion to a narrow format leaves: D's bytes, B's side vectors, the observation, and whether it is a scale
overflow. -/
structure NarrowOut where
  bytes : List Byte
  side : List Byte
  obs : FVal
  ovf : Bool
deriving DecidableEq, Repr

/-- The elements of a Q8 conversion as its flagged channels leave them: each with its index and the channel's place in the list, if
it is one (R97). -/
def tagChans (dim : Nat) (chans : List Nat) (xs : List FVal) : List (Nat × FVal × Option Nat) :=
  xs.zipIdx.map (fun x => (x.2, x.1, chans.idxOf? (x.2 % dim)))

/-- The side vector of one vector of elements: 32 T16 values in channel-list order, unused ones +0 (R96, R97). -/
def sideVec (md : FMode) (rn : Rnd) (vec : List (Nat × FVal × Option Nat)) : Nm (List Half) :=
  (List.range 32).mapM (fun k => match vec.find? (fun x => x.2.2 == some k) with
    | some x => to16 md rn x.1 x.2.1
    | none => pure 0)

/-- A conversion to Q8 (R57, R61, R97, R212, R213, R452). -/
def toQ8 (md : FMode) (rn : Rnd) (f dim : Nat) (scale : Half) (chans : List Nat) (xs : List FVal) : Nm NarrowOut := do
  let tagged := tagChans dim chans xs
  let live := tagged.filter (fun x => x.2.2.isNone)
  let q ← quantQ8All f md.legacy rn scale (live.map (fun x => (x.1, x.2.1)))
  let placed := tagged.foldl (fun (acc : List Byte × List Byte) x => match x.2.2 with
    | some _ => (0 :: acc.1, acc.2)
    | none => (acc.2.headD 0 :: acc.1, acc.2.drop 1)) ([], q.1)
  let sides ← if chans.isEmpty then pure []
    else (chunk dim (xs.length / dim) tagged).mapM (sideVec md rn)
  return { bytes := placed.1.reverse, side := halfBytes sides.flatten, obs := maxMag (live.map (fun x => x.2.1)), ovf := q.2 }

/-- A conversion to L8 at a fixed or free exponent (R58). -/
def toL8 (rn : Rnd) (fixed : Option Int) (xs : List FVal) : Nm NarrowOut := do
  let bs ← (chunk 32 (cdiv xs.length 32) xs).zipIdx.mapM (fun b => quantL8 rn fixed (32 * b.2) b.1)
  return { bytes := packL8 (cdiv bs.length 32) bs, side := [], obs := .zero false, ovf := false }

/-- A conversion to S1 (R59). -/
def toS1 (md : FMode) (xs : List FVal) : Nm NarrowOut := do
  let bs ← (chunk 64 (cdiv xs.length 64) xs).mapM (fun b =>
    quantS1 md (b ++ List.replicate (64 - b.length) (.zero false)))
  return { bytes := packS1 (cdiv bs.length 8) bs, side := [], obs := .zero false, ovf := bs.any (fun b => b.sovf) }

/-- A conversion to weight codes against a scale plane, one T16 per block of 64: the codes, and the plane as its blocks leave it, +0 for a
zero block and the canonical NaN for an invalid scale. No table takes the outlier candidates (R56, R60, R61, R63, R452, log 42). -/
def toW (f : Nat) (legacy : Bool) (rn : Rnd) (scales : List Half) (xs : List FVal) : Nm NarrowOut := do
  let bs ← ((chunk 64 (cdiv xs.length 64) xs).zip scales).zipIdx.mapM (fun b =>
    quantBlock f legacy rn b.1.2 ((b.1.1.zipIdx (64 * b.2)).map (fun x => (x.2, x.1, false))))
  return { bytes := packCodes (codeBits f) (fmtBytes f xs.length) (bs.flatMap (fun (b : WBlock) => b.codes)),
           side := halfBytes (bs.map (fun (b : WBlock) => b.scale)), obs := .zero false,
           ovf := bs.any (fun (b : WBlock) => b.sovf) }

/-- Elements of one vector of a Q8 tensor: DIM0 of the tensor, else all of them (R96, R248). -/
def State.vecDim (s : State) (tensor n : Nat) : Nat :=
  match s.tensor tensor with
  | some t => if t.dim0 = 0 then max n 1 else t.dim0
  | none => max n 1

/-- The flagged channels of a Q8 input with their T16 values from the side vectors in place of their elements (R182). -/
def unflag (legacy : Bool) (dim : Nat) (chans : List Nat) (side : List Half) (xs : List FVal) : List FVal :=
  xs.zipIdx.map (fun x => match chans.idxOf? (x.2 % dim) with
    | some k => unpack16 legacy (side.getD (32 * (x.2 / dim) + k) 0)
    | none => x.1)

/-- The elements of a CONVERT's A. Where A is Q8 and NCHAN is not 0, C names the flagged channels and B holds their side vectors, as they do
where the record was made (R182, R248, log 105). -/
def State.convertIn (s : State) (d : Desc) : Nm (List FVal) := do
  let core := Desc.home d
  let n := (Desc.word d 10).toNat
  let oA := Desc.opA d
  let nch := Desc.f d 12 5 0
  let xs ← s.elems d core oA (Desc.opB d) n
  if isQ8 oA.fmt && nch != 0 then
    let dim := s.vecDim oA.tensor n
    return unflag s.cur.head.legacy dim (s.channels core (Desc.opC d) nch)
      (halves (32 * (n / dim)) (s.opRead core (Desc.opB d) (64 * (n / dim)))) xs
  else return xs

/-- CONVERT's arithmetic. DESIGN CHOICE, log 35: with SR set, every conversion to T16 but that of the weight codes, which R63 calls exact, is
rounded under R55, those of T32C, FP16, Q8 and L8 too, whose entries in R63 name R54. -/
def State.convertRun (s : State) (d : Desc) : Nm (NarrowOut × Word) := do
  let md := s.mode d
  let core := Desc.home d
  let n := (Desc.word d 10).toNat
  let oD := Desc.opD d
  let group := (Desc.word d 13).toNat
  let xs ← s.convertIn d
  if isQ8 oD.fmt then do
    let nch := Desc.f d 12 5 0
    let chans := s.channels core (Desc.opC d) nch
    let dim := s.vecDim oD.tensor n
    let sc ← s.dataScale md oD.tensor (some group)
    let r ← toQ8 md (s.rnd d) oD.fmt dim sc chans xs
    let e ← s.estNext md group (s.initEst oD.tensor) (pack32 r.obs)
    return (r, e)
  else if isW oD.fmt then do
    let nb := cdiv n 64
    let r ← toW oD.fmt md.legacy (s.rnd d) (halves nb (s.opRead core (Desc.opB d) (2 * nb))) xs
    return (r, 0)
  else if oD.fmt = fL8 then do
    let r ← toL8 (s.rnd d) (if Desc.flag d 11 0 then some (BitVec.ofNat 8 (Desc.f d 11 15 8)).toInt else none) xs
    return (r, 0)
  else if oD.fmt = fS1 then do
    let r ← toS1 md xs
    return (r, 0)
  else do
    let b ← renderFloat md (if isW (Desc.opA d).fmt then .nearest else s.rnd d) oD.fmt xs
    return ({ bytes := b, side := [], obs := .zero false, ovf := false }, 0)

/-- A Q8 destination's observation, and the correction and replay of a scale overflow in training (R61, R212, R214). -/
def State.convertEst (s : State) (d : Desc) (r : NarrowOut) (e : Word) : State :=
  let group := (Desc.word d 13).toNat
  let tensor := (Desc.opD d).tensor
  let s1 := if (s.tensor tensor).isSome then s.observe group e else s
  if r.ovf && s.train && (s.tensor tensor).isSome then (s1.correct (s.mode d) group (s.initEst tensor) (pack32 r.obs)).cause 2
  else s1

/-- CONVERT on the state; a pair of formats that R63 does not list is refused at load and does nothing. -/
def State.convertOp (s : State) (d : Desc) : State :=
  let oD := Desc.opD d
  if convOk (Desc.opA d).fmt oD.fmt then
    let core := Desc.home d
    let r := (s.convertRun d).run fx0
    let s1 := s.writeFx d core oD (r.1.1.bytes, r.2)
    let s2 := if r.1.1.side.isEmpty then s1 else s1.opWrite core (Desc.opB d) r.1.1.side
    let s3 := if r.1.1.ovf then s2.scaleOvf d oD.tensor else s2
    if isQ8 oD.fmt then s3.convertEst d r.1.1 r.1.2 else s3
  else s

/-- CONVERT (descriptor 0x40). -/
def execConvert (d : Desc) (e : Env) (s : State) : Host.Outcome State Fault Refusal :=
  .next (s.runDesc 0x40 d e (fun t => t.convertOp d))

/-! ### QUANTISE -/

/-- What a QUANTISE works with (R248): its geometry, the groups of its tensor (R211), CLIPK, flagged channels and modes. -/
structure QCfg where
  fmt : Nat
  k : Nat
  cols : Nat
  gsize : Nat
  base : Nat
  per : Nat
  headroom : Nat
  clipk : Word
  chans : List Nat
  md : FMode
  rn : Rnd
  rebuild : Bool
deriving DecidableEq, Repr

/-- Fields of the QUANTISE descriptor. -/
def qK (d : Desc) : Nat := (Desc.word d 10).toNat
def qCols (d : Desc) : Nat := Desc.f d 11 31 16
def qPolicy (d : Desc) : Nat := Desc.f d 11 1 0
def qNchan (d : Desc) : Nat := Desc.f d 12 21 16
def qArray0 (d : Desc) : Nat := Desc.f d 12 10 0
def qNarr (d : Desc) : Nat := Desc.f d 13 11 0
def qOutl (d : Desc) : Nat := (Desc.word d 14).toNat

/-- The weight tensor of a QUANTISE: the masters' tensor A, else D's (R248, log 20). -/
def State.qTensor (s : State) (d : Desc) : Nat :=
  if (s.tensor (Desc.opA d).tensor).isSome then (Desc.opA d).tensor else (Desc.opD d).tensor

/-- A QUANTISE's configuration. -/
def State.qCfg (s : State) (d : Desc) : QCfg :=
  let t := s.tensor (s.qTensor d)
  let k := qK d
  let gsize := if (t.map (·.estCount)).getD 0 = cdiv k 64 * qCols d ∧ cdiv k 64 ≠ cdiv k 128 then 64 else 128
  { fmt := (Desc.opD d).fmt, k := k, cols := qCols d, gsize := gsize, base := (t.map (·.estBase)).getD 0, per := cdiv k gsize,
    headroom := (t.map (·.headroom)).getD 2, clipk := ((s.cur.layers[Desc.layer d]?).map (·.clipk)).getD 0x3F400000,
    chans := s.channels (Desc.home d) (Desc.opC d) (qNchan d), md := s.mode d,
    rn := s.rnd d, rebuild := false }

/-- n masters from byte offset off of the MASTER_HI region, with their comp plane at half the offset, read as T32 (R47, R455). -/
def State.masters (s : State) (md : FMode) (attempt : Bool) (r off n : Nat) : Nm (List Word) := do
  let hi := leWords n (s.regRead attempt r off (4 * n))
  let lo := match s.regionOfKind 4 with
    | some c => halves n (s.regRead attempt c (off / 2) (2 * n))
    | none => List.replicate n 0
  (hi.zip lo).mapM (fun p => read32c md p.1 p.2)

/-- The observation of a weight group: CLIPK × rms over the masters taken, +0 for none (R212). -/
def weightObs (md : FMode) (clipk : Word) (xs : List Word) : Nm Word := do
  if xs.isEmpty then return 0
  else do
    let q ← xs.mapM (fun x => mul32 md x x)
    let t ← sum32 md q
    let m ← div32 md t (nat32 xs.length)
    let r ← sqrt32 md m
    mul32 md clipk r

/-- One column of an array as QUANTISE leaves it: 1,024 codes, 16 scales, candidates as (row, residual), the observation of each
group, and the groups that overflow. -/
structure QCol where
  codes : List Nat
  scales : List Half
  cands : List (Nat × Half)
  obs : List (Nat × Word)
  ovf : List (Nat × Word)
deriving DecidableEq, Repr

/-- Rows of a group that hold no master: zero blocks (R60). -/
def blankGroup (q : QCfg) : QCol :=
  { codes := List.replicate q.gsize (zeroCode q.fmt), scales := List.replicate (q.gsize / 64) 0, cands := [], obs := [], ovf := [] }

/-- One scale group of a column: its masters from row g0 of the input on, in column j; `row0` is the group's first row in the array
(R56, R61, R95, R97, R211 to R213). -/
def State.quantGroup (s : State) (q : QCfg) (j g0 row0 : Nat) (xs : List Word) : Nm (State × QCol) := do
  if xs.isEmpty then return (s, blankGroup q)
  else do
    let gi := q.base + j * q.per + g0 / q.gsize
    let flagged := fun i => q.chans.contains (g0 + i)
    let a ← weightObs q.md q.clipk ((xs.zipIdx.filter (fun x => !flagged x.2)).map (·.1))
    let e ← if q.rebuild then pure (s.estRec gi).1 else s.estNext q.md gi 0 a
    let sc ← scaleFrom q.md e q.headroom q.fmt
    let padded := xs ++ List.replicate (q.gsize - xs.length) 0
    let bs ← (chunk 64 (q.gsize / 64) (padded.zipIdx.map (fun x =>
      (j * q.k + g0 + x.2, unpack32 q.md.legacy x.1, flagged x.2)))).mapM (fun b => quantBlock q.fmt q.md.legacy q.rn sc b)
    let cands := (bs.flatMap (fun b => b.cands)).zipIdx.filterMap (fun c =>
      if flagged c.2 then none else c.1.map (fun r => (row0 + c.2, r)))
    return (if q.rebuild then s else s.observe gi e,
      { codes := bs.flatMap (fun b => b.codes), scales := bs.map (fun b => b.scale), cands := cands, obs := [(gi, a)],
        ovf := if bs.any (fun b => b.sovf) then [(gi, a)] else [] })

/-- Two runs of a column joined. -/
def QCol.join (x y : QCol) : QCol :=
  { codes := x.codes ++ y.codes, scales := x.scales ++ y.scales, cands := x.cands ++ y.cands, obs := x.obs ++ y.obs,
    ovf := x.ovf ++ y.ovf }

/-- The groups of a column, from row r0 of the input on. -/
def State.quantGroups (s : State) (q : QCfg) (j r0 row0 : Nat) (gs : List (List Word)) : Nm (State × QCol) :=
  match gs with
  | [] => return (s, { codes := [], scales := [], cands := [], obs := [], ovf := [] })
  | g :: rest => do
    let x ← s.quantGroup q j (r0 + row0) row0 g
    let y ← x.1.quantGroups q j r0 (row0 + q.gsize) rest
    return (y.1, QCol.join x.2 y.2)

/-- The columns of an array, from column j on. -/
def State.quantCols (s : State) (q : QCfg) (j r0 : Nat) (cols : List (List Word)) : Nm (State × List QCol) :=
  match cols with
  | [] => return (s, [])
  | c :: rest => do
    let x ← s.quantGroups q j r0 0 (chunk q.gsize (1024 / q.gsize) ((c.drop r0).take 1024))
    let y ← x.1.quantCols q (j + 1) r0 rest
    return (y.1, x.2 :: y.2)

/-- A candidate: row and column in the array, and residual. -/
structure Cand where
  row : Nat
  col : Nat
  resid : Half
deriving DecidableEq, Repr

/-- The order of R103: larger residual first, then lower row, then lower column. -/
def Cand.before (x y : Cand) : Bool :=
  let a := (x.resid &&& 0x7FFF).toNat
  let b := (y.resid &&& 0x7FFF).toNat
  decide (b < a) || (a == b && (decide (x.row < y.row) || (x.row == y.row && decide (x.col ≤ y.col))))

/-- The order of a segment: row group, row, column (R98). -/
def Cand.inOrder (x y : Cand) : Bool :=
  decide (x.row < y.row) || (x.row == y.row && decide (x.col ≤ y.col))

/-- An entry of R98. -/
def Cand.ent (c : Cand) : OutEnt :=
  { group := c.row / 128, row := c.row % 128, col := c.col, resid := c.resid }

/-- The word of an entry (R98). -/
def OutEnt.word (e : OutEnt) : Word :=
  BitVec.ofNat 32 (e.resid.toNat * 65536 + e.col * 128 + e.row)

/-- The bytes of an array's entry of an outlier part (R98, R99, R248). DESIGN CHOICE, log 106: the first entry of a row group counts from the
segment's start, its channel rows included. -/
def partBytes (chans : List (List Half)) (ents : List OutEnt) : List Byte :=
  let n := chans.length
  let count := fun g => (ents.filter (fun e => e.group == g)).length
  let first := fun g => 256 * n + ((List.range g).map count).foldl (· + ·) 0
  let raw := wordBytes ([wd n] ++ (List.range 8).map (fun g => wd (first g)) ++ (List.range 8).map (fun g => wd (count g))
    ++ List.replicate 15 0) ++ (chans.map halfBytes).flatten ++ wordBytes (ents.map OutEnt.word)
  raw ++ List.replicate (cdiv raw.length 64 * 64 - raw.length) 0

/-- Entries a core's spill list holds at most: its 1 MiB of the SPILL region; none without one (R104, R231). -/
def State.spillCap (s : State) (core : Nat) : Nat :=
  match s.regionOfKind 7 with
  | none => 0
  | some r => min 131072 ((s.regionBytes r - core * 1048576) / 8)

/-- Entries written to a core's spill list (R104). -/
def State.spillWrite (s : State) (array : Nat) (es : List OutEnt) : State :=
  let core := array / 16
  match s.regionOfKind 7 with
  | none => s
  | some r =>
    let used := Tab.get s.ana.spillFill core 0
    let ws := es.flatMap (fun e => [OutEnt.word e, BitVec.ofNat 32 (core * 128 + array % 16 * 8 + e.group)])
    let s1 := (s.regWrite r (core * 1048576 + 8 * used) (wordBytes ws)).account r (core * 1048576 + 8 * used) (4 * ws.length) true
    { s1 with ana := { s1.ana with spillFill := Tab.put s1.ana.spillFill core (used + es.length) } }

/-- The policy in force (R102): 1 SPILL, 2 CLIP. -/
def State.outPolicy (s : State) (d : Desc) : Nat :=
  if qPolicy d = 0 then (if s.train then 1 else 2) else qPolicy d

/-- What is kept beside an outlier part (log 17). -/
def State.notePart (s : State) (p : PartInfo) : State :=
  { s with ana := { s.ana with
      parts := p :: s.ana.parts.filter (fun q => !(q.region == p.region && q.off == p.off)) } }

/-- Every given group corrected (R214). -/
def State.corrects (s : State) (md : FMode) (l : List (Nat × Word)) : State :=
  match l with
  | [] => s
  | g :: r => (s.correct md g.1 0 g.2).corrects md r

/-- What an overflow of an array's table does: spill or drop, counters, OUTLIER_OVF, and in training the correction of every weight
group of an array that dropped entries (R102 to R106, R214). DESIGN CHOICE, log 98: where the spill list has room for a part of them, the
largest residuals spill first, in R103's order, and stand in the list in row order. -/
def State.outlierOvf (s : State) (d : Desc) (array : Nat) (excess : List Cand) (obs : List (Nat × Word)) :
    State × List OutEnt :=
  if excess.isEmpty then (s, [])
  else
    let pol := s.outPolicy d
    let room := if pol = 1 then s.spillCap (array / 16) - Tab.get s.ana.spillFill (array / 16) 0 else 0
    let spilled := ((excess.take room).mergeSort Cand.inOrder).map Cand.ent
    let dropped := excess.length - spilled.length
    let s1 := if spilled.isEmpty then s else s.spillWrite array spilled
    let s2 := (s1.count cOutlSpill spilled.length).count cOutlDrop dropped
    let s3 := s2.raiseOnce 0x3002 array (uArray * 2 ^ 22 + array)
      [wd d.num, wd array, wd pol, wd spilled.length, wd dropped, wd (b2n (pol == 1 && dropped != 0))]
    (if dropped ≠ 0 && s.train && s.stp.active then (s3.corrects (s.mode d) obs).cause 3 else s3, spilled)

/-- Array n of a QUANTISE's image: codes, scales and outlier part written; the part starts at byte `part` of D's region, and the next
one where this ends (R98, R99, R103, R248). DESIGN CHOICE, log 35: the T16 channel rows are rounded to nearest (R54) with SR set too, as R97
stores the masters themselves; every other conversion to T16 follows SR. -/
def State.quantArray (s : State) (d : Desc) (q : QCfg) (cols : List (List Word)) (n part : Nat) :
    Nm (State × Nat × Bool) := do
  let core := Desc.home d
  let nrc := max 1 (cdiv q.k 1024)
  let c0 := n / nrc * 512
  let r0 := n % nrc * 1024
  let mine := (cols.drop c0).take 512
  let x ← s.quantCols q c0 r0 (mine ++ List.replicate (512 - mine.length) [])
  let array := qArray0 d + n
  let chans := q.chans.filter (fun c => decide (r0 ≤ c) && decide (c < r0 + 1024))
  let rows ← chans.mapM (fun c => (List.range 512).mapM (fun j => match (cols[c0 + j]?).bind (fun col => col[c]?) with
    | some w => cvt16 q.md .nearest 0 w
    | none => pure 0))
  let cands := (x.2.zipIdx.flatMap (fun c => c.1.cands.map (fun r => ({ row := r.1, col := c.2, resid := r.2 } : Cand)))).mergeSort
    Cand.before
  let room := s.cur.budgets.getD array 8192 - 256 * chans.length
  let kept := ((cands.take room).mergeSort Cand.inOrder).map Cand.ent
  let o := x.1.outlierOvf d array (cands.drop room) (x.2.flatMap (fun c => c.obs))
  let bytes := partBytes rows kept
  let s1 := (o.1.opWrite core ((Desc.opD d).at (n * imageBytes q.fmt))
    (packCodes (codeBits q.fmt) (imageBytes q.fmt) (x.2.flatMap (fun c => c.codes)))).opWrite core
    ((Desc.opB d).at (n * planeBytes)) (halfBytes (x.2.flatMap (fun c => c.scales)))
  let s2 := ((s1.opWrite core { Desc.opD d with addr := part } bytes).accountExts [extRaw { Desc.opD d with addr := part } bytes.length true]).notePart
    { region := (Desc.opD d).region, off := part, chans := chans, spill := o.2 }
  let ov := x.2.flatMap (fun c => c.ovf)
  let s3 := if s.train && s.stp.active && !ov.isEmpty then (s2.corrects q.md ov).cause 2 else s2
  return (s3, part + bytes.length, !ov.isEmpty)

/-- The arrays of a QUANTISE in order. -/
def State.quantArrays (s : State) (d : Desc) (q : QCfg) (cols : List (List Word)) (ns : List Nat) (part : Nat) (ov : Bool) :
    Nm (State × Bool) :=
  match ns with
  | [] => return (s, ov)
  | n :: rest => do
    let x ← s.quantArray d q cols n part
    x.1.quantArrays d q cols rest x.2.1 (ov || x.2.2)

/-- QUANTISE's arithmetic and writes. -/
def State.quantiseRun (s : State) (d : Desc) (rebuild : Bool) : Nm (State × Bool) := do
  let q := { s.qCfg d with rebuild := rebuild }
  let ws ← s.masters q.md true (Desc.opA d).region (Desc.opA d).addr (q.k * q.cols)
  let narr := min (qNarr d) (cdiv q.k 1024 * cdiv q.cols 512)
  s.quantArrays d q (chunk q.k q.cols ws) (List.range narr) (qOutl d) false

/-- The image slot a QUANTISE writes takes the epoch to come (R198). -/
def State.noteSlot (s : State) (o : Opnd) : State :=
  if o.mem && s.regionKind o.region == 2 then
    let i := ((s.region o.region).map (·.index)).getD 0
    { s with mem := { s.mem with slotEpoch := Tab.put s.mem.slotEpoch i (s.upd.epoch + 1) } }
  else s

/-- QUANTISE on the state (R56, R61, R97 to R106, R212 to R214); a D that is not a weight format is refused at load and does
nothing. -/
def State.quantiseOp (s : State) (d : Desc) : State :=
  if isW (Desc.opD d).fmt then
    let r := (s.quantiseRun d false).run fx0
    let s1 := r.1.1.applyFx r.2 d.num
    let s2 := if r.1.2 then s1.scaleOvf d (s.qTensor d) else s1
    s2.noteSlot (Desc.opD d)
  else s

/-- QUANTISE (descriptor 0x41). -/
def execQuantise (d : Desc) (e : Env) (s : State) : Host.Outcome State Fault Refusal :=
  .next (s.runDesc 0x41 d e (fun t => t.quantiseOp d))

end Sys2Proof.Machine
end

