-- ==== Sys2Proof/Machine/Background.lean ====
section
/-! DEFINITION. The background work of the arrays (R108, R109, R112 to R114, R129 to R139) and the temperature samples (R117, R402,
R404): level scrub, spare rows, re-placement, checksum windows and tasting. -/

namespace Sys2Proof.Machine

/-! ### Publication and due cores -/

/-- P in ms (R129). -/
def scrubMs (band : Nat) : Nat :=
  if band = 0 then 8 else if band = 1 then 16 else if band = 2 then 32 else if band = 3 then 64 else if band = 4 then 128 else 256

/-- A core's scrub share in 0.1 %, rounded to the nearest (R133): 0 before the first pass (R150). -/
def CoreS.overhead (c : CoreS) : Nat :=
  if c.scrubbed then (26 * c.m.foldl (· + ·) 0 + 25 * scrubMs c.band) / (50 * scrubMs c.band) else 0

/-- The entry of an array in the self-characterisation table, words 0 to 3 (R119). -/
def State.sctEntry (s : State) (a : Nat) : List Word :=
  let x := s.array a
  [BitVec.ofNat 32 (x.fig.detBound.toNat * 65536 + x.fig.noise.toNat),
   BitVec.ofNat 32 (x.fig.gainErr.toNat * 65536 + x.fig.offset.toNat),
   BitVec.ofNat 32 (sByte x.tempCal * 2 ^ 24 + x.sparesUsed * 2 ^ 16 + (s.core (a / 16)).overhead * 256 + x.status),
   x.calEpoch]

/-- A publication: SCT_EPOCH grows by 1 and SELFCHAR_PUB is raised (R118). -/
def State.newSct (s : State) (t : Tab (List Word)) : State :=
  ({ s with ana := { s.ana with sct := t, sctEpoch := s.ana.sctEpoch + 1 } }).raise 0x3007 []

/-- The self-characterisation table published (R118). -/
def State.publish (s : State) : State :=
  s.newSct ((List.range 2048).map (fun a => (a, s.sctEntry a)))

/-- The table published for the arrays of one core (R118). -/
def State.publishCore (s : State) (core : Nat) : State :=
  s.newSct ((List.range 16).foldl (fun t i => Tab.put t (16 * core + i) (s.sctEntry (16 * core + i))) s.ana.sct)

/-- A core due for calibration; `urgent` ones come before those due by temperature or command (R142, R147). -/
def State.makeDue (s : State) (core : Nat) (urgent : Bool) : State :=
  if s.isAbsent core then s
  else { s with cal := { s.cal with due := addOnce s.cal.due core,
                                    urgent := if urgent then addOnce s.cal.urgent core else s.cal.urgent } }

/-! ### Capacity that is lost (R24, R139) -/

/-- The device reports itself degraded; a running recipe stops at the next step boundary, and from that boundary on the domain treats the
device as lost, whether or not a recipe ran (R24, R350). -/
def State.degrade (s : State) : State :=
  { s with flt := { s.flt with degraded := true, lostNext := true },
           rcp := { s.rcp with state := if s.rcp.state = .running then .stopping else s.rcp.state } }

/-- Whether a descriptor enables an array (R245, R253). -/
def enables (d : Desc) (a : Nat) : Bool :=
  (Desc.opcode d == 0x10 && Desc.core d == a / 16 && ampBank d == a / 4 % 4 && (ampEnable d / 2 ^ (a % 4)) % 2 == 1)
    || (Desc.opcode d == 0x90 && awArray d == a)

/-- Whether array b can take the block of array a: in service, taking no other's place, and enabled by no descriptor of a loaded recipe
(R139). -/
def State.canTake (s : State) (a b : Nat) : Bool :=
  b != a && decide ((s.array b).status < 2) && s.ana.arrays.all (fun e => e.2.moved != some b)
    && s.rcp.slots.all (fun r => r.2.descs.all (fun d => !enables d b))

/-- An array of the same bank that a re-placement can take and that no other array waits for (R139). -/
def State.freeArray (s : State) (a : Nat) : Option Nat :=
  (bankArrays (a / 16) (a / 4 % 4)).find? (fun b => s.canTake a b && s.ana.arrays.all (fun e => e.1 == a || e.2.plan != some (1, b)))

/-- Whether a logical core waits for a spare, or is to: it moves, or one of its arrays is to be re-placed under choice 2. -/
def State.wantsSpare (s : State) (core : Nat) : Bool :=
  s.flt.moving.contains core || s.ana.arrays.any (fun e => e.1 / 16 == core && (e.2.plan.map (·.1)) == some 2)

/-- Whether a spare core of its die is left for a core, beside those that other cores wait for. -/
def State.spareFor (s : State) (core : Nat) : Bool :=
  decide (((List.range 64).filter (fun i => 64 * (core / 64) + i != core && s.wantsSpare (64 * (core / 64) + i))).length
    < (s.sparesLeft (core / 64)).length)

/-- The first choice of R139 that is available for an array, and the array that choice 1 takes: 1 an array of its bank, 2 a spare core,
3 none. -/
def State.choiceFor (s : State) (a : Nat) : Nat × Nat :=
  match s.freeArray a with
  | some b => (1, b)
  | none => (if s.spareFor (a / 16) then 2 else 3, 0)

/-- ARRAY_SHORT: the array, the choice, and the capacity lost in arrays and codes; a move to a spare core loses none. The choice is kept for
the re-placement, and what it takes is left to no other array (R139). -/
def State.arrayShort (s : State) (a : Nat) : State :=
  let c := s.choiceFor a
  let n := if c.1 = 2 then 0 else 1
  let s1 := s.raiseU 0x3008 (uArray * 2 ^ 22 + a) [wd a, wd c.1, wd n, wd (n * 524288)]
  s1.setArray a { s1.array a with status := 2, refNext := true, plan := some c }

/-! ### Rows that fail (R136 to R139, R363) -/

/-- The ROW unit of a physical row of an array (R360). -/
def rowUnit (a row : Nat) : Nat := a * 1040 + row

/-- The lowest spare of a row group that is neither in use nor bad (R69, R136). -/
def ArrayS.freeSpare (x : ArrayS) (g : Nat) : Option Nat :=
  [2 * g, 2 * g + 1].find? (fun n => match Tab.find x.nextSpares n with
    | none => true
    | some e => !e.inUse && !e.bad)

/-- A spare's entry in a remap block: the data row in [9:0], IN_USE in [14], BAD in [15] (R145). -/
def Spare.entry (e : Spare) : Nat :=
  e.row % 1024 + b2n e.inUse * 2 ^ 14 + b2n e.bad * 2 ^ 15

/-- A copy of a remap block: sequence number, the entries of 16 arrays × 16 spares, check word (R145). -/
def State.remapBytes (s : State) (core seq : Nat) : List Byte :=
  let body := leBytes 4 seq ++ (List.range 256).flatMap (fun i =>
    leBytes 2 (((Tab.find (s.array (16 * core + i / 16)).nextSpares (i % 16)).map Spare.entry).getD 0))
  body ++ leBytes 4 (crc32 body).toNat

/-- Bytes of a remap copy without its check word, and of the sequence number (R145). -/
def remapBody : Nat := 516

/-- A copy's sequence number; none when its check word fails (R145, R146). -/
def remapSeq (bs : List Byte) : Option Nat :=
  if bs.length = remapBody + 4 ∧ leNat (bs.drop remapBody) = (crc32 (bs.take remapBody)).toNat then some (leNat (bs.take 4)) else none

/-- A core's remap copies A and B as last written: of a core never remapped, none is there. -/
def State.remapCopies (s : State) (core : Nat) : List Byte × List Byte :=
  Tab.get s.cal.remap core ([], [])

/-- A core's remap block written: the copy with the older sequence number takes the next one; one that is not valid is the older
(R145). -/
def State.writeRemap (s : State) (core : Nat) : State :=
  let c := s.remapCopies core
  let a := (remapSeq c.1).getD 0
  let b := (remapSeq c.2).getD 0
  let bs := s.remapBytes core ((max a b + 1) % 2 ^ 32)
  { s with cal := { s.cal with remap := Tab.put s.cal.remap core (if b < a then (c.1, bs) else (bs, c.2)) } }

/-- A change of a spare that takes effect at the next tick, with the status it leaves (R120, R136); the remap block is written
before steering switches (R145). -/
def State.setSpare (s : State) (a n : Nat) (e : Spare) : State :=
  let x := s.array a
  (s.setArray a (ArrayS.regrade { x with spareNext := Tab.put x.spareNext n e })).writeRemap (a / 16)

/-- The words of ROW_REMAP and ROW_RETIRE (R453): the row, the spare marked bad, the spare that serves it, and the wrong level with
the array's epoch. -/
def State.rowWords (s : State) (a row bad spare : Nat) (wrong : Bool) : List Word :=
  [wd (rowUnit a row), wd (bad * 256 + spare), wd (b2n wrong), wd (if wrong then (s.array a).epoch else 0)]

/-- A data row takes a spare, which is written from the row's source (R136). -/
def State.takeSpare (s : State) (a row n : Nat) : State :=
  (s.setSpare a n { row := row, inUse := true, bad := false }).rewriteRow a (dataRows + n)

/-- A row that fails the scrub or a directed test: `phys` is its physical row. A data row is remapped, a serving spare retired, a free
spare marked bad, and with no spare left the array is SHORT. Each failure is a directed-test failure of the ROW (R136, R137, R139,
R363, R364). -/
def State.rowFails (s : State) (a phys : Nat) (wrong : Bool) : State :=
  let x := s.array a
  if phys < dataRows then
    match x.freeSpare (phys / 128) with
    | some n =>
      ((((s.takeSpare a phys n).raiseU 0x3003 (uRow * 2 ^ 22 + rowUnit a phys) (s.rowWords a phys 0xFF n wrong)).count cRowRemap
        1).chargeErr uRow (rowUnit a phys) 0x3003 true)
    | none => (s.arrayShort a).chargeErr uRow (rowUnit a phys) 0x3008 true
  else
    let n := phys - dataRows
    let e := Tab.get x.nextSpares n { row := 0, inUse := false, bad := false }
    if e.bad then s
    else
      let s1 := (s.setSpare a n { e with inUse := false, bad := true }).count cRowRetire 1
      if e.inUse then
        match (s1.array a).freeSpare (n / 2) with
        | some m =>
          ((s1.takeSpare a e.row m).raiseU 0x3004 (uRow * 2 ^ 22 + rowUnit a e.row) (s.rowWords a e.row n m wrong)).chargeErr uRow
            (rowUnit a phys) 0x3004 true
        | none => (s1.arrayShort a).chargeErr uRow (rowUnit a phys) 0x3008 true
      else (s1.raiseU 0x3009 (uRow * 2 ^ 22 + rowUnit a phys) []).chargeErr uRow (rowUnit a phys) 0x3009 true

/-! ### When background work may run (R23, R28, R134, R135, R147) -/

/-- The descriptors of the beat in progress. -/
def State.beatDescs (s : State) : List Desc :=
  if s.stp.active && s.stp.begun && !s.stp.halted then
    s.cur.descs.filter (fun d => ((s.slotOf d).map (·.beat)).getD 0 == s.stp.beat)
  else []

/-- Whether the device is in its background gap (R28). -/
def State.inGap (s : State) : Bool :=
  !s.lnk.windowOpen

/-- Whether the converters of a core may serve background work: the rails are up, the level is not a deep idle one, and no bank of the
core fires (R23, R135, R400). -/
def State.convertersFree (s : State) (core : Nat) : Bool :=
  s.pwr.pwrgood && decide (s.pwr.idle < 4) && !s.firing core

/-- Whether the recipe leaves a core's arrays idle in the beat in progress (R28). -/
def State.arraysIdle (s : State) (core : Nat) : Bool :=
  s.beatDescs.all (fun d => !(Desc.opcode d == 0x10 && Desc.core d % 128 == core) && !(Desc.opcode d == 0x90 && awArray d / 16 == core))

/-- Whether a core may calibrate or taste: in the gap, or where the recipe leaves its arrays idle (R23, R28). -/
def State.mayServe (s : State) (core : Nat) : Bool :=
  s.convertersFree core && (s.inGap || s.arraysIdle core)

/-- Whether no device that holds the image of a core's arrays is in self-refresh: what reads that image waits (R327). -/
def State.imageAwake (s : State) (core : Nat) : Bool :=
  (List.range 16).all (fun i => (s.array (16 * core + i)).sources.all (fun x => s.regionAwake x.region && s.regionAwake x.sregion))

/-- Whether a core may scrub: in the gap, in the window while no product of its is due, or while temperature forces reference mode
(R134); its rows' sources must be awake (R327). -/
def State.mayScrub (s : State) (core : Nat) : Bool :=
  s.convertersFree core && s.imageAwake core && (s.inGap || s.ana.coldRef || s.ana.hotRef || s.cur.descs.all (fun d =>
    !(Desc.opcode d == 0x10 && Desc.core d % 128 == core && s.stp.slotsOn.contains (Desc.slot d) && !s.stp.done.contains d.num
      && s.willRun d)))

/-- Whether a bank's scrub pass has started (R147). -/
def CoreS.passOn (c : CoreS) : Bool :=
  c.pass.any (fun p => p != 0)

/-- Whether a scrub step is the next of its core's background work: it goes on with the pass that has started, or starts one; a bank
that is late comes first, and calibration comes before a bank that is not (R147). -/
def State.scrubTurn (s : State) (core bank pos : Nat) : Bool :=
  let c := s.core core
  !c.writing.getLsbD bank && c.pass.getD bank 0 == pos
    && (decide (0 < pos) || (!c.passOn && (if c.late = 0 then !s.cal.due.contains core else c.late.getLsbD bank)))

/-- Whether calibration is the next of a core's background work, and the bank the next of its run (R140, R147). -/
def State.calTurn (s : State) (core bank : Nat) : Bool :=
  let c := s.core core
  s.cal.due.contains core && !c.writing.getLsbD bank && !c.passOn && c.late == 0
    && (List.range 4).find? (fun b => !c.banksDone.getLsbD b) == some bank

/-- Whether an array's tasting is the next of its core's background work: nothing of an earlier row of R147 is due, no localisation runs (R372), and of the arrays with
a captured vector it comes first (R109, R112, R147). -/
def State.tastingTurn (s : State) (a : Nat) : Bool :=
  let core := a / 16
  let c := s.core core
  !s.flt.localising && !s.cal.due.contains core && !c.writing.getLsbD (a / 4 % 4) && !c.passOn && c.late == 0
    && (s.tasteOrder core).find? (fun b => (s.array b).captured.isSome) == some a

/-! ### The level scrub (R129 to R135) -/

/-- M for a bank whose single-conversion rms is sigma / 256 unit: the smallest from 24 for which it averages to 0.0625 unit; none
beyond 230 (R131). -/
def averagesFor (sigma : Nat) : Option Nat :=
  let m := max 24 (cdiv (sigma * sigma) 256)
  if m ≤ 230 then some m else none

/-- The physical row that a scrub position reads in a row group: a data row or the spare in its place, then the group's spares
(R130). -/
def scrubRow (x : ArrayS) (pos group : Nat) : Nat :=
  if pos < 128 then x.physRow (128 * group + pos) else dataRows + 2 * group + (pos - 128)

/-- Whether the mean of m fine-mode conversions lies more than a quarter of the format's state spacing from a level; `sum` is in 1/8
unit (R130). -/
def outOfGuard (f m : Nat) (level sum : Int) : Bool :=
  decide ((if f = fW2U then 2 * m else 4 * m) < (sum - 8 * m * level).natAbs)

/-- Whether it reads another state's level (R132). -/
def wrongLevel (f m : Nat) (level sum : Int) : Bool :=
  (List.range 4).any (fun st => decide ((sum - 8 * m * stateLevel f (BitVec.ofNat 2 st)).natAbs < (sum - 8 * m * level).natAbs))

/-- The levels that a physical row's source gives its cells; those of a row without a source are the cells' own (R132). -/
def State.trueLevels (s : State) (a row : Nat) : List Int :=
  (((s.sourceRow a row).map (·.1)).getD (s.cellRow a row)).map (stateLevel (s.array a).fmt)

/-- A row read by a scrub step. When a cell is outside its guard band the row is rewritten from its source, at most four times, and
counted once; it fails when a cell was still outside after the fourth, or when one had read another level, which in a step that is in progress
replays it (R132, R138). -/
def State.scrubFind (s : State) (core bank pos : Nat) (f : RowRead) : State :=
  let a := 16 * core + 4 * bank + f.pos % 4
  let x := s.array a
  let phys := scrubRow x pos (f.group % 8)
  let m := (s.core core).m.getD bank 24
  let ls := s.trueLevels a phys
  let out (l : List (Nat × Int)) : Bool := l.any (fun c => decide (c.1 < 520) && outOfGuard x.fmt m (ls.getD c.1 0) c.2)
  if !out (f.reads.headD []) then s
  else
    let s1 := (s.count cScrubFix 1).rewriteRow a phys
    let wrong := (f.reads.headD []).any (fun c => decide (c.1 < 520) && wrongLevel x.fmt m (ls.getD c.1 0) c.2)
    let kept := (List.range 4).any (fun i => !out (f.reads.getD (i + 1) []))
    if wrong || !kept then
      let s2 := s1.rowFails a phys wrong
      if wrong && s.train && s.stp.active && s.stp.begun then s2.cause 6 else s2
    else s1

/-- The rows of a scrub step. -/
def State.scrubFinds (s : State) (core bank pos : Nat) (l : List RowRead) : State :=
  match l with
  | [] => s
  | f :: r => (s.scrubFind core bank pos f).scrubFinds core bank pos r

/-- What a pass's σ_read of a bank does: M for the next pass; beyond 230 the core is due for calibration, and after that its arrays are
QUARANTINED (R131). -/
def State.setAverages (s : State) (core bank sigma : Nat) : State :=
  let c := s.core core
  match averagesFor sigma with
  | some m => s.setCore core { c with m := c.m.set bank m, noisy := clearBit4 c.noisy bank, noisyCal := clearBit4 c.noisyCal bank }
  | none =>
    if c.noisyCal.getLsbD bank then
      (s.setCore core { c with m := c.m.set bank 230, noisy := clearBit4 c.noisy bank, noisyCal := clearBit4 c.noisyCal bank }).quarantineAll
        (bankArrays core bank)
    else (s.setCore core { c with m := c.m.set bank 230, noisy := setBit4 c.noisy bank }).makeDue core false

/-- The end of a pass: counted, and the bank's age starts again (R131, R135). -/
def State.scrubPass (s : State) (core bank sigma : Nat) : State :=
  let c := s.core core
  ((s.count cScrubPass 1).setCore core
    { c with scrubbed := true, pass := c.pass.set bank 0, late := clearBit4 c.late bank, ageNext := clearBit4 c.ageNext bank }).setAverages
      core bank sigma

/-- One position of a pass: its rows, then the next position or the end of the pass. -/
def State.scrubStep (s : State) (core bank pos : Nat) (finds : List RowRead) (sigma : Nat) : State :=
  let s1 := s.scrubFinds core bank pos finds
  if pos = 129 then s1.scrubPass core bank sigma
  else s1.setCore core { s1.core core with pass := (s1.core core).pass.set bank (pos + 1) }

/-- SCRUB_STEP: one position of a bank's pass; nothing while the core's converters do other work (log 91). Its array cycles do not count in
ANA_CONV_CNT (DESIGN CHOICE, log 99). -/
def execScrubStep (core bank pos : Nat) (finds : List RowRead) (sigma : Nat) (s : State) : Host.Outcome State Fault Refusal :=
  if 128 ≤ core ∨ 4 ≤ bank ∨ 130 ≤ pos then .fault .noSuchUnit
  else if s.mayScrub core && s.scrubTurn core bank pos then .next (s.scrubStep core bank pos finds sigma)
  else .next s

/-- SCRUB_LATE: a bank's age reaches 1.5 × P (R135, R453). -/
def execScrubLate (core bank ageUs : Nat) (s : State) : Host.Outcome State Fault Refusal :=
  if 128 ≤ core ∨ 4 ≤ bank then .fault .noSuchUnit
  else
    let c := s.core core
    let s1 := (s.raiseU 0x300A (uCore * 2 ^ 22 + core) [wd core, wd bank, wd ageUs, wd (scrubMs c.band)]).count cScrubLate 1
    .next (s1.setCore core { c with late := setBit4 c.late bank })

/-- SCRUB_AGE_LIMIT: a bank's age reaches 2 × P; its products move to reference mode from the next tick (R135). -/
def execScrubAgeLimit (core bank : Nat) (s : State) : Host.Outcome State Fault Refusal :=
  if 128 ≤ core ∨ 4 ≤ bank then .fault .noSuchUnit
  else
    let c := s.core core
    .next (s.setCore core { c with ageNext := setBit4 c.ageNext bank })

/-! ### Re-placement (R139) -/

/-- The block of an array written to another of its bank, which then stands for it (R139 choice 1). -/
def State.moveArray (s : State) (a b : Nat) : State :=
  let x := s.array a
  let s1 := s.programAll b x.sources
  let s2 := s1.setArray b { s1.array b with refNext := false, refOn := false }
  let s3 := s2.setArray a { x with holds := false, moved := some b, pendSrc := [], refOn := false, refNext := false }
  { s3 with ana := { s3.ana with arrays := s3.ana.arrays.map (fun e =>
      (e.1, if e.2.moved == some a then { e.2 with moved := some b } else e.2)) } }

/-- Whether the arrays stand at a step boundary, or at the tick of a recipe without steps: no step attempt is in progress, no slot of an
invocation's beat has started (R139). -/
def State.mayReplace (s : State) : Bool :=
  if s.train then !(s.stp.active && s.stp.begun)
  else s.cur.slots.zipIdx.all (fun x => !(x.1.beat == s.stp.beat && s.stp.slotsOn.contains x.2))

/-- The choice for an array: the one its ARRAY_SHORT record told, while it is still there; else the first that is available (R139). -/
def State.choiceNow (s : State) (a : Nat) : Nat × Nat :=
  match (s.array a).plan with
  | none => s.choiceFor a
  | some p =>
    if p.1 = 1 then (if s.canTake a p.2 then p else s.choiceFor a)
    else if p.1 = 2 then (if s.spareFor (a / 16) then p else s.choiceFor a)
    else p

/-- The re-placement of R139: another array of the bank, the core to a spare, or the array stays SHORT. -/
def State.replace (s : State) (array : Nat) : State :=
  let c := s.choiceNow array
  let s1 := s.setArray array { s.array array with plan := none }
  if c.1 = 1 then (s1.moveArray array c.2).publish
  else if c.1 = 2 then s1.queueMove (array / 16)
  else (s1.setArray array { s1.array array with lost := true, holds := false }).degrade

/-- ARRAY_REPLACE: the weight block of a SHORT or QUARANTINED array is re-placed, at a boundary. -/
def execArrayReplace (array : Nat) (s : State) : Host.Outcome State Fault Refusal :=
  if 2048 ≤ array then .fault .noSuchUnit
  else
    let x := s.array array
    if !x.unplaced || x.moved.isSome || x.lost || !s.mayReplace then .next s
    else .next (s.replace array)

/-! ### Checksum windows (R108, R109) -/

/-- Discrepancies in a window: four for each group conversion. -/
def windowDeltas : Nat := 4 * windowSize

/-- Whether a window fails against a baseline of (Σ δ, Σ δ²): |μ − μ0| beyond MEAN_MARGIN, or σ beyond σ0 + RMS_MARGIN, where σ is the
rms of the discrepancies (R108; log 24). -/
def ChkWin.fails (x : ChkWin) (b : Int × Int) : Bool :=
  let n : Int := windowDeltas
  let y := x.sq - b.2 - x.rms * x.rms * n
  decide (x.mean * n < (x.sum - b.1).natAbs) || (decide (0 < y) && decide (4 * x.rms * x.rms * b.2 * n < y * y))

/-- μ and σ of a window in 1/256 unit, as the event carries them (log 24). -/
def ChkWin.mu (x : ChkWin) : Int := 256 * x.sum / (windowDeltas : Int)
def ChkWin.sigma (x : ChkWin) : Nat := isqrt (65536 * x.sq.toNat / windowDeltas)

/-- CHECKSUM_FAIL: the array is tasted ahead of its turn, and the error is charged to it (R109, R363). -/
def State.checksumFails (s : State) (a : Nat) (w : ChkWin) : State :=
  let s1 := (s.count cChkFail 1).raiseU 0x3005 (uArray * 2 ^ 22 + a) [wd a, sWord w.mu, wd w.sigma]
  (s1.setArray a { s1.array a with tasteDue := true, tasteAhead := true }).chargeErr uArray a 0x3005 false

/-- The oldest complete window of an array judged: the first after a calibration is the baseline. -/
def State.judgeWindow (s : State) (a : Nat) : State :=
  let x := s.array a
  match x.chkDone with
  | [] => s
  | w :: r =>
    let s1 := s.count cChkWin 1
    match x.baseline with
    | none => s1.setArray a { x with chkDone := r, baseline := some (w.sum, w.sq) }
    | some b =>
      let s2 := s1.setArray a { x with chkDone := r }
      if w.fails b then s2.checksumFails a w else s2

/-- The windows that are complete judged, at most n. -/
def State.judgeWindows (s : State) (a n : Nat) : State :=
  match n with
  | 0 => s
  | n + 1 => (s.judgeWindow a).judgeWindows a n

/-- CHECKSUM_WINDOW: a window of an array ends; nothing where none is complete. -/
def execChecksumWindow (array : Nat) (s : State) : Host.Outcome State Fault Refusal :=
  if 2048 ≤ array then .fault .noSuchUnit else .next (s.judgeWindow array)

/-! ### Tasting (R113, R114) -/

/-- Whether a column's mean error is within 1.25 units. -/
def meanOk (es : List Int) : Bool :=
  decide (4 * (es.foldl (· + ·) 0).natAbs ≤ 5 * es.length)

/-- n × Σ (e − mean)² of a column of n errors. -/
def spreadOf (es : List Int) : Nat :=
  let sum := es.foldl (· + ·) 0
  ((es.length : Int) * (es.map (fun e => e * e)).foldl (· + ·) 0 - sum * sum).toNat

/-- Whether a tasting passes, from the errors of each conversion's 520 columns: every column mean within ±1.25, the rms about the column
means at most 0.45, no error of 4 (R113). -/
def tastePasses (errs : List (List Int)) : Bool :=
  let n := errs.length
  let cols := transposeL 520 errs
  cols.all meanOk && decide (10000 * (cols.map spreadOf).foldl (· + ·) 0 ≤ 2025 * (520 * n) * n)
    && errs.all (fun e => e.all (fun x => decide (x.natAbs < 4)))

/-- What the Sieve decides by when a captured vector is fired; ANA_CTL acts in TEST alone (R92). -/
def State.tasteCfg (s : State) (c : Captured) : SieveCfg :=
  { rows := c.rows, masked := c.masked, limit := c.limit, bsplit := c.bsplit, force := s.hif.state == .test && s.ana.forceSplit,
    noSkip := s.hif.state == .test && s.ana.noSkip }

/-- The errors of a captured vector fired through its array: each conversion's outputs less the exact sums, which the digital arrays form
from the row's sources; and the accumulators after it (R108, R113, R163). -/
def State.tasteErrs (s : State) (a : Nat) (c : Captured) : List (List Int) × LaneAcc :=
  let arr := s.convArray a (a % 4) (s.cellLevels a)
  let exact := (List.range dataRows).map (fun r => s.trueLevels a ((s.array a).physRow r))
  (planVec (s.tasteCfg c) c.acts).passes.foldl (fun acc p =>
    let n0 := s.free + convBase 0 p.plane p.group p.half (a % 4)
    let out := (acc.2.reads arr c.sgn n0 p).map limit255
    (acc.1 ++ [List.zipWith (· - ·) out (levelSums 520 exact p.rows)], acc.2.pass arr c.sgn n0 p)) ([], s.laneAcc0 a)

/-- A pattern captured: into a full store it replaces the oldest pattern of a RETIRED unit, else the oldest (R373). -/
def State.capture (s : State) (p : Pattern) : State :=
  let l := s.flt.patterns
  let retired := l.findIdx? (fun q => ((s.hist? q.cls q.unit).map (fun e => e.state == .retired)).getD false)
  let l' := if l.length < 256 then l else l.eraseIdx (retired.getD 0)
  ({ s with flt := { s.flt with patterns := l' ++ [p] } }).raise 0xB007 []

/-- The exact sums of a captured vector, conversion by conversion, which the digital arrays form from the rows' sources (R108). -/
def State.tasteExact (s : State) (a : Nat) (c : Captured) : List (List Int) :=
  let exact := (List.range dataRows).map (fun r => s.trueLevels a ((s.array a).physRow r))
  (planVec (s.tasteCfg c) c.acts).passes.map (fun p => levelSums 520 exact p.rows)

/-- The pattern of a second failed tasting: the captured vector and its product's fields, against the ARRAY (R373). No test core takes part: the
output kept is the exact sums. DESIGN CHOICE, log 142. -/
def State.tastePattern (s : State) (a : Nat) (c : Captured) : Pattern :=
  { cls := uArray, unit := a, opcode := 0x10, fields := c.fields, operands := (leWords 256 c.acts) ++ leWords 16 (halfBytes c.side),
    output := (s.tasteExact a c).flatten.map (BitVec.ofInt 32), hour := s.hour256 }

/-- A failed tasting (R114): the first calibrates the array's core and keeps the vector for the second, after which the array is
QUARANTINED. In the step it sampled, when that has not committed, it replays; otherwise the record carries the epoch. A failure found after
the window of the beat whose tick is to commit the step counts as found after the commit (R304); where that tick does not commit, the step
replays (log 134). -/
def State.tasteFails (s : State) (a : Nat) (c : Captured) : State :=
  let x := s.array a
  let openStep := s.train && s.stp.active && s.stp.begun && s.stp.step == c.step
  let closing := s.afterClose && s.stp.commitReady
  let s1 := (s.count cTasteFail 1).raiseU 0x3006 (uArray * 2 ^ 22 + a) (if openStep && !closing then [] else [wd c.epoch])
  let s2 := if openStep then s1.cause 5 else s1
  if x.tasteFails = 0 then
    ((s2.setArray a { x with tasteFails := 1 }).chargeErr uArray a 0x3006 false).makeDue (a / 16) true
  else
    ((s2.setArray a { x with tasteFails := 0, captured := none, tasteAhead := false }).capture (s.tastePattern a c)).chargeErr uArray a
      0x3006 true

/-- A captured vector fired and judged. -/
def State.tasting (s : State) (a : Nat) (c : Captured) : State :=
  let r := s.tasteErrs a c
  let s1 := ((s.count cTaste 1).keepWindows [(a, r.2)]).draw (8 * 16 * 4 * 520)
  if tastePasses r.1 then s1.setArray a { s1.array a with captured := none, tasteFails := 0, tasteAhead := false } else s1.tasteFails a c

/-- TASTING: an array's captured vector is fired; nothing without one, or while the core's converters do other work (log 91). -/
def execTasting (array : Nat) (s : State) : Host.Outcome State Fault Refusal :=
  if 2048 ≤ array then .fault .noSuchUnit
  else
    match (s.array array).captured with
    | none => .next s
    | some c => if s.mayServe (array / 16) && s.imageAwake (array / 16) && s.tastingTurn array then .next (s.tasting array c) else .next s

/-! ### Temperatures (R117, R129, R142, R402, R404) -/

/-- Whether a level of R402 holds: entered at its threshold, left below it. -/
def holdsLevel (cur lvl : Nat) (t enter leave : Int) : Bool :=
  decide (enter ≤ t) || (decide (lvl ≤ cur) && decide (leave < t))

/-- The die level for the hottest compute-die junction in 0.1 °C (R402). HOT_REF is entered above 95 °C and left at 93 °C. -/
def dieLevel (cur : Nat) (t : Int) : Nat :=
  if holdsLevel cur 4 t 1080 1050 then 4
  else if holdsLevel cur 3 t 1000 970 then 3
  else if holdsLevel cur 2 t 951 930 then 2
  else if holdsLevel cur 1 t 900 870 then 1
  else 0

/-- The events of the levels entered (R402). -/
def State.levelEvents (s : State) (old new : Nat) : State :=
  let s1 := if old < 1 ∧ 1 ≤ new then s.raise 0x2003 [] else s
  let s2 := if old < 3 ∧ 3 ≤ new then (s1.raise 0x2004 []).setSticky 3 else s1
  if old < 4 ∧ 4 ≤ new then (s2.raise 0x2005 []).setSticky 4 else s2

/-- The lower edges of bands 0 to 4 (R129). -/
def bandEdges : List Int := [95, 85, 75, 65, 55]

/-- The band of a core: the first whose lower edge is reached, or that is held within 2 °C below its edge (R129). -/
def bandFor (cur : Nat) (t : Int) : Nat :=
  ((bandEdges.zipIdx).find? (fun e => holdsLevel (5 - cur) (5 - e.2) t e.1 (e.1 - 2))).map (·.2) |>.getD 5

/-- A core's temperature: its band, whether it falls due, and CAL_LAG beyond 12 °C (R129, R142). -/
def State.coreTemp (s : State) (core : Nat) (t : Int) : State :=
  let c := s.core core
  let s1 := s.setCore core { c with temp := t, band := bandFor c.band t }
  if s.hif.state = .boot ∨ s.isAbsent core then s1
  else
    let off := (t - c.tempCal).natAbs
    let s2 := if s.cal.trig < off then s1.makeDue core false else s1
    if 12 < off ∧ !c.lagNext then
      ((s2.raiseU 0xC003 (uCore * 2 ^ 22 + core) [wd core, sWord c.tempCal, sWord t]).setCore core
        { s2.core core with lagNext := true }).makeDue core true
    else s2

/-- The cores of the clusters, by their clusters' sensors. -/
def State.coreTemps (s : State) (cores : List Nat) (clusters : List Int) : State :=
  match cores with
  | [] => s
  | c :: r =>
    (match clusters[c / 8]? with
     | some t => s.coreTemp c t
     | none => s).coreTemps r clusters

/-- What a sample of the dies' junctions, in 0.1 °C, and of the clusters' sensors, in °C, does (R117, R129, R142, R402). -/
def State.dieTemps (s : State) (cd0 cd1 iod : Int) (clusters : List Int) : State :=
  let t := max cd0 cd1
  let lvl := dieLevel s.pwr.therm t
  let ceil := if 1000 ≤ t then max 2 (s.pwr.ceil - 1) else s.pwr.ceil
  let s1 := { s with pwr := { s.pwr with cd0 := cd0, cd1 := cd1, iod := iod, therm := lvl, ceil := ceil },
                     ana := { s.ana with coldRef := decide (cd0 < 0) || decide (cd1 < 0), hotRef := decide (2 ≤ lvl) } }
  ((s1.levelEvents s.pwr.therm lvl).coreTemps (List.range 128) clusters).dutyFall

/-- A sample of the coolant, in 0.1 °C: COOLANT_HOT when the outlet reaches 65 °C (R404, R408). -/
def State.coolant (s : State) (inlet outlet : Int) : State :=
  let s1 := { s with pwr := { s.pwr with inlet := inlet, outlet := outlet } }
  if 650 ≤ outlet ∧ s.pwr.outlet < 650 then (s1.raise 0x2007 []).setSticky 5 else s1

/-- The limits at which the comparators of R403 turn the rails off, in 0.1 °C. -/
def thermLimit (src : ThermSource) : Int :=
  match src with
  | .die => 1150
  | .memory => 1080
  | .outlet => 750
  | .stage => 1300

end Sys2Proof.Machine
end

