-- ==== Sys2Proof/Machine/Links.lean ====
section
/-! DEFINITION. Link ports, lanes, retry blocks, credits, routing and sealing (R289 to R301, R360 to R365). -/

namespace Sys2Proof.Machine

/-! ### The torus (R25, R289, R296) -/

/-- The size of the domain in a dimension, and this device's coordinate. -/
def State.dimSize (s : State) (k : Nat) : Nat :=
  if k = 0 then s.lnk.dimX else if k = 1 then s.lnk.dimY else s.lnk.dimZ

/-- The coordinate of a device in a dimension (R25). -/
def coordOf (dev k : Nat) : Nat :=
  if k = 0 then dev % 16 else if k = 1 then dev / 16 % 8 else dev / 128 % 8

/-- The weight of a dimension in a device number. -/
def dimStride (k : Nat) : Nat :=
  if k = 0 then 1 else if k = 1 then 16 else 128

/-- The device reached from one by a port (R289). -/
def State.neighbour (s : State) (dev p : Nat) : Nat :=
  let k := p / 2
  let n := max 1 (s.dimSize k)
  let c := coordOf dev k
  let c' := if p % 2 = 0 then (c + 1) % n else (c + n - 1) % n
  dev + c' * dimStride k - c * dimStride k

/-- The partner of a port (R289). -/
def State.partnerOf (s : State) (p : Nat) : Nat :=
  s.neighbour s.device p

/-! ### Port states -/

/-- Whether a port is classified PERMANENT (R294). -/
def State.portPerm (s : State) (p : Nat) : Bool :=
  ((s.hist? uPort p).map (fun e => e.state == .permanent)).getD false

/-- Whether a port's power domain is on in its state (R397). -/
def State.portPower (s : State) (p : Nat) (x : Port) : Bool :=
  s.pwr.pwrgood && !(x.state == .disabled || (x.state == .down && s.portPerm p))

/-- A port replaced, and its power domain with it. -/
def State.putPort (s : State) (p : Nat) (x : Port) : State :=
  let bit : BitVec 36 := BitVec.ofNat 36 (2 ^ (20 + p))
  let s1 := s.setPort p x
  { s1 with pwr := { s1.pwr with dom := if s.portPower p x then s1.pwr.dom ||| bit else s1.pwr.dom &&& ~~~bit } }

/-- Whether a port carries traffic. -/
def Port.works (x : Port) : Bool :=
  x.state == .up || x.state == .degraded

/-- UP with six lanes, DEGRADED with five (R312). -/
def Port.upState (x : Port) : PortState :=
  if popCount 6 x.lanes.toNat = 6 then .up else .degraded

/-- Lanes of a port that are classified PERMANENT (R292). -/
def State.lanePerm (s : State) (p : Nat) : BitVec 6 :=
  BitVec.ofNat 6 (((List.range 6).filter (fun l =>
    ((s.hist? uLane (p * 6 + l)).map (fun e => e.state == .permanent)).getD false)).foldl (fun n l => n + 2 ^ l) 0)

/-! ### What routes must avoid (R293, R294, R297, R299, R300) -/

/-- This device's ports that routes must avoid: DOWN ones, and those handled as DOWN (R297). -/
def State.ownDowns (s : State) : List (Nat × Nat) :=
  ((List.range 6).filter (fun p =>
    let st := (s.port p).state
    st == .down || st == .miswired || st == .sealMismatch)).map (fun p => (s.device, p))

/-- The ports of some devices that routes must avoid, as they report them. -/
def State.setDowns (s : State) (devs : List Nat) (l : List (Nat × Nat)) : State :=
  { s with lnk := { s.lnk with downs := s.lnk.downs.filter (fun d => !devs.contains d.1) ++ l } }

/-- A generation's table; one that was never sent avoids nothing. -/
def State.tableOf (s : State) (gen : Nat) : Route :=
  Tab.get s.lnk.routes gen { dead := [], down := [] }

/-- Whether two tables avoid the same devices and ports. -/
def Route.same (a b : Route) : Bool :=
  a.dead.all (fun d => b.dead.contains d) && b.dead.all (fun d => a.dead.contains d)
    && a.down.all (fun d => b.down.contains d) && b.down.all (fun d => a.down.contains d)

/-! ### Receive buffers (R295) -/

/-- Bytes that have come into a port's receive buffer on a VC. -/
def State.rxTake (s : State) (port : Option Nat) (vc n : Nat) : State :=
  match port with
  | none => s
  | some q => s.setPort q { s.port q with rx := Tab.put (s.port q).rx vc (Tab.get (s.port q).rx vc 0 + n) }

/-- Bytes that have left it: their credit is returned in link control words. -/
def State.rxFree (s : State) (port : Option Nat) (vc n : Nat) : State :=
  match port with
  | none => s
  | some q =>
    let x := s.port q
    let m := min n (Tab.get x.rx vc 0)
    s.setPort q { x with rx := Tab.put x.rx vc (Tab.get x.rx vc 0 - m), returned := Tab.put x.returned vc (Tab.get x.returned vc 0 + m) }

/-- A packet dropped by the router (R300). -/
def State.dropPacket (s : State) (p : LinkPkt) : State :=
  (s.rxFree p.inPort p.vc p.data.length).count cRouteDrop 1

/-- Packets dropped. -/
def State.dropPackets (s : State) (l : List (LinkPkt × Nat)) : State :=
  match l with
  | [] => s
  | k :: r => (s.dropPacket k.1).dropPackets r

/-- The packets that wait at a port which goes DOWN meet it under their generation, and are dropped (R300). -/
def State.dropWaiting (s : State) (port : Nat) : State :=
  ({ s with lnk := { s.lnk with routed := s.lnk.routed.filter (fun k => k.2 != port) } }).dropPackets
    (s.lnk.routed.filter (fun k => k.2 == port))

/-! ### Blocks and sealed units sent (R291, R301) -/

/-- Full blocks of 8 KiB cut from a port's bytes, numbered by 12 bits, kept and put on the line (R291). -/
def Port.cutBlocks (fuel : Nat) (x : Port) : Port :=
  match fuel with
  | 0 => x
  | n + 1 =>
    if x.blk.length < 8192 then x
    else
      let d := x.blk.take 8192
      let b : Block := { seq := x.txSeq, crc := crc32 d, data := d }
      Port.cutBlocks n { x with blk := x.blk.drop 8192, txSeq := (x.txSeq + 1) % 4096, sent := x.sent ++ [b], wire := x.wire ++ [b] }

/-- The nonce of a sealed unit: the sending port and direction in 32 bits, then the count of sealed units (R301, log 8). -/
def sealNonce (port n : Nat) : BitVec 96 :=
  BitVec.ofNat 96 ((2 * port + 1) * 2 ^ 64 + n % 2 ^ 64)

/-- Whole units of 4 KiB sealed, each with its tag (R301). -/
def Port.sealUnits (fuel : Nat) (key : List Byte) (port : Nat) (x : Port) : Port :=
  match fuel with
  | 0 => x
  | n + 1 =>
    if x.plain.length < 4096 then x
    else
      Port.sealUnits n key port
        { x with plain := x.plain.drop 4096, sealCount := (x.sealCount + 1) % 2 ^ 64,
                 blk := x.blk ++ Config.aesGcm key (sealNonce port x.sealCount) (x.plain.take 4096) }

/-- Packet data put into the retry blocks of a port, sealed where the port is (R291, R301). -/
def State.fillBlocks (s : State) (port : Nat) (x : Port) (data : List Byte) : Port :=
  let y := match (Tab.find s.sec.linkKeys (2 * port + 1)).filter (fun _ => s.sec.rsealed.getLsbD port) with
    | some k => Port.sealUnits ((x.plain.length + data.length) / 4096) k.key port { x with plain := x.plain ++ data }
    | none => { x with blk := x.blk ++ data }
  Port.cutBlocks (y.blk.length / 8192) y

/-! ### Credits and sending (R295) -/

/-- Bytes each VC owns in a receive buffer, and the shared part. -/
def vcBytes : Nat := 2048
def sharedBytes : Nat := 32768

/-- Shared bytes in use at a port's partner. -/
def Port.sharedUsed (x : Port) : Nat :=
  x.credit.foldl (fun n e => n + (e.2 - vcBytes)) 0

/-- Whether a VC has credit for so many bytes: its own 2 KiB, then what is left of the shared part (R295). -/
def Port.hasCredit (x : Port) (vc bytes : Nat) : Bool :=
  let used := Tab.get x.credit vc 0
  decide (used + bytes - vcBytes - (used - vcBytes) ≤ sharedBytes - x.sharedUsed)

/-- Whether a port can send a packet now: it works, its VC has credit, and the sender can keep its block (R291, R295). -/
def State.canSend (s : State) (k : LinkPkt × Nat) : Bool :=
  let x := s.port k.2
  x.works && x.hasCredit k.1.vc k.1.data.length && decide (x.sent.length < 64)

/-- Whether a packet that leaves by a port crosses the dateline of that ring: the link between its last coordinate and 0 (R299,
log 25). -/
def State.crosses (s : State) (port : Nat) : Bool :=
  let k := port / 2
  if port % 2 = 0 then coordOf s.device k + 1 == s.dimSize k else coordOf s.device k == 0

/-- A packet sent: it uses its VC's credit, and leaves the receive buffer it came through. -/
def State.sendOut (s : State) (k : LinkPkt × Nat) : State :=
  let x := s.port k.2
  let p := { k.1 with second := k.1.second || s.crosses k.2 }
  let y := { x with credit := Tab.put x.credit p.vc (Tab.get x.credit p.vc 0 + p.data.length), rr := if p.vc = 0 then x.rr else p.vc }
  let s1 := s.setPort k.2 (s.fillBlocks k.2 y p.data)
  ({ s1 with lnk := { s1.lnk with routed := s1.lnk.routed.erase k, out := s1.lnk.out ++ [(p, k.2)] } }).rxFree p.inPort p.vc
    p.data.length

/-- The VCs of a port in the order of their turns: VC0 first, then round-robin from the one after that served last (R263, R295). -/
def Port.turns (x : Port) : List Nat :=
  0 :: (List.range 15).map (fun i => (x.rr + i) % 15 + 1)

/-- The next packet of a port: the first of a VC's buffer class, where it can be sent (R295, R299). -/
def State.nextOut (s : State) (port : Nat) : Option (LinkPkt × Nat) :=
  (s.port port).turns.findSome? (fun vc => [false, true].findSome? (fun c =>
    (s.lnk.routed.find? (fun k => k.2 == port && k.1.vc == vc && k.1.second == c)).filter s.canSend))

/-- A port sends as long as it can. -/
def State.pumpFor (s : State) (fuel port : Nat) : State :=
  match fuel with
  | 0 => s
  | n + 1 =>
    match s.nextOut port with
    | none => s
    | some k => (s.sendOut k).pumpFor n port

/-- The packets that wait at a port, sent one at a time as credit allows. -/
def State.pump (s : State) (port : Nat) : State :=
  s.pumpFor s.lnk.routed.length port

/-- CREDIT_RETURN: a VC's bytes have left the partner's buffer. -/
def execCreditReturn (port vc bytes : Nat) (s : State) : Host.Outcome State Fault Refusal :=
  if 6 ≤ port ∨ 16 ≤ vc then .fault .noSuchUnit
  else
    let x := s.port port
    .next ((s.setPort port { x with credit := Tab.put x.credit vc (Tab.get x.credit vc 0 - bytes) }).pump port)

/-! ### Routing (R298 to R300) -/

/-- Whether a table lets a packet leave this device by a port: neither end is DOWN in it and the neighbour is not dead. -/
def State.usable (s : State) (r : Route) (p : Nat) : Bool :=
  let n := s.partnerOf p
  !r.dead.contains n && !r.down.contains (s.device, p) && !r.down.contains (n, if p % 2 = 0 then p + 1 else p - 1)

/-- The port toward a destination in a dimension: the shorter way round, the + way when both are equal; in a dimension of size 2 the
− port serves when the + port does not (R296, R298). -/
def State.wayIn (s : State) (r : Route) (dst k : Nat) : Nat :=
  let n := max 1 (s.dimSize k)
  let d := (coordOf dst k + n - coordOf s.device k) % n
  if n = 2 ∧ !s.usable r (2 * k) then 2 * k + 1
  else if 2 * d ≤ n then 2 * k else 2 * k + 1

/-- The dimensions in which a destination differs from this device, in order. -/
def State.dimsTo (s : State) (dst : Nat) : List Nat :=
  [0, 1, 2].filter (fun k => coordOf dst k != coordOf s.device k)

/-- The detour for a dimension whose next hop cannot be used: one step along the next dimension of size above 1, the + way if it can be
used, else the − way (R299). -/
def State.detour (s : State) (r : Route) (k : Nat) : Option Nat :=
  match [(k + 1) % 3, (k + 2) % 3].find? (fun j => decide (1 < s.dimSize j)) with
  | none => none
  | some j => if s.usable r (2 * j) then some (2 * j) else if s.usable r (2 * j + 1) then some (2 * j + 1) else none

/-- The output port for a destination (R298, R299), and the dimension whose travel the packet then finishes on a detour. A packet on a
detour finishes that dimension before it resumes dimension order (log 25). -/
def State.routeOf (s : State) (r : Route) (dst : Nat) (via : Option Nat) : Option (Nat × Option Nat) :=
  let l := s.dimsTo dst
  match via.toList.filter (fun k => l.contains k) ++ l with
  | [] => none
  | k :: _ =>
    if s.usable r (s.wayIn r dst k) then some (s.wayIn r dst k, via.filter (fun j => j == k))
    else (s.detour r k).map (fun q => (q, some k))

/-- A packet put in a port's queue. -/
def State.enqueue (s : State) (p : LinkPkt) (port : Nat) : State :=
  ({ s with lnk := { s.lnk with routed := s.lnk.routed ++ [(p, port)] } }).pump port

/-- A packet sent by one table. -/
def State.routeBy (s : State) (r : Route) (p : LinkPkt) : State :=
  match s.routeOf r p.dst p.via with
  | none => s.dropPacket p
  | some q =>
    if !(s.port q.1).works || s.lnk.dead.contains (s.partnerOf q.1) then s.dropPacket p
    else s.enqueue { p with via := q.2 } q.1

/-- A packet that has arrived: one of VC1 or VC3 is acknowledged to its source (R300). -/
def State.deliver (s : State) (p : LinkPkt) : State :=
  let s1 := s.rxFree p.inPort p.vc p.data.length
  if (p.vc = 1 ∨ p.vc = 3) ∧ p.inPort.isSome then { s1 with lnk := { s1.lnk with acked := s1.lnk.acked ++ [(p.src, p.id)] } }
  else s1

/-- A packet routed by its own generation; one that meets a dead device or a port that carries nothing is dropped (R298, R300). -/
def State.route (s : State) (p : LinkPkt) : State :=
  if p.dst = s.device then s.deliver p
  else
    match Tab.find s.lnk.routes p.gen with
    | none => if p.gen = s.lnk.gen then s.routeBy { dead := [], down := [] } p else s.dropPacket p
    | some r => s.routeBy r p

/-- A packet as it is launched here: it carries the generation in force. One of VC1 or VC3 is kept until it is acknowledged (R300). -/
def State.launched (s : State) (p : LinkPkt) : LinkPkt :=
  { p with src := s.device, gen := s.lnk.gen, inPort := none, via := none, second := false }

def State.keep (s : State) (p : LinkPkt) : State :=
  if p.vc = 1 ∨ p.vc = 3 then { s with lnk := { s.lnk with unacked := Tab.put s.lnk.unacked p.id p } } else s

/-- A packet handed to a ring port (R262); where that port does not serve, it takes a detour (R293, R298). -/
def State.handTo (s : State) (port : Nat) (p : LinkPkt) : State :=
  let q := s.launched p
  if (s.port port).works && s.usable (s.tableOf s.lnk.gen) port then (s.keep q).enqueue q port else (s.keep q).route q

/-- PACKET_ROUTE: a packet launched here, or passing through. -/
def execPacketRoute (p : LinkPkt) (s : State) : Host.Outcome State Fault Refusal :=
  match p.inPort with
  | some q =>
    if 6 ≤ q then .fault .noSuchUnit
    else .next (((s.sealOk q).rxTake (some q) p.vc p.data.length).route p)
  | none => .next ((s.keep (s.launched p)).route (s.launched p))

/-- E2E_RESEND_TIMEOUT: 20 µs without an acknowledgement; the packet is sent again under the generation in force (R300). -/
def execE2eResendTimeout (id : Nat) (s : State) : Host.Outcome State Fault Refusal :=
  match Tab.find s.lnk.unacked id with
  | none => .next s
  | some p =>
    let s1 := { s with lnk := { s.lnk with resends := Tab.put s.lnk.resends id (Tab.get s.lnk.resends id 0 + 1) } }
    .next (s1.route (s.launched p))

/-- END_TO_END_ACKNOWLEDGEMENT: the packet has arrived. -/
def execEndToEndAcknowledgement (id : Nat) (s : State) : Host.Outcome State Fault Refusal :=
  .next { s with lnk := { s.lnk with unacked := Tab.del s.lnk.unacked id, resends := Tab.del s.lnk.resends id } }

/-! ### New tables (R299, R300) -/

/-- Whether the master may send a table of the other generation: the one before is no longer kept, or the one sent is still pending. -/
def State.mayRenew (s : State) : Bool :=
  s.lnk.domain && s.lnk.master == s.device && (s.lnk.genNext.isSome || (Tab.find s.lnk.routes (1 - s.lnk.gen)).isNone)

/-- The live devices of the domain, in number order. -/
def State.liveDevs (s : State) : List Nat :=
  ((List.range s.lnk.dimZ).flatMap (fun z => (List.range s.lnk.dimY).flatMap (fun y =>
    (List.range s.lnk.dimX).map (fun x => x + 16 * y + 128 * z)))).filter (fun d => !s.lnk.dead.contains d)

/-- The number of the packet that brings a device the table of a beat, beside those of other packets (log 125). -/
def routeId (dst beat : Nat) : Nat :=
  2 ^ 40 + beat % 65536 * 1024 + dst

/-- What the packet of a table holds: generation, beat, the dead devices and the DOWN ports. Its layout is not stated (log 125). -/
def Route.bytes (r : Route) (gen beat : Nat) : List Byte :=
  wordBytes ([wd gen, wd beat, wd (beat / 2 ^ 32), wd r.dead.length] ++ r.dead.map wd ++ r.down.map (fun d => wd (8 * d.1 + d.2)))

/-- A table sent over VC1 to some devices; each packet is kept until it is acknowledged (R300). -/
def State.sendTable (s : State) (r : Route) (gen beat : Nat) (l : List Nat) : State :=
  match l with
  | [] => s
  | d :: rest =>
    let p := s.launched { src := s.device, dst := d, vc := 1, gen := s.lnk.gen, id := routeId d beat, data := r.bytes gen beat,
                          inPort := none, via := none, second := false }
    ((s.keep p).route p).sendTable r gen beat rest

/-- The master sends a new table over VC1 to every live device when the newest one does not avoid what it knows to be dead or DOWN; it
takes effect at the next tick (R299, R300, log 25). -/
def State.rebuild (s : State) : State :=
  let r : Route := { dead := s.lnk.dead, down := s.lnk.downs }
  let now := match s.lnk.genNext with
    | some (g, _) => s.tableOf g
    | none => s.tableOf s.lnk.gen
  if !s.mayRenew || r.same now then s
  else
    let g := 1 - s.lnk.gen
    let s1 := { s with lnk := { s.lnk with routes := Tab.put s.lnk.routes g r, genNext := some (g, s.lnk.beat + 1),
                                           tables := s.lnk.tables ++ [(g, s.lnk.beat + 1, r)] } }
    s1.sendTable r g (s.lnk.beat + 1) (s.liveDevs.filter (fun d => d != s.device))

/-- What a change of this device's ports means for routing (R293, R294). -/
def State.noteDowns (s : State) : State :=
  (s.setDowns [s.device] s.ownDowns).rebuild

/-- ROUTE_TABLE_RECEIVE: a table of the other generation, which waits for its tick; its packet is acknowledged to the master (R300). -/
def execRouteTableReceive (gen beat : Nat) (dead : List Nat) (down : List (Nat × Nat)) (s : State) :
    Host.Outcome State Fault Refusal :=
  let g := gen % 2
  let s1 := { s with lnk := { s.lnk with acked := s.lnk.acked ++ [(s.lnk.master, routeId s.device beat)] } }
  if g = s.lnk.gen then .next s1
  else .next { s1 with lnk := { s1.lnk with routes := Tab.put s.lnk.routes g { dead := dead, down := down },
                                            genNext := some (g, beat) } }

/-! ### Down and back (R293, R294, R297) -/

/-- A port goes DOWN, and traffic to its partner takes detours (R293). -/
def State.takeDown (s : State) (p : Nat) (x : Port) : State :=
  ((s.putPort p { x with state := .down, wasDown := true, downNext := false, upNext := false }).dropWaiting p).noteDowns

/-- A port goes DOWN and PORT_DOWN is raised (R293). -/
def State.portDown (s : State) (p : Nat) : State :=
  (s.takeDown p (s.port p)).raiseU 0x6003 (uPort * 2 ^ 22 + p) []

/-- When a port is DISABLED whatever its partner does: no cable, or a dimension of size 1 once the device is in a domain (R296, R445);
before that its partner is not configured, and it trains (R297, R448, log 124). -/
def State.portOff (s : State) (p : Nat) (cable : Bool) : Bool :=
  !cable || (s.lnk.domain && s.dimSize (p / 2) == 1)

/-- Whether a port stays DOWN without training: sealed DOWN until new keys come, or PERMANENT (R294). -/
def State.stuckDown (s : State) (p : Nat) : Bool :=
  (s.port p).sealDown || s.portPerm p

/-- A port begins to train where it may (R294): one that has been DOWN trains its lanes and stays DOWN until a boundary. A DISABLED or
TRAINING port has no lane in service (R312). -/
def State.startTraining (s : State) (p : Nat) : State :=
  let x := s.port p
  if s.portOff p x.cable then ((s.putPort p { x with state := .disabled, lanes := 0, upNext := false }).dropWaiting p).noteDowns
  else if x.works then s
  else if s.stuckDown p || x.wasDown then (s.putPort p { x with state := .down, upNext := false }).noteDowns
  else (s.putPort p { x with state := .training, lanes := 0, upNext := false }).noteDowns

/-- CABLE_PRESENT_CHANGE: without its cable a port is DISABLED; with it the port trains (R294, R445). -/
def execCablePresentChange (port : Nat) (present : Bool) (s : State) : Host.Outcome State Fault Refusal :=
  if 6 ≤ port then .fault .noSuchUnit
  else .next ((s.setPort port { s.port port with cable := present }).startTraining port)

/-- PORT_RETRAIN: once each second a MISWIRED port trains again; a DOWN port trains its lanes and stays DOWN until a boundary (R294). -/
def execPortRetrain (port : Nat) (s : State) : Host.Outcome State Fault Refusal :=
  if 6 ≤ port then .fault .noSuchUnit
  else
    let x := s.port port
    if x.state = .miswired ∨ x.state = .sealMismatch then .next (s.startTraining port)
    else if x.state = .down ∧ !s.stuckDown port then .next (s.setPort port { x with laneFails := [], upNext := false })
    else .next s

/-- Whether the partner that training found is the one R289 names; before DOMAIN_SET none is (R297). -/
def State.rightPartner (s : State) (p : Nat) (o : TrainObs) : Bool :=
  s.lnk.domain && o.partner == some (s.partnerOf p) && decide (o.pport = if p % 2 = 0 then p + 1 else p - 1)

/-- The lanes that training brought up, without those classified permanent (R292). -/
def State.trainedLanes (s : State) (p : Nat) (o : TrainObs) : BitVec 6 :=
  o.lanes &&& ~~~(s.lanePerm p)

/-- A link as training leaves it: empty buffers, blocks numbered from 0. -/
def Port.freshLink (x : Port) : Port :=
  { x with credit := [], sent := [], txSeq := 0, blk := [], plain := [], rxWant := none, rx := [], returned := [], rr := 0 }

/-- PORT_TRAINING_DONE (R292 to R294, R297, R301, R303): MISWIRED with the wrong partner, SEAL_MISMATCH when one end alone is sealed,
DOWN below five lanes; a port that has been DOWN returns at the next boundary, another at once. -/
def execPortTrainingDone (port : Nat) (o : TrainObs) (s : State) : Host.Outcome State Fault Refusal :=
  if 6 ≤ port then .fault .noSuchUnit
  else
    let x := s.port port
    if s.portOff port x.cable then .next (s.startTraining port)
    else if s.stuckDown port then .next s
    else
      let lanes := s.trainedLanes port o
      let y := { x with partner := o.partner.getD 0, pport := o.pport, delay := o.delay }
      if !s.rightPartner port o then
        .next (((s.putPort port { y with state := .miswired }).raiseU 0x6004 (uPort * 2 ^ 22 + port)
          [wd (o.partner.getD 0)]).noteDowns)
      else if s.sec.rsealed.getLsbD port != o.partnerSealed then
        .next (s.putPort port { y with state := .sealMismatch }).noteDowns
      else if popCount 6 lanes.toNat < 5 then
        .next (if x.wasDown then (s.putPort port { y with state := .down, upNext := false }).noteDowns
               else (s.setPort port { y with lanes := lanes }).portDown port)
      else if x.wasDown then .next (s.putPort port { y with state := .down, upNext := true, laneNext := lanes }).noteDowns
      else
        let z := { y.freshLink with lanes := lanes }
        .next (s.putPort port { z with state := z.upState }).noteDowns

/-! ### Lanes (R292, R363) -/

/-- A lane that has failed a test leaves service; below five lanes the port goes DOWN (R293, R365). -/
def State.laneOut (s : State) (port lane : Nat) : State :=
  let x := s.port port
  if !x.lanes.getLsbD lane then s
  else
    let y := { x with lanes := x.lanes &&& ~~~(BitVec.ofNat 6 (2 ^ lane)), wire := x.wire ++ x.sent }
    let s1 := s.setPort port (if x.works then { y with state := y.upState } else y)
    if x.works && decide (popCount 6 y.lanes.toNat < 5) then s1.portDown port else s1

/-- A lane leaves service: blocks in flight are sent again, LANE_DROP is raised and charged, and below five lanes the port goes
DOWN. -/
def State.laneDrop (s : State) (port lane : Nat) : State :=
  let x := s.port port
  if !x.lanes.getLsbD lane then s
  else
    let lanes : BitVec 6 := x.lanes &&& ~~~(BitVec.ofNat 6 (2 ^ lane))
    let y := { x with lanes := lanes, wire := x.wire ++ x.sent, laneFails := Tab.del x.laneFails lane }
    let z := if x.works then { y with state := y.upState } else y
    let s1 := ((s.setPort port z).raiseU 0x6002 (uLane * 2 ^ 22 + (port * 6 + lane)) []).count cLaneDrop 1
    let s2 := (s1.chargeErr uLane (port * 6 + lane) 0x6002 false).count cRecovery 1
    if x.works && decide (popCount 6 lanes.toNat < 5) then s2.portDown port else s2

/-- LANE_DROP: a lane loses lock, exceeds its error rate, or causes four failed blocks in a beat. -/
def execLaneDrop (port lane : Nat) (s : State) : Host.Outcome State Fault Refusal :=
  if 6 ≤ port ∨ 6 ≤ lane then .fault .noSuchUnit else .next (s.laneDrop port lane)

/-- LANE_RETRAIN: a dropped lane that trains returns at the next boundary unless it is classified permanent; one that fails has failed a
directed test (R292, R363). -/
def execLaneRetrain (port lane : Nat) (good : Bool) (s : State) : Host.Outcome State Fault Refusal :=
  if 6 ≤ port ∨ 6 ≤ lane then .fault .noSuchUnit
  else
    let x := s.port port
    if x.lanes.getLsbD lane || (s.lanePerm port).getLsbD lane then .next s
    else if good then .next (s.setPort port { x with laneNext := x.laneNext ||| BitVec.ofNat 6 (2 ^ lane) })
    else .next (s.dtFailure uLane (port * 6 + lane))

/-! ### Retry blocks (R291) -/

/-- Whether a received block fails: a codeword that FEC could not correct, or a CRC that does not hold (R291). -/
def blockFails (uncorr : Nat) (data : List Byte) (crc : Word) : Bool :=
  uncorr != 0 || crc32 data != crc

/-- A resend asked for, from a block on, and counted (R291). -/
def State.askResend (s : State) (port seq : Nat) : State :=
  (s.setPort port { s.port port with rxWant := some (seq % 4096) }).count cRetry 1

/-- RETRY_BLOCK_FAIL: a received block fails; a resend is requested and counted, with the codewords FEC could not correct. A retry
traced to a lane is charged to it, and the fourth of a beat drops the lane (R291, R292, R363). A block that does not fail is no retry. -/
def execRetryBlockFail (port seq : Nat) (lane : Option Nat) (uncorr : Nat) (data : List Byte) (crc : Word) (s : State) :
    Host.Outcome State Fault Refusal :=
  if 6 ≤ port ∨ 6 ≤ lane.getD 0 then .fault .noSuchUnit
  else if !blockFails uncorr data crc then .next s
  else
    let s1 := (s.askResend port seq).count cFecUncorr uncorr
    match lane with
    | none => .next s1
    | some l =>
      let n := Tab.get (s1.port port).laneFails l 0 + 1
      let s2 := (s1.setPort port { s1.port port with laneFails := Tab.put (s1.port port).laneFails l n }).chargeCe uLane
        (port * 6 + l) 1
      .next (if 4 ≤ n then s2.laneDrop port l else s2)

/-- The blocks of a list from a sequence number on. -/
def blocksFrom (l : List Block) (seq : Nat) : List Block :=
  l.dropWhile (fun b => b.seq != seq)

/-- LINK_RESEND_REQUEST: the sender sends again from the failed block onwards (R291). -/
def execLinkResendRequest (port seq : Nat) (s : State) : Host.Outcome State Fault Refusal :=
  if 6 ≤ port then .fault .noSuchUnit
  else
    let x := s.port port
    .next (s.setPort port { x with wire := x.wire ++ blocksFrom x.sent (seq % 4096) })

/-- RETRY_BLOCK_ACKNOWLEDGEMENT: the blocks up to the one named leave the retry store (R291). `corr` are the codewords that FEC has
corrected at this port since the last one (log 40). -/
def execRetryBlockAcknowledgement (port seq corr : Nat) (s : State) : Host.Outcome State Fault Refusal :=
  if 6 ≤ port then .fault .noSuchUnit
  else
    let x := s.port port
    let s1 := if corr = 0 then s else s.count cFecCorr corr
    if x.sent.any (fun b => b.seq == seq % 4096) then
      .next ((s1.setPort port { x with sent := (blocksFrom x.sent (seq % 4096)).drop 1 }).pump port)
    else .next s1

/-! ### Sealing (R301) -/

/-- The keys of a port marked as spoilt: it needs new ones for both directions (R294). -/
def Sec.spoil (x : Sec) (port : Nat) : Sec :=
  { x with linkKeys := x.linkKeys.map (fun (e : Nat × LinkKey) =>
      if e.1 = 2 * port ∨ e.1 = 2 * port + 1 then (e.1, { e.2 with active := false }) else e) }

/-- SEAL_TAG_FAIL: the unit is discarded and asked for again; the third failure in a row takes the port DOWN. -/
def execSealTagFail (port seq : Nat) (s : State) : Host.Outcome State Fault Refusal :=
  if 6 ≤ port then .fault .noSuchUnit
  else if !s.sec.rsealed.getLsbD port then .next s
  else
    let x := s.port port
    let s1 := (s.setPort port { x with sealFails := x.sealFails + 1 }).count cSealFail 1
    if 3 ≤ x.sealFails + 1 then
      let s2 := { s1 with sec := s1.sec.spoil port }
      .next ((s2.takeDown port { s2.port port with sealDown := true, sealFails := 0 }).raiseU 0x6009 (uPort * 2 ^ 22 + port) [])
    else .next (s1.askResend port seq)

end Sys2Proof.Machine
end

