-- ==== Sys2Proof/Machine/Memory.lean ====
section
/-! DEFINITION. The GDDR7 subsystem on its own (R315 to R335, R368): patrol, frame repair, temperatures and evacuation, and the
traffic generators. -/

namespace Sys2Proof.Machine

/-! ### Patrol and repair -/

/-- The last recovery: its kind, and a time from detection to resumption that the environment does not give (R387, log 6). -/
def State.recovered (s : State) (kind : Nat) : State :=
  ({ s with flt := { s.flt with lastRecov := at_ kind 28 ||| (Config.freeWord s.free &&& 0x0FFFFFFF) } }).draw 1

/-- The runs of a region's bytes that its frame n holds: in FINE the eight sectors of a frame of one device, else one run (R321). -/
def State.frameRuns (s : State) (region n : Nat) : List (Nat × Nat) :=
  match s.region region with
  | none => []
  | some x => if x.spread = 0 then x.runsIn (n % 24) (n / 24) else [(2048 * n, 2048)]

/-- The marked codewords of a frame. -/
def State.framePoison (s : State) (region frame : Nat) : List (Nat × Nat) :=
  (s.frameRuns region frame).flatMap (fun x => s.poisonIn region x.1 x.2)

/-- Whether patrol may read a frame: in a background gap, at a level that does not stop it, and with its device awake (R28, R324, R327,
R400). -/
def State.mayPatrol (s : State) (region frame : Nat) : Bool :=
  s.pwr.pwrgood && !s.lnk.windowOpen && decide (s.pwr.idle < 4) && decide (2048 * frame < s.regionBytes region)
    && !(s.frameRuns region frame).any (fun x => s.asleep (s.deviceOf region x.1))

/-- Whether a frame is the first of a pass over the allocated regions. -/
def State.passStarts (s : State) (region frame : Nat) : Bool :=
  s.mem.regions.head?.map (·.1) == some region && frame == 0

/-- PATROL_SCRUB: a frame of an allocated region is read; it is rewritten when a codeword was corrected, unless a foreground write reaches it
first (`lost`); with an uncorrectable one patrol abandons it to the fault handling (R323, R324). -/
def execPatrolScrub (region frame : Nat) (g : MemObs) (lost : Bool) (s : State) : Host.Outcome State Fault Refusal :=
  match s.region region with
  | none => if 64 ≤ region then .fault .noSuchUnit else .next s
  | some _ =>
    if !s.mayPatrol region frame then .next s else
    let ue := g.ue ++ (s.framePoison region frame).filter (fun k => !g.ue.contains k)
    let s1 := if s.passStarts region frame then { s with mem := { s.mem with patrol := s.mem.patrolNew } } else s
    let s2 := (s1.memCe g.ce).memUe rdBackground 0xFF ue
    .next (if g.ce.isEmpty || !ue.isEmpty || lost then s2 else s2.count cPatrolFix 1)

/-- FRAME_REPAIR: a marked frame of a committed bank takes the data that the lowest-numbered live member `src` of its replica group sent, which
clears its marks; the step replays (R368). -/
def execFrameRepair (region frame src : Nat) (data : List Byte) (s : State) : Host.Outcome State Fault Refusal :=
  if 64 ≤ region then .fault .noSuchUnit
  else if pairKind (s.regionKind region) && s.repairer == some src
      && !(s.poisonIn region (s.committedHalf region frame * s.bankBytes region + 2048 * frame) 2048).isEmpty then
    let off := s.committedHalf region frame * s.bankBytes region + 2048 * frame
    let s1 := (s.rawWrite region off (data.take 2048)).account region off (data.take 2048).length true
    .next (((s1.raiseU 0xB009 0 []).cause 0xA).recovered 4)
  else .next s

/-! ### Temperatures (R325 to R327) -/

/-- The thresholds of levels 1 to 4, in 0.1 °C. -/
def memThreshold (lvl : Nat) : Int :=
  if lvl = 1 then 850 else if lvl = 2 then 920 else if lvl = 3 then 960 else 1020

/-- The highest level whose threshold a temperature reaches. -/
def memReached (t : Int) : Nat :=
  if 1020 ≤ t then 4 else if 960 ≤ t then 3 else if 920 ≤ t then 2 else if 850 ≤ t then 1 else 0

/-- The level after a sample: up to every level reached, down one level at 3 °C below the threshold of the current one (R325). -/
def memLevel (cur : Nat) (t : Int) : Nat :=
  if cur < memReached t then memReached t
  else if 0 < cur ∧ t ≤ memThreshold cur - 30 then cur - 1
  else cur

/-- A temperature of 0.1 °C steps in whole °C, as a register of whole degrees or an event holds it: rounded down. DESIGN CHOICE, log 122. -/
def wholeDegrees (t : Int) : Int :=
  t.fdiv 10

/-- MEM_HOT of one level (R325). -/
def State.memHot (s : State) (dev old new lvl : Nat) (t : Int) : State :=
  if old < lvl ∧ lvl ≤ new then s.raiseU 0x2001 (uGddr * 2 ^ 22 + dev) [wd dev, wd lvl, sWord (wholeDegrees t)] else s

/-- A device's temperature in 0.1 °C: MEM_HOT on entry to HOT and STRETCH, evacuation on entry to CRITICAL (R325, R327). -/
def State.memTempSample (s : State) (dev : Nat) (temp : Int) : State :=
  let old := (Tab.get s.mem.temps dev (0, 0)).1
  let new := memLevel old temp
  let s1 := { s with mem := { s.mem with temps := Tab.put s.mem.temps dev (new, temp) } }
  let s2 := (s1.memHot dev old new 2 temp).memHot dev old new 3 temp
  if old < 4 ∧ new = 4 then
    ({ s2 with mem := { s2.mem with evac := true, hot := addOnce s2.mem.hot dev } }).raise 0x2002 []
  else s2

/-- EVAC_CLEAR: every device has stayed below 95 °C for 10 s (R327); one that now reads more restarts the time. -/
def execEvacClear (s : State) : Host.Outcome State Fault Refusal :=
  if s.mem.temps.all (fun e => decide (e.2.2 < 950)) then
    .next { s with mem := { s.mem with evac := false, hot := [] } }
  else .next s

/-- The stretch a memory temperature asks for (R325). -/
def memStretch (lvl : Nat) (t : Int) : Nat :=
  if lvl < 3 then 0 else if 1000 ≤ t then 8 else if 980 ≤ t then 4 else 2

/-- The largest stretch the module's memories ask for. -/
def State.memStretch (s : State) : Nat :=
  s.mem.temps.foldl (fun m e => max m (Machine.memStretch e.2.1 e.2.2)) 0

/-- MEM_PATROL_CFG_WRITE: 0 is stored as 1; the period applies from the next pass (R332). -/
def execMemPatrolCfgWrite (v : Word) (s : State) : Host.Outcome State Fault Refusal :=
  .next { s with mem := { s.mem with patrolNew := max 1 (fld v 7 0) } }

/-! ### Traffic generators (R328, R335) -/

/-- A generator at reset. -/
def TrafficGen.blank : TrafficGen :=
  { go := false, stop := false, raw := false, dir := 0, pattern := 0, frames := 0, first := 0 }

/-- A device's generator. -/
def State.tgen (s : State) (dev : Nat) : TrafficGen :=
  Tab.get s.mem.tg dev TrafficGen.blank

/-- A device's generator replaced. -/
def State.setTgen (s : State) (dev : Nat) (t : TrafficGen) : State :=
  { s with mem := { s.mem with tg := Tab.put s.mem.tg dev t } }

/-- A write to MEM_TG_CTL: nothing outside TEST (R328). -/
def State.tgWrite (s : State) (dev : Nat) (v : Word) : State :=
  if s.hif.state = .test then
    let t := s.tgen dev
    s.setTgen dev { t with go := t.go || v.getLsbD 31, stop := t.stop || ((t.go || v.getLsbD 31) && v.getLsbD 30),
                           raw := v.getLsbD 5, dir := fld v 4 3, pattern := fld v 2 0 }
  else s

/-- TG_GO: a write to MEM_TG_CTL with GO set. -/
def execTgGo (dev : Nat) (v : Word) (s : State) : Host.Outcome State Fault Refusal :=
  if 24 ≤ dev then .fault .noSuchUnit else .next (s.tgWrite dev (v ||| 0x80000000))

/-- TG_STOP: a write to MEM_TG_CTL with STOP set. -/
def execTgStop (dev : Nat) (v : Word) (s : State) : Host.Outcome State Fault Refusal :=
  if 24 ≤ dev then .fault .noSuchUnit else .next (s.tgWrite dev (v ||| 0x40000000))

/-- Frames of data in a device (R317). -/
def deviceFrames : Nat := 1864135

/-- What a generator's write leaves in a run of bytes: zeros, ones, or a pattern whose layout is not stated (log 6). -/
def tgBytes (pattern seed n : Nat) : List Byte :=
  if pattern = 3 then List.replicate n 0
  else if pattern = 4 then List.replicate n 0xFF
  else freeBytes seed n

/-- Whether a run's writes leave bad codewords: with RAW the check sectors are data, which are the check bits of zeros alone (R328, log 144). -/
def TrafficGen.spoils (t : TrafficGen) : Bool :=
  t.raw && t.pattern != 3

/-- The codewords of a run of a region's bytes marked. -/
def State.spoil (s : State) (r off n : Nat) : State :=
  let l := ((List.range (n / 32)).map (fun i => (r, off / 32 + i))).filter (fun m => !s.mem.poison.contains m)
  { s with mem := { s.mem with poison := l ++ s.mem.poison } }

/-- Runs of a region overwritten. -/
def State.tgRuns (s : State) (r : Nat) (t : TrafficGen) (runs : List (Nat × Nat)) : State :=
  match runs with
  | [] => s
  | x :: rest =>
    let s1 := (s.rawWrite r x.1 (tgBytes t.pattern s.free x.2)).draw x.2
    (if t.spoils then s1.spoil r x.1 x.2 else s1).tgRuns r t rest

/-- The frames among the first n of a device that lie in no region: what was marked there is written over, or marked (R323, R328). -/
def State.tgFree (s : State) (dev n : Nat) (t : TrafficGen) : State :=
  let taken (f : Nat) : Bool := s.mem.regions.any (fun (e : Nat × Region) => match Tab.find e.2.base dev with
    | none => false
    | some b => decide (b ≤ f) && decide (f < b + e.2.frames))
  let kept := s.mem.freed.filter (fun m => !(m.1 == dev && decide (m.2.1 < n)))
  let bad := if t.spoils then ((List.range n).filter (fun f => !taken f)).flatMap (fun f => (List.range 64).map (fun j => (dev, f, j))) else []
  { s with mem := { s.mem with freed := kept ++ bad } }

/-- The loaded recipes after a run over their store: where a recipe lies in region 63 is not stated, and one that is written over cannot run. The
model lets them all go. DESIGN CHOICE, log 144. -/
def State.tgRecipes (s : State) (dev n : Nat) : State :=
  match (s.region 63).bind (fun x => Tab.find x.base dev) with
  | none => s
  | some b => if b < n then { s with rcp := { s.rcp with slots := [] } } else s

/-- The regions' bytes in the first n frames of a device overwritten. -/
def State.tgFill (s : State) (dev n : Nat) (t : TrafficGen) (rs : Tab Region) : State :=
  match rs with
  | [] => s
  | e :: rest =>
    (match Tab.find e.2.base dev with
     | none => s
     | some b =>
       s.tgRuns e.1 t (((List.range e.2.frames).filter (fun f => decide (b + f < n))).flatMap (e.2.runsIn dev))).tgFill dev n t rest

/-- TG_RUN_DONE: a run ends; a run with errors is a directed-test failure of the device (R335, R363). A run that was stopped has
written frames up to one that is not stated: their number is free (log 6). -/
def execTgRunDone (dev errors : Nat) (first : Word) (s : State) : Host.Outcome State Fault Refusal :=
  if 24 ≤ dev then .fault .noSuchUnit
  else
    let t := s.tgen dev
    if !t.go then .next s
    else
      let all := if t.frames = 0 then deviceFrames else t.frames.toNat
      let n := if t.stop then (Config.freeWord s.free).toNat % (all + 1) else all
      let s0 := s.draw (b2n t.stop)
      let s1 := if t.dir = 2 then s0 else ((s0.tgFill dev n t s.mem.regions).tgFree dev n t).tgRecipes dev n
      let s2 := (s1.setTgen dev { t with go := false, stop := false, first := if errors = 0 then 0xFFFFFFFF else first }).count
        (cTgErr dev) errors
      .next (if errors = 0 then s2 else s2.dtFailure uGddr dev)

end Sys2Proof.Machine
end

