-- ==== Sys2Proof/Machine/Stash.lean ====
section
/-! DEFINITION. The Stockpots (R185 to R194, R203, R249): pushes with thinning and splitting, pops, and the traffic between head and
GDDR7. -/

namespace Sys2Proof.Machine

/-- A cluster's Stockpot with nothing in it. -/
def Stk.empty : Stk :=
  { frames := [], high := false, wrote := 0, low := 0, head := [] }

/-- A cluster's Stockpot. -/
def State.stkOf (s : State) (c : Nat) : Stk :=
  Tab.get s.stk c Stk.empty

/-- A cluster's Stockpot replaced. -/
def State.setStk (s : State) (c : Nat) (k : Stk) : State :=
  { s with stk := Tab.put s.stk c k }

/-- The end of a frame. -/
def StkFrame.top (f : StkFrame) : Nat :=
  match f.recs with
  | [] => f.start
  | r :: _ => r.off + r.len

/-- The top of the newest frame. -/
def Stk.top (k : Stk) : Nat :=
  match k.frames.getLast? with
  | some f => f.top
  | none => 0

/-- The fill in bytes: from the start of the oldest live frame to the top of the newest (R189). -/
def Stk.fill (k : Stk) : Nat :=
  match k.frames with
  | [] => 0
  | f :: _ => k.top - f.start

/-- The STOCKPOT region of a cluster in the running recipe (R231). -/
def State.stkRegion (s : State) (c : Nat) : Option Nat :=
  (s.cur.regions.find? (fun e => e.kind == 1 && e.index == c)).map (·.region)

/-- Bytes of a cluster's Stockpot region. -/
def State.stkSize (s : State) (c : Nat) : Nat :=
  match s.stkRegion c with
  | some r => s.regionBytes r
  | none => 0

/-- The fill of a cluster in 1/256 of its region, for comparison with a threshold: fill ≥ t/256 of the region (R189, R190). -/
def State.stkAbove (s : State) (c t : Nat) : Bool :=
  decide (t * s.stkSize c ≤ 256 * (s.stkOf c).fill) && decide (0 < s.stkSize c)

/-- Whether the fill of the device, the highest among its clusters, is at or above HARD (R189, R190). -/
def State.stkHard (s : State) : Bool :=
  (List.range 16).any (fun c => s.stkAbove c s.cur.head.stkHard)

/-- STASH_HIGH where a fill rises to HIGH, and its re-arming below HIGH − 0x10 (R189). -/
def State.noteHigh (s : State) (c : Nat) : State :=
  let k := s.stkOf c
  if s.stkAbove c s.cur.head.stkHigh then
    if k.high then s else (s.setStk c { k with high := true }).raise 0x8001 []
  else if k.high && !s.stkAbove c (s.cur.head.stkHigh - 0x10) then s.setStk c { k with high := false }
  else s

/-! ### Storage: offsets wrap in the region -/

/-- The runs a byte range takes in a region that wraps. -/
def wrapRuns (size off n : Nat) : List (Nat × Nat) :=
  if size = 0 then []
  else
    let a := off % size
    let m := min n (size - a)
    if m = n then [(a, n)] else [(a, m), (0, n - m)]

/-- Bytes of a Stockpot's region. -/
def State.stkStored (s : State) (c off n : Nat) : List Byte :=
  match s.stkRegion c with
  | some r => (wrapRuns (s.stkSize c) off n).flatMap (fun x => s.regRead true r x.1 x.2)
  | none => []

/-- Bytes of a Stockpot: those the head does not hold lie in the region (R188). -/
def State.stkRead (s : State) (c off n : Nat) : List Byte :=
  let k := s.stkOf c
  let m := min n (k.low - off)
  s.stkStored c off m ++ Mem.read k.head (off + m) (n - m)

/-- Bytes pushed into the head. -/
def Stk.put (k : Stk) (off : Nat) (bs : List Byte) : Stk :=
  { k with head := Mem.write k.head off bs }

/-- Head bytes outside the part the head holds let go. -/
def Stk.cut (k : Stk) : Stk :=
  { k with head := k.head.filter (fun b => decide (k.low ≤ b.1) && decide (b.1 < k.top)) }

/-- Bytes fetched from the region so that the head holds the frames from an offset on (R188). -/
def State.fetchStk (s : State) (c : Nat) (k : Stk) (off : Nat) : Stk :=
  if off < k.low then
    Stk.cut { k with low := off, head := Mem.write k.head off (s.stkStored c off (min k.low k.top - off)) }
  else k.cut

/-- A Stockpot after a frame or record went: no more than whole units below the top count as written back, and the head holds all that is
above them (R188). -/
def State.settleStk (s : State) (c : Nat) (k : Stk) : State :=
  let w := min k.wrote (k.top / 2048 * 2048)
  s.setStk c { s.fetchStk c k w with wrote := w }

/-! ### Records (R186) -/

/-- The first word of a header. -/
def headWord0 (layer mb : Nat) : Word := BitVec.ofNat 32 (layer * 65536 + mb)

/-- A record's header. -/
def recHeader (layer mb kind fmt slot units stored epoch : Nat) (elided : Bool) : List Byte :=
  wordBytes ([headWord0 layer mb, BitVec.ofNat 32 (kind * 2 ^ 28 + fmt * 2 ^ 24 + b2n elided * 2 ^ 23 + slot), wd units,
    wd stored, wd epoch] ++ List.replicate 11 0)

/-- Whether a unit holds only zeros. -/
def blankUnit (u : List Byte) : Bool := u.all (fun b => b == 0)

/-- Bytes of a presence bitmap of so many units (R186). -/
def bitmapBytes (units : Nat) : Nat := cdiv units 512 * 64

/-- A record's bytes: header, presence bitmap when elided, then the stored units. DESIGN CHOICE, log 132: unit i is bit i mod 8 of the bitmap's
byte i / 8. -/
def recBytes (layer mb kind fmt slot epoch : Nat) (elide : Bool) (units : List (List Byte)) : List Byte :=
  let kept := if elide then units.filter (fun u => !blankUnit u) else units
  recHeader layer mb kind fmt slot units.length kept.length epoch elide
    ++ (if elide then packCodes 1 (bitmapBytes units.length) (units.map (fun u => b2n (!blankUnit u))) else [])
    ++ kept.flatten

/-- The units of a record from its presence bits and stored bytes. -/
def restoreUnits (bits : List Nat) (bytes : List Byte) : List Byte :=
  match bits with
  | [] => []
  | b :: r => if b = 1 then bytes.take 256 ++ restoreUnits r (bytes.drop 256) else List.replicate 256 0 ++ restoreUnits r bytes

/-- A record's payload as a pop restores it. -/
def recPayload (bs : List Byte) : List Byte :=
  let w := leWords 4 bs
  let units := (w.getD 2 0).toNat
  let stored := (w.getD 3 0).toNat
  let rest := bs.drop 64
  if (w.getD 1 0).getLsbD 23 then
    restoreUnits (codesOf 1 units rest) ((rest.drop (bitmapBytes units)).take (256 * stored))
  else rest.take (256 * units)

/-! ### PUSH -/

/-- Fields of PUSH and POP (R249). -/
def pKind (d : Desc) : Nat := Desc.f d 10 31 28
def pFmt (d : Desc) : Nat := Desc.f d 10 27 24
def pElide (d : Desc) : Bool := Desc.flag d 10 23
def pSlot (d : Desc) : Nat := Desc.f d 10 15 0
def pUnits (d : Desc) : Nat := (Desc.word d 11).toNat
def pMb (d : Desc) : Nat := Desc.f d 12 15 0

/-- The thinning decision at the first push of a re-computable segment of a micro-batch (R190). The halves of a split micro-batch keep it.
DESIGN CHOICE, log 109. -/
def State.decideThin (s : State) (mb layer : Nat) : State :=
  let seg := s.segOf layer
  if !s.recomputable layer || s.stp.raised.contains (4, mb * 65536 + seg) then s
  else
    let s1 := s.mark 4 (mb * 65536 + seg)
    let old := s1.stp.thinMb.contains mb
    if old || s1.stkHard then
      let s2 := if old then s1
        else ({ s1 with stp := { s1.stp with thinMb := mb :: s1.stp.thinMb } }).raise 0x8003 []
      ({ s2 with stp := { s2.stp with thinSegs := (mbKey s.stp.step mb, seg) :: s2.stp.thinSegs } }).count cStkThin 1
    else s1

/-- Whether a push goes ahead: in a thinned segment only the CHECKPOINT, in a re-computable one that is not thinned everything
else (R190). -/
def State.pushes (s : State) (mb layer kind : Nat) : Bool :=
  !s.recomputable layer || (s.thinned (mbKey s.stp.step mb) layer == (kind == 3))

/-- The frame a pop takes from: the oldest live one of its micro-batch's number (log 108). -/
def Stk.frameOf (k : Stk) (mb : Nat) : Option StkFrame :=
  k.frames.find? (fun f => f.mb == mb)

/-- Frames freed on one cluster. -/
def State.dropFrom (s : State) (c : Nat) (p : StkFrame → Bool) : State :=
  let k := s.stkOf c
  if k.frames.any p then (s.settleStk c { k with frames := k.frames.filter (fun f => !p f) }).noteHigh c else s

/-- A micro-batch's frames freed on every cluster (R193). -/
def State.dropFrames (s : State) (p : StkFrame → Bool) : State :=
  (List.range 16).foldl (fun t c => t.dropFrom c p) s

/-- How a micro-batch has been split in the step. -/
def State.splitOf (s : State) (mb : Nat) : Option MbSplit :=
  s.stp.splits.find? (fun x => x.mb == mb)

/-- How often it has been split. -/
def State.splitCount (s : State) (mb : Nat) : Nat :=
  ((s.splitOf mb).map (·.count)).getD 0

/-- The most rows that the descriptors of a micro-batch give it, by a count of each; the split reserve's do not count. -/
def State.rowsBy (s : State) (mb : Nat) (f : Desc → Nat) : Nat :=
  (s.cur.descs.map (fun d => if s.mbOf d ≠ some mb ∨ s.kindOf d = 8 then 0 else f d)).foldl max 0

/-- The rows of a micro-batch: the vectors of its products or the rows of its loss, the most there are; where it has neither, the rows P of its
forward products on the digital arrays, and 0 where it has none of those (log 41). -/
def State.mbRows (s : State) (mb : Nat) : Nat :=
  let n := s.rowsBy mb (fun d => if Desc.opcode d = 0x10 then ampNvec d else if Desc.opcode d = 0x37 then (Desc.word d 11).toNat else 0)
  if n = 0 then s.rowsBy mb (fun d => if Desc.opcode d = 0x20 ∧ s.kindOf d = 0 then Desc.f d 11 31 16 else 0) else n

/-- Half A, the first rows rounded up, and half B, the rest (R193). -/
def halvesOf (p : Nat × Nat) : List (Nat × Nat) :=
  [(cdiv p.1 2, p.2 + 1), (p.1 / 2, p.2 + 1)]

/-- The part of a micro-batch that runs: all of it until it is split. -/
def State.partOf (s : State) (mb : Nat) : Nat × Nat :=
  match s.splitOf mb with
  | some x => x.parts.getD x.cur (s.mbRows mb, 0)
  | none => (s.mbRows mb, 0)

/-- A micro-batch with the part that runs split in two (R193, R194). -/
def State.addSplit (s : State) (mb : Nat) : State :=
  let x : MbSplit := (s.splitOf mb).getD { mb := mb, count := 0, parts := [(s.mbRows mb, 0)], cur := 0 }
  let y : MbSplit := { x with count := x.count + 1, parts := x.parts.take x.cur ++ halvesOf (s.partOf mb) ++ x.parts.drop (x.cur + 1) }
  ({ s with stp := { s.stp with splits := y :: s.stp.splits.filter (fun e => e.mb != mb) } }).count cStkSplit 1

/-- A part of a split micro-batch is over when its last frame is freed: the next one runs (R194, log 41). -/
def State.nextPart (s : State) (mb : Nat) : State :=
  if s.stk.any (fun e => e.2.frames.any (fun f => f.mb == mb && f.step == s.stp.step)) then s
  else { s with stp := { s.stp with splits := s.stp.splits.map (fun e =>
    if e.mb = mb ∧ e.cur + 1 < e.parts.length then { e with cur := e.cur + 1 } else e) } }

/-- Whether a part is an eighth of the original or a single row (R194). -/
def leastPart (p : Nat × Nat) : Bool :=
  decide (3 ≤ p.2) || p.1 == 1

/-- The reserve slots of a micro-batch that have started: a half that is dropped runs no more of them (R193, R194). -/
def State.closeHalf (s : State) (mb : Nat) : State :=
  { s with stp := { s.stp with offSlots := s.stp.offSlots ++ ((s.stp.slotsOn.filter (fun n =>
      ((s.cur.slots[n]?).map (·.kind)).getD 0 == 8)).map (fun n => (mb, n))) } }

/-- Descriptors that do not run. -/
def State.finishAll (s : State) (l : List Nat) : State :=
  match l with
  | [] => s
  | n :: r => (s.finish n).finishAll r

/-- A micro-batch, or a half of it in the reserve, that drops what it has and runs no further: its descriptors in the slots that have started
are passed over (R193). -/
def State.dropMb (s : State) (mb : Nat) : State :=
  let s1 := s.dropFrames (fun f => f.mb == mb && f.step == s.stp.step)
  let k := mbKey s.stp.step mb
  let s2 := if s1.stp.drops.contains k then s1.closeHalf mb else { s1 with stp := { s1.stp with drops := s1.stp.drops ++ [k] } }
  s2.finishAll ((s2.cur.descs.filter (fun d => s2.stp.slotsOn.contains (Desc.slot d) && !s2.stp.done.contains d.num && s2.mbOf d == some mb
    && s2.dropped d)).map (·.num))

/-- Whether a reserve slot that may run a micro-batch's parts has still to start. -/
def State.reserveLeft (s : State) (mb : Nat) : Bool :=
  (s.cur.slots.zipIdx).any (fun x => x.1.kind == 8 && (x.1.mb == mb || x.1.mb == 0xFFFF)
    && !s.stp.slotsOn.contains x.2 && !s.stp.skipped.contains x.2)

/-- A split takes its place in the reserve, and a half that splits again keeps that place; where the reserve is used up, the step is replayed
with the micro-batch split (R194, log 41). -/
def State.takeReserve (s : State) (mb depth : Nat) : State :=
  if depth = 0 then
    if s.stp.reserveUsed < s.cur.head.splitReserve then { s with stp := { s.stp with reserveUsed := s.stp.reserveUsed + 1 } }
    else s.cause 8
  else if s.reserveLeft mb then s
  else s.cause 8

/-- STASH_FULL (R193, R194): raised with layer, micro-batch and fill, and FATAL at an eighth or a single row; the frame is freed and the
micro-batch dropped. It runs again as halves in the reserve; with the reserve used up the step is replayed with the micro-batch split; at
the least part the step fails. -/
def State.stashFull (s : State) (d : Desc) (c : Nat) : State :=
  let mb := pMb d
  let part := s.partOf mb
  let fatal := leastPart part
  let fill := (s.stkOf c).fill
  let s1 := (s.raise 0x8002 [wd (Desc.layer d), wd mb, wd fill, wd (fill / 2 ^ 32), wd (b2n fatal)]).dropMb mb
  if fatal then s1.fail 5
  else ((s1.addSplit mb).takeReserve mb part.2).drainMb (mbKey s.stp.step mb)

/-- A record placed on top of the newest frame where that is its micro-batch's, else of a frame that opens with it (R185). -/
def Stk.push (k : Stk) (mb step : Nat) (r : StkRec) (bs : List Byte) : Stk :=
  let frames := match k.frames.getLast? with
    | some f =>
      if f.mb = mb ∧ f.step = step then k.frames.dropLast ++ [{ f with recs := r :: f.recs }]
      else k.frames ++ [{ mb := mb, step := step, start := r.off, recs := [r] }]
    | none => [{ mb := mb, step := step, start := r.off, recs := [r] }]
  ({ k with frames := frames }).put r.off bs

/-- The epoch tag of a micro-batch of the step, or the committed epoch (R198). -/
def State.mbEpoch (s : State) (mb : Nat) : Nat :=
  Tab.get s.stp.tags (mbKey s.stp.step mb) s.upd.epoch

/-- Canonical NaNs in so many bytes of a format, whole elements of it (R66, R173). -/
def State.nanRun (s : State) (f n : Nat) : List Byte :=
  let k := max 1 (fmtBytes f 1)
  (nanBytes s.free f (cdiv n k) ++ List.replicate n 0).take n

/-- The bytes a PUSH stores; in a recipe without steps a record that was read with an uncorrectable word holds canonical NaNs (R173). -/
def State.pushBytes (s : State) (d : Desc) (bad : Bool) : List Byte :=
  recBytes (Desc.layer d) (pMb d) (pKind d) (pFmt d) (pSlot d) (s.mbEpoch (pMb d)) (pElide d)
    (chunk 256 (pUnits d) (if bad then s.nanRun (pFmt d) (256 * pUnits d) else s.opRead (Desc.home d) (Desc.opA d) (256 * pUnits d)))

/-- PUSH on the state; a recompute pushes nothing (R191). -/
def State.pushOp (s : State) (d : Desc) (bad : Bool) : State :=
  let c := Desc.home d / 8
  let s1 := s.decideThin (pMb d) (Desc.layer d)
  if s.kindOf d = 9 then s
  else if !s1.pushes (pMb d) (Desc.layer d) (pKind d) then s1
  else
    let bs := s1.pushBytes d bad
    let k := s1.stkOf c
    let base := (k.frames.head?.map (·.start)).getD k.top
    if s1.stkSize c < k.top + bs.length - base then s1.stashFull d c
    else
      let r : StkRec := { layer := Desc.layer d, kind := pKind d, slot := pSlot d, off := k.top, len := bs.length }
      let s2 := (s1.setStk c (k.push (pMb d) s1.stp.step r bs)).noteHigh c
      if bad then (if hasNan (pFmt d) then s2.nanResult d.num else s2).draw (256 * pUnits d) else s2

/-- PUSH (descriptor 0x50). -/
def execPush (d : Desc) (e : Env) (s : State) : Host.Outcome State Fault Refusal :=
  .next (s.runDesc 0x50 d e (fun t => t.pushOp d (!s.train && e.storeUe.isSome)))

/-! ### POP -/

/-- Whether a pop has nothing to take: the records of a thinned segment were rebuilt in the cluster store, and an unthinned one has
no CHECKPOINT (R190, R191). -/
def State.popIdle (s : State) (d : Desc) (inst : Nat) : Bool :=
  s.recomputable (Desc.layer d) && (s.thinned inst (Desc.layer d) != (pKind d == 3))

/-- The micro-batch a pop is of: that of the frame it takes from, else the one it works for. -/
def State.popInst (s : State) (d : Desc) : Nat :=
  match (s.stkOf (Desc.home d / 8)).frameOf (pMb d) with
  | some f => mbKey f.step f.mb
  | none => (s.instOf d).getD 0

/-- A frame's top record taken off; the frame is freed at its last pop (R185). -/
def Stk.pop (k : Stk) (mb : Nat) : Stk :=
  match k.frameOf mb with
  | none => k
  | some f =>
    let f' := { f with recs := f.recs.drop 1 }
    { k with frames := if f'.recs.isEmpty then k.frames.erase f else k.frames.map (fun g => if g = f then f' else g) }

/-- Whether a record's header is the one a pop expects (R187). -/
def headerOk (d : Desc) (bs : List Byte) : Bool :=
  let w := leWords 2 bs
  w.getD 0 0 == headWord0 (Desc.layer d) (pMb d) && fld (w.getD 1 0) 31 28 == pKind d && fld (w.getD 1 0) 15 0 == pSlot d

/-- STASH_ORDER: the attempt fails and is replayed (R187). -/
def State.stashOrder (s : State) : State :=
  (s.raise 0x8004 []).cause 8

/-- A segment recomputed, counted once for a micro-batch (R202). -/
def State.noteRecomp (s : State) (inst seg : Nat) : State :=
  let key := inst * 65536 + seg
  if s.stp.raised.contains (6, key) then s else (s.mark 6 key).count cStkRecomp 1

/-- Reads of runs of the region, against the frame costs (R318). -/
def State.stkLoads (s : State) (r : Nat) (runs : List (Nat × Nat)) : State :=
  match runs with
  | [] => s
  | x :: rest => (s.account r x.1 x.2 false).stkLoads r rest

/-- The marked codewords in runs of the region (R323). -/
def State.stkPoison (s : State) (r : Nat) (runs : List (Nat × Nat)) : List (Nat × Nat) :=
  runs.flatMap (fun x => s.poisonIn r x.1 x.2)

/-- The runs of a record that the head does not hold. -/
def State.loadRuns (s : State) (c off n : Nat) : List (Nat × Nat) :=
  wrapRuns (s.stkSize c) off (min n ((s.stkOf c).low - off))

/-- What a pop reads of a record's bytes from the region: their frame costs, and the marked codewords it meets, which replay a training
attempt; the flag says that there were some (R318, R323). -/
def State.loadRecord (s : State) (d : Desc) (c off n : Nat) : State × Bool :=
  match s.stkRegion c with
  | none => (s, false)
  | some r =>
    let runs := s.loadRuns c off n
    let ue := s.stkPoison r runs
    (((s.stkLoads r runs).meetUe (Desc.core d) ue), !ue.isEmpty)

/-- POP on the state: with an uncorrectable codeword in its record, its results in a recipe without steps are canonical NaNs (R323). -/
def State.popOp (s : State) (d : Desc) : State :=
  let c := Desc.home d / 8
  let inst := s.popInst d
  if s.popIdle d inst then s
  else
    match ((s.stkOf c).frameOf (pMb d)).bind (fun f => f.recs.head?) with
    | none => s.stashOrder
    | some r =>
      let bs := s.stkRead c r.off r.len
      if !headerOk d bs then s.stashOrder
      else
        let e := s.loadRecord d c r.off r.len
        let s0 := e.1.opWrite (Desc.home d) (Desc.opD d) ((recPayload bs).take (256 * pUnits d))
        let s1 := if e.2 && !s.train then s0.nanOut d (s.runExts d) else s0
        let s2 := ((s1.settleStk c ((s1.stkOf c).pop (pMb d))).noteHigh c).nextPart (pMb d)
        if pKind d = 3 then s2.noteRecomp inst (s.segOf (Desc.layer d)) else s2

/-- POP (descriptor 0x51): the core clocks it waited for its record are counted (R188). -/
def execPop (d : Desc) (e : Env) (s : State) : Host.Outcome State Fault Refusal :=
  .next (s.runDesc 0x51 d e (fun t => (t.popOp d).count cStkPopWait e.popWait))

/-! ### Head and GDDR7 (R188) -/

/-- What the cluster's store and the memory report of traffic between head and region (R173, R323). -/
def State.stkErrors (s : State) (cluster : Nat) (e : Env) (ue : List (Nat × Nat)) : State :=
  ((((s.storeCes (8 * cluster) e.storeCe).storeUe (8 * cluster) e.storeUe).memCe e.mem.ce).meetUe 0xFF ue)

/-- POP_PREFETCH: bytes below those the head holds, down to the oldest frame's start, are fetched from the region into the head (R188). Where a
word proves uncorrectable nothing is fetched: the pop that needs it meets it (R173, R323). -/
def execPopPrefetch (cluster bytes : Nat) (e : Env) (s : State) : Host.Outcome State Fault Refusal :=
  if 16 ≤ cluster then .fault .noSuchUnit
  else
    match s.stkRegion cluster with
    | none => .next s
    | some r =>
      let k := s.stkOf cluster
      let n := min bytes (k.low - (k.frames.head?.map (·.start)).getD k.low)
      let runs := wrapRuns (s.stkSize cluster) (k.low - n) n
      let ue := e.mem.ue ++ (s.stkPoison r runs).filter (fun m => !e.mem.ue.contains m)
      let s1 := (s.stkLoads r runs).stkErrors cluster e ue
      .next (if ue.isEmpty && e.storeUe.isNone then s1.setStk cluster (s.fetchStk cluster k (k.low - n)) else s1)

/-- Bytes written back: whole 2,048-byte units that lie more than half the head below the top, at most as many as asked. -/
def State.writebackLen (s : State) (c bytes : Nat) : Nat :=
  let k := s.stkOf c
  let limit := (k.top - s.cur.head.stkHead * 262144 / 2) / 2048 * 2048
  min (limit - k.wrote) (bytes / 2048 * 2048)

/-- Runs of bytes copied to the region. -/
def State.stkStore (s : State) (r : Nat) (runs : List (Nat × Nat)) (bs : List Byte) : State :=
  match runs with
  | [] => s
  | x :: rest => ((s.regWrite r x.1 (bs.take x.2)).account r x.1 x.2 true).stkStore r rest (bs.drop x.2)

/-- STASH_WRITEBACK: frame bytes go to GDDR7; none where the head's word proves uncorrectable, which it keeps (R173, R188). -/
def execStashWriteback (cluster bytes : Nat) (e : Env) (s : State) : Host.Outcome State Fault Refusal :=
  if 16 ≤ cluster then .fault .noSuchUnit
  else
    match s.stkRegion cluster with
    | none => .next s
    | some r =>
      let k := s.stkOf cluster
      let n := s.writebackLen cluster bytes
      let s0 := s.stkErrors cluster e e.mem.ue
      let s1 := s0.stkStore r (wrapRuns (s.stkSize cluster) k.wrote n) (Mem.read k.head k.wrote n)
      .next (if e.storeUe.isSome then s0
        else s1.setStk cluster (Stk.cut { k with wrote := k.wrote + n, low := max k.low (k.wrote + n) }))

end Sys2Proof.Machine
end

