-- ==== Sys2Proof/Machine/Values.lean ====
section
/-! DEFINITION. The words the module's registers, records and pages hold: pure functions of the state (R118, R119, R127, R150 to R156,
R203, R204, R224 to R226, R260, R288, R312, R313, R331 to R335, R339 to R341, R361, R386, R387, R407 to R409, R420, R426, R433 to
R435). -/

namespace Sys2Proof.Machine

/-! ### Host interface and recipes -/

/-- HIF_ID (R339). -/
def hifId : Word := 0x71010101

/-- HIF_STAT (R339, R350). -/
def State.hifStat (s : State) : Word :=
  at_ (b2n s.hif.ready) 31 ||| at_ (b2n s.sbm.lockPower) 30 ||| at_ (b2n s.sbm.lockSecurity) 29 ||| at_ s.pwr.idle 20
    ||| at_ s.hif.state.code 12

/-- EVT_RCP_STAT.STATE (R260). -/
def RunState.code (r : RunState) : Nat :=
  match r with
  | .idle => 0
  | .running => 1
  | .stopping => 2
  | .failed => 3

/-- Recipe slots that hold a loaded recipe, as a mask. -/
def State.loadedMask (s : State) : Nat :=
  ((List.range 4).map (fun h => b2n (s.recipe h).isSome * 2 ^ h)).foldl (· + ·) 0

/-- EVT_RCP_STAT (R260). -/
def State.rcpStat (s : State) : Word :=
  at_ s.rcp.state.code 30 ||| at_ (s.rcp.handle % 4) 28 ||| at_ s.loadedMask 16 ||| at_ (s.stp.beat % 65536) 0

/-! ### Power (R407 to R409) -/

/-- PWR_STAT.SUPPLY. -/
def Supply.code (x : Supply) : Nat :=
  match x with
  | .normal => 1
  | .brace => 2
  | .ovWarn => 3
  | .starting => 4

/-- PWR_STAT. -/
def State.pwrStat (s : State) : Word :=
  at_ s.pwr.supply.code 28 ||| at_ s.pwr.idle 25 ||| at_ (b2n (decide (s.pwr.duty < 8))) 24 ||| at_ s.pwr.duty 20
    ||| at_ s.pwr.stretchReq 16 ||| at_ s.pwr.therm 12

/-- PWR_TEMP_DIE: MAX is the hottest of the three dies. -/
def State.tempDie (s : State) : Word :=
  let b (t : Int) : Nat := sByte (wholeDegrees t)
  at_ (b (max (max s.pwr.cd0 s.pwr.cd1) s.pwr.iod)) 24 ||| at_ (b s.pwr.iod) 16 ||| at_ (b s.pwr.cd1) 8 ||| at_ (b s.pwr.cd0) 0

/-- PWR_TEMP_COOL. -/
def State.tempCool (s : State) : Word :=
  at_ (sByte (wholeDegrees s.pwr.outlet)) 8 ||| at_ (sByte (wholeDegrees s.pwr.inlet)) 0

/-! ### Links (R288, R312, R313) -/

/-- LNK_PORT_STAT.STATE. -/
def PortState.code (x : PortState) : Nat :=
  match x with
  | .disabled => 0
  | .training => 1
  | .up => 2
  | .degraded => 3
  | .down => 4
  | .miswired => 5
  | .sealMismatch => 6

/-- LNK_PORT_STAT_p. -/
def State.portStat (s : State) (p : Nat) : Word :=
  let x := s.port p
  at_ x.state.code 28 ||| at_ x.lanes.toNat 22 ||| at_ (b2n (s.sec.rsealed.getLsbD p)) 21 ||| at_ (x.partner % 1024) 11
    ||| at_ (x.pport % 8) 8

/-- LNK_LADLE_STAT_p: 512 lanes and the spare, as the unit history holds them. -/
def State.ladleStat (s : State) (p : Nat) : Word :=
  let quar := (s.quarLanes p).length
  let spare := b2n (s.spareServes p)
  at_ quar 11 ||| at_ spare 10 ||| at_ (512 - quar + spare) 0

/-- LNK_BEAT_STAT. -/
def State.beatStat (s : State) : Word :=
  at_ (s.lnk.master % 1024) 22 ||| at_ (b2n (s.lnk.domain && s.lnk.master == s.device)) 21 ||| at_ (b2n s.lnk.flywheel) 20
    ||| at_ (s.lnk.stretch % 16) 16 ||| at_ (s.lnk.period % 1024) 0

/-- LNK_DOMAIN. -/
def State.domainWord (s : State) : Word :=
  at_ (s.lnk.dimX - 1) 28 ||| at_ (s.lnk.dimY - 1) 25 ||| at_ (s.lnk.dimZ - 1) 22 ||| at_ (s.device % 1024) 0

/-! ### Arrays and calibration (R127, R150, R154, R155) -/

/-- ANA_ACC_STAT. -/
def State.accStat (s : State) : Word :=
  at_ (b2n s.ana.hotRef) 17 ||| at_ (b2n s.ana.coldRef) 16 ||| at_ s.ana.sctEpoch.toNat 0

/-- ANA_SCRUB_STAT_k; an absent core reads 0. -/
def State.scrubStat (s : State) (k : Nat) : Word :=
  let c := s.core k
  if s.isAbsent k then 0
  else at_ (if c.scrubbed then c.m.foldl max 0 else 0) 16 ||| at_ (c.overhead % 256) 8 ||| at_ c.late.toNat 4 ||| at_ c.band 0

/-- Whether any core runs in reference mode under CAL_LAG. -/
def State.anyLag (s : State) : Bool :=
  s.ana.cores.any (fun e => e.2.lagRef)

/-- CAL_STAT. -/
def State.calStat (s : State) : Word :=
  at_ s.cal.due.length 16 ||| at_ (b2n s.anyLag) 2 ||| at_ (b2n s.cal.rextFault) 1 ||| at_ (b2n (!s.cal.busy.isEmpty)) 0

/-- CAL_CMD. -/
def State.calCmd (s : State) : Word :=
  at_ (b2n (!s.cal.goCores.isEmpty)) 31 ||| s.cal.cmdCore.setWidth 32

/-- CAL_PEND_n. -/
def State.calPend (s : State) (n : Nat) : Word :=
  wd ((s.cal.due.filter (fun c => c / 32 == n)).map (fun c => 2 ^ (c % 32)) |>.foldl (· + ·) 0)

/-- The self-characterisation table, 32 KiB (R118, R119): an array never published reads STATUS UNCHARACTERISED. -/
def State.sctBytes (s : State) : List Byte :=
  (List.range 2048).flatMap (fun a => wordBytes (Tab.get s.ana.sct a [0, 0, 4, 0]))

/-! ### Memory (R203, R204, R331 to R335) -/

/-- MEM_STAT. -/
def State.memStat (s : State) : Word :=
  at_ (b2n s.mem.evac) 31 ||| at_ (s.mem.rate % 16) 24 ||| s.mem.trained.setWidth 32

/-- MEM_TEMP_d. -/
def State.memTemp (s : State) (d : Nat) : Word :=
  let t := Tab.get s.mem.temps d (0, 0)
  at_ t.1 16 ||| at_ (sByte (wholeDegrees t.2)) 0

/-- MEM_REGION_r, word 0 and word 1. -/
def State.regionWords (s : State) (r : Nat) : Word × Word :=
  match s.region r with
  | none => (0, 0)
  | some x => (at_ 1 31 ||| at_ (x.kind % 256) 10 ||| at_ (x.spread % 4) 8 ||| at_ (x.place % 32) 0, wd x.size)

/-- MEM_TG_CTL_d. -/
def State.tgCtl (s : State) (d : Nat) : Word :=
  let t := s.tgen d
  at_ (b2n t.go) 31 ||| at_ (b2n t.stop) 30 ||| at_ (b2n t.raw) 5 ||| at_ t.dir 3 ||| at_ t.pattern 0

/-- Whether the forward pass of a micro-batch of the step goes on: a descriptor of its FWD slots has still to run, or, where a part of it runs
in the split reserve, a push of the reserve. -/
def State.inForward (s : State) (mb : Nat) : Bool :=
  s.cur.descs.any (fun d => (s.kindOf d == 0 || (s.kindOf d == 8 && Desc.opcode d == 0x50 && (s.splitOf mb).isSome))
    && s.mbOf d == some mb && s.willRun d && !s.stp.done.contains d.num)

/-- MEM_STK_STAT_c: FILL in MiB, rounded up; THIN while the newest frame's micro-batch is in its forward pass and thins. -/
def State.stkStat (s : State) (c : Nat) : Word :=
  let k := s.stkOf c
  let thin := match k.frames.getLast? with
    | some f => f.step == s.stp.step && s.stp.thinMb.contains f.mb && s.inForward f.mb
    | none => false
  at_ (b2n thin) 31 ||| at_ (b2n (s.stkAbove c s.cur.head.stkHigh)) 30 ||| at_ (k.frames.length % 64) 24
    ||| at_ (cdiv k.fill 1048576 % 65536) 0

/-- MEM_EPOCH_STAT. -/
def State.epochStat (s : State) : Word :=
  at_ (b2n s.stp.fenceWait) 31 ||| at_ (s.mem.live.length % 8) 0

/-- MEM_EPOCH_OLDEST. -/
def State.epochOldest (s : State) : Word :=
  match s.mem.live with
  | [] => 0
  | e :: r => wd (r.foldl min e)

/-- Micro-batches tagged with an epoch and not yet drained (R198). -/
def State.pendingOf (s : State) (e : Nat) : Nat :=
  (s.stp.pendMb.filter (fun p => p.2 == e)).length

/-- MEM_EPOCH_SLOT_s. -/
def State.epochSlotWord (s : State) (k : Nat) : Word :=
  match Tab.find s.mem.slotEpoch k with
  | none => 0
  | some e => at_ (e % 65536) 16 ||| at_ (s.pendingOf e % 65536) 0

/-! ### Faults (R386, R387) -/

/-- Whether a logical core is absent, or an array is SHORT and no other took its block (R386). -/
def State.shortOfUnits (s : State) : Bool :=
  !s.flt.absent.isEmpty || s.ana.arrays.any (fun e => e.2.status == 2 && e.2.moved.isNone)

/-- FLT_STAT. -/
def State.fltStat (s : State) : Word :=
  at_ (b2n s.flt.fatal) 31 ||| at_ (b2n s.shortOfUnits) 30 ||| at_ (b2n s.flt.localising) 29 ||| at_ (s.flt.patterns.length % 512) 16
    ||| at_ (s.sparesLeft 1).length 4 ||| at_ (s.sparesLeft 0).length 0

/-! ### Recorder (R420, R433) -/

/-- The sixteen words of a record. -/
def Record.words (r : Record) : List Word :=
  [wd r.seq, BitVec.ofNat 32 (r.code * 65536 + r.prio * 2 ^ 14 + b2n r.storm * 2 ^ 13 + b2n r.relay * 2 ^ 12 + r.device % 1024),
   wd (r.hours / 65536), BitVec.ofNat 32 (r.hours % 65536 * 65536 + r.srcSeq % 65536), at_ (r.pcycle % 2 ^ 24) 8, wd r.beat,
   wd (r.beat / 2 ^ 32)] ++ (r.payload ++ List.replicate 9 0).take 9

/-- The record of the first area at an index. -/
def State.firstRec (s : State) (i : Nat) : Option Record :=
  s.evt.first[i]?

/-- The record of the circulating area that holds a sequence's slot: written to NVM, or still in the page buffer (R417). -/
def State.circRec (s : State) (q : Nat) : Option Record :=
  match s.evt.page.find? (fun r => r.seq % 65536 == q % 65536) with
  | some r => some r
  | none => Tab.find s.evt.circ (q % 65536)

/-- EVT_REC_DATA_n (R422, R433). -/
def State.recData (s : State) (n : Nat) : Word :=
  let i := fld s.evt.sel 30 0
  let r := if s.evt.sel.getLsbD 31 then s.circRec i else s.firstRec i
  match r with
  | none => 0
  | some x => x.words.getD n 0

/-! ### Security (R434) -/

/-- Recipe key slots that hold a key, as a mask. -/
def State.keyMask (s : State) : Nat :=
  ((List.range 4).map (fun k => b2n (Tab.find s.sec.keys k).isSome * 2 ^ k)).foldl (· + ·) 0

/-- SEC_STAT. -/
def State.secStat (s : State) : Word :=
  at_ (s.sec.debug % 16) 28 ||| at_ (b2n s.sec.owner.isSome) 27 ||| at_ (b2n s.sec.fwB) 26 ||| at_ (b2n s.sec.failover) 25
    ||| at_ s.sec.rsealed.toNat 4 ||| at_ s.keyMask 0

/-- SEC_FW_VER of a copy. -/
def FwCopy.word (c : FwCopy) : Word :=
  at_ c.svn.toNat 16 ||| at_ c.build.toNat 0

/-! ### The management port (R435) -/

/-- SBM_STAT. -/
def State.sbmStat (s : State) : Word :=
  at_ s.sbm.eid.toNat 24 ||| at_ (b2n s.sbm.i3c) 23 ||| at_ s.sbm.addr.toNat 20 ||| at_ (b2n s.pwr.pwrgood) 19
    ||| at_ (b2n s.sbm.session) 18

/-- SBM_LOCK. -/
def State.sbmLock (s : State) : Word :=
  at_ (b2n s.sbm.lockSecurity) 1 ||| at_ (b2n s.sbm.lockPower) 0

/-! ### Telemetry (R426) -/

/-- A sensor's value in its unit; none for a number that is no sensor. Sensors of the main side: true in the second place. No command
reports a sample of IIN, VBUS or TEMP_STAGE: their values are free (log 3). -/
def State.sensor (s : State) (id : Nat) : Option (Word × Bool) :=
  if id = 1 then some (s.pwr.vin, false)
  else if id = 2 then some (Config.sensorReading 2 s.free, false)
  else if id = 3 then some (s.pwr.pin, false)
  else if id = 4 then some (Config.sensorReading 4 s.free, true)
  else if id = 0x10 then some (sWord s.pwr.cd0, true)
  else if id = 0x11 then some (sWord s.pwr.cd1, true)
  else if id = 0x12 then some (sWord s.pwr.iod, true)
  else if id = 0x13 then some (Config.sensorReading 0x13 s.free, false)
  else if id = 0x14 then some (sWord s.pwr.inlet, false)
  else if id = 0x15 then some (sWord s.pwr.outlet, false)
  else if 0x20 ≤ id ∧ id ≤ 0x37 then some (sWord (Tab.get s.mem.temps (id - 0x20) (0, 0)).2, true)
  else if id = 0x40 then some (s.cal.rext, true)
  else if id = 0x50 then some (wd s.pwr.duty, true)
  else none

/-- The status word: 1 for a sensor that is unpowered. -/
def State.sensorStatus (s : State) (main : Bool) : Nat :=
  if main && !s.pwr.pwrgood then 1 else 0

/-- The sensors of R426, in the order of the table. -/
def sensorIds : List Nat :=
  [1, 2, 3, 4, 0x10, 0x11, 0x12, 0x13, 0x14, 0x15] ++ (List.range 24).map (0x20 + ·) ++ [0x40, 0x50]

/-- A sensor's entry: ID, status, value. -/
def State.sensorEntry (s : State) (id : Nat) : List Word :=
  match s.sensor id with
  | none => []
  | some v => [at_ (s.sensorStatus v.2) 16 ||| at_ id 0, v.1]

/-- The telemetry page: a head with SEQ, HOURS and BEAT, the entries, and zeros (R426, log 9). -/
def State.telemetryPage (s : State) : List Byte :=
  let head := [wd s.evt.seq, wd s.evt.hours, wd (s.evt.hours / 2 ^ 32), wd s.lnk.beat, wd (s.lnk.beat / 2 ^ 32)]
  let bs := wordBytes (head ++ List.replicate 11 0 ++ sensorIds.flatMap (fun i => s.sensorEntry i))
  bs ++ List.replicate (4096 - bs.length) 0

/-! ### Unit history (R361, R362) -/

/-- Units of a class (R360). -/
def unitCount (cls : Nat) : Nat :=
  if cls = 1 then 128 else if cls = 2 then 2048 else if cls = 3 then 2048 * 1040 else if cls = 4 then 128 * 16640
  else if cls = 5 then 256 else if cls = 6 then 16512 + 16 * 33 else if cls = 7 then 6 * 513 else if cls = 8 then 6
  else if cls = 9 then 36 else if cls = 0xA then 24 else if cls = 0xB then 136 else 0

/-- The words HISTORY_READ gives for a unit: a pooled unit without an entry has CLASS and UNIT alone. -/
def State.histWords (s : State) (cls unit : Nat) : List Word :=
  (s.histOf cls unit).words

end Sys2Proof.Machine
end

