-- ==== Sys2Proof/Machine/Recorder.lean ====
section
/-! DEFINITION. The event recorder behind its queue (R416 to R425, R453): numbering, the two areas, the page buffer, storm records
and LOG_STORM, the always-on buffer, and operating hours (R421). -/

namespace Sys2Proof.Machine

/-! ### Writing a record (R416 to R418) -/

/-- The page buffer's records in their slots of the circulating area. -/
def Recorder.flushPage (e : Recorder) : Recorder :=
  { e with circ := e.page.foldl (fun t r => Tab.put t (r.seq % 65536) r) e.circ, page := [] }

/-- A record put into both areas with the next sequence; a full buffer, or an ALARM record, goes to NVM at once. -/
def Recorder.put (e : Recorder) (r : Record) : Recorder :=
  let x := { r with seq := e.seq }
  let room := !e.firstFull && decide (e.first.length < 4096)
  let e1 := { e with seq := (e.seq + 1) % 2 ^ 32, page := e.page ++ [x],
                     first := if room then e.first ++ [x] else e.first,
                     firstFull := e.firstFull || decide (4096 ≤ e.first.length + 1) }
  if x.prio = 0 ∨ 64 ≤ e1.page.length then e1.flushPage else e1

/-- A record written: filling the first area raises REC_FIRST_FULL, and an ALARM record leaves in a PlatformEventMessage (R5, R411, R418). -/
def State.writeRecord (s : State) (r : Record) : State :=
  let s1 := { s with evt := s.evt.put r }
  let s2 := if r.prio = 0 then { s1 with sbm := { s1.sbm with pem := s1.sbm.pem ++ [{ r with seq := s.evt.seq }] } } else s1
  if s2.evt.firstFull && !s.evt.firstFull then s2.raise 0xD002 [] else s2

/-- Records written in order. -/
def State.writeRecords (s : State) (l : List Record) : State :=
  match l with
  | [] => s
  | r :: rest => (s.writeRecord r).writeRecords rest

/-- RECORD_WRITE: the recorder takes the oldest record of its queue; none with the main rails off, nor before the records of the always-on
buffer, which come first (R419). -/
def execRecordWrite (s : State) : Host.Outcome State Fault Refusal :=
  match s.evt.queue with
  | [] => .next s
  | r :: rest =>
    if s.pwr.pwrgood && s.evt.aonBuf.isEmpty then .next ({ s with evt := { s.evt with queue := rest } }.writeRecord r) else .next s

/-! ### The end of a beat (R424, R425) -/

/-- The record of a storm: the stamp of its first event, and the count, the last sequence and the unit's number in its class (R360, R453). -/
def Storm.record (t : Storm) : Record :=
  { t.first with storm := true, payload := [wd t.count, wd t.last, wd (t.unit % 2 ^ 22)] }

/-- The payload of LOG_STORM (R453). -/
def Recorder.stormWords (e : Recorder) : List Word :=
  (e.coal ++ e.drop).map wd ++ [at_ (e.carryBeats % 65536) 16 ||| at_ (b2n e.carried) 0]

/-- Whether a beat has anything for LOG_STORM to report. -/
def Recorder.stormy (e : Recorder) : Bool :=
  (e.coal ++ e.drop).any (fun n => decide (0 < n)) || e.carried

/-- The counts of a new beat: none, or those that a dropped LOG_STORM carries with that drop added. -/
def Recorder.newBeat (e : Recorder) (carry : Bool) : Recorder :=
  { e with seen := [], storms := [], srcSeq := 0, coal := if carry then e.coal else [0, 0, 0, 0],
           drop := if carry then bumpPrio e.drop 2 1 else [0, 0, 0, 0], carried := carry,
           carryBeats := if carry then e.carryBeats + 1 else 0 }

/-- LOG_STORM of a beat, put in the queue, or dropped there with its counts carried (R425). -/
def State.logStorm (s : State) : State :=
  if !s.evt.stormy then { s with evt := s.evt.newBeat false }
  else if 65535 < s.evt.srcSeq ∨ 921 < s.evt.queue.length then ({ s with evt := s.evt.newBeat true }).count cRecDrop 1
  else
    let r := s.mkRecord 0xD001 s.evt.stormWords
    { s with evt := ({ s.evt with queue := s.evt.queue ++ [r] }).newBeat false }

/-- The log of a beat closed: its storm records, kept beside the queue, are written ahead of the tick that ends it, and LOG_STORM joins the
queue (R424 step 3, R425). -/
def State.endBeatLog (s : State) : State :=
  (s.writeRecords (s.evt.storms.map Storm.record)).logStorm

/-- The last record of the always-on buffer, with the count of those it lost in W15 (R453). -/
def withLost (l : List Record) (n : Nat) : List Record :=
  if n = 0 then l
  else
    match l.getLast? with
    | none => l
    | some r => l.dropLast ++ [{ r with payload := (r.payload ++ List.replicate 9 0).take 8 ++ [wd n] }]

/-- What the page buffer held, then the always-on buffer's records in order, put into the recorder (R417, R419). -/
def State.openLog (s : State) : State :=
  let s1 := { s with evt := { s.evt.flushPage with aonBuf := [], aonLost := 0 } }
  s1.writeRecords (withLost s.evt.aonBuf s.evt.aonLost)

/-- The records still in the queue written. -/
def State.drainLog (s : State) : State :=
  { s with evt := { s.evt with queue := [] } }.writeRecords s.evt.queue

/-- The beat's log closed and the records still in the queue written, before the main rails go off; an always-on buffer that no firmware
has taken comes first (R419, log 120). -/
def State.closeLog (s : State) : State :=
  (if s.evt.aonBuf.isEmpty then s else s.openLog).endBeatLog.drainLog

/-- The always-on domain loses power: its buffers are lost, their records in the first area with them, SEQ goes on 64 past the last
record in NVM, and EVT_ALARM with them (R417, R433). -/
def Recorder.powerLoss (e : Recorder) : Recorder :=
  if e.page.isEmpty then { e with alarm := 0, aonBuf := [], aonLost := 0 }
  else
    let left := e.first.filter (fun r => !e.page.contains r)
    { e with alarm := 0, page := [], aonBuf := [], aonLost := 0, first := left, firstFull := e.firstFull && left.length == e.first.length,
             seq := (e.seq + 2 ^ 32 - e.page.length + 64) % 2 ^ 32 }

/-! ### Operating hours (R421) -/

/-- OPERATING_HOUR_TICK: 1/256 h of PWRGOOD has passed, and the count is saved. -/
def execOperatingHourTick (s : State) : Host.Outcome State Fault Refusal :=
  if s.pwr.pwrgood then
    .next { s with evt := { s.evt with hours := s.evt.hours + 256, savedHours := s.evt.hours + 256 } }
  else .next s

end Sys2Proof.Machine
end

