-- ==== Sys2Proof/Machine/Nvm.lean ====
section
/-! DEFINITION. The calibration and remap blocks in NVM: their bytes, their check words, and what the device loads from them (R143 to
R146). -/

namespace Sys2Proof.Machine

/-- CAL_FAIL, counted (R143, R156, R453). -/
def State.calFail (s : State) (unit : Nat) (words : List Word) : State :=
  (s.raiseU 0xC002 unit words).count cCalFail 1

/-! ### The calibration block (R144; log 93) -/

/-- A signed number in one byte, at the nearer end of its range where it is beyond it. -/
def byteOf (i : Int) : Byte :=
  BitVec.ofInt 8 (max (-128) (min 127 i))

/-- The entry of largest magnitude of a list. -/
def widest (l : List Int) : Int :=
  l.foldl (fun m x => if m.natAbs < x.natAbs then x else m) 0

/-- A converter's record: offset, gain and linearity correction in 4 bytes. -/
def ConvCal.record (c : ConvCal) : List Byte :=
  [byteOf c.offset, byteOf (c.gain - 6144)] ++ leBytes 2 (BitVec.ofInt 16 (widest c.lin)).toNat

/-- The converter of a record. -/
def recordCal (bs : List Byte) : ConvCal :=
  { offset := (bs.getD 0 0).toInt, gain := (bs.getD 1 0).toInt + 6144, lin := [(BitVec.ofNat 16 (leNat (bs.drop 2))).toInt] }

/-- A converter whose test points are all exact. -/
def idealCal : ConvCal :=
  { offset := 0, gain := 6144, lin := [] }

/-- Bytes of a calibration block without its check word: header, converter records, array records (R144). -/
def blockBody : Nat := 66848

/-- A core's calibration block without its check word (R144). -/
def State.blockOf (s : State) (core : Nat) : List Byte :=
  let c := s.core core
  wordBytes [wd core, wd (s.phys core), s.cal.epochCnt, sWord c.tempCal, sWord c.coef, wd c.runCount, 0, 0]
    ++ (List.range 16640).flatMap (fun u => (Tab.get s.cal.valsNext (core * 16640 + u) idealCal).record)
    ++ (List.range 16).flatMap (fun i =>
      wordBytes ((s.sctEntry (16 * core + i)).zipIdx.map (fun w => if w.2 = 2 then w.1 &&& 0xFFFFFF00 else w.1)))

/-- The block written to NVM, with its check word. -/
def State.writeBlock (s : State) (core : Nat) : State :=
  let body := s.blockOf core
  { s with cal := { s.cal with blk := Tab.put s.cal.blk core (body ++ leBytes 4 (crc32 body).toNat) } }

/-! ### Blocks loaded from NVM (R144 to R146) -/

/-- Whether a calibration block's check word agrees (R144). -/
def blockOk (bs : List Byte) : Bool :=
  decide (bs.length = blockBody + 4) && decide (leNat (bs.drop blockBody) = (crc32 (bs.take blockBody)).toNat)

/-- An array record of a block taken over (R119, R144). -/
def ArrayS.fromRecord (x : ArrayS) (w : List Word) : ArrayS :=
  let fig : ArrFig := { detBound := BitVec.ofNat 16 (fld (w.getD 0 0) 31 16), noise := BitVec.ofNat 16 (fld (w.getD 0 0) 15 0),
                        gainErr := BitVec.ofNat 16 (fld (w.getD 1 0) 31 16), offset := BitVec.ofNat 16 (fld (w.getD 1 0) 15 0) }
  { x with fig := fig, figOn := fig, calEpoch := w.getD 3 0, tempCal := (BitVec.ofNat 8 (fld (w.getD 2 0) 31 24)).toInt }

/-- A valid block put in use on the die: TEMP_CAL, coefficient, run count, the converters' values and the arrays' figures. -/
def State.useBlock (s : State) (core : Nat) (bs : List Byte) : State :=
  let h := leWords 8 bs
  let s1 := s.setCore core { s.core core with tempCal := (h.getD 3 0).toInt, coef := (h.getD 4 0).toInt, runCount := (h.getD 5 0).toNat }
  let recs := ((chunk 4 16640 (bs.drop 32)).map recordCal).zipIdx.map (fun e => (core * 16640 + e.2, e.1))
  let vals := (s1.cal.valsNext.filter (fun e => e.1 / 16640 != core))
  let s2 := { s1 with cal := { s1.cal with
    vals := recs.foldl (fun t e => if e.2 = { idealCal with lin := [0] } then t else Tab.put t e.1 e.2) vals,
    valsNext := recs.foldl (fun t e => if e.2 = { idealCal with lin := [0] } then t else Tab.put t e.1 e.2) vals } }
  (List.range 16).foldl (fun t i =>
    t.setArray (16 * core + i) ((t.array (16 * core + i)).fromRecord (leWords 4 (bs.drop (66592 + 16 * i))))) s2

/-- A calibration block that fails its check: the core is calibrated in full, from REXT, before any analogue product runs there (R146). -/
def State.badBlock (s : State) (core : Nat) : State :=
  let s1 := (s.calFail (uCore * 2 ^ 22 + core) [wd 3, wd core]).count cCalBlkBad 1
  (s1.setCore core { s1.core core with calBlock := true, banksDone := 0, gainSum := 0 }).makeDue core true

/-- A core's calibration block loaded: as NVM gives it, or as last written; nothing where none has been written (log 93). -/
def State.loadBlock (s : State) (core : Nat) (n : NvmRead) : State :=
  match (Tab.find n.cal core).orElse (fun _ => Tab.find s.cal.blk core) with
  | none => s
  | some bs => if blockOk bs then s.useBlock core bs else s.badBlock core

/-- The spares that a remap copy gives an array of its core (R145). -/
def copySpares (bs : List Byte) (i : Nat) : Tab Spare :=
  (List.range 16).filterMap (fun n =>
    let e := leNat ((bs.drop (4 + 32 * i + 2 * n)).take 2)
    if e / 2 ^ 14 = 0 then none else some (n, { row := e % 1024, inUse := e / 2 ^ 14 % 2 == 1, bad := e / 2 ^ 15 == 1 }))

/-- A core's spares as a valid copy gives them. -/
def State.useRemap (s : State) (core : Nat) (bs : List Byte) : State :=
  (List.range 16).foldl (fun t i =>
    let x := t.array (16 * core + i)
    t.setArray (16 * core + i) { x with spares := copySpares bs i, spareNext := [] }) s

/-- Rows that fail the directed row test (R136, R146). -/
def State.rowsFail (s : State) (a : Nat) (l : List Nat) : State :=
  match l with
  | [] => s
  | r :: rest => (s.rowFails a r false).rowsFail a rest

/-- Both remap copies of a core fail: every spare is taken as free, and the directed row test finds the bad spares and the rows that had
been remapped, which are remapped again (R146). -/
def State.badRemap (s : State) (core : Nat) : State :=
  (List.range 16).foldl (fun t i =>
    let a := 16 * core + i
    let old := (t.array a).nextSpares
    let t1 := t.setArray a { t.array a with spares := [], spareNext := [] }
    (t1.rowsFail a ((old.filter (fun e => e.2.bad)).map (fun e => dataRows + e.1))).rowsFail a
      ((old.filter (fun e => e.2.inUse && !e.2.bad)).map (fun e => e.2.row))) (s.calFail (uCore * 2 ^ 22 + core) [wd 4, wd core])

/-- A core's remap block loaded: the valid copy with the higher sequence number (R145, R146). -/
def State.loadRemap (s : State) (core : Nat) (n : NvmRead) : State :=
  match (Tab.find n.remap core).orElse (fun _ => Tab.find s.cal.remap core) with
  | none => s
  | some c =>
    match remapSeq c.1, remapSeq c.2 with
    | some a, some b => s.useRemap core (if a < b then c.2 else c.1)
    | some _, none => s.useRemap core c.1
    | none, some _ => s.useRemap core c.2
    | none, none => s.badRemap core

/-- The blocks of some cores loaded and checked (R146). -/
def State.loadBlocks (s : State) (n : NvmRead) (l : List Nat) : State :=
  match l with
  | [] => s
  | c :: r => (if s.isAbsent c then s else (s.loadRemap c n).loadBlock c n).loadBlocks n r

end Sys2Proof.Machine
end

