-- ==== Sys2Proof/Machine/Collectives.lean ====
section
/-! DEFINITION. Collectives and the Ladle (R261 to R288, R251): chunks, arcs and roles, the per-hop algorithm in T32, L8 and S1,
packets, residue conclusions, and the end of a collective. -/

namespace Sys2Proof.Machine

/-! ### Fields and extents -/

/-- Fields of a collective descriptor (R251). -/
def cVc (d : Desc) : Nat := Desc.f d 10 3 0
def cMode (d : Desc) : Nat := Desc.f d 10 7 4
def cPinned (d : Desc) : Bool := Desc.flag d 10 8
def cReplay (d : Desc) : Bool := Desc.flag d 10 9
def cN (d : Desc) : Nat := (Desc.word d 12).toNat
def cEst (d : Desc) : Nat := (Desc.word d 13).toNat

/-- The five collectives (R244, R265). -/
inductive CollKind where
  | allreduce
  | reduceScatter
  | allgather
  | broadcast
  | sendrecv
deriving DecidableEq, Repr

/-- Which collective a descriptor is. -/
def cKind (d : Desc) : CollKind :=
  if Desc.opcode d = 0x70 then .allreduce
  else if Desc.opcode d = 0x71 then .reduceScatter
  else if Desc.opcode d = 0x72 then .allgather
  else if Desc.opcode d = 0x73 then .broadcast
  else .sendrecv

/-- Whether a collective adds (R265). -/
def cReduces (d : Desc) : Bool :=
  cKind d == .allreduce || cKind d == .reduceScatter

/-- Whether a collective's L8 blocks take agreed exponents (R265, R279). -/
def cAgreed (d : Desc) : Bool :=
  cReduces d && cMode d == 1

/-- Elements of a unit (R271); a unit of SENDRECV is 1,024 bytes (log 23). -/
def cUnitElems (d : Desc) : Nat :=
  if cKind d = .sendrecv then 1024 else if cMode d = 0 then 256 else 1024

/-- Length of a chunk (R266). -/
def cLen (d : Desc) (n : Nat) : Nat :=
  if cReduces d then 1024 * cdiv (cN d) (1024 * max n 1) else cN d

/-- Chunks of a collective. -/
def cChunks (d : Desc) (n : Nat) : Nat :=
  if cReduces d || cKind d == .allgather then n else 1

/-- Bytes that a SENDRECV moves: those of N elements. -/
def cBytes (d : Desc) : Nat :=
  fmtBytes (if (Desc.opA d).isNone then Desc.opD d else Desc.opA d).fmt (cN d)

/-- Elements of chunk c that exist (R266); of a SENDRECV, its bytes. -/
def cSize (d : Desc) (n c : Nat) : Nat :=
  if cReduces d then min (cLen d n) (cN d - c * cLen d n) else if cKind d = .sendrecv then cBytes d else cN d

/-- Units of chunk c. -/
def cUnits (d : Desc) (n c : Nat) : Nat :=
  cdiv (cSize d n c) (cUnitElems d)

/-- Units of the summary of chunk c: 256 entries of 32 elements each (R271, R281). -/
def cSumUnits (d : Desc) (n c : Nat) : Nat :=
  cdiv (cSize d n c) 8192

/-- Elements of a unit that exist. -/
def cCount (d : Desc) (n c u : Nat) : Nat :=
  min (cUnitElems d) (cSize d n c - u * cUnitElems d)

/-- The index in D of the first element of a unit: a reduction's elements keep their index, ALLGATHER's lie in member order (R265,
R266, log 23). -/
def cIndex (d : Desc) (n c u : Nat) : Nat :=
  c * cLen d n + u * cUnitElems d

/-- The index of a unit's first element in the member's own A and error memory. -/
def cOwnIndex (d : Desc) (n c u : Nat) : Nat :=
  if cReduces d then cIndex d n c u else u * cUnitElems d

/-! ### Roles (R266 to R268) -/

/-- Members of arcs A and B besides the owner. -/
def arcA (n : Nat) : Nat := n / 2
def arcB (n : Nat) : Nat := (n - 1) / 2

/-- A member's role in a chunk. -/
inductive Role where
  | owner
  | hop (arcB far : Bool)
deriving DecidableEq, Repr

/-- The role of member `me` of n in the chunk that member `own` owns. -/
def roleOf (n me own : Nat) : Role :=
  if me = own then .owner
  else
    let k := (own + n - me) % n
    if k ≤ arcA n then .hop false (k == arcA n) else .hop true ((me + n - own) % n == arcB n)

/-- Who owns a chunk. -/
def cOwner (d : Desc) (c : Nat) : Nat :=
  if cChunks d 2 = 1 then 0 else c

/-- Every (chunk, unit) of a collective among n members. -/
def cAll (d : Desc) (n : Nat) : List (Nat × Nat) :=
  (List.range (cChunks d n)).flatMap (fun c => (List.range (cUnits d n c)).map (fun u => (c, u)))

/-- Every summary unit, its chunk counted on from n. -/
def cAllSums (d : Desc) (n : Nat) : List (Nat × Nat) :=
  if cAgreed d && cKind d == .reduceScatter then
    (List.range n).flatMap (fun c => (List.range (cSumUnits d n c)).map (fun u => (n + c, u)))
  else []

/-! ### The collective of a channel -/

/-- Members of a collective's group. -/
def CollS.n (x : CollS) : Nat := x.group.members.length

/-- The collective running on a VC. -/
def State.collOn (s : State) (vc : Nat) : Option CollS :=
  s.coll.running.find? (fun x => x.vc == vc)

/-- The collective of a VC replaced. -/
def State.setColl (s : State) (x : CollS) : State :=
  { s with coll := { s.coll with running := s.coll.running.map (fun y => if y.vc == x.vc then x else y) } }

/-- A change of the collective of a VC, where one runs. -/
def State.onColl (s : State) (vc : Nat) (f : CollS → CollS) : State :=
  match s.collOn vc with
  | none => s
  | some x => s.setColl (f x)

/-- The ports to the next and to the previous member of the ring (R262). -/
def CollS.next (x : CollS) : Nat := (x.group.members.getD x.me (0, 0, 0)).2.1
def CollS.prev (x : CollS) : Nat := (x.group.members.getD x.me (0, 0, 0)).2.2

/-- A byte string's residue (R272). -/
def payRes (bs : List Byte) : Byte :=
  BitVec.ofNat 8 (bs.foldl (fun a b => (a + b.toNat) % 255) 0)

/-- The eight words of a packet's header (R272). -/
def packetWords (p : Packet) : List Word :=
  [wd (p.desc % 2 ^ 22 * 2 ^ 10 + p.phase % 4 * 2 ^ 8 + p.mode % 16 * 2 ^ 4 + b2n p.legacy * 2 ^ 3 + b2n p.arcB * 2 ^ 2),
   wd (p.src % 1024 * 2 ^ 22 + p.chunk % 1024 * 2 ^ 12), wd p.unit, p.jobId, p.beat, p.payRes.setWidth 32, p.agreeCrc, 0]

/-- A packet's bytes: its header and its payload (R271). -/
def packetBytes (p : Packet) : List Byte :=
  wordBytes (packetWords p) ++ p.payload

/-- The packet that bytes hold (R272). -/
def packetOf (bs : List Byte) : Packet :=
  let w := leWords 8 (bs.take 32)
  let f (i hi lo : Nat) : Nat := fld (w.getD i 0) hi lo
  { desc := f 0 31 10, phase := f 0 9 8, mode := f 0 7 4, legacy := (w.getD 0 0).getLsbD 3, arcB := (w.getD 0 0).getLsbD 2,
    src := f 1 31 22, chunk := f 1 21 12, unit := f 2 31 0, jobId := w.getD 3 0, beat := w.getD 4 0,
    payRes := BitVec.ofNat 8 (f 5 7 0), agreeCrc := w.getD 6 0, payload := bs.drop 32 }

/-- A number that tells the packets of a beat apart for their acknowledgement on VC3 (R300, log 25). -/
def packetId (p : Packet) : Nat :=
  (p.desc * 2 ^ 10 + p.chunk) * 2 ^ 32 + p.unit

/-- The device a ring port of the group leads to. -/
def CollS.peer (x : CollS) (next : Bool) : Nat :=
  (x.group.members.getD (if next then (x.me + 1) % x.n else (x.me + x.n - 1) % x.n) (0, 0, 0)).1

/-- A packet of a collective handed to its ring port, toward the next or the previous member (R262, R263). -/
def State.sendPacket (s : State) (x : CollS) (next : Bool) (p : Packet) : State :=
  s.handTo (if next then x.next else x.prev)
    { src := s.device, dst := x.peer next, vc := x.vc, gen := s.lnk.gen, id := packetId p, data := packetBytes p, inPort := none,
      via := none, second := false }

/-- The packet of a unit that this member sends (R272). -/
def State.unitPacket (s : State) (x : CollS) (phase : Nat) (arc : Bool) (c u : Nat) (payload : List Byte) : Packet :=
  { desc := x.desc.num, phase := phase, mode := cMode x.desc, legacy := s.cur.head.legacy, arcB := arc,
    src := s.device, chunk := c, unit := u, jobId := s.cur.head.jobId, beat := wd s.lnk.beat,
    payRes := payRes payload, agreeCrc := x.crc, payload := payload }

/-- A unit sent. -/
def State.sendUnit (s : State) (x : CollS) (next : Bool) (phase : Nat) (arc : Bool) (c u : Nat) (payload : List Byte) : State :=
  s.sendPacket x next (s.unitPacket x phase arc c u payload)

/-- A unit, or a summary unit, that this member has dealt with. -/
def State.unitDone (s : State) (vc : Nat) (k : Nat × Nat) : State :=
  s.onColl vc (fun x => { x with doneUnits := if x.doneUnits.contains k then x.doneUnits else k :: x.doneUnits })

/-- A result sent along both gather arcs: toward m_(c−1) with arc A, toward m_(c+1) with arc B (R268). -/
def State.sendArcs (s : State) (x : CollS) (phase c u : Nat) (payload : List Byte) : State :=
  let s1 := if 0 < arcA x.n then s.sendUnit x false phase false c u payload else s
  if 0 < arcB x.n then s1.sendUnit x true phase true c u payload else s1

/-- A gathered packet passed on unchanged unless this member ends its arc (R268). -/
def State.forward (s : State) (x : CollS) (p : Packet) : State :=
  match roleOf x.n x.me (cOwner x.desc p.chunk) with
  | .owner => s
  | .hop arc far => if far then s else s.sendPacket x arc p

/-! ### Elements -/

/-- Bytes of one element in the formats whose elements lie one after the other. -/
def elemStep (f : Nat) : Nat :=
  if f = fT32 then 4 else if f = fT16 ∨ f = fFP16 then 2 else if isQ8 f then 1 else 0

/-- n of an operand's N elements from index i on, read as T32 (R275). The planes of T32C and of the block formats are those of all N
(R45, R49). -/
def State.sliceWords (s : State) (d : Desc) (o : Opnd) (i n : Nat) : List Word :=
  if elemStep o.fmt = 0 then (((s.words d (Desc.home d) o (cN d)).run fx0).1.drop i).take n
  else ((s.words d (Desc.home d) (o.at (i * elemStep o.fmt)) n).run fx0).1

/-- A list filled up with +0 to a unit. -/
def padWords (n : Nat) (ws : List Word) : List Word :=
  ws ++ List.replicate (n - ws.length) 0

/-- A member's own elements of a unit. -/
def State.ownUnit (s : State) (x : CollS) (c u : Nat) : List Word :=
  padWords (cUnitElems x.desc)
    (s.sliceWords x.desc (Desc.opA x.desc) (cOwnIndex x.desc x.n c u) (cCount x.desc x.n c u))

/-- The error memory's entries of a unit, from the committed bank; +0 without an error memory (R276). -/
def State.errUnit (s : State) (x : CollS) (c u : Nat) : List Word :=
  let o := Desc.opC x.desc
  let n := cCount x.desc x.n c u
  padWords (cUnitElems x.desc)
    (if o.mem then leWords n (s.regRead false o.region (o.addr + 4 * cOwnIndex x.desc x.n c u) (4 * n)) else [])

/-- New entries of the error memory, to the working bank (R276). -/
def State.putErr (s : State) (x : CollS) (c u : Nat) (es : List Word) : State :=
  let o := Desc.opC x.desc
  if o.mem then
    s.regWrite o.region (o.addr + 4 * cOwnIndex x.desc x.n c u) (wordBytes (es.take (cCount x.desc x.n c u)))
  else s

/-- Elements of a collective's destination. -/
def cTotal (d : Desc) (n : Nat) : Nat :=
  if cKind d = .allgather then n * cN d else cN d

/-- Elements written to D from an index on, in D's format (R275), NAN_RESULT for a NaN among them (R66); those of a REDUCE_SCATTER in T32
(R265). -/
def State.putD (s : State) (x : CollS) (i : Nat) (ws : List Word) : State :=
  let d := x.desc
  let o := Desc.opD d
  let md := s.mode d
  let vs := ws.map (unpack32 md.legacy)
  if cKind d = .reduceScatter then s.opWrite (Desc.home d) (o.at (4 * i)) (wordBytes ws)
  else if o.fmt = fT16 then
    let r := ((vs.zipIdx i).mapM (fun v => to16 md (s.rnd d) v.2 v.1) : Nm (List Half)).run fx0
    s.writeFx d (Desc.home d) (o.at (2 * i)) (halfBytes r.1, r.2)
  else if o.fmt = fT32C then
    let r := (vs.mapM (out40 md) : Nm (List (Word × Half))).run fx0
    (s.writeFx d (Desc.home d) (o.at (4 * i)) (wordBytes (r.1.map (·.1)), r.2)).opWrite (Desc.home d)
      (o.at (4 * cTotal d x.n + 2 * i)) (halfBytes (r.1.map (·.2)))
  else
    let r := (ws.mapM keep32).run fx0
    s.writeFx d (Desc.home d) (o.at (4 * i)) (wordBytes r.1, r.2)

/-- The elements of a unit that exist, written to D. -/
def State.putUnit (s : State) (x : CollS) (c u : Nat) (ws : List Word) : State :=
  s.putD x (cIndex x.desc x.n c u) (ws.take (cCount x.desc x.n c u))

/-! ### Wire formats (R271, R275, R279, R280) -/

/-- The agreed exponent of block position j (R279). -/
def State.agreed (s : State) (d : Desc) (j : Nat) : Int :=
  match s.tensor (Desc.opA d).tensor with
  | some t => l8Exp ((unpack32 s.cur.head.legacy (s.dataEst t (cEst d + j))).mul (.fin false 1 t.headroom))
  | none => l8Exp (unpack32 s.cur.head.legacy (s.estRec (cEst d + j)).1)

/-- AGREE_CRC (R272). -/
def State.agreeCrc (s : State) (d : Desc) : Word :=
  if cAgreed d then crc32 ((List.range (cdiv (cN d) 32)).map (fun j => BitVec.ofInt 8 (s.agreed d j))) else 0

/-- A payload's elements as T32 (R52, R53). -/
def decodeUnit (legacy : Bool) (mode : Nat) (bs : List Byte) : Nm (List Word) := do
  if mode = 1 then do
    let vs ← expandL8Group bs
    return vs.map pack32
  else if mode = 2 then do
    let gs ← (chunk 80 2 bs).mapM (expandS1Group legacy)
    return gs.flatten.map pack32
  else return leWords 256 bs

/-- The OVF flags of an L8 payload's blocks. -/
def ovfFlags (bs : List Byte) : List Bool :=
  ((bs.drop 1056).take 32).map (fun b => b.getLsbD 1)

/-- One L8 block at an agreed exponent, or escaped (R280). -/
def encodeAgreed (rn : Rnd) (ea : Int) (inOvf : Bool) (index : Nat) (xs : List FVal) : Nm L8Block := do
  let trial := (((xs.zipIdx index).mapM (fun v => l8Mant rn v.2 ea v.1) : Nm (List Int)).run fx0).2
  if !inOvf && trial.l8sat = 0 then quantL8 rn (some ea) index xs
  else do
    let b ← quantL8 rn (some (min 120 (max (ea + 1) (l8Exp (maxMag xs))))) index xs
    return { b with flag := b.flag ||| 2 }

/-- How a unit is encoded: nothing more in T32 and S1; for L8 each block's agreed exponent with whether an incoming block had OVF, or
no list for the free exponent. -/
abbrev Agreed := Option (List (Int × Bool))

/-- A unit encoded for the wire, and whether an S1 scale overflowed (R59, R271, R275, R281). -/
def encodeUnit (md : FMode) (rn : Rnd) (mode index : Nat) (ag : Agreed) (ws : List Word) : Nm (List Byte × Bool) := do
  if mode = 1 then do
    let vs := chunk 32 32 (ws.map (unpack32 md.legacy))
    let bs ← match ag with
      | some l => (vs.zip l).zipIdx.mapM (fun b => encodeAgreed rn b.1.2.1 b.1.2.2 (index + 32 * b.2) b.1.1)
      | none => vs.zipIdx.mapM (fun b => quantL8 rn none (index + 32 * b.2) b.1)
    return (packL8 1 bs, false)
  else if mode = 2 then do
    let bs ← (chunk 64 16 (ws.map (unpack32 md.legacy))).mapM (quantS1 md)
    return (packS1 2 bs, bs.any (fun b => b.sovf))
  else return (wordBytes ws, false)

/-- The agreed exponents of a unit's blocks, with the OVF flags of what came in (R280). -/
def State.agreedFor (s : State) (x : CollS) (c u : Nat) (ovf : List Bool) : Agreed :=
  if cAgreed x.desc then
    some ((List.range 32).map (fun b => (s.agreed x.desc (cIndex x.desc x.n c u / 32 + b), ovf.getD b false)))
  else none

/-- Element sums of two units, each rounded once (R39). -/
def addUnits (md : FMode) (xs ys : List Word) : Nm (List Word) :=
  (xs.zip ys).mapM (fun p => add32 md p.1 p.2)

def subUnits (md : FMode) (xs ys : List Word) : Nm (List Word) :=
  (xs.zip ys).mapM (fun p => sub32 md p.1 p.2)

/-- How a collective's arithmetic rounds. -/
def State.collMode (s : State) (x : CollS) : FMode :=
  { legacy := s.cur.head.legacy, sat := Desc.sat x.desc }

/-- What one member makes of a unit: the payload it sends, its decoded elements, the new error memory, and an S1 scale overflow. -/
structure UnitOut where
  payload : List Byte
  value : List Word
  err : List Word
  ovf : Bool
deriving DecidableEq, Repr

/-- A unit encoded, with its residual in S1 (R275, R277). -/
def State.emit (s : State) (x : CollS) (c u : Nat) (ag : Agreed) (v : List Word) : Nm UnitOut := do
  let md := s.collMode x
  let mode := cMode x.desc
  let out ← encodeUnit md (s.rnd x.desc) mode (cIndex x.desc x.n c u) ag v
  let dec := ((decodeUnit md.legacy mode out.1).run fx0).1
  let e ← if mode = 2 then subUnits md v dec else pure []
  return { payload := out.1, value := dec, err := e, ovf := out.2 }

/-- The numeric events of a unit, its new error memory, and an S1 scale overflow (R59, R276). DESIGN CHOICE, log 130: the overflow is raised for
D's tensor. -/
def State.emitFx (s : State) (x : CollS) (c u : Nat) (r : UnitOut × NumFx) : State :=
  let s1 := s.applyFx r.2 x.desc.num
  let s2 := if cMode x.desc = 2 then s1.putErr x c u r.1.err else s1
  if r.1.ovf then s2.scaleOvf x.desc (Desc.opD x.desc).tensor else s2

/-! ### The residue code (R282, R283) -/

/-- A T32 word's biased exponent, and its significand with the hidden bit. In Legacy mode a subnormal keeps its fraction, at exponent 1; in
native mode it is zero (R38, R42). -/
def expOf (legacy : Bool) (w : Word) : Nat :=
  if legacy then max 1 (w.toNat / 2 ^ 23 % 256) else w.toNat / 2 ^ 23 % 256

def sigOf (legacy : Bool) (w : Word) : Nat :=
  if w.toNat / 2 ^ 23 % 256 = 0 then (if legacy then w.toNat % 2 ^ 23 else 0) else 2 ^ 23 + w.toNat % 2 ^ 23

/-- Two operands with the larger first. -/
def bySize (x y : Word) : Word × Word :=
  if (y.toNat % 2 ^ 31) ≤ (x.toNat % 2 ^ 31) then (x, y) else (y, x)

/-- The operands aligned in the 48-bit window: the larger in [47:24], the smaller shifted right (R282 step 1). -/
def windowPair (legacy : Bool) (x y : Word) : Nat × Nat :=
  let p := bySize x y
  (sigOf legacy p.1 * 2 ^ 24, sigOf legacy p.2 * 2 ^ 24 / 2 ^ (expOf legacy p.1 - expOf legacy p.2))

/-- Whether bits were shifted out below bit 0 (R282 step 2). -/
def windowSticky (legacy : Bool) (x y : Word) : Bool :=
  let p := bySize x y
  sigOf legacy p.2 * 2 ^ 24 % 2 ^ (expOf legacy p.1 - expOf legacy p.2) != 0

/-- Whether an addition is an effective subtraction. -/
def effSub (x y : Word) : Bool := x.msb != y.msb

/-- The window sum S. -/
def windowSum (legacy : Bool) (x y : Word) : Nat :=
  let w := windowPair legacy x y
  if effSub x y then w.1 - w.2 else w.1 + w.2

/-- The residue of a window value (R282 step 3). -/
def residue255 (n : Nat) : Nat := n % 255

/-- The residue the checker predicts for S (R282 step 4). -/
def predictSum (legacy : Bool) (x y : Word) : Nat :=
  let w := windowPair legacy x y
  if effSub x y then (residue255 w.1 + 255 - residue255 w.2) % 255 else (residue255 w.1 + residue255 w.2) % 255

/-- The position of the rounded significand's last bit in the window. -/
def unitPos (n : Nat) : Nat := Nat.log2 n - 23

/-- The bits of S that the rounder drops, and its increment (R39, R282 step 5). -/
def windowDropped (legacy : Bool) (x y : Word) : Nat := windowSum legacy x y % 2 ^ unitPos (windowSum legacy x y)

def windowInc (legacy : Bool) (x y : Word) : Nat :=
  let u := unitPos (windowSum legacy x y)
  let dr := windowDropped legacy x y
  let half := 2 ^ u / 2
  let up :=
    if dr = half ∧ 0 < u then
      if windowSticky legacy x y then !effSub x y else windowSum legacy x y / 2 ^ u % 2 == 1
    else decide (half < dr)
  if up then 2 ^ u else 0

/-- The rounded significand at its place in the window. -/
def windowPlaced (legacy : Bool) (x y : Word) : Nat :=
  windowSum legacy x y - windowDropped legacy x y + windowInc legacy x y

/-- The residue predicted for it (R282 step 5). -/
def predictPlaced (legacy : Bool) (x y : Word) : Nat :=
  (residue255 (windowSum legacy x y) + 255 - residue255 (windowDropped legacy x y) + residue255 (windowInc legacy x y)) % 255

/-- The value and the residue that the checks compare, of a fault-free adder and checker. -/
def exactWindow (legacy norm : Bool) (x y : Word) : Nat := if norm then windowPlaced legacy x y else windowSum legacy x y
def predicted (legacy norm : Bool) (x y : Word) : Nat := if norm then predictPlaced legacy x y else predictSum legacy x y

/-- Whether a check disagrees. -/
def disagrees (o : ResidueObs) : Bool := residue255 o.got != residue255 o.pred

/-- The three conclusions (R283). -/
inductive Rerun where
  | checker
  | adder
  | operand
deriving DecidableEq, Repr

/-- What a lane returns for the operands of a disagreement. -/
def laneReturns (legacy : Bool) (o : ResidueObs) (lane : Nat) : Nat :=
  Tab.get o.others lane (exactWindow legacy o.norm o.x o.y)

/-- The lane the rerun uses: the spare, or, where it serves a quarantined lane, has failed or is the lane itself, the lowest-numbered other
working lane (R283). -/
def State.rerunLane (s : State) (port lane : Nat) : Nat :=
  if !s.spareServes port && !s.spareBad port && lane != 512 then 512
  else ((List.range 512).find? (fun l => l != lane && !(s.quarLanes port).contains l)).getD 512

/-- What the rerun of a disagreement returns. -/
def State.rerun (s : State) (port : Nat) (o : ResidueObs) : Nat :=
  laneReturns s.cur.head.legacy o (s.rerunLane port o.lane)

/-- The conclusion of a rerun (R283). -/
def State.conclude (s : State) (port : Nat) (o : ResidueObs) : Rerun :=
  let again := s.rerun port o
  if again = o.got then .checker else if residue255 again = residue255 o.pred then .adder else .operand

/-- The T32 word that a window value of an addition stands for. -/
def windowWord (md : FMode) (o : ResidueObs) (v : Nat) : Nm Word :=
  let p := bySize o.x o.y
  to32 md (ofDyadic p.1.msb v ((expOf md.legacy p.1 : Int) - 174))

/-- The element whose result the rerun settles, where that is not the exact sum: the lane's own under CHECKER and the rerun's under ADDER, which
is the same value for both (R283). -/
def State.rerunFix (s : State) (md : FMode) (port : Nat) (o : ResidueObs) : Option (Nat × Word) :=
  let v := s.rerun port o
  if v = exactWindow md.legacy o.norm o.x o.y then none else some (o.elem, ((windowWord md o v).run fx0).1)

/-- A unit's words with such an element in place. -/
def fixUnit (f : Option (Nat × Word)) (ws : List Word) : List Word :=
  match f with
  | none => ws
  | some e => ws.set e.1 e.2

/-- OPERAND conclusions on a unit of a collective that an arc brings. -/
def CollS.flawsOf (x : CollS) (k : Nat × Nat × Bool) : Nat :=
  ((x.flaws.find? (fun f => f.1 == k)).map (·.2)).getD 0

/-- A unit asked for again from the sending hop, and one that has come (R283, R284). -/
def State.askUnit (s : State) (port desc c u : Nat) (arc : Bool) : State :=
  { s with coll := { s.coll with resends := s.coll.resends ++ [{ port := port, desc := desc, chunk := c, unit := u, arcB := arc }] } }

def State.gotUnit (s : State) (p : Packet) : State :=
  let own (r : UnitAsk) : Bool := r.desc == p.desc && r.chunk == p.chunk && r.unit == p.unit && r.arcB == p.arcB
  { s with coll := { s.coll with resends := s.coll.resends.filter (fun r => !own r) } }

/-- The code of a conclusion, and the unit it is about. -/
def Rerun.code (r : Rerun) : Nat :=
  match r with
  | .checker => 1
  | .adder => 2
  | .operand => 3

def Rerun.unit (r : Rerun) (port lane : Nat) : Nat :=
  match r with
  | .adder => uAdder * 2 ^ 22 + (port * 513 + lane)
  | _ => uPort * 2 ^ 22 + port

/-- RESEND_LIMIT: the step attempt is replayed, so that the collective is given up with what it asked for (R284). -/
def State.resendLimit (s : State) (x : CollS) : State :=
  let s1 := (s.raise 0x7004 []).cause 0xA
  { s1 with coll := { s1.coll with
      running := s1.coll.running.map (fun y => if y.vc == x.vc then { y with failed := true } else y),
      resends := s1.coll.resends.filter (fun r => r.desc != x.desc.num) } }

/-- What any residue disagreement does (R283, R363): the event, and CHECKER charges the port, ADDER quarantines the lane, which its history then
holds as PERMANENT, OPERAND charges a lane of the link, which of them is not stated (log 6). -/
def State.residueOwn (s : State) (x : CollS) (port u : Nat) (o : ResidueObs) : State :=
  let r := s.conclude port o
  let s1 := (s.raiseU 0x7001 (r.unit port o.lane) [wd port, wd o.lane, wd r.code, wd x.desc.num, wd u]).count cResidue 1
  match r with
  | .checker => s1.chargeErr uPort port 0x7001 false
  | .adder => (s1.chargeErr uAdder (port * 513 + o.lane) 0x7001 true).count cAdderQuar 1
  | .operand => (s1.chargeCe uLane (port * 6 + (Config.freeWord s.free).toNat % 6) 1).draw 1

/-- That of an addition of a unit that came in on an arc: OPERAND asks for the unit again, at most twice (R283, R284). -/
def State.residue (s : State) (x : CollS) (port c u : Nat) (arc : Bool) (o : ResidueObs) : State :=
  let s1 := s.residueOwn x port u o
  match s.conclude port o with
  | .checker => s1
  | .adder => s1
  | .operand =>
    let k := (c, u, arc)
    let n := x.flawsOf k
    let s2 := s1.setColl { x with flaws := (k, n + 1) :: x.flaws.filter (fun f => f.1 != k) }
    if 2 ≤ n then s2.resendLimit x else (s2.askUnit port x.desc.num c u arc).count cColResend 1

/-! ### The reduction (R267, R275, R277) -/

/-- A hop of an arc: its own contribution, added to what came in unless it is the far end; `fix` is an element that a rerun settled. -/
def State.hopRun (s : State) (x : CollS) (c u : Nat) (inp : Option (List Byte)) (fix : Option (Nat × Word)) : Nm UnitOut := do
  let md := s.collMode x
  let g := s.ownUnit x c u
  let t ← if cMode x.desc = 2 then addUnits md g (s.errUnit x c u) else pure g
  let v ← match inp with
    | none => pure t
    | some bs => do
      let q ← decodeUnit md.legacy (cMode x.desc) bs
      addUnits md q t
  s.emit x c u (s.agreedFor x c u (match inp with
    | some bs => ovfFlags bs
    | none => [])) (fixUnit fix v)

/-- A hop on the state: its unit goes on toward the owner. In a REDUCE_SCATTER its work on the unit is then done. -/
def State.hopUnit (s : State) (x : CollS) (arc : Bool) (c u : Nat) (inp : Option (List Byte)) (fix : Option (Nat × Word)) : State :=
  let r := (s.hopRun x c u inp fix).run fx0
  let s1 := (s.emitFx x c u r).sendUnit x (!arc) 0 arc c u r.1.payload
  if cKind x.desc = .reduceScatter then s1.unitDone x.vc (c, u) else s1

/-- The partials of a unit that the owner holds, in order of arrival. -/
def CollS.partialsOf (x : CollS) (c u : Nat) : List Partial :=
  x.partials.filter (fun p => p.chunk == c && p.unit == u)

/-- The partials in the order they are added (R269). -/
def CollS.ordered (x : CollS) (l : List Partial) : List Partial :=
  if cPinned x.desc then
    let a := l.filter (fun p => !p.arcB)
    let b := l.filter (fun p => p.arcB)
    if x.prev ≤ x.next then a ++ b else b ++ a
  else l

/-- The owner's sum (R269, R275). -/
def State.ownerSum (md : FMode) (mode : Nat) (l : List Partial) (acc : List Word) : Nm (List Word) :=
  match l with
  | [] => return acc
  | p :: r => do
    let q ← decodeUnit md.legacy mode p.payload
    let a ← addUnits md acc q
    State.ownerSum md mode r (fixUnit p.fix a)

/-- The OVF flags of a unit at its owner: those of either partial (R280). -/
def partialOvf (l : List Partial) : List Bool :=
  (List.range 32).map (fun b => l.any (fun p => (ovfFlags p.payload).getD b false))

/-- The largest magnitude of each block of a unit noted, with its OVF flag (R281). -/
def State.noteBlocks (s : State) (x : CollS) (c u : Nat) (ws : List Word) (ovf : List Bool) : State :=
  if cAgreed x.desc then
    let j0 := cIndex x.desc x.n c u / 32
    let k := cdiv (cCount x.desc x.n c u) 32
    let am := ((chunk 32 k ws).zipIdx).map (fun b => (j0 + b.2, pack32 (maxMag (b.1.map (unpack32 s.cur.head.legacy)))))
    s.onColl x.vc (fun y => { y with amax := am.foldl (fun t e => Tab.put t e.1 e.2) y.amax,
                                     ovf := y.ovf ++ (List.range k).filterMap (fun b =>
                                       if ovf.getD b false then some (j0 + b) else none) })
  else s

/-- The summary entry of a block (R281). -/
def CollS.sumEntry (x : CollS) (j : Nat) : Word :=
  Tab.get x.amax j 0 ||| (if x.ovf.contains j then 0x80000000 else 0)

/-- The payload of a summary unit. -/
def CollS.sumPayload (x : CollS) (c u : Nat) : List Byte :=
  let blocks := cdiv (cSize x.desc x.n c) 32
  wordBytes ((List.range 256).map (fun e =>
    if 256 * u + e < blocks then x.sumEntry (c * cLen x.desc x.n / 32 + 256 * u + e) else 0))

/-- Summary units sent along the gather arcs. -/
def State.sendSums (s : State) (x : CollS) (c : Nat) (us : List Nat) : State :=
  match us with
  | [] => s
  | u :: r => ((s.sendArcs x 2 c u (x.sumPayload c u)).unitDone x.vc (x.n + c, u)).sendSums x c r

/-- When an owner's last unit of an L8 REDUCE_SCATTER is summed, its summary goes out (R281). -/
def State.trySums (s : State) (vc c : Nat) : State :=
  match s.collOn vc with
  | none => s
  | some x =>
    if cAgreed x.desc && cKind x.desc == .reduceScatter
        && (List.range (cUnits x.desc x.n c)).all (fun u => x.doneUnits.contains (c, u)) then
      s.sendSums x c (List.range (cSumUnits x.desc x.n c))
    else s

/-- The owner's unit once all its partials are in (R268, R275, R277). -/
def State.ownerUnit (s : State) (x : CollS) (c u : Nat) : State :=
  let md := s.collMode x
  let mode := cMode x.desc
  let ps := x.ordered (x.partialsOf c u)
  let ovf := partialOvf ps
  let run := (State.ownerSum md mode ps (s.ownUnit x c u)).run fx0
  let s0 := s.applyFx run.2 x.desc.num
  if cKind x.desc = .reduceScatter then
    (((s0.putUnit x c u run.1).noteBlocks x c u run.1 ovf).unitDone x.vc (c, u)).trySums x.vc c
  else
    let r := (do
      let v ← if mode = 2 then addUnits md run.1 (s.errUnit x c u) else pure run.1
      s0.emit x c u (s0.agreedFor x c u ovf) v : Nm UnitOut).run fx0
    let s1 := (s0.emitFx x c u r).putUnit x c u r.1.value
    ((s1.noteBlocks x c u r.1.value (ovfFlags r.1.payload)).sendArcs x 1 c u r.1.payload).unitDone x.vc (c, u)

/-- The source's unit in an ALLGATHER or BROADCAST (R277, R281). -/
def State.sourceUnit (s : State) (x : CollS) (c u : Nat) (fix : Option (Nat × Word)) : State :=
  let md := s.collMode x
  let r := (do
    let g := s.ownUnit x c u
    let v ← if cMode x.desc = 2 then addUnits md g (s.errUnit x c u) else pure g
    s.emit x c u none (fixUnit fix v) : Nm UnitOut).run fx0
  (((s.emitFx x c u r).putUnit x c u r.1.value).sendArcs x 1 c u r.1.payload).unitDone x.vc (c, u)

/-- A SENDRECV unit sent: raw bytes of A (R265). -/
def State.rawUnit (s : State) (x : CollS) (u : Nat) : State :=
  s.sendUnit x true 1 false 0 u
    (s.opRead (Desc.home x.desc) ((Desc.opA x.desc).at (1024 * u)) (cCount x.desc x.n 0 u))

/-! ### What a member does at the start (R267) -/

/-- What a member does with a unit when its collective starts. -/
def State.startUnit (s : State) (vc : Nat) (k : Nat × Nat) (fix : Option (Nat × Word)) : State :=
  match s.collOn vc with
  | none => s
  | some x =>
    if cKind x.desc = .sendrecv then
      let s1 := if (Desc.opA x.desc).isNone then s else s.rawUnit x k.2
      if (Desc.opD x.desc).isNone then s1.unitDone vc k else s1
    else
      match roleOf x.n x.me (cOwner x.desc k.1) with
      | .owner => if cReduces x.desc then s else s.sourceUnit x k.1 k.2 fix
      | .hop arc far => if cReduces x.desc && far then s.hopUnit x arc k.1 k.2 none fix else s

/-- Whether a member adds anything of its own to a unit as the collective starts: its error memory, in S1 at a far end or a source (R276,
R277). -/
def CollS.addsAtStart (x : CollS) (c : Nat) : Bool :=
  cMode x.desc == 2 && (match roleOf x.n x.me (cOwner x.desc c) with
    | .owner => !cReduces x.desc
    | .hop _ far => cReduces x.desc && far)

/-- A unit of the start, with what the residue checker said of its addition (R282). A disagreement of an addition that no packet starts has no
sending hop to ask: an OPERAND conclusion is raised and charged, and the device makes the addition again from its own stores, which the exact
sum stands for. DESIGN CHOICE, log 141. -/
def State.startChecked (s : State) (vc : Nat) (adds : List AddObs) (k : Nat × Nat) : State :=
  match s.collOn vc, adds.find? (fun a => a.chunk == k.1 && a.unit == k.2 && decide (a.port < 6) && disagrees a.obs) with
  | some x, some a =>
    if x.addsAtStart k.1 then
      let fix := if s.conclude a.port a.obs = .operand then none else s.rerunFix (s.collMode x) a.port a.obs
      (s.residueOwn x a.port k.2 a.obs).startUnit vc k fix
    else s.startUnit vc k none
  | _, _ => s.startUnit vc k none

/-- The units of a collective as it starts. -/
def State.startUnits (s : State) (vc : Nat) (adds : List AddObs) (l : List (Nat × Nat)) : State :=
  match l with
  | [] => s
  | k :: r => (s.startChecked vc adds k).startUnits vc adds r

/-! ### Packets (R273, R274, R282 to R284) -/

/-- Why a packet of a collective that runs is malformed, if it is (R274). -/
def State.malformed (s : State) (x : CollS) (p : Packet) : Option Nat :=
  if p.mode ≠ cMode x.desc ∨ p.legacy ≠ s.cur.head.legacy then some 3
  else if p.agreeCrc ≠ x.crc then some 4
  else if cChunks x.desc x.n ≤ p.chunk ∨
      (if p.phase = 2 then cSumUnits x.desc x.n p.chunk else cUnits x.desc x.n p.chunk) ≤ p.unit then some 5
  else none

/-- The collective that a descriptor number names on a VC in this beat (R274). -/
def State.beatColl (s : State) (vc num : Nat) : Option Desc :=
  (s.cur.descs[num]?).filter (fun d => s.stp.active && Desc.opcode d / 16 == 7 && cVc d == vc
    && (s.slotOf d).map (·.beat) == some s.stp.beat && !s.stp.skipped.contains (Desc.slot d))

/-- What a collective's destination covers. -/
def CollS.dest (x : CollS) : List Ext :=
  if (Desc.opD x.desc).isNone then []
  else if cKind x.desc = .reduceScatter then [extAs (Desc.opD x.desc) fT32 (cTotal x.desc x.n) true]
  else [extOf (Desc.opD x.desc) (cTotal x.desc x.n) true]

/-- COLL_MALFORMED: raised, the destination written with canonical NaNs, the step to end without commit and replay (R274). -/
def State.collMalformed (s : State) (vc cause src : Nat) : State :=
  let s1 := (s.raise 0x7003 [wd cause, wd src]).fail 4
  match s1.collOn vc with
  | none => s1
  | some x => (s1.setColl { x with failed := true }).nanOut x.desc x.dest

/-- A partial that reaches its owner; the sum is made when the partials of both arcs are in (R269). -/
def State.takePartial (s : State) (x : CollS) (p : Packet) (fix : Option (Nat × Word)) : State :=
  let old := x.partialsOf p.chunk p.unit
  if old.any (fun q => q.arcB == p.arcB) || x.doneUnits.contains (p.chunk, p.unit) then s
  else
    let q : Partial := { chunk := p.chunk, unit := p.unit, arcB := p.arcB, payload := p.payload, fix := fix }
    let y := { x with partials := x.partials ++ [q] }
    let s1 := s.setColl y
    if old.length + 1 = b2n (decide (0 < arcA x.n)) + b2n (decide (0 < arcB x.n)) then s1.ownerUnit y p.chunk p.unit else s1

/-- A gathered unit: forwarded, decoded and written (R268, R281). -/
def State.takeGather (s : State) (x : CollS) (p : Packet) : State :=
  if cKind x.desc = .sendrecv then
    (s.opWrite (Desc.home x.desc) ((Desc.opD x.desc).at (1024 * p.unit))
      (p.payload.take (cCount x.desc x.n 0 p.unit))).unitDone x.vc (0, p.unit)
  else
    let r := (decodeUnit s.cur.head.legacy (cMode x.desc) p.payload).run fx0
    let s1 := ((s.forward x p).applyFx r.2 x.desc.num).putUnit x p.chunk p.unit r.1
    (s1.noteBlocks x p.chunk p.unit r.1 (ovfFlags p.payload)).unitDone x.vc (p.chunk, p.unit)

/-- A summary unit: forwarded and noted (R281). -/
def State.takeSummary (s : State) (x : CollS) (p : Packet) : State :=
  let ws := leWords 256 p.payload
  let j0 := p.chunk * cLen x.desc x.n / 32 + 256 * p.unit
  let k := min 256 (cdiv (cSize x.desc x.n p.chunk) 32 - 256 * p.unit)
  let es := (ws.take k).zipIdx
  ((s.forward x p).onColl x.vc (fun y =>
    { y with amax := es.foldl (fun t e => Tab.put t (j0 + e.2) (e.1 &&& 0x7FFFFFFF)) y.amax,
             ovf := y.ovf ++ es.filterMap (fun e => if e.1.getLsbD 31 then some (j0 + e.2) else none) })).unitDone x.vc
    (x.n + p.chunk, p.unit)

/-- A packet that passed the checks, by its phase and this member's role. -/
def State.takePacket (s : State) (x : CollS) (p : Packet) (fix : Option (Nat × Word)) : State :=
  if p.phase = 0 then
    match roleOf x.n x.me (cOwner x.desc p.chunk) with
    | .owner => if cReduces x.desc then s.takePartial x p fix else s
    | .hop arc far =>
      if cReduces x.desc && !far && arc == p.arcB then s.hopUnit x arc p.chunk p.unit (some p.payload) fix else s
  else if p.phase = 1 then
    if cKind x.desc = .reduceScatter then s else s.takeGather x p
  else if p.phase = 2 then
    if cAgreed x.desc && cKind x.desc == .reduceScatter then s.takeSummary x p else s
  else s

/-- A packet of the collective that runs on its VC: a malformed one ends the collective, and an OPERAND conclusion holds the unit back. -/
def State.ownPacket (s : State) (port : Nat) (x : CollS) (p : Packet) (o : Option ResidueObs) : State :=
  match s.malformed x p with
  | some cause => s.collMalformed x.vc cause p.src
  | none =>
    if x.failed then s
    else
      let s0 := s.gotUnit p
      match o.filter disagrees with
      | none => s0.takePacket x p none
      | some r =>
        let s1 := s0.residue x port p.chunk p.unit p.arcB r
        if s.conclude port r = .operand then s1
        else
          match s1.collOn x.vc with
          | none => s1
          | some y => s1.takePacket y p (s.rerunFix (s.collMode x) port r)

/-- A packet on the state: stale ones are dropped, and one for a collective of this beat that has not started waits for it (R273, R274). -/
def State.packet (s : State) (port vc : Nat) (p : Packet) (o : Option ResidueObs) : State :=
  if p.beat ≠ wd s.lnk.beat then s.count cStale 1
  else if p.jobId ≠ s.cur.head.jobId then s.collMalformed vc 1 p.src
  else
    match (s.collOn vc).filter (fun x => x.desc.num == p.desc) with
    | some x => s.ownPacket port x p o
    | none =>
      match s.beatColl vc p.desc with
      | none => s.collMalformed vc 2 p.src
      | some d =>
        if s.willRun d && !s.stp.done.contains d.num then
          { s with coll := { s.coll with early := s.coll.early ++ [{ port := port, vc := vc, pkt := p, obs := o }] } }
        else s

/-- The packets that came before their collective, once it has started. -/
def State.wakeEarly (s : State) (vc num : Nat) (l : List Early) : State :=
  match l with
  | [] => s
  | e :: r =>
    (if e.vc = vc ∧ e.pkt.desc = num then s.packet e.port e.vc e.pkt e.obs
     else { s with coll := { s.coll with early := s.coll.early ++ [e] } }).wakeEarly vc num r

/-- Bytes that come in at a port and are taken out of its receive buffer at once (R295). -/
def State.rxPass (s : State) (port vc n : Nat) : State :=
  (s.rxTake (some port) vc n).rxFree (some port) vc n

/-- A packet of VC3 is acknowledged to its source (R300). -/
def State.ackPacket (s : State) (vc : Nat) (p : Packet) : State :=
  if vc = 3 then { s with lnk := { s.lnk with acked := s.lnk.acked ++ [(p.src, packetId p)] } } else s

/-- COLL_PACKET: a collective packet arrives at a port. -/
def execCollPacket (port vc : Nat) (p : Packet) (o : Option ResidueObs) (s : State) : Host.Outcome State Fault Refusal :=
  if 6 ≤ port ∨ 16 ≤ vc then .fault .noSuchUnit
  else .next ((((s.sealOk port).rxPass port vc (packetBytes p).length).ackPacket vc p).packet port vc p o)

/-! ### The start (R263, R264) -/

/-- This device's place in a group. -/
def Group.place (g : Group) (dev : Nat) : Option Nat :=
  g.members.findIdx? (fun m => m.1 == dev)

/-- Whether a group serves a collective: it is bound to the descriptor's VC (R264). A group binds VC4 to VC15 (R262, R357), so SENDRECV, which
runs on VC3, takes a group of two members whatever its VC (R265). DEDUCED, log 112. -/
def bindsColl (d : Desc) (g : Group) : Bool :=
  if cKind d = .sendrecv then g.members.length == 2 else g.vc == cVc d

/-- A collective begins: its group is checked, its record opened, what A holds counted once, the far ends and sources send, and the packets
that came before it are taken (R264, R267, R274, R279). -/
def State.beginColl (s : State) (d : Desc) (bad : Bool) (adds : List AddObs) : State :=
  match (Tab.find s.rcp.groups (Desc.word d 11).toNat).filter (bindsColl d) with
  | none => (s.descFault d 3).finish d.num
  | some g =>
    let x : CollS := { vc := cVc d, desc := d, me := (g.place s.device).getD 0, group := g, crc := s.agreeCrc d, partials := [],
                       doneUnits := [], ovf := [], amax := [], failed := false, bad := bad, flaws := [] }
    let s1 := if cKind d = .sendrecv then s
      else s.applyFx ((s.words d (Desc.home d) (Desc.opA d) (cN d)).run fx0).2 d.num
    let s2 := { s1 with coll := { s1.coll with running := s1.coll.running ++ [x], early := [] } }
    (s2.startUnits (cVc d) adds (cAll d x.n)).wakeEarly (cVc d) d.num s1.coll.early

/-- A collective starts, or waits behind the one on its VC (R263). -/
def State.startColl (s : State) (d : Desc) (bad : Bool) (adds : List AddObs) : State :=
  if (s.collOn (cVc d)).isSome then { s with coll := { s.coll with queue := s.coll.queue ++ [{ desc := d, bad := bad, adds := adds }] } }
  else s.beginColl d bad adds

/-- The run of a collective descriptor: as R172, R173, R184 and R323 have it for any, but it completes with COLL_COMPLETE. -/
def State.collective (s : State) (op : Nat) (d : Desc) (e : Env) : State :=
  if Desc.opcode d ≠ op || !s.runs d then s
  else if s.mustWait d then s.hold d.num
  else
    let ue := e.mem.ue ++ (s.descPoison d).filter (fun k => !e.mem.ue.contains k)
    (s.envFx d e ue).startColl d (!s.train && (e.storeUe.isSome || !ue.isEmpty)) e.adds

/-- ALLREDUCE (descriptor 0x70). -/
def execAllreduce (d : Desc) (e : Env) (s : State) : Host.Outcome State Fault Refusal :=
  .next (s.collective 0x70 d e)

/-- REDUCE_SCATTER (descriptor 0x71). -/
def execReduceScatter (d : Desc) (e : Env) (s : State) : Host.Outcome State Fault Refusal :=
  .next (s.collective 0x71 d e)

/-- ALLGATHER (descriptor 0x72). -/
def execAllgather (d : Desc) (e : Env) (s : State) : Host.Outcome State Fault Refusal :=
  .next (s.collective 0x72 d e)

/-- BROADCAST (descriptor 0x73). -/
def execBroadcast (d : Desc) (e : Env) (s : State) : Host.Outcome State Fault Refusal :=
  .next (s.collective 0x73 d e)

/-- SENDRECV (descriptor 0x74). -/
def execSendrecv (d : Desc) (e : Env) (s : State) : Host.Outcome State Fault Refusal :=
  .next (s.collective 0x74 d e)

/-! ### The end (R281) -/

/-- Whether a member has dealt with everything of a collective. -/
def CollS.complete (x : CollS) : Bool :=
  x.failed || (cAll x.desc x.n ++ cAllSums x.desc x.n).all (fun k => x.doneUnits.contains k)

/-- The estimators after an L8 reduction: a block with OVF is corrected, another updated (R212, R214, R281). The correction also
goes to the working bank, so that it commits with a step that is not replayed. -/
def State.settleBlocks (s : State) (x : CollS) (js : List Nat) : State :=
  match js with
  | [] => s
  | j :: r =>
    let g := cEst x.desc + j
    let a := Tab.get x.amax j 0
    let init := s.initEst (Desc.opA x.desc).tensor
    let s1 :=
      if x.ovf.contains j then
        let c := (s.correct (s.mode x.desc) g init a).count cOvfBlk 1
        match Tab.find c.stp.corr g with
        | some e => c.estPut g e.1 e.2
        | none => c
      else
        let r := (s.estNext (s.mode x.desc) g init a).run fx0
        (s.observe g r.1).applyFx r.2 x.desc.num
    s1.settleBlocks x r

/-- SCALE_OVF_RING, once for the collective (R281). -/
def State.ringOvf (s : State) (x : CollS) : State :=
  let js := (List.range (cdiv (cN x.desc) 32)).filter (fun j => x.ovf.contains j)
  match js with
  | [] => s
  | j :: _ =>
    let s1 := s.raise 0x7002 [wd js.length, wd j]
    if s.train && cReplay x.desc then s1.cause 4 else s1

/-- The next descriptor of a VC starts, and where its group's check fails the one after it, so many at most (R263, R264). -/
def State.nextColls (s : State) (fuel vc : Nat) : State :=
  match fuel with
  | 0 => s
  | n + 1 =>
    match s.coll.queue.find? (fun q => cVc q.desc == vc) with
    | none => s
    | some q =>
      let s1 := ({ s with coll := { s.coll with queue := s.coll.queue.erase q } }).beginColl q.desc q.bad q.adds
      if (s1.collOn vc).isSome then s1 else s1.nextColls n vc

/-- The next descriptor of a VC starts (R263). -/
def State.nextColl (s : State) (vc : Nat) : State :=
  s.nextColls s.coll.queue.length vc

/-- COLL_COMPLETE on the state; nothing while units are outstanding. -/
def State.collComplete (s : State) (vc : Nat) : State :=
  match s.collOn vc with
  | none => s
  | some x =>
    if !x.complete then s
    else
      let s1 := if cAgreed x.desc && !x.failed then (s.settleBlocks x (List.range (cdiv (cN x.desc) 32))).ringOvf x else s
      let s2 := if x.bad then s1.nanOut x.desc x.dest else s1
      let s3 := { s2 with coll := { s2.coll with running := s2.coll.running.filter (fun y => y.vc != vc) } }
      (s3.finish x.desc.num).nextColl vc

/-- COLL_COMPLETE: the collective of a VC ends. -/
def execCollComplete (vc : Nat) (s : State) : Host.Outcome State Fault Refusal :=
  if 16 ≤ vc then .fault .noSuchUnit else .next (s.collComplete vc)

end Sys2Proof.Machine
end

