-- ==== Sys2Proof/Machine/Mailbox.lean ====
section
/-! DEFINITION. The mailbox's rails, passes, doorbells and completions (R339, R340, R344 to R349, R353). -/

namespace Sys2Proof.Machine

/-- Whether the mailbox runs (R339, R350). -/
def State.mboxRuns (s : State) : Bool :=
  s.hif.mboxEn && s.hif.state != .boot

/-- A host access or doorbell refused and counted (R340). -/
def State.badDoorbell (s : State) : State :=
  s.count cBadAcc 1

/-! ### Rails (R344 to R346) -/

/-- Entries of a ring. -/
def ringLen (log2 : Nat) : Nat := 2 ^ log2

/-- Tickets on a rail that have not been read. -/
def Rail.held (r : Rail) : Nat :=
  (r.tail + ringLen r.log2 - r.head) % ringLen r.log2

/-- A rail replaced. -/
def State.setRail (s : State) (n : Nat) (r : Rail) : State :=
  { s with hif := { s.hif with rails := Tab.put s.hif.rails n r } }

/-- A rail enters error: its bit and RAIL_ERR are set (R346). -/
def State.railFails (s : State) (n : Nat) (r : Rail) : State :=
  let s1 := s.setRail n { r with err := true }
  ({ s1 with hif := { s1.hif with railErr := s1.hif.railErr ||| BitVec.ofNat 64 (2 ^ n) } }).setIrq 2

/-- RAIL_TAIL: the rail takes its turn at the device's reading; bits [31:16] of the value are not part of the index. -/
def execRailTail (n : Nat) (v : Word) (s : State) : Host.Outcome State Fault Refusal :=
  if 64 ≤ n then .fault .noSuchUnit
  else
    match Tab.find s.hif.rails n with
    | none => .next s.badDoorbell
    | some r =>
      let t := fld v 15 0
      let k := ringLen r.log2
      if !s.mboxRuns then .next s.badDoorbell
      else if r.err ∨ t = r.tail then .next s
      else if k ≤ t ∨ k ≤ r.held + (t + k - r.tail) % k then .next (s.railFails n r)
      else .next (({ s with hif := { s.hif with turns := addOnce s.hif.turns n } }).setRail n { r with tail := t })

/-- Tickets of a rail that have been read and have not started: of those in flight, all but the one that runs and the deletions that
wait (R346). -/
def State.readAhead (s : State) (n : Nat) (r : Rail) : Nat :=
  let run := match s.hif.seqBusy with
    | some w => b2n (w.t.rail == n)
    | none => 0
  r.inflight.length - run - (s.hif.deleting.filter (fun w => w.t.rail == n)).length

/-- Whether a rail has a ticket that the device would read: it is not in error and not being deleted, and fewer than eight are read
ahead. -/
def State.fetchable (s : State) (n : Nat) (r : Rail) : Bool :=
  !r.err && decide (0 < r.held) && decide (s.readAhead n r < 8)
    && s.hif.deleting.all (fun w => par w.t 0 != n)

/-- The rail the device reads next: of the highest priority, and within it in turn, in the order in which the doorbells came (R346,
R352, log 116). -/
def State.fetchTurn (s : State) : Option Nat :=
  let l := s.hif.rails.filter (fun e => s.fetchable e.1 e.2)
  let top := l.foldl (fun m e => max m e.2.prio) 0
  s.hif.turns.find? (fun n => l.any (fun e => e.1 == n && e.2.prio == top))

/-- A ticket's sixteen words read as the number `id` of its rail (R349). -/
def ticketSlot (id : Nat) (ws : List Word) : RailSlot :=
  let w := ws.getD 0 0
  { id := id, op := BitVec.ofNat 16 (fld w 31 16), tag := BitVec.ofNat 16 (fld w 15 0), words := ws, taken := false }

/-- A number that none of a rail's tickets in flight has. -/
def Rail.nextId (r : Rail) : Nat :=
  r.inflight.foldl (fun m x => max m (x.id + 1)) 0

/-- What the words that were read say of a ticket: FENCE, QUIET, SGL, ADDR, LEN and P0 to P10 (R349). -/
def readTicket (ws : List Word) (t : Ticket) : Ticket :=
  if ws.length ≠ 16 then t
  else
    let w (i : Nat) : Word := ws.getD i 0
    { t with fence := (w 1).getLsbD 31, quiet := (w 1).getLsbD 30, sgl := (w 1).getLsbD 29, rsvd := (w 1).setWidth 29,
             addr := w 3 ++ w 2, len := w 4, p := ws.drop 5 }

/-- TICKET_FETCH: the device's turn at a rail; a failed read puts the rail in error. It reads no more than eight tickets ahead. -/
def execTicketFetch (n : Nat) (read : Option (List (List Word))) (s : State) : Host.Outcome State Fault Refusal :=
  if 64 ≤ n then .fault .noSuchUnit
  else if !s.mboxRuns || s.fetchTurn != some n then .next s
  else
    match Tab.find s.hif.rails n with
    | none => .next s
    | some r =>
      match read with
      | none => .next (s.railFails n r)
      | some ts =>
        let l := ts.take (min r.held (8 - s.readAhead n r))
        let s1 := s.setRail n { r with head := (r.head + l.length) % ringLen r.log2,
                                       inflight := r.inflight ++ l.zipIdx.map (fun x => ticketSlot (r.nextId + x.2) x.1) }
        let left := s.hif.turns.filter (fun m => m != n)
        .next { s1 with hif := { s1.hif with turns := if l.length < r.held then left ++ [n] else left } }

/-! ### Passes (R347, R348) -/

/-- A pass replaced. -/
def State.setPass (s : State) (n : Nat) (p : Pass) : State :=
  { s with hif := { s.hif with passes := Tab.put s.hif.passes n p } }

/-- PASS_HEAD: bits [31:16] of the value are not part of the index. -/
def execPassHead (n : Nat) (v : Word) (s : State) : Host.Outcome State Fault Refusal :=
  if 64 ≤ n then .fault .noSuchUnit
  else
    match Tab.find s.hif.passes n with
    | none => .next s.badDoorbell
    | some p =>
      let h := fld v 15 0
      let k := ringLen p.log2
      let freed := (h + k - p.head) % k
      if !s.mboxRuns then .next s.badDoorbell
      else if k ≤ h ∨ p.used < freed then .next s.badDoorbell
      else .next (s.setPass n { p with head := h, used := p.used - freed })

/-- The words of a completion (R349). -/
def Completion.words (c : Completion) (phase : Bool) : List Word :=
  [at_ (b2n phase) 31 ||| at_ (c.rail % 64) 16 ||| at_ c.tag.toNat 0, at_ (c.head % 65536) 16 ||| at_ c.status.toNat 0]
    ++ (c.res ++ List.replicate 6 0).take 6

/-- A pass after it has written a completion, without its interrupt. -/
def Pass.wrote (p : Pass) (rest : List Completion) : Pass :=
  let t := (p.tail + 1) % ringLen p.log2
  { p with tail := t, phase := if t = 0 then !p.phase else p.phase, used := p.used + 1, waiting := rest }

/-- The pass requests its vector (R348). -/
def State.signal (s : State) (n : Nat) (p : Pass) : State :=
  (s.setPass n { p with since := 0, timer := false }).msi p.vec

/-- COMPLETION_WRITE: the oldest waiting completion is written when a slot is free, and moderated unless its ticket was QUIET. -/
def execCompletionWrite (n : Nat) (s : State) : Host.Outcome State Fault Refusal :=
  if 64 ≤ n then .fault .noSuchUnit
  else
    match Tab.find s.hif.passes n with
    | none => .next s
    | some p =>
      match p.waiting with
      | [] => .next s
      | c :: rest =>
        if !s.mboxRuns || decide (ringLen p.log2 ≤ p.used) then .next s
        else
          let s1 := { s with store := { s.store with
            host := Mem.write s.store.host (p.base.toNat + 32 * p.tail) (wordBytes (c.words p.phase)) } }
          let q := p.wrote rest
          if c.quiet then .next (s1.setPass n q)
          else if q.cnt ≤ q.since + 1 ∨ q.time = 0 then .next (s1.signal n q)
          else .next (s1.setPass n { q with since := q.since + 1, timer := true })

/-- PASS_TIMER: t µs after the first completion that has not been signalled. -/
def execPassTimer (n : Nat) (s : State) : Host.Outcome State Fault Refusal :=
  if 64 ≤ n then .fault .noSuchUnit
  else
    match Tab.find s.hif.passes n with
    | none => .next s
    | some p => if p.timer then .next (s.signal n p) else .next s

/-! ### Start, reset and stop (R339, R340, R353) -/

/-- The admin rail as its registers configure it; its priority is the highest (log 27). -/
def Hif.adminRail (h : Hif) : Rail :=
  { base := h.arailBase, log2 := h.arailLog2, pass := 0, prio := 3, head := 0, tail := 0, err := false, inflight := [] }

/-- The admin pass, on vector 1; it signals every completion (log 27). -/
def Hif.adminPass (h : Hif) : Pass :=
  { base := h.apassBase, log2 := h.apassLog2, vec := 1, cnt := 1, time := 0, head := 0, tail := 0, phase := true, used := 0,
    waiting := [], since := 0, timer := false }

/-- The rails and passes there are after a reset of the mailbox. -/
def Hif.clearMbox (h : Hif) (on : Bool) : Hif :=
  { h with mboxEn := on, rails := if on then [(0, h.adminRail)] else [], passes := if on then [(0, h.adminPass)] else [],
           turns := [], railErr := 0, seqBusy := none, waitq := [], deleting := [], limits := [] }

/-- The mailbox reset of R353: no completion is written for a ticket in flight, and a running recipe stops at its step boundary. A step that
has been accepted is the current one: it begins, and runs through to its commit first. -/
def State.resetMailbox (s : State) (on : Bool) : State :=
  { s with hif := s.hif.clearMbox on,
           rcp := { s.rcp with startNext := none,
                               state := match s.rcp.state with
                                 | .running => .stopping
                                 | .stopping => .stopping
                                 | .idle => .idle
                                 | .failed => .failed } }

/-- MBOX_EN_SET: nothing while the bit is already 1. -/
def execMboxEnSet (s : State) : Host.Outcome State Fault Refusal :=
  if s.hif.mboxEn then .next s else .next { s with hif := s.hif.clearMbox true }

/-- MBOX_DISABLE: nothing while the bit is already 0. -/
def execMboxDisable (s : State) : Host.Outcome State Fault Refusal :=
  if s.hif.mboxEn then .next (s.resetMailbox false) else .next s

/-- MBOX_RESET: the mailbox goes on with the admin pair when it was running. -/
def execMboxReset (s : State) : Host.Outcome State Fault Refusal :=
  .next (s.resetMailbox s.hif.mboxEn)

end Sys2Proof.Machine
end

