-- ==== Sys2Proof/Machine/Update.lean ====
section
/-! DEFINITION. The end of a training step (R30, R205 to R221, R252, R253, R367 to R371, R378, R455): UPDATE, FENCE, COMMIT and
DIGEST_EXCHANGE. -/

namespace Sys2Proof.Machine

/-! ### UPDATE -/

/-- Fields of the UPDATE descriptor (R252). -/
def uOpt (d : Desc) : Nat := Desc.f d 10 3 0
def uFail (d : Desc) : Bool := Desc.flag d 10 4
def uMomFmt (d : Desc) : Nat := if Desc.flag d 10 5 then fT16 else fT32
def uFirst (d : Desc) : Nat := (Desc.word d 11).toNat
def uCount (d : Desc) : Nat := (Desc.word d 12).toNat

/-- A step's hyperparameters (R208). -/
structure Hyper where
  lr : Word
  wd : Word
  b1 : Word
  b2 : Word
  eps : Word
  a1 : Word
  a2 : Word
deriving DecidableEq, Repr

/-- Rows of the hyperparameter table: DIM1 of D's tensor, else those up to its region's end (R208, log 22). -/
def State.hyperRows (s : State) (o : Opnd) : Nat :=
  match s.tensor o.tensor with
  | some t => t.dim1
  | none => (s.regionBytes o.region - o.addr) / 32

/-- The words of the step's row; a step beyond the last row reads the last (R208). -/
def State.hyperRow (s : State) (d : Desc) : List Word :=
  let o := Desc.opD d
  let row := min s.stp.step (s.hyperRows o - 1)
  leWords 8 (s.opRead (Desc.home d) (o.at (32 * row)) 32)

/-- The step's row. -/
def State.hyper (s : State) (d : Desc) : Hyper :=
  let w := s.hyperRow d
  { lr := w.getD 0 0, wd := w.getD 1 0, b1 := w.getD 2 0, b2 := w.getD 3 0, eps := w.getD 4 0, a1 := w.getD 5 0, a2 := w.getD 6 0 }

/-- sign(c): +1, −1, +0 for ±0 (R209), the canonical NaN for a NaN (R39). -/
def signOf (md : FMode) (c : Word) : Nm Word :=
  match unpack32 md.legacy c with
  | .nan => out32 .nan
  | .zero _ => return 0
  | v => return if v.sign then 0xBF800000 else one32

/-- The moments an optimiser leaves and its direction d (R209); v is kept as it is but for ADAMW. -/
def direction (md : FMode) (opt : Nat) (h : Hyper) (g m v : Word) : Nm (Word × Word × Word) := do
  if opt = 0 then do
    let m' ← fma32 md h.b1 m g
    return (m', v, m')
  else if opt = 1 then do
    let m' ← fma32 md h.b1 m g
    let d ← fma32 md h.b1 m' g
    return (m', v, d)
  else if opt = 2 then do
    let c1 ← sub32 md one32 h.b1
    let c2 ← sub32 md one32 h.b2
    let cg ← mul32 md c1 g
    let m' ← fma32 md h.b1 m cg
    let gg ← mul32 md g g
    let cgg ← mul32 md c2 gg
    let v' ← fma32 md h.b2 v cgg
    let va ← mul32 md v' h.a2
    let r ← sqrt32 md va
    let q ← add32 md r h.eps
    let ma ← mul32 md m' h.a1
    let d ← div32 md ma q
    return (m', v', d)
  else do
    let c1 ← sub32 md one32 h.b1
    let c2 ← sub32 md one32 h.b2
    let cg ← mul32 md c1 g
    let c ← fma32 md h.b1 m cg
    let d ← signOf md c
    let cg2 ← mul32 md c2 g
    let m' ← fma32 md h.b2 m cg2
    return (m', v, d)

/-- One element's update: new hi and comp words, new moments, delta² and w² (R209, R218), and whether it is non-finite (R210). -/
structure UpdOut where
  hi : Word
  comp : Half
  m : Word
  v : Word
  dsq : Word
  wsq : Word
  bad : Bool
deriving DecidableEq, Repr

/-- One element (R207, R209). -/
def updateOne (md : FMode) (opt : Nat) (h : Hyper) (hi : Word) (comp : Half) (g m v : Word) : Nm UpdOut := do
  let w ← read32c md hi comp
  let r ← direction md opt h g m v
  let u ← fma32 md h.wd w r.2.2
  let p ← mul32 md h.lr u
  let delta := neg32 p
  let n ← out40 md ((unpack32c md.legacy hi comp).add (unpack32 md.legacy delta))
  let dsq ← mul32 md delta delta
  let wsq ← mul32 md w w
  return { hi := n.1, comp := n.2, m := r.1, v := r.2.1, dsq := dsq, wsq := wsq, bad := nonFinite32 delta || nonFinite32 n.1 }

/-- Bytes of one moment. -/
def momBytes (d : Desc) : Nat := if uMomFmt d = fT16 then 2 else 4

/-- n moments from an index of the moment operand on, read as T32 (R206). -/
def State.moments (s : State) (d : Desc) (at_ n : Nat) : List Word :=
  let f := uMomFmt d
  let bs := s.opRead (Desc.home d) ((Desc.opC d).at (at_ * momBytes d)) (n * momBytes d)
  if f = fT16 then (halves n bs).map (widen16 s.cur.head.legacy) else leWords n bs

/-- Moments as written back: T32, or T16 rounded with their index in the moment planes (R55, R206, log 22). -/
def renderMoments (md : FMode) (rn : Rnd) (f at_ : Nat) (ws : List Word) : Nm (List Byte) := do
  if f = fT16 then do
    let hs ← (ws.zipIdx at_).mapM (fun x => cvt16 md rn x.2 x.1)
    return halfBytes hs
  else return wordBytes ws

/-- What an UPDATE computes: the elements' results, the moment bytes m and v, and the sums SD and SW of its part (R218). -/
structure UpdRun where
  outs : List UpdOut
  mBytes : List Byte
  vBytes : List Byte
  sd : Word
  sw : Word
deriving DecidableEq, Repr

/-- Masters of a descriptor's layer (R232). -/
def State.layerOf (s : State) (d : Desc) : Option Layer :=
  s.cur.layers[Desc.layer d]?

/-- UPDATE's arithmetic on a gradient. -/
def State.updateWith (s : State) (d : Desc) (l : Layer) (grad : Nm (List Word)) : Nm UpdRun := do
  let md := s.mode d
  let n := uCount d
  let h := s.hyper d
  let oB := Desc.opB d
  let his := leWords n (s.opRead (Desc.home d) oB (4 * n))
  let comps := match s.regionOfKind 4 with
    | some c => halves n (s.regRead true c (oB.addr / 2) (2 * n))
    | none => List.replicate n 0
  let gs ← grad
  let ms := s.moments d (uFirst d) n
  let vs := if uOpt d = 2 then s.moments d (l.masters + uFirst d) n else List.replicate n 0
  let outs ← ((his.zip comps).zip (gs.zip (ms.zip vs))).mapM (fun x =>
    updateOne md (uOpt d) h x.1.1 x.1.2 x.2.1 x.2.2.1 x.2.2.2)
  let mb ← renderMoments md (s.rnd d) (uMomFmt d) (uFirst d) (outs.map (·.m))
  let vb ← if uOpt d = 2 then renderMoments md (s.rnd d) (uMomFmt d) (l.masters + uFirst d) (outs.map (·.v)) else pure []
  let pad := List.replicate (uFirst d % 256) (0 : Word)
  let sd ← sum32 md (pad ++ outs.map (·.dsq))
  let sw ← sum32 md (pad ++ outs.map (·.wsq))
  return { outs := outs, mBytes := mb, vBytes := vb, sd := sd, sw := sw }

/-- UPDATE's arithmetic. -/
def State.updateRun (s : State) (d : Desc) (l : Layer) : Nm UpdRun :=
  s.updateWith d l (s.words d (Desc.home d) (Desc.opA d) (uCount d))

/-- A run of committed bytes copied over what the attempt wrote (R210). -/
def State.restore (s : State) (r off n : Nat) : State :=
  s.regWrite r off (s.regRead false r off n)

/-- HOLD: the layer's masters and moments commit unchanged (R210). -/
def State.holdLayer (s : State) (d : Desc) (l : Layer) : State :=
  let s1 := s.restore (Desc.opB d).region (4 * l.first) (4 * l.masters)
  let s2 := match s.regionOfKind 4 with
    | some c => s1.restore c (2 * l.first) (2 * l.masters)
    | none => s1
  let s3 := s2.restore (Desc.opC d).region (Desc.opC d).addr ((if uOpt d = 2 then 2 else 1) * l.masters * momBytes d)
  { s3 with stp := { s3.stp with nonfin := if s3.stp.nonfin.contains (Desc.layer d) then s3.stp.nonfin
                                           else Desc.layer d :: s3.stp.nonfin } }

/-- A non-finite update: once per layer per attempt it is counted and raised; FAIL ends the step, HOLD keeps the layer (R210,
R453). -/
def State.nonFinite (s : State) (d : Desc) (l : Layer) : State :=
  let s1 := if s.stp.raised.contains (0x4007, Desc.layer d) then s
    else (s.raiseOnce 0x4007 (Desc.layer d) 0 [wd (Desc.layer d), wd s.stp.step, wd (b2n (uFail d)), wd s.stp.attempt]).count
      cUpdNonfin 1
  if uFail d then s1.fail 1 else s1.holdLayer d l

/-- What an attempt has summed for a layer on a core (R218). -/
def State.ratioPart (s : State) (layer core : Nat) : Option (Word × Word) :=
  (s.stp.ratioParts.find? (fun p => p.1 == (layer, core))).map (·.2)

/-- Two pairs of sums SD and SW added. -/
def addSums (md : FMode) (x y : Word × Word) : Nm (Word × Word) := do
  let a ← add32 md x.1 y.1
  let b ← add32 md x.2 y.2
  return (a, b)

/-- The sums of a descriptor added to those of its layer and core. DESIGN CHOICE, log 107: several UPDATE descriptors of one layer on one core
add in T32 in the order they run. -/
def State.addRatio (s : State) (md : FMode) (layer core : Nat) (sd sw : Word) : State :=
  let v := match s.ratioPart layer core with
    | none => ((sd, sw), fx0)
    | some p => (addSums md p (sd, sw)).run fx0
  let s1 := s.applyCounts v.2
  { s1 with stp := { s1.stp with
      ratioParts := s1.stp.ratioParts.filter (fun p => p.1 != (layer, core)) ++ [((layer, core), v.1)] } }

/-- x of R221. -/
def State.digestX (s : State) : Nat :=
  s.cur.head.base.toNat % digestP

/-- Σ a_i × x^(m+i+1) over masters m, m + 1, … given as 48-bit integers (R221). -/
def State.digestFrom (s : State) (m : Nat) (as : List Nat) : Nat :=
  polySum s.digestX (powMod 64 s.digestX (m + 1)) as

/-- A master as the unsigned integer of R221. -/
def masterInt (hi : Word) (comp : Half) : Nat :=
  hi.toNat * 65536 + comp.toNat

/-- The digest terms of the masters a core updated in the attempt (R367). -/
def State.addCoreDigest (s : State) (core n : Nat) : State :=
  let v := ((Tab.get s.stp.coreDig core 0).toNat + n) % digestP
  { s with stp := { s.stp with coreDig := Tab.put s.stp.coreDig core (BitVec.ofNat 64 v) } }

/-- The writes of an UPDATE (R205, R209): masters, comp plane, m, then v. -/
def State.updateWrites (s : State) (d : Desc) (l : Layer) (r : UpdRun) : State :=
  let core := Desc.home d
  let oB := Desc.opB d
  let s1 := s.opWrite core oB (wordBytes (r.outs.map (·.hi)))
  let s2 := match s.regionOfKind 4 with
    | some c => s1.regWrite c (oB.addr / 2) (halfBytes (r.outs.map (fun (o : UpdOut) => o.comp)))
    | none => s1
  let s3 := s2.opWrite core ((Desc.opC d).at (uFirst d * momBytes d)) r.mBytes
  if uOpt d = 2 then s3.opWrite core ((Desc.opC d).at ((l.masters + uFirst d) * momBytes d)) r.vBytes else s3

/-- Whether the step compares digests with a replica group (R367). -/
def State.exchanges (s : State) : Bool :=
  s.cur.descs.any (fun d => Desc.opcode d == 0xB1 && s.stp.step % max 1 (Desc.f d 10 15 0) == 0)

/-- The gradient as the UPDATE read it, kept where a shadow will log it or a localisation may need it (R372, R378). -/
def State.keepGrad (s : State) (d : Desc) (l : Layer) : State :=
  if s.flt.shadowCfg.isNone && !s.exchanges then s
  else
    let g := ((s.words d (Desc.home d) (Desc.opA d) (uCount d)).run fx0).1
    { s with stp := { s.stp with grads := s.stp.grads ++ [(l.first + uFirst d, g)] } }

/-- UPDATE on the state. A frozen or held layer, and one that is not trainable, is not updated (R210, R221, R232). -/
def State.updateOp (s : State) (d : Desc) : State :=
  match s.layerOf d with
  | none => s
  | some l =>
    if l.frozen || !l.trainable || s.stp.nonfin.contains (Desc.layer d) then s
    else
      let r := (s.updateRun d l).run fx0
      let s1 := (s.keepGrad d l).applyFx r.2 d.num
      if r.1.outs.any (·.bad) then s1.nonFinite d l
      else
        ((s1.updateWrites d l r.1).addRatio (s.mode d) (Desc.layer d) (Desc.core d) r.1.sd r.1.sw).addCoreDigest (Desc.core d)
          (s.digestFrom (l.first + uFirst d) (r.1.outs.map (fun o => masterInt o.hi o.comp)))

/-! ### The attempt's digest and ratios (R218, R221) -/

/-- D_L of a layer: from the attempt's view, or the committed one for a layer that is frozen or held (R221). -/
def State.layerDigest (s : State) (n : Nat) (l : Layer) : Nat :=
  if !l.trainable then 0
  else
    let attempt := !(l.frozen || s.stp.nonfin.contains n)
    match s.regionOfKind 3 with
    | none => 0
    | some r =>
      let his := leWords l.masters (s.regRead attempt r (4 * l.first) (4 * l.masters))
      let comps := match s.regionOfKind 4 with
        | some c => halves l.masters (s.regRead attempt c (2 * l.first) (2 * l.masters))
        | none => List.replicate l.masters 0
      s.digestFrom l.first ((his.zip comps).map (fun p => masterInt p.1 p.2))

/-- The layer digests of the attempt. -/
def State.layerDigests (s : State) : Tab DWord :=
  s.cur.layers.zipIdx.map (fun x => (x.2, BitVec.ofNat 64 (s.layerDigest x.2 x.1)))

/-- D: the sum of the layer digests mod 2^64 − 59 (R221). -/
def sumDigest (t : Tab DWord) : DWord :=
  BitVec.ofNat 64 (t.foldl (fun a e => (a + e.2.toNat) % digestP) 0)

/-- ρ of a layer: its cores' sums added in increasing core order, then sqrt(SD / SW); for a held layer the canonical NaN (R168, R218,
log 22). -/
def State.ratioOf (s : State) (layer : Nat) : Nm (Option Word) := do
  if s.stp.nonfin.contains layer then return some nan32
  else
    let md : FMode := { legacy := s.cur.head.legacy, sat := false }
    let parts := ((s.stp.ratioParts.filter (fun p => p.1.1 == layer)).mergeSort (fun x y => decide (x.1.2 ≤ y.1.2))).map (·.2)
    match parts with
    | [] => return none
    | p :: r => do
      let t ← r.foldlM (addSums md) p
      if isZero32 md.legacy t.2 then return some (if isZero32 md.legacy t.1 then 0 else 0x7F800000)
      else do
        let q ← div32 md t.1 t.2
        let x ← sqrt32 md q
        return some x

/-! ### FENCE and COMMIT (R30, R253, R378) -/

/-- Whether a descriptor is work that a FENCE's scope names: engines of its core, the Mandoline, the links (R244, R253). -/
def inScope (f x : Desc) : Bool :=
  let cls := Desc.opcode x / 16
  (Desc.flag f 10 0 && Desc.core x == Desc.core f && cls != 6 && cls != 7 && Desc.opcode x != 0xB1 && cls != 0xC)
    || (Desc.flag f 10 1 && cls == 6)
    || (Desc.flag f 10 2 && (cls == 7 || Desc.opcode x == 0xB1))

/-- Whether the named work of its slot that precedes a fence has completed. -/
def State.fenceMet (s : State) (f : Desc) : Bool :=
  s.cur.descs.all (fun x => !(Desc.slot x == Desc.slot f && decide (x.num < f.num) && inScope f x && s.willRun x)
    || s.stp.done.contains x.num)

/-- The run under its opcode of a descriptor of no engine: it waits until it is ready, then takes effect and completes (R244). -/
def State.runWhen (s : State) (op : Nat) (d : Desc) (ready : Bool) (body : State → State) : State :=
  if Desc.opcode d ≠ op || !s.runs d then s
  else if s.mustWait d || !ready then s.hold d.num
  else (body s).finish d.num

/-- FENCE (descriptor 0xC0). -/
def execFence (d : Desc) (e : Env) (s : State) : Host.Outcome State Fault Refusal :=
  .next (s.runWhen 0xC0 d (s.fenceMet d) (fun t => t.noteLate e.late (Desc.slot d)))

/-- The readiness of the step's commit: ratios and digests of the attempt are settled (R30, R218, R221). -/
def State.commitOp (s : State) : State :=
  { s with stp := { s.stp with layerDig := s.layerDigests, commitReady := true } }

/-- The working bank of a region kind; nothing where the recipe has none. -/
def State.workingBank (s : State) (k : Nat) : List Byte :=
  match s.regionOfKind k with
  | none => []
  | some r => s.regRead true r 0 (s.bankBytes r)

/-- The step's gradient in T32 by master, from what its UPDATEs read (R378); +0 where none read. -/
def State.gradLog (s : State) (masters : Nat) : List Byte :=
  wordBytes ((List.range masters).map (fun i =>
    ((s.stp.grads.filter (fun g => decide (g.1 ≤ i) && decide (i < g.1 + g.2.length))).getLast?.map
      (fun g => g.2.getD (i - g.1) 0)).getD 0))

/-- What the step sends to the holder of this device's shadow: the working state in a step whose number is a multiple of N, else a log
(R378). -/
def State.shadowMsg (s : State) (n : Nat) : ShadowMsg :=
  let full := decide (s.stp.step % max 1 n = 0)
  let hi := s.workingBank 3
  let comp := s.workingBank 4
  let mom := s.workingBank 5
  let est := s.workingBank 6
  let err := s.workingBank 0xA
  { dev := s.device, n := n, size := hi.length + comp.length + mom.length + est.length + err.length, step := s.stp.step,
    epoch := s.upd.epoch + 1, full := full, hi := if full then hi else [], comp := if full then comp else [],
    mom := if full then mom else [], est := est, err := err, grad := if full then [] else s.gradLog (hi.length / 4),
    digest := sumDigest s.layerDigests, base := s.cur.head.base }

/-- Bytes in pieces of n. -/
def piecesBy (n : Nat) (bs : List Byte) : List (List Byte) :=
  (List.range (cdiv bs.length n)).map (fun i => (bs.drop (n * i)).take n)

/-- Bytes sent to a device in packets of 2 KiB, numbered from `id` on (log 117). -/
def State.sendBulk (s : State) (dst vc id : Nat) (bs : List Byte) : State :=
  (piecesBy 2048 bs).zipIdx.foldl (fun t x =>
    let p := t.launched { src := s.device, dst := dst, vc := vc, gen := 0, id := id + x.2, data := x.1, inPort := none, via := none,
                          second := false }
    (t.keep p).route p) s

/-- The bytes of a step's traffic: their layout is not stated (log 117). -/
def shadowBytes (m : ShadowMsg) : List Byte :=
  wordBytes [wd m.dev, wd m.n, wd m.size, wd m.step, wd m.epoch, wd (b2n m.full)] ++ leBytes 8 m.digest.toNat ++ leBytes 8 m.base.toNat
    ++ m.hi ++ m.comp ++ m.mom ++ m.est ++ m.err ++ m.grad

/-- The step's shadow traffic leaves for its holder on VC2, once in an attempt (R378, log 117). -/
def State.sendShadow (s : State) : State :=
  match s.flt.shadowCfg with
  | none => s
  | some c =>
    if s.stp.shadowSent.isSome then s
    else
      let m := s.shadowMsg c.2
      ({ s with stp := { s.stp with shadowSent := some m } }).sendBulk c.1 2 (2 ^ 42) (shadowBytes m)

/-- Whether every UPDATE of the step that runs has completed. -/
def State.updatesDone (s : State) : Bool :=
  s.cur.descs.all (fun x => Desc.opcode x != 0x80 || !s.willRun x || s.stp.done.contains x.num)

/-- UPDATE (descriptor 0x80). With the last of the step the shadow traffic leaves. -/
def execUpdate (d : Desc) (e : Env) (s : State) : Host.Outcome State Fault Refusal :=
  let t := s.runDesc 0x80 d e (fun t => t.updateOp d)
  .next (if t.stp.done.contains d.num && !s.stp.done.contains d.num && t.updatesDone then t.sendShadow else t)

/-- Whether a step waits for its shadow traffic to reach the holder (R378). -/
def State.shadowDone (s : State) (arrived : Bool) : Bool :=
  s.flt.shadowCfg.isNone || arrived

/-- COMMIT (descriptor 0xC1). In a step without an UPDATE the shadow traffic leaves now. -/
def execCommit (d : Desc) (e : Env) (shadowArrived : Bool) (s : State) : Host.Outcome State Fault Refusal :=
  let t := if Desc.opcode d == 0xC1 && s.runs d && !s.mustWait d then s.sendShadow else s
  .next (t.runWhen 0xC1 d (s.shadowDone shadowArrived) (fun t => (t.noteLate e.late (Desc.slot d)).commitOp))

/-! ### DIGEST_EXCHANGE (R367 to R371) -/

/-- What this device sends to the other members (R367). -/
def State.digestMsg (s : State) : DigestMsg :=
  { dev := s.device, attempt := sumDigest s.layerDigests, committed := s.upd.digest,
    cores := (List.range 128).map (fun c => Tab.get s.stp.coreDig c 0) }

/-- Its 1,040 bytes: the attempt's digest, the committed one, and the core digests (R367). -/
def digestBytes (m : DigestMsg) : List Byte :=
  leBytes 8 m.attempt.toNat ++ leBytes 8 m.committed.toNat ++ m.cores.flatMap (fun c => leBytes 8 c.toNat)

/-- The message sent to every other member of the group, on the group's VC (R262, R367). -/
def State.sendDigest (s : State) (d : Desc) (g : Group) : State :=
  (g.members.filter (fun m => m.1 != s.device)).foldl (fun t m =>
    let p := t.launched { src := s.device, dst := m.1, vc := g.vc, gen := 0, id := (d.num * 2 ^ 10 + m.1) * 2 ^ 32,
                          data := digestBytes s.digestMsg, inPort := none, via := none, second := false }
    (t.keep p).route p) s

/-- Another member's committed banks taken: masters, moments, estimators and error memory (R370). -/
def State.copyBanks (s : State) (c : BankCopy) : State :=
  let s1 := [(3, c.hi), (4, c.comp), (5, c.mom), (6, c.est), (0xA, c.err)].foldl (fun (t : State) x =>
    match t.regionOfKind x.1 with
    | none => t
    | some r => t.regWriteCommitted r 0 (x.2.take (t.bankBytes r))) s
  { s1 with upd := { s1.upd with digest := c.digest } }

/-- The committed bank of a region kind; nothing where the recipe has none. -/
def State.committedBank (s : State) (k : Nat) : List Byte :=
  match s.regionOfKind k with
  | none => []
  | some r => s.regRead false r 0 (s.bankBytes r)

/-- The committed banks sent over VC3 to the members that copy them: those whose attempt and committed digests both differ from the majority's
(R370). A member sees every other member's digests, so that none asks (DEDUCED, log 118). -/
def State.sendBanks (s : State) (m : DigestMsg) (peers : List DigestMsg) : State :=
  (peers.filter (fun p => p.attempt != m.attempt && p.committed != m.committed)).foldl (fun t p =>
    t.sendBulk p.dev 3 ((2 ^ 34 + p.dev) * 2 ^ 32) ([3, 4, 5, 6, 0xA].flatMap s.committedBank)) s

/-- The value held by a strict majority, if any (R370). -/
def majority (ms : List DigestMsg) : Option DigestMsg :=
  ms.find? (fun m => decide (ms.length < 2 * (ms.filter (fun x => x.attempt == m.attempt)).length))

/-- The cores whose digests differ (R371). -/
def suspectsOf (x y : DigestMsg) : List Nat :=
  (x.cores.zip y.cores).zipIdx.filterMap (fun p => if p.1.1 != p.1.2 then some p.2 else none)

/-- A suspect's UPDATE with the inputs that localisation gives it again: the committed banks, the attempt's gradient and the row (R372). -/
def State.locRun (s : State) (d : Desc) (l : Layer) : LocRun :=
  let t := s.dropBanks
  let n := uCount d
  let first := l.first + uFirst d
  let gs := ((s.stp.grads.find? (fun g => g.1 == first && g.2.length == n)).map (·.2)).getD (List.replicate n 0)
  let his := leWords n (t.opRead (Desc.home d) (Desc.opB d) (4 * n))
  let comps := match t.regionOfKind 4 with
    | some c => halves n (t.regRead true c ((Desc.opB d).addr / 2) (2 * n))
    | none => List.replicate n 0
  let ms := t.moments d (uFirst d) n
  let vs := if uOpt d = 2 then t.moments d (l.masters + uFirst d) n else List.replicate n 0
  let outs := ((t.updateWith d l (pure gs)).run fx0).1.outs
  { core := Desc.core d, desc := d, first := first, x := s.digestX, row := t.hyperRow d,
    operands := ((his.zip comps).zip (gs.zip (ms.zip vs))).map (fun e => [e.1.1, e.1.2.setWidth 32, e.2.1, e.2.2.1, e.2.2.2]),
    exact := outs.map (fun (o : UpdOut) => [o.hi, o.comp.setWidth 32, o.m, o.v]) }

/-- Those of the suspects, of the attempt as it stands. -/
def State.locRunsOf (s : State) (sus : List Nat) : List LocRun :=
  (s.cur.descs.filter (fun d => Desc.opcode d == 0x80 && sus.contains (Desc.core d) && s.stp.done.contains d.num)).filterMap (fun d =>
    match s.layerOf d with
    | none => none
    | some l => if l.frozen || !l.trainable || s.stp.nonfin.contains (Desc.layer d) then none else some (s.locRun d l))

/-- Localisation of some suspects against a member's core digests; with no suspect nothing is to be localised (R371, R372, R386). -/
def State.localise (s : State) (sus : List Nat) (ref : DigestMsg) : State :=
  { s with flt := { s.flt with suspects := sus, localising := !sus.isEmpty, locRuns := s.locRunsOf sus, locRef := ref.cores } }

/-- The suspect cores swapped to spare cores of their die for the replay, where spares exist; a core swapped before keeps its place to return to
(R370). -/
def State.swapSuspects (s : State) (l : List Nat) : State :=
  match l with
  | [] => s
  | c :: r =>
    match s.sparesLeft (c / 64) with
    | [] => s.swapSuspects r
    | p :: _ =>
      ({ s with flt := { s.flt with coreMap := Tab.put s.flt.coreMap c p,
                                    swapped := Tab.put s.flt.swapped c (Tab.get s.flt.swapped c (s.phys c)) } }).swapSuspects r

/-- A transient error charged to each suspect core (R370). -/
def State.chargeSuspects (s : State) (l : List Nat) : State :=
  match l with
  | [] => s
  | c :: r => (s.chargeErr uCore c 0xB001 false).chargeSuspects r

/-- The digests agree: counted; after a replay in reference mode each member charges its suspects (R369, R370). -/
def State.digestsAgree (s : State) : State :=
  let s1 := s.count cDigest 1
  if s1.flt.disagreed then
    let s2 := s1.chargeSuspects s1.flt.suspects
    { s2 with flt := { s2.flt with disagreed := false, suspects := [] } }
  else s1

/-- The digests differ: raised, counted, the commit withheld; then by majority, or by a replay in reference mode (R369 to R371). A divergent
member whose committed digest differs too copies the majority's committed banks, and finds its suspects in the replay. Without a
majority a member compares with the lowest-numbered other member that differs (log 118). -/
def State.digestsDiffer (s : State) (me : DigestMsg) (peers : List DigestMsg) (copy : Option BankCopy) : State :=
  let all := me :: peers
  let s1 := ((s.raise 0xB001 []).count cDigestMis 1).cause 0xA
  match (if 3 ≤ all.length then majority all else none) with
  | some m =>
    let same := all.filter (fun p => p.attempt == m.attempt)
    let low := (same.find? (fun p => same.all (fun q => decide (p.dev ≤ q.dev)))).getD m
    if m.attempt = me.attempt then (if low.dev = me.dev then s1.sendBanks low peers else s1)
    else if low.committed ≠ me.committed then ((copy.filter (fun c => c.src == low.dev)).map s1.copyBanks).getD s1
    else (s1.localise (suspectsOf me low) low).swapSuspects (suspectsOf me low)
  | none =>
    let ref := ((peers.filter (fun p => p.attempt != me.attempt)).mergeSort (fun x y => decide (x.dev ≤ y.dev))).headD me
    let sus := suspectsOf me ref
    if s.stp.refAll then s1.localise sus ref
    else { s1 with flt := { s1.flt with suspects := sus, disagreed := true }, stp := { s1.stp with refAll := true } }

/-- DIGEST_EXCHANGE on the state: nothing in a step whose number INTERVAL does not divide (R367). -/
def State.digestExchangeOp (s : State) (d : Desc) (peers : List DigestMsg) (copy : Option BankCopy) :
    State :=
  if s.stp.step % max 1 (Desc.f d 10 15 0) ≠ 0 then s
  else
    match Tab.find s.rcp.groups (Desc.word d 11).toNat with
    | none =>
      let s1 := s.raise 0x9102 [wd d.num, wd 3]
      ({ s1 with stp := { s1.stp with faulted := d.num :: s1.stp.faulted } }).fail 3
    | some g =>
      let me := s.digestMsg
      let others := peers.filter (fun p => p.dev != s.device && g.members.any (fun m => m.1 == p.dev))
      let s1 := s.sendDigest d g
      if others.all (fun p => p.attempt == me.attempt) then s1.digestsAgree else s1.digestsDiffer me others copy

/-- DIGEST_EXCHANGE (descriptor 0xB1): `peers` are the messages received, `copy` the committed banks of the lowest-numbered majority
member. -/
def execDigestExchange (d : Desc) (e : Env) (peers : List DigestMsg) (copy : Option BankCopy) (s : State) :
    Host.Outcome State Fault Refusal :=
  .next (s.runDesc 0xB1 d e (fun t => t.digestExchangeOp d peers copy))

end Sys2Proof.Machine
end

