-- ==== Sys2Proof/Machine/Recipe.lean ====
section
/-! DEFINITION. Recipes as byte images (R227 to R253): what an image holds, the checks at load (R255), and the regions a load takes
(R320 to R322). -/

namespace Sys2Proof.Machine

/-! ### Reading an image (R227 to R234) -/

/-- n little-endian bytes of an image at an offset, as a number. -/
def leAt (bs : List Byte) (off n : Nat) : Nat :=
  leNat ((bs.drop off).take n)

/-- Offset and count of section k. -/
def secOff (bs : List Byte) (k : Nat) : Nat := leAt bs (0x40 + 8 * k) 4
def secCount (bs : List Byte) (k : Nat) : Nat := leAt bs (0x44 + 8 * k) 4

/-- Entry sizes and limits of R228; constants are of variable size and count as their heads. -/
def secSize (k : Nat) : Nat := [32, 16, 32, 8, 16, 64, 2, 16].getD k 0
def secMost (k : Nat) : Nat := [255, 63, 65536, 65536, 65536, 4194304, 2048, 4096].getD k 0

/-- The entries of a section. -/
def secEntries (bs : List Byte) (k : Nat) : List (List Byte) :=
  chunk (secSize k) (secCount bs k) (bs.drop (secOff bs k))

/-- Word i of an entry. -/
def entWord (b : List Byte) (i : Nat) : Word := BitVec.ofNat 32 (leAt b (4 * i) 4)

/-- The header (R227). -/
def headOf (bs : List Byte) : RHead :=
  { isRun := leAt bs 6 1 != 0, legacy := leAt bs 7 1 % 2 == 1, jobId := BitVec.ofNat 32 (leAt bs 0xC 4),
    coreMask := BitVec.ofNat 128 (leAt bs 0x10 16), seed := BitVec.ofNat 64 (leAt bs 0x20 8),
    base := BitVec.ofNat 64 (leAt bs 0x28 8), beatUs := leAt bs 0x30 2, gapPct := leAt bs 0x32 1, replayMax := leAt bs 0x33 1,
    fenceLimit := leAt bs 0x34 2, splitReserve := leAt bs 0x36 1, stkHigh := leAt bs 0x37 1, stkHard := leAt bs 0x38 1,
    stkHead := leAt bs 0x39 1, beats := leAt bs 0x3A 2, decay := BitVec.ofNat 32 (leAt bs 0x3C 4), keyId := leAt bs 0x80 1 }

/-- A tensor table entry (R230). -/
def tensorOf (b : List Byte) : Tensor :=
  { fmt := fld (entWord b 0) 23 20, kind := fld (entWord b 0) 19 16, headroom := fld (entWord b 0) 15 13,
    dim0 := (entWord b 1).toNat, dim1 := (entWord b 2).toNat, initE := entWord b 3, estBase := (entWord b 4).toNat,
    estCount := (entWord b 5).toNat }

/-- A region table entry (R231). -/
def regionOf (b : List Byte) : RegionEnt :=
  { kind := fld (entWord b 0) 31 24, index := fld (entWord b 0) 23 16, spread := fld (entWord b 0) 15 14,
    region := fld (entWord b 0) 5 0, size := (entWord b 1).toNat }

/-- A layer table entry (R232). -/
def layerOf (b : List Byte) : Layer :=
  { segment := fld (entWord b 0) 31 16, frozen := (entWord b 0).getLsbD 1, trainable := (entWord b 0).getLsbD 0,
    masters := (entWord b 1).toNat, first := (entWord b 2).toNat, clipk := entWord b 3,
    rhi := (entWord b 4).extractLsb' 16 16, rlo := (entWord b 4).extractLsb' 0 16 }

/-- A segment table entry (R233). -/
def segmentOf (b : List Byte) : SegEnt :=
  { first := fld (entWord b 0) 31 16, last := fld (entWord b 0) 15 0, recomp := (entWord b 1).getLsbD 0 }

/-- A slot table entry (R236). -/
def slotEntryOf (b : List Byte) : Slot :=
  { kind := fld (entWord b 0) 31 28, predEn := (entWord b 0).getLsbD 27, predPol := (entWord b 0).getLsbD 26,
    pred := fld (entWord b 0) 25 22, beat := fld (entWord b 0) 15 0, start := (entWord b 1).toNat,
    budget := (entWord b 2).toNat, mb := fld (entWord b 3) 15 0 }

/-- A constants block (R234). -/
structure ConstBlock where
  region : Nat
  off : Nat
  data : List Byte
deriving DecidableEq, Repr

/-- The constants blocks, each padded to 64 bytes with its head. -/
def constsFrom (n : Nat) (bs : List Byte) : List ConstBlock :=
  match n with
  | 0 => []
  | n + 1 =>
    let len := leAt bs 4 4
    { region := leAt bs 0 1 % 64, off := leAt bs 8 8, data := (bs.drop 16).take len } ::
      constsFrom n (bs.drop (cdiv (16 + len) 64 * 64))

def constsOf (bs : List Byte) : List ConstBlock :=
  constsFrom (secCount bs 7) (bs.drop (secOff bs 7))

/-- The entry budget of every array: 64 times its entry, 8,192 where the recipe gives none (R100, R228). -/
def budgetsOf (bs : List Byte) : List Nat :=
  let l := (secEntries bs 6).map (fun b => 64 * leAt b 0 2)
  l ++ List.replicate (2048 - l.length) 8192

/-- The image with its SIGNATURE field zero (R229). -/
def signedBytes (bs : List Byte) : List Byte :=
  bs.take 0x90 ++ List.replicate 96 0 ++ bs.drop 0xF0

/-- The bytes R356 hashes: the layer table, then the tensor entries of kind WEIGHT and STATE. -/
def layoutBytes (bs : List Byte) : List Byte :=
  (secEntries bs 2).flatten ++ ((secEntries bs 0).filter (fun b =>
    let k := (tensorOf b).kind
    k == 1 || k == 2)).flatten

/-- The recipe an image holds. -/
def recipeOf (bs : List Byte) : Recipe :=
  { head := headOf bs, size := leAt bs 8 4, tensors := (secEntries bs 0).map tensorOf, regions := (secEntries bs 1).map regionOf,
    layers := (secEntries bs 2).map layerOf, segs := (secEntries bs 3).map segmentOf, slots := (secEntries bs 4).map slotEntryOf,
    descs := (secEntries bs 5).zipIdx.map (fun b => { num := b.2, w := leWords 16 b.1 }), budgets := budgetsOf bs,
    hash := Config.sha384 bs, layout := layoutBytes bs }

/-! ### The checks of R255, each giving the section and entry of its first failure -/

/-- Section and entry. -/
abbrev Hit := Option (Nat × Nat)

/-- The first entry of a section that fails. -/
def hitIn {α : Type} (sec : Nat) (l : List α) (bad : α → Bool) : Hit :=
  (l.findIdx? bad).map (fun i => (sec, i))

/-- The first of several. -/
def firstHit (l : List Hit) : Hit :=
  l.findSome? id

/-- A header field, by its byte offset. -/
def headHit (off : Nat) (bad : Bool) : Hit :=
  if bad then some (0xFF, off) else none

/-- SIGNATURE (R229): an empty key slot, then a signature that does not verify. -/
def checkSignature (keys : Tab (List Byte)) (bs : List Byte) : Hit :=
  match Tab.find keys (leAt bs 0x80 1) with
  | none => some (0xFF, 0x080)
  | some k => headHit 0x090 (!Config.ecdsaVerify k (Config.sha384 (signedBytes bs)) ((bs.drop 0x90).take 96))

/-- Bytes a section takes. -/
def secBytes (bs : List Byte) (k : Nat) : Nat :=
  if k = 7 then ((constsOf bs).map (fun c => cdiv (16 + c.data.length) 64 * 64)).foldl (· + ·) 0 else secSize k * secCount bs k

/-- HEADER (R227). A section that is present starts after the header, at a multiple of 64, and ends within the recipe. -/
def checkHeader (bs : List Byte) : Hit :=
  let size := leAt bs 8 4
  firstHit ([headHit 0 (leAt bs 0 4 != 0x43525A4C), headHit 4 (leAt bs 4 2 != 0x0100), headHit 6 (decide (1 < leAt bs 6 1)),
    headHit 8 (size % 64 != 0 || decide (0x10000000 < size) || decide (size < 256))]
    ++ (List.range 8).map (fun k => headHit (0x40 + 8 * k) (secCount bs k != 0
      && (secOff bs k % 64 != 0 || decide (secOff bs k < 256) || decide (size < secOff bs k + secBytes bs k)))))

/-- The four operands. -/
def operands (d : Desc) : List Opnd := [Desc.opD d, Desc.opA d, Desc.opB d, Desc.opC d]

/-- Whether CORE suits the descriptor: 0xFF for a device-level one, a logical core for the others; a NOP may have either (R241, R244,
R253). -/
def coreSuits (d : Desc) : Bool :=
  if Desc.opcode d = 0 then decide (Desc.core d < 128) || Desc.core d == 0xFF
  else if deviceLevel d then Desc.core d == 0xFF else decide (Desc.core d < 128)

/-- Whether WAIT names a DMA descriptor of the same beat, or none (R241). -/
def waitSuits (r : Recipe) (d : Desc) : Bool :=
  let n := Desc.word d 15
  n == 0xFFFFFFFF || (match r.descs[n.toNat]? with
    | none => false
    | some x => Desc.opcode x / 16 == 6
        && (r.slots[Desc.slot x]?).map (·.beat) == (r.slots[Desc.slot d]?).map (·.beat))

/-- A signed byte field. -/
def signedByte (n : Nat) : Int := (BitVec.ofNat 8 n).toInt

/-- Whether a descriptor's class fields are outside their ranges (R245, R248, R250 to R253, R367). -/
def fieldsBad (r : Recipe) (d : Desc) : Bool :=
  let op := Desc.opcode d
  if op = 0x10 then ampNvec d == 0 || ampRows d == 0 || decide (1024 < ampRows d) || ampKbase d % 1024 != 0
  else if op = 0x40 then
    let dD := Desc.opD d
    let per := ((r.tensors[dD.tensor]?).map (·.dim0)).getD 0
    (Desc.flag d 11 0
        && (decide (signedByte (Desc.f d 11 15 8) < -126) || decide (120 < signedByte (Desc.f d 11 15 8))))
      || (isQ8 dD.fmt && Desc.f d 12 5 0 != 0 && (per == 0 || (Desc.word d 10).toNat % per != 0))
  else if op = 0x41 then qNarr d == 0 || decide (2048 < qArray0 d + qNarr d)
  else if op / 16 = 6 then decide (127 < Desc.f d 12 7 0) && Desc.f d 12 7 0 != 0xFF
  else if op / 16 = 7 then if op = 0x74 then cVc d != 3 else decide (cVc d < 4)
  else if op = 0x80 then
    match r.layers[Desc.layer d]? with
    | none => true
    | some l => decide (l.masters < uFirst d + uCount d)
  else if op = 0x90 then awRows d == 0 || decide (1024 < awRow0 d + awRows d)
  else if op = 0xB1 then Desc.f d 10 15 0 == 0
  else false

/-- Whether a kind of slot carries a micro-batch (R236). -/
def mbKind (k : Nat) : Bool := k == 0 || k == 1 || k == 2 || k == 8 || k == 9

/-- Whether a slot's micro-batch suits its kind (R236). -/
def mbSuits (x : Slot) : Bool := mbKind x.kind || x.mb == 0xFFFF

/-- Whether segment i does not cover layers in order after the one before it (R233). -/
def segBad (r : Recipe) (i : Nat) : Bool :=
  match r.segs[i]? with
  | none => false
  | some x => decide (x.last < x.first) || decide (r.layers.length ≤ x.last)
      || (i != 0 && decide (x.first ≤ ((r.segs[i - 1]?).map (·.last)).getD 0))

/-- DECAY lies between 0 and 1 (R227). -/
def decayOk (h : RHead) : Bool :=
  let x := unpack32 h.legacy h.decay
  (FVal.fin false 0 0).lt x && x.lt (.fin false 1 0)

/-- PARAMETER: header fields by offset, then the tables in section order. -/
def checkParameter (bs : List Byte) (r : Recipe) : Hit :=
  let h := r.head
  firstHit [headHit 0x028 (decide (h.base.toNat < 2) || decide (2 ^ 64 - 59 ≤ h.base.toNat)),
    headHit 0x030 (decide (h.beatUs < 50) || decide (1000 < h.beatUs)),
    headHit 0x032 (decide (h.gapPct < 6) || decide (50 < h.gapPct)),
    headHit 0x033 (h.replayMax == 0 || decide (15 < h.replayMax)), headHit 0x034 (h.fenceLimit == 0),
    headHit 0x036 (decide (15 < h.splitReserve)), headHit 0x037 (decide (h.stkHard < h.stkHigh)),
    headHit 0x039 (decide (h.stkHead < 2) || decide (16 < h.stkHead)), headHit 0x03A (h.beats == 0),
    headHit 0x03C (!decayOk h),
    hitIn 1 r.regions (fun e => e.region == 63 || e.size == 0
      || decide ((if e.kind = 1 then 15 else if e.kind = 2 then 3 else 0) < e.index)),
    hitIn 2 r.layers (fun l => !r.segs.isEmpty && decide (r.segs.length ≤ l.segment)),
    hitIn 3 (List.range r.segs.length) (segBad r),
    hitIn 4 r.slots (fun x => decide (h.beats ≤ x.beat) || x.budget == 0 || !mbSuits x),
    hitIn 5 r.descs (fun d => knownOp (Desc.opcode d) && ((operands d).any (fun o =>
      o.tensor != 0xFF && decide (r.tensors.length ≤ o.tensor)) || !coreSuits d || !waitSuits r d || fieldsBad r d)),
    hitIn 6 (secEntries bs 6) (fun b => decide (2048 < leAt b 0 2))]

/-! #### Regions (R320 to R322) -/

/-- The runs of frames taken in a device, as (base, frames). -/
def takenIn (rs : Tab Region) (dev : Nat) : List (Nat × Nat) :=
  rs.filterMap (fun e => (Tab.find e.2.base dev).map (fun b => (b, e.2.frames)))

/-- The free run that starts at a frame: up to the next taken run or the device's end. -/
def runAt (taken : List (Nat × Nat)) (a : Nat) : Nat :=
  taken.foldl (fun n t => if a < t.1 + t.2 then min n (t.1 - a) else n) (deviceFrames - a)

/-- The longest run of free frames of a device as (length, start); among equals the lowest start. -/
def longestRun (taken : List (Nat × Nat)) : Nat × Nat :=
  (0 :: taken.map (fun t => t.1 + t.2)).foldl (fun b a =>
    let n := runAt taken a
    if b.1 < n ∨ (b.1 = n ∧ a < b.2) then (n, a) else b) (0, deviceFrames)

/-- The frames a region needs in each device it lies in (R322). -/
def framesOf (spread size : Nat) : Nat :=
  if spread = 1 then cdiv (size * 512) 6 else if spread = 2 then size * 512 else cdiv (size * 512) 24

/-- The index of the largest number of a list, the lowest among equals. -/
def argMax (l : List Nat) : Nat :=
  (l.zipIdx.foldl (fun b x => if b.1 < x.1 + 1 then (x.1 + 1, x.2) else b) (0, 0)).2

/-- The devices a region takes, with its PLACE. -/
def placeOf (rs : Tab Region) (spread : Nat) : Nat × List Nat :=
  let run := fun d => (longestRun (takenIn rs d)).1
  if spread = 1 then
    let g := argMax ((List.range 4).map (fun g => ((List.range 6).map (fun i => run (6 * g + i))).foldl min deviceFrames))
    (g, (List.range 6).map (fun i => 6 * g + i))
  else if spread = 2 then
    let d := argMax ((List.range 24).map run)
    (d, [d])
  else (0, List.range 24)

/-- A region placed, when it fits. -/
def allocRegion (rs : Tab Region) (e : RegionEnt) : Option (Tab Region) :=
  let n := framesOf e.spread e.size
  let p := placeOf rs e.spread
  let runs := p.2.map (fun d => (d, longestRun (takenIn rs d)))
  if runs.all (fun x => decide (n ≤ x.2.1)) then
    some (Tab.put rs e.region { kind := e.kind, index := e.index, spread := e.spread, size := e.size, place := p.1,
                                base := runs.map (fun x => (x.1, x.2.2)), frames := n })
  else none

/-- The regions after every entry of a table that is not yet allocated has been placed; else the first that does not fit. -/
def allocAll (rs : Tab Region) (i : Nat) (l : List RegionEnt) : Except Nat (Tab Region) :=
  match l with
  | [] => .ok rs
  | e :: rest =>
    if (Tab.find rs e.region).isSome then allocAll rs (i + 1) rest
    else match allocRegion rs e with
      | none => .error i
      | some rs' => allocAll rs' (i + 1) rest

/-- Bytes in region 63 (R254). -/
def State.storeUsed (s : State) : Nat :=
  (s.rcp.slots.map (fun x => x.2.size)).foldl (· + ·) 0

/-- CAPACITY: the counts of R228, region 63, and regions that do not fit. -/
def checkCapacity (s : State) (bs : List Byte) (r : Recipe) : Hit :=
  firstHit ((List.range 8).map (fun k => if secMost k < secCount bs k then some (k, secMost k) else none)
    ++ [headHit 0x008 (decide (0x40000000 < s.storeUsed + r.size)),
        match allocAll s.mem.regions 0 r.regions with
        | .ok _ => none
        | .error i => some (1, i)])

/-! #### FORMAT and ENCODING -/

/-- Whether D is a destination of the operation. -/
def writesD (op : Nat) : Bool :=
  knownOp op && op != 0 && op != 0x50 && op != 0x80 && op != 0x90 && op != 0xA0 && op != 0xB1
    && op / 16 != 0xC

/-- Import-only formats (R35). -/
def importOnly (f : Nat) : Bool := f == fFP16 || f == fX4T || f == fX4Z

/-- Whether a descriptor's formats are not allowed (R35, R63, R159, R195, R245, R248, R253, R265). -/
def formatBad (r : Recipe) (d : Desc) : Bool :=
  let op := Desc.opcode d
  let dA := Desc.opA d
  let dD := Desc.opD d
  (operands d).any (fun o => decide (0xE ≤ o.fmt)) || (op / 16 == 5 && decide (0xE ≤ pFmt d))
    || (writesD op && importOnly dD.fmt)
    || (op == 0x20 && (dA.fmt == fX4T || dA.fmt == fX4Z))
    || (op == 0x10 && (!isQ8 dA.fmt || dD.fmt != fT32 || (match r.tensors[dA.tensor]? with
          | some t => !isQ8 t.fmt
          | none => false)))
    || (op == 0x40 && !convOk dA.fmt dD.fmt) || (op == 0x71 && dD.fmt != fT32)
    || (op == 0x41 && (!isW dD.fmt || dA.fmt != fT32C)) || (op == 0x90 && !isW dA.fmt)

/-- FORMAT. -/
def checkFormat (r : Recipe) : Hit :=
  firstHit [hitIn 0 r.tensors (fun t => decide (0xE ≤ t.fmt)), hitIn 5 r.descs (fun d => knownOp (Desc.opcode d) && formatBad r d)]

/-- Functions of a class 0x3 descriptor (R247). -/
def fnKnown (op fn : Nat) : Bool :=
  if op = 0x30 then decide (fn ≤ 7) || (decide (0x10 ≤ fn) && decide (fn ≤ 0x1E))
  else if op = 0x31 then decide (0x30 ≤ fn) && decide (fn ≤ 0x33)
  else if op = 0x34 then decide (0x20 ≤ fn) && decide (fn ≤ 0x26)
  else true

/-- Flags where R244 forbids them. -/
def flagsBad (d : Desc) : Bool :=
  let c := Desc.opcode d / 16
  ((Desc.ref d || Desc.taste d) && Desc.opcode d != 0x10)
    || ((Desc.sat d || Desc.sr d) && (c == 5 || c == 6 || c == 7 || c == 9 || c == 0xA || c == 0xB || c == 0xC))

/-- Whether a descriptor holds a reserved encoding (R102, R186, R209, R244, R247, R265). -/
def encodingBad (d : Desc) : Bool :=
  let op := Desc.opcode d
  !knownOp op || flagsBad d || !fnKnown op (Desc.f d 13 7 0) || (op == 0x41 && qPolicy d == 3)
    || (op == 0x80 && decide (3 < uOpt d)) || (op / 16 == 5 && decide (4 < pKind d))
    || (op / 16 == 7 && (decide (2 < cMode d) || (op == 0x74 && cMode d != 0)))

/-- ENCODING. -/
def checkEncoding (r : Recipe) : Hit :=
  firstHit [hitIn 0 r.tensors (fun t => decide (3 < t.kind)), hitIn 1 r.regions (fun e => decide (0xC ≤ e.kind) && e.kind != 0xFF),
    hitIn 4 r.slots (fun x => decide (0xB ≤ x.kind)), hitIn 5 r.descs encodingBad]

/-! #### ADDRESS and CORE -/

/-- A region entry that conflicts with an allocated region, an earlier entry, or the recipe store (R231, R322). -/
def regionConflict (rs : Tab Region) (l : List RegionEnt) (i : Nat) : Bool :=
  match l[i]? with
  | none => false
  | some e => e.kind == 0xFF || (l.take i).any (fun x => x.region == e.region)
      || (match Tab.find rs e.region with
          | none => false
          | some x => !(x.kind == e.kind && x.index == e.index && x.spread == e.spread && x.size == e.size))

/-- Bytes an operand may reach in a region of the recipe: one bank of a pair (R231). -/
def tableBytes (r : Recipe) (n : Nat) : Nat :=
  match r.regions.find? (fun e => e.region == n) with
  | none => 0
  | some e => e.size * 1048576 / (if pairKind e.kind then 2 else 1)

/-- The kind of a region of the recipe. -/
def tableKind (r : Recipe) (n : Nat) : Option Nat :=
  (r.regions.find? (fun e => e.region == n)).map (·.kind)

/-- Which operands may lie in regions, as places in D, A, B, C (R243, R244, R248, R276). -/
def mayBeMem (d : Desc) : List Bool :=
  let op := Desc.opcode d
  if deviceLevel d ∨ op = 0x41 then [true, true, true, true]
  else if op = 0x80 then [true, false, true, true]
  else if op = 0x90 then [false, true, true, true]
  else [false, false, false, false]

/-- Which must (R244, R248, R253). A collective has no core whose store an operand could name. -/
def mustBeMem (d : Desc) : List Bool :=
  let op := Desc.opcode d
  if op = 0x41 then [true, true, true, false]
  else if op = 0x80 then [true, false, true, true]
  else if op = 0x90 then [false, true, true, !(Desc.opC d).isNone]
  else if op = 0x74 then [!(Desc.opD d).isNone, !(Desc.opA d).isNone, false, false]
  else if op / 16 = 7 then [true, true, false, false]
  else [false, false, false, false]

/-- Whether an extent lies within its tensor: so many elements, and so many bytes, the tensor's own rounded up to units of 256 (R230, R243,
R249, log 110). -/
def tensorFits (r : Recipe) (x : Ext) : Bool :=
  match r.tensors[x.op.tensor]? with
  | some t => decide (x.elems ≤ t.dim0 * t.dim1) && decide (x.span ≤ 256 * cdiv (fmtBytes t.fmt (t.dim0 * t.dim1)) 256)
  | none => true

/-- Whether a QUANTISE covers more arrays than its destination's tensor takes (R74, R243, R248). -/
def imageBad (r : Recipe) (d : Desc) : Bool :=
  Desc.opcode d == 0x41 && (match r.tensors[(Desc.opD d).tensor]? with
    | some t => decide (cdiv t.dim0 1024 * cdiv t.dim1 512 < qNarr d)
    | none => false)

/-- Whether a run of bytes lies in its store range or region, and its elements in its tensor (R170, R243). DESIGN CHOICE, log 133: an engine's
operand in the cluster-store range is accepted and the engine runs on the cluster store; R170 gives the engines the local store alone, but its
load refusal names only other addresses. -/
def extFits (r : Recipe) (d : Desc) (x : Ext) : Bool :=
  if x.bytes = 0 then true
  else if !tensorFits r x then false
  else if x.op.mem then decide (x.op.addr + x.bytes ≤ tableBytes r x.op.region)
  else
    (Desc.opcode d / 16 != 6 || Desc.f d 12 7 0 != 0xFF)
      && (decide (x.op.addr + x.bytes ≤ localBytes)
          || (decide (clusterBase ≤ x.op.addr) && decide (x.op.addr + x.bytes ≤ clusterBase + clusterBytes)))

/-- The masters a descriptor names: B of UPDATE, A of QUANTISE (R455). -/
def mastersOf (d : Desc) : Option Opnd :=
  if Desc.opcode d = 0x80 then some (Desc.opB d) else if Desc.opcode d = 0x41 then some (Desc.opA d) else none

/-- Whether a master operand breaks R455. -/
def mastersBad (r : Recipe) (d : Desc) : Bool :=
  match mastersOf d with
  | none => false
  | some o =>
    tableKind r o.region != some 3 || !(r.regions.any (fun e => e.kind == 4)) || o.addr % 4 != 0
      || (Desc.opcode d == 0x80 && o.addr != 4 * (((r.layers[Desc.layer d]?).map (·.first)).getD 0 + uFirst d))

/-- Whether an error memory lies in another region than ERRMEM (R276). -/
def errBad (r : Recipe) (d : Desc) : Bool :=
  Desc.opcode d / 16 == 7 && cMode d == 2 && (Desc.opC d).mem && tableKind r (Desc.opC d).region != some 0xA

/-- Whether a recipe has masters without both their regions (R455). -/
def mastersLost (r : Recipe) (l : Layer) : Bool :=
  l.trainable && l.masters != 0 && !(r.regions.any (fun e => e.kind == 3) && r.regions.any (fun e => e.kind == 4))

/-- Whether a descriptor's operands are misplaced. -/
def addressBad (r : Recipe) (gs : Tab Group) (d : Desc) : Bool :=
  ((operands d).zip (mayBeMem d)).any (fun x => x.1.mem && !x.2)
    || ((operands d).zip (mustBeMem d)).any (fun x => x.2 && !x.1.mem)
    || mastersBad r d || errBad r d || imageBad r d || (descExts r gs d).any (fun x => !extFits r d x)

/-- ADDRESS. -/
def checkAddress (s : State) (bs : List Byte) (r : Recipe) : Hit :=
  firstHit [hitIn 1 (List.range r.regions.length) (regionConflict s.mem.regions r.regions), hitIn 2 r.layers (mastersLost r),
    hitIn 5 r.descs (addressBad r s.rcp.groups),
    hitIn 7 (constsOf bs) (fun c => decide (tableBytes r c.region < c.off + c.data.length))]

/-- The logical cores a descriptor names (R241, R250). -/
def coresOf (d : Desc) : List Nat :=
  (if Desc.core d < 128 then [Desc.core d] else [])
    ++ (if Desc.opcode d / 16 = 6 ∧ Desc.f d 12 7 0 < 128 then [Desc.f d 12 7 0] else [])
    ++ (if Desc.opcode d = 0x90 then [awArray d / 16] else [])

/-- CORE: outside CORE_MASK or absent (R24); an array lost under choice 3 of R139 counts as an absent core does. -/
def checkCore (s : State) (r : Recipe) : Hit :=
  hitIn 5 r.descs (fun d => (coresOf d).any (fun c => !r.head.coreMask.getLsbD c || s.isAbsent c)
    || s.ana.arrays.any (fun e => e.2.lost && enables d e.1))

/-! #### WINDOW, OVERLAP, STRUCTURE and EPOCH -/

/-- W of R235, in array cycles. -/
def RHead.window (h : RHead) : Nat :=
  h.beatUs * (100 - h.gapPct) * 5 / 2

/-- WINDOW. -/
def checkWindow (r : Recipe) : Hit :=
  hitIn 4 r.slots (fun x => decide (r.head.window < x.start + x.budget) || (x.kind == 3 && x.start != 0))

/-- The engines of a slot. -/
def slotEngines (r : Recipe) (n : Nat) : List (Nat × Nat) :=
  (r.descs.filter (fun d => Desc.slot d == n)).flatMap enginesOf

/-- Whether a slot writes a bank that it also fires (R87). -/
def writeFires (r : Recipe) (n : Nat) : Bool :=
  let l := r.descs.filter (fun d => Desc.slot d == n)
  let w := (l.filter (fun d => Desc.opcode d == 0x90)).flatMap enginesOf
  (l.filter (fun d => Desc.opcode d == 0x10)).any (fun d => (enginesOf d).any (fun x => w.contains x))

/-- Whether two slots of one beat share cycles. -/
def slotsMeet (a b : Slot) : Bool :=
  a.beat == b.beat && decide (a.start < b.start + b.budget) && decide (b.start < a.start + a.budget)

/-- OVERLAP: the later of two slots that use an engine in the same cycles (R87, R238). -/
def checkOverlap (r : Recipe) : Hit :=
  hitIn 4 (List.range r.slots.length) (fun j => writeFires r j || (match r.slots[j]? with
    | none => false
    | some y => (List.range j).any (fun i => (match r.slots[i]? with
        | none => false
        | some x => slotsMeet x y) && (slotEngines r i).any (fun e => (slotEngines r j).contains e))))

/-- Whether a kind of slot admits a descriptor (R240); a compare counts as vector work. -/
def admits (kind : Nat) (d : Desc) : Bool :=
  let op := Desc.opcode d
  let c := op / 16
  if kind = 6 then op == 0xC1
  else if kind = 4 then op == 0x80 || c == 3 || op == 0xA0 || c == 0xB || op == 0xC0
  else if kind = 5 then c == 4 || c == 6 || c == 3 || op == 0xA0 || op == 0xC0
  else if kind = 7 then op == 0x90 || c == 6 || op == 0xC0
  else if kind = 3 then c == 7 || op == 0xB1
  else op != 0x80 && op != 0xC1 && c != 7

/-- The order of slots: by BEAT, then START, then KIND (R236). -/
def slotKey (x : Slot) : Nat := (x.beat * 2 ^ 32 + x.start) * 16 + x.kind

/-- Whether a slot is out of order or of a kind that the recipe's kind does not have (R236, R237). -/
def slotBad (r : Recipe) (i : Nat) : Bool :=
  match r.slots[i]? with
  | none => false
  | some x =>
    (i != 0 && decide (slotKey x < ((r.slots[i - 1]?).map slotKey).getD 0))
      || (if r.head.isRun then !(x.kind == 3 || x.kind == 7 || x.kind == 0xA)
          else x.kind == 0xA || (x.kind == 6 && (x.beat + 1 != r.head.beats || (r.slots.take i).any (fun y => y.kind == 6))))

/-- Whether a descriptor is out of order or in a slot that does not admit it (R240, R244, R367). -/
def descBad (r : Recipe) (i : Nat) : Bool :=
  match r.descs[i]? with
  | none => false
  | some d =>
    (i != 0 && decide (Desc.slot d < ((r.descs[i - 1]?).map Desc.slot).getD 0))
      || (match r.slots[Desc.slot d]? with
          | none => true
          | some x => !admits x.kind d)
      || (Desc.opcode d == 0xB1 && r.head.isRun)
      || (Desc.opcode d == 0xC1 && (r.descs.take i).any (fun y => Desc.opcode y == 0xC1))

/-- STRUCTURE. A TRAIN recipe has its four image slots, one COMMIT slot and one COMMIT (R231, R236, R237). -/
def checkStructure (r : Recipe) : Hit :=
  let train := !r.head.isRun
  firstHit [if train && !((List.range 4).all (fun k => r.regions.any (fun e => e.kind == 2 && e.index == k))) then
      some (1, r.regions.length) else none,
    hitIn 4 (List.range r.slots.length) (slotBad r),
    if train && !r.slots.any (fun x => x.kind == 6) then some (4, r.slots.length) else none,
    hitIn 5 (List.range r.descs.length) (descBad r),
    if train && !r.descs.any (fun d => Desc.opcode d == 0xC1) then some (5, r.descs.length) else none]

/-- The forward slots of a micro-batch whose products read an array. -/
def readsOf (r : Recipe) (a mb : Nat) : List Nat :=
  (r.descs.filter (fun d => Desc.opcode d == 0x10 && !Desc.ref d && enables d a && (match r.slots[Desc.slot d]? with
    | none => false
    | some x => x.kind == 0 && x.mb == mb))).map Desc.slot

/-- Whether an array write breaks R32: after the step's first quantise slot, or between two forward slots of one micro-batch that
read the array. -/
def epochBad (r : Recipe) (d : Desc) : Bool :=
  Desc.opcode d == 0x90 && !r.head.isRun
    && ((r.slots.take (Desc.slot d)).any (fun x => x.kind == 5)
        || r.slots.any (fun x => x.kind == 0 && (readsOf r (awArray d) x.mb).any (fun p => decide (p < Desc.slot d))
              && (readsOf r (awArray d) x.mb).any (fun p => decide (Desc.slot d < p))))

/-- EPOCH. -/
def checkEpoch (r : Recipe) : Hit := hitIn 5 r.descs (epochBad r)

/-! #### OUTLIER, STASH, SCALE, SIGNEDNESS and ORDER -/

/-- The channels a descriptor flags (R96). -/
def chansOf (d : Desc) : Nat :=
  let op := Desc.opcode d
  if op = 0x10 then ampNchan d else if op = 0x40 then Desc.f d 12 5 0 else if op = 0x41 then qNchan d else 0

/-- A 32-bit word of a region as the recipe's constants leave it, where one block holds it whole (R234). -/
def constWord (cs : List ConstBlock) (region off : Nat) : Option Nat :=
  (cs.reverse.find? (fun c => c.region == region && decide (c.off ≤ off) && decide (off + 4 ≤ c.off + c.data.length))).map
    (fun c => leAt c.data (off - c.off) 4)

/-- The region and offset from which a descriptor's channel list comes: where it lies, or where the last MOVE into its core that covers it
took it from. -/
def listHome (r : Recipe) (d : Desc) : Option (Nat × Nat) :=
  let o := Desc.opC d
  if o.mem then some (o.region, o.addr)
  else
    ((r.descs.take d.num).reverse.find? (fun x => Desc.opcode x == 0x60 && Desc.f x 12 7 0 == Desc.core d && !(Desc.opD x).mem
        && decide ((Desc.opD x).addr ≤ o.addr) && decide (o.addr + 4 * chansOf d ≤ (Desc.opD x).addr + (Desc.word x 10).toNat))).bind
      (fun x => if (Desc.opA x).mem then some ((Desc.opA x).region, (Desc.opA x).addr + (o.addr - (Desc.opD x).addr)) else none)

/-- A descriptor's channel list where the recipe's constants give it (log 52). -/
def knownChans (r : Recipe) (cs : List ConstBlock) (d : Desc) : List Nat :=
  if chansOf d = 0 then []
  else
    match listHome r d with
    | some h => (List.range (chansOf d)).filterMap (fun i => constWord cs h.1 (h.2 + 4 * i))
    | none => []

/-- The channel rows of array n of a QUANTISE's image (R74, R100). -/
def chanRows (r : Recipe) (cs : List ConstBlock) (d : Desc) (n : Nat) : Nat :=
  let k := max 1 (cdiv (qK d) 1024)
  ((knownChans r cs d).filter (fun c => c / 1024 == n % k)).length

/-- OUTLIER: more than 32 channels or one twice, budgets beyond a core's slice, channel rows beyond an array's budget. -/
def checkOutlier (bs : List Byte) (r : Recipe) : Hit :=
  let cs := constsOf bs
  firstHit [hitIn 5 r.descs (fun d => decide (32 < chansOf d) || !(knownChans r cs d).Nodup),
    ((List.range 128).find? (fun c => decide (131072 < ((r.budgets.drop (16 * c)).take 16).foldl (· + ·) 0))).map
      (fun c => (6, 16 * c)),
    (r.descs.findSome? (fun d => if Desc.opcode d = 0x41 then
      ((List.range (qNarr d)).find? (fun n => decide (r.budgets.getD (qArray0 d + n) 0 < 256 * chanRows r cs d n))).map
        (fun n => (6, qArray0 d + n)) else none))]

/-- The frames of one cluster in the load check, newest first: the run of the template each opened in, its micro-batch, and its records,
newest first. -/
abbrev Frames := List ((Nat × Nat) × List (Nat × Nat × Nat))

/-- Whether a push or pop takes place in the run of the schedule that is checked: with every re-computable segment thinned, or none
(R190, R191), and with one micro-batch dropped, which runs in the reserve, or none (R193). -/
def stashRuns (r : Recipe) (thin : Bool) (split : Option Nat) (d : Desc) : Bool :=
  let recomp := ((r.layers[Desc.layer d]?).bind (fun l => r.segs[l.segment]?)).any (·.recomp)
  let kind : Nat := ((r.slots[Desc.slot d]?).map (·.kind)).getD 0
  (if kind = 8 then split == some (pMb d) else split != some (pMb d))
    && (kind != 9 || (thin && Desc.opcode d == 0x51)) && (!recomp || (thin == (pKind d == 3)))

/-- A push onto the newest frame, or the pop of the top record of the oldest frame of its micro-batch's number; none where R185 forbids it.
In a run of the template that is not yet `full`, a pop of a frame from before the first run is passed over. -/
def stashStep (run : Nat) (full : Bool) (d : Desc) (fs : Frames) : Option Frames :=
  let rec3 := (Desc.layer d, pKind d, pSlot d)
  let key := (run, pMb d)
  if Desc.opcode d = 0x50 then
    match fs with
    | [] => some [(key, [rec3])]
    | f :: rest =>
      if f.1 = key then some ((f.1, rec3 :: f.2) :: rest)
      else if rest.any (fun g => g.1 == key) || decide (32 ≤ fs.length) then none
      else some ((key, [rec3]) :: fs)
  else
    match fs.reverse.find? (fun f => f.1.2 == pMb d) with
    | none => if full then none else some fs
    | some f =>
      if f.2.head? = some rec3 then
        some ((fs.map (fun g => if g.1 = f.1 then (g.1, g.2.drop 1) else g)).filter (fun g => !g.2.isEmpty))
      else none

/-- One run of the template: the first descriptor that breaks R185 on a cluster, or the frames it leaves. -/
def stashWalk (run : Nat) (full : Bool) (l : List Desc) (fs : Frames) : Except Nat Frames :=
  match l with
  | [] => .ok fs
  | d :: r => match stashStep run full d fs with
    | none => .error d.num
    | some fs' => stashWalk run full r fs'

/-- So many runs of the template, one after another: frames that a run leaves are there in the next. By the 33rd a frame that no run pushes
is missed, and one that no run pops exceeds 32. -/
def stashRunsOf (n run : Nat) (l : List Desc) (fs : Frames) : Option Nat :=
  match n with
  | 0 => none
  | m + 1 => match stashWalk run (m == 0) l fs with
    | .error d => some d
    | .ok fs' => stashRunsOf m (run + 1) l fs'

/-- The pushes and pops of a cluster in a run that is checked. -/
def stashHit (r : Recipe) (thin : Bool) (split : Option Nat) (c : Nat) : Hit :=
  let l := r.descs.filter (fun d => Desc.opcode d / 16 == 5 && Desc.core d / 8 == c && stashRuns r thin split d)
  if l.isEmpty then none else (stashRunsOf 33 0 l []).map (fun n => (5, n))

/-- The micro-batches that have pushes or pops in the reserve. -/
def reserveMbs (r : Recipe) : List Nat :=
  ((r.descs.filter (fun d => Desc.opcode d / 16 == 5 && ((r.slots[Desc.slot d]?).map (·.kind)).getD 0 == 8)).map pMb).eraseDups

/-- The descriptor before number n that made what a core finds in a place: conversions and moves are followed back to what they took. -/
def makerOf (r : Recipe) (fuel n core : Nat) (o : Opnd) : Option Desc :=
  match fuel with
  | 0 => none
  | k + 1 =>
    match (r.descs.take n).reverse.find? (fun x => Desc.home x == core && (writesD (Desc.opcode x)) && (Desc.opD x).mem == o.mem
        && (Desc.opD x).addr == o.addr && (!o.mem || (Desc.opD x).region == o.region)) with
    | none => none
    | some x =>
      if Desc.opcode x = 0x40 ∨ Desc.opcode x = 0x60 ∨ Desc.opcode x = 0x61 then makerOf r k x.num core (Desc.opA x) else some x

/-- Whether an operand of a descriptor goes back to one of a kind. -/
def madeBy (r : Recipe) (d : Desc) (o : Opnd) (p : Desc → Bool) : Bool :=
  match makerOf r r.descs.length d.num (Desc.home d) o with
  | some x => p x
  | none => false

/-- Whether a descriptor saves the output of SiLU or GELU, or takes their derivative from a saved output (R195, log 111). -/
def savesBad (r : Recipe) (d : Desc) : Bool :=
  (Desc.opcode d == 0x50 && pKind d == 0
      && madeBy r d (Desc.opA d) (fun x => Desc.opcode x == 0x30 && (Desc.f x 13 7 0 == 0x1D || Desc.f x 13 7 0 == 0x1E)))
    || (Desc.opcode d == 0x34 && (Desc.f d 13 7 0 == 0x25 || Desc.f d 13 7 0 == 0x26)
      && madeBy r d (Desc.opA d) (fun x => Desc.opcode x == 0x51 && pKind x == 0))

/-- STASH: frames out of order or more than 32 (R185), a saved value in a format that DERIV does not read, and saved outputs of SiLU and
GELU (R195). -/
def checkStash (r : Recipe) : Hit :=
  let runs := (none :: (reserveMbs r).map some).flatMap (fun m => [(false, m), (true, m)])
  firstHit (runs.flatMap (fun x => (List.range 16).map (stashHit r x.1 x.2))
    ++ [hitIn 5 r.descs (fun d => (Desc.opcode d == 0x34 && !((Desc.opA d).fmt == fT32 || (Desc.opA d).fmt == fT16
          || isQ8 (Desc.opA d).fmt)) || savesBad r d)])

/-- Whether a T32 word is a positive normal value (R213). -/
def posNormal (w : Word) : Bool :=
  !w.getLsbD 31 && fld w 30 23 != 0 && fld w 30 23 != 255

/-- Whether a descriptor needs the estimators (R211). -/
def needsEst (d : Desc) : Bool :=
  let op := Desc.opcode d
  (op == 0x40 && (isQ8 (Desc.opD d).fmt || isW (Desc.opD d).fmt)) || op == 0x41 || ((op == 0x70 || op == 0x71) && cMode d == 1)

/-- Records up to which a descriptor reaches. -/
def estTop (d : Desc) : Nat :=
  if (Desc.opcode d = 0x70 ∨ Desc.opcode d = 0x71) ∧ cMode d = 1 then cEst d + cdiv (cN d) 32 else 0

/-- The weight tensor of a QUANTISE in the load check (log 20). -/
def qTensorOf (r : Recipe) (d : Desc) : Option Tensor :=
  match r.tensors[(Desc.opA d).tensor]? with
  | some t => some t
  | none => r.tensors[(Desc.opD d).tensor]?

/-- Whether a descriptor breaks the rules of SCALE (R211, R213, R245, R248). -/
def scaleBad (r : Recipe) (d : Desc) : Bool :=
  let op := Desc.opcode d
  (op == 0x10 && (r.tensors[(Desc.opA d).tensor]?).isNone)
    || (op == 0x40 && isQ8 (Desc.opD d).fmt && (match r.tensors[(Desc.opD d).tensor]? with
          | none => true
          | some t => decide ((Desc.word d 13).toNat < t.estBase) || decide (t.estBase + t.estCount ≤ (Desc.word d 13).toNat)))
    || (op == 0x41 && (match qTensorOf r d with
          | none => true
          | some t => t.estCount != cdiv (qK d) 128 * qCols d && t.estCount != cdiv (qK d) 64 * qCols d))
    || (needsEst d && !r.regions.any (fun e => e.kind == 6))

/-- Whether a weight tensor's groups fit neither layout (R211); one without groups takes no QUANTISE (log 140). -/
def groupsBad (t : Tensor) : Bool :=
  t.kind == 1 && t.estCount != 0 && t.estCount != cdiv t.dim0 128 * t.dim1 && t.estCount != cdiv t.dim0 64 * t.dim1

/-- SCALE. -/
def checkScale (r : Recipe) : Hit :=
  let top := ((r.tensors.map (fun t => if t.estCount = 0 then 0 else t.estBase + t.estCount)) ++ r.descs.map estTop).foldl max 0
  firstHit [hitIn 0 (r.tensors.zipIdx) (fun t => (isQ8 t.1.fmt || r.descs.any (fun d => (Desc.opcode d == 0x70 || Desc.opcode d == 0x71)
      && cMode d == 1 && (Desc.opA d).tensor == t.2)) && !posNormal t.1.initE || groupsBad t.1),
    hitIn 1 r.regions (fun e => e.kind == 6 && decide (e.size * 524288 < 8 * top)), hitIn 5 r.descs (scaleBad r)]

/-- SIGNEDNESS (R245). -/
def checkSignedness (r : Recipe) : Hit :=
  hitIn 5 r.descs (fun d => Desc.opcode d == 0x10 && ampSigned d != ((Desc.opA d).fmt == fQ8S))

/-- Whether an AMP that adds into D does not follow one of smaller KBASE, or one that begins a sum follows none (R245). -/
def orderBad (r : Recipe) (i : Nat) : Bool :=
  match r.descs[i]? with
  | none => false
  | some d =>
    Desc.opcode d == 0x10 && ampAcc d
      && (match (r.descs.take i).reverse.find? (fun x => Desc.opcode x == 0x10 && Desc.core x == Desc.core d
            && Desc.word x 2 == Desc.word d 2) with
          | none => true
          | some x => decide (ampKbase d ≤ ampKbase x))

/-- ORDER. -/
def checkOrder (r : Recipe) : Hit := hitIn 5 (List.range r.descs.length) (orderBad r)

/-- The first failing code of R255, with section and entry; the image's length against the ticket's comes first (R254). -/
def State.checkRecipe (s : State) (bs : List Byte) (len : Nat) : Option (Nat × Nat × Nat) :=
  let r := recipeOf bs
  if len ≠ leAt bs 8 4 then some (2, 0xFF, 8)
  else
    [(1, checkSignature s.sec.keys bs), (2, checkHeader bs), (3, checkParameter bs r), (4, checkCapacity s bs r), (5, checkFormat r),
     (6, checkEncoding r), (7, checkAddress s bs r), (8, checkCore s r), (9, checkWindow r), (0xA, checkOverlap r),
     (0xB, checkStructure r), (0xC, checkEpoch r), (0xD, checkOutlier bs r), (0xE, checkStash r), (0xF, checkScale r),
     (0x10, checkSignedness r), (0x11, checkOrder r)].findSome? (fun c => c.2.map (fun h => (c.1, h.1, h.2)))

/-! ### The end of a load (R254 steps 4 and 5) -/

/-- The bytes of a region let go: a region that is allocated anew reads as memory nothing has written (R211, R276, log 4). -/
def State.blankRegion (s : State) (n : Nat) : State :=
  { s with store := { s.store with gddr := s.store.gddr.filter (fun c => c.1 / 2 ^ 40 != n) },
           mem := { s.mem with half1 := s.mem.half1.filter (fun k => k / 2 ^ 32 != n),
                               poison := s.mem.poison.filter (fun p => p.1 != n) } }

/-- Several. -/
def State.blankRegions (s : State) (l : List RegionEnt) : State :=
  match l with
  | [] => s
  | e :: r => (if (s.region e.region).isSome then s else s.blankRegion e.region).blankRegions r

/-- The marked codewords of the devices' frames that new regions take, in those regions (R323). -/
def State.takePoisons (s : State) (l : List Nat) : State :=
  match l with
  | [] => s
  | r :: rest => (s.takePoison r).takePoisons rest

/-- The constants copied in section order, with their frame costs (R234, R318). -/
def State.copyConsts (s : State) (l : List ConstBlock) : State :=
  match l with
  | [] => s
  | c :: r => ((s.regWriteCommitted c.region c.off c.data).account c.region c.off c.data.length true).copyConsts r

/-- Regions allocated and constants copied. -/
def State.takeRegions (s : State) (bs : List Byte) (r : Recipe) : State :=
  let s1 := s.blankRegions r.regions
  let s2 := match allocAll s1.mem.regions 0 r.regions with
    | .ok rs => { s1 with mem := { s1.mem with regions := rs } }
    | .error _ => s1
  (s2.takePoisons ((r.regions.filter (fun e => (s.region e.region).isNone)).map (·.region))).copyConsts (constsOf bs)

/-- The lowest free recipe slot of region 63. -/
def State.freeSlot (s : State) : Option Nat :=
  (List.range 4).find? (fun h => (s.recipe h).isNone)

end Sys2Proof.Machine
end

