-- ==== Sys2Proof/Machine/Sequencer.lean ====
section
/-! DEFINITION. The sequencer and the life of a step attempt (R112, R190 to R200, R214 to R221, R236 to R242, R256, R257, R262, R378): its
slots, its fence, how it is discarded and started again, and what its commit makes visible. -/

namespace Sys2Proof.Machine

/-! ### Slots (R236 to R242) -/

/-- The first quantise slot, before which the epoch fence stands (R199). -/
def State.firstQuant (s : State) : Option Nat :=
  s.cur.slots.findIdx? (fun x => x.kind == 5)

/-- Whether a slot is one that a waiting fence holds: a quantise, update or commit slot from the first quantise slot on (R199). -/
def State.behindFence (s : State) (n : Nat) (x : Slot) : Bool :=
  (x.kind == 4 || x.kind == 5 || x.kind == 6) && (match s.firstQuant with
    | some q => decide (q ≤ n)
    | none => false)

/-- Whether a slot before another one is held by the fence or was, and has still to start. -/
def State.heldBefore (s : State) (n : Nat) : Bool :=
  (s.cur.slots.take n).zipIdx.any (fun y => s.behindFence y.2 y.1 && decide (y.1.beat ≤ s.stp.beat)
    && !s.stp.slotsOn.contains y.2 && !s.stp.skipped.contains y.2)

/-- Whether a slot's turn has come: its beat is the one in progress, or it is one that the fence held; the slots behind a fence that waited
start in order, and nothing starts in a held beat or in an attempt that has ended (R199, R239, R391). -/
def State.slotDue (s : State) (n : Nat) (x : Slot) : Bool :=
  s.stp.active && s.stp.begun && !s.stp.held && !s.stp.halted && !s.stp.slotsOn.contains n && !s.stp.skipped.contains n
    && (x.beat == s.stp.beat || (decide (x.beat < s.stp.beat) && s.behindFence n x)) && !(s.stp.fenceWait && s.behindFence n x)
    && !(s.behindFence n x && decide (0 < s.stp.fenceBeats) && s.heldBefore n)

/-- Whether a slot's predicate keeps it from running, as it stood at the tick that opened the beat (R242). -/
def State.predStops (s : State) (x : Slot) : Bool :=
  x.predEn && s.stp.preds.getLsbD (x.pred % 16) != x.predPol

/-- Whether a slot of the split reserve has no half to run (R193, R237). -/
def State.reserveIdle (s : State) (x : Slot) : Bool :=
  x.kind == 8 && (if x.mb = 0xFFFF then s.stp.splits.isEmpty else !s.stp.splits.any (fun p => p.mb == x.mb))

/-- A slot noted as skipped. -/
def State.noteSkip (s : State) (n : Nat) : State :=
  { s with stp := { s.stp with skipped := n :: s.stp.skipped } }

/-- Descriptors that do not run, for the micro-batches they would have worked for. -/
def State.passAll (s : State) (l : List Desc) : State :=
  match l with
  | [] => s
  | d :: r => (s.passMb d).passAll r

/-- A slot marked as skipped: its descriptors do not run. -/
def State.skipSlot (s : State) (n : Nat) : State :=
  (s.passAll (s.cur.descs.filter (fun d => Desc.slot d == n))).noteSkip n

/-- The first FWD slot of a micro-batch fixes its epoch tag (R198, R236). -/
def State.tagMb (s : State) (n : Nat) (x : Slot) : State :=
  if x.kind = 0 ∧ x.mb ≠ 0xFFFF ∧ s.firstFwd x.mb = some n ∧ s.train = true then
    let k := mbKey s.stp.step x.mb
    { s with stp := { s.stp with tags := Tab.put s.stp.tags k s.upd.epoch,
                                 pendMb := if (s.readersOf k).isEmpty then s.stp.pendMb
                                           else Tab.put s.stp.pendMb k s.upd.epoch } }
  else s

/-- The quantise slots, from the first whose turn comes, make the new epoch live in its image slot (R198). -/
def State.openEpoch (s : State) (x : Slot) : State :=
  if x.kind = 5 ∧ s.train = true then
    let e := s.upd.epoch + 1
    { s with mem := { s.mem with live := addOnce s.mem.live e, slotEpoch := Tab.put s.mem.slotEpoch (e % 4) e } }
  else s

/-- What the start of a slot does for one of its descriptors: one of a dropped micro-batch, or a recompute that has nothing to do, is passed
over; a product may be a DESC_FAULT, else its bank is the one that fires where no other of its core does; an array write begins, which
abandons its bank's scrub pass (R83, R87, R93, R191, R193, R256). -/
def State.startDesc (s : State) (d : Desc) : State :=
  if s.dropped d || s.idleRecomp d then s.finish d.num
  else if !s.runs d then s
  else if Desc.opcode d = 0x10 then
    match s.ampFault d with
    | some c => (s.descFault d c).finish d.num
    | none =>
      if s.firingBut (Desc.core d % 128) none = some d then
        s.setCore (Desc.core d % 128) { s.core (Desc.core d % 128) with bank := ampBank d }
      else s
  else if Desc.opcode d = 0x90 then
    let a := s.placed (awArray d)
    let c := s.core (a / 16)
    s.setCore (a / 16) { c with writing := setBit4 c.writing (a / 4 % 4), pass := c.pass.set (a / 4 % 4) 0 }
  else s

/-- The descriptors of a slot, in order. -/
def State.startDescs (s : State) (l : List Desc) : State :=
  match l with
  | [] => s
  | d :: r => (s.startDesc d).startDescs r

/-- A slot starts, or is skipped by its predicate or because no half runs in it. -/
def State.startSlot (s : State) (n : Nat) (x : Slot) : State :=
  let s0 := s.openEpoch x
  if s.predStops x then (s0.skipSlot n).count cPredSkip 1
  else if s.reserveIdle x then s0.skipSlot n
  else
    let s1 := { s0 with stp := { s0.stp with slotsOn := n :: s0.stp.slotsOn } }
    let s2 := s1.tagMb n x
    s2.startDescs (s2.cur.descs.filter (fun d => Desc.slot d == n))

/-- SLOT_START: nothing when the slot's turn has not come. -/
def execSlotStart (slot : Nat) (s : State) : Host.Outcome State Fault Refusal :=
  match s.cur.slots[slot]? with
  | none => .next s
  | some x =>
    if s.slotDue slot x then
      let s1 := s.startSlot slot x
      .next (s1.drainAll (s1.stp.pendMb.map (·.1)))
    else .next s

/-- SEQUENCER_WAIT_RELEASE: what a descriptor waited for has completed, and it proceeds (R172, R184). -/
def execSequencerWaitRelease (d : Nat) (s : State) : Host.Outcome State Fault Refusal :=
  .next { s with stp := { s.stp with waiting := s.stp.waiting.filter (fun m => m != d) } }

/-! ### The epoch fence (R199, R200) -/

/-- Whether the image slot that the step's new epoch will take still holds a live epoch. -/
def State.slotLive (s : State) : Bool :=
  match Tab.find s.mem.slotEpoch ((s.upd.epoch + 1) % 4) with
  | none => false
  | some e => s.mem.live.contains e

/-- Whether the beat in progress has reached the first quantise slot. -/
def State.fenceReached (s : State) : Bool :=
  match s.firstQuant with
  | none => false
  | some n => ((s.cur.slots[n]?).map (fun x => decide (x.beat ≤ s.stp.beat))).getD false

/-- The fence's check at a tick that opens a beat of the schedule: the first failing check raises EPOCH_FENCE, a later one counts the beat
waited, and the check that passes lets the held slots start. -/
def State.fenceCheck (s : State) : State :=
  if !s.train || !s.stp.active || !s.stp.begun || s.stp.halted || s.stp.fencePassed || !s.fenceReached then s
  else
    let s1 := if s.stp.fenceWait then
        ({ s with stp := { s.stp with fenceBeats := s.stp.fenceBeats + 1 } }).count cStkFence 1
      else s
    if s1.slotLive then
      if s1.stp.fenceWait then s1
      else ({ s1 with stp := { s1.stp with fenceWait := true } }).raise 0x8005 []
    else { s1 with stp := { s1.stp with fenceWait := false, fencePassed := true } }

/-- EPOCH_FENCE_STALL: a fence that has waited the recipe's limit of beats ends the attempt (R200). -/
def execEpochFenceStall (s : State) : Host.Outcome State Fault Refusal :=
  if s.stp.fenceWait && decide (s.cur.head.fenceLimit ≤ s.stp.fenceBeats) then
    let s1 := (s.raise 0x8006 []).cause 9
    .next { s1 with stp := { s1.stp with halted := true } }
  else .next s

/-! ### The schedule template (R237) -/

/-- Whether the device skips a beat: its slots are all RESERVE and no split has occurred. -/
def State.skipsBeat (s : State) (b : Nat) : Bool :=
  let l := s.cur.slots.filter (fun x => x.beat == b)
  s.stp.splits.isEmpty && !l.isEmpty && l.all (fun x => x.kind == 8)

/-- The template beat from b on that is not skipped, at most the last. -/
def State.beatFrom (s : State) (fuel b : Nat) : Nat :=
  match fuel with
  | 0 => b
  | n + 1 => if b + 1 < s.cur.head.beats ∧ s.skipsBeat b = true then s.beatFrom n (b + 1) else b

/-- The last beat of the template. -/
def State.lastBeat (s : State) : Bool :=
  decide (s.cur.head.beats ≤ s.stp.beat + 1)

/-- The template advances by one beat; at its last beat it stays. -/
def State.advance (s : State) : State :=
  if s.lastBeat then s else { s with stp := { s.stp with beat := s.beatFrom s.cur.head.beats (s.stp.beat + 1) } }

/-! ### Attempts (R216, R242, R257) -/

/-- No bank of any core is written. -/
def State.quietBanks (s : State) : State :=
  { s with ana := { s.ana with cores := s.ana.cores.map (fun e => (e.1, { e.2 with writing := 0 })) } }

/-- The work in flight let go. -/
def State.dropWork (s : State) : State :=
  ({ s with coll := Coll.reset, stp := { s.stp with waiting := [] } }).quietBanks

/-- The state that an attempt saves when it starts. -/
def State.snapshot (s : State) : Saved :=
  { stk := s.stk, tags := s.stp.tags, pendMb := s.stp.pendMb, mbRan := s.stp.mbRan, drops := s.stp.drops, live := s.mem.live,
    slotEpoch := s.mem.slotEpoch }

/-- The Stockpots as an attempt saved them; STASH_HIGH stays raised where it was (R189). -/
def State.rewindStk (s : State) (saved : Tab Stk) (l : List Nat) : State :=
  match l with
  | [] => s
  | c :: r => ((s.setStk c { Tab.get saved c Stk.empty with high := (s.stkOf c).high }).noteHigh c).rewindStk saved r

/-- What an attempt saved, put back. -/
def State.rewind (s : State) : State :=
  match s.stp.saved with
  | none => s
  | some v =>
    ({ s with mem := { s.mem with live := v.live, slotEpoch := v.slotEpoch },
              stp := { s.stp with tags := v.tags, pendMb := v.pendMb, mbRan := v.mbRan, drops := v.drops } }).rewindStk v.stk
      (s.stk.map (fun (e : Nat × Stk) => e.1) ++ (v.stk.map (fun (e : Nat × Stk) => e.1)).filter (fun c => (Tab.find s.stk c).isNone))

/-- Everything an attempt did discarded: working banks, image slot, Stockpot frames, spill lists and work in flight (R216 step 1). -/
def State.discard (s : State) : State :=
  let s1 := (s.dropBanks.rewind).dropWork
  { s1 with ana := { s1.ana with spillFill := [] } }

/-- The step's corrections so far: those of this attempt over those of the ones before (R214). -/
def Stp.corrections (x : Stp) : Tab (Word × Word) :=
  x.corr.foldl (fun t e => Tab.put t e.1 e.2) x.base

/-- Correction records copied into the working bank (R216 step 3). -/
def State.putCorrections (s : State) (l : Tab (Word × Word)) : State :=
  match l with
  | [] => s
  | e :: r => (s.estPut e.1 e.2.1 e.2.2).putCorrections r

/-- The thinned segments of earlier steps' micro-batches, which late ones still recompute (R191). -/
def Stp.oldThins (x : Stp) : List (Nat × Nat) :=
  x.thinSegs.filter (fun t => decide (t.1 / 65536 < x.step))

/-- A fresh attempt of the step: number k, the splits with their places in the reserve, each from its first part, and the recovery's reference
mode kept (R194, R216 step 4, R370). -/
def Stp.again (x : Stp) (k : Nat) : Stp :=
  { Stp.reset with active := true, begun := true, step := x.step, attempt := k, lastCause := x.lastCause, tags := x.tags,
                   pendMb := x.pendMb, mbRan := x.mbRan, splits := x.splits.map (fun e => { e with cur := 0 }),
                   drops := x.drops ++ x.splits.map (fun e => mbKey x.step e.mb),
                   reserveUsed := x.splits.length, thinSegs := x.oldThins, base := x.corrections, refAll := x.refAll, saved := x.saved }

/-- The schedule runs again from its first slot. -/
def State.restart (s : State) : State :=
  let s0 := s.discard
  let x := s0.stp.again (s.stp.attempt + 1)
  let s1 := ({ s0 with stp := x }).putCorrections x.base
  ({ s1 with stp := { s1.stp with beat := s1.beatFrom s1.cur.head.beats 0 } }).fenceCheck

/-- Group definitions and deletions that waited take effect (R262). -/
def applyGroups (g : Tab Group) (l : List (Nat × Option Group)) : Tab Group :=
  l.foldl (fun t e => match e.2 with
    | some x => Tab.put t e.1 x
    | none => Tab.del t e.1) g

/-- Definitions that waited, in force. -/
def State.takeGroups (s : State) : State :=
  { s with rcp := { s.rcp with groups := applyGroups s.rcp.groups s.rcp.pending, pending := [] } }

/-- A step or invocation becomes the one in progress; it begins at the next tick, or at once at a boundary (R358); a
held beat starts nothing (R391). -/
def State.enterStep (s : State) : State :=
  { s with stp := { Stp.reset with active := true, step := s.rcp.nextStep, tags := s.stp.tags, pendMb := s.stp.pendMb,
                                   mbRan := s.stp.mbRan, drops := s.stp.drops, thinSegs := s.stp.thinSegs, boundary := s.stp.boundary,
                                   held := s.stp.held } }

/-- The first attempt begins in the beat in progress, once no core waits to be moved and no lost device's
recovery is awaited (R139, R374, R377, R379, log 136). -/
def State.beginStep (s : State) : State :=
  if s.stp.active && !s.stp.begun && !s.stp.held && s.flt.moving.isEmpty && s.flt.recov.isEmpty then
    let s1 := s.takeGroups
    let s2 := { s1 with stp := { s1.stp with begun := true, attempt := 1, saved := some s1.snapshot } }
    ({ s2 with stp := { s2.stp with beat := s2.beatFrom s2.cur.head.beats 0 } }).fenceCheck
  else s

/-- Whether a micro-batch of a step still matters after the step: a descriptor of it has still to run, or a frame of it is live. -/
def State.keepsMb (s : State) (inst : Nat) : Bool :=
  (s.mbDescs inst).any (fun d => s.kindOf d != 8 && !s.ranFor inst d) || s.stk.any (fun e => e.2.frames.any (fun f => mbKey f.step f.mb == inst))

/-- The step or invocation is over: the device stands at a boundary, and the next fills its spill lists anew (log 98). -/
def State.leaveStep (s : State) : State :=
  let s1 := s.dropWork
  { s1 with
    ana := { s1.ana with spillFill := [] },
    stp := { Stp.reset with step := s1.stp.step, lastCause := s1.stp.lastCause,
                            tags := s1.stp.tags.filter (fun e => s1.keepsMb e.1), pendMb := s1.stp.pendMb,
                            mbRan := s1.stp.mbRan.filter (fun e => s1.keepsMb e.1), drops := s1.stp.drops.filter s1.keepsMb,
                            thinSegs := s1.stp.thinSegs.filter (fun e => s1.keepsMb e.1), boundary := true },
    flt := { s1.flt with disagreed := false, suspects := if s1.flt.localising then s1.flt.suspects else [] } }

/-! ### What a commit makes visible (R30, R218 to R226) -/

/-- EVT_UPD_STAT (R225). -/
def updStat (failed : Nat) (last attempts : Nat) : Word :=
  at_ (b2n (decide (0 < failed))) 15 ||| at_ failed 12 ||| at_ last 8 ||| at_ attempts 0

/-- Bytes of a layer's ring, and its place in the region: the layers' rings follow one another (R220, log 56). -/
def ringBytes : Nat := 4096

/-- The TELEMETRY region, where it holds a layer's ring. -/
def State.ringHome (s : State) (layer : Nat) : Option Nat :=
  (s.ownRegion 9).filter (fun r => decide (ringBytes * (layer + 1) ≤ s.regionBytes r))

/-- A ratio put in a layer's ring. -/
def State.putRing (s : State) (layer i : Nat) (rho : Word) : State :=
  match s.ringHome layer with
  | none => s
  | some r =>
    (s.rawWrite r (ringBytes * layer + 4 * (i % 1024)) (wordBytes [rho])).account r (ringBytes * layer + 4 * (i % 1024)) 4 true

/-- A layer's ratio at the commit: kept in its ring, and compared with its thresholds (R219, R220). -/
def State.noteRatio (s : State) (n : Nat) (l : Layer) (rho : Word) : State :=
  let s1 := s.putRing n s.stp.step rho
  let lg := s.cur.head.legacy
  let pay : List Word := [wd n, wd s.stp.step, rho]
  let s2 := if (unpack32 lg rho).lt (unpack16 lg l.rlo) then (s1.raise 0x4001 pay).count cUpdRatio 1 else s1
  if (unpack16 lg l.rhi).lt (unpack32 lg rho) then (s2.raise 0x4002 pay).count cUpdRatio 1 else s2

/-- The ratios of the layers. -/
def State.noteRatios (s : State) (l : List (Nat × Layer × Word)) : State :=
  match l with
  | [] => s
  | x :: r => (s.noteRatio x.1 x.2.1 x.2.2).noteRatios r

/-- The layers that have a ratio in the attempt. -/
def State.ratios (s : State) : Nm (List (Nat × Layer × Word)) := do
  let l ← s.cur.layers.zipIdx.mapM (fun x => do return (← s.ratioOf x.2).map (fun r => (x.2, x.1, r)))
  return l.filterMap id

/-- An array after a step: at the interval it falls due for tasting (R112). -/
def ArrayS.countStep (x : ArrayS) (interval : Nat) : ArrayS :=
  if !x.holds then x
  else if interval ≤ x.steps + 1 then { x with steps := 0, tasteDue := true }
  else { x with steps := x.steps + 1 }

/-- A step counted for the arrays' tasting; an interval of 0 stops it (R112, R125). -/
def State.countTaste (s : State) : State :=
  if s.ana.interval = 0 then s
  else { s with ana := { s.ana with arrays := s.ana.arrays.map (fun e => (e.1, e.2.countStep s.ana.interval)) } }

/-- A beat of a recipe without steps: every hundred count as a step (R112). -/
def State.countTasteBeat (s : State) : State :=
  if s.ana.tasteBeats + 1 < 100 then { s with ana := { s.ana with tasteBeats := s.ana.tasteBeats + 1 } }
  else ({ s with ana := { s.ana with tasteBeats := 0 } }).countTaste

/-- The commit of a step: the banks' roles swap with the epoch, the digest, the ratios and the status become visible, and the device
stands at the step boundary (R30, R205, R219 to R226). A wrong level or a failed tasting of the step found after its last window closed
replays no other step (R114, R138, R304). -/
def State.commitStep (s : State) : State :=
  let q := s.ratios.run fx0
  let s1 := (s.swapBanks.applyCounts q.2).noteRatios q.1
  let e := s.upd.epoch + 1
  let s2 := { s1 with upd := { s1.upd with
    epoch := e, lastStep := s.stp.step, digest := sumDigest s.stp.layerDig, digestEpoch := wd e, layerDig := s.stp.layerDig,
    stat := updStat 0 s.stp.lastCause s.stp.attempt, shown := true } }
  let s3 := { s2 with rcp := { s2.rcp with nextStep := s.stp.step + 1 } }
  let s4 := s3.leaveStep.pruneLive.countTaste
  { s4 with lnk := { s4.lnk with late := s4.lnk.late.filter (fun y => y.1 || (y.2.1 != 5 && y.2.1 != 6)) } }

/-- The end of an invocation whose outputs become visible (R257, R276). -/
def State.showOutputs (s : State) : State :=
  let s1 := s.swapBanks
  ({ s1 with upd := { s1.upd with stat := updStat 0 s.stp.lastCause s.stp.attempt },
             rcp := { s1.rcp with nextStep := s.stp.step + 1 } }).leaveStep

/-- The end of a step or invocation that fails: nothing of it becomes visible, and its recipe stops (R210, R217, R225, R358). The next
invocation takes the next number all the same (R55). -/
def State.failStep (s : State) (cause : Nat) : State :=
  let s1 := s.discard
  let s2 := { s1 with upd := { s1.upd with stat := updStat cause s.stp.lastCause s.stp.attempt },
                      rcp := { s1.rcp with state := .failed,
                                           nextStep := if s.train then s.stp.step else s.stp.step + 1 } }
  s2.leaveStep

/-! ### Buddy shadows at a tick (R378) -/

/-- The shadow held for another device after a tick: what the step sent is taken over when it commits, the banks swapped and the slots
invalid after a full step, the step's slot valid after a log step; until then it stays, and the traffic of a replay takes its place. -/
def Shadow.tick (x : Shadow) (commit : Bool) : Shadow :=
  match x.work with
  | none => x
  | some w =>
    if !commit then x
    else
      let y := { x with work := none, step := w.step, epoch := w.epoch, digest := w.digest, base := w.base }
      if w.full then { y with valid := true, second := !y.second, logs := [] }
      else { y with logs := Tab.put y.logs (w.step % max 1 x.n - 1) w.step }

/-- The shadow head (R378): device, N, step and epoch, the digest and its base, which bank is the committed one and whether it holds a shard,
then each log slot's valid bit and step. The places within the 4 KiB are the model's choice (log 117). -/
def Shadow.headBytes (x : Shadow) : List Byte :=
  let slots := (List.range (x.n - 1)).flatMap (fun i => match Tab.find x.logs i with
    | some st => [wd 1, wd st]
    | none => [wd 0, wd 0])
  let bs := wordBytes [wd x.dev, wd x.n, wd x.step, wd x.epoch] ++ leBytes 8 x.digest.toNat ++ leBytes 8 x.base.toNat
    ++ wordBytes ([wd (b2n x.second), wd (b2n x.valid)] ++ slots)
  (bs ++ List.replicate 4096 0).take 4096

/-- Bytes that the device puts in its SHADOW region. -/
def State.putShadow (s : State) (off : Nat) (bs : List Byte) : State :=
  match s.ownRegion 0xB with
  | none => s
  | some r => (s.rawWrite r off bs).account r off bs.length true

/-- The shadow this device holds, after a tick: its head is written when a step's traffic is taken over. -/
def State.shadowTick (s : State) (commit : Bool) : State :=
  let s1 := { s with flt := { s.flt with shadow := s.flt.shadow.map (fun x => x.tick commit) } }
  match s.flt.shadow with
  | none => s1
  | some x => if commit && x.work.isSome then s1.putShadow 0 (x.tick commit).headBytes else s1

end Sys2Proof.Machine
end

