-- ==== Sys2Proof/Machine/Tickets.lean ====
section
/-! DEFINITION. The tickets (R349 to R358): when one starts, what it checks and does, and how it completes. -/

namespace Sys2Proof.Machine

/-! ### Completions -/

/-- A ticket completes; the next sequenced one may start. -/
def State.complete (s : State) (w : WaitTicket) (st : Nat) (res : List Word) : State :=
  let s1 := s.post w.op w.t st res
  if s1.hif.seqBusy = some w then { s1 with hif := { s1.hif with seqBusy := none } } else s1

/-- SUCCESS with results. -/
def State.okT (s : State) (w : WaitTicket) (res : List Word) : State :=
  s.complete w stSuccess res

/-- BAD_PARAM with the index of the word at fault. -/
def State.badParam (s : State) (w : WaitTicket) (i : Nat) : State :=
  s.complete w stBadParam [wd i]

/-- BAD_STATE with STATE. -/
def State.badState (s : State) (w : WaitTicket) : State :=
  s.complete w stBadState [wd s.hif.state.code]

/-- A sequenced ticket that goes on: no other starts before it completes. -/
def State.busy (s : State) (w : WaitTicket) : State :=
  { s with hif := { s.hif with seqBusy := some w } }

/-! ### Buffers (R349) -/

/-- Bytes of a ticket's buffer. -/
def bufLen (t : Ticket) : Nat :=
  if t.sgl then (t.segs.map (·.len)).foldl (· + ·) 0 else t.len.toNat

/-- What a read of the first n bytes of the buffer gives; none when the host access fails. -/
def bufBytes (t : Ticket) (n : Nat) : Option (List Byte) :=
  match t.buf with
  | .fault => none
  | .ok bs => some ((bs ++ List.replicate (n - bs.length) 0).take n)

/-- A list of segments without its first n bytes. -/
def dropSegs (n : Nat) (l : List SglEntry) : List SglEntry :=
  match l with
  | [] => []
  | g :: r => if g.len ≤ n then dropSegs (n - g.len) r else { g with addr := g.addr + n, len := g.len - n } :: r

/-- The ticket's buffer from byte n on. -/
def bufFrom (t : Ticket) (n : Nat) : Ticket :=
  { t with addr := t.addr + BitVec.ofNat 64 n, segs := dropSegs n t.segs }

/-- Bytes written to the buffer from byte `at_` on, then SUCCESS; a short buffer is a LEN out of range, a failed write HOST_FAULT. -/
def State.answer (s : State) (w : WaitTicket) (at_ : Nat) (bs : List Byte) (res : List Word) : State :=
  if bufLen w.t < at_ + bs.length then s.badParam w 4
  else
    match w.t.buf with
    | .fault => s.complete w stHostFault []
    | .ok _ => (s.toHost (bufFrom w.t at_) bs).okT w res

/-! ### Group 0x01 -/

/-- IDENTIFY (0x0101). -/
def State.tkIdentify (s : State) (w : WaitTicket) : State :=
  let bs := Config.identityPage ((List.range 128).map (fun k => (k, s.phys k)))
    [s.sec.copyA.word.toNat, s.sec.copyB.word.toNat] s.mem.rate s.hif.width s.hif.rate
  s.answer w 0 ((bs ++ List.replicate 4096 0).take 4096) []

/-- CREATE_RAIL (0x0102). -/
def State.tkCreateRail (s : State) (w : WaitTicket) : State :=
  let n := par w.t 0
  if n = 0 ∨ 63 < n then s.badParam w 5
  else if par w.t 1 < 4 ∨ 16 < par w.t 1 then s.badParam w 6
  else if (Tab.find s.hif.passes (par w.t 2)).isNone then s.badParam w 7
  else if 3 < par w.t 3 then s.badParam w 8
  else if (Tab.find s.hif.rails n).isSome then s.complete w stNoResource []
  else
    (s.setRail n { base := w.t.addr, log2 := par w.t 1, pass := par w.t 2, prio := par w.t 3, head := 0, tail := 0, err := false,
                   inflight := [] }).okT w []

/-- Whether the tickets that a deletion waits for have completed: all of its rail but itself. -/
def State.railIdle (s : State) (w : WaitTicket) : Bool :=
  match Tab.find s.hif.rails (par w.t 0) with
  | none => true
  | some r => r.inflight.all (fun x => w.t.rail == par w.t 0 && x.id == w.t.slot)

/-- A rail deleted, with its error bit (R340, R346). -/
def State.dropRail (s : State) (n : Nat) : State :=
  { s with hif := { s.hif with rails := Tab.del s.hif.rails n, turns := s.hif.turns.filter (fun m => m != n), railErr := s.hif.railErr &&& ~~~(BitVec.ofNat 64 (2 ^ n)) } }

/-- DELETE_RAIL (0x0103): it waits for the rail's tickets in flight. -/
def State.tkDeleteRail (s : State) (w : WaitTicket) : State :=
  let n := par w.t 0
  if n = 0 ∨ 63 < n ∨ (Tab.find s.hif.rails n).isNone then s.badParam w 5
  else { s with hif := { s.hif with deleting := s.hif.deleting ++ [w] } }

/-- The deletions whose rails are idle take place. -/
def State.finishDeletes (s : State) (l : List WaitTicket) : State :=
  match l with
  | [] => s
  | w :: r =>
    if s.railIdle w then
      (({ s with hif := { s.hif with deleting := s.hif.deleting.erase w } }.okT w []).dropRail (par w.t 0)).finishDeletes r
    else s.finishDeletes r

/-- CREATE_PASS (0x0104). -/
def State.tkCreatePass (s : State) (w : WaitTicket) : State :=
  let n := par w.t 0
  if n = 0 ∨ 63 < n then s.badParam w 5
  else if par w.t 1 < 4 ∨ 16 < par w.t 1 then s.badParam w 6
  else if par w.t 2 = 0 ∨ 64 < par w.t 2 then s.badParam w 7
  else if 1000 < par w.t 4 then s.badParam w 9
  else if (Tab.find s.hif.passes n).isSome then s.complete w stNoResource []
  else
    (s.setPass n { base := w.t.addr, log2 := par w.t 1, vec := par w.t 2, cnt := par w.t 3, time := par w.t 4, head := 0, tail := 0,
                   phase := true, used := 0, waiting := [], since := 0, timer := false }).okT w []

/-- DELETE_PASS (0x0105). -/
def State.tkDeletePass (s : State) (w : WaitTicket) : State :=
  let n := par w.t 0
  if n = 0 ∨ 63 < n ∨ (Tab.find s.hif.passes n).isNone then s.badParam w 5
  else if s.hif.rails.any (fun e => e.2.pass == n) then s.badState w
  else ({ s with hif := { s.hif with passes := Tab.del s.hif.passes n } }).okT w []

/-- STATUS (0x0106). -/
def State.tkStatus (s : State) (w : WaitTicket) : State :=
  s.okT w [s.hifStat, s.rcpStat, s.epochWord, wd (s.upd.epoch / 2 ^ 32), wd s.lnk.beat]

/-! ### Group 0x02 -/

/-- Whether the running recipe names a region. -/
def State.named (s : State) (r : Nat) : Bool :=
  s.cur.regions.any (fun e => e.region == r)

/-- Bytes of a region as tickets and windows see it: of a bank pair, one bank (R342). -/
def State.viewBytes (s : State) (r : Nat) : Nat :=
  if pairKind (s.regionKind r) then s.bankBytes r else s.regionBytes r

/-- The byte offset of P1 and P2. -/
def offsetOf (t : Ticket) : Nat := par t 1 + par t 2 * 2 ^ 32

/-- The word at fault in a ticket that names bytes of a region. -/
def State.spanBad (s : State) (t : Ticket) (n : Nat) : Option Nat :=
  if 62 < par t 0 ∨ (s.region (par t 0)).isNone then some 5
  else if s.viewBytes (par t 0) < offsetOf t + n then some 6
  else none

/-- MEM_WRITE (0x0201). -/
def State.tkMemWrite (s : State) (w : WaitTicket) : State :=
  let r := par w.t 0
  let n := bufLen w.t
  match s.spanBad w.t n with
  | some i => s.badParam w i
  | none =>
    if s.named r && !(s.regionKind r == 0 || s.regionKind r == 8 || s.regionKind r == 9) then s.badState w
    else
      match bufBytes w.t n with
      | none => s.complete w stHostFault []
      | some bs => ((s.regWriteCommitted r (offsetOf w.t) bs).account r (offsetOf w.t) n true).okT w []

/-- The marked codewords that a read of the committed view meets (R323). -/
def State.viewPoison (s : State) (r off n : Nat) : List (Nat × Nat) :=
  if pairKind (s.regionKind r) then
    (piecesOf off n).flatMap (fun p => s.poisonIn r (s.committedHalf r p.1 * s.bankBytes r + p.2.1) p.2.2)
  else s.poisonIn r off n

/-- What G288 reports of a read outside any recipe: corrected words, and uncorrectable ones with those already marked. -/
def State.viewErrors (s : State) (reader : Nat) (r off n : Nat) (g : MemObs) : State × Bool :=
  let ue := g.ue ++ (s.viewPoison r off n).filter (fun k => !g.ue.contains k)
  ((s.memCe g.ce).memUe reader 0xFF ue, !ue.isEmpty)

/-- MEM_READ (0x0202): the committed bytes; an uncorrectable word ends it with DEVICE_FAULT. Its reader has no code in R453 (log 6). -/
def State.tkMemRead (s : State) (w : WaitTicket) : State :=
  let r := par w.t 0
  let n := bufLen w.t
  match s.spanBad w.t n with
  | some i => s.badParam w i
  | none =>
    let e := ((s.account r (offsetOf w.t) n false).draw 1).viewErrors (Config.freeWord s.free).toNat r (offsetOf w.t) n w.obs
    if e.2 then e.1.complete w stDeviceFault [] else e.1.answer w 0 (s.regRead false r (offsetOf w.t) n) [s.epochWord]

/-- REGION_QUERY (0x0203). -/
def State.tkRegionQuery (s : State) (w : WaitTicket) : State :=
  if 63 < par w.t 0 then s.badParam w 5
  else s.okT w [(s.regionWords (par w.t 0)).1, (s.regionWords (par w.t 0)).2]

/-- REGION_FREE (0x0204). -/
def State.tkRegionFree (s : State) (w : WaitTicket) : State :=
  let r := par w.t 0
  if 62 < r ∨ (s.region r).isNone then s.badParam w 5
  else if s.rcp.slots.any (fun x => x.2.regions.any (fun e => e.region == r)) then s.badState w
  else
    let s1 := s.freePoison r
    ({ s1 with mem := { s1.mem with regions := Tab.del s1.mem.regions r } }).okT w []

/-! ### Group 0x03 -/

/-- Whether a recipe does without what the device has lost: its core mask leaves out the absent cores, and none of its descriptors enables an
array that stays SHORT (R24, R139). -/
def State.doesWithout (s : State) (r : Recipe) : Bool :=
  s.flt.absent.all (fun c => !r.head.coreMask.getLsbD c) && s.ana.arrays.all (fun e => !e.2.lost || r.descs.all (fun d => !enables d e.1))

/-- Whether a memory device is PERMANENT (R365). -/
def State.gddrGone (s : State) : Bool :=
  s.flt.hist.any (fun e => e.cls == uGddr && e.state == .permanent)

/-- A device treated as lost because it is degraded no longer is once a recipe that does without what it lost is loaded (R24). -/
def State.leaveDegraded (s : State) (r : Recipe) : State :=
  if s.flt.degraded = true ∧ s.gddrGone = false ∧ s.doesWithout r = true then
    let s1 := { s with flt := { s.flt with degraded := false, lostNext := false } }
    if s.hif.state = .lost ∧ s.mem.evac = false ∧ s.pwr.therm ≠ 4 then
      ({ s1 with lnk := { s1.lnk with dead := s1.lnk.dead.filter (fun d => d != s1.device) } }).setState .ready
    else s1
  else s

/-- REFUSED, with RECIPE_REFUSED (R255, R259). -/
def State.refuse (s : State) (w : WaitTicket) (x : Nat × Nat × Nat) : State :=
  let l : List Word := [wd x.1, wd x.2.1, wd x.2.2]
  ((s.raise 0x9101 l).count cRefused 1).complete w stRefused l

/-- The regions and the slot of a recipe that has passed its checks taken (R254 steps 4 and 5). -/
def State.takeRecipe (s : State) (bs : List Byte) (h : Nat) : State :=
  let s1 := s.takeRegions bs (recipeOf bs)
  ({ s1 with rcp := { s1.rcp with slots := Tab.put s1.rcp.slots h (recipeOf bs) } }).leaveDegraded (recipeOf bs)

/-- RECIPE_LOAD (0x0301): LEN against TOTAL_SIZE comes first. -/
def State.tkRecipeLoad (s : State) (w : WaitTicket) : State :=
  let n := bufLen w.t
  match bufBytes w.t n with
  | none => s.complete w stHostFault []
  | some bs =>
    if n ≠ leAt bs 8 4 then s.refuse w (2, 0xFF, 8)
    else
      match s.freeSlot with
      | none => s.complete w stNoResource []
      | some h =>
        match s.checkRecipe bs n with
        | some x => s.refuse w x
        | none => (s.takeRecipe bs h).okT w [wd h]

/-- RECIPE_UNLOAD (0x0302). -/
def State.tkRecipeUnload (s : State) (w : WaitTicket) : State :=
  let h := par w.t 0
  if (s.recipe h).isNone then s.badParam w 5
  else if s.runningRecipe.isSome ∧ s.rcp.handle = h then s.badState w
  else ({ s with rcp := { s.rcp with slots := Tab.del s.rcp.slots h } }).okT w []

/-- t_hop in ns: 120 and 5 for each metre of the longest cable. A cable's one-way delay, as its port measured it, is those 5 ns per metre; of
the domain's cables the device knows its own (R298, R303, log 28). -/
def State.hopNs (s : State) : Nat :=
  120 + s.lnk.ports.foldl (fun m e => max m e.2.delay) 0

/-- T_rep in ns (R302, R305). -/
def State.reportNs (s : State) : Nat :=
  2 * (s.lnk.dimX / 2 + s.lnk.dimY / 2 + s.lnk.dimZ / 2) * s.hopNs + 500

/-- A recipe becomes the running one (R254). -/
def State.startRecipe (s : State) (h first : Nat) : State :=
  ({ s with rcp := { s.rcp with state := .running, handle := h, nextStep := first, startNext := none, unloadAtStop := false },
            stp := { Stp.reset with boundary := s.stp.boundary, held := s.stp.held }, stk := [], lnk := { s.lnk with late := [] },
            ana := { s.ana with tasteBeats := 0 } }).pruneLive.setState .running

/-- Whether the device's STATE keeps a recipe from starting (R327, R350). -/
def State.cannotStart (s : State) : Bool :=
  s.hif.state == .test || s.hif.state == .lost || s.hif.state == .fault

/-- Whether some descriptor of a recipe lies on an absent core or enables an array that stays SHORT. Such a recipe, loaded before the loss, is
not started (DEDUCED, log 137, from R24's refusal to load it and its stop). -/
def State.placedOnLost (s : State) (r : Recipe) : Bool :=
  r.descs.any (fun d => (coresOf d).any s.isAbsent || s.ana.arrays.any (fun e => e.2.lost && enables d e.1))

/-- RECIPE_START (0x0303): with a recipe running it waits for that one's step boundary. -/
def State.tkRecipeStart (s : State) (w : WaitTicket) : State :=
  match s.recipe (par w.t 0) with
  | none => s.badParam w 5
  | some r =>
    if s.cannotStart || s.placedOnLost r || r.head.beatUs != s.lnk.period || decide (r.head.beatUs * r.head.gapPct * 10 < s.reportNs) then s.badState w
    else if s.runningRecipe.isSome then
      ({ s with rcp := { s.rcp with startNext := some (par w.t 0, par w.t 1) } }).busy w
    else (s.startRecipe (par w.t 0) (par w.t 1)).okT w []

/-- RECIPE_STOP (0x0304): it completes at the boundary. -/
def State.tkRecipeStop (s : State) (w : WaitTicket) : State :=
  if s.runningRecipe.isNone then s.badState w
  else ({ s with rcp := { s.rcp with state := .stopping } }).busy w

/-! ### Group 0x04 -/

/-- STEP_RUN (0x0401) and INVOKE (0x0402): they complete at a tick. -/
def State.tkStep (s : State) (w : WaitTicket) (run : Bool) : State :=
  if s.rcp.state = .running ∧ s.runningRecipe.isSome = true ∧ s.cur.head.isRun = run then (s.enterStep).busy w else s.badState w

/-! ### Group 0x05: checkpoints (R356) -/

/-- The recipe a checkpoint is of: the running or last one, else the first loaded, of those for training. -/
def State.ckptRecipe (s : State) : Option Recipe :=
  let l := s.rcp.slots.filter (fun e => !e.2.head.isRun)
  match l.find? (fun e => e.1 == s.rcp.handle) with
  | some e => some e.2
  | none => l.head?.map (·.2)

/-- The region of a kind in a recipe. -/
def Recipe.regionOf (r : Recipe) (k : Nat) : Option Nat :=
  (r.regions.find? (fun e => e.kind == k)).map (·.region)

/-- Bytes of one bank of a recipe's region of a kind. -/
def State.partBytes (s : State) (r : Recipe) (k : Nat) : Nat :=
  ((r.regionOf k).map s.bankBytes).getD 0

/-- The kinds of region in the order of the body. -/
def ckptKinds : List Nat := [3, 4, 5, 6, 0xA]

/-- Bytes of an image with its body (R356). -/
def State.imageLen (s : State) (r : Recipe) : Nat :=
  4096 + (ckptKinds.map (fun k => cdiv (s.partBytes r k) 64 * 64)).foldl (· + ·) 0

/-- The words of the head that describe the layout, 0x020 to 0x037. -/
def State.layoutWords (s : State) (r : Recipe) : List Word :=
  [wd r.layers.length, wd ((r.layers.filter (·.trainable)).map (·.masters) |>.foldl (· + ·) 0), wd (s.partBytes r 5 / 1048576),
   wd (s.partBytes r 6 / 8), wd (s.partBytes r 0xA), wd (s.partBytes r 0xA / 2 ^ 32)]

/-- The 4 KiB head. -/
def State.ckptHead (s : State) (r : Recipe) : List Byte :=
  let l := leBytes 4 0x4B504354 ++ leBytes 4 0x0100 ++ leBytes 4 s.upd.epoch ++ leBytes 4 s.upd.lastStep
    ++ leBytes 8 s.upd.digest.toNat ++ leBytes 8 r.head.base.toNat ++ wordBytes (s.layoutWords r) ++ leBytes 4 r.head.jobId.toNat
    ++ leBytes 4 0 ++ (Config.sha384 r.layout ++ List.replicate 48 0).take 48
  let h := (l ++ List.replicate 4092 0).take 4092
  h ++ leBytes 4 (crc32 h).toNat

/-- One bank of a region of a kind, padded to 64 bytes. -/
def State.ckptPart (s : State) (r : Recipe) (k : Nat) : List Byte :=
  let n := s.partBytes r k
  match r.regionOf k with
  | none => []
  | some g => s.regRead false g 0 n ++ List.replicate (cdiv n 64 * 64 - n) 0

/-- The marked codewords in what a CKPT_SAVE copies (R323). -/
def State.ckptPoison (s : State) (r : Recipe) : List (Nat × Nat) :=
  ckptKinds.flatMap (fun k => match r.regionOf k with
    | none => []
    | some g => s.viewPoison g 0 (s.partBytes r k))

/-- The frame costs of the parts that a CKPT_SAVE reads (R318). -/
def State.lookParts (s : State) (r : Recipe) (ks : List Nat) : State :=
  match ks with
  | [] => s
  | k :: rest =>
    (match r.regionOf k with
     | none => s
     | some g => s.account g 0 (s.partBytes r k) false).lookParts r rest

/-- CKPT_SAVE (0x0501): an uncorrectable word ends it with DEVICE_FAULT (R354). -/
def State.tkCkptSave (s : State) (w : WaitTicket) : State :=
  match s.ckptRecipe with
  | none => s.badState w
  | some r =>
    if bufLen w.t < s.imageLen r then s.badParam w 4
    else if !(s.ckptPoison r).isEmpty then
      ((s.draw 1).memUe (Config.freeWord s.free).toNat 0xFF (s.ckptPoison r)).complete w stDeviceFault []
    else (s.lookParts r ckptKinds).answer w 0 (s.ckptHead r ++ ckptKinds.flatMap (s.ckptPart r)) [s.epochWord]

/-- A field of a head. -/
def headField (bs : List Byte) (off n : Nat) : List Byte :=
  (bs.drop off).take n

/-- The head offset of the first field that fails its check. -/
def State.headFlaw (s : State) (r : Recipe) (bs : List Byte) : Option Nat :=
  let own := s.ckptHead r
  if headField bs 0xFFC 4 ≠ leBytes 4 (crc32 (bs.take 0xFFC)).toNat then some 0xFFC
  else [(0x000, 4), (0x004, 2), (0x018, 8), (0x020, 4), (0x024, 4), (0x028, 4), (0x02C, 4), (0x030, 8), (0x040, 48)].findSome?
    (fun f => if headField bs f.1 f.2 = headField own f.1 f.2 then none else some f.1)

/-- A bank's bytes written to both banks of a region, with their frame costs (R318). -/
def State.bothBanks (s : State) (g n : Nat) (bs : List Byte) : State :=
  let m := (bs.take n).length
  (((s.rawWrite g 0 (bs.take n)).account g 0 m true).rawWrite g n (bs.take n)).account g n m true

/-- The body of an image taken into both banks of every part. -/
def State.takeBody (s : State) (r : Recipe) (ks : List Nat) (bs : List Byte) : State :=
  match ks with
  | [] => s
  | k :: rest =>
    let n := s.partBytes r k
    (match r.regionOf k with
     | none => s
     | some g => s.bothBanks g n bs).takeBody r rest (bs.drop (cdiv n 64 * 64))

/-- The state as it would be with a recipe running, for the functions that read the running recipe. -/
def State.under (s : State) (r : Recipe) : State :=
  { s with rcp := { s.rcp with state := .running, slots := [(s.rcp.handle, r)] }, stp := Stp.reset }

/-- The layer digests of the masters that an image holds (R221). -/
def State.imageDigests (s : State) (r : Recipe) (body : List Byte) : Tab DWord :=
  ((s.takeBody r ckptKinds body).under r).layerDigests

/-- CKPT_RESTORE (0x0502): its image takes effect at the next tick. -/
def State.tkCkptRestore (s : State) (w : WaitTicket) : State :=
  match s.ckptRecipe with
  | none => s.badState w
  | some r =>
    if bufLen w.t < s.imageLen r then s.badParam w 4
    else
      match bufBytes w.t (s.imageLen r) with
      | none => s.complete w stHostFault []
      | some bs =>
        match s.headFlaw r bs with
        | some f => s.complete w stBadCheckpoint [wd f]
        | none =>
          if headField bs 0x10 8 = leBytes 8 (sumDigest (s.imageDigests r (bs.drop 4096))).toNat then s.busy w
          else s.complete w stBadCheckpoint [wd 0x10]

/-- The tick at which a restored image becomes the committed state: masters, moments, estimators and error memory in both banks,
epoch, step and digest (R356). -/
def State.applyRestore (s : State) (w : WaitTicket) : State :=
  match s.ckptRecipe with
  | none => s.badState w
  | some r =>
    match bufBytes w.t (s.imageLen r) with
    | none => s.complete w stHostFault []
    | some bs =>
      let ld := s.imageDigests r (bs.drop 4096)
      let s1 := s.dropBanks.takeBody r ckptKinds (bs.drop 4096)
      let e := leAt bs 8 4
      let s2 := { s1 with upd := { s1.upd with epoch := e, lastStep := leAt bs 12 4, digest := sumDigest ld, digestEpoch := wd e,
                                               layerDig := ld },
                          rcp := { s1.rcp with nextStep := leAt bs 12 4 + 1 } }
      s2.okT w [wd e]

/-! ### Group 0x05: shadows (R378, R379) -/

/-- SHADOW_CFG (0x0503): `ok` says that the buddy took the shadow. -/
def State.tkShadowCfg (s : State) (w : WaitTicket) : State :=
  if 1023 < par w.t 0 ∨ (par w.t 1 ≠ 0 ∧ !w.ok) then s.badParam w 5
  else
    ({ s with flt := { s.flt with shadowCfg := if par w.t 1 = 0 then none else some (par w.t 0, par w.t 1) } }).okT w []

/-- The descriptors of an opcode, in order. -/
def Recipe.ops (r : Recipe) (op : Nat) : List Desc :=
  r.descs.filter (fun d => Desc.opcode d == op)

/-- One logged UPDATE run again on the gradient that the log holds for its masters (R379); a layer that it held is held again (R210). -/
def State.logUpdate (s : State) (grad : List Byte) (d : Desc) : State :=
  match s.layerOf d with
  | none => s
  | some l =>
    if l.frozen || !l.trainable then s
    else
      let gs := leWords (uCount d) (grad.drop (4 * (l.first + uFirst d)))
      let r := ((s.updateWith d l (pure gs)).run fx0).1
      if s.stp.nonfin.contains (Desc.layer d) then s
      else if r.outs.any (·.bad) then s.holdLayer d l else s.updateWrites d l r

/-- The UPDATE descriptors of a logged step, in order. -/
def State.logUpdates (s : State) (grad : List Byte) (l : List Desc) : State :=
  match l with
  | [] => s
  | d :: r => (s.logUpdate grad d).logUpdates grad r

/-- The logged steps, each with its own step number, committed one after the other. -/
def State.logSteps (s : State) (ds : List Desc) (l : List ShadowLog) : State :=
  match l with
  | [] => s
  | x :: r =>
    let s1 := { s with stp := { s.stp with step := x.step, nonfin := [] } }
    ((s1.logUpdates x.grad ds).swapBanks).logSteps ds r

/-- Bytes written to both banks of the recipe's region of a kind. -/
def State.putKind (s : State) (r : Recipe) (k : Nat) (bs : List Byte) : State :=
  match r.regionOf k with
  | none => s
  | some g => s.bothBanks g (s.bankBytes g) bs

/-- The image of the restored epoch, from the QUANTISE descriptors: no estimator is written (R379). -/
def State.rebuildImage (s : State) (l : List Desc) : State :=
  match l with
  | [] => s
  | d :: r => (((s.quantiseRun d true).run fx0).1.1).rebuildImage r

/-- The arrays, from the AWRITE descriptors. -/
def State.rebuildArrays (s : State) (l : List Desc) : State :=
  match l with
  | [] => s
  | d :: r => (s.awrite d).rebuildArrays r

/-- The shard of another device taken from its shadow (R379). -/
def State.takeShadow (s : State) (r : Recipe) (x : ShadowImage) : State :=
  let s1 := (((s.putKind r 3 x.hi).putKind r 4 x.comp).putKind r 5 x.mom).putKind r 6 x.est
  let s2 := (s1.putKind r 0xA x.err).under r
  let s3 := s2.logSteps (r.ops 0x80) x.logs
  let s4 := match x.logs.getLast? with
    | none => s3
    | some g => (s3.putKind r 6 g.est).putKind r 0xA g.err
  let ld := s4.layerDigests
  let s5 := { s4 with upd := { s4.upd with epoch := x.epoch, lastStep := x.step, digest := sumDigest ld, digestEpoch := wd x.epoch,
                                           layerDig := ld },
                      stp := { s4.stp with step := x.step } }
  (s5.rebuildImage (r.ops 0x41)).rebuildArrays (r.ops 0x90)

/-- The standby waits for the lost device no longer, and its reports say so until a tick has brought it to the job (R379, log 143). -/
def State.hasRestored (s : State) (dev : Nat) : State :=
  { s with flt := { s.flt with recov := Tab.del s.flt.recov dev, restored := addOnce s.flt.restored dev } }

/-- SHADOW_RESTORE (0x0504): `img` is what the holder gives, none when it is lost too (R379). -/
def State.tkShadowRestore (s : State) (w : WaitTicket) : State :=
  match s.ckptRecipe with
  | none => s.badState w
  | some r =>
    if s.hif.state ≠ .ready ∨ s.runningRecipe.isSome then s.badState w
    else if 1023 < par w.t 0 then s.badParam w 5
    else
      match w.img with
      | none => (s.raise 0xB00B []).complete w stDeviceFault []
      | some x =>
        let t := s.takeShadow r x
        if t.upd.digest = x.digest then
          let t1 := { t with rcp := { s.rcp with nextStep := x.step + 1 }, stp := s.stp }
          (((t1.raise 0xB006 []).count cRecovery 1).recovered 3).hasRestored (par w.t 0) |>.okT w []
        else s.complete w stDeviceFault []

/-! ### Group 0x06 -/

/-- The cores that a CORE value names and that are present (R153). -/
def State.namedCores (s : State) (v : Nat) : List Nat :=
  (List.range 128).filter (fun c => (v == 0xFF || v == c) && !s.isAbsent c)

/-- Cores named by a command become due (R142, R153). -/
def State.calCommand (s : State) (l : List Nat) : State :=
  match l with
  | [] => s
  | c :: r =>
    let s1 := s.makeDue c false
    ({ s1 with cal := { s1.cal with goCores := addOnce s1.cal.goCores c } }).calCommand r

/-- Whether the runs of a CAL_RUN ticket have ended. -/
def State.calEnded (s : State) (w : WaitTicket) : Bool :=
  (s.namedCores (par w.t 0)).all (fun c => !s.cal.goCores.contains c)

/-- CAL_RUN (0x0601). -/
def State.tkCalRun (s : State) (w : WaitTicket) : State :=
  if 127 < par w.t 0 ∧ par w.t 0 ≠ 0xFF then s.badParam w 5
  else
    let s1 := s.calCommand (s.namedCores (par w.t 0))
    if s1.calEnded w then s1.okT w [] else s1.busy w

/-- SCT_READ (0x0602). -/
def State.tkSctRead (s : State) (w : WaitTicket) : State :=
  s.answer w 0 s.sctBytes [s.ana.sctEpoch.setWidth 32]

/-- TEST_ENTER (0x0603). -/
def State.tkTestEnter (s : State) (w : WaitTicket) : State :=
  if s.hif.state = .ready then (s.setState .test).okT w [] else s.badState w

/-- A unit that failed a directed test; a row takes a spare as well, and a lane stays out of service (R136, R363, R365). -/
def State.testFailure (s : State) (cls unit : Nat) : State :=
  if cls = uRow then s.rowFails (unit / 1040) (unit % 1040) false
  else if cls = uLane then (s.dtFailure cls unit).laneOut (unit / 6) (unit % 6)
  else s.dtFailure cls unit

/-- Several. -/
def State.testFailures (s : State) (l : List (Nat × Nat)) : State :=
  match l with
  | [] => s
  | u :: r => (s.testFailure u.1 u.2).testFailures r

/-- TEST_LEAVE (0x0604): the tests of R366 and the publication (R118); ANA_CTL and the traffic generators are cleared with the state (R92,
R328). -/
def State.tkTestLeave (s : State) (w : WaitTicket) : State :=
  if s.hif.state ≠ .test then s.badState w
  else
    (((s.testFailures w.fails).publish).setState .ready).okT w []

/-- DIRECTED_TEST (0x0605): `ok` says that the unit passed. -/
def State.tkDirectedTest (s : State) (w : WaitTicket) : State :=
  if s.hif.state ≠ .test then s.badState w
  else if unitCount (par w.t 0) = 0 then s.badParam w 5
  else if unitCount (par w.t 0) ≤ par w.t 1 then s.badParam w 6
  else if w.ok then s.okT w [0]
  else (s.testFailure (par w.t 0) (par w.t 1)).okT w [1]

/-! ### Group 0x07 -/

/-- How far a sequence lies ahead of another, counted mod 2^32 (R416). -/
def seqAhead (a b : Nat) : Nat :=
  (b + 2 ^ 32 - a % 2 ^ 32) % 2 ^ 32

/-- How many sequences before the next one a reader that starts at `first` may ask for: none when that lies ahead, and the last 65,536 at
most (R416, R422). -/
def State.circBack (s : State) (first : Nat) : Nat :=
  if 2 ^ 31 ≤ seqAhead first s.evt.seq then 0 else min 65536 (seqAhead first s.evt.seq)

/-- The records of an area from a sequence on, at most n, each as R422 accepts it. -/
def State.recordsFrom (s : State) (area first n : Nat) : List Record :=
  if area = 0 then (s.evt.first.filter (fun r => decide (seqAhead first r.seq < 2 ^ 31))).take n
  else
    let k := s.circBack first
    (List.range (min n k)).filterMap (fun i =>
      let q := (s.evt.seq + 2 ^ 32 - k + i) % 2 ^ 32
      (s.circRec q).filter (fun r => r.seq == q))

/-- EVENT_READ (0x0701). -/
def State.tkEventRead (s : State) (w : WaitTicket) : State :=
  if 1 < par w.t 0 then s.badParam w 5
  else if bufLen w.t < 64 * par w.t 2 then s.badParam w 4
  else
    let l := s.recordsFrom (par w.t 0) (par w.t 1) (par w.t 2)
    s.answer w 0 (wordBytes (l.flatMap Record.words)) [wd ((l.getLast?.map (fun r => r.seq + 1)).getD (par w.t 1))]

/-- HISTORY_READ (0x0702). -/
def State.tkHistoryRead (s : State) (w : WaitTicket) : State :=
  let n := unitCount (par w.t 0)
  if n = 0 then s.badParam w 5
  else if n ≤ par w.t 1 then s.badParam w 6
  else if n < par w.t 1 + par w.t 2 then s.badParam w 7
  else
    s.answer w 0 (wordBytes ((List.range (par w.t 2)).flatMap (fun i => s.histWords (par w.t 0) (par w.t 1 + i)))) []

/-- A layer's ring of ratios (R220): zeros where no region holds it (log 56). -/
def State.ring (s : State) (layer : Nat) : List Byte :=
  match s.ringHome layer with
  | none => List.replicate ringBytes 0
  | some r => s.regRead false r (ringBytes * layer) ringBytes

/-- The reads of the layers' rings: their frame costs, and whether a codeword was uncorrectable. What G288 reports of the words read it reports
of the first (R318, R323). -/
def State.lookRings (s : State) (reader : Nat) (l : List Nat) (g : MemObs) : State × Bool :=
  match l with
  | [] => (s, false)
  | n :: rest =>
    match s.ringHome n with
    | none => s.lookRings reader rest g
    | some r =>
      let e := (s.account r (ringBytes * n) ringBytes false).viewErrors reader r (ringBytes * n) ringBytes g
      let f := e.1.lookRings reader rest { ce := [], ue := [] }
      (f.1, e.2 || f.2)

/-- RATIO_READ (0x0703): an uncorrectable word ends it with DEVICE_FAULT, as it does MEM_READ (R354; its reader has no code in R453, log 6). -/
def State.tkRatioRead (s : State) (w : WaitTicket) : State :=
  if 65535 < par w.t 0 then s.badParam w 5
  else if 65536 < par w.t 0 + par w.t 1 then s.badParam w 6
  else
    let bs := (List.range (par w.t 1)).flatMap (fun i => s.ring (par w.t 0 + i))
    let e := ((s.draw 1).lookRings (Config.freeWord s.free).toNat ((List.range (par w.t 1)).map (par w.t 0 + ·)) w.obs)
    if e.2 then e.1.complete w stDeviceFault [] else e.1.answer w 0 bs [wd s.upd.lastStep]

/-- TELEMETRY_READ (0x0704). -/
def State.tkTelemetryRead (s : State) (w : WaitTicket) : State :=
  (s.draw 1).answer w 0 s.telemetryPage []

/-! ### Group 0x08: idle levels and power (R400, R401, R405, R407) -/

/-- The longest exit latency of a level, in µs (R400). -/
def idleLatency (n : Nat) : Nat :=
  [0, 1, 5, 30, 11500, 14000].getD n 14000

/-- The deepest level not beyond one whose exit latency is allowed (R401). -/
def idleFor (deepest tol : Nat) : Nat :=
  ((List.range (deepest + 1)).filter (fun n => decide (idleLatency n ≤ tol))).foldl max 0

/-- The weights of arrays given up. -/
def State.loseArrays (s : State) (l : List Nat) : State :=
  match l with
  | [] => s
  | a :: r => (s.loseArray a).loseArrays r

/-- Arrays that hold no weights and have a source written again. -/
def State.rewriteArrays (s : State) (l : List Nat) : State :=
  match l with
  | [] => s
  | a :: r =>
    let x := s.array a
    (if x.holds || x.src.isEmpty || x.lost || x.moved.isSome then s else s.programAll a x.sources).rewriteArrays r

/-- The clusters and analogue references (bits 0 to 15, 18 and 19) and the die fabrics (16 and 17) of R397. -/
def clusterDoms : BitVec 36 := 0xCFFFF
def fabricDoms : BitVec 36 := 0x30000

/-- The clusters that a second failure of their domain left off: their cores are all absent (R24, R398). -/
def State.deadClusters (s : State) : BitVec 36 :=
  ((List.range 16).filter (fun k => (List.range 8).all (fun i => s.isAbsent (8 * k + i)))).foldl
    (fun m k => m ||| BitVec.ofNat 36 (2 ^ k)) 0

/-- Power domains that are on at a level, of those that were on at I0 (R397, R400). -/
def State.idleDoms (s : State) (old new : Nat) : BitVec 36 :=
  let d1 := if 4 ≤ new then s.pwr.dom &&& ~~~clusterDoms
    else if 4 ≤ old then s.pwr.dom ||| (clusterDoms &&& ~~~s.deadClusters) else s.pwr.dom
  if 5 ≤ new then d1 &&& ~~~fabricDoms else if 5 ≤ old then d1 ||| fabricDoms else d1

/-- What entering a level, or leaving one for it, does to stores and arrays: on the way back the blocks are loaded from NVM, which the
remap of a row precedes (R146, R400). -/
def State.idleEffects (s : State) (old new : Nat) (n : NvmRead) : State :=
  let s1 := if old < 3 ∧ 3 ≤ new then { s with store := { s.store with lstore := [], cstore := [] }, stk := [] } else s
  if old < 4 ∧ 4 ≤ new then s1.loseArrays (List.range 2048)
  else if 4 ≤ old ∧ new < 4 then (s1.loadBlocks n (List.range 128)).rewriteArrays (List.range 2048)
  else s1

/-- The idle level changes: STATE_CHANGE and IDLE_CHANGE (R340, R401, R405), and a brace acts at once on a level that draws more (R399). -/
def State.setIdle (s : State) (n : Nat) (nvm : NvmRead) : State :=
  if s.pwr.idle = n then s
  else
    let s1 := { s with pwr := { s.pwr with idle := n, dom := s.idleDoms s.pwr.idle n } }
    (((s1.idleEffects s.pwr.idle n nvm).raise 0x1007 []).setIrq 1).dutyFall

/-- IDLE_EXIT's effect: READY again, with the arrays rewritten (R355, R400). -/
def State.idleExit (s : State) (nvm : NvmRead) : State :=
  if s.hif.state = .idle then (s.setIdle 0 nvm).setState .ready else s

/-- SET_WAKE_TOL (0x0801): while idle, a level that no longer fits is left at once. -/
def State.tkSetWakeTol (s : State) (w : WaitTicket) : State :=
  let tol := par w.t 0
  let s1 := { s with pwr := { s.pwr with wakeTol := wd tol } }
  if s.hif.state = .idle ∧ tol < idleLatency s.pwr.idle then
    let n := idleFor s.pwr.idle tol
    (if n = 0 then s1.idleExit w.nvm else s1.setIdle n w.nvm).okT w []
  else s1.okT w []

/-- IDLE_ENTER (0x0802). -/
def State.tkIdleEnter (s : State) (w : WaitTicket) : State :=
  if par w.t 0 = 0 ∨ 5 < par w.t 0 then s.badParam w 5
  else if s.runningRecipe.isSome || !(s.hif.state == .ready || s.hif.state == .idle) then s.badState w
  else
    let n := idleFor (par w.t 0) s.pwr.wakeTol.toNat
    (if n = 0 then s.idleExit w.nvm else (s.setIdle n w.nvm).setState .idle).okT w [wd n]

/-- IDLE_EXIT (0x0803). -/
def State.tkIdleExit (s : State) (w : WaitTicket) : State :=
  if s.hif.state = .idle ∨ s.hif.state = .ready then (s.idleExit w.nvm).okT w [] else s.badState w

/-- POWER_LIMIT (0x0804): a limit that the management port sets in the same beat stands, and the ticket is DENIED, whichever came first. While
beats run it therefore completes at the tick that ends its beat (R351, R353, log 82). -/
def State.tkPowerLimit (s : State) (w : WaitTicket) : State :=
  if par w.t 0 < 450 ∨ 1200 < par w.t 0 then s.badParam w 5
  else if s.pwr.mgmtLimit then s.complete w stDenied []
  else
    let s1 := { s with pwr := { s.pwr with limit := wd (par w.t 0) } }
    if s.pwr.tickDriven then { s1 with hif := { s1.hif with limits := s1.hif.limits ++ [w] } } else s1.okT w []

/-- The POWER_LIMIT tickets that wait for the end of their beat complete. -/
def State.endLimits (s : State) (st : Nat) (l : List WaitTicket) : State :=
  match l with
  | [] => s
  | w :: r => (({ s with hif := { s.hif with limits := s.hif.limits.erase w } }).complete w st []).endLimits st r

/-- POWER_QUERY (0x0805). -/
def State.tkPowerQuery (s : State) (w : WaitTicket) : State :=
  s.okT w [s.pwr.pin, s.pwr.vin, s.pwrStat]

/-! ### Group 0x09 -/

/-- Whether a device number lies in a domain of the given dimensions (R25, R296). -/
def inDomain (x y z dev : Nat) : Bool :=
  decide (dev < 1024) && decide (dev % 16 < x) && decide (dev / 16 % 8 < y) && decide (dev / 128 < z)

/-- The word at fault in a DOMAIN_SET ticket. -/
def domainBad (t : Ticket) : Option Nat :=
  let x := par t 0
  let y := par t 1
  let z := par t 2
  ([(5, x == 0 || decide (16 < x)), (6, y == 0 || decide (8 < y)), (7, z == 0 || decide (8 < z)), (8, decide (x ≤ par t 3)),
    (9, decide (y ≤ par t 4)), (10, decide (z ≤ par t 5)), (11, !inDomain x y z (par t 6)),
    (12, par t 7 != 0xFFFF && !inDomain x y z (par t 7))].find? (·.2)).map (·.1)

/-- The ports train again for the dimensions in force. -/
def State.retrainPorts (s : State) (l : List Nat) : State :=
  match l with
  | [] => s
  | p :: r =>
    (if s.stuckDown p then s
     else (s.putPort p { s.port p with state := .disabled, upNext := false }).startTraining p).retrainPorts r

/-- DOMAIN_SET (0x0901): a new domain counts its beats from 0 and sends by dimension order (log 30). -/
def State.tkDomainSet (s : State) (w : WaitTicket) : State :=
  match domainBad w.t with
  | some i => s.badParam w i
  | none =>
    if s.runningRecipe.isSome then s.badState w
    else
      let p := par w.t
      let s1 := { s with
        lnk := { s.lnk with dimX := p 0, dimY := p 1, dimZ := p 2, cx := p 3, cy := p 4, cz := p 5, domain := true, master := p 6,
                            standby := if p 7 = 0xFFFF then none else some (p 7), beat := 0, flywheel := false, missed := 0,
                            tickRx := none, merged := none, forwarded := [], reported := [], windowOpen := false, stretch := 0, stretchRun := 0,
                            gen := 0, routes := [], genNext := none, dead := [], downs := [], late := [], silent := [] },
        flt := { s.flt with recov := [], restored := [] },
        pwr := { s.pwr with tickDriven := false } }
      (s1.retrainPorts (List.range 6)).okT w []

/-- The 32-bit words of a list in host memory. -/
def listWord (bs : List Byte) (i : Nat) : Word :=
  BitVec.ofNat 32 (leAt bs (4 * i) 4)

/-- The VCs a group may bind: VC4 to VC15 (R262, R357). -/
def groupVc (vc : Nat) : Bool :=
  decide (4 ≤ vc ∧ vc ≤ 15)

/-- The group a GROUP_DEFINE list gives, with its number; none when the list breaks R357. -/
def State.groupFrom (s : State) (bs : List Byte) : Option (Nat × Group) :=
  let id := (listWord bs 0).toNat
  let vc := (listWord bs 1).toNat
  let n := (listWord bs 2).toNat
  let ms := (List.range n).map (fun i => listWord bs (4 + i))
  let devs := ms.map (fun m => fld m 9 0)
  let now := applyGroups s.rcp.groups s.rcp.pending
  if groupVc vc = true ∧ 2 ≤ n ∧ n ≤ 1024 ∧ listWord bs 3 = 0 ∧ devs.contains s.device = true ∧ devs.Nodup
      ∧ ms.all (fun m => fld m 31 19 == 0 && !m.getLsbD 15 && fld m 11 10 == 0 && decide (fld m 18 16 < 6)
          && decide (fld m 14 12 < 6)) = true
      ∧ now.all (fun g => g.1 == id || g.2.vc != vc) = true then
    some (id, { vc := vc, members := ms.map (fun m => (fld m 9 0, fld m 18 16, fld m 14 12)) })
  else none

/-- GROUP_DEFINE (0x0902): it takes effect at the next step boundary (R262). -/
def State.tkGroupDefine (s : State) (w : WaitTicket) : State :=
  match bufBytes w.t (bufLen w.t) with
  | none => s.complete w stHostFault []
  | some bs =>
    if bufLen w.t < 16 ∨ bufLen w.t < 16 + 4 * (listWord bs 2).toNat then s.badParam w 4
    else
      match s.groupFrom bs with
      | none => s.badParam w 2
      | some g => ({ s with rcp := { s.rcp with pending := s.rcp.pending ++ [(g.1, some g.2)] } }).okT w []

/-- GROUP_DELETE (0x0903). -/
def State.tkGroupDelete (s : State) (w : WaitTicket) : State :=
  if (Tab.find (applyGroups s.rcp.groups s.rcp.pending) (par w.t 0)).isNone then s.badParam w 5
  else ({ s with rcp := { s.rcp with pending := s.rcp.pending ++ [(par w.t 0, none)] } }).okT w []

/-- BEAT_SET (0x0904). -/
def State.tkBeatSet (s : State) (w : WaitTicket) : State :=
  if par w.t 0 < 50 ∨ 1000 < par w.t 0 then s.badParam w 5
  else if s.runningRecipe.isSome then s.badState w
  else ({ s with lnk := { s.lnk with period := par w.t 0 } }).okT w []

/-- DOMAIN_JOIN (0x0905). A device lost for capacity it lost stays so until a recipe that does without it is loaded (R24). -/
def State.tkDomainJoin (s : State) (w : WaitTicket) : State :=
  if s.hif.state ≠ .lost ∨ s.mem.evac = true ∨ s.pwr.therm = 4 ∨ s.flt.degraded = true then s.badState w
  else
    (({ s with lnk := { s.lnk with dead := s.lnk.dead.filter (fun d => d != s.device) },
               flt := { s.flt with lostNext := false, lostTick := false } }).setState .ready).okT w []

/-- LINK_QUERY (0x0906). -/
def State.tkLinkQuery (s : State) (w : WaitTicket) : State :=
  s.okT w ((List.range 6).map s.portStat)

/-! ### Group 0x0A -/

/-- SEC_QUERY (0x0A01). -/
def State.tkSecQuery (s : State) (w : WaitTicket) : State :=
  s.okT w [wd s.sec.debug, wd s.keyMask, s.sec.rsealed.setWidth 32, wd (b2n s.sec.fwB)]

/-- CERT_READ (0x0A02). -/
def State.tkCertRead (s : State) (w : WaitTicket) : State :=
  s.answer w 0 Config.certChain [wd Config.certChain.length]

/-- What the NVM configuration holds that FW_CFG covers: core map, straps and owner root (R430). -/
def State.cfgBytes (s : State) : List Byte :=
  ((List.range 128).flatMap (fun k => leBytes 2 (s.phys k)))
    ++ leBytes 1 s.sbm.addr.toNat ++ leBytes 1 (b2n s.sbm.i3c) ++ (s.sec.owner.getD [])

/-- The firmware copy in use. -/
def State.fwCopy (s : State) : FwCopy :=
  if s.sec.fwB then s.sec.copyB else s.sec.copyA

/-- The measurements of R430, in index order. -/
def State.measurements (s : State) : List Byte :=
  Config.measurement 1 [] ++ Config.measurement 2 (s.fwCopy.hash ++ leBytes 2 s.fwCopy.svn.toNat) ++ Config.measurement 3 s.cfgBytes
    ++ (List.range 4).flatMap (fun h => ((s.recipe h).map (·.hash)).getD (List.replicate 48 0))
    ++ Config.measurement 8 (leBytes 4 s.sec.debug ++ leBytes 1 (b2n s.sec.unlocked) ++ leBytes 4 s.sec.unlocks)

/-- MEASURE (0x0A03): the nonce and the measurements, signed; the report's layout is not stated (log 9). -/
def State.tkMeasure (s : State) (w : WaitTicket) : State :=
  match bufBytes w.t 32 with
  | none => s.complete w stHostFault []
  | some nonce =>
    let m := nonce ++ s.measurements
    s.answer w 64 (m ++ Config.identitySign m) []

/-! ### Start of a ticket (R349, R351, R352, R401) -/

/-- The listed opcodes, with the number of parameter words each uses, whether ADDR must be aligned to 64 (1) or 4,096 (2), and whether
the ticket is sequenced (R355). -/
def opcodes : List (Nat × Nat × Nat × Bool) :=
  [(0x0101, 0, 1, false), (0x0102, 4, 2, false), (0x0103, 1, 0, false), (0x0104, 5, 2, false), (0x0105, 1, 0, false),
   (0x0106, 0, 0, false), (0x0201, 3, 1, true), (0x0202, 3, 1, true), (0x0203, 1, 0, false), (0x0204, 1, 0, true),
   (0x0301, 0, 1, true), (0x0302, 1, 0, true), (0x0303, 2, 0, true), (0x0304, 0, 0, true), (0x0401, 0, 0, true),
   (0x0402, 0, 0, true), (0x0501, 0, 1, true), (0x0502, 0, 1, true), (0x0503, 2, 0, true), (0x0504, 1, 0, true)]
  ++ [(0x0601, 1, 0, true), (0x0602, 0, 1, false), (0x0603, 0, 0, true), (0x0604, 0, 0, true), (0x0605, 2, 0, true),
      (0x0701, 3, 1, false), (0x0702, 3, 1, false), (0x0703, 2, 1, false), (0x0704, 0, 1, false), (0x0801, 1, 0, false),
      (0x0802, 1, 0, true), (0x0803, 0, 0, true), (0x0804, 1, 0, false), (0x0805, 0, 0, false), (0x0901, 8, 0, true),
      (0x0902, 0, 1, true), (0x0903, 1, 0, true), (0x0904, 1, 0, true), (0x0905, 0, 0, true), (0x0906, 0, 0, false),
      (0x0A01, 0, 0, false), (0x0A02, 0, 1, false), (0x0A03, 0, 1, false)]

/-- The entry of an opcode. -/
def opEntry (op : Half) : Option (Nat × Nat × Bool) :=
  (opcodes.find? (fun (e : Nat × Nat × Nat × Bool) => e.1 == op.toNat)).map (·.2)

/-- Whether a ticket is sequenced; one with an opcode that is not listed is not. -/
def WaitTicket.seq (w : WaitTicket) : Bool :=
  ((opEntry w.op).map (fun e => e.2.2)).getD false

/-- Whether a list in host memory is well formed: LEN bytes of 16-byte entries, each buffer aligned to 64, its reserved words zero. -/
def sglBad (t : Ticket) : Option Nat :=
  if t.len.toNat ≠ 16 * t.segs.length then some 4
  else if t.segs.any (fun g => g.addr % 64 != 0 || g.rsvd != 0) then some 2
  else none

/-- The word at fault in a ticket's own layout (R349). -/
def WaitTicket.flaw (w : WaitTicket) (e : Nat × Nat × Bool) : Option Nat :=
  if w.t.rsvd ≠ 0 then some 1
  else if e.2.1 = 1 ∧ w.t.addr.toNat % 64 ≠ 0 then some 2
  else if e.2.1 = 2 ∧ w.t.addr.toNat % 4096 ≠ 0 then some 2
  else
    match if w.t.sgl && e.2.1 == 1 then sglBad w.t else none with
    | some i => some i
    | none => ((w.t.p.drop e.1).findIdx? (fun x => x != 0)).map (fun i => 5 + e.1 + i)

/-- Whether a lock of the management port denies a ticket (R351). -/
def State.denies (s : State) (op : Half) : Bool :=
  (s.sbm.lockPower && (op == 0x0802 || op == 0x0803 || op == 0x0804)) || (s.sbm.lockSecurity && op == 0x0A03)

/-- Whether STATE lets a ticket run: with FAULT, groups 0x01 and 0x07 alone (R350). -/
def State.stateAllows (s : State) (op : Half) : Bool :=
  s.hif.state != .fault || op.toNat / 256 == 1 || op.toNat / 256 == 7

/-- A listed ticket's own effect. -/
def State.runTicket (s : State) (w : WaitTicket) : State :=
  match w.op.toNat with
  | 0x0101 => s.tkIdentify w
  | 0x0102 => s.tkCreateRail w
  | 0x0103 => s.tkDeleteRail w
  | 0x0104 => s.tkCreatePass w
  | 0x0105 => s.tkDeletePass w
  | 0x0106 => s.tkStatus w
  | 0x0201 => s.tkMemWrite w
  | 0x0202 => s.tkMemRead w
  | 0x0203 => s.tkRegionQuery w
  | 0x0204 => s.tkRegionFree w
  | 0x0301 => s.tkRecipeLoad w
  | 0x0302 => s.tkRecipeUnload w
  | 0x0303 => s.tkRecipeStart w
  | 0x0304 => s.tkRecipeStop w
  | 0x0401 => s.tkStep w false
  | 0x0402 => s.tkStep w true
  | 0x0501 => s.tkCkptSave w
  | 0x0502 => s.tkCkptRestore w
  | 0x0503 => s.tkShadowCfg w
  | 0x0504 => s.tkShadowRestore w
  | 0x0601 => s.tkCalRun w
  | 0x0602 => s.tkSctRead w
  | 0x0603 => s.tkTestEnter w
  | 0x0604 => s.tkTestLeave w
  | 0x0605 => s.tkDirectedTest w
  | 0x0701 => s.tkEventRead w
  | 0x0702 => s.tkHistoryRead w
  | 0x0703 => s.tkRatioRead w
  | 0x0704 => s.tkTelemetryRead w
  | 0x0801 => s.tkSetWakeTol w
  | 0x0802 => s.tkIdleEnter w
  | 0x0803 => s.tkIdleExit w
  | 0x0804 => s.tkPowerLimit w
  | 0x0805 => s.tkPowerQuery w
  | 0x0901 => s.tkDomainSet w
  | 0x0902 => s.tkGroupDefine w
  | 0x0903 => s.tkGroupDelete w
  | 0x0904 => s.tkBeatSet w
  | 0x0905 => s.tkDomainJoin w
  | 0x0906 => s.tkLinkQuery w
  | 0x0A01 => s.tkSecQuery w
  | 0x0A02 => s.tkCertRead w
  | 0x0A03 => s.tkMeasure w
  | _ => s.complete w stBadOpcode []

/-- Whether a ticket makes an idle device leave its level first: a sequenced one that is not about idling (R401). -/
def WaitTicket.wakes (w : WaitTicket) : Bool :=
  w.seq && w.op != 0x0802 && w.op != 0x0803

/-- A ticket starts: its opcode, STATE, the locks and its layout are checked in this order (log 29). -/
def State.startTicket (s : State) (w : WaitTicket) : State :=
  match opEntry w.op with
  | none => s.complete w stBadOpcode []
  | some e =>
    if !s.stateAllows w.op then s.badState w
    else if s.denies w.op then s.complete w stDenied []
    else
      match w.flaw e with
      | some i => s.badParam w i
      | none => (if w.wakes then s.idleExit w.nvm else s).runTicket w

/-- Whether a ticket's turn in its rail has come: every ticket of an earlier slot has started, with FENCE every one has completed (R349,
R352). -/
def Rail.mayStart (r : Rail) (t : Ticket) : Bool :=
  (r.inflight.takeWhile (fun x => x.id != t.slot)).all (fun x => x.taken && !t.fence)

/-- Whether a group ticket may run beside the step's and ahead of those that wait: the device holds at a step boundary for a lost device's shadow (R379, log 143). -/
def State.heldFor (s : State) (w : WaitTicket) : Bool :=
  s.flt.recov.any (fun (e : Nat × Recov) => e.2 == .shadow) && (w.op == 0x0902 || w.op == 0x0903)

/-- Whether a waiting ticket may start: it is the first of its rail, a FENCE has nothing of its rail before it in flight, and a
sequenced one is the first of those and none runs, no step is in progress and no boundary is being passed (R346, R349, R352, R358). -/
def State.mayStart (s : State) (before : List WaitTicket) (w : WaitTicket) : Bool :=
  !before.any (fun x => x.t.rail == w.t.rail)
    && (match Tab.find s.hif.rails w.t.rail with
        | none => true
        | some r => r.mayStart w.t)
    && (!w.seq || s.heldFor w || (s.hif.seqBusy.isNone && !s.stp.active && !s.stp.boundary && !before.any (fun x => x.seq)))

/-- The first waiting ticket that may start. -/
def State.startable (s : State) (before l : List WaitTicket) : Option WaitTicket :=
  match l with
  | [] => none
  | w :: r => if s.mayStart before w then some w else s.startable (before ++ [w]) r

/-- Waiting tickets start while any may. -/
def State.drainN (s : State) (fuel : Nat) : State :=
  match fuel with
  | 0 => s
  | n + 1 =>
    let s0 := s.finishDeletes s.hif.deleting
    match s0.startable [] s0.hif.waitq with
    | none => s0
    | some w => (({ s0 with hif := { s0.hif with waitq := s0.hif.waitq.erase w } }).startTicket w).drainN n

/-- The attempt of a device that is lost or has failed, discarded (R375). -/
def State.endAttempt (s : State) : State :=
  if s.stp.active || s.stp.saved.isSome then { s.discard with stp := { Stp.reset with halted := true } } else s

/-- Waiting tickets for a recipe that has stopped or failed complete with ABORTED, up to the next RECIPE_START (R354, R358). -/
def State.abortList (s : State) (l : List WaitTicket) : State :=
  match l with
  | [] => s
  | w :: r =>
    if w.op = 0x0303 then s
    else if w.op = 0x0401 ∨ w.op = 0x0402 ∨ w.op = 0x0304 then
      (({ s with hif := { s.hif with waitq := s.hif.waitq.erase w } }).complete w stAborted []).abortList r
    else s.abortList r

/-- The running ticket of the recipe of a device that is lost or has failed: a step or invocation ends with DEVICE_FAULT, a stop is done. -/
def State.endRunning (s : State) : State :=
  match s.hif.seqBusy with
  | none => s
  | some w =>
    if w.op = 0x0304 then s.okT w []
    else if w.op = 0x0401 ∨ w.op = 0x0402 ∨ w.op = 0x0303 then s.complete w stDeviceFault []
    else s

/-- The running step or invocation of a device that is lost or has failed ends with DEVICE_FAULT, and its recipe with it, whose waiting tickets
are ABORTED (R350, R354, R375, R381). -/
def State.endLost (s : State) : State :=
  if s.hif.state = .lost ∨ s.hif.state = .fault then
    let s1 := s.endAttempt
    if s1.runningRecipe.isSome then
      let s2 := ({ s1 with rcp := { s1.rcp with state := .failed } }).endRunning
      s2.abortList s2.hif.waitq
    else s1.endRunning
  else s

/-- The tickets that wait, as far as they can go: a CAL_RUN whose runs have ended completes (R355). -/
def State.drain (s : State) : State :=
  let s1 := s.endLost
  let s2 := match s1.hif.seqBusy with
    | none => s1
    | some w => if w.op = 0x0601 ∧ s1.calEnded w = true then s1.okT w [] else s1
  s2.drainN (s2.hif.waitq.length + 1)

/-- A rail with the command of one of its tickets come, and that ticket: as the words that were read give it, or, where TICKET_FETCH has not
read it, as a ticket read now (R346, R349). -/
def Rail.takeIn (r : Rail) (op : Half) (t : Ticket) : Rail × Ticket :=
  let own (x : RailSlot) : Bool := x.id == t.slot && x.op == op && x.tag == t.tag && !x.taken
  match r.inflight.find? own with
  | some x => ({ r with inflight := r.inflight.map (fun y => if own y then { y with taken := true } else y) }, readTicket x.words t)
  | none =>
    let id := if r.inflight.any (fun x => x.id == t.slot) then r.nextId else t.slot
    ({ r with inflight := r.inflight ++ [{ id := id, op := op, tag := t.tag, words := [], taken := true }] }, { t with slot := id })

/-- A ticket that has been read joins those that wait (R346, R352). A rail that does not exist holds no ticket. -/
def State.submit (s : State) (w : WaitTicket) : State :=
  match Tab.find s.hif.rails w.t.rail with
  | none => s
  | some r =>
    if !s.mboxRuns then s
    else
      let e := r.takeIn w.op w.t
      let s1 := s.setRail w.t.rail e.1
      ({ s1 with hif := { s1.hif with waitq := s1.hif.waitq ++ [{ w with t := e.2 }] } }).drain

/-- A ticket with nothing beside it. -/
def plain (op : Half) (t : Ticket) : WaitTicket :=
  { op := op, t := t, obs := { ce := [], ue := [] }, img := none, fails := [], nvm := { cal := [], remap := [] }, ok := true }

/-! ### The ticket commands: each is its ticket, read from its rail -/

/-- IDENTIFY (0x0101). -/
def execIdentify (t : Ticket) (s : State) : Host.Outcome State Fault Refusal :=
  .next (s.submit (plain 0x0101 t))

/-- CREATE_RAIL (0x0102). -/
def execCreateRail (t : Ticket) (s : State) : Host.Outcome State Fault Refusal :=
  .next (s.submit (plain 0x0102 t))

/-- DELETE_RAIL (0x0103). -/
def execDeleteRail (t : Ticket) (s : State) : Host.Outcome State Fault Refusal :=
  .next (s.submit (plain 0x0103 t))

/-- CREATE_PASS (0x0104). -/
def execCreatePass (t : Ticket) (s : State) : Host.Outcome State Fault Refusal :=
  .next (s.submit (plain 0x0104 t))

/-- DELETE_PASS (0x0105). -/
def execDeletePass (t : Ticket) (s : State) : Host.Outcome State Fault Refusal :=
  .next (s.submit (plain 0x0105 t))

/-- STATUS (0x0106). -/
def execStatus (t : Ticket) (s : State) : Host.Outcome State Fault Refusal :=
  .next (s.submit (plain 0x0106 t))

/-- MEM_WRITE (0x0201). -/
def execMemWrite (t : Ticket) (s : State) : Host.Outcome State Fault Refusal :=
  .next (s.submit (plain 0x0201 t))

/-- MEM_READ (0x0202). -/
def execMemRead (t : Ticket) (g : MemObs) (s : State) : Host.Outcome State Fault Refusal :=
  .next (s.submit { plain 0x0202 t with obs := g })

/-- REGION_QUERY (0x0203). -/
def execRegionQuery (t : Ticket) (s : State) : Host.Outcome State Fault Refusal :=
  .next (s.submit (plain 0x0203 t))

/-- REGION_FREE (0x0204). -/
def execRegionFree (t : Ticket) (s : State) : Host.Outcome State Fault Refusal :=
  .next (s.submit (plain 0x0204 t))

/-- RECIPE_LOAD (0x0301). -/
def execRecipeLoad (t : Ticket) (s : State) : Host.Outcome State Fault Refusal :=
  .next (s.submit (plain 0x0301 t))

/-- RECIPE_UNLOAD (0x0302). -/
def execRecipeUnload (t : Ticket) (s : State) : Host.Outcome State Fault Refusal :=
  .next (s.submit (plain 0x0302 t))

/-- RECIPE_START (0x0303). -/
def execRecipeStart (t : Ticket) (s : State) : Host.Outcome State Fault Refusal :=
  .next (s.submit (plain 0x0303 t))

/-- RECIPE_STOP (0x0304). -/
def execRecipeStop (t : Ticket) (s : State) : Host.Outcome State Fault Refusal :=
  .next (s.submit (plain 0x0304 t))

/-- STEP_RUN (0x0401). -/
def execStepRun (t : Ticket) (s : State) : Host.Outcome State Fault Refusal :=
  .next (s.submit (plain 0x0401 t))

/-- INVOKE (0x0402). -/
def execInvoke (t : Ticket) (s : State) : Host.Outcome State Fault Refusal :=
  .next (s.submit (plain 0x0402 t))

/-- CKPT_SAVE (0x0501). -/
def execCkptSave (t : Ticket) (s : State) : Host.Outcome State Fault Refusal :=
  .next (s.submit (plain 0x0501 t))

/-- CKPT_RESTORE (0x0502). -/
def execCkptRestore (t : Ticket) (s : State) : Host.Outcome State Fault Refusal :=
  .next (s.submit (plain 0x0502 t))

/-- SHADOW_CFG (0x0503). -/
def execShadowCfg (t : Ticket) (accepted : Bool) (s : State) : Host.Outcome State Fault Refusal :=
  .next (s.submit { plain 0x0503 t with ok := accepted })

/-- SHADOW_RESTORE (0x0504). -/
def execShadowRestore (t : Ticket) (img : Option ShadowImage) (s : State) : Host.Outcome State Fault Refusal :=
  .next (s.submit { plain 0x0504 t with img := img })

/-- CAL_RUN (0x0601). -/
def execCalRun (t : Ticket) (s : State) : Host.Outcome State Fault Refusal :=
  .next (s.submit (plain 0x0601 t))

/-- SCT_READ (0x0602). -/
def execSctRead (t : Ticket) (s : State) : Host.Outcome State Fault Refusal :=
  .next (s.submit (plain 0x0602 t))

/-- TEST_ENTER (0x0603). -/
def execTestEnter (t : Ticket) (s : State) : Host.Outcome State Fault Refusal :=
  .next (s.submit (plain 0x0603 t))

/-- TEST_LEAVE (0x0604). -/
def execTestLeave (t : Ticket) (fails : List (Nat × Nat)) (s : State) : Host.Outcome State Fault Refusal :=
  .next (s.submit { plain 0x0604 t with fails := fails })

/-- DIRECTED_TEST (0x0605). -/
def execDirectedTest (t : Ticket) (fails : Bool) (s : State) : Host.Outcome State Fault Refusal :=
  .next (s.submit { plain 0x0605 t with ok := !fails })

/-- EVENT_READ (0x0701). -/
def execEventRead (t : Ticket) (s : State) : Host.Outcome State Fault Refusal :=
  .next (s.submit (plain 0x0701 t))

/-- HISTORY_READ (0x0702). -/
def execHistoryRead (t : Ticket) (s : State) : Host.Outcome State Fault Refusal :=
  .next (s.submit (plain 0x0702 t))

/-- RATIO_READ (0x0703). -/
def execRatioRead (t : Ticket) (s : State) : Host.Outcome State Fault Refusal :=
  .next (s.submit (plain 0x0703 t))

/-- TELEMETRY_READ (0x0704). -/
def execTelemetryRead (t : Ticket) (s : State) : Host.Outcome State Fault Refusal :=
  .next (s.submit (plain 0x0704 t))

/-- SET_WAKE_TOL (0x0801). -/
def execSetWakeTol (t : Ticket) (s : State) : Host.Outcome State Fault Refusal :=
  .next (s.submit (plain 0x0801 t))

/-- IDLE_ENTER (0x0802). -/
def execIdleEnter (t : Ticket) (s : State) : Host.Outcome State Fault Refusal :=
  .next (s.submit (plain 0x0802 t))

/-- IDLE_EXIT (0x0803). -/
def execIdleExit (t : Ticket) (nvm : NvmRead) (s : State) : Host.Outcome State Fault Refusal :=
  .next (s.submit { plain 0x0803 t with nvm := nvm })

/-- POWER_LIMIT (0x0804). -/
def execPowerLimit (t : Ticket) (s : State) : Host.Outcome State Fault Refusal :=
  .next (s.submit (plain 0x0804 t))

/-- POWER_QUERY (0x0805). -/
def execPowerQuery (t : Ticket) (s : State) : Host.Outcome State Fault Refusal :=
  .next (s.submit (plain 0x0805 t))

/-- DOMAIN_SET (0x0901). -/
def execDomainSet (t : Ticket) (s : State) : Host.Outcome State Fault Refusal :=
  .next (s.submit (plain 0x0901 t))

/-- GROUP_DEFINE (0x0902). -/
def execGroupDefine (t : Ticket) (s : State) : Host.Outcome State Fault Refusal :=
  .next (s.submit (plain 0x0902 t))

/-- GROUP_DELETE (0x0903). -/
def execGroupDelete (t : Ticket) (s : State) : Host.Outcome State Fault Refusal :=
  .next (s.submit (plain 0x0903 t))

/-- BEAT_SET (0x0904). -/
def execBeatSet (t : Ticket) (s : State) : Host.Outcome State Fault Refusal :=
  .next (s.submit (plain 0x0904 t))

/-- DOMAIN_JOIN (0x0905). -/
def execDomainJoin (t : Ticket) (s : State) : Host.Outcome State Fault Refusal :=
  .next (s.submit (plain 0x0905 t))

/-- LINK_QUERY (0x0906). -/
def execLinkQuery (t : Ticket) (s : State) : Host.Outcome State Fault Refusal :=
  .next (s.submit (plain 0x0906 t))

/-- SEC_QUERY (0x0A01). -/
def execSecQuery (t : Ticket) (s : State) : Host.Outcome State Fault Refusal :=
  .next (s.submit (plain 0x0A01 t))

/-- CERT_READ (0x0A02). -/
def execCertRead (t : Ticket) (s : State) : Host.Outcome State Fault Refusal :=
  .next (s.submit (plain 0x0A02 t))

/-- MEASURE (0x0A03). -/
def execMeasure (t : Ticket) (s : State) : Host.Outcome State Fault Refusal :=
  .next (s.submit (plain 0x0A03 t))

/-- TICKET_BAD_OPCODE: a ticket whose opcode R355 does not list; a listed opcode is that ticket, with nothing beside it. -/
def execTicketBadOpcode (op : Half) (t : Ticket) (s : State) : Host.Outcome State Fault Refusal :=
  .next (s.submit (plain op t))

end Sys2Proof.Machine
end

