-- ==== Sys2Proof/Machine/Regs.lean ====
section
/-! DEFINITION. The register file as the host and the management port see it, the PCIe function, BAR2, and the BAR4 windows (R10 to R14, R91 to R93, R125 to
R127, R151 to R156, R335 to R345, R413, R435). -/

namespace Sys2Proof.Machine

/-! ### Offsets (R337) -/

/-- The ranges of the BAR0 map, as (first, last). -/
def blocks : List (Nat × Nat) :=
  [(0x0000, 0x03FF), (0x0400, 0x041F), (0x0440, 0x0453), (0x0460, 0x0473), (0x0480, 0x04A3), (0x04C0, 0x04CF), (0x04E0, 0x04F3),
   (0x1000, 0x17FF), (0x1800, 0x18FF), (0x2000, 0x2FFF), (0x3000, 0x33FF), (0x4000, 0x4FFF), (0x5000, 0x5FFF), (0x6000, 0x6FFF),
   (0x7000, 0x7FFF), (0xF000, 0xF40F), (0xF800, 0xF80F)]

/-- Whether an offset lies in a listed range. -/
def listed (off : Nat) : Bool :=
  blocks.any (fun b => decide (b.1 ≤ off) && decide (off ≤ b.2))

/-- Whether an offset is one of the MSI-X structures. -/
def isMsix (off : Nat) : Bool :=
  decide (0xF000 ≤ off)

/-- Whether an offset is the word at base + k × stride with k < n. -/
def slotAt (off base stride n : Nat) : Bool :=
  decide (base ≤ off) && decide (off < base + stride * n) && (off - base) % stride == 0

/-- The COUNT registers (RC) that host and management port share. -/
def counterAt (off : Nat) : Bool :=
  slotAt off 0x400 4 8 || slotAt off 0x440 4 5 || slotAt off 0x460 4 5 || slotAt off 0x480 4 4 || slotAt off 0x4C0 4 3
    || slotAt off 0x4E0 4 5 || slotAt off 0x1000 4 6 || slotAt off 0x1300 4 7 || slotAt off 0x1340 4 5 || slotAt off 0x1840 4 3
    || slotAt off 0x2010 4 5 || slotAt off 0x2408 16 24 || slotAt off 0x3060 4 8 || slotAt off 0x4030 4 3 || slotAt off 0x5070 4 2
    || slotAt off 0x7010 4 7

/-- The low words of the 64-bit registers of the shared blocks and of HIF_ (R14). -/
def lowWordAt (off : Nat) : Bool :=
  off == 0x10 || off == 0x20 || off == 0x498 || slotAt off 0x2200 8 64 || off == 0x3048 || off == 0x5060

/-! ### Values -/

/-- The low or high word of a 64-bit value. -/
def half64 (v : DWord) (high : Bool) : Word :=
  if high then (v >>> 32).setWidth 32 else v.setWidth 32

/-- A BAR4 window at reset: closed (R341). -/
def Win.blank : Win := { en := false, region := 0, baseMib := 0 }

/-- Window n. -/
def State.win (s : State) (n : Nat) : Win :=
  Tab.get s.hif.wins n Win.blank

/-- Word i of HIF_WIN_n (R341). -/
def State.winWord (s : State) (n i : Nat) : Word :=
  let x := s.win n
  if i = 0 then at_ (b2n x.en) 31 ||| x.region.setWidth 32
  else if i = 1 then x.baseMib
  else if i = 2 ∧ pairKind (s.regionKind x.region.toNat) = true then s.epochWord
  else 0

/-- The HIF_ block (R339 to R341). MBOX_RESET reads 0: a reset completes at once. -/
def State.hifReg (s : State) (off : Nat) : Word :=
  if off = 0x000 then hifId
  else if off = 0x004 then s.hifStat
  else if off = 0x008 then at_ (b2n s.hif.mboxEn) 0
  else if off = 0x010 ∨ off = 0x014 then half64 s.hif.arailBase (off == 0x014)
  else if off = 0x018 then wd s.hif.arailLog2
  else if off = 0x020 ∨ off = 0x024 then half64 s.hif.apassBase (off == 0x024)
  else if off = 0x028 then wd s.hif.apassLog2
  else if off = 0x030 then s.hif.irqStat.setWidth 32
  else if off = 0x034 then s.hif.irqMask.setWidth 32
  else if off = 0x038 ∨ off = 0x03C then half64 s.hif.railErr (off == 0x03C)
  else if off = 0x040 then s.ctrGet cBadAcc
  else if slotAt off 0x100 4 16 then s.winWord ((off - 0x100) / 16) ((off - 0x100) / 4 % 4)
  else 0

/-- ANA_CORE_STAT_k (R93). -/
def State.coreStat (s : State) (k : Nat) : Word :=
  let c := s.core k
  if s.isAbsent k then 0 else at_ c.writing.toNat 4 ||| at_ (b2n (s.firing k)) 2 ||| at_ (s.firingBank k % 4) 0

/-- The ANA_ block without its counters (R91 to R93, R125 to R127, R150). -/
def State.anaReg (s : State) (off : Nat) : Word :=
  if off = 0x1020 then at_ s.ana.w1new 16 ||| at_ s.ana.w3new 8 ||| at_ s.ana.w2new 0
  else if off = 0x1024 then
    (if s.hif.state = .test then at_ (b2n s.ana.forceSplit) 1 ||| at_ (b2n s.ana.noSkip) 0 else 0)
  else if slotAt off 0x1100 4 128 then s.coreStat ((off - 0x1100) / 4)
  else if off = 0x1320 then wd s.ana.intervalNew
  else if off = 0x1324 then at_ s.ana.rmsMargin 8 ||| at_ s.ana.meanMargin 0
  else if off = 0x1328 then s.accStat
  else if slotAt off 0x1400 4 128 then s.scrubStat ((off - 0x1400) / 4)
  else 0

/-- The CAL_ block without its counters (R151 to R155). -/
def State.calReg (s : State) (off : Nat) : Word :=
  if off = 0x1800 then wd s.cal.trig
  else if off = 0x1804 then s.calCmd
  else if off = 0x1808 then s.calStat
  else if off = 0x180C then s.cal.rext
  else if off = 0x1810 then s.cal.epochCnt
  else if slotAt off 0x1820 4 4 then s.calPend ((off - 0x1820) / 4)
  else 0

/-- The MEM_ block without its counters (R203, R204, R330 to R335). -/
def State.memReg (s : State) (off : Nat) : Word :=
  if off = 0x2000 then s.memStat
  else if off = 0x2004 then wd s.mem.patrolNew
  else if slotAt off 0x2100 4 24 then s.memTemp ((off - 0x2100) / 4)
  else if slotAt off 0x2200 8 64 then (s.regionWords ((off - 0x2200) / 8)).1
  else if slotAt off 0x2204 8 64 then (s.regionWords ((off - 0x2204) / 8)).2
  else if slotAt off 0x2400 16 24 then s.tgCtl ((off - 0x2400) / 16)
  else if slotAt off 0x2404 16 24 then (s.tgen ((off - 0x2404) / 16)).frames
  else if slotAt off 0x240C 16 24 then (s.tgen ((off - 0x240C) / 16)).first
  else if slotAt off 0x2800 4 16 then s.stkStat ((off - 0x2800) / 4)
  else if off = 0x2840 then s.epochStat
  else if off = 0x2844 then s.epochOldest
  else if slotAt off 0x2848 4 4 then s.epochSlotWord ((off - 0x2848) / 4)
  else 0

/-- The LNK_ block without its counters (R288, R312, R313). -/
def State.lnkReg (s : State) (off : Nat) : Word :=
  if slotAt off 0x3000 4 6 then s.portStat ((off - 0x3000) / 4)
  else if off = 0x3040 then s.beatStat
  else if off = 0x3048 then wd s.lnk.beat
  else if off = 0x304C then wd (s.lnk.beat / 2 ^ 32 % 65536)
  else if off = 0x3050 then s.domainWord
  else if off = 0x3054 then s.lnk.skew.setWidth 32
  else if slotAt off 0x3100 4 6 then s.ladleStat ((off - 0x3100) / 4)
  else 0

/-- The PWR_ block without its counters (R406 to R409). -/
def State.pwrReg (s : State) (off : Nat) : Word :=
  if off = 0x4000 then s.pwrStat
  else if off = 0x4004 then s.pwr.sticky.setWidth 32
  else if off = 0x4008 then s.pwr.limit
  else if off = 0x400C then s.pwr.wakeTol
  else if off = 0x4010 then s.pwr.vin
  else if off = 0x4014 then s.pwr.pin
  else if off = 0x4018 then s.pwr.dom.setWidth 32
  else if off = 0x401C then (s.pwr.dom >>> 32).setWidth 32
  else if off = 0x4020 then s.tempDie
  else if off = 0x4024 then s.tempCool
  else 0

/-- The recorder block without its counters (R433). -/
def State.recReg (s : State) (off : Nat) : Word :=
  if off = 0x5000 then s.evt.alarm.setWidth 32
  else if off = 0x5004 then wd s.evt.first.length
  else if off = 0x5008 then wd s.evt.seq
  else if off = 0x5010 then s.evt.sel
  else if slotAt off 0x5020 4 16 then s.recData ((off - 0x5020) / 4)
  else if off = 0x5060 then wd s.evt.hours
  else if off = 0x5064 then wd (s.evt.hours / 2 ^ 32 % 65536)
  else if off = 0x5068 then wd (s.evt.pcycle % 2 ^ 24)
  else 0

/-- The SEC_ block (R434). -/
def State.secReg (s : State) (off : Nat) : Word :=
  if off = 0x6000 then s.secStat
  else if off = 0x6004 then s.sec.copyA.word
  else if off = 0x6008 then s.sec.copyB.word
  else if off = 0x600C then s.sec.rollback.setWidth 32
  else 0

/-- A register of the blocks from 0x0400 on. -/
def State.sharedReg (s : State) (off : Nat) : Word :=
  if counterAt off then s.ctrGet off
  else if off = 0x490 then s.upd.stat
  else if off = 0x498 ∨ off = 0x49C then half64 (if s.upd.shown then s.upd.digest else 0) (off == 0x49C)
  else if off = 0x4A0 then (if s.upd.shown then s.upd.digestEpoch else 0)
  else if off = 0x4CC then s.rcpStat
  else if off / 0x800 = 2 then s.anaReg off
  else if off / 0x100 = 0x18 then s.calReg off
  else if off / 0x1000 = 2 then s.memReg off
  else if off / 0x1000 = 3 then s.lnkReg off
  else if off / 0x1000 = 4 then s.pwrReg off
  else if off / 0x1000 = 5 then s.recReg off
  else if off / 0x1000 = 6 then s.secReg off
  else if off = 0x7000 then s.fltStat
  else if off = 0x7004 then s.flt.lastRecov
  else if off / 0x1000 = 0xF then Tab.get s.hif.msix off 0
  else 0

/-- The SBM_ block, at 0x0000 to 0x03FF of the management port's view (R435). -/
def State.sbmReg (s : State) (off : Nat) : Word :=
  if off = 0x000 then s.sbmStat
  else if off = 0x004 then s.sbmLock
  else if off = 0x008 then s.sbm.alertMask
  else if off = 0x00C then s.ctrGet cSbmDrop
  else if off = 0x010 then s.ctrGet cSbmBadAcc
  else 0

/-- What a register holds, as a master sees it; an offset outside every range reads zero (R337). -/
def State.regVal (s : State) (m : Master) (off : Nat) : Word :=
  if off < 0x400 then (match m with
    | .host => s.hifReg off
    | .mgmt => s.sbmReg off)
  else s.sharedReg off

/-- The management port sees no HIF_ register, so that its 64-bit registers are those of the shared blocks (R337). -/
def wideAt (m : Master) (off : Nat) : Bool :=
  lowWordAt off && (match m with
    | .host => true
    | .mgmt => decide (0x400 ≤ off))

/-! ### Reads (R11, R12, R14, R338) -/

/-- A master's latches. -/
def State.latches (s : State) (m : Master) : Tab Word :=
  match m with
  | .host => s.hif.hostLatch
  | .mgmt => s.hif.mgmtLatch

/-- A master's latches replaced. -/
def State.setLatches (s : State) (m : Master) (t : Tab Word) : State :=
  match m with
  | .host => { s with hif := { s.hif with hostLatch := t } }
  | .mgmt => { s with hif := { s.hif with mgmtLatch := t } }

/-- What a read by a master gives, with its effect on the latches: a low word latches the high word; a high word gives the latched
value once, or the current one. DESIGN CHOICE, log 94: a master has one latch for each 64-bit register (R14). -/
def State.readReg (s : State) (m : Master) (off : Nat) : Word × State :=
  if wideAt m off then (s.regVal m off, s.setLatches m (Tab.put (s.latches m) off (s.regVal m (off + 4))))
  else if decide (4 ≤ off) && wideAt m (off - 4) then
    match Tab.find (s.latches m) (off - 4) with
    | some v => (v, s.setLatches m (Tab.del (s.latches m) (off - 4)))
    | none => (s.regVal m off, s)
  else (s.regVal m off, s)

/-- Whether the host reaches the function: the main side is up, out of reset and not stopped in start-up, and the link is at least x8
(R336, R443, R444, R449). -/
def State.hostUp (s : State) : Bool :=
  s.pwr.pwrgood && !s.pwr.modReset && s.pwr.startFail.isNone && !s.hif.perst && !s.hif.held

/-- What the host read, for its completion. -/
def State.hostData (s : State) (l : List Word) : State :=
  { s with hif := { s.hif with readData := l, poisoned := false } }

/-- A register read by the host; a counter is cleared, keeping what hardware adds meanwhile (R11, R12). -/
def State.hostRead (s : State) (off hwAdd : Nat) : State :=
  let r := s.readReg .host off
  let s1 := r.2.hostData [r.1]
  if counterAt off || off == cBadAcc then { s1 with ctr := Tab.put s1.ctr off (satAdd 0 hwAdd) } else s1

/-- A host read of a register; one that is not aligned reads all ones and is counted (R13). -/
def State.hostReadAt (s : State) (off hwAdd : Nat) : State :=
  if !s.hostUp then s
  else if off % 4 ≠ 0 then (s.count cBadAcc 1).hostData [0xFFFFFFFF]
  else s.hostRead off hwAdd

/-- RC_COUNTER_READ: a host read of a register; only a COUNT field is cleared. -/
def execRcCounterRead (off hwAdd : Nat) (s : State) : Host.Outcome State Fault Refusal :=
  .next (s.hostReadAt off hwAdd)

/-- Data that a management read returns, with its status (R413). -/
def State.rsp (s : State) (status : Nat) (l : List Word) : State :=
  { s with sbm := { s.sbm with rspStatus := status, rspData := l, rspBytes := [] } }

/-- A refused access of the management port counted (R435). -/
def State.mgmtBad (s : State) : State :=
  s.count cSbmBadAcc 1

/-- Whether the port serves a register while the main rails are off: PWR_STICKY and EVT_ALARM (R412). -/
def aonReg (off : Nat) : Bool :=
  off == 0x4004 || off == 0x5000

/-- A register read by the management port: it clears no field but the SBM_ counters (R338, R412, R435). -/
def State.mgmtRead (s : State) (off : Nat) : State :=
  if !s.pwr.aon then s
  else if !s.pwr.pwrgood && !aonReg off then s.rsp 3 []
  else if off % 4 ≠ 0 then s.mgmtBad.rsp 1 [0xFFFFFFFF]
  else if !listed off then s.mgmtBad.rsp 0 [0]
  else if isMsix off then s.rsp 0 [0]
  else
    let r := s.readReg .mgmt off
    let s1 := r.2.rsp 0 [r.1]
    if off = 0x00C then { s1 with ctr := Tab.put s1.ctr cSbmDrop 0 }
    else if off = 0x010 then { s1 with ctr := Tab.put s1.ctr cSbmBadAcc 0 }
    else s1

/-- REG_READ (management command 0x01). -/
def execRegRead (off : Nat) (s : State) : Host.Outcome State Fault Refusal :=
  .next (s.mgmtRead off)

/-- A register read by either master. -/
def State.readBy (s : State) (m : Master) (off : Nat) : State :=
  match m with
  | .host => s.hostReadAt off 0
  | .mgmt => s.mgmtRead off

/-- LOW_WORD_READ. -/
def execLowWordRead (m : Master) (off : Nat) (s : State) : Host.Outcome State Fault Refusal :=
  .next (s.readBy m off)

/-- HIGH_WORD_READ. -/
def execHighWordRead (m : Master) (off : Nat) (s : State) : Host.Outcome State Fault Refusal :=
  .next (s.readBy m off)

/-! ### Writes -/

/-- LOG2 of HIF_ARAIL_CFG and HIF_APASS_CFG: the nearer end of 4 to 16 (R340). -/
def clampLog2 (v : Word) : Nat :=
  max 4 (min 16 (fld v 4 0))

/-- One word of a base register, 4 KiB-aligned (R340). -/
def putHalf (v : DWord) (w : Word) (high : Bool) : DWord :=
  if high then (w.setWidth 64 <<< 32) ||| (v &&& 0xFFFFFFFF) else (v &&& 0xFFFFFFFF00000000) ||| (w &&& 0xFFFFF000).setWidth 64

/-- HIF_CTL (R339). -/
def State.writeHifCtl (s : State) (v : Word) : State :=
  let s1 := if v.getLsbD 1 then s.resetMailbox s.hif.mboxEn else s
  if v.getLsbD 0 && !s1.hif.mboxEn then { s1 with hif := s1.hif.clearMbox true }
  else if !v.getLsbD 0 && s1.hif.mboxEn then s1.resetMailbox false
  else s1

/-- A window's word written (R341). -/
def State.writeWin (s : State) (n i : Nat) (v : Word) : State :=
  let x := s.win n
  if i = 0 then { s with hif := { s.hif with wins := Tab.put s.hif.wins n { x with en := v.getLsbD 31, region := v.setWidth 6 } } }
  else if i = 1 then { s with hif := { s.hif with wins := Tab.put s.hif.wins n { x with baseMib := v } } }
  else s

/-- A write to the HIF_ block (R339 to R341). The admin rail's and pass's registers are fixed while the mailbox is enabled. -/
def State.hifWrite (s : State) (off : Nat) (v : Word) : State :=
  if off = 0x008 then s.writeHifCtl v
  else if off = 0x030 then { s with hif := { s.hif with irqStat := s.hif.irqStat &&& ~~~(v.setWidth 4) } }
  else if off = 0x034 then { s with hif := { s.hif with irqMask := v.setWidth 4 } }
  else if slotAt off 0x100 4 16 then s.writeWin ((off - 0x100) / 16) ((off - 0x100) / 4 % 4) v
  else if s.hif.mboxEn then s
  else if off = 0x010 ∨ off = 0x014 then { s with hif := { s.hif with arailBase := putHalf s.hif.arailBase v (off == 0x014) } }
  else if off = 0x018 then { s with hif := { s.hif with arailLog2 := clampLog2 v } }
  else if off = 0x020 ∨ off = 0x024 then { s with hif := { s.hif with apassBase := putHalf s.hif.apassBase v (off == 0x024) } }
  else if off = 0x028 then { s with hif := { s.hif with apassLog2 := clampLog2 v } }
  else s

/-- A row limit as it is stored: from 0x40 to the field's reset value (R91). -/
def clampLim (v top : Nat) : Nat :=
  max 0x40 (min top v)

/-- ANA_ROWLIM (R91): in force from the next tick. -/
def State.writeRowlim (s : State) (v : Word) : State :=
  { s with ana := { s.ana with w1new := clampLim (fld v 23 16) 0x80, w3new := clampLim (fld v 15 8) 0x7F,
                               w2new := clampLim (fld v 7 0) 0x55 } }

/-- ANA_CTL (R92): ignored outside TEST. -/
def State.writeAnaCtl (s : State) (v : Word) : State :=
  if s.hif.state = .test then { s with ana := { s.ana with forceSplit := v.getLsbD 1, noSkip := v.getLsbD 0 } } else s

/-- CAL_CTL (R152). -/
def State.writeCalCtl (s : State) (v : Word) : State :=
  { s with cal := { s.cal with trig := max 2 (min 8 (fld v 7 0)) } }

/-- CAL_CMD (R153). -/
def State.writeCalCmd (s : State) (v : Word) : State :=
  let c := fld v 7 0
  let k := if 0x80 ≤ c then 0xFF else c
  let s1 := { s with cal := { s.cal with cmdCore := BitVec.ofNat 8 k } }
  if v.getLsbD 31 then s1.calCommand (s1.namedCores k) else s1

/-- A write to the blocks that both masters share. -/
def State.sharedWrite (s : State) (off : Nat) (v : Word) : State :=
  if off = 0x1020 then s.writeRowlim v
  else if off = 0x1024 then s.writeAnaCtl v
  else if off = 0x1320 then { s with ana := { s.ana with intervalNew := fld v 15 0 } }
  else if off = 0x1324 then { s with ana := { s.ana with rmsMargin := fld v 15 8, meanMargin := fld v 7 0 } }
  else if off = 0x1800 then s.writeCalCtl v
  else if off = 0x1804 then s.writeCalCmd v
  else if off = 0x2004 then { s with mem := { s.mem with patrolNew := max 1 (fld v 7 0) } }
  else if slotAt off 0x2400 16 24 then s.tgWrite ((off - 0x2400) / 16) v
  else if slotAt off 0x2404 16 24 then
    (if s.hif.state = .test then s.setTgen ((off - 0x2404) / 16) { s.tgen ((off - 0x2404) / 16) with frames := v } else s)
  else if off = 0x4004 then { s with pwr := { s.pwr with sticky := s.pwr.sticky &&& ~~~(v.setWidth 10) } }
  else if off = 0x5000 then { s with evt := { s.evt with alarm := s.evt.alarm &&& ~~~(v.setWidth 14) } }
  else if off = 0x5010 then { s with evt := { s.evt with sel := v } }
  else s

/-- What hardware sets in a W1C register in the cycle of a write (R12). -/
def State.hwSets (s : State) (off : Nat) (v : Word) (l : List Nat) : State :=
  match l with
  | [] => s
  | i :: r =>
    (if !v.getLsbD i then s
     else if off = 0x030 ∧ i < 4 then s.setIrq i
     else if off = 0x4004 ∧ i < 10 then s.setSticky i
     else if off = 0x5000 ∧ 0 < i ∧ i < 14 then s.setAlarm i
     else s).hwSets off v r

/-- A register written by the host; a write that is not aligned, or outside every range, is discarded and counted (R13, R337). -/
def State.hostWrite (s : State) (off : Nat) (v : Word) : State :=
  if off % 4 ≠ 0 || !listed off then s.count cBadAcc 1
  else if off < 0x400 then s.hifWrite off v
  else if isMsix off then
    (if off ≤ 0xF40F then { s with hif := { s.hif with msix := Tab.put s.hif.msix off v } } else s)
  else s.sharedWrite off v

/-- REGISTER_WRITE: what hardware sets in the same cycle stays set. -/
def execRegisterWrite (off : Nat) (v hwSet : Word) (s : State) : Host.Outcome State Fault Refusal :=
  .next (if s.hostUp then (s.hwSets off hwSet (List.range 14)).hostWrite off (v &&& ~~~(if off = 0x030 ∨ off = 0x4004 ∨ off = 0x5000
    then hwSet else 0)) else s)

/-- ANA_ROWLIM_WRITE. -/
def execAnaRowlimWrite (v : Word) (s : State) : Host.Outcome State Fault Refusal :=
  .next (s.writeRowlim v)

/-- ANA_CTL_WRITE. -/
def execAnaCtlWrite (v : Word) (s : State) : Host.Outcome State Fault Refusal :=
  .next (s.writeAnaCtl v)

/-- CAL_CTL_WRITE. -/
def execCalCtlWrite (v : Word) (s : State) : Host.Outcome State Fault Refusal :=
  .next (s.writeCalCtl v)

/-- CAL_CMD_GO: a write to CAL_CMD with GO set. -/
def execCalCmdGo (v : Word) (s : State) : Host.Outcome State Fault Refusal :=
  .next (s.writeCalCmd (v ||| 0x80000000))

/-- BAD_ACCESS: an access of another size or alignment than R13 allows, or a register that no range lists (R13, R337, R435);
with the main rails off the management port is busy (R412). -/
def State.badAccess (s : State) (m : Master) (write : Bool) (off size : Nat) : State :=
  let odd : Bool := size != 4 || off % 4 != 0
  match m with
  | .host =>
    if !s.hostUp then s
    else if odd then
      let s1 := s.count cBadAcc 1
      if write then s1 else s1.hostData [0xFFFFFFFF]
    else if listed off then s
    else if write then s.count cBadAcc 1
    else s.hostData [0]
  | .mgmt =>
    if !s.pwr.aon then s
    else if !s.pwr.pwrgood && !(aonReg off && !write && !odd) then s.rsp 3 []
    else if odd then s.mgmtBad.rsp 1 (if write then [] else [0xFFFFFFFF])
    else if listed off then s
    else s.mgmtBad.rsp 0 (if write then [] else [0])

/-- BAD_ACCESS. -/
def execBadAccess (m : Master) (write : Bool) (off size : Nat) (s : State) : Host.Outcome State Fault Refusal :=
  .next (s.badAccess m write off size)

/-! ### The management port's writes (R413, R414, R435) -/

/-- The locks taken or released: a change sets SB_CHANGE (R340, R414). -/
def State.setLocks (s : State) (power security : Bool) : State :=
  if s.sbm.lockPower = power ∧ s.sbm.lockSecurity = security then s
  else ({ s with sbm := { s.sbm with lockPower := power, lockSecurity := security } }).setIrq 3

/-- A register written by the management port. -/
def State.mgmtWrite (s : State) (off : Nat) (v : Word) : State :=
  if !s.pwr.aon then s
  else if !s.pwr.pwrgood then s.rsp 3 []
  else if off % 4 ≠ 0 then s.mgmtBad.rsp 1 []
  else if !listed off || isMsix off then s.mgmtBad.rsp 0 []
  else if off = 0x004 then (s.setLocks (v.getLsbD 0) (v.getLsbD 1)).rsp 0 []
  else if off = 0x008 then ({ s with sbm := { s.sbm with alertMask := v &&& 0x00FFFFFE } }).rsp 0 []
  else if off < 0x400 then s.rsp 0 []
  else (s.sharedWrite off v).rsp 0 []

/-- REG_WRITE (management command 0x02). -/
def execRegWrite (off : Nat) (v : Word) (s : State) : Host.Outcome State Fault Refusal :=
  .next (s.mgmtWrite off v)

/-! ### The PCIe function and BAR2 (R336, R345) -/

/-- What the function's configuration space gives (R336): vendor and device, class code, and the subsystem IDs from NVM (free, log 6). -/
def pciVendor : Nat := 0x1F3B
def pciDevice : Nat := 0x7101
def pciClass : Nat := 0x120000
def pciSubsystem : Word := Config.pciSubsystem

/-- Its limits: payload and read request in bytes, and the non-posted requests outstanding, with tags of ten bits. -/
def pciMaxPayload : Nat := 512
def pciMaxRead : Nat := 4096
def pciOutstanding : Nat := 768

/-- The PCIe generations at which it trains, and the widths that serve it. -/
def pciRates : List Nat := [4, 5, 6]
def pciWidths : List Nat := [8, 16]

/-- The capabilities of a PCIe function that R336 names. -/
inductive PciCap where
  | msix
  | aer
  | flr
  | powerManagement
  | sriov
  | ats
  | pasid
deriving DecidableEq, Repr

/-- Those it has. MSI-X has 65 vectors. -/
def pciCaps : List PciCap := [.msix, .aer, .flr, .powerManagement]
def msixVectors : Nat := 65

/-- Its BARs: number, bytes, and whether it is prefetchable; all are 64-bit. -/
def pciBars : List (Nat × Nat × Bool) := [(0, 65536, false), (2, 262144, false), (4, 1073741824, true)]

/-- A doorbell of BAR2: the page of a ring, and whether it is RAIL_TAIL or PASS_HEAD; no other offset of a page has one (R345). -/
def doorbellAt (off : Nat) : Option (Nat × Bool) :=
  if 262144 ≤ off then none
  else if off % 4096 = 0 then some (off / 4096, true)
  else if off % 4096 = 4 then some (off / 4096, false)
  else none

/-- A read of BAR2 gives zero: the doorbells are write-only and every other offset is reserved (R10, R345). No row of the table is such a
read, which changes no state. -/
def bar2Read (_off : Nat) : Word := 0

/-- A write to BAR2: a doorbell, or nothing at a reserved offset (R10, R345). -/
def bar2Write (off : Nat) (v : Word) (s : State) : Host.Outcome State Fault Refusal :=
  match doorbellAt off with
  | none => .next s
  | some (n, true) => execRailTail n v s
  | some (n, false) => execPassHead n v s

/-! ### BAR4 (R341 to R343) -/

/-- The region and offset that an access of a window reaches; none when it is refused. -/
def State.winSpan (s : State) (off len : Nat) : Option (Nat × Nat) :=
  let n := off / 268435456
  let x := s.win n
  let r := x.region.toNat
  let a := x.baseMib.toNat * 1048576 + off % 268435456
  if n < 4 ∧ x.en = true ∧ r < 63 ∧ (s.region r).isSome = true ∧ off % 268435456 + len ≤ 268435456 ∧ a + len ≤ s.viewBytes r then
    some (r, a)
  else none

/-- Kinds that a window does not read while the running recipe names the region. -/
def shutKind (k : Nat) : Bool :=
  k == 1 || k == 2 || k == 7 || k == 0xA || k == 0xB

/-- A read through a window: of a GENERAL, HYPER or TELEMETRY region, the bytes in memory at that moment (R343). -/
def State.winRead (s : State) (off len : Nat) (g : MemObs) : State :=
  match s.winSpan off len with
  | none => (s.count cBadAcc 1).hostData (List.replicate (cdiv len 4) 0xFFFFFFFF)
  | some (r, a) =>
    if s.named r && shutKind (s.regionKind r) then (s.count cBadAcc 1).hostData (List.replicate (cdiv len 4) 0xFFFFFFFF)
    else
      let e := (s.account r a len false).viewErrors rdBar4 r a len g
      let s1 := e.1.hostData (leWords (cdiv len 4) (s.regRead (openKind (s.regionKind r)) r a len))
      { s1 with hif := { s1.hif with poisoned := e.2 } }

/-- A write through a window. -/
def State.winWrite (s : State) (off : Nat) (bs : List Byte) : State :=
  match s.winSpan off bs.length with
  | none => s.count cBadAcc 1
  | some (r, a) => if s.named r then s.count cBadAcc 1 else (s.regWriteCommitted r a bs).account r a bs.length true

/-- BAR4_ACCESS. -/
def execBar4Access (write : Option (List Byte)) (off len : Nat) (g : MemObs) (s : State) : Host.Outcome State Fault Refusal :=
  if !s.hostUp then .next s
  else
    match write with
    | some bs => .next (s.winWrite off bs)
    | none => .next (s.winRead off len g)

end Sys2Proof.Machine
end

