-- ==== Sys2Proof/Machine/Calibration.lean ====
section
/-! DEFINITION. Calibration runs: their limits, the values and figures they leave, and whole runs of start-up and a new core (R119, R131,
R140 to R143, R153, R374, R448). -/

namespace Sys2Proof.Machine

/-! ### What a run measures (R140, R143; log 92) -/

/-- The CONVERTER unit of a converter (R360). -/
def convUnit (core : Nat) (f : ConvTest) : Nat :=
  core * 16640 + f.pos % 4 * 4160 + f.group % 8 * 520 + f.col % 520

/-- The test inputs, in units (R140). -/
def testPoints : List Int := [-255, -192, -128, -64, 0, 64, 128, 192, 255]

/-- The sum of the 16 conversions at a test point. -/
def testSum (f : ConvTest) (i : Nat) : Int :=
  f.sums.getD i (16 * testPoints.getD i 0)

/-- The gain in sixteenths of a unit over the 384 units between the inputs −192 and 192: 6,144 where it is exact. -/
def testSpan (f : ConvTest) : Int :=
  testSum f 7 - testSum f 1

/-- What offset and gain leave of a test point, in 1/6,144 unit; beyond the range of R70 the line is ±255. -/
def testResid (f : ConvTest) (i : Nat) : Int :=
  384 * testSum f i - max (-(4080 * 384)) (min (4080 * 384) (384 * testSum f 4 + testSpan f * testPoints.getD i 0))

/-- A converter's calibration values from its test points (R140). -/
def testCal (f : ConvTest) : ConvCal :=
  { offset := testSum f 4, gain := testSpan f, lin := (List.range 9).map (testResid f) }

/-- The limit that a converter exceeds, if any: 0 offset beyond ±8 units, 1 gain beyond ±2 %, 2 non-linearity beyond ±0.5 unit (R143,
R453). -/
def testLimit (f : ConvTest) : Option Nat :=
  if 128 < (testSum f 4).natAbs then some 0
  else if 2 * 6144 < 100 * (testSpan f - 6144).natAbs then some 1
  else if (List.range 9).any (fun i => decide (3072 < (testResid f i).natAbs)) then some 2
  else none

/-- Whether measured figures are within R115 (R119, R120). -/
def figOk (f : ArrFig) : Bool :=
  decide (f.detBound.toNat ≤ 0x100) && decide (f.noise.toNat ≤ 0x4D)

/-- Figures that the environment does not report: free values within R115 (log 6). -/
def freeFig (n : Nat) : ArrFig :=
  { gainErr := (Config.freeWord n).setWidth 16, offset := (Config.freeWord (n + 1)).setWidth 16,
    detBound := BitVec.ofNat 16 ((Config.freeWord (n + 2)).toNat % 0x101),
    noise := BitVec.ofNat 16 ((Config.freeWord (n + 3)).toNat % 0x4E) }

/-! ### Runs that fail (R143) -/

/-- A converter beyond a limit: the first time it is to be calibrated again, the second its unit has failed a directed test, and
its four arrays are QUARANTINED (R143, R363). -/
def State.convFail (s : State) (core : Nat) (x : ConvTest × Nat) : State :=
  let u := convUnit core x.1
  let again := (s.core core).failedOnce.contains u
  let s1 := s.calFail (uConv * 2 ^ 22 + u) [wd 1, wd core, wd u, wd (x.2 + 256 * b2n again)]
  let s2 := s1.chargeErr uConv u 0xC002 again
  if again then s2 else s2.setCore core { s2.core core with failedOnce := (s2.core core).failedOnce ++ [u] }

/-- The converters that a run found. -/
def State.convFails (s : State) (core : Nat) (l : List (ConvTest × Nat)) : State :=
  match l with
  | [] => s
  | f :: r => (s.convFail core f).convFails core r

/-- Whether a converter already has its arrays out of service (R143, R365). -/
def State.convGone (s : State) (core : Nat) (f : ConvTest) : Bool :=
  ((s.hist? uConv (convUnit core f)).map (fun e => e.state == .permanent)).getD false

/-- The converters in service that a bank's part of a run finds beyond a limit, with the limit. -/
def State.convBad (s : State) (core : Nat) (o : CalObs) : List (ConvTest × Nat) :=
  o.conv.filterMap (fun f => if s.convGone core f then none else (testLimit f).map (fun l => (f, l)))

/-- A run that failed ends; its core stays due, before those due by temperature or command (R143, R147). -/
def State.calStays (s : State) (core : Nat) : State :=
  let s1 := { s with cal := { s.cal with busy := s.cal.busy.filter (fun k => k != core) } }
  s1.makeDue core true

/-- A REXT fault found through a die's reference domain: all analogue products run in reference mode until a run measures REXT within
range (R140, R143). -/
def State.rextFails (s : State) (core die : Nat) (o : CalObs) : State :=
  let s1 := { s with cal := { s.cal with rextFault := true } }
  (s1.calFail 0 [wd 2, wd 0xFF, wd die, wd (o.rext.getD die 0)]).calStays core

/-! ### Runs that pass (R119, R120, R131, R140, R141) -/

/-- Whether the unit history keeps an array out of service: its own, or that of a converter of its position (R120, R143, R365). -/
def State.arrayGone (s : State) (a : Nat) : Bool :=
  s.flt.hist.any (fun e => e.state == .permanent
    && ((e.cls == uArray && e.unit == a) || (e.cls == uConv && e.unit / 16640 == a / 16 && e.unit % 16640 / 4160 == a % 4)))

/-- The figures that a passing bank leaves in one array; its checksum windows start again (R108, R119, R141). -/
def ArrayS.calibrated (x : ArrayS) (epoch : Word) (temp : Int) (fig : ArrFig) : ArrayS :=
  { x with calEpoch := epoch, tempCal := temp, fig := fig, baseline := none, chk := ChkWin.empty }

/-- An array of a passing bank: a first measurement makes it OK or DEGRADED, figures beyond R115 QUARANTINED (R120). -/
def State.arrayCalibrated (s : State) (epoch : Word) (temp : Int) (a : Nat) (fig : ArrFig) : State :=
  let s1 := s.judgeWindows a (s.array a).chkDone.length
  let x := (s1.array a).calibrated epoch temp fig
  if s.arrayGone a || (!figOk fig && decide (x.status ≠ 2)) then (s1.setArray a x).quarantine a
  else s1.setArray a (if x.status = 4 then ArrayS.regrade { x with status := 0 } else x)

/-- The arrays of a passing bank. -/
def State.bankCalibrated (s : State) (epoch : Word) (temp : Int) (l : List (Nat × ArrFig)) : State :=
  match l with
  | [] => s
  | x :: r => (s.arrayCalibrated epoch temp x.1 x.2).bankCalibrated epoch temp r

/-- The arrays of a bank with the figures measured for them. -/
def bankFigs (core bank : Nat) (figs : List ArrFig) : List (Nat × ArrFig) :=
  (bankArrays core bank).zipIdx.map (fun a => (a.1, figs.getD a.2 { gainErr := 0, offset := 0, detBound := 0, noise := 0 }))

/-- The converters' calibration values of a core with those of a passing bank's part of its run: a converter whose test points were all
exact has none kept (R140). -/
def newVals (core : Nat) (l : List ConvTest) (t : Tab ConvCal) : Tab ConvCal :=
  l.foldl (fun t f => Tab.put t (convUnit core f) (testCal f)) (t.filter (fun e => e.1 / 16640 != core))

/-- The temperature coefficient after a run of cell gain g at temperature t: fitted with the core's last run at least 8 °C away, where
there is one (R140). -/
def fitCoef (coef : Int) (runs : List (Int × Int)) (t g : Int) : Int :=
  match runs.find? (fun r => decide (8 ≤ (t - r.1).natAbs)) with
  | some r => (g - r.2) / (t - r.1)
  | none => coef

/-! ### One bank's part of a run -/

/-- A core's run complete: TEMP_CAL, the coefficient and the run kept, its block written, the core no longer due; reference mode is left
at the next tick (R140 to R142, R144, R153). -/
def State.calEnd (s : State) (core : Nat) (temp : Int) : State :=
  let c := s.core core
  let g := c.gainSum / 4
  let s1 := s.setCore core { c with tempCal := temp, banksDone := 0, lagNext := false, calBlock := false, failedOnce := [], gainSum := 0,
                                    coef := fitCoef c.coef c.runs temp g, runs := (temp, g) :: c.runs, runCount := c.runCount + 1 }
  let s2 := { s1 with cal := { s1.cal with due := s1.cal.due.filter (fun k => k != core),
                                           urgent := s1.cal.urgent.filter (fun k => k != core),
                                           busy := s1.cal.busy.filter (fun k => k != core),
                                           goCores := s1.cal.goCores.filter (fun k => k != core) } }
  ((s2.writeBlock core).raiseU 0xC001 (uCore * 2 ^ 22 + core) [wd core, wd 0xF, s.cal.epochCnt]).count cCalRun 1

/-- The end of a core's run in service: the table is published for its arrays (R118), and what waited for the run goes on. -/
def State.calDone (s : State) (core : Nat) (temp : Int) : State :=
  ((s.calEnd core temp).publishCore core).drain

/-- The values a passing bank leaves; the last bank's are those of the core's converters (R22, R140, R141). -/
def State.bankPasses (s : State) (core bank : Nat) (o : CalObs) : State :=
  let e := s.cal.epochCnt + 1
  let s1 := ({ s with cal := { s.cal with epochCnt := e, valsNext := newVals core o.conv s.cal.valsNext } }).bankCalibrated e o.temp
    (bankFigs core bank o.figs)
  let c := s1.core core
  s1.setCore core { c with banksDone := setBit4 c.banksDone bank, gainSum := c.gainSum + o.gain,
                           noisyCal := if c.noisy.getLsbD bank then setBit4 c.noisyCal bank else c.noisyCal }

/-- The die whose REXT reading is outside 1.900 kΩ to 2.100 kΩ, if any (R140). -/
def rextBad (o : CalObs) : Option Nat :=
  (List.range 2).find? (fun d => decide (o.rext.getD d 0 < 190000) || decide (210000 < o.rext.getD d 0))

/-- REXT measured at the start of a run, and the unit currents set from it (R140, R155). -/
def State.measureRext (s : State) (o : CalObs) : State :=
  { s with cal := { s.cal with rext := wd (o.rext.getD (o.rext.length - 1) 0), uCur := o.rext, rextFault := false } }

/-- One bank's part of a run, its converters within their limits or not. -/
def State.calConv (s : State) (core bank : Nat) (o : CalObs) : State :=
  if (s.convBad core o).isEmpty then s.bankPasses core bank o else (s.convFails core (s.convBad core o)).calStays core

/-- One bank's part of a run; the first measures REXT (R140). -/
def State.calBank (s : State) (core bank : Nat) (o : CalObs) : State :=
  let s1 := { s with cal := { s.cal with busy := addOnce s.cal.busy core } }
  if (s.core core).banksDone = 0 then
    match rextBad o with
    | some d => ({ s1 with cal := { s1.cal with rext := wd (o.rext.getD (o.rext.length - 1) 0) } }).rextFails core d o
    | none => (s1.measureRext o).calConv core bank o
  else s1.calConv core bank o

/-- The end of a run whose four banks are done. -/
def State.calFinish (s : State) (core : Nat) (o : CalObs) : State :=
  if (s.core core).banksDone = 0xF then s.calDone core o.temp else s

/-- CAL_BANK_RUN: the next bank of a core that is due; nothing while the core's converters do other work, or for a bank that a foreground
write has taken (R23, R28, R87, R142, R147; log 91). -/
def execCalBankRun (core bank : Nat) (o : CalObs) (s : State) : Host.Outcome State Fault Refusal :=
  if 128 ≤ core ∨ 4 ≤ bank then .fault .noSuchUnit
  else if s.mayServe core && s.calTurn core bank then .next ((s.calBank core bank o).calFinish core o)
  else .next s

/-! ### Whole runs: start-up and a new core (R374, R448) -/

/-- What a bank's part of a run measures where the environment reports none: exact converters, REXT at 2.000 kΩ through both dies, a measured
cell gain of 0, and free figures. DESIGN CHOICE, logs 6 and 92. -/
def State.freeObs (s : State) (temp : Int) : CalObs :=
  { rext := [200000, 200000], conv := [], temp := temp, gain := 0, figs := (List.range 4).map (fun p => freeFig (s.free + 4 * p)) }

/-- A core's banks calibrated one after the other, until one fails; `obs` by 4 × core + bank. -/
def State.calRunBanks (s : State) (core : Nat) (temp : Int) (obs : Tab CalObs) (banks : List Nat) : State :=
  match banks with
  | [] => s
  | b :: r =>
    let t := (s.calBank core b ((Tab.find obs (4 * core + b)).getD (s.freeObs temp))).draw 16
    if (t.core core).banksDone.getLsbD b then t.calRunBanks core temp obs r else t

/-- A whole run of a core from REXT; whether it ended is in `due`. -/
def State.calWhole (s : State) (core : Nat) (temp : Int) (obs : Tab CalObs) : State :=
  let s1 := s.setCore core { s.core core with banksDone := 0, gainSum := 0 }
  let s2 := s1.calRunBanks core temp obs (List.range 4)
  if (s2.core core).banksDone = 0xF then s2.calEnd core (((Tab.find obs (4 * core + 3)).map (·.temp)).getD temp) else s2

end Sys2Proof.Machine
end

