-- ==== Sys2Proof/Machine/Recovery.lean ====
section
/-! DEFINITION. Recovery (R24, R359, R370 to R379, R387): localisation, spare cores, lost devices, replica drop-out, the shadow a
device holds for another, and core watchdogs. -/

namespace Sys2Proof.Machine

/-! ### Attempts that a fault ends -/

/-- The attempt in flight discarded; its step replays when REPLAY_START comes (R216, R375). -/
def State.haltAttempt (s : State) (c : Nat) : State :=
  if s.stp.active && s.stp.begun then
    let s1 := s.discard
    { s1 with stp := { s1.stp with halted := true, replayDue := some c } }
  else s

/-- The step or invocation in flight is over and its recipe stops at the boundary; its ticket ends with DEVICE_FAULT (R354, R376,
R377). -/
def State.stopAttempt (s : State) : State :=
  let s0 := { s with flt := { s.flt with recov := [] } }
  let s1 := if s0.runningRecipe.isSome then { s0 with rcp := { s0.rcp with state := .stopping } } else s0
  if s.stp.active then
    let s2 := (s1.discard).leaveStep
    match s2.hif.seqBusy with
    | some w => if w.op = 0x0401 ∨ w.op = 0x0402 then s2.complete w stDeviceFault [] else s2
    | none => s2
  else s1

/-! ### Localisation (R372, R373) -/

/-- The physical core that reruns a suspect's updates, the first available: a spare of its die, a spare of the other die, a core outside the
recipe's mask (R372). -/
def State.testCore (s : State) (core : Nat) : Option Nat :=
  (s.sparesLeft (core / 64) ++ s.sparesLeft (1 - core / 64)
    ++ ((List.range 128).filter (fun k => k != core && !s.isAbsent k && !s.cur.head.coreMask.getLsbD k)).map s.phys).head?

/-- What a core returned for an UPDATE: the exact values, but where it returned others. -/
def LocRun.outs (r : LocRun) (l : List WrongOut) : List (List Word) :=
  r.exact.zipIdx.map (fun e => ((l.find? (fun w => w.desc == r.desc.num && w.elem == e.2)).map (·.out)).getD e.1)

/-- The digest terms of the masters that an UPDATE returned (R221, R367). -/
def LocRun.digest (r : LocRun) (outs : List (List Word)) : Nat :=
  polySum r.x (powMod 64 r.x (r.first + 1)) (outs.map (fun e => masterInt (e.getD 0 0) ((e.getD 1 0).setWidth 16)))

/-- The core digest of what a core returned (R367). -/
def locDigest (rs : List LocRun) (l : List WrongOut) : Nat :=
  rs.foldl (fun a r => (a + r.digest (r.outs l)) % digestP) 0

/-- The first group of 256 elements in which two runs of an UPDATE differ. -/
def LocRun.diff (r : LocRun) (o : LocObs) : Option Nat :=
  ((r.outs o.suspect).zip (r.outs o.test)).findIdx? (fun e => e.1 != e.2) |>.map (· / 256)

/-- The first UPDATE and group that differ. -/
def locDiff (rs : List LocRun) (o : LocObs) : Option (LocRun × Nat) :=
  rs.findSome? (fun r => (r.diff o).map (fun g => (r, g)))

/-- The pattern of a group: its operands with the row, and the test core's output (R373). -/
def LocRun.pattern (r : LocRun) (g : Nat) (o : LocObs) (cls unit hour : Nat) : Pattern :=
  let part (l : List (List Word)) : List (List Word) := (l.drop (256 * g)).take 256
  let ops := part r.operands
  { cls := cls, unit := unit, opcode := 0x80, fields := r.desc.w,
    operands := (List.range 5).flatMap (fun i => ops.map (fun e => e.getD i 0)) ++ r.row, output := (part (r.outs o.test)).flatten, hour := hour }

/-- LOCALISE_FAIL (R372). -/
def State.localiseFail (s : State) : State :=
  s.raise 0xB008 []

/-- The fault lies in the suspect: an error is charged to its CORE, or to the DGA that gave the output, and the operands become a
captured pattern. -/
def State.localiseNames (s : State) (core : Nat) (o : LocObs) (x : LocRun × Nat) : State :=
  let u := match o.dga with
    | some g => (uDga, 2 * core + g % 2)
    | none => (uCore, core)
  (s.chargeErr u.1 u.2 0xB001 false).capture (x.1.pattern x.2 o u.1 u.2 s.hour256)

/-- Without a majority, a member whose localisation names a unit copies the committed banks of one whose localisation names none, and the
step replays again (R370). -/
def State.localiseCopies (s : State) (o : LocObs) : State :=
  match o.copy with
  | none => s
  | some c =>
    if !s.flt.disagreed || c.src == s.device || s.lnk.dead.contains c.src then s
    else
      let s1 := s.copyBanks c
      if s1.stp.active && s1.stp.begun && !s1.stp.halted then s1.cause 0xA else s1

/-- The conclusion about one suspect, whose UPDATEs of the failed attempt ran on it and on the test core (R372). Where the outputs differ and
the test core's digest is not the majority's, the table has no row: the model raises LOCALISE_FAIL (DESIGN CHOICE, log 69). -/
def State.localised (s : State) (core : Nat) (o : LocObs) : State :=
  let rs := s.flt.locRuns.filter (fun r => r.core == core)
  let good := locDigest rs o.test == (s.flt.locRef.getD core 0).toNat
  if (s.testCore core).isNone then s.localiseFail
  else
    match locDiff rs o with
    | some x => if good then (s.localiseNames core o x).localiseCopies o else s.localiseFail
    | none => if good then s.chargeErr uCore core 0xB001 false else s.localiseFail

/-- A suspect is done with: a swap that no move is to make permanent is undone, and the last suspect ends the localisation. -/
def State.endSuspect (s : State) (core : Nat) : State :=
  let s1 := match Tab.find s.flt.swapped core with
    | none => s
    | some p =>
      if s.flt.moving.contains core then s
      else { s with flt := { s.flt with coreMap := Tab.put s.flt.coreMap core p, swapped := Tab.del s.flt.swapped core } }
  let rest := s1.flt.suspects.filter (fun c => c != core)
  let s2 := { s1 with flt := { s1.flt with suspects := rest, localising := !rest.isEmpty,
                                           locRuns := if rest.isEmpty then [] else s1.flt.locRuns } }
  if rest.isEmpty then s2.count cLocalise 1 else s2

/-- Whether localisation may run: in a background gap, or in any beat while no attempt is under way (R372). -/
def State.mayLocalise (s : State) : Bool :=
  s.pwr.pwrgood && (!s.lnk.windowOpen || !s.stp.active || !s.stp.begun || s.stp.halted)

/-- LOCALISE: the suspects are taken in logical order. -/
def execLocalise (core : Nat) (o : LocObs) (s : State) : Host.Outcome State Fault Refusal :=
  if 128 ≤ core then .fault .noSuchUnit
  else if !s.mayLocalise || !s.flt.localising || s.flt.suspects.head? != some core then .next s
  else .next ((s.localised core o).endSuspect core)

/-! ### Spare cores (R24, R374) -/

/-- A physical core out of service, with its RETIRED_CORE entry. -/
def State.retirePhys (s : State) (p : Nat) (e : UnitHist) : State :=
  ({ s with flt := { s.flt with usedPhys := addOnce s.flt.usedPhys p } }).setHist
    { e with cls := uRetired, unit := p, state := .retired, phys := 0 }

/-- Spares that failed their tests. -/
def State.retireSpares (s : State) (l : List Nat) : State :=
  match l with
  | [] => s
  | p :: r => (s.retirePhys p { s.freshHist uRetired p with dtFail := true }).retireSpares r

/-- A logical core becomes absent: its entry is PERMANENT with PHYS 0x3FF, its physical core is no spare, and the device is degraded
(R24). -/
def State.makeAbsent (s : State) (core code : Nat) : State :=
  let e := s.histOf uCore core
  let gone := if s.isAbsent core then [] else s.phys core :: (Tab.find s.flt.swapped core).toList
  let s1 := { s with flt := { s.flt with absent := addOnce s.flt.absent core, usedPhys := gone.foldl addOnce s.flt.usedPhys,
                                         swapped := Tab.del s.flt.swapped core,
                                         moving := s.flt.moving.filter (fun c => c != core) },
                     cal := { s.cal with due := s.cal.due.filter (fun c => c != core),
                                         urgent := s.cal.urgent.filter (fun c => c != core),
                                         busy := s.cal.busy.filter (fun c => c != core),
                                         goCores := s.cal.goCores.filter (fun c => c != core) } }
  (s1.setHist { e with state := .permanent, phys := 0x3FF, lastEvent := if code = 0 then e.lastEvent else code }).degrade

/-- An array of a new physical core: the logical array's sources, and nothing measured yet. -/
def ArrayS.onNewCore (x : ArrayS) : ArrayS :=
  { ArrayS.blank with fmt := x.fmt, epoch := x.epoch, src := x.sources, steps := x.steps, moved := x.moved }

/-- Arrays written from their sources, where they hold a block. -/
def State.writeNew (s : State) (l : List Nat) : State :=
  match l with
  | [] => s
  | a :: r =>
    let x := s.array a
    (if x.src.isEmpty || x.moved.isSome then s else s.programAll a x.src).writeNew r

/-- The arrays of a core moved to another physical core: lost, calibrated from REXT, and written again (R374 steps 2 to 4). -/
def State.newArrays (s : State) (core : Nat) (cals : Tab CalObs) : State :=
  let l := (List.range 16).map (fun i => 16 * core + i)
  let s1 := l.foldl (fun t a => (t.loseArray a).setArray a ((t.array a).onNewCore)) s
  let s2 := s1.setCore core { CoreS.blank with temp := (s1.core core).temp, band := (s1.core core).band }
  (((s2.calWhole core (s2.core core).temp cals).publishCore core).drain).writeNew l

/-- The move's history entries and event (R374 step 5). The new core's local store has its spare bank still. -/
def State.movedTo (s : State) (core old p us : Nat) (cals : Tab CalObs) : State :=
  let s1 := s.retirePhys old (s.histOf uCore core)
  let mine (u : Nat) : Bool := storeOf u == core
  let s2 := { s1 with flt := { s1.flt with coreMap := Tab.put s1.flt.coreMap core p, swapped := Tab.del s1.flt.swapped core,
                                           spareBanks := s1.flt.spareBanks.filter (fun u => !mine u),
                                           bankNext := s1.flt.bankNext.filter (fun u => !mine u),
                                           moving := s1.flt.moving.filter (fun c => c != core) } }
  let s3 := (s2.setHist { s2.freshHist uCore core with phys := p }).newArrays core cals
  let s4 := ((s3.raiseU 0xB003 (uCore * 2 ^ 22 + core) []).publish).count cRecovery 1
  { s4 with flt := { s4.flt with lastRecov := at_ 1 28 ||| wd (min us 0xFFFFFFF) } }

/-- The physical cores a logical core can move to: the spare it was swapped to first, then the spares of its die, lowest first. -/
def State.moveTargets (s : State) (core : Nat) : List Nat :=
  (if (Tab.find s.flt.swapped core).isSome then [s.phys core] else []) ++ s.sparesLeft (core / 64)

/-- CORE_SPARE: `failing` are the physical cores that fail their tests, `us` the time the move takes, `cals` what the new core's
calibration measures. Nothing happens while an attempt
runs, or for a core that is not to move. -/
def execCoreSpare (core : Nat) (failing : List Nat) (us : Nat) (cals : List (Nat × CalObs)) (s : State) : Host.Outcome State Fault Refusal :=
  if 128 ≤ core then .fault .noSuchUnit
  else if !s.flt.moving.contains core || (s.stp.active && s.stp.begun && !s.stp.halted) then .next s
  else
    let old := Tab.get s.flt.swapped core (s.phys core)
    let bad := (s.moveTargets core).takeWhile (fun p => failing.contains p)
    let s1 := s.retireSpares bad
    match (s.moveTargets core).find? (fun p => !failing.contains p) with
    | some p => .next (s1.movedTo core old p us cals)
    | none =>
      let s2 := s1.retirePhys old (s1.histOf uCore core)
      .next (({ s2 with flt := { s2.flt with swapped := Tab.del s2.flt.swapped core } }).makeAbsent core 0)

/-! ### Frames asked for (R368) -/

/-- The committed frames that hold a marked codeword: region and frame of a bank. -/
def State.badFrames (s : State) : List (Nat × Nat) :=
  let l := (s.mem.poison.filter (fun m => s.inCommitted m.1 (32 * m.2))).map (fun m => (m.1, 32 * m.2 % max 1 (s.bankBytes m.1) / 2048))
  l.foldl (fun a x => if a.contains x then a else a ++ [x]) []

/-- The frames asked of the member that repairs them, over VC1; the packet names region and frame, its layout is not stated (R300, R368, log 145). -/
def State.askFrames (s : State) : State :=
  match s.repairer with
  | none => s
  | some m => s.badFrames.foldl (fun t x =>
      t.sendBulk m 1 (2 ^ 67 + (x.1 * 2 ^ 32 + x.2) * 2 ^ 10) (wordBytes [wd x.1, wd x.2])) s

/-! ### Lost devices (R375 to R377) -/

/-- The groups that a DIGEST_EXCHANGE of the running recipe names (R367). -/
def State.replicaGroups (s : State) : List Nat :=
  (s.cur.ops 0xB1).map (fun d => (Desc.word d 11).toNat)

/-- Whether replica drop-out applies: the lost device's replica group has another live member (R376). -/
def State.dropsOut (s : State) (dev : Nat) : Bool :=
  s.rcp.groups.any (fun g => s.replicaGroups.contains g.1 && g.2.members.any (fun m => m.1 == dev)
    && g.2.members.any (fun m => m.1 != dev && !s.lnk.dead.contains m.1))

/-- Whether this device holds a device's committed shadow (R378). -/
def State.holdsShadow (s : State) (dev : Nat) : Bool :=
  match s.flt.shadow with
  | some x => x.dev == dev && x.valid
  | none => false

/-- The recovery that the leader chooses for a lost device (R376). Groups and shadows of which this device is no part are not known here: whether
one of them covers the lost device is free (log 6). -/
def State.chooses (s : State) (dev : Nat) : Recov :=
  let free := Config.freeWord s.free
  if s.dropsOut dev then .dropOut
  else if s.holdsShadow dev then .shadow
  else if free.getLsbD 0 then (if free.getLsbD 1 then .dropOut else .shadow)
  else .stop

/-- What a device does on the choice: it waits for the drop-out or the restore, or the job stops with SHADOW_LOST (R376 to R379). -/
def State.takeChoice (s : State) (dev : Nat) (c : Recov) : State :=
  match c with
  | .dropOut => { s with flt := { s.flt with recov := Tab.put s.flt.recov dev c } }
  | .shadow => { s with flt := { s.flt with recov := Tab.put s.flt.recov dev c } }
  | .stop => (s.raise 0xB00B []).stopAttempt
  | .restored => s

/-- A device of the job is lost: DEVICE_LOST, the attempt in flight discarded, a table that treats it as dead from the tick after, and the
recovery that the leader's message names, or that the leader chooses (R299, R375, R376, log 143). -/
def State.deviceGone (s : State) (dev : Nat) (choice : Option Recov) : State :=
  if s.lnk.dead.contains dev then s
  else if dev = s.device then (s.raise 0xB004 []).lose.drain
  else
    let s1 := (s.raise 0xB004 []).haltAttempt 0xA
    let s2 := ({ s1 with lnk := { s1.lnk with dead := s1.lnk.dead ++ [dev] } }).rebuild
    (s2.takeChoice dev (choice.getD (s2.chooses dev))).draw 1

/-- DEVICE_LOST; `choice`: the leader's. -/
def execDeviceLost (dev : Nat) (choice : Option Recov) (s : State) : Host.Outcome State Fault Refusal :=
  if 1024 ≤ dev then .fault .noSuchUnit else .next (s.deviceGone dev choice)

/-- The devices reached from a set through parallel groups other than replica groups (R377). -/
def State.replicaOf (s : State) (fuel : Nat) (l : List Nat) : List Nat :=
  match fuel with
  | 0 => l
  | n + 1 =>
    let more := s.rcp.groups.flatMap (fun g =>
      if !s.replicaGroups.contains g.1 && g.2.members.any (fun m => l.contains m.1) then g.2.members.map (·.1) else [])
    s.replicaOf n (more.foldl addOnce l)

/-- The first hop toward a device, by the table in force; the port that was there where none can be used. -/
def State.firstHop (s : State) (dev was : Nat) : Nat :=
  ((s.routeOf { dead := s.lnk.dead, down := s.lnk.downs } dev none).map (·.1)).getD was

/-- The member of a ring some places after a device's. -/
def ringAt (ms : List (Nat × Nat × Nat)) (dev k : Nat) : Nat :=
  let i := (ms.findIdx? (fun m => m.1 == dev)).getD 0
  (ms.getD ((i + k) % max 1 ms.length) (dev, 0, 0)).1

/-- A group without some devices: the others stay in ring order. A port of this device stays where its neighbour does; toward a new neighbour it
becomes the first hop of the path there (R377). -/
def State.shrinkGroup (s : State) (g : Group) (gone : List Nat) : Group :=
  let ms := g.members.filter (fun m => !gone.contains m.1)
  let port (k was old : Nat) : Nat := if ringAt ms s.device k = old then was else s.firstHop (ringAt ms s.device k) was
  { g with members := ms.map (fun m =>
      if m.1 = s.device then
        (m.1, port 1 m.2.1 (ringAt g.members s.device 1),
          port (ms.length - 1) m.2.2 (ringAt g.members s.device (g.members.length - 1)))
      else m) }

/-- REPLICA_DROP at the step boundary: the lost device's replica stops and holds in READY, the others' groups go on without it, and the step
replays (R377). -/
def State.dropReplica (s0 : State) (dev : Nat) (members : List Nat) : State :=
  let s := { s0 with flt := { s0.flt with recov := Tab.del s0.flt.recov dev } }
  let gone := members.foldl addOnce (s.replicaOf (s.rcp.groups.length + 1) [dev])
  let s1 := s.raise 0xB005 []
  if gone.contains s.device then s1.stopAttempt
  else
    let s2 := { s1 with rcp := { s1.rcp with groups := s1.rcp.groups.map (fun (g : Nat × Group) =>
      (g.1, if g.2.members.any (fun m => gone.contains m.1) then s.shrinkGroup g.2 gone else g.2)) } }
    ((s2.haltAttempt 0xA).count cRecovery 1).recovered 2

/-- REPLICA_DROP; nothing where the leader has not chosen drop-out. `members`: the devices of the lost device's replica as the leader names
them, beside those that this device's own groups reach (log 143). -/
def execReplicaDrop (dev : Nat) (members : List Nat) (s : State) : Host.Outcome State Fault Refusal :=
  if 1024 ≤ dev then .fault .noSuchUnit
  else if Tab.find s.flt.recov dev = some .dropOut then .next (s.dropReplica dev members)
  else .next s

/-! ### Shadows held for another device (R378) -/

/-- Whether a message is a step's whole working state, or the log of a step between. -/
def shadowFull (m : ShadowMsg) : Bool :=
  decide (m.step % max 1 m.n = 0)

/-- Bytes of a log slot: the gradient, the error-memory bank and the estimator bank. -/
def shadowSlot (m : ShadowMsg) : Nat :=
  (if shadowFull m then m.hi.length else m.grad.length) + m.err.length + m.est.length

/-- Whether this device's SHADOW region has room for the head, two banks and N − 1 log slots. -/
def State.shadowFits (s : State) (m : ShadowMsg) : Bool :=
  match s.ownRegion 0xB with
  | none => false
  | some r => decide (4096 + 2 * m.size + (m.n - 1) * shadowSlot m ≤ s.regionBytes r)

/-- A device's shadow before anything of it has been committed. -/
def Shadow.fresh (m : ShadowMsg) : Shadow :=
  { dev := m.dev, n := m.n, size := m.size, second := true, valid := false, work := none, logs := [], step := 0, epoch := 0,
    digest := 0, base := 0 }

/-- The place of a message's bytes in the region, and the bytes: the working bank, or the step's log slot. -/
def Shadow.place (x : Shadow) (m : ShadowMsg) : Nat × List Byte :=
  if shadowFull m then (4096 + (if x.second then 0 else x.size), m.hi ++ m.comp ++ m.mom ++ m.est ++ m.err)
  else (4096 + 2 * x.size + (m.step % max 1 m.n - 1) * shadowSlot m, m.grad ++ m.err ++ m.est)

/-- A step's traffic taken into the region. -/
def State.fillShadow (s : State) (x : Shadow) (m : ShadowMsg) : State :=
  let w : ShadowWork := { step := m.step, epoch := m.epoch, full := shadowFull m, digest := m.digest, base := m.base }
  let s1 := { s with flt := { s.flt with shadow := some { x with n := m.n, work := some w } } }
  s1.putShadow (x.place m).1 (x.place m).2

/-- SHADOW_TRAFFIC: the step's state or log fills the working bank or its slot. A device holds at most one shadow; banks of another size
begin it anew (log 117). -/
def execShadowTraffic (m : ShadowMsg) (s : State) : Host.Outcome State Fault Refusal :=
  if !s.shadowFits m then .next s
  else
    match s.flt.shadow with
    | some x =>
      if x.dev != m.dev then .next s
      else .next (s.fillShadow (if x.size = m.size then x else Shadow.fresh m) m)
    | none => .next (s.fillShadow (Shadow.fresh m) m)

/-! ### Core watchdogs (R359) -/

/-- CORE_WATCHDOG: a transient error charged to the CORE, and a replay. The code that LAST_EVENT takes is not stated (log 6). -/
def execCoreWatchdog (core : Nat) (s : State) : Host.Outcome State Fault Refusal :=
  if 128 ≤ core then .fault .noSuchUnit
  else .next (((s.draw 1).chargeErr uCore core ((Config.freeWord s.free).toNat % 65536) false).cause 0xA)

end Sys2Proof.Machine
end

