-- ==== Sys2Proof/Machine/Beat.lean ====
section
/-! DEFINITION. The beat (R29 to R31, R302 to R310): the close of a window and its report, the tick and all that it applies, replays,
and the step boundary (R215 to R217, R262, R358). -/

namespace Sys2Proof.Machine

/-! ### The tree of the tick messages (R302, R304, R306) -/

/-- The coordinate of this device in a dimension, counted from the master's. -/
def State.fromMaster (s : State) (k : Nat) : Nat :=
  let n := max 1 (s.dimSize k)
  (coordOf s.device k + n - coordOf s.lnk.master k) % n

/-- The ports of a dimension on which the tick message spreads from the master's position outward: both ways from there, on one way
elsewhere, the shorter way round (R302). -/
def State.spreadPorts (s : State) (k : Nat) : List Nat :=
  let n := max 1 (s.dimSize k)
  let d := s.fromMaster k
  if d = 0 then (if 2 ≤ n then [2 * k] else []) ++ (if n / 2 < n - 1 then [2 * k + 1] else [])
  else if d ≤ n / 2 then (if d + 1 ≤ n / 2 then [2 * k] else [])
  else if n / 2 < d - 1 then [2 * k + 1] else []

/-- The same domain seen from another device. -/
def State.seenFrom (s : State) (dev : Nat) : State :=
  { s with lnk := { s.lnk with cx := coordOf dev 0, cy := coordOf dev 1, cz := coordOf dev 2 } }

/-- The hops by which a table leads from one device to another, each with the device and its port. -/
def State.hopsTo (s : State) (r : Route) (fuel dev dst : Nat) (via : Option Nat) : List (Nat × Nat) :=
  match fuel with
  | 0 => []
  | n + 1 =>
    if dev = dst then []
    else
      match (s.seenFrom dev).routeOf r dst via with
      | none => []
      | some q => (dev, q.1) :: s.hopsTo r n (s.neighbour dev q.1) dst q.2

/-- The master's way to a device, by the table in force; a detour adds two hops at most in each ring (R299). -/
def State.fromMasterTo (s : State) (dev : Nat) : List (Nat × Nat) :=
  s.hopsTo (s.tableOf s.lnk.gen) 64 s.lnk.master dev none

/-- The ports on which this device sends the tick message on: along x, then along y from each x position, then along z (R302). Where the
table in force avoids a device or a port, they are those on the master's ways to the live devices, so that the tree is rebuilt under
R299 (R306). -/
def State.treePorts (s : State) : List Nat :=
  let r := s.tableOf s.lnk.gen
  if r.dead.isEmpty && r.down.isEmpty then
    (if s.fromMaster 1 = 0 ∧ s.fromMaster 2 = 0 then s.spreadPorts 0 else [])
      ++ (if s.fromMaster 2 = 0 then s.spreadPorts 1 else []) ++ s.spreadPorts 2
  else (List.range 6).filter (fun p => s.liveDevs.any (fun d => (s.fromMasterTo d).contains (s.device, p)))

/-- The port toward the parent in the tree, on which the reports go up (R304); the master has none. -/
def State.parentPort (s : State) : Option Nat :=
  (s.fromMasterTo s.device).getLast?.map (fun h => if h.2 % 2 = 0 then h.2 + 1 else h.2 - 1)

/-- A packet on VC0 to the neighbour at a port, put there where the port works (R263, R302, log 115). -/
def State.sendVc0 (s : State) (port : Nat) (bs : List Byte) : State :=
  if (s.port port).works then
    s.enqueue { src := s.device, dst := s.partnerOf port, vc := 0, gen := s.lnk.gen, id := 0, data := bs, inPort := none, via := none,
                second := false } port
  else s

/-! ### Reports (R304) -/

/-- Numbers of a list put among those of another, each once. -/
def union (a b : List Nat) : List Nat :=
  b.foldl addOnce a

/-- Two results of one predicate across the job (R253). -/
def joinCompare (l : List (Nat × Bool × Bool)) (c : Nat × Bool × Bool) : List (Nat × Bool × Bool) :=
  if l.any (fun x => x.1 == c.1) then
    l.map (fun x => if x.1 == c.1 then (x.1, x.2.1, if x.2.1 then x.2.2 && c.2.2 else x.2.2 || c.2.2) else x)
  else l ++ [c]

/-- One cause's origin among others: of two, the one that comes first in the order of events (R310). -/
def joinOrigin (l : List (Nat × Stamp)) (o : Nat × Stamp) : List (Nat × Stamp) :=
  if l.any (fun x => x.1 == o.1) then l.map (fun x => if x.1 = o.1 ∧ o.2.dev < x.2.dev then o else x) else l ++ [o]

/-- Two reports of disjoint subtrees merged. -/
def Report.merge (a b : Report) : Report :=
  { devs := union a.devs b.devs, ready := a.ready && b.ready, causes := union a.causes b.causes, fails := union a.fails b.fails,
    drops := union a.drops b.drops, k := max a.k b.k, compares := b.compares.foldl joinCompare a.compares, hold := a.hold || b.hold,
    lost := union a.lost b.lost, restored := union a.restored b.restored, downs := a.downs ++ b.downs, origins := b.origins.foldl joinOrigin a.origins }

/-- A report merged with those held for the next tick message. -/
def State.addReport (s : State) (r : Report) : State :=
  { s with lnk := { s.lnk with merged := some (match s.lnk.merged with
      | none => r
      | some m => Report.merge m r) } }

/-- A report's bytes: its layout is not stated (log 115). -/
def Report.bytes (r : Report) : List Byte :=
  wordBytes ([wd (b2n r.ready), wd (b2n r.hold), wd r.k] ++ (r.devs ++ r.causes ++ r.fails ++ r.drops ++ r.lost ++ r.restored).map wd
    ++ r.compares.map (fun c => wd (4 * c.1 + 2 * b2n c.2.1 + b2n c.2.2)) ++ r.origins.flatMap (fun o => wd o.1 :: stampWords o.2)
    ++ r.downs.map (fun d => wd (8 * d.1 + d.2)))

/-- What is merged so far sent to the parent on VC0, once this device's own window has closed (R304); a later report of the subtree is sent
after it (log 115). The master keeps it for its message. -/
def State.sendReport (s : State) : State :=
  if s.lnk.windowOpen then s
  else
    match s.lnk.merged, s.parentPort with
    | some r, some p => ({ s with lnk := { s.lnk with reported := s.lnk.reported ++ [(p, r)] } }).sendVc0 p (Report.bytes r)
    | _, _ => s

/-- BEAT_REPORT: a subtree's report. -/
def execBeatReport (r : Report) (s : State) : Host.Outcome State Fault Refusal :=
  .next (s.addReport r).sendReport

/-! ### The close of a window (R29, R304, R309) -/

/-- Work of the close: what the command names, and the collectives and resends that are outstanding, which the links still run (R284,
R309). -/
def State.stillRunning (s : State) (o : WinObs) : WinObs :=
  { o with linkResend := o.linkResend || s.coll.running.any (fun x => !x.failed) || !s.coll.queue.isEmpty || !s.coll.resends.isEmpty }

/-- The descriptors still running, with core and engine: those that the command names, and the collectives that run or are queued (R453). -/
def State.runningWork (s : State) (o : WinObs) : List (Nat × Nat × Nat) :=
  o.busy ++ (((s.coll.running.filter (fun x => !x.failed)).map (fun x => x.desc.num) ++ s.coll.queue.map (fun q => q.desc.num)).filter
    (fun n => !o.busy.any (fun b => b.1 == n))).map (fun n => (n, 0xFF, 6))

/-- The words of BEAT_OVERRUN (R453): the first descriptor still running in descriptor order, its core and engine, how many engines are busy, and
whether a stretch had moved the close; where only a link resend is outstanding, no descriptor. -/
def State.overrunWords (s : State) (o : WinObs) : List Word :=
  let links := o.linkResend && !o.busy.any (fun b => b.2.2 % 16 == 6)
  let n := o.busy.length + b2n links
  let l := s.runningWork o
  match l.find? (fun b => l.all (fun c => decide (b.1 ≤ c.1))) with
  | none => [0xFFFFFFFF, wd (0xFF * 2 ^ 24 + 6), wd n, wd (b2n (decide (0 < s.lnk.stretch)))]
  | some b => [wd b.1, wd (b.2.1 % 256 * 2 ^ 24 + b.2.2 % 256), wd n, wd (b2n (decide (0 < s.lnk.stretch)))]

/-- Work still running when the window closes is discarded, and the step is to replay. -/
def State.overrun (s : State) (o : WinObs) : State :=
  if o.busy.isEmpty && !o.linkResend then s
  else ((((s.raise 0x6001 (s.overrunWords o)).count cOverrun 1).cause 1).dropWork)

/-- The stretch this device asks for: memory temperature, duty, or a collective that ran late on five lanes (R307). -/
def State.askStretch (s : State) (o : WinObs) : Nat :=
  let five := o.lateOnFive && s.lnk.ports.any (fun e => e.2.state == .degraded)
  max (max s.memStretch (dutyStretch s.pwr.lowDuty)) (if five then 2 else 0)

/-- Whether the module takes itself out at the next tick (R327, R368, R402). -/
def State.leaving (s : State) : Bool :=
  s.mem.evac || s.pwr.therm == 4 || s.flt.lostTick

/-- Whether the device's report gives it up (R375, R381). -/
def State.reportsLost (s : State) : Bool :=
  s.leaving || s.hif.state == .lost || s.hif.state == .fault

/-- The causes that travel: in a RUN recipe an overrun alone (R257). -/
def State.openCauses (s : State) : List Nat :=
  if s.train then s.stp.causes else s.stp.causes.filter (fun c => c == 1)

/-- The micro-batches split, each with how often: 65,536 × splits + number. -/
def State.splitCodes (s : State) : List Nat :=
  s.stp.splits.map (fun x => x.count * 65536 + x.mb)

/-- The device's report of the beat. A device without a step in progress holds no commit back. -/
def State.report (s : State) (o : WinObs) : Report :=
  { devs := [s.device], ready := !s.stp.active || s.stp.commitReady, causes := s.openCauses,
    origins := s.stp.origins.filter (fun o => s.openCauses.contains o.1), fails := s.stp.fails,
    drops := s.splitCodes, k := s.askStretch o, compares := s.stp.compares, hold := s.pwr.braced,
    lost := if s.reportsLost then [s.device] else [], restored := s.flt.restored, downs := s.ownDowns }

/-- WINDOW_CLOSE: events from here to the tick carry the next beat's number, and what the background repairs is asked for (R368); nothing when the
window has closed already. -/
def execWindowClose (o : WinObs) (s : State) : Host.Outcome State Fault Refusal :=
  if !s.lnk.windowOpen then .next s
  else
    let s1 := (s.overrun (s.stillRunning o)).endBeatLog
    let s2 := { s1 with lnk := { s1.lnk with windowOpen := false }, pwr := { s1.pwr with stretchReq := dutyStretch s1.pwr.lowDuty } }
    let s3 := s2.addReport (s1.report o)
    .next ({ s3 with stp := { s3.stp with compares := [] } }).sendReport.askFrames

/-! ### The tick message (R302 to R308) -/

/-- STRETCH_LIMIT: after 64 stretched beats in a row the master grants none. -/
def execStretchLimit (s : State) : Host.Outcome State Fault Refusal :=
  match s.lnk.merged with
  | none => .next s
  | some r =>
    if s.lnk.master = s.device ∧ 64 ≤ s.lnk.stretchRun ∧ 0 < r.k then
      .next ({ s with lnk := { s.lnk with merged := some { r with k := 0 } } }.raise 0x6006 [])
    else .next s

/-- A recovery as a number. -/
def Recov.code (c : Recov) : Nat :=
  match c with
  | .dropOut => 1
  | .shadow => 2
  | .stop => 3
  | .restored => 4

/-- The bytes of a tick message (R302): their layout is not stated (log 115). -/
def TickMsg.bytes (m : TickMsg) : List Byte :=
  wordBytes ([wd m.beat, wd (m.beat / 2 ^ 32), wd m.k, wd (b2n m.commit), wd (b2n m.hold), wd m.gen]
    ++ (m.causes ++ m.fails ++ m.drops ++ m.lost).map wd ++ m.preds.map (fun c => wd (2 * c.1 + b2n c.2))
    ++ m.origins.flatMap (fun o => wd o.1 :: stampWords o.2) ++ m.recov.map (fun x => wd (8 * x.1 + Recov.code x.2)))

/-- A tick message sent on some ports, on VC0 ahead of all other traffic (R302). -/
def State.sendTick (s : State) (m : TickMsg) (l : List Nat) : State :=
  match l with
  | [] => s
  | p :: r =>
    (({ s with lnk := { s.lnk with forwarded := s.lnk.forwarded ++ [(p, m)] } }).sendVc0 p (TickMsg.bytes m)).sendTick m r

/-- TICK_MESSAGE: kept for the local tick and forwarded; the correction is signed, in 0.25 ns (R303, R313). -/
def execTickMessage (m : TickMsg) (skew : Int) (s : State) : Host.Outcome State Fault Refusal :=
  if s.lnk.domain && s.lnk.master != s.device then
    .next (({ s with lnk := { s.lnk with tickRx := some m, skew := BitVec.ofInt 16 skew } }).sendTick m s.treePorts)
  else .next s

/-- A message that commits nothing and grants nothing: the flywheel's, and the master's when no report has come (R306). -/
def State.bareTick (s : State) : TickMsg :=
  { beat := (s.lnk.beat + 1) % 2 ^ 48, k := 0, commit := false, causes := [], origins := [], fails := [], drops := [], preds := [], hold := false,
    gen := (match s.lnk.genNext with
      | some (g, b) => if b ≤ s.lnk.beat + 1 then g else s.lnk.gen
      | none => s.lnk.gen), lost := [], recov := [] }

/-- The other live devices whose reports are missing from the merged report. -/
def State.missing (s : State) (r : Report) : List Nat :=
  s.liveDevs.filter (fun d => d != s.device && !r.devs.contains d)

/-- The message the master builds: the commit needs every live device's report, all ready, and no cause; with each lost device it says how to
recover (R30, R215, R304, R376). -/
def State.masterTick (s : State) : TickMsg :=
  match s.lnk.merged with
  | none => s.bareTick
  | some r =>
    let lost := union r.lost ((s.missing r).filter (fun d => s.lnk.silent.contains d))
    { s.bareTick with
      k := if 64 ≤ s.lnk.stretchRun then 0 else min 8 r.k,
      commit := s.liveDevs.all (fun d => r.devs.contains d) && r.ready && r.causes.isEmpty && r.fails.isEmpty,
      causes := r.causes, origins := r.origins, fails := r.fails, drops := r.drops, preds := r.compares.map (fun c => (c.1, c.2.2)), hold := r.hold,
      lost := lost, recov := lost.map (fun d => (d, s.chooses d)) ++ r.restored.map (fun d => (d, .restored)) }

/-! ### What a tick does to the step in progress -/

/-- The ticket of the step or invocation in progress completes. -/
def State.endTicket (s : State) (st : Nat) (res : List Word) : State :=
  match s.hif.seqBusy with
  | some w => if w.op = 0x0401 ∨ w.op = 0x0402 then s.complete w st res else s
  | none => s

/-- A step commits: its results are those of R355. -/
def State.tickCommit (s : State) (closing : Nat) : State :=
  let s1 := s.commitStep
  s1.endTicket stSuccess [wd s.stp.step, s1.epochWord, wd (s.stp.lastCause * 256 + s.stp.attempt), s1.upd.digest.setWidth 32,
    (s1.upd.digest >>> 32).setWidth 32, wd closing]

/-- STATE after a recipe has stopped or failed: READY, or RUNNING when another has started (R350). -/
def State.settleRun (s : State) : State :=
  if s.hif.state = .running then s.settle else s

/-- A step or invocation fails with a cause of R225; its recipe is FAILED, and no longer runs (R350). -/
def State.tickFail (s : State) (cause : Nat) : State :=
  ((s.failStep cause).endTicket stStepFailed [wd cause, wd s.stp.step]).settleRun

/-- An invocation ends: its outputs become visible (R257, R355). -/
def State.tickShow (s : State) (opened : Nat) : State :=
  s.showOutputs.endTicket stSuccess [wd s.stp.attempt, wd opened]

/-- The least of a list. -/
def leastOf (l : List Nat) : Nat :=
  l.foldl min (l.headD 0)

/-- The attempt in progress is over, and its step is to replay with a cause; that of another device keeps its origin (R215, R310). -/
def State.tickReplay (s : State) (c : Nat) (l : List (Nat × Stamp)) : State :=
  { s with stp := { s.stp with halted := true, replayDue := some c,
                               replayFrom := if s.stp.causes.contains c then none else Tab.find l c } }

/-- What a tick's message decides for an attempt in progress: commit, failure, replay with the lowest cause, or the end of an
invocation whose last beat has closed (R30, R215, R225, R257). -/
def State.tickStep (s : State) (m : TickMsg) (fly : Bool) (closing : Nat) : State :=
  if !s.stp.active || !s.stp.begun || s.stp.replayDue.isSome then s
  else if !m.fails.isEmpty then s.tickFail (leastOf m.fails)
  else if !m.causes.isEmpty then s.tickReplay (leastOf m.causes) m.origins
  else if s.stp.halted then s
  else if s.train then (if m.commit && s.stp.commitReady then s.tickCommit closing else s)
  else if s.lastBeat && !s.stp.held && !fly then s.tickShow m.beat
  else s

/-- A micro-batch that another device dropped, with how often it is split by now: its frames go, and it runs again in the reserve (R193,
R194). -/
def State.dropFor (s : State) (x : Nat) : State :=
  let mb := x % 65536
  if x / 65536 ≤ s.splitCount mb then s
  else
    let s1 := s.dropMb mb
    let s2 := if s.splitCount mb = 0 then { s1 with stp := { s1.stp with reserveUsed := s1.stp.reserveUsed + 1 } } else s1
    (s2.addSplit mb).drainMb (mbKey s.stp.step mb)

/-- The micro-batches dropped across the job. -/
def State.dropAll (s : State) (l : List Nat) : State :=
  match l with
  | [] => s
  | mb :: r => (s.dropFor mb).dropAll r

/-- One predicate set or cleared. -/
def setPred (p : BitVec 16) (c : Nat × Bool) : BitVec 16 :=
  let bit : BitVec 16 := BitVec.ofNat 16 (2 ^ (c.1 % 16))
  if c.2 then p ||| bit else p &&& ~~~bit

/-- What the job shares with an attempt, one that is to replay among them: dropped micro-batches, which stay split, and predicates (R193, R194,
R242). -/
def State.takeShared (s : State) (m : TickMsg) : State :=
  if !s.stp.active || !s.stp.begun then s
  else
    let s1 := s.dropAll m.drops
    { s1 with stp := { s1.stp with preds := m.preds.foldl setPred s1.stp.preds } }

/-- The beat that opens is held, or the schedule goes on (R391, R392): a step that waits begins, one in progress advances. -/
def State.openBeat (s : State) (hold : Bool) : State :=
  if hold then ({ s with stp := { s.stp with held := true } }).count cHold 1
  else
    let s1 := { s with stp := { s.stp with held := false } }
    if !s1.stp.active || s1.stp.halted then s1
    else if s1.stp.begun then s1.advance.fenceCheck
    else s1.beginStep

/-! ### What a tick applies elsewhere -/

/-- An array at a tick: steering switches to the spares taken, reference mode and the figures of its calibration take effect (R135,
R136, R139, R141). -/
def ArrayS.tick (x : ArrayS) : ArrayS :=
  { x with spares := x.nextSpares, spareNext := [], refOn := x.refNext, figOn := x.fig }

/-- A core at a tick: reference mode for age and CAL_LAG, and the trim for its temperature (R115, R135, R141, R142). -/
def CoreS.tick (c : CoreS) : CoreS :=
  { c with ageRef := c.ageNext, lagRef := c.lagNext, trim := c.coef * (c.temp - c.tempCal) }

/-- Changes of the arrays, cores and converters that wait for the tick (R91, R117, R135, R136, R139, R141, R142). -/
def State.tickArrays (s : State) : State :=
  { s with
    ana := { s.ana with
      w1lim := s.ana.w1new, w3lim := s.ana.w3new, w2lim := s.ana.w2new,
      interval := if s.train then s.ana.interval else s.ana.intervalNew,
      arrays := s.ana.arrays.map (fun e => (e.1, e.2.tick)), cores := s.ana.cores.map (fun e => (e.1, e.2.tick)) },
    cal := { s.cal with vals := s.cal.valsNext } }

/-- P_D after a tick, from the 1 ms average in 0.1 W (R399). -/
def nextPd (pd limit pavg : Nat) : Nat :=
  if 10 * limit < pavg then max 1 (pd - 1)
  else if 100 * pavg < 950 * limit then min 8 (pd + 1)
  else pd

/-- Duty at a tick: the closed beat counted, if one has closed, P_D and the ceiling moved, and PWR_LIMITED when the limit first takes duty below 8
(R399, R402, R405, R408, R409). -/
def State.tickDuty (s : State) (pavg : Nat) (closed : Bool) : State :=
  let s1 := if closed && decide (s.pwr.lowDuty < 8) then s.count cDutyBeats 1 else s
  let pd := nextPd s.pwr.pd s.pwr.limit.toNat pavg
  let s2 := { s1 with pwr := { s1.pwr with pin := wd pavg, pd := pd,
                                           ceil := if s.pwr.therm < 3 then min 8 (s.pwr.ceil + 1) else s.pwr.ceil,
                                           mgmtLimit := false } }
  let s3 := if pd < 8 ∧ 8 ≤ s.pwr.pd then (s2.raise 0x1006 []).setSticky 3 else s2
  s3.dutyTick

/-- The routing generation whose tick has come; the table before it is kept for one beat (R300). -/
def State.tickRoutes (s : State) (gen : Nat) : State :=
  match s.lnk.genNext with
  | none => { s with lnk := { s.lnk with routes := Tab.del s.lnk.routes (1 - s.lnk.gen) } }
  | some (g, b) =>
    if b ≤ s.lnk.beat ∨ gen = g then
      ({ s with lnk := { s.lnk with
           gen := g, genNext := none,
           routes := Tab.put s.lnk.routes s.lnk.gen (Tab.get s.lnk.routes s.lnk.gen { dead := [], down := [] }) } }).raise 0x600A []
    else s

/-- Ports with an active key in each direction, as a mask (R301). -/
def sealedMask (t : Tab LinkKey) : BitVec 6 :=
  BitVec.ofNat 6 (((List.range 6).map (fun p =>
    b2n ((Tab.find t (2 * p)).isSome && (Tab.find t (2 * p + 1)).isSome) * 2 ^ p)).foldl (· + ·) 0)

/-- Link keys whose beat has come take the place of those in use; a port with both its keys is sealed, and one
that a SEAL_FAIL took DOWN may train again once both are new (R294, R301). -/
def State.tickKeys (s : State) : State :=
  let due := s.sec.linkKeys.filter (fun e => decide (12 ≤ e.1) && decide (e.2.beat ≤ s.lnk.beat))
  let keys := due.foldl (fun t e => Tab.del (Tab.put t (e.1 - 12) { e.2 with active := true }) e.1) s.sec.linkKeys
  let fresh (p : Nat) := ((Tab.find keys (2 * p)).map (·.active)).getD false && ((Tab.find keys (2 * p + 1)).map (·.active)).getD false
  { s with sec := { s.sec with linkKeys := keys, rsealed := sealedMask keys },
           lnk := { s.lnk with ports := s.lnk.ports.map (fun (e : Nat × Port) =>
             (e.1, { e.2 with sealDown := e.2.sealDown && !fresh e.1 })) } }

/-- A port at a tick: one classified PERMANENT goes DOWN, and the failures of its lanes count from 0 again (R292, R365). -/
def State.tickPort (s : State) (p : Nat) : State :=
  let x := s.port p
  if x.downNext && !(x.state == .down) then (s.setPort p { x with laneFails := [] }).portDown p
  else if x.downNext then s.putPort p { x with laneFails := [], downNext := false }
  else s.setPort p { x with laneFails := [] }

/-- The ports. -/
def State.tickPorts (s : State) (l : List Nat) : State :=
  match l with
  | [] => s
  | p :: r => (s.tickPort p).tickPorts r

/-- This device reports itself lost: it raises DEVICE_LOST as every device of the job does, and SHADOW_LOST when it runs a job and no
other device is live (R375, R376). -/
def State.selfGone (s : State) : State :=
  if s.lnk.dead.contains s.device then s
  else
    let s1 := ({ s with lnk := { s.lnk with dead := s.lnk.dead ++ [s.device] } }).raise 0xB004 []
    if s.runningRecipe.isSome && s.liveDevs.all (fun d => d == s.device) then s1.raise 0xB00B [] else s1

/-- Devices that the message reports lost, with the leader's choice for each (R375, R376). -/
def State.tickLost (s : State) (ch : Tab Recov) (l : List Nat) : State :=
  match l with
  | [] => s
  | d :: r => (if d = s.device then s.selfGone else s.deviceGone d (Tab.find ch d)).tickLost ch r

/-- A restored shard: who waits for it at the step boundary goes on, with the groups as they are now (R262, R379). -/
def State.tickRestored (s : State) (l : List (Nat × Recov)) : State :=
  match l with
  | [] => s
  | x :: r =>
    let s1 := { s with flt := { s.flt with restored := s.flt.restored.filter (fun d => d != x.1) } }
    (if x.2 = .restored then
      (if (Tab.find s1.flt.recov x.1).isSome then ({ s1 with flt := { s1.flt with recov := Tab.del s1.flt.recov x.1 } }).takeGroups else s1)
     else s).tickRestored r

/-- The module takes itself out (R327, R368, R402). -/
def State.tickLeave (s : State) : State :=
  if s.leaving && s.hif.state != .lost then
    ({ s with flt := { s.flt with lostTick := false } }).lose
  else s

/-- A CKPT_RESTORE whose image has been taken becomes the committed state (R356). -/
def State.tickRestore (s : State) : State :=
  match s.hif.seqBusy with
  | some w => if w.op = 0x0502 then s.applyRestore w else s
  | none => s

/-- What the merged report says of the job's ports, and whose report it misses: the second time in a row that device is lost (R299,
R375). -/
def State.takeReport (s : State) : State :=
  match s.lnk.merged with
  | none => s
  | some r =>
    let s1 := s.setDowns r.devs r.downs
    { s1 with lnk := { s1.lnk with silent := s.missing r } }

/-- Packets of the beat that has closed for collectives that never started are stale (R273). -/
def State.dropEarly (s : State) : State :=
  if s.coll.early.isEmpty then s
  else ({ s with coll := { s.coll with early := [] } }).count cStale s.coll.early.length

/-- The causes that were raised after the close, or with no step in progress, belong to the attempt of the beat that opens (R215, R304). -/
def State.giveCauses (s : State) (l : List (Bool × Nat × Stamp)) : State :=
  match l with
  | [] => s
  | c :: r => (if c.1 then s.fail c.2.1 else s.causeAt c.2.1 c.2.2).giveCauses r

/-- They wait on while no step is in progress. -/
def State.takeLate (s : State) : State :=
  if s.stp.active then ({ s with lnk := { s.lnk with late := [] } }).giveCauses s.lnk.late else s

/-- The beat that a message opens. -/
def State.newBeat (s : State) (m : TickMsg) (fly : Bool) : State :=
  let s0 := (s.takeReport).dropEarly
  let s1 := if s.lnk.windowOpen || !s.pwr.tickDriven then s0.endBeatLog else s0
  let s2 := { s1 with
    lnk := { s1.lnk with beat := m.beat % 2 ^ 48, windowOpen := true, stretch := m.k % 16,
                         stretchRun := if m.k = 0 then 0 else s1.lnk.stretchRun + 1, flywheel := fly,
                         missed := if fly then s1.lnk.missed + 1 else 0, tickRx := none, merged := none, forwarded := [], reported := [] },
    pwr := { s1.pwr with tickDriven := true } }
  let s3 := if s.lnk.master = s.device ∧ fly = false then s2.sendTick m s.treePorts else s2
  if 0 < m.k then (s3.raise 0x6005 []).count cStretch 1 else s3

/-- All that a tick does (R302, R303). The old beat's number is that of the beat it closes. DESIGN CHOICE, log 135: a held beat is none of the
hundred beats that make a step of a recipe without steps (R112, R391). -/
def State.tick (s : State) (m : TickMsg) (pavg : Nat) (fly : Bool) : State :=
  let closing := s.lnk.beat
  let s0 := s.newBeat m fly
  let s1 := ((((s0.tickStep m fly closing).shadowTick m.commit).takeShared m).tickLost m.recov m.lost).tickRestored m.recov
  let s2 := (((s1.tickArrays).tickDuty pavg s.pwr.tickDriven).tickRoutes m.gen).rebuild.tickKeys
  let s3 := (s2.tickPorts (List.range 6)).tickLeave
  let s4 := (s3.openBeat m.hold).takeLate
  let s5 := if s4.runningRecipe.isSome && !s4.train && !m.hold then s4.countTasteBeat else s4
  let s6 := { s5 with pwr := { s5.pwr with ticksOut := s5.pwr.ticksOut + 1 } }
  ((s6.endLimits stSuccess s6.hif.limits).tickRestore).drain

/-- Whether the device ticks: its main rails are up and it has been put in a domain (R303, R440). -/
def State.ticks (s : State) : Bool :=
  s.pwr.pwrgood && s.lnk.domain

/-- BEAT_TICK: the master's own message, or the one received; nothing without one. `pavg` is the 1 ms average of input power, 0.1 W. -/
def execBeatTick (pavg : Nat) (s : State) : Host.Outcome State Fault Refusal :=
  if !s.ticks then .next s
  else if s.lnk.master = s.device then .next (s.tick s.masterTick pavg false)
  else
    match s.lnk.tickRx with
    | none => .next s
    | some m => .next (s.tick m pavg false)

/-- FLYWHEEL_TICK: no message came; the beat counts, nothing commits, and the attempt replays with cause TRANSIENT (R306). `pavg` is the 1 ms
average of input power, 0.1 W. -/
def execFlywheelTick (pavg : Nat) (s : State) : Host.Outcome State Fault Refusal :=
  if !s.ticks || s.lnk.tickRx.isSome || s.lnk.master == s.device then .next s
  else .next (((s.tick s.bareTick pavg true).raise 0x6007 []).cause 0xA)

/-- MASTER_CHANGE: after two missed ticks the standby takes over (R306). -/
def execMasterChange (s : State) : Host.Outcome State Fault Refusal :=
  if s.lnk.missed < 2 then .next s
  else
    let n := match s.lnk.standby with
      | some d => d
      | none => (s.liveDevs.find? (fun d => d != s.lnk.master)).getD s.lnk.master
    let s1 := { s with lnk := { s.lnk with master := n, standby := none, missed := 0 } }
    .next (if n = s.device then s1.rebuild.raise 0x6008 [] else s1)

/-! ### Replays (R215 to R217, R374) -/

/-- Whether a replay waits for the calibration that a failed tasting asked for (R114). -/
def State.tasteWaits (s : State) : Bool :=
  s.stp.causes.contains 5 && s.ana.arrays.any (fun e => e.2.tasteFails == 1 && s.cal.due.contains (e.1 / 16))

/-- Whether a replay may start: one is due, the beat is not held, no core waits to be moved, no lost device's recovery is awaited, and none waits for
its calibration (R114, R374, R377, R379). -/
def State.mayReplay (s : State) : Bool :=
  s.stp.active && s.stp.begun && !s.stp.held && s.flt.moving.isEmpty && s.flt.recov.isEmpty && !s.tasteWaits

/-- REPLAY_START. -/
def execReplayStart (s : State) : Host.Outcome State Fault Refusal :=
  match s.stp.replayDue with
  | none => .next s
  | some c =>
    if !s.mayReplay || decide (s.cur.head.replayMax < s.stp.attempt) then .next s
    else
      let s1 := (s.raiseFor s.stp.replayFrom 0x4005 [wd c, wd s.stp.attempt]).count cUpdReplay 1
      .next ({ s1 with stp := { s1.stp with lastCause := c } }).restart

/-- REPLAY_LIMIT: REPLAY_MAX + 1 attempts have not committed (R217). -/
def execReplayLimit (s : State) : Host.Outcome State Fault Refusal :=
  match s.stp.replayDue with
  | none => .next s
  | some c =>
    if s.stp.active && decide (s.cur.head.replayMax < s.stp.attempt) then .next ((s.raiseFor s.stp.replayFrom 0x4006 [wd c]).tickFail 2).drain
    else .next s

/-! ### The step boundary (R24, R125, R262, R292, R294, R358, R365) -/

/-- A port's return at the boundary: one that was DOWN and has trained comes up, and lanes that trained come back. -/
def State.portBack (s : State) (p : Nat) : State :=
  let x := s.port p
  let lanes : BitVec 6 := x.laneNext &&& ~~~(s.lanePerm p)
  if x.upNext && x.state == .down && !s.stuckDown p && decide (5 ≤ popCount 6 lanes.toNat) then
    let z := { x.freshLink with lanes := lanes, laneNext := 0, upNext := false, wasDown := false }
    (s.putPort p { z with state := z.upState }).noteDowns
  else
    let z := { x with lanes := x.lanes ||| lanes, laneNext := 0, upNext := false }
    s.putPort p (if x.works then { z with state := z.upState } else z)

/-- The ports. -/
def State.portsBack (s : State) (l : List Nat) : State :=
  match l with
  | [] => s
  | p :: r => (s.portBack p).portsBack r

/-- A waiting ticket of an opcode completes with SUCCESS. -/
def State.release (s : State) (op : Half) : State :=
  match s.hif.seqBusy with
  | some w => if w.op = op then s.okT w [] else s
  | none => s

/-- The recipe that was RUNNING or STOPPING is over; one unloaded meanwhile goes. -/
def State.endRecipe (s : State) : State :=
  { s with rcp := { s.rcp with state := .idle, unloadAtStop := false,
                               slots := if s.rcp.unloadAtStop then Tab.del s.rcp.slots s.rcp.handle else s.rcp.slots } }

/-- A recipe that was asked to stop, has failed, or makes way for another does so; its waiting tickets are ABORTED (R354, R358). A step that has
been accepted is run first (R353). -/
def State.stopHere (s : State) : State :=
  if s.stp.active then s
  else
    match s.rcp.startNext with
    | some n =>
      if s.rcp.state = .running then (s.endRecipe.startRecipe n.1 n.2).release 0x0303
      else if s.rcp.state = .stopping then (s.endRecipe.startRecipe n.1 n.2).release 0x0303
      else s
    | none =>
      if s.rcp.state = .stopping then
        let s1 := s.endRecipe.release 0x0304
        s1.abortList s1.hif.waitq
      else if s.rcp.state = .failed then s.abortList s.hif.waitq
      else s

/-- Spare banks and the tasting interval that waited for the boundary. -/
def State.takeSpares (s : State) : State :=
  { s with stp := { s.stp with boundary := false },
           flt := { s.flt with spareBanks := s.flt.spareBanks ++ s.flt.bankNext, bankNext := [] },
           ana := { s.ana with interval := s.ana.intervalNew } }

/-- A device that was to be treated as lost from the boundary on is (R24, R365). -/
def State.takeLost (s : State) : State :=
  if s.flt.lostNext && s.hif.state != .boot then ({ s with flt := { s.flt with lostNext := false } }).lose else s

/-- What a boundary puts in force. -/
def State.atBoundary (s : State) : State :=
  ((((s.takeGroups).portsBack (List.range 6)).takeSpares).stopHere.settleRun).takeLost

/-- BOUNDARY_APPLY: nothing while a step or invocation is in progress. The next step begins at once when its ticket waits (R358). -/
def execBoundaryApply (s : State) : Host.Outcome State Fault Refusal :=
  if s.stp.active && s.stp.begun then .next s else .next (s.atBoundary.drain.beginStep).takeLate

end Sys2Proof.Machine
end

