-- ==== Sys2Proof/Machine/Dma.lean ====
section
/-! DEFINITION. The Mandoline's descriptors (R174, R180, R181, R183, R250): straight and transposed moves, gathers from GDDR7, and
the expansion of the weight image. -/

namespace Sys2Proof.Machine

/-- MOVE on the state. -/
def State.moveOp (s : State) (d : Desc) : State :=
  s.opWrite (Desc.home d) (Desc.opD d) (s.opRead (Desc.home d) (Desc.opA d) (Desc.word d 10).toNat)

/-- MOVE (descriptor 0x60). -/
def execMove (d : Desc) (e : Env) (s : State) : Host.Outcome State Fault Refusal :=
  .next (s.runDesc 0x60 d e (fun t => t.moveOp d))

/-- Bytes of one element of a transposed move: 4, 2 or 1 (R183). -/
def elemBytes (f : Nat) : Nat :=
  if f = fT32 then 4 else if f = fT16 ∨ f = fFP16 then 2 else 1

/-- Rows of fixed-size elements transposed. -/
def transposeBytes (w rows cols : Nat) (bs : List Byte) : List Byte :=
  ((transposeL cols ((chunk (w * cols) rows bs).map (chunk w cols))).map List.flatten).flatten

/-- TRANSPOSE on the state: W10 rows of W11 elements of A's format, written column by column. -/
def State.transposeOp (s : State) (d : Desc) : State :=
  let rows := (Desc.word d 10).toNat
  let cols := (Desc.word d 11).toNat
  let w := elemBytes (Desc.opA d).fmt
  s.opWrite (Desc.home d) (Desc.opD d)
    (transposeBytes w rows cols (s.opRead (Desc.home d) (Desc.opA d) (w * rows * cols)))

/-- TRANSPOSE (descriptor 0x61). -/
def execTranspose (d : Desc) (e : Env) (s : State) : Host.Outcome State Fault Refusal :=
  .next (s.runDesc 0x61 d e (fun t => t.transposeOp d))

/-- A row fetched: its frame costs, and the marked codewords it meets (R174, R318, R323). -/
def State.fetchRow (s : State) (d : Desc) (o : Opnd) (rb : Nat) : State :=
  if o.mem then
    (s.account o.region o.addr rb false).meetUe (Desc.core d) (s.readPoison o.region o.addr rb)
  else s

/-- The rows of a gather fetched. -/
def State.fetchRows (s : State) (d : Desc) (rb bound : Nat) (idx : List Word) : State :=
  match idx with
  | [] => s
  | i :: r =>
    (if i.toNat < bound then s.fetchRow d ((Desc.opA d).at (i.toNat * rb)) rb else s.count cIdxOor 1).fetchRows d rb bound r

/-- The bytes of gathered rows: +0 for an index beyond the source (R175). -/
def State.gatherBytes (s : State) (d : Desc) (rb bound : Nat) (idx : List Word) : List Byte :=
  idx.flatMap (fun i => if i.toNat < bound then s.opRead (Desc.home d) ((Desc.opA d).at (i.toNat * rb)) rb else List.replicate rb 0)

/-- Whether some row of a gather meets a marked codeword. -/
def State.gatherSpoilt (s : State) (d : Desc) (rb bound : Nat) (idx : List Word) : Bool :=
  (Desc.opA d).mem && idx.any (fun i => decide (i.toNat < bound)
    && !(s.readPoison (Desc.opA d).region ((Desc.opA d).addr + i.toNat * rb) rb).isEmpty)

/-- GATHER_MEM on the state: W10 rows of W11 bytes, indices in B; assignments beyond the rows gathered are counted as GATHER counts them, and in
a recipe without steps a marked codeword in a row makes all the results canonical NaNs (R174, R175, R177, R323). -/
def State.gatherMemOp (s : State) (d : Desc) : State :=
  let n := (Desc.word d 10).toNat
  let rb := (Desc.word d 11).toNat
  let bound := s.rowBound (Desc.opA d) rb
  let idx := leWords n (s.opRead (Desc.home d) (Desc.opB d) (4 * n))
  let s1 := ((s.fetchRows d rb bound idx).opWrite (Desc.home d) (Desc.opD d) (s.gatherBytes d rb bound idx)).count cRouteDropEng
    (s.routeDrops (Desc.home d) (Desc.opB d) n bound)
  if !s.train && s.gatherSpoilt d rb bound idx then s1.nanOut d [extRun (Desc.opD d) (n * rb)] else s1

/-- GATHER_MEM (descriptor 0x62). -/
def execGatherMem (d : Desc) (e : Env) (s : State) : Host.Outcome State Fault Refusal :=
  .next (s.runDesc 0x62 d e (fun t => t.gatherMemOp d))

/-! ### EXPAND (R181; log 21) -/

/-- One effective weight as T16: the channel row's value, or level × s with an outlier's residual, rounded once. -/
def effective (legacy : Bool) (f code : Nat) (s : Option FVal) (resid : Option Half) : Nm Half := do
  let md : FMode := { legacy := legacy, sat := false }
  match s with
  | none => do
    Nm.nanRes
    return nan16
  | some v =>
    let x := timesScale (levelOf f code) v
    to16 md .nearest 0 (match resid with
      | some r => x.add (unpack16 legacy r)
      | none => x)

/-- The residual of an entry (i, j) of a segment. -/
def Segment.resid (g : Segment) (i j : Nat) : Option Half :=
  (g.ents.find? (fun e => 128 * e.group + e.row == i && e.col == j)).map (·.resid)

/-- The channel-row value for input row i of an array and column j: rows whose index is kept beside the part, by that index
(log 17). -/
def Segment.chanAt (g : Segment) (i j : Nat) : Option Half :=
  (g.chans.find? (fun c => (c.1.map (· % 1024)) == some i)).map (fun c => c.2.getD j 0)

/-- One output's row of effective weights; a channel row's value is read as any T16 operand is (R38, R43). -/
def expandRow (legacy : Bool) (f : Nat) (g : Segment) (j : Nat) (codes : List Nat) (scales : List (Option FVal)) :
    Nm (List Half) :=
  codes.zipIdx.mapM (fun c => match g.chanAt c.2 j with
    | some w => do
      let v := unpack16 legacy w
      if v = .nan then Nm.nanRes
      return pack16 v
    | none => effective legacy f c.1 (scales.getD (c.2 / 64) (some (.zero false))) (g.resid c.2 j))

/-- EXPAND's result: W10 outputs of W11 inputs each, transposed to inputs by outputs. -/
def State.expandRun (s : State) (d : Desc) : Nm (List Byte) := do
  let legacy := s.cur.head.legacy
  let core := Desc.home d
  let rows := (Desc.word d 10).toNat
  let cols := (Desc.word d 11).toNat
  let oA := Desc.opA d
  let nb := cdiv cols 64
  let codes := chunk cols rows (codesOf (codeBits oA.fmt) (rows * cols) (s.opRead core oA (fmtBytes oA.fmt (rows * cols))))
  let plane := chunk nb rows (halves (nb * rows) (s.opRead core (Desc.opB d) (2 * (nb * rows))))
  let g := s.segmentAt core (Desc.opC d)
  let rs ← ((codes.zip plane).zipIdx).mapM (fun x => do
    let sc ← x.1.2.mapM (fun h => noteScale legacy h)
    expandRow legacy oA.fmt g x.2 x.1.1 sc)
  return halfBytes (transposeL cols rs).flatten

/-- EXPAND on the state; an A that is not a weight image is refused at load and does nothing. -/
def State.expandOp (s : State) (d : Desc) : State :=
  if isW (Desc.opA d).fmt then
    s.writeFx d (Desc.home d) { Desc.opD d with fmt := fT16 } ((s.expandRun d).run fx0)
  else s

/-- EXPAND (descriptor 0x63). -/
def execExpand (d : Desc) (e : Env) (s : State) : Host.Outcome State Fault Refusal :=
  .next (s.runDesc 0x63 d e (fun t => t.expandOp d))

end Sys2Proof.Machine
end

