-- ==== Sys2Proof/Machine/Power.lean ====
section
/-! DEFINITION. Supply, rails and domains (R388 to R398), brace (R391), start-up and its failures (R146, R316, R427, R448, R449), the
watchdogs (R381, R427), shutdowns, and the resets of the module interface (R353, R443, R444). -/

namespace Sys2Proof.Machine

/-! ### The main rails go off (R393, R443) -/

/-- What arrays keep through a loss of the main rails: their spares, as the remap block gives them, and that they have run out of them
(R120, R145). -/
def Ana.off (x : Ana) : Ana :=
  { Ana.reset with
    arrays := x.arrays.map (fun (e : Nat × ArrayS) =>
      (e.1, { ArrayS.blank with spares := e.2.nextSpares, status := if e.2.status = 2 then 2 else 4 })) }

/-- What the ports keep: their cables, the count of sealed units, which never repeats under a key (R301), and that spoilt keys hold them
DOWN (R294). The coordinates go with the rails, so that an event of the always-on domain carries device 0 until the next DOMAIN_SET:
R419 gives it a beat and no device. DESIGN CHOICE, log 121. -/
def Lnk.off (x : Lnk) : Lnk :=
  { Lnk.reset with
    ports := x.ports.map (fun (e : Nat × Port) => (e.1, { Port.blank with
      cable := e.2.cable, sealCount := e.2.sealCount, sealDown := e.2.sealDown })) }

/-- What the fault manager keeps in NVM: histories, patterns, the core map without temporary swaps, and spares in use. -/
def Flt.off (x : Flt) : Flt :=
  { Flt.reset with
    hist := x.hist, patterns := x.patterns, absent := x.absent, usedPhys := x.usedPhys, moving := x.moving,
    coreMap := x.swapped.foldl (fun t e => Tab.put t e.1 e.2) x.coreMap, spareBanks := x.spareBanks ++ x.bankNext }

/-- The always-on side of the power state; the main side's fields are at their reset values. -/
def Pwr.off (x : Pwr) : Pwr :=
  { Pwr.reset with
    aon := x.aon, supply := if x.supply = .ovWarn then .ovWarn else .starting, sticky := x.sticky, vin := x.vin, dom := 0x200000000,
    inlet := x.inlet, outlet := x.outlet, thermLatch := x.thermLatch, ovLatch := x.ovLatch,
    offLatch := x.offLatch,
    ovHours := x.ovHours, ovWait := x.ovWait, modReset := x.modReset }

/-- The main rails go off: the log is closed, and all that the main side alone holds is lost (R393, R417, R443). -/
def State.railsOff (s : State) : State :=
  if !s.pwr.pwrgood then { s with pwr := { s.pwr with startFail := none } }
  else
    let t := s.closeLog
    { t with ctr := t.ctr.filter (fun e => e.1 == cSbmDrop || e.1 == cSbmBadAcc),
             hif := { Hif.reset with perst := t.hif.perst, width := t.hif.width, rate := t.hif.rate, held := t.hif.held,
                                     vecReq := t.hif.vecReq },
             pwr := t.pwr.off, evt := { t.evt with sel := 0 },
             sec := { t.sec with failover := false, bootGood := false, wdCount := 0 },
             sbm := { t.sbm with session := false },
             ana := t.ana.off, cal := { Cal.reset with blk := t.cal.blk, remap := t.cal.remap }, mem := MemSys.reset,
             store := { t.store with lstore := [], cstore := [], gddr := [] }, lnk := t.lnk.off, rcp := Rcp.reset, stp := Stp.reset,
             upd := Upd.reset, stk := [], coll := Coll.reset, flt := t.flt.off }

/-! ### The main rails come up (R390, R396, R421, R428, R431) -/

/-- Whether the input is within the enable range (R390). -/
def enableRange (mv : Nat) : Bool :=
  decide (43000 ≤ mv) && decide (mv ≤ 58000)

/-- Whether the power-up sequence may start: the always-on domain runs, the rails are off, no shutdown is latched or waited out, MOD_RESET_N
is high, and no start-up has stopped (R390, R394, R403, R448, R449). -/
def State.mayStartRails (s : State) : Bool :=
  s.pwr.aon && !s.pwr.pwrgood && !s.pwr.ovLatch && !s.pwr.thermLatch && !s.pwr.offLatch && !s.pwr.ovWait && !s.pwr.modReset && s.pwr.startFail.isNone

/-- The domains that are on once the sequence is complete: all but those of ports that are DISABLED (R396, R397). -/
def State.upDoms (s : State) : BitVec 36 :=
  (List.range 6).foldl (fun d p => if (s.port p).state = .disabled then d else d ||| BitVec.ofNat 36 (2 ^ (20 + p))) 0xFFC0FFFFF

/-- What a start of the main rails does to the security root: a pending activation, an accepted unlock and a seal take effect (R428,
R431). -/
def Sec.start (x : Sec) : Sec :=
  let opened := x.unlockArmed && !x.sealArmed
  { x with fwB := if x.activate then !x.fwB else x.fwB, activate := false, unlocked := opened,
           unlocks := if opened then x.unlocks + 1 else x.unlocks, unlockArmed := false,
           debug := if x.sealArmed then 2 else x.debug, sealArmed := false, failover := false, bootGood := false, wdCount := 0 }

/-- The power-up sequence up to PWRGOOD (R396, R421). -/
def State.startRails (s : State) : State :=
  { s with pwr := { s.pwr with pwrgood := true, startStep := 5, dom := s.upDoms },
           evt := { s.evt with pcycle := (s.evt.pcycle + 1) % 2 ^ 24 }, sec := s.sec.start }

/-- MAIN_RAIL_ENABLE. -/
def execMainRailEnable (mv : Nat) (s : State) : Host.Outcome State Fault Refusal :=
  let s1 := if s.pwr.aon then { s with pwr := { s.pwr with vin := wd mv } } else s
  .next (if enableRange mv && s.mayStartRails then s1.startRails else s1)

/-- Start-up stops with a step and a cause (R449). -/
def State.stopStart (s : State) (step cause : Nat) : State :=
  ({ s with pwr := { s.pwr with startFail := some (step, cause), startStep := 0 } }).raise 0xB00C [wd step, wd cause]

/-- DOMAIN_FAULT, with its sticky bit (R396, R398). -/
def State.domainFault (s : State) (unit : Nat) : State :=
  (s.setSticky 9).raiseU 0x1008 unit []

/-- The step of R396 that a rail belongs to, for the rails of R395 in order from VBUS: VAON is not one of the sequence. -/
def railStep (rail : Nat) : Nat :=
  [2, 0, 5, 5, 3, 5, 4, 4, 4, 3].getD rail 0

/-- RAIL_POWER_GOOD_TIMEOUT: a power-up sequence that ends at a rail; the rails go off again and start-up stops. -/
def execRailPowerGoodTimeout (rail : Nat) (s : State) : Host.Outcome State Fault Refusal :=
  if 10 ≤ rail then .fault .noSuchUnit
  else if !s.mayStartRails || railStep rail == 0 then .next s
  else
    let s1 := { s with evt := { s.evt with pcycle := (s.evt.pcycle + 1) % 2 ^ 24 } }
    .next ((s1.domainFault 0).stopStart 4 3)

/-- Cores of a cluster made absent (R398). -/
def State.clusterFault (s : State) (l : List Nat) : State :=
  match l with
  | [] => s
  | c :: r => (s.makeAbsent c 0x1008).clusterFault r

/-- A domain that fails its power-good a second time (R398, R449). -/
def State.domainLost (s : State) (dom : Nat) : State :=
  let s1 := ({ s with pwr := { s.pwr with dom := s.pwr.dom &&& ~~~(BitVec.ofNat 36 (2 ^ dom)) } }).domainFault dom
  if dom < 16 then s1.clusterFault ((List.range 8).map (8 * dom + ·))
  else if 20 ≤ dom ∧ dom ≤ 25 then s1.portDown (dom - 20)
  else if s.pwr.startStep ≠ 0 then s1.stopStart 4 3
  else s1.lose.drain

/-- A domain that comes up: the blocks of a cluster's cores are loaded again when it returns from off (R146, R398). -/
def State.domainUp (s : State) (dom : Nat) (n : NvmRead) : State :=
  let s1 := { s with pwr := { s.pwr with dom := s.pwr.dom ||| BitVec.ofNat 36 (2 ^ dom) } }
  if dom < 16 ∧ s.pwr.dom.getLsbD dom = false then s1.loadBlocks n ((List.range 8).map (8 * dom + ·)) else s1

/-- DOMAIN_RETRY: the retry of a domain, 1 ms after its power-good failed; nothing while the rails are off. -/
def execDomainRetry (dom : Nat) (good : Bool) (nvm : NvmRead) (s : State) : Host.Outcome State Fault Refusal :=
  if 36 ≤ dom then .fault .noSuchUnit
  else if !s.pwr.pwrgood then .next s
  else if good then .next (s.domainUp dom nvm)
  else .next (s.domainLost dom)

/-! ### The always-on domain (R389, R421, R442) -/

/-- ALWAYS_ON_POWER_UP: the straps are sampled once; the hours resume 1/256 h past the saved count. -/
def execAlwaysOnPowerUp (mgmtSel : Bool) (addr : BitVec 3) (s : State) : Host.Outcome State Fault Refusal :=
  if s.pwr.aon then .next s
  else
    .next { s with pwr := { s.pwr with aon := true, dom := 0x200000000 },
                   sbm := { s.sbm with i3c := mgmtSel, addr := addr },
                   evt := { s.evt with hours := s.evt.savedHours + 256, savedHours := s.evt.savedHours + 256 } }

/-- INPUT_BELOW_34V: the always-on domain loses power with its locks, its session, its buffers, PWR_STICKY and EVT_ALARM, and the latches
are released (R389, R394, R403, R408, R414, R417, R433). -/
def execInputBelow34V (mv : Nat) (s : State) : Host.Outcome State Fault Refusal :=
  if 34000 ≤ mv || !s.pwr.aon then .next s
  else
    let t := s.railsOff
    .next { t with pwr := { t.pwr with aon := false, supply := .starting, sticky := 0, vin := wd mv, dom := 0, thermLatch := false,
                                       ovLatch := false, offLatch := false, ovHours := [], ovWait := false, startFail := none },
                   sbm := { Sbm.reset with pem := t.sbm.pem },
                   ctr := t.ctr.filter (fun e => e.1 != cSbmDrop && e.1 != cSbmBadAcc),
                   evt := t.evt.powerLoss }

/-! ### Brace and over-voltage (R390 to R394) -/

/-- SUPPLY once a brace or an over-voltage warning is over: the other of the two where it still holds, else what the rails give (R407). -/
def State.supplyOf (s : State) (braced high : Bool) : Supply :=
  if braced then .brace
  else if high then .ovWarn
  else if s.pwr.pwrgood && s.pwr.startStep == 0 && s.pwr.startFail.isNone then .normal
  else .starting

/-- PWR_WARN: sticky and event; the first crossing enters the brace state, a further one restarts its 5 ms (R391). -/
def execPwrWarn (mv : Nat) (s : State) : Host.Outcome State Fault Refusal :=
  if 42000 ≤ mv || !s.pwr.pwrgood then .next s
  else
    let s1 := (({ s with pwr := { s.pwr with vin := wd mv } }).setSticky 0).raise 0x1001 []
    if s.pwr.braced then
      .next { s1 with pwr := { s1.pwr with braceLow := if mv < s1.pwr.braceLow.toNat then wd mv else s1.pwr.braceLow } }
    else
      let s2 := ({ s1 with pwr := { s1.pwr with supply := .brace, braced := true, braceLow := wd mv } }).setSticky 1
      .next ((s2.count cBrace 1).raise 0x1002 [1, wd mv]).dutyFall

/-- BRACE_LEAVE: the input has held 43.0 V for 5 ms; `lowest` is its lowest since ENTER, `us` the time braced. -/
def execBraceLeave (mv lowest us : Nat) (s : State) : Host.Outcome State Fault Refusal :=
  if mv < 43000 || !s.pwr.braced then .next s
  else
    let low := min lowest s.pwr.braceLow.toNat
    .next (({ s with pwr := { s.pwr with vin := wd mv, braced := false, supply := s.supplyOf false (s.pwr.supply == Supply.ovWarn) } }).raise 0x1002
      [0, wd mv, wd low, wd (min us 0xFFFFFFFF)])

/-- PWR_UV_RESET: the rails go off, and the always-on domain keeps the record (R393). -/
def execPwrUvReset (mv : Nat) (s : State) : Host.Outcome State Fault Refusal :=
  if 38000 ≤ mv || !s.pwr.pwrgood then .next s
  else .next (((({ s with pwr := { s.pwr with vin := wd mv } }).railsOff).setSticky 6).raise 0x1003 [])

/-- PWR_OVW: no change to work (R390). -/
def execPwrOvw (mv : Nat) (s : State) : Host.Outcome State Fault Refusal :=
  if mv ≤ 58000 || !s.pwr.aon || s.pwr.supply == .ovWarn then .next s
  else .next ((({ s with pwr := { s.pwr with vin := wd mv, supply := .ovWarn } }).setSticky 2).raise 0x1004 [])

/-- OV_WARN_CLEAR. -/
def execOvWarnClear (mv : Nat) (s : State) : Host.Outcome State Fault Refusal :=
  if 57000 < mv || s.pwr.supply != .ovWarn then .next s
  else .next { s with pwr := { s.pwr with vin := wd mv, supply := s.supplyOf s.pwr.braced false } }

/-- PWR_OV_SHUT: the fourth within one operating hour latches the rails off (R394). -/
def execPwrOvShut (mv : Nat) (s : State) : Host.Outcome State Fault Refusal :=
  if mv ≤ 62000 || !s.pwr.pwrgood then .next s
  else
    let l := s.pwr.ovHours.filter (fun h => decide (s.evt.hours - h < 65536)) ++ [s.evt.hours]
    let s1 := { s with pwr := { s.pwr with vin := wd mv, ovHours := l, ovLatch := decide (4 ≤ l.length), ovWait := true } }
    .next ((s1.railsOff.setSticky 7).raise 0x1005 [])

/-- OV_RESTART: the input has stayed at or below 58 V for 1 s; a latched shutdown stays (R394). -/
def execOvRestart (mv : Nat) (s : State) : Host.Outcome State Fault Refusal :=
  if 58000 < mv || !s.pwr.ovWait then .next s
  else
    let s1 := { s with pwr := { s.pwr with vin := wd mv, ovWait := false } }
    .next (if enableRange mv && s1.mayStartRails then s1.startRails else s1)

/-- What the device does when a comparator of R403 finds a temperature, in 0.1 °C: at its limit the rails go off, and the shutdown
latches. -/
def State.thermTrip (s : State) (src : ThermSource) (temp : Int) : State :=
  if temp < thermLimit src || !s.pwr.pwrgood then s
  else ((({ s with pwr := { s.pwr with thermLatch := true } }).railsOff).setSticky 8).raise 0x2006 []

/-- THERM_SHUTDOWN: a comparator trips; `temp` is what it read, in 0.1 °C. -/
def execThermShutdown (src : ThermSource) (temp : Int) (s : State) : Host.Outcome State Fault Refusal :=
  .next (s.thermTrip src temp)

/-- DIE_TEMP_SAMPLE: the dies' junctions in 0.1 °C and the clusters' sensors in °C, once each ms. A junction at its limit trips its
comparator as well (R403). -/
def execDieTempSample (cd0 cd1 iod : Int) (clusters : List Int) (s : State) : Host.Outcome State Fault Refusal :=
  .next ((s.dieTemps cd0 cd1 iod clusters).thermTrip .die (max (max cd0 cd1) iod))

/-- COOLANT_SAMPLE, in 0.1 °C: COOLANT_HOT when the outlet reaches 65 °C, and the comparator's trip at 75 °C (R403, R404). -/
def execCoolantSample (inlet outlet : Int) (s : State) : Host.Outcome State Fault Refusal :=
  .next ((s.coolant inlet outlet).thermTrip .outlet outlet)

/-- MEM_TEMP_SAMPLE: a device's temperature in 0.1 °C, with the comparator's trip at 108 °C (R325, R403). -/
def execMemTempSample (dev : Nat) (temp : Int) (s : State) : Host.Outcome State Fault Refusal :=
  if 24 ≤ dev then .fault .noSuchUnit else .next ((s.memTempSample dev temp).thermTrip .memory temp)

/-! ### Boot and watchdogs (R381, R427) -/

/-- Whether a firmware copy passes: it verifies, and its security version is not below the rollback counter (R427). -/
def State.copyPasses (s : State) (b ok : Bool) : Bool :=
  let c := if b then s.sec.copyB else s.sec.copyA
  ok && c.valid && decide (s.sec.rollback.toNat ≤ c.svn.toNat)

/-- The other copy boots: BOOT_FAILOVER once it runs. -/
def State.failOver (s : State) : State :=
  ({ s with sec := { s.sec with fwB := !s.sec.fwB, failover := true, wdCount := 0 },
            pwr := { s.pwr with startStep := 6 } }).raise 0xA001 []

/-- ROLLBACK_REFUSED for a copy that verifies and is below the rollback counter (R428). -/
def State.refuseOld (s : State) (b ok : Bool) : State :=
  let c := if b then s.sec.copyB else s.sec.copyA
  if ok && c.valid && decide (c.svn.toNat < s.sec.rollback.toNat) then s.raise 0xA004 [] else s

/-- The boot ROM's choice of a copy. -/
def State.bootWith (s : State) (aOk bOk : Bool) : State :=
  let v (b : Bool) : Bool := if b then bOk else aOk
  if s.copyPasses s.sec.fwB (v s.sec.fwB) then { s with pwr := { s.pwr with startStep := 6 } }
  else
    let t := s.refuseOld s.sec.fwB (v s.sec.fwB)
    if t.copyPasses (!t.sec.fwB) (v (!t.sec.fwB)) then t.failOver
    else (t.refuseOld (!t.sec.fwB) (v (!t.sec.fwB))).stopStart 5 1

/-- FIRMWARE_BOOT: start-up step 5. -/
def execFirmwareBoot (aOk bOk : Bool) (s : State) : Host.Outcome State Fault Refusal :=
  if s.pwr.startStep = 5 ∧ s.pwr.braced = false then .next (s.bootWith aOk bOk) else .next s

/-- The copy that runs does not pass after all: the other one boots if it has not been tried and passes, else start-up stops. -/
def State.copyFails (s : State) : State :=
  if !s.sec.failover && s.copyPasses (!s.sec.fwB) true then s.failOver else s.stopStart 5 1

/-- BOOT_WATCHDOG: the firmware starts again; at the third firing before the boot is good the other copy does, if it has not been tried
and passes. -/
def execBootWatchdog (s : State) : Host.Outcome State Fault Refusal :=
  if s.pwr.startStep < 6 || s.sec.bootGood then .next s
  else if s.sec.wdCount < 2 then
    .next { s with sec := { s.sec with wdCount := s.sec.wdCount + 1 }, pwr := { s.pwr with startStep := 6 } }
  else .next s.copyFails

/-- The device enters FAULT: foreground work stops, and the domain treats it as lost (R381). -/
def State.enterFault (s : State) : State :=
  let s1 := { s with flt := { s.flt with fatal := true }, stp := { s.stp with active := false, halted := true },
                     pwr := { s.pwr with startStep := 0 } }
  ((s1.raise 0xB00A []).setState .fault).drain

/-- SYSCTL_WATCHDOG: the third firing within one operating hour is fatal (R381). -/
def execSysctlWatchdog (s : State) : Host.Outcome State Fault Refusal :=
  if !s.pwr.pwrgood then .next s
  else
    let l := s.flt.wdHours.filter (fun h => decide (s.evt.hours - h < 65536)) ++ [s.evt.hours]
    let s1 := { s with flt := { s.flt with wdHours := l } }
    .next (if 3 ≤ l.length ∧ s.hif.state ≠ .fault then s1.enterFault else s1)

/-- NVM refuses a write: the device enters FAULT, once (R381). -/
def State.nvmRefuses (s : State) : State :=
  if s.hif.state = .fault then s else s.enterFault

/-- PAGE_FLUSH: 1 s after a record entered the page buffer. `taken`: NVM takes the write (log 88). -/
def execPageFlush (taken : Bool) (s : State) : Host.Outcome State Fault Refusal :=
  if !s.pwr.pwrgood then .next s
  else if taken then .next { s with evt := s.evt.flushPage } else .next s.nvmRefuses

/-! ### Start-up steps (R146, R316, R448, R449) -/

/-- A core whose TEMP_CAL, as its block gives it, is more than TRIG from the temperature at start-up falls due (R142). -/
def State.dueAt (s : State) (temp : Int) (l : List Nat) : State :=
  match l with
  | [] => s
  | c :: r =>
    (if (Tab.find s.cal.blk c).isSome && decide (s.cal.trig < (temp - (s.core c).tempCal).natAbs) then s.makeDue c false
     else s).dueAt temp r

/-- Step 6: Utensel writes the always-on buffer into the recorder. Where its own check does not complete the copy has failed (R427); the
core map, NVM and the security root pass or the device is in FAULT (R381); the blocks are checked and the ports begin to train. -/
def State.stepUtensel (s0 : State) (o : StartObs) : State :=
  let s := s0.openLog
  if !o.selfOk then s.copyFails
  else if !o.coreMapOk || !o.nvmOk || !o.secOk then s.enterFault
  else
    let s1 := (s.loadBlocks o.nvm (List.range 128)).dueAt o.temp (List.range 128)
    let s2 := (List.range 6).foldl (fun t p => t.startTraining p) s1
    { s2 with pwr := { s2.pwr with startStep := 7 } }

/-- Region 63, the recipe store: 1 GiB, hashed over all devices, first frames (R320, R322). -/
def storeRegion : Region :=
  { kind := 0xFF, index := 0, spread := 3, size := 1024, place := 0, base := (List.range 24).map (fun d => (d, 0)),
    frames := framesOf 3 1024 }

/-- Step 7: every device runs at the highest rate that all passed, and every frame is written; no memory contents survive. -/
def State.stepMemory (s : State) (o : StartObs) : State :=
  let rate := o.rates.foldl min 4
  let s1 := { s with mem := { s.mem with rate := rate, trained := if rate = 0 then 0 else 0xFFFFFF, regions := [(63, storeRegion)] },
                     store := { s.store with gddr := [] } }
  if rate = 0 then s1.stopStart 7 2 else { s1 with pwr := { s1.pwr with startStep := 8 } }

/-- Step 8: directed tests and captured patterns (R366). -/
def State.stepTests (s : State) (o : StartObs) : State :=
  let s1 := s.testFailures o.dtFail
  { s1 with pwr := { s1.pwr with startStep := 9 } }

/-- Every core calibrated from REXT, and its arrays characterised; they hold no weights (R120, R140, R141). -/
def State.startCores (s : State) (temp : Int) (cals : Tab CalObs) (l : List Nat) : State :=
  match l with
  | [] => s
  | c :: r => (if s.isAbsent c then s else s.calWhole c temp cals).startCores temp cals r

/-- Step 9: it waits for the spare-core moves that step 8 required, and below 5 °C for the die to heat itself (R449). -/
def State.stepCal (s : State) (o : StartObs) : State :=
  if !s.flt.moving.isEmpty || decide (o.temp < 5) then s
  else
    let s1 := s.startCores o.temp o.cals (List.range 128)
    { s1 with pwr := { s1.pwr with startStep := 10 } }

/-- Step 10: the table is published, and the boot declared good, which advances the rollback counter (R118, R428). -/
def State.stepGood (s : State) : State :=
  let s1 := s.publish
  { s1 with pwr := { s1.pwr with startStep := 11 },
            sec := { s1.sec with bootGood := true, rollback := if s1.sec.rollback.toNat < s1.fwCopy.svn.toNat then s1.fwCopy.svn
                                                               else s1.sec.rollback } }

/-- Step 11: READY. -/
def State.stepReady (s : State) : State :=
  let s1 := { s with pwr := { s.pwr with startStep := 0 } }
  let s2 := { s1 with pwr := { s1.pwr with supply := s1.supplyOf false (s1.pwr.supply == Supply.ovWarn) } }
  (s2.setState .ready).drain

/-- STARTUP_STEP: the step in progress completes; a brace holds it (R392). -/
def execStartupStep (o : StartObs) (s : State) : Host.Outcome State Fault Refusal :=
  if s.pwr.braced then .next s
  else
    match s.pwr.startStep with
    | 5 => .next (s.bootWith o.fwOk o.fwOk)
    | 6 => .next (s.stepUtensel o)
    | 7 => .next (s.stepMemory o)
    | 8 => .next (s.stepTests o)
    | 9 => .next (s.stepCal o)
    | 10 => .next s.stepGood
    | 11 => .next s.stepReady
    | _ => .next s

/-- SELF_HEAT_TIMEOUT: 120 s at step 9 without reaching 5 °C. -/
def execSelfHeatTimeout (s : State) : Host.Outcome State Fault Refusal :=
  if s.pwr.startStep = 9 then .next (s.stopStart 9 4) else .next s

/-! ### Resets (R353, R443, R444) -/

/-- MOD_RESET: the main side resets; a stopped start-up is over (R443, R449). -/
def execModReset (s : State) : Host.Outcome State Fault Refusal :=
  if s.pwr.modReset then .next s
  else
    let s1 := ({ s with pwr := { s.pwr with modReset := true } }).railsOff
    .next (s1.raise 0x1009 [])

/-- MOD_RESET_RELEASE: start-up resumes at the input checks, which MAIN_RAIL_ENABLE reports. -/
def execModResetRelease (s : State) : Host.Outcome State Fault Refusal :=
  .next { s with pwr := { s.pwr with modReset := false } }

/-- The function's reset: its rails and passes go, except the admin pair. -/
def State.resetFunction (s : State) : State :=
  s.resetMailbox s.hif.mboxEn

/-- PERST_ASSERT. -/
def execPerstAssert (s : State) : Host.Outcome State Fault Refusal :=
  .next ({ s with hif := { s.hif with perst := true } }).resetFunction

/-- PERST_RELEASE: the link trains; narrower than x8 the function stays in reset (R336, R444). -/
def execPerstRelease (width rate : Nat) (s : State) : Host.Outcome State Fault Refusal :=
  let s1 := { s with hif := { s.hif with perst := false, width := width, rate := rate, held := decide (width < 8) } }
  .next (if width < 8 then s1.raise 0x9103 [wd width, wd rate] else s1)

/-- FUNCTION_LEVEL_RESET: nothing when the host does not reach the function. -/
def execFunctionLevelReset (s : State) : Host.Outcome State Fault Refusal :=
  if s.hostUp then .next s.resetFunction else .next s

end Sys2Proof.Machine
end

