-- ==== Sys2Proof/Machine/Mgmt.lean ====
section
/-! DEFINITION. The management port's commands and requests (R410 to R414, R418, R426 to R431): the answer each gives is kept in
`sbm.rspStatus`, `sbm.rspData` and `sbm.rspBytes`. -/

namespace Sys2Proof.Machine

/-! ### Answers (R412, R413) -/

/-- Vendor status codes (R413). -/
def mgDone : Nat := 0x00
def mgBadParam : Nat := 0x01
def mgBadState : Nat := 0x02
def mgBusy : Nat := 0x03
def mgNotAuth : Nat := 0x05

/-- Completion codes of the PLDM, MCTP and SPDM standards (R411, R412). PRESUMED, log 31: safe to compare, unsafe as numbers. -/
def plSuccess : Nat := 0x00
def plError : Nat := 0x01
def plNotReady : Nat := 0x04
def plBadCmd : Nat := 0x05
def plBadType : Nat := 0x20
def plBadSensor : Nat := 0x80
def plIncomplete : Nat := 0x85
def spBusy : Nat := 0x03
def spUnspecified : Nat := 0x05

/-- An answer of bytes. -/
def State.rspB (s : State) (status : Nat) (bs : List Byte) : State :=
  let t := s.rsp status []
  { t with sbm := { t.sbm with rspBytes := bs } }

/-- A request that waits for the main rails: nothing without the always-on domain, the protocol's busy answer without the rails
(R412). -/
def State.needRails (s : State) (busy : Nat) (t : State) : State :=
  if !s.pwr.aon then s else if !s.pwr.pwrgood then s.rsp busy [] else t

/-- A command marked Secured: outside a mutually authenticated session status 0x05, and AUTH_FAIL (R413). -/
def State.needSession (s : State) (secured : Bool) (t : State) : State :=
  s.needRails mgBusy (if secured && s.sbm.session then t else (s.raise 0xA005 []).rsp mgNotAuth [])

/-! ### Locks and power (R394, R403, R413, R414, R443) -/

/-- LOCK (0x03): takes or releases the power lock or the security lock. -/
def execLock (power take : Bool) (s : State) : Host.Outcome State Fault Refusal :=
  .next (s.needRails mgBusy
    ((if power then s.setLocks take s.sbm.lockSecurity else s.setLocks s.sbm.lockPower take).rsp mgDone []))

/-- The latches of R394 and R403 released, and that of POWER_OFF. -/
def State.releaseLatches (s : State) : State :=
  { s with pwr := { s.pwr with ovLatch := false, thermLatch := false, offLatch := false, ovWait := false } }

/-- POWER_ON (0x04): status 0x02 while MOD_RESET_N is low, or once start-up has stopped (R443, R449). -/
def execPowerOn (s : State) : Host.Outcome State Fault Refusal :=
  if !s.pwr.aon then .next s
  else if s.pwr.modReset || s.pwr.startFail.isSome then .next (s.rsp mgBadState [])
  else
    let s1 := s.releaseLatches
    .next ((if enableRange s1.pwr.vin.toNat && s1.mayStartRails then s1.startRails else s1).rsp mgDone [])

/-- POWER_OFF (0x05): the main rails stay off until POWER_ON, or until the input has fallen below 34 V. -/
def execPowerOff (s : State) : Host.Outcome State Fault Refusal :=
  if !s.pwr.aon then .next s
  else .next (({ s with pwr := { s.pwr with offLatch := true } }).railsOff.rsp mgDone [])

/-- POWER_LIMIT (0x06): the host tickets for the limit in the same beat are DENIED, before it or after (R351). -/
def execMgmtPowerLimit (watts : Word) (s : State) : Host.Outcome State Fault Refusal :=
  .next (s.needRails mgBusy
    (if watts.toNat < 450 ∨ 1200 < watts.toNat then s.rsp mgBadParam []
     else (({ s with pwr := { s.pwr with limit := watts, mgmtLimit := s.pwr.tickDriven } }).endLimits stDenied s.hif.limits).rsp mgDone []))

/-! ### Owner and keys (R301, R413, R429, R431) -/

/-- OWNER_SET (0x10): accepted outside a session while no owner root is set. -/
def execOwnerSet (secured : Bool) (cert : List Byte) (s : State) : Host.Outcome State Fault Refusal :=
  let t := ({ s with sec := { s.sec with owner := some cert } }).rsp mgDone []
  .next (if s.sec.owner.isNone then s.needRails mgBusy t else s.needSession secured t)

/-- The recipes verified under a key slot unloaded: the running one stops at its next boundary, and its waiting tickets are ABORTED; a
waiting start of one that is gone is ABORTED too (R429). -/
def State.unloadKey (s : State) (slot : Nat) : State :=
  let named (h : Nat) : Bool := ((s.recipe h).map (fun r => r.head.keyId == slot)).getD false
  let running := s.runningRecipe.isSome && named s.rcp.handle
  let keep (h : Nat) : Bool := !named h || (running && h == s.rcp.handle)
  let s1 := { s with rcp := { s.rcp with
                slots := s.rcp.slots.filter (fun e => keep e.1),
                state := if running then .stopping else s.rcp.state,
                unloadAtStop := s.rcp.unloadAtStop || running } }
  let gone := (s.rcp.startNext.map (fun x => named x.1)).getD false
  let s2 := if gone then { s1 with rcp := { s1.rcp with startNext := none } } else s1
  match s2.hif.seqBusy with
  | some w =>
    if w.op = 0x0303 then (if gone then s2.complete w stAborted [] else s2)
    else if running then s2.abortList s2.hif.waitq else s2
  | none => if running then s2.abortList s2.hif.waitq else s2

/-- RECIPE_KEY (0x11): installs, replaces or deletes the key of slot 0 to 3. -/
def execRecipeKey (secured : Bool) (slot : Nat) (key : Option (List Byte)) (s : State) : Host.Outcome State Fault Refusal :=
  .next (s.needSession secured
    (if 3 < slot then s.rsp mgBadParam []
     else
       let keys := match key with
         | some k => Tab.put s.sec.keys slot k
         | none => Tab.del s.sec.keys slot
       ((({ s with sec := { s.sec with keys := keys } }).raise 0xA002 []).unloadKey slot).drain.rsp mgDone []))

/-- LINK_KEY (0x12): a pending AES-256 key of a port and direction, with the beat at which it switches. -/
def execLinkKey (secured : Bool) (port : Nat) (sending : Bool) (key : List Byte) (beat : Nat) (s : State) :
    Host.Outcome State Fault Refusal :=
  .next (s.needSession secured
    (if 6 ≤ port ∨ key.length ≠ 32 then s.rsp mgBadParam []
     else
       let k : LinkKey := { key := key, beat := beat, active := false }
       ({ s with sec := { s.sec with linkKeys := Tab.put s.sec.linkKeys (12 + 2 * port + b2n sending) k } }).rsp mgDone []))

/-- Every recipe key and link key erased (R431). -/
def State.eraseKeys (s : State) : State :=
  let t := ({ s with sec := { s.sec with keys := [], linkKeys := [], rsealed := 0 } }).raise 0xA003 []
  (((t.unloadKey 0).unloadKey 1).unloadKey 2).unloadKey 3

/-- DEBUG_UNLOCK (0x16): in LOCKED alone; it takes effect at the next start of the main rails, with `doSeal` for good. -/
def execDebugUnlock (secured doSeal : Bool) (s : State) : Host.Outcome State Fault Refusal :=
  .next (s.needSession secured
    (if s.sec.debug ≠ 1 then s.rsp mgBadState []
     else
       let t := s.eraseKeys
       let x := if doSeal then { t.sec with sealArmed := true } else { t.sec with unlockArmed := true }
       ({ t with sec := x }).drain.rsp mgDone []))

/-! ### The recorder and the histories (R361, R364, R373, R418) -/

/-- The first area emptied: what the queue holds is written before, and REC_CLEARED, past the queue, is the first record after (R418,
log 123). -/
def State.clearFirst (s : State) : State :=
  let t := s.drainLog
  let r := t.mkRecord 0xD003 []
  ({ t with evt := { t.evt with first := [], firstFull := false, srcSeq := t.evt.srcSeq + 1,
                                seen := bumpSeen t.evt.seen (0xD003, 0) } }).writeRecord r

/-- REC_CLEAR (0x13). -/
def execRecClear (secured : Bool) (s : State) : Host.Outcome State Fault Refusal :=
  .next (s.needSession secured (s.clearFirst.rsp mgDone []))

/-- The words of a captured pattern: class, unit, opcode, hour, fields, operands and output; its layout is not stated (log 9). -/
def Pattern.words (p : Pattern) : List Word :=
  [wd p.cls, wd p.unit, wd p.opcode, wd p.hour, wd p.fields.length, wd p.operands.length] ++ p.fields ++ p.operands
    ++ p.output

/-- The quarantine list: the units that are PERMANENT or RETIRED. -/
def State.quarantined (s : State) : List UnitHist :=
  s.flt.hist.filter (fun e => e.state == .permanent || e.state == .retired)

/-- The classes whose entries always exist (R362). -/
def fixedClasses : List Nat :=
  [uCore, uArray, uDga, uAdder, uPort, uLane, uGddr]

/-- Every unit-history entry: those that always exist, in class and unit order, and those of the pool (R362). -/
def State.allHist (s : State) : List UnitHist :=
  fixedClasses.flatMap (fun c => (List.range (unitCount c)).map (fun u => s.histOf c u)) ++ s.flt.hist.filter (fun e => pooled e.cls)

/-- What EXPORT returns, without its pages. -/
def State.exportBytes (s : State) : List Byte :=
  wordBytes (s.flt.patterns.flatMap Pattern.words ++ s.quarantined.map (fun e => wd (e.cls * 2 ^ 28 + e.unit))
    ++ s.allHist.flatMap UnitHist.words)

/-- EXPORT (0x14): one page of 4,096 bytes; a page past the last is a bad parameter. -/
def execExportData (secured : Bool) (page : Nat) (s : State) : Host.Outcome State Fault Refusal :=
  let bs := (s.exportBytes.drop (4096 * page)).take 4096
  .next (s.needSession secured
    (if bs.isEmpty && page != 0 then s.rsp mgBadParam []
     else s.rspB mgDone (bs ++ List.replicate (4096 - bs.length) 0)))

/-- A port whose classification is cleared is powered and may train again (R294, R397). -/
def State.unitCleared (s : State) (cls unit : Nat) : State :=
  if cls = uPort then s.putPort unit { s.port unit with downNext := false } else s

/-- CLASS_CLEAR (0x15): refused for a RETIRED unit; a unit without an entry is CLEAN as it stands. -/
def execClassClear (secured : Bool) (cls unit : Nat) (s : State) : Host.Outcome State Fault Refusal :=
  .next (s.needSession secured
    (if unitCount cls ≤ unit then s.rsp mgBadParam []
     else
       match s.hist? cls unit with
       | none => s.rsp mgDone []
       | some e =>
         if e.state = .retired then s.rsp mgBadState []
         else ((s.clearHist cls unit).unitCleared cls unit).rsp mgDone []))

/-! ### MCTP and PLDM (R410, R411, R426, R428) -/

/-- MCTP_CONTROL: the bus owner's EID is taken; another control request is answered as MCTP 1.3 says. -/
def execMctpControl (c : MctpCtl) (s : State) : Host.Outcome State Fault Refusal :=
  if !s.pwr.aon then .next s
  else
    match c with
    | .setEid eid => .next (({ s with sbm := { s.sbm with eid := eid } }).rsp plSuccess [])
    | .other code => .next (s.rspB plSuccess [Config.responseByte code 0])

/-- The MCTP message types the port accepts (R410). -/
def mctpTypes : List Nat := [0x00, 0x01, 0x05, 0x06, 0x7E]

/-- MCTP_UNSUPPORTED_TYPE: the message is discarded and counted. -/
def execMctpUnsupportedType (ty : Nat) (s : State) : Host.Outcome State Fault Refusal :=
  if !s.pwr.aon || mctpTypes.contains ty then .next s else .next (s.count cSbmDrop 1)

/-- PLDM_BASE: Type 0 works without the main rails; GetPLDMTypes (4) names types 0, 2 and 5. -/
def execPldmBase (cmd : Nat) (s : State) : Host.Outcome State Fault Refusal :=
  if !s.pwr.aon then .next s
  else if cmd = 4 then .next (s.rspB plSuccess (0x25 :: List.replicate 7 0))
  else if 1 ≤ cmd ∧ cmd ≤ 5 then .next (s.rspB plSuccess [Config.responseByte (0x100 + cmd) 0])
  else .next (s.rsp plBadCmd [])

/-- PLDM_SENSOR_READ: status and value of a sensor; without the main rails the power-stage, input and coolant sensors alone (R412). -/
def execPldmSensorRead (id : Nat) (s : State) : Host.Outcome State Fault Refusal :=
  if !s.pwr.aon then .next s
  else
    match s.sensor id with
    | none => .next (s.rsp (if s.pwr.pwrgood then plBadSensor else plNotReady) [])
    | some v =>
      if v.2 && !s.pwr.pwrgood then .next (s.rsp plNotReady [])
      else .next ((s.draw 1).rsp plSuccess [wd (s.sensorStatus v.2), v.1])

/-- PLDM_UNSUPPORTED_TYPE: ERROR_INVALID_PLDM_TYPE. -/
def execPldmUnsupportedType (ty : Nat) (s : State) : Host.Outcome State Fault Refusal :=
  if ty = 0 ∨ ty = 2 ∨ ty = 5 then .next s else .next (s.needRails plNotReady (s.rsp plBadType []))

/-- The inactive firmware copy. -/
def Sec.inactive (x : Sec) : FwCopy :=
  if x.fwB then x.copyA else x.copyB

/-- The inactive firmware copy replaced; an activation of what it held is over. -/
def Sec.putInactive (x : Sec) (c : FwCopy) : Sec :=
  if x.fwB then { x with copyA := c, activate := false } else { x with copyB := c, activate := false }

/-- The end of a transfer: an image below the rollback counter is refused; the ROM's key verifies the rest (R428). -/
def State.imageDone (s : State) (ok : Bool) (svn build : Half) : State :=
  let s1 := { s with sbm := { s.sbm with fwDone := none } }
  if svn.toNat < s.sec.rollback.toNat then (s1.raise 0xA004 []).rsp plError []
  else if !ok || s.sbm.fwImage.isEmpty then s1.rsp plError []
  else
    ({ s1 with sec := s1.sec.putInactive { svn := svn, build := build, valid := true, hash := Config.sha384 s.sbm.fwImage },
               sbm := { s1.sbm with fwDone := some (true, svn, build) } }).rsp plSuccess []

/-- PLDM_FIRMWARE_UPDATE: Type 5 writes the inactive copy, which does not boot until an image there has verified. -/
def execPldmFirmwareUpdate (c : FwCmd) (s : State) : Host.Outcome State Fault Refusal :=
  .next (s.needRails plNotReady
    (match c with
     | .request => ({ s with sbm := { s.sbm with fwImage := [], fwDone := none } }).rsp plSuccess []
     | .data bs => ({ s with sbm := { s.sbm with fwImage := s.sbm.fwImage ++ bs, fwDone := none },
                             sec := s.sec.putInactive { s.sec.inactive with valid := false } }).rsp plSuccess []
     | .done ok svn build => s.imageDone ok svn build))

/-- ACTIVATE_FIRMWARE: accepted once the image has verified; a self-contained activation restarts the main rails (R428). -/
def execActivateFirmware (selfContained : Bool) (s : State) : Host.Outcome State Fault Refusal :=
  .next (s.needRails plNotReady
    (match s.sbm.fwDone with
     | none => s.rsp plIncomplete []
     | some d =>
       if d.2.1.toNat < s.sec.rollback.toNat then (s.raise 0xA004 []).rsp plError []
       else
       let s1 := ({ s with sec := { s.sec with activate := true }, sbm := { s.sbm with fwDone := none } }).rsp plSuccess []
       if !selfContained then s1
       else
         let s2 := s1.railsOff
         if enableRange s2.pwr.vin.toNat && s2.mayStartRails then s2.startRails else s2))

/-! ### SPDM (R430) -/

/-- SPDM_GET_CERTIFICATE: the chain of slot 0, the same that CERT_READ returns. -/
def execSpdmGetCertificate (s : State) : Host.Outcome State Fault Refusal :=
  .next (s.needRails spBusy (s.rspB plSuccess Config.certChain))

/-- SPDM_CHALLENGE: the chain's hash and the nonce, signed with the identity key; the message's layout is not stated (log 9). -/
def execSpdmChallenge (nonce : List Byte) (s : State) : Host.Outcome State Fault Refusal :=
  let m := Config.sha384 Config.certChain ++ nonce
  .next (s.needRails spBusy (s.rspB plSuccess (m ++ Config.identitySign m)))

/-- SPDM_GET_MEASUREMENTS: the measurements that MEASURE signs for the host, signed. -/
def execSpdmGetMeasurements (nonce : List Byte) (s : State) : Host.Outcome State Fault Refusal :=
  let m := nonce ++ s.measurements
  .next (s.needRails spBusy (s.rspB plSuccess (m ++ Config.identitySign m)))

/-- SPDM_KEY_EXCHANGE: `chains` says that the requester's certificate chains to the owner root, without which no session opens (R413). -/
def execSpdmKeyExchange (chains : Bool) (s : State) : Host.Outcome State Fault Refusal :=
  .next (s.needRails spBusy
    (if chains && s.sec.owner.isSome then
       ({ s with sbm := { s.sbm with session := true } }).rspB plSuccess [Config.responseByte 0x5E4 0]
     else s.rsp spUnspecified []))

end Sys2Proof.Machine
end

