-- ==== Sys2Proof/Machine/Dispatch.lean ====
section
/-! DEFINITION. Which meaning each command has: one arm for each constructor of Instr. -/

namespace Sys2Proof.Machine

/-- The effect of one command on everything but the queue. -/
def exec (i : Instr) (s : State) : Host.Outcome State Fault Refusal :=
  match i with
  | .identify t => Sys2Proof.Machine.execIdentify t s
  | .createRail t => Sys2Proof.Machine.execCreateRail t s
  | .deleteRail t => Sys2Proof.Machine.execDeleteRail t s
  | .createPass t => Sys2Proof.Machine.execCreatePass t s
  | .deletePass t => Sys2Proof.Machine.execDeletePass t s
  | .status t => Sys2Proof.Machine.execStatus t s
  | .memWrite t => Sys2Proof.Machine.execMemWrite t s
  | .memRead t g => Sys2Proof.Machine.execMemRead t g s
  | .regionQuery t => Sys2Proof.Machine.execRegionQuery t s
  | .regionFree t => Sys2Proof.Machine.execRegionFree t s
  | .recipeLoad t => Sys2Proof.Machine.execRecipeLoad t s
  | .recipeUnload t => Sys2Proof.Machine.execRecipeUnload t s
  | .recipeStart t => Sys2Proof.Machine.execRecipeStart t s
  | .recipeStop t => Sys2Proof.Machine.execRecipeStop t s
  | .stepRun t => Sys2Proof.Machine.execStepRun t s
  | .invoke t => Sys2Proof.Machine.execInvoke t s
  | .ckptSave t => Sys2Proof.Machine.execCkptSave t s
  | .ckptRestore t => Sys2Proof.Machine.execCkptRestore t s
  | .shadowCfg t accepted => Sys2Proof.Machine.execShadowCfg t accepted s
  | .shadowRestore t img => Sys2Proof.Machine.execShadowRestore t img s
  | .calRun t => Sys2Proof.Machine.execCalRun t s
  | .sctRead t => Sys2Proof.Machine.execSctRead t s
  | .testEnter t => Sys2Proof.Machine.execTestEnter t s
  | .testLeave t fails => Sys2Proof.Machine.execTestLeave t fails s
  | .directedTest t fails => Sys2Proof.Machine.execDirectedTest t fails s
  | .eventRead t => Sys2Proof.Machine.execEventRead t s
  | .historyRead t => Sys2Proof.Machine.execHistoryRead t s
  | .ratioRead t => Sys2Proof.Machine.execRatioRead t s
  | .telemetryRead t => Sys2Proof.Machine.execTelemetryRead t s
  | .setWakeTol t => Sys2Proof.Machine.execSetWakeTol t s
  | .idleEnter t => Sys2Proof.Machine.execIdleEnter t s
  | .idleExit t nvm => Sys2Proof.Machine.execIdleExit t nvm s
  | .powerLimit t => Sys2Proof.Machine.execPowerLimit t s
  | .powerQuery t => Sys2Proof.Machine.execPowerQuery t s
  | .domainSet t => Sys2Proof.Machine.execDomainSet t s
  | .groupDefine t => Sys2Proof.Machine.execGroupDefine t s
  | .groupDelete t => Sys2Proof.Machine.execGroupDelete t s
  | .beatSet t => Sys2Proof.Machine.execBeatSet t s
  | .domainJoin t => Sys2Proof.Machine.execDomainJoin t s
  | .linkQuery t => Sys2Proof.Machine.execLinkQuery t s
  | .secQuery t => Sys2Proof.Machine.execSecQuery t s
  | .certRead t => Sys2Proof.Machine.execCertRead t s
  | .measure t => Sys2Proof.Machine.execMeasure t s
  | .ticketBadOpcode op t => Sys2Proof.Machine.execTicketBadOpcode op t s
  | .railTail n v => Sys2Proof.Machine.execRailTail n v s
  | .passHead n v => Sys2Proof.Machine.execPassHead n v s
  | .ticketFetch n read => Sys2Proof.Machine.execTicketFetch n read s
  | .completionWrite n => Sys2Proof.Machine.execCompletionWrite n s
  | .passTimer n => Sys2Proof.Machine.execPassTimer n s
  | .mboxEnSet => Sys2Proof.Machine.execMboxEnSet s
  | .mboxDisable => Sys2Proof.Machine.execMboxDisable s
  | .mboxReset => Sys2Proof.Machine.execMboxReset s
  | .registerWrite off v hwSet => Sys2Proof.Machine.execRegisterWrite off v hwSet s
  | .rcCounterRead off hwAdd => Sys2Proof.Machine.execRcCounterRead off hwAdd s
  | .lowWordRead m off => Sys2Proof.Machine.execLowWordRead m off s
  | .badAccess m write off size => Sys2Proof.Machine.execBadAccess m write off size s
  | .anaRowlimWrite v => Sys2Proof.Machine.execAnaRowlimWrite v s
  | .anaCtlWrite v => Sys2Proof.Machine.execAnaCtlWrite v s
  | .calCtlWrite v => Sys2Proof.Machine.execCalCtlWrite v s
  | .calCmdGo v => Sys2Proof.Machine.execCalCmdGo v s
  | .memPatrolCfgWrite v => Sys2Proof.Machine.execMemPatrolCfgWrite v s
  | .tgGo dev v => Sys2Proof.Machine.execTgGo dev v s
  | .tgStop dev v => Sys2Proof.Machine.execTgStop dev v s
  | .tgRunDone dev errors first => Sys2Proof.Machine.execTgRunDone dev errors first s
  | .regRead off => Sys2Proof.Machine.execRegRead off s
  | .regWrite off v => Sys2Proof.Machine.execRegWrite off v s
  | .lock power take => Sys2Proof.Machine.execLock power take s
  | .powerOn => Sys2Proof.Machine.execPowerOn s
  | .powerOff => Sys2Proof.Machine.execPowerOff s
  | .mgmtPowerLimit watts => Sys2Proof.Machine.execMgmtPowerLimit watts s
  | .ownerSet secured cert => Sys2Proof.Machine.execOwnerSet secured cert s
  | .recipeKey secured slot key => Sys2Proof.Machine.execRecipeKey secured slot key s
  | .linkKey secured port sending key beat => Sys2Proof.Machine.execLinkKey secured port sending key beat s
  | .recClear secured => Sys2Proof.Machine.execRecClear secured s
  | .exportData secured page => Sys2Proof.Machine.execExportData secured page s
  | .classClear secured cls unit => Sys2Proof.Machine.execClassClear secured cls unit s
  | .debugUnlock secured doSeal => Sys2Proof.Machine.execDebugUnlock secured doSeal s
  | .mctpControl c => Sys2Proof.Machine.execMctpControl c s
  | .mctpUnsupportedType ty => Sys2Proof.Machine.execMctpUnsupportedType ty s
  | .pldmBase cmd => Sys2Proof.Machine.execPldmBase cmd s
  | .pldmSensorRead id => Sys2Proof.Machine.execPldmSensorRead id s
  | .pldmUnsupportedType ty => Sys2Proof.Machine.execPldmUnsupportedType ty s
  | .pldmFirmwareUpdate c => Sys2Proof.Machine.execPldmFirmwareUpdate c s
  | .activateFirmware selfContained => Sys2Proof.Machine.execActivateFirmware selfContained s
  | .spdmGetCertificate => Sys2Proof.Machine.execSpdmGetCertificate s
  | .spdmChallenge nonce => Sys2Proof.Machine.execSpdmChallenge nonce s
  | .spdmGetMeasurements nonce => Sys2Proof.Machine.execSpdmGetMeasurements nonce s
  | .spdmKeyExchange chains => Sys2Proof.Machine.execSpdmKeyExchange chains s
  | .alwaysOnPowerUp mgmtSel addr => Sys2Proof.Machine.execAlwaysOnPowerUp mgmtSel addr s
  | .inputBelow34V mv => Sys2Proof.Machine.execInputBelow34V mv s
  | .mainRailEnable mv => Sys2Proof.Machine.execMainRailEnable mv s
  | .railPowerGoodTimeout rail => Sys2Proof.Machine.execRailPowerGoodTimeout rail s
  | .domainRetry dom good nvm => Sys2Proof.Machine.execDomainRetry dom good nvm s
  | .startupStep o => Sys2Proof.Machine.execStartupStep o s
  | .selfHeatTimeout => Sys2Proof.Machine.execSelfHeatTimeout s
  | .firmwareBoot aOk bOk => Sys2Proof.Machine.execFirmwareBoot aOk bOk s
  | .bootWatchdog => Sys2Proof.Machine.execBootWatchdog s
  | .sysctlWatchdog => Sys2Proof.Machine.execSysctlWatchdog s
  | .pwrWarn mv => Sys2Proof.Machine.execPwrWarn mv s
  | .braceLeave mv lowest us => Sys2Proof.Machine.execBraceLeave mv lowest us s
  | .pwrUvReset mv => Sys2Proof.Machine.execPwrUvReset mv s
  | .pwrOvw mv => Sys2Proof.Machine.execPwrOvw mv s
  | .ovWarnClear mv => Sys2Proof.Machine.execOvWarnClear mv s
  | .pwrOvShut mv => Sys2Proof.Machine.execPwrOvShut mv s
  | .ovRestart mv => Sys2Proof.Machine.execOvRestart mv s
  | .thermShutdown src temp => Sys2Proof.Machine.execThermShutdown src temp s
  | .modReset => Sys2Proof.Machine.execModReset s
  | .modResetRelease => Sys2Proof.Machine.execModResetRelease s
  | .perstAssert => Sys2Proof.Machine.execPerstAssert s
  | .perstRelease width rate => Sys2Proof.Machine.execPerstRelease width rate s
  | .functionLevelReset => Sys2Proof.Machine.execFunctionLevelReset s
  | .bar4Access write off len g => Sys2Proof.Machine.execBar4Access write off len g s
  | .cablePresentChange port present => Sys2Proof.Machine.execCablePresentChange port present s
  | .portRetrain port => Sys2Proof.Machine.execPortRetrain port s
  | .portTrainingDone port o => Sys2Proof.Machine.execPortTrainingDone port o s
  | .laneDrop port lane => Sys2Proof.Machine.execLaneDrop port lane s
  | .laneRetrain port lane good => Sys2Proof.Machine.execLaneRetrain port lane good s
  | .retryBlockFail port seq lane uncorr data crc => Sys2Proof.Machine.execRetryBlockFail port seq lane uncorr data crc s
  | .linkResendRequest port seq => Sys2Proof.Machine.execLinkResendRequest port seq s
  | .creditReturn port vc bytes => Sys2Proof.Machine.execCreditReturn port vc bytes s
  | .packetRoute p => Sys2Proof.Machine.execPacketRoute p s
  | .e2eResendTimeout id => Sys2Proof.Machine.execE2eResendTimeout id s
  | .routeTableReceive gen beat dead down => Sys2Proof.Machine.execRouteTableReceive gen beat dead down s
  | .sealTagFail port seq => Sys2Proof.Machine.execSealTagFail port seq s
  | .tickMessage m skew => Sys2Proof.Machine.execTickMessage m skew s
  | .beatTick pavg => Sys2Proof.Machine.execBeatTick pavg s
  | .epochFenceStall => Sys2Proof.Machine.execEpochFenceStall s
  | .flywheelTick pavg => Sys2Proof.Machine.execFlywheelTick pavg s
  | .masterChange => Sys2Proof.Machine.execMasterChange s
  | .windowClose o => Sys2Proof.Machine.execWindowClose o s
  | .beatReport r => Sys2Proof.Machine.execBeatReport r s
  | .stretchLimit => Sys2Proof.Machine.execStretchLimit s
  | .slotStart slot => Sys2Proof.Machine.execSlotStart slot s
  | .sequencerWaitRelease d => Sys2Proof.Machine.execSequencerWaitRelease d s
  | .nop d e => Sys2Proof.Machine.execNop d e s
  | .amp d e => Sys2Proof.Machine.execAmp d e s
  | .dmp d e => Sys2Proof.Machine.execDmp d e s
  | .diag d e => Sys2Proof.Machine.execDiag d e s
  | .ewise d e => Sys2Proof.Machine.execEwise d e s
  | .reduce d e => Sys2Proof.Machine.execReduce d e s
  | .softmax d e => Sys2Proof.Machine.execSoftmax d e s
  | .norm d e => Sys2Proof.Machine.execNorm d e s
  | .deriv d e => Sys2Proof.Machine.execDeriv d e s
  | .softmaxBwd d e => Sys2Proof.Machine.execSoftmaxBwd d e s
  | .normBwd d e => Sys2Proof.Machine.execNormBwd d e s
  | .lossXent d e => Sys2Proof.Machine.execLossXent d e s
  | .gather d e => Sys2Proof.Machine.execGather d e s
  | .scatter d e => Sys2Proof.Machine.execScatter d e s
  | .scatterAdd d e => Sys2Proof.Machine.execScatterAdd d e s
  | .convert d e => Sys2Proof.Machine.execConvert d e s
  | .quantise d e => Sys2Proof.Machine.execQuantise d e s
  | .push d e => Sys2Proof.Machine.execPush d e s
  | .pop d e => Sys2Proof.Machine.execPop d e s
  | .popPrefetch cluster bytes e => Sys2Proof.Machine.execPopPrefetch cluster bytes e s
  | .stashWriteback cluster bytes e => Sys2Proof.Machine.execStashWriteback cluster bytes e s
  | .move d e => Sys2Proof.Machine.execMove d e s
  | .transpose d e => Sys2Proof.Machine.execTranspose d e s
  | .gatherMem d e => Sys2Proof.Machine.execGatherMem d e s
  | .expand d e => Sys2Proof.Machine.execExpand d e s
  | .allreduce d e => Sys2Proof.Machine.execAllreduce d e s
  | .reduceScatter d e => Sys2Proof.Machine.execReduceScatter d e s
  | .allgather d e => Sys2Proof.Machine.execAllgather d e s
  | .broadcast d e => Sys2Proof.Machine.execBroadcast d e s
  | .sendrecv d e => Sys2Proof.Machine.execSendrecv d e s
  | .collPacket port vc p o => Sys2Proof.Machine.execCollPacket port vc p o s
  | .collComplete vc => Sys2Proof.Machine.execCollComplete vc s
  | .update d e => Sys2Proof.Machine.execUpdate d e s
  | .awrite d e => Sys2Proof.Machine.execAwrite d e s
  | .compare d e => Sys2Proof.Machine.execCompare d e s
  | .digestTensor d e => Sys2Proof.Machine.execDigestTensor d e s
  | .digestExchange d e peers copy => Sys2Proof.Machine.execDigestExchange d e peers copy s
  | .fence d e => Sys2Proof.Machine.execFence d e s
  | .commit d e shadowArrived => Sys2Proof.Machine.execCommit d e shadowArrived s
  | .replayStart => Sys2Proof.Machine.execReplayStart s
  | .replayLimit => Sys2Proof.Machine.execReplayLimit s
  | .boundaryApply => Sys2Proof.Machine.execBoundaryApply s
  | .scrubStep core bank pos finds sigma => Sys2Proof.Machine.execScrubStep core bank pos finds sigma s
  | .scrubLate core bank ageUs => Sys2Proof.Machine.execScrubLate core bank ageUs s
  | .scrubAgeLimit core bank => Sys2Proof.Machine.execScrubAgeLimit core bank s
  | .arrayReplace array => Sys2Proof.Machine.execArrayReplace array s
  | .calBankRun core bank o => Sys2Proof.Machine.execCalBankRun core bank o s
  | .dieTempSample cd0 cd1 iod clusters => Sys2Proof.Machine.execDieTempSample cd0 cd1 iod clusters s
  | .coolantSample inlet outlet => Sys2Proof.Machine.execCoolantSample inlet outlet s
  | .checksumWindow array => Sys2Proof.Machine.execChecksumWindow array s
  | .tasting array => Sys2Proof.Machine.execTasting array s
  | .patrolScrub region frame g lost => Sys2Proof.Machine.execPatrolScrub region frame g lost s
  | .frameRepair region frame src data => Sys2Proof.Machine.execFrameRepair region frame src data s
  | .memTempSample dev temp => Sys2Proof.Machine.execMemTempSample dev temp s
  | .evacClear => Sys2Proof.Machine.execEvacClear s
  | .localise core o => Sys2Proof.Machine.execLocalise core o s
  | .coreSpare core failing us cals => Sys2Proof.Machine.execCoreSpare core failing us cals s
  | .deviceLost dev choice => Sys2Proof.Machine.execDeviceLost dev choice s
  | .replicaDrop dev members => Sys2Proof.Machine.execReplicaDrop dev members s
  | .shadowTraffic m => Sys2Proof.Machine.execShadowTraffic m s
  | .recordWrite => Sys2Proof.Machine.execRecordWrite s
  | .pageFlush taken => Sys2Proof.Machine.execPageFlush taken s
  | .operatingHourTick => Sys2Proof.Machine.execOperatingHourTick s
  | .coreWatchdog core => Sys2Proof.Machine.execCoreWatchdog core s
  | .endToEndAcknowledgement id => Sys2Proof.Machine.execEndToEndAcknowledgement id s
  | .retryBlockAcknowledgement port seq corr => Sys2Proof.Machine.execRetryBlockAcknowledgement port seq corr s
  | .highWordRead m off => Sys2Proof.Machine.execHighWordRead m off s

end Sys2Proof.Machine
end

