-- ==== Sys2Proof/Safety.lean ====
section
/-! DEFINITION. What the claims say of runs and states, in the terms the statements use: states a step goes on from, canonical
memories, and the conditions under which the module takes a ticket. -/

namespace Sys2Proof.Machine

/-- The step from a state answers a next state: neither a fault nor a refusal. -/
def State.goesOn (s : State) : Prop :=
  ∃ t, step s = .next t

/-- The heads of the Stockpots are in canonical form. -/
def headsOk (l : Tab Stk) : Prop :=
  ∀ e ∈ l, Mem.wf e.2.head

/-- Every memory is in its canonical form: the stores, the devices, the host's, and the Stockpots' heads, with those a replay returns to. -/
def State.memOk (s : State) : Prop :=
  Mem.wf s.store.lstore ∧ Mem.wf s.store.cstore ∧ Mem.wf s.store.gddr ∧ Mem.wf s.store.host ∧ headsOk s.stk
    ∧ ∀ v, s.stp.saved = some v → headsOk v.stk

/-- Nothing of the mailbox goes on by itself: no ticket waits or runs, and the device is neither lost nor failed. -/
abbrev State.hostStill (s : State) : Prop :=
  s.hif.waitq = [] ∧ s.hif.deleting = [] ∧ s.hif.seqBusy = none ∧ s.hif.state ≠ .lost ∧ s.hif.state ≠ .fault

/-- The message whose tick a device takes: the master's own, or the one received (R302, R303). -/
def State.tickOf (s : State) (m : TickMsg) : Prop :=
  (s.lnk.master = s.device ∧ s.masterTick = m) ∨ (s.lnk.master ≠ s.device ∧ s.lnk.tickRx = some m)

/-- A step or invocation in progress that no replay awaits, whose ticket runs and nothing else waits: what a tick decides for it is all
that the tick does to the mailbox. -/
abbrev State.stepping (s : State) (w : WaitTicket) : Prop :=
  s.stp.active = true ∧ s.stp.begun = true ∧ s.stp.halted = false ∧ s.stp.replayDue = none ∧ s.hif.seqBusy = some w ∧ (w.op = 0x0401 ∨ w.op = 0x0402)
    ∧ s.hif.waitq = [] ∧ s.hif.deleting = [] ∧ s.hif.state ≠ .lost ∧ s.hif.state ≠ .fault

/-- What NVM gives when each block reads as it was last written (R146). -/
def asWritten : NvmRead :=
  { cal := [], remap := [] }

/-! ### A descriptor that runs with nothing to report -/

/-- What the environment reports when nothing happened. -/
def calm : Env :=
  { stall := 0, storeCe := [], storeUe := none, mem := { ce := [], ue := [] }, late := false, popWait := 0, adds := [] }

/-- The state takes a descriptor now: its slot runs, what it waits for has completed, and none of its sources is marked. -/
abbrev State.takes (s : State) (d : Desc) : Prop :=
  s.runs d = true ∧ s.mustWait d = false ∧ s.descPoison d = []

/-- The bytes of D in the local store that a descriptor writes when D names no region, by its first byte. -/
def Desc.localAt (d : Desc) : Nat :=
  Desc.home d * localBytes + (Desc.opD d).addr

/-- A run of n bytes of an operand lies in its region, which the keys of the region bytes tell from every other. -/
def State.fits (s : State) (o : Opnd) (n : Nat) : Prop :=
  o.mem = true → s.regionBytes o.region ≤ 2 ^ 40 ∧ n ≤ s.roomOf o

/-- A place outside a run of n bytes from a on. -/
abbrev clearOf (x a n : Nat) : Prop :=
  x < a ∨ a + n ≤ x

/-- Of all memories a step changes only the given runs, each an operand with a number of bytes, the operands of the core's stores read from that
core: every other byte of the stores, of the regions as the attempt sees them, and of the host's memory reads as before, and what others
see of the bank pairs and of the regions written in place does not change at all (R205, R257). -/
def State.onlyAt (s t : State) (core : Nat) (l : List (Opnd × Nat)) : Prop :=
  (∀ e ∈ l, s.fits e.1 e.2) →
    t.store.host = s.store.host
    ∧ (∀ x, (∀ e ∈ l, e.1.mem = false → e.1.addr < localBytes → clearOf x (core * localBytes + e.1.addr) e.2) →
      Mem.get t.store.lstore x = Mem.get s.store.lstore x)
    ∧ (∀ x, (∀ e ∈ l, e.1.mem = false → localBytes ≤ e.1.addr → clearOf x (core / 8 * clusterBytes + (e.1.addr - clusterBase)) e.2) →
      Mem.get t.store.cstore x = Mem.get s.store.cstore x)
    ∧ (∀ r off, s.regionBytes r ≤ 2 ^ 40 → off < s.roomOf (regionAt r 0) →
      ((∀ e ∈ l, e.1.mem = true → e.1.region = r → clearOf off e.1.addr e.2) → t.regRead true r off 1 = s.regRead true r off 1)
      ∧ (pairKind (s.regionKind r) = true ∨ openKind (s.regionKind r) = true → t.regRead false r off 1 = s.regRead false r off 1))

/-- Where the outlier parts end that a QUANTISE writes from an address on: those of its arrays, one after the other (R98). -/
def State.partsEnd (s : State) (d : Desc) (q : QCfg) (cols : List (List Word)) (ns : List Nat) (part : Nat) : Nm Nat :=
  match ns with
  | [] => return part
  | n :: rest => do
    let x ← s.quantArray d q cols n part
    x.1.partsEnd d q cols rest x.2.1

/-- The bytes that a QUANTISE writes: image, planes, outlier parts, the records of its groups, and the spill lists (R56, R98, R104, R212). -/
def State.quantPlaces (s : State) (d : Desc) : List (Opnd × Nat) :=
  let q := s.qCfg d
  let n := min (qNarr d) (cdiv q.k 1024 * cdiv q.cols 512)
  let last := ((do
    let ws ← s.masters q.md true (Desc.opA d).region (Desc.opA d).addr (q.k * q.cols)
    s.partsEnd d q (chunk q.k q.cols ws) (List.range n) (qOutl d) : Nm Nat).run fx0).1
  [(Desc.opD d, n * imageBytes q.fmt), (Desc.opB d, n * planeBytes), ({ Desc.opD d with addr := qOutl d }, last - qOutl d)]
    ++ (s.regionOfKind 6).toList.map (fun r => (regionAt r (8 * q.base), 8 * (q.cols * q.per)))
    ++ (s.regionOfKind 7).toList.map (fun r => (regionAt r 0, s.regionBytes r))

/-- The bytes that an UPDATE of a layer writes: masters, their comp plane, and the moments (R205, R206, R209). -/
def State.updatePlaces (s : State) (d : Desc) (l : Layer) : List (Opnd × Nat) :=
  let n := uCount d
  [(Desc.opB d, 4 * n), ((Desc.opC d).at (uFirst d * momBytes d), n * momBytes d)]
    ++ (s.regionOfKind 4).toList.map (fun c => (regionAt c ((Desc.opB d).addr / 2), 2 * n))
    ++ (if uOpt d = 2 then [((Desc.opC d).at ((l.masters + uFirst d) * momBytes d), n * momBytes d)] else [])

/-- A run of bytes stored in the local stores from an address on: it reads back, every byte beside it reads as before, and no other
memory changes. -/
def State.stored (s t : State) (a : Nat) (bs : List Byte) : Prop :=
  Mem.read t.store.lstore a bs.length = bs
    ∧ (∀ x, x < a ∨ a + bs.length ≤ x → Mem.get t.store.lstore x = Mem.get s.store.lstore x)
    ∧ t.store = { s.store with lstore := t.store.lstore }

/-! ### A ticket that starts at once (R346, R349 to R352, R401) -/

/-- The bytes ADDR is aligned to: none asked, 64 for a buffer, 4,096 for a ring (R355). -/
def alignOf (a : Nat) : Nat :=
  if a = 1 then 64 else if a = 2 then 4096 else 1

/-- The layout of a ticket with n parameter words and alignment code a (R349): reserved bits and unused words zero, ADDR aligned,
and a well-formed list where it gives one. -/
structure LayoutOk (k : Ticket) (n a : Nat) : Prop where
  rsvd : k.rsvd = 0
  unused : ∀ x ∈ k.p.drop n, x = 0
  aligned : k.addr.toNat % alignOf a = 0
  list : k.sgl = true → a = 1 → k.len.toNat = 16 * k.segs.length ∧ ∀ g ∈ k.segs, g.addr % 64 = 0 ∧ g.rsvd = 0

/-- A rail whose tickets in flight are none, or the one whose command now comes: read as TICKET_FETCH read it (R346, R349). -/
def Rail.readyFor (r : Rail) (op : Half) (k : Ticket) : Prop :=
  r.inflight = []
    ∨ ∃ ws, r.inflight = [{ id := k.slot, op := op, tag := k.tag, words := ws, taken := false }] ∧ readTicket ws k = k

/-- A mailbox that runs and has nothing else to do: the ticket's rail and pass exist, no other ticket of the rail is in flight, none
waits, no sequenced one runs, and no step or boundary is in progress. -/
structure MailboxFree (s : State) (op : Half) (k : Ticket) : Prop where
  on : s.hif.mboxEn = true
  up : s.hif.state ≠ .boot
  rail : ∃ r, Tab.find s.hif.rails k.rail = some r ∧ r.readyFor op k
    ∧ (Tab.find s.hif.passes r.pass).isSome = true
  waits : s.hif.waitq = []
  deletes : s.hif.deleting = []
  alone : s.hif.seqBusy = none
  still : s.stp.active = false ∧ s.stp.boundary = false

/-- The STATE and locks with which a ticket of an opcode takes its own effect: not a lost or failed device with work left over, a
failed one with groups 0x01 and 0x07 alone, awake where the ticket would wake it first, and no lock that denies it. -/
structure StateOk (s : State) (op : Half) : Prop where
  gone : s.hif.state = .lost ∨ s.hif.state = .fault → s.stp.saved = none ∧ s.runningRecipe = none
  fault : s.hif.state = .fault → op.toNat / 256 = 1 ∨ op.toNat / 256 = 7
  awake : s.hif.state = .idle → ((opEntry op).map (fun e => e.2.2)).getD false = false ∨ op = 0x0802 ∨ op = 0x0803
  power : s.sbm.lockPower = true → op ≠ 0x0802 ∧ op ≠ 0x0803 ∧ op ≠ 0x0804
  security : s.sbm.lockSecurity = true → op ≠ 0x0A03

/-- A ticket of an opcode that has n parameter words and alignment code a, which the state takes at once. -/
structure TicketOk (s : State) (op : Half) (k : Ticket) (n a : Nat) : Prop where
  layout : LayoutOk k n a
  free : MailboxFree s op k
  state : StateOk s op

/-- The state in which a ticket runs: it is in flight on its rail (R346). -/
def State.admits (s : State) (op : Half) (k : Ticket) : State :=
  match Tab.find s.hif.rails k.rail with
  | none => s
  | some r => s.setRail k.rail { r with inflight :=
      [{ id := k.slot, op := op, tag := k.tag, words := (r.inflight.head?.map (·.words)).getD [], taken := true }] }

end Sys2Proof.Machine
end

