-- ==== Sys2Proof/Certificates/Slice0/Obligations.lean ====
section
/-! DEFINITION. The statements for the provers: what the commands do, and what every step keeps. -/

open Sys2Proof Sys2Proof.Machine

/-- The tickets that only report (R345, R355): each answers SUCCESS with its result words, and changes nothing else. -/
def Obligations.QueryTicketsAnswer : Prop :=
  ∀ (s : State) (k : Ticket),
    (TicketOk s 0x0106 k 0 0 → exec (.status k) s =
      .next ((s.admits 0x0106 k).post 0x0106 k 0 [s.hifStat, s.rcpStat, s.epochWord, wd (s.upd.epoch / 2 ^ 32), wd s.lnk.beat]))
    ∧ (TicketOk s 0x0203 k 1 0 → par k 0 ≤ 63 → exec (.regionQuery k) s =
      .next ((s.admits 0x0203 k).post 0x0203 k 0 [(s.regionWords (par k 0)).1, (s.regionWords (par k 0)).2]))
    ∧ (TicketOk s 0x0805 k 0 0 → exec (.powerQuery k) s =
      .next ((s.admits 0x0805 k).post 0x0805 k 0 [s.pwr.pin, s.pwr.vin, s.pwrStat]))
    ∧ (TicketOk s 0x0906 k 0 0 → exec (.linkQuery k) s =
      .next ((s.admits 0x0906 k).post 0x0906 k 0
        [s.portStat 0, s.portStat 1, s.portStat 2, s.portStat 3, s.portStat 4, s.portStat 5]))
    ∧ (TicketOk s 0x0A01 k 0 0 → exec (.secQuery k) s =
      .next ((s.admits 0x0A01 k).post 0x0A01 k 0
        [wd s.sec.debug, wd s.keyMask, s.sec.rsealed.setWidth 32, wd (b2n s.sec.fwB)]))

/-- The tickets that write a page to the host buffer (R355, R356, R361, R418 to R420, R426, R430): each writes its bytes there, and
then answers SUCCESS with its result words. MEASURE takes the nonce from the first 32 bytes of the buffer and puts its report at byte 64;
that the report is the nonce, the measurements and the signature in this order is the model's choice (log 9). CERT_READ and MEASURE say
BAD_PARAM with word 4 when their bytes, whose number the spec leaves open, do not fit: also the model's choice (log 55). -/
def Obligations.PageTicketsWriteTheirPages : Prop :=
  ∀ (s : State) (k : Ticket) (b : List Byte), k.buf = .ok b →
    (TicketOk s 0x0101 k 0 1 → 4096 ≤ bufLen k → exec (.identify k) s =
      .next (((s.admits 0x0101 k).toHost (bufFrom k 0) (((Config.identityPage ((List.range 128).map (fun c => (c, s.phys c)))
        [s.sec.copyA.word.toNat, s.sec.copyB.word.toNat] s.mem.rate s.hif.width s.hif.rate) ++ List.replicate 4096 0).take 4096)).post
        0x0101 k 0 []))
    ∧ (TicketOk s 0x0602 k 0 1 → s.sctBytes.length ≤ bufLen k → exec (.sctRead k) s =
      .next (((s.admits 0x0602 k).toHost (bufFrom k 0) s.sctBytes).post 0x0602 k 0 [s.ana.sctEpoch.setWidth 32]))
    ∧ (TicketOk s 0x0704 k 0 1 → s.telemetryPage.length ≤ bufLen k → exec (.telemetryRead k) s =
      .next ((((s.admits 0x0704 k).draw 1).toHost (bufFrom k 0) s.telemetryPage).post 0x0704 k 0 []))
    ∧ (TicketOk s 0x0A02 k 0 1 → exec (.certRead k) s =
      .next (if bufLen k < Config.certChain.length then (s.admits 0x0A02 k).post 0x0A02 k 2 [wd 4]
        else ((s.admits 0x0A02 k).toHost (bufFrom k 0) Config.certChain).post 0x0A02 k 0 [wd Config.certChain.length]))
    ∧ (TicketOk s 0x0702 k 3 1 → par k 1 < unitCount (par k 0) → par k 1 + par k 2 ≤ unitCount (par k 0) →
      (wordBytes ((List.range (par k 2)).flatMap (fun i => s.histWords (par k 0) (par k 1 + i)))).length ≤ bufLen k →
      exec (.historyRead k) s =
        .next (((s.admits 0x0702 k).toHost (bufFrom k 0)
          (wordBytes ((List.range (par k 2)).flatMap (fun i => s.histWords (par k 0) (par k 1 + i))))).post 0x0702 k 0 []))
    ∧ (TicketOk s 0x0703 k 2 1 → par k 0 ≤ 65535 → par k 0 + par k 1 ≤ 65536 →
      ((List.range (par k 1)).flatMap (fun i => s.ring (par k 0 + i))).length ≤ bufLen k →
      let e := ((s.admits 0x0703 k).draw 1).lookRings (Config.freeWord s.free).toNat ((List.range (par k 1)).map (par k 0 + ·))
        { ce := [], ue := [] }
      e.2 = false →
      exec (.ratioRead k) s =
        .next ((e.1.toHost (bufFrom k 0)
          ((List.range (par k 1)).flatMap (fun i => s.ring (par k 0 + i)))).post 0x0703 k 0 [wd s.upd.lastStep]))
    ∧ (TicketOk s 0x0701 k 3 1 → par k 0 ≤ 1 → 64 * par k 2 ≤ bufLen k →
      (wordBytes ((s.recordsFrom (par k 0) (par k 1) (par k 2)).flatMap Record.words)).length ≤ bufLen k →
      exec (.eventRead k) s =
        .next (((s.admits 0x0701 k).toHost (bufFrom k 0)
          (wordBytes ((s.recordsFrom (par k 0) (par k 1) (par k 2)).flatMap Record.words))).post 0x0701 k 0
          [wd (((s.recordsFrom (par k 0) (par k 1) (par k 2)).getLast?.map (fun r => r.seq + 1)).getD (par k 1))]))
    ∧ (∀ r, TicketOk s 0x0501 k 0 1 → s.ckptRecipe = some r → s.imageLen r ≤ bufLen k → s.ckptPoison r = [] →
      (s.ckptHead r ++ ckptKinds.flatMap (s.ckptPart r)).length ≤ bufLen k →
      exec (.ckptSave k) s =
        .next ((((s.admits 0x0501 k).lookParts r ckptKinds).toHost (bufFrom k 0) (s.ckptHead r ++ ckptKinds.flatMap (s.ckptPart r))).post 0x0501 k 0
          [s.epochWord]))
    ∧ (TicketOk s 0x0A03 k 0 1 →
      let m := (b ++ List.replicate (32 - b.length) 0).take 32 ++ s.measurements
      exec (.measure k) s = .next (if bufLen k < 64 + (m ++ Config.identitySign m).length then (s.admits 0x0A03 k).post 0x0A03 k 2 [wd 4]
        else ((s.admits 0x0A03 k).toHost (bufFrom k 64) (m ++ Config.identitySign m)).post 0x0A03 k 0 []))

/-- Rails and passes created and deleted (R344 to R348, R355). -/
def Obligations.RailsAndPassesComeAndGo : Prop :=
  ∀ (s : State) (k : Ticket),
    (TicketOk s 0x0102 k 4 2 → 1 ≤ par k 0 → par k 0 ≤ 63 → 4 ≤ par k 1 → par k 1 ≤ 16 → par k 3 ≤ 3 →
      (Tab.find s.hif.passes (par k 2)).isSome = true → Tab.find s.hif.rails (par k 0) = none →
      exec (.createRail k) s = .next (((s.admits 0x0102 k).setRail (par k 0)
        { base := k.addr, log2 := par k 1, pass := par k 2, prio := par k 3, head := 0, tail := 0, err := false,
          inflight := [] }).post 0x0102 k 0 []))
    ∧ (TicketOk s 0x0103 k 1 0 → 1 ≤ par k 0 → par k 0 ≤ 63 →
      (∃ r, Tab.find s.hif.rails (par k 0) = some r ∧ (k.rail ≠ par k 0 → r.inflight = [])) →
      exec (.deleteRail k) s = .next (((s.admits 0x0103 k).post 0x0103 k 0 []).dropRail (par k 0)))
    ∧ (TicketOk s 0x0104 k 5 2 → 1 ≤ par k 0 → par k 0 ≤ 63 → 4 ≤ par k 1 → par k 1 ≤ 16 → 1 ≤ par k 2 → par k 2 ≤ 64 →
      par k 4 ≤ 1000 → Tab.find s.hif.passes (par k 0) = none →
      exec (.createPass k) s = .next (((s.admits 0x0104 k).setPass (par k 0)
        { base := k.addr, log2 := par k 1, vec := par k 2, cnt := par k 3, time := par k 4, head := 0, tail := 0, phase := true,
          used := 0, waiting := [], since := 0, timer := false }).post 0x0104 k 0 []))
    ∧ (TicketOk s 0x0105 k 1 0 → 1 ≤ par k 0 → par k 0 ≤ 63 → (Tab.find s.hif.passes (par k 0)).isSome = true →
      (∀ e ∈ s.hif.rails, e.2.pass ≠ par k 0) →
      exec (.deletePass k) s = .next (({ s.admits 0x0105 k with
        hif := { (s.admits 0x0105 k).hif with passes := Tab.del s.hif.passes (par k 0) } }).post 0x0105 k 0 []))

/-- GDDR7 by ticket (R320, R323, R342, R355): MEM_WRITE writes the committed bytes, MEM_READ without an uncorrectable word returns
them with the epoch, and REGION_FREE gives a region back, with the marks of its codewords. -/
def Obligations.MemoryTicketsReachTheRegion : Prop :=
  ∀ (s : State) (k : Ticket) (b : List Byte), k.buf = .ok b →
    (TicketOk s 0x0201 k 3 1 → s.spanBad k (bufLen k) = none →
      (s.named (par k 0) = false ∨ s.regionKind (par k 0) = 0 ∨ s.regionKind (par k 0) = 8 ∨ s.regionKind (par k 0) = 9) →
      exec (.memWrite k) s = .next ((((s.admits 0x0201 k).regWriteCommitted (par k 0) (offsetOf k)
        ((b ++ List.replicate (bufLen k - b.length) 0).take (bufLen k))).account (par k 0) (offsetOf k) (bufLen k) true).post
        0x0201 k 0 []))
    ∧ (TicketOk s 0x0202 k 3 1 → s.spanBad k (bufLen k) = none → s.viewPoison (par k 0) (offsetOf k) (bufLen k) = [] →
      exec (.memRead k { ce := [], ue := [] }) s = .next (((((s.admits 0x0202 k).account (par k 0) (offsetOf k) (bufLen k) false).draw
        1).toHost (bufFrom k 0) (s.regRead false (par k 0) (offsetOf k) (bufLen k))).post 0x0202 k 0 [s.epochWord]))
    ∧ (TicketOk s 0x0204 k 1 0 → par k 0 ≤ 62 → (s.region (par k 0)).isSome = true →
      (∀ x ∈ s.rcp.slots, ∀ e ∈ x.2.regions, e.region ≠ par k 0) →
      let u := (s.admits 0x0204 k).freePoison (par k 0)
      exec (.regionFree k) s = .next (({ u with mem := { u.mem with regions := Tab.del u.mem.regions (par k 0) } }).post 0x0204 k 0 []))

/-- Recipes loaded, unloaded, started and stopped (R254, R255, R350, R355): a load answers its handle, REFUSED with what broke its rule,
or NO_RESOURCE, which comes before the checks of the image (the model's reading, log 53); a start with no recipe running takes effect at
once, and else waits for that one's step boundary (log 64); a stop waits for the step boundary. -/
def Obligations.RecipeTicketsAnswer : Prop :=
  ∀ (s : State) (k : Ticket),
    (∀ b, TicketOk s 0x0301 k 0 1 → k.buf = .ok b →
      let bs := (b ++ List.replicate (bufLen k - b.length) 0).take (bufLen k)
      let u := s.admits 0x0301 k
      bufLen k = leAt bs 8 4 →
      exec (.recipeLoad k) s = .next (match s.freeSlot with
        | none => u.post 0x0301 k 4 []
        | some h => match s.checkRecipe bs (bufLen k) with
          | none => (u.takeRecipe bs h).post 0x0301 k 0 [wd h]
          | some x => ((u.raise 0x9101 [wd x.1, wd x.2.1, wd x.2.2]).count cRefused 1).post 0x0301 k 6
              [wd x.1, wd x.2.1, wd x.2.2]))
    ∧ (TicketOk s 0x0302 k 1 0 → (s.recipe (par k 0)).isSome = true → (s.runningRecipe = none ∨ s.rcp.handle ≠ par k 0) →
      exec (.recipeUnload k) s = .next (({ s.admits 0x0302 k with
        rcp := { s.rcp with slots := Tab.del s.rcp.slots (par k 0) } }).post 0x0302 k 0 []))
    ∧ (∀ r, TicketOk s 0x0303 k 2 0 → s.recipe (par k 0) = some r → s.runningRecipe = none →
      s.cannotStart = false → s.placedOnLost r = false → r.head.beatUs = s.lnk.period →
      s.reportNs ≤ r.head.beatUs * r.head.gapPct * 10 →
      exec (.recipeStart k) s = .next (((s.admits 0x0303 k).startRecipe (par k 0) (par k 1)).post 0x0303 k 0 []))
    ∧ (∀ r, TicketOk s 0x0303 k 2 0 → s.recipe (par k 0) = some r → s.runningRecipe.isSome = true →
      s.cannotStart = false → s.placedOnLost r = false → r.head.beatUs = s.lnk.period →
      s.reportNs ≤ r.head.beatUs * r.head.gapPct * 10 →
      exec (.recipeStart k) s = .next { s.admits 0x0303 k with
        rcp := { s.rcp with startNext := some (par k 0, par k 1) },
        hif := { (s.admits 0x0303 k).hif with seqBusy := some (plain 0x0303 k) } })
    ∧ (TicketOk s 0x0304 k 0 0 → s.runningRecipe.isSome = true →
      exec (.recipeStop k) s = .next { s.admits 0x0304 k with
        rcp := { s.rcp with state := .stopping },
        hif := { (s.admits 0x0304 k).hif with seqBusy := some (plain 0x0304 k) } })

/-- STEP_RUN and INVOKE (R348, R358): with a recipe of their kind running, the step becomes the one in progress, of the recipe's next
step number, beside what the micro-batches of earlier steps still need, and the ticket stays in flight as the one sequenced ticket until a tick completes it. -/
def Obligations.StepTicketsEnterTheStep : Prop :=
  ∀ (s : State) (k : Ticket),
    (TicketOk s 0x0401 k 0 0 → s.rcp.state = .running → s.runningRecipe.isSome = true → s.cur.head.isRun = false →
      exec (.stepRun k) s = .next { s.admits 0x0401 k with
        stp := { Stp.reset with active := true, step := s.rcp.nextStep, tags := s.stp.tags, pendMb := s.stp.pendMb,
                                mbRan := s.stp.mbRan, drops := s.stp.drops, thinSegs := s.stp.thinSegs, boundary := s.stp.boundary,
                                held := s.stp.held },
        hif := { (s.admits 0x0401 k).hif with seqBusy := some (plain 0x0401 k) } })
    ∧ (TicketOk s 0x0402 k 0 0 → s.rcp.state = .running → s.runningRecipe.isSome = true → s.cur.head.isRun = true →
      exec (.invoke k) s = .next { s.admits 0x0402 k with
        stp := { Stp.reset with active := true, step := s.rcp.nextStep, tags := s.stp.tags, pendMb := s.stp.pendMb,
                                mbRan := s.stp.mbRan, drops := s.stp.drops, thinSegs := s.stp.thinSegs, boundary := s.stp.boundary,
                                held := s.stp.held },
        hif := { (s.admits 0x0402 k).hif with seqBusy := some (plain 0x0402 k) } })

/-- Checkpoints and shadows taken back (R354 to R356, R378, R379): with the state and operands that each asks for, CKPT_RESTORE with an
image whose head and digest check stays in flight for the next tick, and ends with BAD_CHECKPOINT and the offset of the field
otherwise; SHADOW_CFG notes the buddy that took the shadow, or that there is none; SHADOW_RESTORE makes a shadow that matches its digest
the committed state at once, of which the standby's reports tell the job from then on (log 143), and ends with DEVICE_FAULT otherwise, or
when its holder is lost too. -/
def Obligations.RestoreTicketsTakeTheImage : Prop :=
  ∀ (s : State) (k : Ticket),
    (∀ r b, TicketOk s 0x0502 k 0 1 → s.ckptRecipe = some r → s.imageLen r ≤ bufLen k → k.buf = .ok b →
      let u := s.admits 0x0502 k
      let bs := (b ++ List.replicate (s.imageLen r - b.length) 0).take (s.imageLen r)
      exec (.ckptRestore k) s = .next (match s.headFlaw r bs with
        | some f => u.post 0x0502 k 0xB [wd f]
        | none =>
          if headField bs 0x10 8 = leBytes 8 (sumDigest (u.imageDigests r (bs.drop 4096))).toNat then
            { u with hif := { u.hif with seqBusy := some (plain 0x0502 k) } }
          else u.post 0x0502 k 0xB [wd 0x10]))
    ∧ (∀ accepted, TicketOk s 0x0503 k 2 0 → par k 0 ≤ 1023 →
      exec (.shadowCfg k accepted) s = .next (if par k 1 = 0 ∨ accepted = true then
          ({ s.admits 0x0503 k with
            flt := { s.flt with shadowCfg := if par k 1 = 0 then none else some (par k 0, par k 1) } }).post 0x0503 k 0 []
        else (s.admits 0x0503 k).post 0x0503 k 2 [wd 5]))
    ∧ (∀ r, TicketOk s 0x0504 k 1 0 → s.ckptRecipe = some r → s.hif.state = .ready → s.runningRecipe = none → par k 0 ≤ 1023 →
      let u := s.admits 0x0504 k
      (∀ x, exec (.shadowRestore k (some x)) s = .next (if (u.takeShadow r x).upd.digest = x.digest then
          ((((({ u.takeShadow r x with rcp := { s.rcp with nextStep := x.step + 1 }, stp := s.stp }).raise 0xB006 []).count
            cRecovery 1).recovered 3).hasRestored (par k 0)).post 0x0504 k 0 []
        else u.post 0x0504 k 0xA []))
      ∧ exec (.shadowRestore k none) s = .next ((u.raise 0xB00B []).post 0x0504 k 0xA []))

/-- Calibration and tests by ticket (R142, R153, R350, R355, R366). -/
def Obligations.TestTicketsRun : Prop :=
  ∀ (s : State) (k : Ticket),
    (TicketOk s 0x0601 k 1 0 → (par k 0 ≤ 127 ∨ par k 0 = 0xFF) →
      let w := plain 0x0601 k
      let u := (s.admits 0x0601 k).calCommand (s.namedCores (par k 0))
      exec (.calRun k) s = .next (if u.calEnded w then u.post 0x0601 k 0 [] else { u with hif := { u.hif with seqBusy := some w } }))
    ∧ (TicketOk s 0x0603 k 0 0 → s.hif.state = .ready →
      exec (.testEnter k) s = .next (((s.admits 0x0603 k).setState .test).post 0x0603 k 0 []))
    ∧ (∀ fails, TicketOk s 0x0604 k 0 0 → s.hif.state = .test →
      let u := ((s.admits 0x0604 k).testFailures fails).publish
      exec (.testLeave k fails) s = .next ((u.setState .ready).post 0x0604 k 0 []))
    ∧ (TicketOk s 0x0605 k 2 0 → s.hif.state = .test → par k 1 < unitCount (par k 0) →
      exec (.directedTest k false) s = .next ((s.admits 0x0605 k).post 0x0605 k 0 [0])
      ∧ exec (.directedTest k true) s =
        .next (((s.admits 0x0605 k).testFailure (par k 0) (par k 1)).post 0x0605 k 0 [1]))

/-- Idle levels and the power limit by ticket (R351, R400, R401, R407): IDLE_ENTER takes the deepest level whose exit latency
WAKE_TOL allows and answers it; a level that a new WAKE_TOL no longer allows is left; IDLE_EXIT makes the device READY. An exit that
these do of themselves reads the blocks in NVM as they were last written (the model's choice, log 84). POWER_LIMIT is in force at once; its
ticket completes at once with no beats running, and else at the tick that ends its beat (log 82); with a limit of the management port in
the same beat it is DENIED. -/
def Obligations.IdleTicketsMoveTheLevel : Prop :=
  ∀ (s : State) (k : Ticket),
    (TicketOk s 0x0801 k 1 0 → ¬(s.hif.state = .idle ∧ par k 0 < idleLatency s.pwr.idle) →
      exec (.setWakeTol k) s = .next (({ s.admits 0x0801 k with pwr := { s.pwr with wakeTol := wd (par k 0) } }).post 0x0801 k 0 []))
    ∧ (TicketOk s 0x0801 k 1 0 → s.hif.state = .idle → par k 0 < idleLatency s.pwr.idle →
      let v : State := { s.admits 0x0801 k with pwr := { s.pwr with wakeTol := wd (par k 0) } }
      let n := idleFor s.pwr.idle (par k 0)
      exec (.setWakeTol k) s = .next ((if n = 0 then (v.setIdle 0 asWritten).setState .ready else v.setIdle n asWritten).post
        0x0801 k 0 []))
    ∧ (TicketOk s 0x0802 k 1 0 → 1 ≤ par k 0 → par k 0 ≤ 5 → s.runningRecipe = none →
      (s.hif.state = .ready ∨ s.hif.state = .idle) →
      let n := idleFor (par k 0) s.pwr.wakeTol.toNat
      n ≠ 0 →
      exec (.idleEnter k) s = .next ((((s.admits 0x0802 k).setIdle n asWritten).setState .idle).post 0x0802 k 0 [wd n]))
    ∧ (∀ nvm, TicketOk s 0x0803 k 0 0 → s.hif.state = .idle →
      exec (.idleExit k nvm) s = .next ((((s.admits 0x0803 k).setIdle 0 nvm).setState .ready).post 0x0803 k 0 []))
    ∧ (TicketOk s 0x0804 k 1 0 → 450 ≤ par k 0 → par k 0 ≤ 1200 →
      let u : State := { s.admits 0x0804 k with pwr := { s.pwr with limit := wd (par k 0) } }
      exec (.powerLimit k) s = .next (if s.pwr.mgmtLimit = true then (s.admits 0x0804 k).post 0x0804 k 5 []
        else if s.pwr.tickDriven = true then { u with hif := { u.hif with limits := s.hif.limits ++ [plain 0x0804 k] } }
        else u.post 0x0804 k 0 []))

/-- The domain, its groups and its beat by ticket (R25, R262, R291, R296, R302, R355, R357, R376). That DOMAIN_SET counts beats from 0,
starts from dimension-order routes and trains every port anew is the model's reading (log 30). -/
def Obligations.DomainTicketsTakeEffect : Prop :=
  ∀ (s : State) (k : Ticket),
    (TicketOk s 0x0901 k 8 0 → domainBad k = none → s.runningRecipe = none →
      exec (.domainSet k) s = .next ((({ s.admits 0x0901 k with
        lnk := { s.lnk with dimX := par k 0, dimY := par k 1, dimZ := par k 2, cx := par k 3, cy := par k 4, cz := par k 5,
                            domain := true, master := par k 6, standby := if par k 7 = 0xFFFF then none else some (par k 7),
                            beat := 0, flywheel := false, missed := 0, tickRx := none, merged := none, forwarded := [],
                            reported := [], windowOpen := false, stretch := 0, stretchRun := 0, gen := 0, routes := [], genNext := none,
                            dead := [], downs := [], late := [], silent := [] },
        flt := { s.flt with recov := [], restored := [] },
        pwr := { s.pwr with tickDriven := false } }).retrainPorts (List.range 6)).post 0x0901 k 0 []))
    ∧ (∀ b g, TicketOk s 0x0902 k 0 1 → k.buf = .ok b →
      let bs := (b ++ List.replicate (bufLen k - b.length) 0).take (bufLen k)
      16 + 4 * (listWord bs 2).toNat ≤ bufLen k → s.groupFrom bs = some g →
      exec (.groupDefine k) s = .next (({ s.admits 0x0902 k with
        rcp := { s.rcp with pending := s.rcp.pending ++ [(g.1, some g.2)] } }).post 0x0902 k 0 []))
    ∧ (TicketOk s 0x0903 k 1 0 → (Tab.find (applyGroups s.rcp.groups s.rcp.pending) (par k 0)).isSome = true →
      exec (.groupDelete k) s = .next (({ s.admits 0x0903 k with
        rcp := { s.rcp with pending := s.rcp.pending ++ [(par k 0, none)] } }).post 0x0903 k 0 []))
    ∧ (TicketOk s 0x0904 k 1 0 → 50 ≤ par k 0 → par k 0 ≤ 1000 → s.runningRecipe = none →
      exec (.beatSet k) s = .next (({ s.admits 0x0904 k with lnk := { s.lnk with period := par k 0 } }).post 0x0904 k 0 []))
    ∧ (TicketOk s 0x0905 k 0 0 → s.hif.state = .lost → s.mem.evac = false → s.pwr.therm ≠ 4 → s.flt.degraded = false →
      exec (.domainJoin k) s = .next ((({ s.admits 0x0905 k with
        lnk := { s.lnk with dead := s.lnk.dead.filter (fun d => d != s.device) },
        flt := { s.flt with lostNext := false, lostTick := false } }).setState .ready).post 0x0905 k 0 []))

/-- Tickets that do not run, and every ticket's end (R347, R349 to R351, R354, R355): an opcode that is not listed completes with
BAD_OPCODE, any but groups 0x01 and 0x07 in FAULT with BAD_STATE and STATE, one that a lock of the management port covers with DENIED, one
whose layout is wrong with BAD_PARAM and the word; that the checks come in this order is the model's reading (log 29). A completion goes behind those its rail's pass still has to write, with the
rail, RAIL_HEAD, the tag, the status and the results; the ticket is in flight no longer, and nothing else changes. -/
def Obligations.TicketsEndWithACompletion : Prop :=
  ∀ (s : State) (op : Half) (k : Ticket),
    (MailboxFree s op k → (s.hif.state = .lost ∨ s.hif.state = .fault → s.stp.saved = none ∧ s.runningRecipe = none) →
      let u := s.admits op k
      (opEntry op = none → exec (.ticketBadOpcode op k) s = .next (u.post op k 1 []))
      ∧ ((opEntry op).isSome = true → s.hif.state = .fault → op.toNat / 256 ≠ 1 → op.toNat / 256 ≠ 7 →
        exec (.ticketBadOpcode op k) s = .next (u.post op k 3 [6]))
      ∧ (s.hif.state ≠ .fault → s.sbm.lockPower = true → op = 0x0802 ∨ op = 0x0803 ∨ op = 0x0804 →
        exec (.ticketBadOpcode op k) s = .next (u.post op k 5 []))
      ∧ (s.hif.state ≠ .fault → s.sbm.lockSecurity = true → op = 0x0A03 →
        exec (.ticketBadOpcode op k) s = .next (u.post op k 5 []))
      ∧ (∀ e i, opEntry op = some e → s.stateAllows op = true → s.denies op = false → (plain op k).flaw e = some i →
        exec (.ticketBadOpcode op k) s = .next (u.post op k 2 [wd i])))
    ∧ (∀ (st : Nat) (res : List Word) (r : Rail) (p : Pass),
      Tab.find s.hif.rails k.rail = some r → Tab.find s.hif.passes r.pass = some p →
      let t := s.post op k st res
      Tab.find t.hif.passes r.pass = some { p with waiting := p.waiting ++
        [{ rail := k.rail, head := r.head, tag := k.tag, status := BitVec.ofNat 16 st, res := res, quiet := k.quiet }] }
      ∧ Tab.find t.hif.rails k.rail = some { r with inflight := r.inflight.filter (fun x => !(x.id == k.slot && x.op == op)) }
      ∧ (∀ n, n ≠ r.pass → Tab.find t.hif.passes n = Tab.find s.hif.passes n)
      ∧ (∀ n, n ≠ k.rail → Tab.find t.hif.rails n = Tab.find s.hif.rails n)
      ∧ t = { s with hif := { s.hif with rails := t.hif.rails, passes := t.hif.passes } })

/-- The doorbells (R344 to R346, R340): a good tail or head moves its ring, and the rail takes its turn at the device's reading; a tail beyond the ring, or one that would make the rail hold
more than it can, puts the rail in error; a head beyond the ring, or one that would free a slot not written, is discarded and counted,
as is a doorbell of a ring that does not exist or of a mailbox that is stopped. -/
def Obligations.DoorbellsMoveTheRings : Prop :=
  ∀ (s : State) (n : Nat) (v : Word), n < 64 →
    (∀ r, Tab.find s.hif.rails n = some r → s.mboxRuns = true → r.err = false → fld v 15 0 ≠ r.tail →
      let k := 2 ^ r.log2
      let added := (fld v 15 0 + k - r.tail) % k
      (fld v 15 0 < k → r.held + added < k →
        exec (.railTail n v) s = .next { s with hif := { s.hif with
          rails := Tab.put s.hif.rails n { r with tail := fld v 15 0 }, turns := addOnce s.hif.turns n } })
      ∧ (k ≤ fld v 15 0 ∨ k ≤ r.held + added → ∃ t, exec (.railTail n v) s = .next t
        ∧ Tab.find t.hif.rails n = some { r with err := true } ∧ t.hif.railErr = s.hif.railErr ||| BitVec.ofNat 64 (2 ^ n)
        ∧ t.hif.irqStat = s.hif.irqStat ||| 4))
    ∧ (∀ p, Tab.find s.hif.passes n = some p → s.mboxRuns = true →
      let k := 2 ^ p.log2
      let freed := (fld v 15 0 + k - p.head) % k
      (fld v 15 0 < k → freed ≤ p.used → exec (.passHead n v) s =
        .next { s with hif := { s.hif with passes := Tab.put s.hif.passes n { p with head := fld v 15 0, used := p.used - freed } } })
      ∧ (k ≤ fld v 15 0 ∨ p.used < freed → exec (.passHead n v) s = .next (s.count cBadAcc 1)))
    ∧ ((s.mboxRuns = false ∨ Tab.find s.hif.rails n = none) → exec (.railTail n v) s = .next (s.count cBadAcc 1))
    ∧ ((s.mboxRuns = false ∨ Tab.find s.hif.passes n = none) → exec (.passHead n v) s = .next (s.count cBadAcc 1))

/-- The device's read of a rail (R346): on its turn it takes up to eight tickets ahead and no more than the rail holds, and RAIL_HEAD
moves past them; each is in flight from then on, with its opcode, its tag and its sixteen words (R349); a rail that keeps unread tickets goes behind the others that wait (the model's choice, log 116); a failed read puts the rail in error and takes none. -/
def Obligations.FetchReadsTicketsAhead : Prop :=
  ∀ (s : State) (n : Nat) (r : Rail), n < 64 → s.mboxRuns = true → s.fetchTurn = some n → Tab.find s.hif.rails n = some r →
    (∀ ts : List (List Word), ∃ t q, exec (.ticketFetch n (some ts)) s = .next t ∧ Tab.find t.hif.rails n = some q
      ∧ (let m := min ts.length (min r.held (8 - s.readAhead n r))
         q = { r with head := (r.head + m) % 2 ^ r.log2, inflight := r.inflight ++ (ts.take m).zipIdx.map (fun x =>
           { id := r.nextId + x.2, op := BitVec.ofNat 16 (fld (x.1.getD 0 0) 31 16), tag := BitVec.ofNat 16 (fld (x.1.getD 0 0) 15 0),
             words := x.1, taken := false }) })
      ∧ t = { s with hif := { s.hif with rails := Tab.put s.hif.rails n q, turns := t.hif.turns } }
      ∧ t.hif.turns = (let others := s.hif.turns.filter (fun m => m != n)
                       if min ts.length (min r.held (8 - s.readAhead n r)) < r.held then others ++ [n] else others))
    ∧ (∃ t, exec (.ticketFetch n none) s = .next t ∧ Tab.find t.hif.rails n = some { r with err := true }
      ∧ t.hif.railErr = s.hif.railErr ||| BitVec.ofNat 64 (2 ^ n) ∧ t.hif.irqStat = s.hif.irqStat ||| 4)

/-- Completions and their vectors (R347 to R349): a completion's 32 bytes go to the pass's next slot and no other byte of host memory
changes; the tail moves, PHASE turns over with the ring, and the vector is requested when the count or a time of 0 says so, never for
a QUIET one; a full pass writes nothing and its completions wait; the timer requests the vector of what is not yet signalled. -/
def Obligations.CompletionsReachTheRing : Prop :=
  ∀ (s : State) (n : Nat) (p : Pass), n < 64 → Tab.find s.hif.passes n = some p →
    (∀ c rest, s.mboxRuns = true → p.waiting = c :: rest → p.used < 2 ^ p.log2 →
      ∃ t q, exec (.completionWrite n) s = .next t ∧ Tab.find t.hif.passes n = some q
        ∧ Mem.read t.store.host (p.base.toNat + 32 * p.tail) 32 = wordBytes (c.words p.phase)
        ∧ (∀ a, a < p.base.toNat + 32 * p.tail ∨ p.base.toNat + 32 * p.tail + 32 ≤ a →
          Mem.get t.store.host a = Mem.get s.store.host a)
        ∧ q.tail = (p.tail + 1) % 2 ^ p.log2 ∧ q.phase = (if q.tail = 0 then !p.phase else p.phase)
        ∧ q.used = p.used + 1 ∧ q.waiting = rest ∧ q.head = p.head
        ∧ (let asks := !c.quiet && (decide (p.cnt ≤ p.since + 1) || p.time == 0)
           t.hif.vecReq = (if asks then Tab.put s.hif.vecReq p.vec (Tab.get s.hif.vecReq p.vec 0 + 1) else s.hif.vecReq)
           ∧ q.since = (if asks then 0 else if c.quiet then p.since else p.since + 1)
           ∧ q.timer = (if asks then false else if c.quiet then p.timer else true))
        ∧ t = { s with store := { s.store with host := t.store.host },
                       hif := { s.hif with passes := t.hif.passes, vecReq := t.hif.vecReq } })
    ∧ (2 ^ p.log2 ≤ p.used → exec (.completionWrite n) s = .next s)
    ∧ (p.timer = true → exec (.passTimer n) s = .next { s with hif := { s.hif with
        passes := Tab.put s.hif.passes n { p with since := 0, timer := false },
        vecReq := Tab.put s.hif.vecReq p.vec (Tab.get s.hif.vecReq p.vec 0 + 1) } })

/-- The mailbox started, stopped and reset (R339, R353): only the admin pair is left, as its registers configure it, no completion is
written for a ticket in flight, and a running recipe stops at its step boundary. -/
def Obligations.MailboxStartsStopsAndResets : Prop :=
  ∀ (s : State),
    let rail : Rail := { base := s.hif.arailBase, log2 := s.hif.arailLog2, pass := 0, prio := 3, head := 0, tail := 0, err := false,
                         inflight := [] }
    let pass : Pass := { base := s.hif.apassBase, log2 := s.hif.apassLog2, vec := 1, cnt := 1, time := 0, head := 0, tail := 0,
                         phase := true, used := 0, waiting := [], since := 0, timer := false }
    let cleared (on : Bool) : Hif := { s.hif with mboxEn := on, rails := if on then [(0, rail)] else [],
                                                  passes := if on then [(0, pass)] else [], turns := [], railErr := 0,
                                                  seqBusy := none, waitq := [], deleting := [], limits := [] }
    let stopped : RunState := if s.rcp.state = .running then .stopping else s.rcp.state
    (s.hif.mboxEn = false → exec .mboxEnSet s = .next { s with hif := cleared true })
    ∧ (s.hif.mboxEn = true → exec .mboxDisable s =
        .next { s with hif := cleared false, rcp := { s.rcp with startNext := none, state := stopped } })
    ∧ exec .mboxReset s = .next { s with hif := cleared s.hif.mboxEn, rcp := { s.rcp with startNext := none, state := stopped } }

/-- R12: a bit of a write-1-to-clear register that hardware sets in the cycle of the write stays set, and one that it does not set is
cleared by a written 1 alone; a counter read in the cycle of an update returns the old value, and the update is kept. -/
def Obligations.CollisionsLoseNoEvent : Prop :=
  ∀ (s : State), s.hostUp = true →
    (∀ v hw : Word, ∃ t, exec (.registerWrite 0x030 v hw) s = .next t
      ∧ ∀ i, i < 4 → t.hif.irqStat.getLsbD i = (hw.getLsbD i || (s.hif.irqStat.getLsbD i && !v.getLsbD i)))
    ∧ (∀ v hw : Word, ∃ t, exec (.registerWrite 0x4004 v hw) s = .next t
      ∧ ∀ i, i < 10 → t.pwr.sticky.getLsbD i = (hw.getLsbD i || (s.pwr.sticky.getLsbD i && !v.getLsbD i)))
    ∧ (∀ v hw : Word, ∃ t, exec (.registerWrite 0x5000 v hw) s = .next t
      ∧ ∀ i, 0 < i → i < 14 → t.evt.alarm.getLsbD i = (hw.getLsbD i || (s.evt.alarm.getLsbD i && !v.getLsbD i)))
    ∧ (∀ off add : Nat, (counterAt off || off == cBadAcc) = true → ∃ t, exec (.rcCounterRead off add) s = .next t
      ∧ t.hif.readData = [s.ctrGet off] ∧ t.ctrGet off = BitVec.ofNat 32 (min 0xFFFFFFFF add))

/-- R14: a read of the low word of a 64-bit register returns it and latches the high word; the next read of the high word by the same
master returns what was latched, once; without one it returns the current high word; and neither master touches the other's latch. A master has one
latch for each such register (the model's choice, log 94). -/
def Obligations.WideRegistersReadWhole : Prop :=
  ∀ (s : State) (off : Nat),
    (s.hostUp = true → wideAt .host off = true →
      (∃ t, exec (.lowWordRead .host off) s = .next t ∧ t.hif.readData = [s.regVal .host off]
        ∧ Tab.find t.hif.hostLatch off = some (s.regVal .host (off + 4)) ∧ t.hif.mgmtLatch = s.hif.mgmtLatch)
      ∧ (∀ v, Tab.find s.hif.hostLatch off = some v → ∃ t, exec (.highWordRead .host (off + 4)) s = .next t
        ∧ t.hif.readData = [v] ∧ Tab.find t.hif.hostLatch off = none ∧ t.hif.mgmtLatch = s.hif.mgmtLatch)
      ∧ (Tab.find s.hif.hostLatch off = none → ∃ t, exec (.highWordRead .host (off + 4)) s = .next t
        ∧ t.hif.readData = [s.regVal .host (off + 4)] ∧ t.hif.hostLatch = s.hif.hostLatch ∧ t.hif.mgmtLatch = s.hif.mgmtLatch))
    ∧ (s.pwr.aon = true → s.pwr.pwrgood = true → wideAt .mgmt off = true →
      (∃ t, exec (.lowWordRead .mgmt off) s = .next t ∧ t.sbm.rspData = [s.regVal .mgmt off]
        ∧ Tab.find t.hif.mgmtLatch off = some (s.regVal .mgmt (off + 4)) ∧ t.hif.hostLatch = s.hif.hostLatch)
      ∧ (∀ v, Tab.find s.hif.mgmtLatch off = some v → ∃ t, exec (.highWordRead .mgmt (off + 4)) s = .next t
        ∧ t.sbm.rspData = [v] ∧ Tab.find t.hif.mgmtLatch off = none ∧ t.hif.hostLatch = s.hif.hostLatch)
      ∧ (Tab.find s.hif.mgmtLatch off = none → ∃ t, exec (.highWordRead .mgmt (off + 4)) s = .next t
        ∧ t.sbm.rspData = [s.regVal .mgmt (off + 4)] ∧ t.hif.mgmtLatch = s.hif.mgmtLatch ∧ t.hif.hostLatch = s.hif.hostLatch))

/-- R13: an access that is not an aligned 32-bit word reads 0xFFFF_FFFF and has its writes discarded, and is counted in the counter of
the master that made it and in no other. -/
def Obligations.OddAccessesAreRefusedAndCounted : Prop :=
  ∀ (s : State) (off size : Nat), (size ≠ 4 ∨ off % 4 ≠ 0) →
    (s.hostUp = true →
      (∃ t, exec (.badAccess .host false off size) s = .next t ∧ t.hif.readData = [0xFFFFFFFF]
        ∧ t.ctrGet cBadAcc = satAdd (s.ctrGet cBadAcc) 1 ∧ (∀ o, o ≠ cBadAcc → t.ctrGet o = s.ctrGet o)
        ∧ t = { s with ctr := t.ctr, hif := { s.hif with readData := t.hif.readData, poisoned := false } })
      ∧ (∃ t, exec (.badAccess .host true off size) s = .next t
        ∧ t.ctrGet cBadAcc = satAdd (s.ctrGet cBadAcc) 1 ∧ (∀ o, o ≠ cBadAcc → t.ctrGet o = s.ctrGet o)
        ∧ t = { s with ctr := t.ctr }))
    ∧ (s.pwr.aon = true → s.pwr.pwrgood = true →
      ∀ write, ∃ t, exec (.badAccess .mgmt write off size) s = .next t
        ∧ t.sbm.rspData = (if write then [] else [0xFFFFFFFF])
        ∧ t.ctrGet cSbmBadAcc = satAdd (s.ctrGet cSbmBadAcc) 1 ∧ (∀ o, o ≠ cSbmBadAcc → t.ctrGet o = s.ctrGet o)
        ∧ t = { s with ctr := t.ctr,
                       sbm := { s.sbm with rspStatus := t.sbm.rspStatus, rspData := t.sbm.rspData, rspBytes := t.sbm.rspBytes } })

/-- Registers written by the two masters (R11, R14, R126, R339 to R341, R414, R433, R435): each holds what its field keeps of the value,
the admin ring's registers only while the mailbox is stopped, and a change of a lock sets SB_CHANGE. -/
def Obligations.RegisterWritesAreKept : Prop :=
  ∀ (s : State) (v : Word),
    (s.hostUp = true →
      exec (.registerWrite 0x034 v 0) s = .next { s with hif := { s.hif with irqMask := v.setWidth 4 } }
      ∧ exec (.registerWrite 0x5010 v 0) s = .next { s with evt := { s.evt with sel := v } }
      ∧ exec (.registerWrite 0x1320 v 0) s = .next { s with ana := { s.ana with intervalNew := fld v 15 0 } }
      ∧ exec (.registerWrite 0x1324 v 0) s = .next { s with ana := { s.ana with rmsMargin := fld v 15 8, meanMargin := fld v 7 0 } }
      ∧ (∀ n, n < 4 → exec (.registerWrite (0x100 + 16 * n) v 0) s = .next { s with hif := { s.hif with
          wins := Tab.put s.hif.wins n { s.win n with en := v.getLsbD 31, region := v.setWidth 6 } } }
        ∧ exec (.registerWrite (0x104 + 16 * n) v 0) s =
          .next { s with hif := { s.hif with wins := Tab.put s.hif.wins n { s.win n with baseMib := v } } })
      ∧ (s.hif.mboxEn = false →
        exec (.registerWrite 0x018 v 0) s = .next { s with hif := { s.hif with arailLog2 := max 4 (min 16 (fld v 4 0)) } }
        ∧ exec (.registerWrite 0x028 v 0) s = .next { s with hif := { s.hif with apassLog2 := max 4 (min 16 (fld v 4 0)) } })
      ∧ (s.hif.mboxEn = true → ∀ off ∈ [0x010, 0x014, 0x018, 0x020, 0x024, 0x028], exec (.registerWrite off v 0) s = .next s))
    ∧ (s.pwr.aon = true → s.pwr.pwrgood = true →
      exec (.regWrite 0x008 v) s =
        .next { s with sbm := { s.sbm with alertMask := v &&& 0x00FFFFFE, rspStatus := 0, rspData := [], rspBytes := [] } }
      ∧ exec (.regWrite 0x5010 v) s = .next { s with
          evt := { s.evt with sel := v }, sbm := { s.sbm with rspStatus := 0, rspData := [], rspBytes := [] } }
      ∧ ∃ t, exec (.regWrite 0x004 v) s = .next t ∧ t.sbm.lockPower = v.getLsbD 0 ∧ t.sbm.lockSecurity = v.getLsbD 1
        ∧ t.sbm.rspStatus = 0
        ∧ (s.sbm.lockPower ≠ v.getLsbD 0 ∨ s.sbm.lockSecurity ≠ v.getLsbD 1 → t.hif.irqStat = s.hif.irqStat ||| 8))

/-- The registers that commands write alone (R91, R92, R152, R153, R332): row limits held between 0x40 and their reset values, test bits
in TEST alone, TRIG held between 2 and 8, a calibration of the named cores, and the patrol period with 0 stored as 1. -/
def Obligations.ControlRegistersHoldTheirRanges : Prop :=
  ∀ (s : State) (v : Word),
    (∃ t, exec (.anaRowlimWrite v) s = .next t ∧ t = { s with ana := { s.ana with
        w1new := max 0x40 (min 0x80 (fld v 23 16)), w3new := max 0x40 (min 0x7F (fld v 15 8)),
        w2new := max 0x40 (min 0x55 (fld v 7 0)) } }
      ∧ 0x40 ≤ t.ana.w1new ∧ t.ana.w1new ≤ 0x80 ∧ 0x40 ≤ t.ana.w3new ∧ t.ana.w3new ≤ 0x7F ∧ 0x40 ≤ t.ana.w2new ∧ t.ana.w2new ≤ 0x55)
    ∧ (s.hif.state = .test → exec (.anaCtlWrite v) s =
        .next { s with ana := { s.ana with forceSplit := v.getLsbD 1, noSkip := v.getLsbD 0 } })
    ∧ (s.hif.state ≠ .test → exec (.anaCtlWrite v) s = .next s)
    ∧ (∃ t, exec (.calCtlWrite v) s = .next t ∧ t = { s with cal := { s.cal with trig := max 2 (min 8 (fld v 7 0)) } }
      ∧ 2 ≤ t.cal.trig ∧ t.cal.trig ≤ 8)
    ∧ (let k := if 0x80 ≤ fld v 7 0 then 0xFF else fld v 7 0
       ∃ t, exec (.calCmdGo v) s = .next t ∧ t.cal.cmdCore = BitVec.ofNat 8 k
         ∧ ∀ c, c < 128 → (k = 0xFF ∨ k = c) → s.isAbsent c = false → c ∈ t.cal.goCores ∧ c ∈ t.cal.due)
    ∧ (∃ t, exec (.memPatrolCfgWrite v) s = .next t ∧ t = { s with mem := { s.mem with patrolNew := max 1 (fld v 7 0) } }
      ∧ 1 ≤ t.mem.patrolNew ∧ t.mem.patrolNew ≤ 255)

/-- BAR4 (R341 to R343): an access that a window reaches reads the bytes of its region or writes them (of a GENERAL, HYPER or TELEMETRY region, as a step in progress leaves them), and one that is refused reads
ones or is discarded, and is counted. -/
def Obligations.WindowsReachTheirRegions : Prop :=
  ∀ (s : State) (off len : Nat), s.hostUp = true →
    (∀ r a, s.winSpan off len = some (r, a) → (s.named r = true → shutKind (s.regionKind r) = false) → s.viewPoison r a len = [] →
      ∃ t, exec (.bar4Access none off len { ce := [], ue := [] }) s = .next t
        ∧ t.hif.readData = leWords (cdiv len 4) (s.regRead (openKind (s.regionKind r)) r a len) ∧ t.hif.poisoned = false
        ∧ t = { s with ctr := t.ctr, hif := { s.hif with readData := t.hif.readData, poisoned := false } })
    ∧ (∀ r a bs, s.winSpan off bs.length = some (r, a) → s.named r = false → bs.length = len →
      exec (.bar4Access (some bs) off len { ce := [], ue := [] }) s =
        .next ((s.regWriteCommitted r a bs).account r a len true))
    ∧ (∀ g, (s.winSpan off len = none ∨ ∃ r a, s.winSpan off len = some (r, a) ∧ s.named r = true ∧ shutKind (s.regionKind r) = true) →
      exec (.bar4Access none off len g) s = .next { s.count cBadAcc 1 with hif := { (s.count cBadAcc 1).hif with
        readData := List.replicate (cdiv len 4) 0xFFFFFFFF, poisoned := false } })
    ∧ (∀ bs g, bs.length = len → (s.winSpan off len = none ∨ ∃ r a, s.winSpan off len = some (r, a) ∧ s.named r = true) →
      exec (.bar4Access (some bs) off len g) s = .next (s.count cBadAcc 1))

/-- Reads by the host and by the management port (R11, R65, R90, R124, R337, R338, R412, R413, R435): a host read of a counter returns the
count and clears it, changing no other; a read by the management port returns the register with status 0 and clears no counter that the host
shares, but its reads of the SBM_ counters clear them; an offset that is no multiple of 4 has status 1 and is counted; a host read outside
every listed range gives zero, and a write there is counted; with the main rails off that port is served PWR_STICKY and EVT_ALARM alone, and
any other access is answered with status 3. -/
def Obligations.ReadsAnswerTheirPort : Prop :=
  ∀ (s : State) (off : Nat),
    (s.hostUp = true → (counterAt off || off == cBadAcc) = true → ∃ t, exec (.rcCounterRead off 0) s = .next t
      ∧ t.hif.readData = [s.ctrGet off] ∧ t.hif.poisoned = false ∧ t.ctrGet off = 0 ∧ (∀ o, o ≠ off → t.ctrGet o = s.ctrGet o)
      ∧ t = { s with ctr := t.ctr, hif := { s.hif with readData := t.hif.readData, poisoned := t.hif.poisoned } })
    ∧ (s.pwr.aon = true → s.pwr.pwrgood = true → counterAt off = true →
      exec (.regRead off) s = .next { s with sbm := { s.sbm with rspStatus := 0, rspData := [s.ctrGet off], rspBytes := [] } })
    ∧ (s.pwr.aon = true → off % 4 = 0 →
      (s.pwr.pwrgood = true → listed off = true → isMsix off = false → ∃ t, exec (.regRead off) s = .next t
        ∧ t.sbm.rspStatus = 0 ∧ (wideAt .mgmt (off - 4) = false → t.sbm.rspData = [s.regVal .mgmt off])
        ∧ t.hif.hostLatch = s.hif.hostLatch ∧ (off ≠ 0x00C → off ≠ 0x010 → t.ctr = s.ctr)
        ∧ t = { s with ctr := t.ctr, hif := { s.hif with mgmtLatch := t.hif.mgmtLatch }, sbm := t.sbm })
      ∧ (s.pwr.pwrgood = true → ∀ x ∈ [(0x00C, cSbmDrop), (0x010, cSbmBadAcc)], ∃ t, exec (.regRead x.1) s = .next t
        ∧ t.sbm.rspStatus = 0 ∧ t.sbm.rspData = [s.ctrGet x.2] ∧ t.ctrGet x.2 = 0 ∧ (∀ o, o ≠ x.2 → t.ctrGet o = s.ctrGet o))
      ∧ (s.pwr.pwrgood = false → off ≠ 0x4004 → off ≠ 0x5000 →
        exec (.regRead off) s = .next { s with sbm := { s.sbm with rspStatus := 3, rspData := [], rspBytes := [] } })
      ∧ (s.pwr.pwrgood = false →
        exec (.regRead 0x4004) s =
          .next { s with sbm := { s.sbm with rspStatus := 0, rspData := [s.pwr.sticky.setWidth 32], rspBytes := [] } }
        ∧ exec (.regRead 0x5000) s =
          .next { s with sbm := { s.sbm with rspStatus := 0, rspData := [s.evt.alarm.setWidth 32], rspBytes := [] } }))
    ∧ (s.pwr.aon = true → ∀ write size,
      (s.pwr.pwrgood = true → off % 4 ≠ 0 → ∃ t, exec (.badAccess .mgmt write off size) s = .next t ∧ t.sbm.rspStatus = 1
        ∧ t.ctrGet cSbmBadAcc = satAdd (s.ctrGet cSbmBadAcc) 1)
      ∧ (s.pwr.pwrgood = false → off ≠ 0x4004 → off ≠ 0x5000 → exec (.badAccess .mgmt write off size) s =
        .next { s with sbm := { s.sbm with rspStatus := 3, rspData := [], rspBytes := [] } }))
    ∧ (s.hostUp = true → off % 4 = 0 → listed off = false →
      exec (.badAccess .host false off 4) s = .next { s with hif := { s.hif with readData := [0], poisoned := false } }
      ∧ exec (.badAccess .host true off 4) s = .next (s.count cBadAcc 1))

/-- The always-on domain (R389, R408, R414, R417, R421, R433, R442): its power-up samples the straps and resumes the operating hours 1/256 h
past the saved count, and happens once; below 34 V it loses its locks, its session, its buffer, PWR_STICKY, EVT_ALARM and its latches, and
the main rails are off. -/
def Obligations.AlwaysOnDomainComesAndGoes : Prop :=
  ∀ (s : State),
    (∀ sel addr, s.pwr.aon = false → exec (.alwaysOnPowerUp sel addr) s = .next { s with
      pwr := { s.pwr with aon := true, dom := 0x200000000 }, sbm := { s.sbm with i3c := sel, addr := addr },
      evt := { s.evt with hours := s.evt.savedHours + 256, savedHours := s.evt.savedHours + 256 } })
    ∧ (∀ sel addr, s.pwr.aon = true → exec (.alwaysOnPowerUp sel addr) s = .next s)
    ∧ (∀ mv, s.pwr.aon = true → mv < 34000 → ∃ t, exec (.inputBelow34V mv) s = .next t
      ∧ t.pwr.aon = false ∧ t.pwr.pwrgood = false ∧ t.pwr.dom = 0 ∧ t.pwr.thermLatch = false ∧ t.pwr.ovLatch = false
      ∧ t.pwr.offLatch = false ∧ t.sbm.lockPower = false ∧ t.sbm.lockSecurity = false ∧ t.sbm.session = false
      ∧ t.pwr.sticky = 0 ∧ t.evt.alarm = 0 ∧ t.evt.aonBuf = [] ∧ t.evt.page = [] ∧ t.evt.hours = s.evt.hours ∧ t.evt.savedHours = s.evt.savedHours
      ∧ t.sec.keys = s.sec.keys ∧ t.sec.owner = s.sec.owner ∧ t.sec.rollback = s.sec.rollback)

/-- The main rails come up (R24, R293, R390, R396 to R398, R421, R427, R428, R431, R449): within 43.0 V to 58.0 V and with nothing latched,
PWRGOOD is reached, PCYCLE grows by 1, and a pending activation, unlock or seal takes effect; outside that range the input is noted
alone; a rail that fails its power-good stops start-up with step 4 and cause 3; a domain that comes good on its retry is on, a
cluster's returning from off with the blocks of its cores loaded again, and a second failure makes a cluster's eight cores absent, takes a link
port DOWN, and of any other domain stops start-up or makes the device LOST. That the sequence up to PWRGOOD is one command and a rail's
time-out another is the model's reading (log 72), and so is that unlock and seal wait for this start, the seal first (log 80). -/
def Obligations.RailsAndDomainsComeUp : Prop :=
  ∀ (s : State) (mv : Nat),
    (s.mayStartRails = true → (43000 ≤ mv → mv ≤ 58000 → ∃ t, exec (.mainRailEnable mv) s = .next t
      ∧ t.pwr.pwrgood = true ∧ t.pwr.startStep = 5 ∧ t.pwr.vin = wd mv ∧ t.evt.pcycle = (s.evt.pcycle + 1) % 2 ^ 24
      ∧ t.sec = { s.sec with
          fwB := if s.sec.activate then !s.sec.fwB else s.sec.fwB, activate := false,
          debug := if s.sec.sealArmed then 2 else s.sec.debug, unlocked := s.sec.unlockArmed && !s.sec.sealArmed,
          unlocks := if s.sec.unlockArmed && !s.sec.sealArmed then s.sec.unlocks + 1 else s.sec.unlocks,
          unlockArmed := false, sealArmed := false, failover := false, bootGood := false, wdCount := 0 }
      ∧ t.evt.aonBuf = s.evt.aonBuf)
    ∧ (mv < 43000 ∨ 58000 < mv → exec (.mainRailEnable mv) s = .next { s with pwr := { s.pwr with vin := wd mv } })
    ∧ (∀ rail, rail < 10 → rail ≠ 1 → ∃ t, exec (.railPowerGoodTimeout rail) s = .next t
      ∧ t.pwr.startFail = some (4, 3) ∧ t.pwr.pwrgood = false ∧ t.pwr.sticky.getLsbD 9 = true
      ∧ t.evt.pcycle = (s.evt.pcycle + 1) % 2 ^ 24))
    ∧ (∀ dom nvm, dom < 36 → s.pwr.pwrgood = true →
      (∃ t, exec (.domainRetry dom true nvm) s = .next t
        ∧ t.pwr = { s.pwr with dom := s.pwr.dom ||| BitVec.ofNat 36 (2 ^ dom) }
        ∧ (16 ≤ dom ∨ s.pwr.dom.getLsbD dom = true → t = { s with pwr := t.pwr }))
      ∧ (dom < 16 → ∃ t, exec (.domainRetry dom false nvm) s = .next t ∧ t.pwr.sticky.getLsbD 9 = true
        ∧ ∀ c, 8 * dom ≤ c → c < 8 * dom + 8 → t.isAbsent c = true)
      ∧ (20 ≤ dom → dom ≤ 25 → ∃ t, exec (.domainRetry dom false nvm) s = .next t ∧ t.pwr.sticky.getLsbD 9 = true
        ∧ (t.port (dom - 20)).state = .down)
      ∧ ((16 ≤ dom ∧ dom < 20) ∨ 25 < dom → s.pwr.startStep ≠ 0 → ∃ t, exec (.domainRetry dom false nvm) s = .next t
        ∧ t.pwr.sticky.getLsbD 9 = true ∧ t.pwr.startFail = some (4, 3))
      ∧ ((16 ≤ dom ∧ dom < 20) ∨ 25 < dom → s.pwr.startStep = 0 → s.hif.state ≠ .fault → s.hif.waitq = [] → s.hif.deleting = [] →
        s.hif.seqBusy = none → s.stp.saved = none → s.runningRecipe = none →
        ∃ t, exec (.domainRetry dom false nvm) s = .next t ∧ t.pwr.sticky.getLsbD 9 = true ∧ t.hif.state = .lost ∧ t.hif.ready = false))

/-- Brace and over-voltage (R390, R391, R394, R407): the first crossing below 42.0 V enters the brace state with SUPPLY = BRACE and its
sticky bits; a further one keeps the lowest input; 43.0 V held for 5 ms leaves it. Above 58.0 V SUPPLY is OV_WARN with no change to
work, until 57.0 V; one second at or below 58.0 V restarts the rails, unless the shutdown is latched. That an input above 58.0 V shows
OV_WARN also while braced is the model's reading (log 77). -/
def Obligations.SupplyFollowsTheInput : Prop :=
  ∀ (s : State) (mv : Nat),
    (mv < 42000 → s.pwr.pwrgood = true → s.pwr.braced = false → ∃ t, exec (.pwrWarn mv) s = .next t
      ∧ t.pwr.braced = true ∧ t.pwr.supply = .brace ∧ t.pwr.vin = wd mv ∧ t.pwr.braceLow = wd mv
      ∧ t.pwr.sticky.getLsbD 0 = true ∧ t.pwr.sticky.getLsbD 1 = true)
    ∧ (mv < 42000 → s.pwr.pwrgood = true → s.pwr.braced = true → ∃ t, exec (.pwrWarn mv) s = .next t
      ∧ t.pwr.braced = true ∧ t.pwr.vin = wd mv ∧ t.pwr.braceLow = (if mv < s.pwr.braceLow.toNat then wd mv else s.pwr.braceLow)
      ∧ t.pwr.sticky.getLsbD 0 = true)
    ∧ (∀ lowest us, 43000 ≤ mv → s.pwr.braced = true → ∃ t, exec (.braceLeave mv lowest us) s = .next t
      ∧ t.pwr.braced = false ∧ t.pwr.supply = s.supplyOf false (s.pwr.supply == Supply.ovWarn) ∧ t.pwr.vin = wd mv)
    ∧ (58000 < mv → s.pwr.aon = true → s.pwr.supply ≠ .ovWarn → ∃ t, exec (.pwrOvw mv) s = .next t
      ∧ t.pwr.supply = .ovWarn ∧ t.pwr.sticky.getLsbD 2 = true ∧ t.pwr.pwrgood = s.pwr.pwrgood ∧ t.stp = s.stp ∧ t.store = s.store
      ∧ t.ana = s.ana)
    ∧ (mv ≤ 57000 → s.pwr.supply = .ovWarn → exec (.ovWarnClear mv) s =
      .next { s with pwr := { s.pwr with vin := wd mv, supply := s.supplyOf s.pwr.braced false } })
    ∧ (43000 ≤ mv → mv ≤ 58000 → s.pwr.ovWait = true → s.pwr.ovLatch = false →
      State.mayStartRails { s with pwr := { s.pwr with ovWait := false } } = true → ∃ t, exec (.ovRestart mv) s = .next t
      ∧ t.pwr.pwrgood = true ∧ t.pwr.startStep = 5 ∧ t.pwr.ovWait = false)
    ∧ (mv ≤ 58000 → s.pwr.ovWait = true → s.pwr.ovLatch = true → exec (.ovRestart mv) s =
      .next { s with pwr := { s.pwr with vin := wd mv, ovWait := false } })

/-- The shutdowns (R393, R394, R403, R408): each takes the main rails off, sets its sticky bit, and leaves its ALARM record in the
always-on buffer; the fourth over-voltage shutdown within one operating hour latches, and so does every thermal shutdown, at 115 °C of a
die, 108 °C of a memory device, 75 °C of the coolant outlet or 130 °C of a power stage. -/
def Obligations.ShutdownsTakeTheRailsOff : Prop :=
  ∀ (s : State), s.pwr.pwrgood = true → s.pwr.aon = true →
    (∀ mv, mv < 38000 → ∃ t, exec (.pwrUvReset mv) s = .next t
      ∧ t.pwr.pwrgood = false ∧ t.hif.ready = false ∧ t.pwr.sticky.getLsbD 6 = true ∧ t.pwr.ovLatch = s.pwr.ovLatch
      ∧ (∃ r ∈ t.evt.aonBuf, r.code = 0x1003) ∧ t.evt.alarm.getLsbD 1 = true)
    ∧ (∀ mv, 62000 < mv →
      let recent := s.pwr.ovHours.filter (fun h => decide (s.evt.hours - h < 65536))
      ∃ t, exec (.pwrOvShut mv) s = .next t
        ∧ t.pwr.pwrgood = false ∧ t.hif.ready = false ∧ t.pwr.sticky.getLsbD 7 = true
        ∧ (∃ r ∈ t.evt.aonBuf, r.code = 0x1005) ∧ t.pwr.ovLatch = decide (3 ≤ recent.length) ∧ t.pwr.ovWait = true
        ∧ t.pwr.ovHours = recent ++ [s.evt.hours])
    ∧ (∀ src temp, thermLimit src ≤ temp → ∃ t, exec (.thermShutdown src temp) s = .next t
      ∧ t.pwr.pwrgood = false ∧ t.hif.ready = false ∧ t.pwr.sticky.getLsbD 8 = true ∧ t.pwr.thermLatch = true
      ∧ (∃ r ∈ t.evt.aonBuf, r.code = 0x2006) ∧ t.evt.alarm.getLsbD 2 = true)

/-- The boot ROM and the watchdogs (R381, R427, R449): the copy in use boots if it verifies and is not below the rollback counter,
else the other one, with BOOT_FAILOVER, else start-up stops; the boot watchdog's third firing boots the other copy; the third
SYSCTL_WATCHDOG within one operating hour is FATAL, at which foreground work stops (R381). -/
def Obligations.BootChoosesAGoodCopy : Prop :=
  ∀ (s : State),
    (∀ aOk bOk : Bool, s.pwr.startStep = 5 → s.pwr.braced = false →
      let mine := s.copyPasses s.sec.fwB (if s.sec.fwB then bOk else aOk)
      let other := s.copyPasses (!s.sec.fwB) (if s.sec.fwB then aOk else bOk)
      (mine = true → exec (.firmwareBoot aOk bOk) s = .next { s with pwr := { s.pwr with startStep := 6 } })
      ∧ (mine = false → other = true → ∃ t, exec (.firmwareBoot aOk bOk) s = .next t
        ∧ t.sec.fwB = !s.sec.fwB ∧ t.sec.failover = true ∧ t.pwr.startStep = 6)
      ∧ (mine = false → other = false → ∃ t, exec (.firmwareBoot aOk bOk) s = .next t
        ∧ t.pwr.startFail = some (5, 1) ∧ t.pwr.startStep = 0 ∧ t.sec.fwB = s.sec.fwB))
    ∧ (6 ≤ s.pwr.startStep → s.sec.bootGood = false →
      (s.sec.wdCount < 2 → exec .bootWatchdog s = .next { s with
        sec := { s.sec with wdCount := s.sec.wdCount + 1 }, pwr := { s.pwr with startStep := 6 } })
      ∧ (2 ≤ s.sec.wdCount → s.sec.failover = false → s.copyPasses (!s.sec.fwB) true = true → ∃ t, exec .bootWatchdog s = .next t
        ∧ t.sec.fwB = !s.sec.fwB ∧ t.sec.failover = true ∧ t.sec.wdCount = 0 ∧ t.pwr.startStep = 6)
      ∧ (2 ≤ s.sec.wdCount → (s.sec.failover = true ∨ s.copyPasses (!s.sec.fwB) true = false) → ∃ t, exec .bootWatchdog s = .next t
        ∧ t.pwr.startFail = some (5, 1)))
    ∧ (s.pwr.pwrgood = true →
      let recent := s.flt.wdHours.filter (fun h => decide (s.evt.hours - h < 65536))
      (recent.length < 2 → exec .sysctlWatchdog s = .next { s with flt := { s.flt with wdHours := recent ++ [s.evt.hours] } })
      ∧ (2 ≤ recent.length → s.hif.state ≠ .fault → s.hif.waitq = [] → s.hif.deleting = [] → s.hif.seqBusy = none →
        s.stp.saved = none → ∃ t, exec .sysctlWatchdog s = .next t ∧ t.hif.state = .fault ∧ t.flt.fatal = true ∧ t.hif.ready = false))

/-- Start-up's steps (R146, R316, R381, R427, R428, R448, R449): each leads to the next or stops; a firmware copy whose own check does not
complete gives way to the other one, and a failed core map, NVM or security root is FATAL; memory runs at the highest rate that every device
passed and holds nothing; the boot declared good raises the rollback counter to the security version that booted; the last
step makes the device READY; a brace holds every step; and 120 s below 5 °C stop it with step 9, cause 4. That nothing in memory is listed
where it reads zero is the model's (log 4). -/
def Obligations.StartUpGoesStepByStep : Prop :=
  ∀ (s : State) (o : StartObs),
    (s.pwr.braced = true → exec (.startupStep o) s = .next s)
    ∧ (s.pwr.braced = false →
      (s.pwr.startStep = 6 → o.selfOk = true → o.coreMapOk = true → o.nvmOk = true → o.secOk = true → ∃ t, exec (.startupStep o) s = .next t
        ∧ t.pwr.startStep = 7)
      ∧ (s.pwr.startStep = 6 → o.selfOk = true → (o.coreMapOk = false ∨ o.nvmOk = false ∨ o.secOk = false) → s.hif.waitq = [] → s.hif.deleting = [] →
        s.hif.seqBusy = none → s.stp.saved = none → ∃ t, exec (.startupStep o) s = .next t ∧ t.hif.state = .fault ∧ t.flt.fatal = true)
      ∧ (s.pwr.startStep = 6 → o.selfOk = false →
        (s.sec.failover = false → s.copyPasses (!s.sec.fwB) true = true → ∃ t, exec (.startupStep o) s = .next t
          ∧ t.sec.fwB = !s.sec.fwB ∧ t.sec.failover = true ∧ t.pwr.startStep = 6)
        ∧ (s.sec.failover = true ∨ s.copyPasses (!s.sec.fwB) true = false → ∃ t, exec (.startupStep o) s = .next t
          ∧ t.pwr.startFail = some (5, 1) ∧ t.pwr.startStep = 0))
      ∧ (s.pwr.startStep = 7 →
        (o.rates.foldl min 4 = 0 → ∃ t, exec (.startupStep o) s = .next t ∧ t.pwr.startFail = some (7, 2))
        ∧ (o.rates.foldl min 4 ≠ 0 → ∃ t, exec (.startupStep o) s = .next t
          ∧ t.pwr.startStep = 8 ∧ t.mem.rate = o.rates.foldl min 4 ∧ (∀ a, Mem.get t.store.gddr a = 0)))
      ∧ (s.pwr.startStep = 8 → exec (.startupStep o) s = .next { s.testFailures o.dtFail with
          pwr := { (s.testFailures o.dtFail).pwr with startStep := 9 } })
      ∧ (s.pwr.startStep = 9 → o.temp < 5 → exec (.startupStep o) s = .next s)
      ∧ (s.pwr.startStep = 9 → 5 ≤ o.temp → s.flt.moving = [] → ∃ t, exec (.startupStep o) s = .next t ∧ t.pwr.startStep = 10)
      ∧ (s.pwr.startStep = 10 → ∃ t, exec (.startupStep o) s = .next t ∧ t.pwr.startStep = 11 ∧ t.sec.bootGood = true
        ∧ t.sec.rollback.toNat = max s.sec.rollback.toNat s.fwCopy.svn.toNat)
      ∧ (s.pwr.startStep = 11 → s.hif.state = .boot → s.hif.waitq = [] → s.hif.deleting = [] → s.hif.seqBusy = none →
        ∃ t, exec (.startupStep o) s = .next t ∧ t.hif.state = .ready ∧ t.hif.ready = true ∧ t.pwr.startStep = 0))
    ∧ (s.pwr.startStep = 9 → ∃ t, exec .selfHeatTimeout s = .next t ∧ t.pwr.startFail = some (9, 4) ∧ t.pwr.startStep = 0)

/-- The resets of the module interface (R336, R353, R443, R444): MOD_RESET_N takes the main side down with its event and lets it go
again; PERST_N and a function-level reset delete every rail and pass but the admin pair and stop a running recipe at its
boundary; a link that trains narrower than x8 holds the function in reset. -/
def Obligations.ResetsActOnTheirSide : Prop :=
  ∀ (s : State),
    (s.pwr.modReset = false → s.pwr.pwrgood = true → s.pwr.aon = true → ∃ t, exec .modReset s = .next t
      ∧ t.pwr.modReset = true ∧ t.pwr.pwrgood = false ∧ t.hif.ready = false ∧ (∃ r ∈ t.evt.aonBuf, r.code = 0x1009))
    ∧ exec .modResetRelease s = .next { s with pwr := { s.pwr with modReset := false } }
    ∧ (∃ t, exec .perstAssert s = .next t ∧ t.hif.perst = true
      ∧ (s.hif.mboxEn = true → t.hif.rails = [(0, s.hif.adminRail)] ∧ t.hif.passes = [(0, s.hif.adminPass)])
      ∧ t.hif.waitq = [] ∧ (s.rcp.state = .running → t.rcp.state = .stopping)
      ∧ t = { s with hif := t.hif, rcp := { s.rcp with startNext := none, state := t.rcp.state } })
    ∧ (∀ width rate, 8 ≤ width → exec (.perstRelease width rate) s =
      .next { s with hif := { s.hif with perst := false, width := width, rate := rate, held := false } })
    ∧ (∀ width rate, width < 8 → ∃ t, exec (.perstRelease width rate) s = .next t ∧ t.hif.held = true ∧ t.hif.perst = false
      ∧ t.hostUp = false)
    ∧ (s.hostUp = true → ∃ t, exec .functionLevelReset s = .next t
      ∧ (s.hif.mboxEn = true → t.hif.rails = [(0, s.hif.adminRail)] ∧ t.hif.passes = [(0, s.hif.adminPass)])
      ∧ t.hif.waitq = [] ∧ (s.rcp.state = .running → t.rcp.state = .stopping)
      ∧ t = { s with hif := t.hif, rcp := { s.rcp with startNext := none, state := t.rcp.state } })

/-- R413: a command marked Secured returns status 0x05 outside a session, with AUTH_FAIL; OWNER_SET is one of them once an owner root
is set. Without the main rails each waits with vendor status 0x03 (R412). -/
def Obligations.SecuredCommandsNeedTheSession : Prop :=
  ∀ (s : State) (sec : Bool) (c : Instr), s.pwr.aon = true → (sec = false ∨ s.sbm.session = false) →
    ((∃ slot key, c = .recipeKey sec slot key) ∨ (∃ p d key beat, c = .linkKey sec p d key beat) ∨ c = .recClear sec
      ∨ (∃ page, c = .exportData sec page) ∨ (∃ cls unit, c = .classClear sec cls unit) ∨ (∃ x, c = .debugUnlock sec x)
      ∨ (∃ cert, c = .ownerSet sec cert ∧ s.sec.owner.isSome = true)) →
    (s.pwr.pwrgood = true → ∃ t, exec c s = .next t ∧ t = (s.raise 0xA005 []).rsp 5 []
      ∧ t.evt.alarm.getLsbD 10 = true ∧ t.sec = s.sec ∧ t.evt.first = s.evt.first ∧ t.flt = s.flt)
    ∧ (s.pwr.pwrgood = false →
      exec c s = .next { s with sbm := { s.sbm with rspStatus := 3, rspData := [], rspBytes := [] } })

/-- Locks and power from the management port (R351, R393, R394, R403, R413, R414, R443, R449): LOCK changes the lock it names alone and sets
SB_CHANGE when it changes; POWER_ON releases the latches and starts the rails, but with MOD_RESET_N low, or once start-up has stopped, is
status 2; POWER_OFF takes them off without PWR_UV_RESET, and keeps them off, by a latch of the model's own (log 77); POWER_LIMIT takes 450
to 1,200 W, and the host's tickets of the same beat are DENIED, a rule that holds while ticks come (the model's reading, log 82). -/
def Obligations.ManagementRulesLocksAndPower : Prop :=
  ∀ (s : State), s.pwr.aon = true →
    (∀ power take, s.pwr.pwrgood = true → ∃ t, exec (.lock power take) s = .next t ∧ t.sbm.rspStatus = 0
      ∧ t.sbm.lockPower = (if power then take else s.sbm.lockPower)
      ∧ t.sbm.lockSecurity = (if power then s.sbm.lockSecurity else take)
      ∧ (t.sbm.lockPower ≠ s.sbm.lockPower ∨ t.sbm.lockSecurity ≠ s.sbm.lockSecurity → t.hif.irqStat = s.hif.irqStat ||| 8)
      ∧ t.pwr = s.pwr ∧ t.evt = s.evt ∧ t.sec = s.sec)
    ∧ (s.pwr.modReset = true ∨ s.pwr.startFail.isSome = true →
      exec .powerOn s = .next { s with sbm := { s.sbm with rspStatus := 2, rspData := [], rspBytes := [] } })
    ∧ (s.pwr.modReset = false → s.pwr.startFail = none → ∃ t, exec .powerOn s = .next t ∧ t.sbm.rspStatus = 0
      ∧ t.pwr.ovLatch = false ∧ t.pwr.thermLatch = false ∧ t.pwr.offLatch = false
      ∧ (43000 ≤ s.pwr.vin.toNat → s.pwr.vin.toNat ≤ 58000 → t.pwr.pwrgood = true)
      ∧ (s.pwr.vin.toNat < 43000 ∨ 58000 < s.pwr.vin.toNat → t.pwr.pwrgood = s.pwr.pwrgood))
    ∧ (∃ t, exec .powerOff s = .next t ∧ t.sbm.rspStatus = 0 ∧ t.pwr.pwrgood = false ∧ t.hif.ready = s.hif.ready.and (!s.pwr.pwrgood)
      ∧ t.pwr.sticky = s.pwr.sticky ∧ t.evt.alarm = s.evt.alarm ∧ (∀ r ∈ t.evt.aonBuf, r ∈ s.evt.aonBuf) ∧ t.mayStartRails = false
      ∧ t.sec.keys = s.sec.keys ∧ t.sec.owner = s.sec.owner)
    ∧ (∀ w : Word, s.pwr.pwrgood = true →
      (450 ≤ w.toNat → w.toNat ≤ 1200 → ∃ t, exec (.mgmtPowerLimit w) s = .next t ∧ t.sbm.rspStatus = 0
        ∧ t.pwr = { s.pwr with limit := w, mgmtLimit := s.pwr.tickDriven } ∧ (s.hif.limits = [] → t.hif = s.hif)
        ∧ t = (({ s with pwr := t.pwr }).endLimits 5 s.hif.limits).rsp 0 [])
      ∧ (w.toNat < 450 ∨ 1200 < w.toNat → exec (.mgmtPowerLimit w) s =
        .next { s with sbm := { s.sbm with rspStatus := 1, rspData := [], rspBytes := [] } }))

/-- Keys and the owner root (R301, R413, R429, R431): OWNER_SET is taken outside a session while no root is set; RECIPE_KEY puts or
deletes its slot's key alone, raises KEY_CHANGE, and unloads what that slot verified but the running recipe, which stops at
its boundary; LINK_KEY notes the pending key of its port and direction; DEBUG_UNLOCK is taken in LOCKED alone, and erases every key. -/
def Obligations.KeysAreInstalledInASession : Prop :=
  ∀ (s : State), s.pwr.aon = true → s.pwr.pwrgood = true →
    (∀ sec cert, s.sec.owner = none ∨ (sec = true ∧ s.sbm.session = true) → exec (.ownerSet sec cert) s = .next { s with
      sec := { s.sec with owner := some cert }, sbm := { s.sbm with rspStatus := 0, rspData := [], rspBytes := [] } })
    ∧ (s.sbm.session = true →
      (∀ slot key, 3 < slot → exec (.recipeKey true slot key) s =
        .next { s with sbm := { s.sbm with rspStatus := 1, rspData := [], rspBytes := [] } })
      ∧ (∀ slot key, slot ≤ 3 → s.hostStill → ∃ t, exec (.recipeKey true slot key) s = .next t ∧ t.sbm.rspStatus = 0
        ∧ Tab.find t.sec.keys slot = key ∧ (∀ k, k ≠ slot → Tab.find t.sec.keys k = Tab.find s.sec.keys k)
        ∧ t.evt.alarm.getLsbD 10 = true
        ∧ (∀ h r, s.recipe h = some r → r.head.keyId ≠ slot → t.recipe h = some r)
        ∧ (∀ h r, s.recipe h = some r → r.head.keyId = slot → (s.runningRecipe = none ∨ h ≠ s.rcp.handle) → t.recipe h = none)
        ∧ (∀ r, s.runningRecipe = some r → r.head.keyId = slot →
          t.recipe s.rcp.handle = some r ∧ t.rcp.state = .stopping ∧ t.rcp.unloadAtStop = true))
      ∧ (∀ port sending key beat, port < 6 → key.length = 32 →
        let k : LinkKey := { key := key, beat := beat, active := false }
        exec (.linkKey true port sending key beat) s = .next { s with
        sec := { s.sec with linkKeys := Tab.put s.sec.linkKeys (12 + 2 * port + (if sending then 1 else 0)) k },
        sbm := { s.sbm with rspStatus := 0, rspData := [], rspBytes := [] } })
      ∧ (s.sec.debug ≠ 1 → ∀ x, exec (.debugUnlock true x) s =
        .next { s with sbm := { s.sbm with rspStatus := 2, rspData := [], rspBytes := [] } })
      ∧ (s.sec.debug = 1 → s.hostStill → ∀ x, ∃ t, exec (.debugUnlock true x) s = .next t ∧ t.sbm.rspStatus = 0
        ∧ t.sec = { s.sec with keys := [], linkKeys := [], rsealed := 0, sealArmed := s.sec.sealArmed || x,
                               unlockArmed := s.sec.unlockArmed || !x }
        ∧ t.evt.alarm.getLsbD 10 = true))

/-- The recorder and the histories in a session (R361, R364, R413, R418): REC_CLEAR empties the first area, of which REC_CLEARED becomes the
first record, numbered as the next one; what waited in the queue is written before (the model's choice, log 123); EXPORT returns a page of
4,096 bytes and changes nothing; CLASS_CLEAR brings a unit's entry back to CLEAN, keeping its corrected events, and is refused for a RETIRED
unit. -/
def Obligations.HistoriesAreReadAndCleared : Prop :=
  ∀ (s : State), s.pwr.aon = true → s.pwr.pwrgood = true → s.sbm.session = true →
    (∃ t r, exec (.recClear true) s = .next t ∧ t.sbm.rspStatus = 0 ∧ t.evt.first = [r] ∧ r.code = 0xD003 ∧ t.evt.firstFull = false
      ∧ (s.evt.queue = [] → t.evt.queue = [] ∧ r.seq = s.evt.seq ∧ t.evt.seq = (s.evt.seq + 1) % 2 ^ 32 ∧ t.evt.alarm = s.evt.alarm
        ∧ (s.evt.page.length < 63 → t.evt.circ = s.evt.circ ∧ t.evt.page = s.evt.page ++ [r])))
    ∧ (∀ page, (page = 0 ∨ 4096 * page < s.exportBytes.length) → ∃ t, exec (.exportData true page) s = .next t
      ∧ t.sbm.rspStatus = 0 ∧ t.sbm.rspBytes.length = 4096
      ∧ (∀ i, i < 4096 → t.sbm.rspBytes.getD i 0 = s.exportBytes.getD (4096 * page + i) 0)
      ∧ t = { s with sbm := t.sbm })
    ∧ (∀ page, page ≠ 0 → s.exportBytes.length ≤ 4096 * page → exec (.exportData true page) s =
      .next { s with sbm := { s.sbm with rspStatus := 1, rspData := [], rspBytes := [] } })
    ∧ (∀ cls unit, unit < unitCount cls →
      (∀ e, s.hist? cls unit = some e → e.state = .retired → exec (.classClear true cls unit) s =
        .next { s with sbm := { s.sbm with rspStatus := 2, rspData := [], rspBytes := [] } })
      ∧ (s.hist? cls unit = none → exec (.classClear true cls unit) s =
        .next { s with sbm := { s.sbm with rspStatus := 0, rspData := [], rspBytes := [] } })
      ∧ (∀ e, s.hist? cls unit = some e → e.state ≠ .retired → ∃ t f, exec (.classClear true cls unit) s = .next t
        ∧ t.sbm.rspStatus = 0 ∧ t.hist? cls unit = some f ∧ f.state = .clean ∧ f.ce = e.ce ∧ f.phys = (s.histOf cls unit).phys ∧ f.err = 0
        ∧ f.first = 0 ∧ f.last = 0 ∧ f.prev = 0 ∧ f.dtFail = false
        ∧ (∀ c u, (c, u) ≠ (cls, unit) → t.hist? c u = s.hist? c u)))

/-- MCTP and PLDM (R410 to R412, R426): the bus owner's EID is taken, another message type is discarded and counted, an unsupported
PLDM type or command is refused, and a sensor answers its value, one of the main side ERROR_NOT_READY while the rails are off. The
completion codes' numbers are the model's (log 31). -/
def Obligations.MctpAndPldmAnswer : Prop :=
  ∀ (s : State), s.pwr.aon = true →
    (∀ eid, exec (.mctpControl (.setEid eid)) s =
      .next { s with sbm := { s.sbm with eid := eid, rspStatus := plSuccess, rspData := [], rspBytes := [] } })
    ∧ (∀ code, ∃ t, exec (.mctpControl (.other code)) s = .next t ∧ t = { s with sbm := t.sbm } ∧ t.sbm.eid = s.sbm.eid)
    ∧ (∀ ty, ty ≠ 0x00 → ty ≠ 0x01 → ty ≠ 0x05 → ty ≠ 0x06 → ty ≠ 0x7E → ∃ t, exec (.mctpUnsupportedType ty) s = .next t
      ∧ t.ctrGet cSbmDrop = satAdd (s.ctrGet cSbmDrop) 1 ∧ (∀ o, o ≠ cSbmDrop → t.ctrGet o = s.ctrGet o) ∧ t = { s with ctr := t.ctr })
    ∧ (∀ cmd, 1 ≤ cmd → cmd ≤ 5 → ∃ t, exec (.pldmBase cmd) s = .next t ∧ t.sbm.rspStatus = plSuccess ∧ t = { s with sbm := t.sbm })
    ∧ (∀ cmd, cmd = 0 ∨ 5 < cmd → ∃ t, exec (.pldmBase cmd) s = .next t ∧ t.sbm.rspStatus = plBadCmd ∧ t = { s with sbm := t.sbm })
    ∧ (∀ ty, ty ≠ 0 → ty ≠ 2 → ty ≠ 5 → ∃ t, exec (.pldmUnsupportedType ty) s = .next t
      ∧ t.sbm.rspStatus = (if s.pwr.pwrgood then plBadType else plNotReady) ∧ t = { s with sbm := t.sbm })
    ∧ (∀ id v main, s.sensor id = some (v, main) →
      (main = false ∨ s.pwr.pwrgood = true → ∃ t, exec (.pldmSensorRead id) s = .next t
        ∧ t.sbm.rspStatus = plSuccess ∧ t.sbm.rspData = [0, v] ∧ t = { s with sbm := t.sbm, free := s.free + 1 })
      ∧ (main = true → s.pwr.pwrgood = false → ∃ t, exec (.pldmSensorRead id) s = .next t
        ∧ t.sbm.rspStatus = plNotReady ∧ t.sbm.rspData = [] ∧ t = { s with sbm := t.sbm }))
    ∧ (∀ id, s.sensor id = none → ∃ t, exec (.pldmSensorRead id) s = .next t
      ∧ t.sbm.rspStatus = (if s.pwr.pwrgood then plBadSensor else plNotReady) ∧ t = { s with sbm := t.sbm })

/-- Firmware update (R427, R428): data goes to the inactive copy, which does not boot meanwhile, nor can it be activated before an image there
has verified; an image below the rollback counter is refused with ROLLBACK_REFUSED; one that verifies may be activated, which takes effect at the next start of the main rails, at once
with a self-contained activation; the copy in use stays as it was. Which PLDM commands stand for these steps is the model's reading
(log 79). -/
def Obligations.FirmwareIsUpdatedInTheInactiveCopy : Prop :=
  ∀ (s : State), s.pwr.aon = true → s.pwr.pwrgood = true →
    (∃ t, exec (.pldmFirmwareUpdate .request) s = .next t ∧ t = { s with sbm := t.sbm } ∧ t.sbm.fwImage = [] ∧ t.sbm.fwDone = none)
    ∧ (∀ bs, ∃ t, exec (.pldmFirmwareUpdate (.data bs)) s = .next t ∧ t.sbm.fwImage = s.sbm.fwImage ++ bs
      ∧ t.sbm.fwDone = none
      ∧ t.copyPasses (!s.sec.fwB) true = false ∧ t.fwCopy = s.fwCopy ∧ t.sec.fwB = s.sec.fwB ∧ t.sec.rollback = s.sec.rollback)
    ∧ (∀ ok svn build, svn.toNat < s.sec.rollback.toNat → ∃ t, exec (.pldmFirmwareUpdate (.done ok svn build)) s = .next t
      ∧ t.sbm.fwDone = none ∧ t.sec = s.sec ∧ t.sbm.rspStatus ≠ plSuccess ∧ t.evt.alarm.getLsbD 10 = true)
    ∧ (∀ svn build, s.sec.rollback.toNat ≤ svn.toNat → s.sbm.fwImage ≠ [] →
      ∃ t, exec (.pldmFirmwareUpdate (.done true svn build)) s = .next t ∧ t.sbm.fwDone = some (true, svn, build)
        ∧ t.copyPasses (!s.sec.fwB) true = true ∧ t.fwCopy = s.fwCopy ∧ t.sec.fwB = s.sec.fwB ∧ t.sec.rollback = s.sec.rollback)
    ∧ (∀ ok svn build, s.sec.rollback.toNat ≤ svn.toNat → (ok = false ∨ s.sbm.fwImage = []) →
      ∃ t, exec (.pldmFirmwareUpdate (.done ok svn build)) s = .next t ∧ t.sbm.fwDone = none ∧ t.sec = s.sec)
    ∧ (∀ x, s.sbm.fwDone = none → ∃ t, exec (.activateFirmware x) s = .next t ∧ t.sec = s.sec ∧ t.sbm.rspStatus ≠ plSuccess)
    ∧ (∀ d, s.sbm.fwDone = some d → s.sec.rollback.toNat ≤ d.2.1.toNat →
      (∃ t, exec (.activateFirmware false) s = .next t ∧ t.sec = { s.sec with activate := true } ∧ t.pwr = s.pwr ∧ t.rcp = s.rcp)
      ∧ (43000 ≤ s.pwr.vin.toNat → s.pwr.vin.toNat ≤ 58000 → s.pwr.ovLatch = false → s.pwr.thermLatch = false → s.pwr.offLatch = false →
        s.pwr.ovWait = false → s.pwr.modReset = false →
        ∃ t, exec (.activateFirmware true) s = .next t ∧ t.sec.fwB = !s.sec.fwB ∧ t.sec.activate = false ∧ t.pwr.pwrgood = true
          ∧ t.pwr.startStep = 5))

/-- SPDM (R412, R413, R430): the certificate chain, a signed challenge and the signed measurements answer the requester, the
measurements being those that MEASURE signs; a session opens only for a requester that chains to the owner root; without the main
rails the answer is Busy. What each message holds beside these, and its code's number, are the model's (logs 9, 31). -/
def Obligations.SpdmAnswers : Prop :=
  ∀ (s : State) (nonce : List Byte), s.pwr.aon = true →
    (s.pwr.pwrgood = true →
      (∃ t, exec .spdmGetCertificate s = .next t ∧ t = { s with sbm := t.sbm } ∧ t.sbm.rspBytes = Config.certChain)
      ∧ (∃ t, exec (.spdmChallenge nonce) s = .next t ∧ t = { s with sbm := t.sbm }
        ∧ t.sbm.rspBytes = Config.sha384 Config.certChain ++ nonce ++ Config.identitySign (Config.sha384 Config.certChain ++ nonce))
      ∧ (∃ t, exec (.spdmGetMeasurements nonce) s = .next t ∧ t = { s with sbm := t.sbm }
        ∧ t.sbm.rspBytes = nonce ++ s.measurements ++ Config.identitySign (nonce ++ s.measurements))
      ∧ (s.sec.owner.isSome = true → ∃ t, exec (.spdmKeyExchange true) s = .next t ∧ t.sbm.session = true
        ∧ t = { s with sbm := t.sbm })
      ∧ (∀ x, x = false ∨ s.sec.owner = none → ∃ t, exec (.spdmKeyExchange x) s = .next t ∧ t.sbm.session = s.sbm.session
        ∧ t = { s with sbm := t.sbm }))
    ∧ (s.pwr.pwrgood = false → ∀ c ∈ [Instr.spdmGetCertificate, .spdmChallenge nonce, .spdmGetMeasurements nonce,
        .spdmKeyExchange true, .spdmKeyExchange false],
      exec c s = .next { s with sbm := { s.sbm with rspStatus := spBusy, rspData := [], rspBytes := [] } })


/-- Cables and training (R289, R292 to R297, R301, R312, R397, R445): without its cable, or in a dimension of size 1 of its domain, a port is DISABLED and
its domain off; before DOMAIN_SET no dimension has a size, so that a port with a cable trains (the model's choice, log 124); training with the wrong partner makes it MISWIRED, with one sealed end SEAL_MISMATCH, with fewer than five lanes DOWN,
with five DEGRADED and with six UP; a port that has been DOWN returns only at a boundary, and one that keys or history keep DOWN not
at all. -/
def Obligations.PortsTrainAndReturn : Prop :=
  ∀ (s : State) (p : Nat), p < 6 →
    let lanesOf (o : TrainObs) : BitVec 6 := o.lanes &&& ~~~(s.lanePerm p)
    (∃ t, exec (.cablePresentChange p false) s = .next t ∧ (t.port p).cable = false ∧ (t.port p).state = .disabled
      ∧ t.pwr.dom.getLsbD (20 + p) = false ∧ ∀ q, q ≠ p → (t.port q).state = (s.port q).state)
    ∧ (s.lnk.domain = false ∨ s.dimSize (p / 2) ≠ 1 → (s.port p).works = false → ∃ t, exec (.cablePresentChange p true) s = .next t
      ∧ (t.port p).cable = true ∧ (t.port p).state = (if s.stuckDown p || (s.port p).wasDown then .down else .training)
      ∧ ∀ q, q ≠ p → (t.port q).state = (s.port q).state ∧ (t.port q).lanes = (s.port q).lanes)
    ∧ ((s.port p).state = .miswired ∨ (s.port p).state = .sealMismatch → s.lnk.domain = false ∨ s.dimSize (p / 2) ≠ 1 →
      (s.port p).cable = true → ∃ t, exec (.portRetrain p) s = .next t
        ∧ (t.port p).state = (if s.stuckDown p || (s.port p).wasDown then .down else .training)
        ∧ ∀ q, q ≠ p → (t.port q).state = (s.port q).state ∧ (t.port q).lanes = (s.port q).lanes)
    ∧ ((s.port p).state = .down →
      (s.stuckDown p = false → ∃ t, exec (.portRetrain p) s = .next t ∧ (t.port p).state = .down
        ∧ (t.port p).upNext = false ∧ ∀ q, q ≠ p → t.port q = s.port q)
      ∧ (s.stuckDown p = true → exec (.portRetrain p) s = .next s))
    ∧ (∀ o : TrainObs,
      ((s.port p).cable = false ∨ (s.lnk.domain = true ∧ s.dimSize (p / 2) = 1) → ∃ t, exec (.portTrainingDone p o) s = .next t
        ∧ (t.port p).state = .disabled ∧ t.pwr.dom.getLsbD (20 + p) = false)
      ∧ ((s.port p).cable = true → s.lnk.domain = false ∨ s.dimSize (p / 2) ≠ 1 →
        (s.stuckDown p = true → exec (.portTrainingDone p o) s = .next s)
        ∧ (s.stuckDown p = false →
          (s.rightPartner p o = false → ∃ t, exec (.portTrainingDone p o) s = .next t ∧ (t.port p).state = .miswired)
          ∧ (s.rightPartner p o = true →
            (s.sec.rsealed.getLsbD p ≠ o.partnerSealed → ∃ t, exec (.portTrainingDone p o) s = .next t
              ∧ (t.port p).state = .sealMismatch)
            ∧ (s.sec.rsealed.getLsbD p = o.partnerSealed →
              let n := popCount 6 (lanesOf o).toNat
              (n < 5 → ∃ t, exec (.portTrainingDone p o) s = .next t ∧ (t.port p).state = .down)
              ∧ (5 ≤ n → (s.port p).wasDown = true → ∃ t, exec (.portTrainingDone p o) s = .next t ∧ (t.port p).state = .down
                ∧ (t.port p).upNext = true ∧ (t.port p).laneNext = lanesOf o)
              ∧ (5 ≤ n → (s.port p).wasDown = false → ∃ t, exec (.portTrainingDone p o) s = .next t
                ∧ (t.port p).state = (if n = 6 then .up else .degraded)
                ∧ (t.port p).lanes = lanesOf o ∧ (t.port p).delay = o.delay
                ∧ (t.port p).partner = s.partnerOf p))))))

/-- Lanes (R291, R292, R293, R363, R364): a dropped lane leaves service, its port sends the blocks in flight again and is DEGRADED, or DOWN
below five lanes; one that trains returns at the boundary, one that fails is classified PERMANENT; a received block that fails is asked
for again, the fourth such of a beat drops the lane it is traced to, and a block that holds is no retry. That the port which asks again counts
the retry is the model's reading (log 49). -/
def Obligations.LanesDropAndReturn : Prop :=
  ∀ (s : State) (p l : Nat), p < 6 → l < 6 →
    let bit : BitVec 6 := BitVec.ofNat 6 (2 ^ l)
    ((s.port p).lanes.getLsbD l = true → ∃ t, exec (.laneDrop p l) s = .next t
      ∧ (t.port p).lanes = (s.port p).lanes &&& ~~~bit ∧ (t.port p).wire = (s.port p).wire ++ (s.port p).sent
      ∧ t.ctrGet cLaneDrop = satAdd (s.ctrGet cLaneDrop) 1
      ∧ ((s.port p).works = true → (t.port p).state =
          (if popCount 6 ((s.port p).lanes &&& ~~~bit).toNat < 5 then .down else .degraded))
      ∧ ∀ q, q ≠ p → (t.port q).state = (s.port q).state ∧ (t.port q).lanes = (s.port q).lanes)
    ∧ ((s.port p).lanes.getLsbD l = false → exec (.laneDrop p l) s = .next s)
    ∧ ((s.port p).lanes.getLsbD l = false → (s.lanePerm p).getLsbD l = false →
      (exec (.laneRetrain p l true) s = .next (s.setPort p { s.port p with laneNext := (s.port p).laneNext ||| bit }))
      ∧ ((s.histOf uLane (p * 6 + l)).state = .clean ∨ (s.histOf uLane (p * 6 + l)).state = .transient →
        ∃ t e, exec (.laneRetrain p l false) s = .next t ∧ t.hist? uLane (p * 6 + l) = some e ∧ e.state = .permanent
          ∧ e.dtFail = true ∧ (t.lanePerm p).getLsbD l = true))
    ∧ (∀ seq uncorr data crc,
      (uncorr ≠ 0 ∨ crc32 data ≠ crc →
        (∃ t, exec (.retryBlockFail p seq none uncorr data crc) s = .next t ∧ (t.port p).rxWant = some (seq % 4096)
          ∧ t.ctrGet cRetry = satAdd (s.ctrGet cRetry) 1 ∧ t.ctrGet cFecUncorr = satAdd (s.ctrGet cFecUncorr) uncorr)
        ∧ (∃ t, exec (.retryBlockFail p seq (some l) uncorr data crc) s = .next t ∧ (t.port p).rxWant = some (seq % 4096)
          ∧ t.ctrGet cRetry = satAdd (s.ctrGet cRetry) 1
          ∧ (3 ≤ Tab.get (s.port p).laneFails l 0 → (t.port p).lanes.getLsbD l = false)
          ∧ (Tab.get (s.port p).laneFails l 0 < 3 → (t.port p).lanes = (s.port p).lanes
            ∧ Tab.get (t.port p).laneFails l 0 = Tab.get (s.port p).laneFails l 0 + 1
            ∧ (t.histOf uLane (p * 6 + l)).ce = min 0xFFFFFFFF ((s.histOf uLane (p * 6 + l)).ce + 1))))
      ∧ (crc32 data = crc → ∀ lane, (∀ k ∈ lane, k < 6) → exec (.retryBlockFail p seq lane 0 data crc) s = .next s))

/-- Routing with no dead device and no DOWN port in the table in force (R298, R300): a packet launched here goes by the first dimension in
which its destination differs, the shorter way round, the + way when both are equal; it waits at that port or is sent, or is dropped and
counted when the port carries nothing or its neighbour is dead; one of VC1 or VC3 is kept until it is acknowledged, and sent again
without that; one of them that arrives here from a port is acknowledged to its source. -/
def Obligations.PacketsGoByDimensionOrder : Prop :=
  ∀ (s : State) (x : LinkPkt),
    (∀ k, Tab.find s.lnk.routes s.lnk.gen = none → k < 3 → coordOf x.dst k ≠ coordOf s.device k →
      (∀ j, j < k → coordOf x.dst j = coordOf s.device j) →
      let n := max 1 (s.dimSize k)
      let q := if 2 * ((coordOf x.dst k + n - coordOf s.device k) % n) ≤ n then 2 * k else 2 * k + 1
      let y := s.launched x
      (x.inPort = none → ∃ t, exec (.packetRoute x) s = .next t
        ∧ ((s.port q).works = true → s.partnerOf q ∉ s.lnk.dead →
          ((y, q) ∈ t.lnk.routed ∨ ({ y with second := s.crosses q }, q) ∈ t.lnk.out) ∧ t.ctr = s.ctr)
        ∧ ((s.port q).works = false ∨ s.partnerOf q ∈ s.lnk.dead → t.ctrGet cRouteDrop = satAdd (s.ctrGet cRouteDrop) 1)
        ∧ (x.vc = 1 ∨ x.vc = 3 → Tab.find t.lnk.unacked x.id = some y)
        ∧ (x.vc ≠ 1 → x.vc ≠ 3 → t.lnk.unacked = s.lnk.unacked))
      ∧ (∀ id, Tab.find s.lnk.unacked id = some x → (s.port q).works = true → s.partnerOf q ∉ s.lnk.dead →
        ∃ t, exec (.e2eResendTimeout id) s = .next t
          ∧ ((y, q) ∈ t.lnk.routed ∨ ({ y with second := s.crosses q }, q) ∈ t.lnk.out)
          ∧ Tab.get t.lnk.resends id 0 = Tab.get s.lnk.resends id 0 + 1 ∧ Tab.find t.lnk.unacked id = some x))
    ∧ (∀ p, p < 6 → x.inPort = some p → x.dst = s.device → ∃ t, exec (.packetRoute x) s = .next t
      ∧ t.lnk.acked = (if x.vc = 1 ∨ x.vc = 3 then s.lnk.acked ++ [(x.src, x.id)] else s.lnk.acked)
      ∧ t.lnk.routed = s.lnk.routed ∧ t.lnk.out = s.lnk.out)

/-- Retry blocks, credit, routing tables and tags (R291, R294, R295, R300, R301): a resend request has the sender send again from the
failed block on, an acknowledgement takes the blocks up to the one named out of the retry store, returned credit is the VC's
again, and no waiting packet is lost; an end-to-end acknowledgement ends a packet's resends; a routing table is acknowledged to the
master, the number of its packet being the model's (log 125), and one of the other generation waits for its tick; a sealed unit whose tag fails is asked for again, and the third in a row takes the port DOWN with its keys spoilt. -/
def Obligations.LinkStateIsKept : Prop :=
  ∀ (s : State) (p : Nat), p < 6 →
    let waitsOrSent (t : State) : Prop := ∀ k ∈ s.lnk.routed,
      k ∈ t.lnk.routed ∨ ({ k.1 with second := k.1.second || s.crosses k.2 }, k.2) ∈ t.lnk.out
    (∀ (a r : List Block) (b : Block), (s.port p).sent = a ++ b :: r → (∀ c ∈ a, c.seq ≠ b.seq) → b.seq < 4096 →
      exec (.linkResendRequest p b.seq) s = .next (s.setPort p { s.port p with wire := (s.port p).wire ++ b :: r })
      ∧ (∀ corr, ∃ t, exec (.retryBlockAcknowledgement p b.seq corr) s = .next t
        ∧ t.ctrGet cFecCorr = satAdd (s.ctrGet cFecCorr) corr
        ∧ (s.lnk.routed = [] → (t.port p).sent = r)
        ∧ waitsOrSent t))
    ∧ (∀ seq, (∀ b ∈ (s.port p).sent, b.seq ≠ seq % 4096) → exec (.linkResendRequest p seq) s = .next (s.setPort p (s.port p))
      ∧ exec (.retryBlockAcknowledgement p seq 0) s = .next s)
    ∧ (∀ vc bytes, vc < 16 → ∃ t, exec (.creditReturn p vc bytes) s = .next t
      ∧ (s.lnk.routed = [] → Tab.get (t.port p).credit vc 0 = Tab.get (s.port p).credit vc 0 - bytes)
      ∧ waitsOrSent t ∧ t = { s with lnk := t.lnk })
    ∧ (∀ id, ∃ t, exec (.endToEndAcknowledgement id) s = .next t ∧ Tab.find t.lnk.unacked id = none
      ∧ (∀ j, j ≠ id → Tab.find t.lnk.unacked j = Tab.find s.lnk.unacked j) ∧ exec (.e2eResendTimeout id) t = .next t)
    ∧ (∀ gen beat dead down, gen < 2 →
      (gen ≠ s.lnk.gen → ∃ t, exec (.routeTableReceive gen beat dead down) s = .next t
        ∧ Tab.find t.lnk.routes gen = some { dead := dead, down := down } ∧ t.lnk.genNext = some (gen, beat) ∧ t.lnk.gen = s.lnk.gen
        ∧ t.lnk.acked = s.lnk.acked ++ [(s.lnk.master, routeId s.device beat)]
        ∧ Tab.find t.lnk.routes s.lnk.gen = Tab.find s.lnk.routes s.lnk.gen)
      ∧ (gen = s.lnk.gen → exec (.routeTableReceive gen beat dead down) s =
        .next { s with lnk := { s.lnk with acked := s.lnk.acked ++ [(s.lnk.master, routeId s.device beat)] } }))
    ∧ (∀ seq, (s.sec.rsealed.getLsbD p = true →
      ((s.port p).sealFails < 2 → ∃ t, exec (.sealTagFail p seq) s = .next t ∧ t.ctrGet cSealFail = satAdd (s.ctrGet cSealFail) 1
        ∧ t.port p = { s.port p with sealFails := (s.port p).sealFails + 1, rxWant := some (seq % 4096) } ∧ t.sec = s.sec)
      ∧ (2 ≤ (s.port p).sealFails → ∃ t, exec (.sealTagFail p seq) s = .next t
        ∧ t.ctrGet cSealFail = satAdd (s.ctrGet cSealFail) 1
        ∧ (t.port p).state = .down ∧ (t.port p).sealDown = true ∧ (t.port p).sealFails = 0
        ∧ (∀ e ∈ t.sec.linkKeys, e.1 = 2 * p ∨ e.1 = 2 * p + 1 → e.2.active = false)))
      ∧ (s.sec.rsealed.getLsbD p = false → exec (.sealTagFail p seq) s = .next s))

/-- The tick (R91, R302, R303, R305, R306, R391, R399): a device in a domain with its main rails up takes the message's beat number, opens its
window, and puts new row limits and the power's duty in force; a held beat is counted; without a message nothing happens, until the
flywheel opens the next beat itself; a message is kept for its tick and sent on along the tree, on VC0 (log 115). -/
def Obligations.TicksOpenBeats : Prop :=
  ∀ (s : State) (pavg : Nat),
    (s.ticks = false → exec (.beatTick pavg) s = .next s ∧ exec (.flywheelTick pavg) s = .next s)
    ∧ (s.lnk.master ≠ s.device → s.lnk.tickRx = none → exec (.beatTick pavg) s = .next s)
    ∧ (∀ m, s.ticks = true → s.tickOf m → s.hostStill → s.stp.active = false → s.leaving = false → m.lost = [] →
      ∃ t, exec (.beatTick pavg) s = .next t ∧ t.lnk.beat = m.beat % 2 ^ 48 ∧ t.lnk.windowOpen = true ∧ t.lnk.flywheel = false
        ∧ t.lnk.missed = 0 ∧ t.lnk.stretch = m.k % 16 ∧ t.lnk.tickRx = none ∧ t.lnk.merged = none
        ∧ t.ana.w1lim = s.ana.w1new ∧ t.ana.w3lim = s.ana.w3new ∧ t.ana.w2lim = s.ana.w2new
        ∧ t.pwr.pd = nextPd s.pwr.pd s.pwr.limit.toNat pavg ∧ t.pwr.pin = wd pavg ∧ t.pwr.ticksOut = s.pwr.ticksOut + 1
        ∧ t.pwr.tickDriven = true ∧ t.stp.held = m.hold ∧ t.upd = s.upd
        ∧ t.ctrGet cHold = satAdd (s.ctrGet cHold) (if m.hold then 1 else 0)
        ∧ t.ctrGet cStretch = satAdd (s.ctrGet cStretch) (if m.k = 0 then 0 else 1))
    ∧ (s.ticks = true → s.lnk.tickRx = none → s.lnk.master ≠ s.device → s.hostStill → s.stp.active = false → s.leaving = false →
      ∃ t, exec (.flywheelTick pavg) s = .next t ∧ t.lnk.beat = (s.lnk.beat + 1) % 2 ^ 48 ∧ t.lnk.flywheel = true
        ∧ t.lnk.missed = s.lnk.missed + 1 ∧ t.lnk.windowOpen = true ∧ t.upd = s.upd
        ∧ t.pwr.pd = nextPd s.pwr.pd s.pwr.limit.toNat pavg ∧ t.pwr.pin = wd pavg)
    ∧ (∀ m skew, s.lnk.domain = true → s.lnk.master ≠ s.device → ∃ t, exec (.tickMessage m skew) s = .next t
        ∧ t.lnk.tickRx = some m ∧ t.lnk.skew = BitVec.ofInt 16 skew
        ∧ t.lnk.forwarded = s.lnk.forwarded ++ s.treePorts.map (fun p => (p, m))
        ∧ t.stp = s.stp ∧ t.upd = s.upd ∧ t.pwr = s.pwr ∧ t.store = s.store)
    ∧ (∀ m skew, s.lnk.domain = false ∨ s.lnk.master = s.device → exec (.tickMessage m skew) s = .next s)

/-- The close of a window and the reports (R29, R284, R304, R306, R307, R309): reports are merged for the next message, and what is merged goes
up the tree once the device's own window has closed (log 115); work still running, collectives and resends among it, is discarded, counted and a cause of replay; the master grants no 65th stretched beat in a row; after two missed ticks the
standby, or without one the lowest live device, is the master. -/
def Obligations.WindowsCloseAndReport : Prop :=
  ∀ (s : State),
    (∀ o, s.lnk.windowOpen = false → exec (.windowClose o) s = .next s)
    ∧ (∀ o, s.lnk.windowOpen = true → ∃ t r, exec (.windowClose o) s = .next t ∧ t.lnk.windowOpen = false ∧ t.lnk.merged = some r
      ∧ s.device ∈ r.devs ∧ (∀ q, s.lnk.merged = some q → (∀ d ∈ q.devs, d ∈ r.devs) ∧ (∀ c ∈ q.causes, c ∈ r.causes))
      ∧ (let links := o.linkResend || s.coll.running.any (fun x => !x.failed) || !s.coll.queue.isEmpty || !s.coll.resends.isEmpty
      (o.busy = [] → links = false → t.ctrGet cOverrun = s.ctrGet cOverrun ∧ t.stp.causes = s.stp.causes)
      ∧ (o.busy ≠ [] ∨ links = true → t.ctrGet cOverrun = satAdd (s.ctrGet cOverrun) 1
        ∧ t.coll.running = [] ∧ t.stp.waiting = [] ∧ (s.stp.active = true → 1 ∈ t.stp.causes ∧ 1 ∈ r.causes))))
    ∧ (∀ r, s.lnk.merged = none → s.lnk.windowOpen = true → exec (.beatReport r) s = .next { s with lnk := { s.lnk with merged := some r } })
    ∧ (∀ r p, s.lnk.merged = none → s.lnk.windowOpen = false → s.parentPort = some p → ∃ t, exec (.beatReport r) s = .next t
      ∧ t.lnk.merged = some r ∧ t.lnk.reported = s.lnk.reported ++ [(p, r)] ∧ t.stp = s.stp)
    ∧ (∀ r q, s.lnk.merged = some q → ∃ t m, exec (.beatReport r) s = .next t ∧ t.lnk.merged = some m ∧ t.stp = s.stp
      ∧ (s.lnk.windowOpen = true → t = { s with lnk := { s.lnk with merged := some m } })
      ∧ (∀ p, s.lnk.windowOpen = false → s.parentPort = some p → t.lnk.reported = s.lnk.reported ++ [(p, m)])
      ∧ m.ready = (q.ready && r.ready) ∧ m.k = max q.k r.k ∧ m.hold = (q.hold || r.hold)
      ∧ (∀ d, d ∈ m.devs ↔ d ∈ q.devs ∨ d ∈ r.devs) ∧ (∀ c, c ∈ m.causes ↔ c ∈ q.causes ∨ c ∈ r.causes)
      ∧ (∀ c, c ∈ m.fails ↔ c ∈ q.fails ∨ c ∈ r.fails) ∧ (∀ d, d ∈ m.lost ↔ d ∈ q.lost ∨ d ∈ r.lost))
    ∧ (∀ r, s.lnk.merged = some r → s.lnk.master = s.device → 64 ≤ s.lnk.stretchRun → 0 < r.k →
      ∃ t, exec .stretchLimit s = .next t ∧ t.lnk = { s.lnk with merged := some { r with k := 0 } })
    ∧ (s.lnk.stretchRun < 64 ∨ s.lnk.merged = none ∨ s.lnk.master ≠ s.device → exec .stretchLimit s = .next s)
    ∧ (s.lnk.missed < 2 → exec .masterChange s = .next s)
    ∧ (2 ≤ s.lnk.missed → ∃ t, exec .masterChange s = .next t ∧ t.lnk.missed = 0 ∧ t.lnk.standby = none
      ∧ (∀ d, s.lnk.standby = some d → t.lnk.master = d)
      ∧ (∀ d, s.lnk.standby = none → s.liveDevs.find? (fun x => x != s.lnk.master) = some d → t.lnk.master = d))

/-- What a tick decides for the step in progress (R30, R215 to R226, R355): it commits only on the message's word and when it is ready; then
the epoch grows by 1 and its results answer the ticket; a cause of replay halts the attempt and a failing cause ends the step, and then
nothing of it is committed. -/
def Obligations.TicksDecideTheStep : Prop :=
  ∀ (s : State) (pavg : Nat) (m : TickMsg) (w : WaitTicket), s.ticks = true → s.tickOf m → s.stepping w → s.leaving = false → m.lost = [] →
    (m.fails = [] → m.causes = [] → s.train = true → m.commit = true → s.stp.commitReady = true →
      ∃ t, exec (.beatTick pavg) s = .next t ∧ t.upd.epoch = s.upd.epoch + 1 ∧ t.upd.lastStep = s.stp.step
        ∧ t.upd.digest = sumDigest s.stp.layerDig ∧ t.upd.layerDig = s.stp.layerDig ∧ t.rcp.nextStep = s.stp.step + 1
        ∧ t.stp.active = false ∧ t.stp.boundary = true ∧ t.hif.seqBusy = none ∧ t.mem.written = [])
    ∧ (m.fails = [] → m.causes ≠ [] → ∃ t c, exec (.beatTick pavg) s = .next t ∧ t.upd = s.upd ∧ t.stp.active = true
        ∧ t.stp.halted = true ∧ t.stp.replayDue = some c ∧ c ∈ m.causes ∧ (∀ x ∈ m.causes, c ≤ x) ∧ t.hif.seqBusy = some w)
    ∧ (m.fails ≠ [] → ∃ t, exec (.beatTick pavg) s = .next t ∧ t.upd.epoch = s.upd.epoch ∧ t.upd.digest = s.upd.digest
        ∧ t.rcp.state = .failed ∧ t.stp.active = false ∧ t.stp.boundary = true ∧ t.hif.seqBusy = none ∧ t.mem.written = [])

/-- The sequencer (R172, R184, R199, R200, R215 to R217, R237, R242): a slot whose turn has come starts, is skipped by its predicate and
counted, or has no half to run; a replay starts the next attempt of the same step from nothing; one attempt more than the
recipe allows fails the step; and a fence that has waited its limit ends the attempt with cause 9. -/
def Obligations.SlotsStartAndStepsReplay : Prop :=
  ∀ (s : State),
    (∀ n x, s.cur.slots[n]? = some x →
      (s.slotDue n x = false → exec (.slotStart n) s = .next s)
      ∧ (s.slotDue n x = true → s.predStops x = true → ∃ t, exec (.slotStart n) s = .next t ∧ t.stp.skipped = n :: s.stp.skipped
        ∧ t.stp.slotsOn = s.stp.slotsOn ∧ t.ctrGet cPredSkip = satAdd (s.ctrGet cPredSkip) 1)
      ∧ (s.slotDue n x = true → s.predStops x = false → s.reserveIdle x = true → ∃ t, exec (.slotStart n) s = .next t
        ∧ t.stp.skipped = n :: s.stp.skipped ∧ t.stp.slotsOn = s.stp.slotsOn ∧ t.ctr = s.ctr)
      ∧ (s.slotDue n x = true → s.predStops x = false → s.reserveIdle x = false → ∃ t, exec (.slotStart n) s = .next t
        ∧ t.stp.slotsOn = n :: s.stp.slotsOn ∧ t.stp.skipped = s.stp.skipped))
    ∧ (∀ n, s.cur.slots[n]? = none → exec (.slotStart n) s = .next s)
    ∧ (∀ d, exec (.sequencerWaitRelease d) s = .next { s with
        stp := { s.stp with waiting := s.stp.waiting.filter (fun n => n != d) } })
    ∧ (∀ c, s.stp.replayDue = some c →
      (s.mayReplay = false ∨ s.cur.head.replayMax < s.stp.attempt → exec .replayStart s = .next s)
      ∧ (s.mayReplay = true → s.stp.attempt ≤ s.cur.head.replayMax → ∃ t, exec .replayStart s = .next t
        ∧ t.stp.attempt = s.stp.attempt + 1 ∧ t.stp.step = s.stp.step ∧ t.stp.lastCause = c ∧ t.stp.active = true ∧ t.stp.begun = true
        ∧ t.stp.halted = false ∧ t.stp.causes = [] ∧ t.stp.replayDue = none ∧ t.stp.done = [] ∧ t.stp.slotsOn = []
        ∧ t.upd = s.upd ∧ t.coll.running = [] ∧ t.ctrGet cUpdReplay = satAdd (s.ctrGet cUpdReplay) 1
        ∧ (∀ v, s.stp.saved = some v → t.mem.live = v.live ∧ ∀ k, (t.stkOf k).frames = (Tab.get v.stk k Stk.empty).frames
          ∧ (t.stkOf k).head = (Tab.get v.stk k Stk.empty).head)))
    ∧ (s.stp.replayDue = none → exec .replayStart s = .next s ∧ exec .replayLimit s = .next s)
    ∧ (∀ c w, s.stp.replayDue = some c → s.stp.active = true → s.cur.head.replayMax < s.stp.attempt → s.hif.seqBusy = some w →
      (w.op = 0x0401 ∨ w.op = 0x0402) → s.hif.waitq = [] → s.hif.deleting = [] → s.hif.state ≠ .lost → s.hif.state ≠ .fault →
      ∃ t, exec .replayLimit s = .next t ∧ t.rcp.state = .failed ∧ t.stp.active = false ∧ t.hif.seqBusy = none
        ∧ t.upd.epoch = s.upd.epoch ∧ t.upd.stat = updStat 2 s.stp.lastCause s.stp.attempt)
    ∧ (s.stp.fenceWait = true → s.cur.head.fenceLimit ≤ s.stp.fenceBeats → ∃ t, exec .epochFenceStall s = .next t
      ∧ t.stp.halted = true ∧ (s.stp.active = true → s.lnk.windowOpen = true → 9 ∈ t.stp.causes))
    ∧ (s.stp.fenceWait = false ∨ s.stp.fenceBeats < s.cur.head.fenceLimit → exec .epochFenceStall s = .next s)

/-- The step boundary (R125, R254, R262, R350, R353, R358, R365): groups, spare banks and the tasting interval that waited take effect, a recipe
that was asked to stop is over, one that makes way for another does so, and a device that was to be lost is; while a step
runs there is no boundary, and one that has been accepted is not cut off by it. -/
def Obligations.BoundariesApplyWhatWaits : Prop :=
  ∀ (s : State),
    (s.stp.active = true → s.stp.begun = true → exec .boundaryApply s = .next s)
    ∧ (s.stp.active = true → s.stp.begun = false → s.hif.waitq = [] → s.hif.state ≠ .lost → s.hif.state ≠ .fault → s.flt.lostNext = false →
      ∃ t, exec .boundaryApply s = .next t ∧ t.rcp.state = s.rcp.state ∧ t.rcp.handle = s.rcp.handle ∧ t.stp.active = true)
    ∧ (s.stp.active = false → s.hostStill → s.rcp.startNext = none → s.flt.lostNext = false →
      ∃ t, exec .boundaryApply s = .next t ∧ t.rcp.groups = applyGroups s.rcp.groups s.rcp.pending ∧ t.rcp.pending = []
        ∧ t.flt.spareBanks = s.flt.spareBanks ++ s.flt.bankNext ∧ t.flt.bankNext = [] ∧ t.ana.interval = s.ana.intervalNew
        ∧ t.stp.boundary = false ∧ (s.rcp.state = .stopping → t.rcp.state = .idle) ∧ (s.rcp.state ≠ .stopping → t.rcp.state = s.rcp.state)
        ∧ (s.rcp.state = .stopping → s.rcp.unloadAtStop = true → t.recipe s.rcp.handle = none)
        ∧ (s.hif.state = .running → s.rcp.state = .stopping → t.hif.state = .ready))
    ∧ (∀ h first w, s.stp.active = false → s.rcp.startNext = some (h, first) → (s.rcp.state = .running ∨ s.rcp.state = .stopping) →
      s.hif.seqBusy = some w → w.op = 0x0303 → s.hif.waitq = [] → s.hif.deleting = [] → s.hif.state ≠ .lost → s.hif.state ≠ .fault →
      s.flt.lostNext = false → ∃ t, exec .boundaryApply s = .next t ∧ t.rcp.state = .running ∧ t.rcp.handle = h
        ∧ t.rcp.nextStep = first ∧ t.rcp.startNext = none ∧ t.hif.seqBusy = none ∧ t.hif.state = .running)
    ∧ (s.stp.active = false → s.hostStill → s.rcp.startNext = none → s.flt.lostNext = true →
      s.hif.state ≠ .boot → ∃ t, exec .boundaryApply s = .next t ∧ t.hif.state = .lost ∧ t.flt.lostNext = false ∧ t.hif.ready = false)


/-- Descriptors (R172, R184, R193, R239, R241, R242, R244): one that the sequencer does not run, or that carries another opcode, changes
nothing, and one that waits for another joins those that wait; the effect of one that the state takes, with nothing for the memories to
report, is that of its opcode, after which it is done; a collective begins on its channel, or waits behind the one there (R263); a FENCE
and a COMMIT need what they wait for (R253, R378). -/
def Obligations.DescriptorsTakeTheirEffect : Prop :=
  ∀ (s : State) (d : Desc),
    (∀ (e : Env) (peers : List DigestMsg) (copy : Option BankCopy), ∀ c ∈ [(0x00, Instr.nop d e), (0x10, .amp d e), (0x20, .dmp d e),
        (0x21, .diag d e), (0x30, .ewise d e), (0x31, .reduce d e), (0x32, .softmax d e), (0x33, .norm d e), (0x34, .deriv d e),
        (0x35, .softmaxBwd d e), (0x36, .normBwd d e), (0x37, .lossXent d e), (0x38, .gather d e), (0x39, .scatter d e),
        (0x3A, .scatterAdd d e), (0x40, .convert d e), (0x41, .quantise d e), (0x50, .push d e), (0x51, .pop d e), (0x60, .move d e),
        (0x61, .transpose d e), (0x62, .gatherMem d e), (0x63, .expand d e), (0x70, .allreduce d e), (0x71, .reduceScatter d e),
        (0x72, .allgather d e), (0x73, .broadcast d e), (0x74, .sendrecv d e), (0x80, .update d e), (0x90, .awrite d e),
        (0xA0, .compare d e), (0xB0, .digestTensor d e), (0xB1, .digestExchange d e peers copy)],
      (Desc.opcode d ≠ c.1 ∨ s.runs d = false → exec c.2 s = .next s)
      ∧ (Desc.opcode d = c.1 → s.runs d = true → s.mustWait d = true → ∃ t, exec c.2 s = .next t ∧ d.num ∈ t.stp.waiting
        ∧ t = { s with stp := { s.stp with waiting := t.stp.waiting } } ∧ ∀ m ∈ s.stp.waiting, m ∈ t.stp.waiting))
    ∧ (s.takes d →
    let u := s.accountExts (s.costExts d)
    let op := Desc.opcode d
    let gives (c : Instr) (t : State) : Prop := exec c s = .next (t.finish d.num)
    let writes (c : Instr) (r : List Byte × NumFx) : Prop := gives c (u.writeFx d (Desc.home d) (Desc.opD d) r)
    ((op = 0x00 → gives (.nop d calm) u)
      ∧ (op = 0x10 → gives (.amp d calm) (u.amp d))
      ∧ (op = 0x20 → writes (.dmp d calm) ((u.dmpRun d).run fx0))
      ∧ (op = 0x21 → writes (.diag d calm) ((u.diagRun d).run fx0))
      ∧ (op = 0x30 → gives (.ewise d calm) (u.ewise d))
      ∧ (op = 0x31 → gives (.reduce d calm) (u.reduceOp d))
      ∧ (op = 0x32 → writes (.softmax d calm) ((u.softmaxRun d).run fx0))
      ∧ (op = 0x33 → writes (.norm d calm) ((u.normRun d).run fx0))
      ∧ (op = 0x34 → gives (.deriv d calm) (u.derivOp d))
      ∧ (op = 0x35 → writes (.softmaxBwd d calm) ((u.softmaxBwdRun d).run fx0))
      ∧ (op = 0x36 → writes (.normBwd d calm) ((u.normBwdRun d).run fx0))
      ∧ (op = 0x37 → writes (.lossXent d calm) ((u.lossRun d).run fx0)))
    ∧ ((op = 0x38 → gives (.gather d calm) (u.gatherOp d))
      ∧ (op = 0x39 → gives (.scatter d calm) (u.scatterRows (Desc.home d) (Desc.opD d) (Desc.word d 11).toNat
          (u.rowBound (Desc.opD d) (Desc.word d 11).toNat) (u.scatterSrc d)))
      ∧ (op = 0x3A → gives (.scatterAdd d calm) (u.scatterAddRows d (Desc.opD d) (Desc.word d 11).toNat
          (u.rowBound (Desc.opD d) (Desc.word d 11).toNat) (u.scatterSrc d)))
      ∧ (op = 0x40 → gives (.convert d calm) (u.convertOp d))
      ∧ (op = 0x41 → gives (.quantise d calm) (u.quantiseOp d))
      ∧ (op = 0x50 → gives (.push d calm) (u.pushOp d false))
      ∧ (op = 0x51 → gives (.pop d calm) (u.popOp d))
      ∧ (op = 0x60 → gives (.move d calm) (u.moveOp d))
      ∧ (op = 0x61 → gives (.transpose d calm) (u.transposeOp d))
      ∧ (op = 0x62 → gives (.gatherMem d calm) (u.gatherMemOp d))
      ∧ (op = 0x63 → gives (.expand d calm) (u.expandOp d))
      ∧ (op = 0x80 → let t := (u.updateOp d).finish d.num
        exec (.update d calm) s = .next (if t.updatesDone then t.sendShadow else t))
      ∧ (op = 0x90 → gives (.awrite d calm) (u.awrite d))
      ∧ (op = 0xA0 → gives (.compare d calm) (u.compareOp d))
      ∧ (op = 0xB0 → gives (.digestTensor d calm) (u.digestTensorOp d))
      ∧ (op = 0xB1 → ∀ peers copy, gives (.digestExchange d calm peers copy) (u.digestExchangeOp d peers copy)))
    ∧ (∀ c ∈ [(0x70, Instr.allreduce d calm), (0x71, .reduceScatter d calm), (0x72, .allgather d calm), (0x73, .broadcast d calm),
        (0x74, .sendrecv d calm)], op = c.1 →
      (s.collOn (cVc d) = none → exec c.2 s = .next (u.beginColl d false []))
      ∧ ((s.collOn (cVc d)).isSome = true →
        exec c.2 s = .next { u with coll := { s.coll with queue := s.coll.queue ++ [{ desc := d, bad := false, adds := [] }] } }))
    ∧ (op = 0xC0 → exec (.fence d calm) s = .next (if s.fenceMet d then s.finish d.num else s.hold d.num))
    ∧ (op = 0xC1 → ∀ x, exec (.commit d calm x) s = .next (if s.shadowDone x then s.sendShadow.commitOp.finish d.num
        else s.sendShadow.hold d.num)))

/-- The frame of the descriptors that write a memory (R157 to R169, R174, R175, R180, R183, R195 to R197, R205, R247 to R253), wherever their
operands lie, in a local store, a cluster store or a region: the result's bytes stand at D, every byte outside what the descriptor
writes reads as before, the committed banks too, and no register group but the counters, the recorder, the step in progress and the live
epochs changes, save what an array write, a pop or a QUANTISE is for. The result of NORM in a recipe with steps includes x̂ and r (R197, log
15). -/
def Obligations.ResultsStayInTheirDestination : Prop :=
  ∀ (s : State) (d : Desc), s.memOk → s.takes d →
    let u := s.accountExts (s.costExts d)
    let op := Desc.opcode d
    let h := Desc.home d
    let oD := Desc.opD d
    let but (t : State) : Prop := t.pwr = s.pwr ∧ t.hif = s.hif ∧ t.sbm = s.sbm ∧ t.sec = s.sec ∧ t.cal = s.cal ∧ t.rcp = s.rcp
      ∧ t.upd = s.upd ∧ t.coll = s.coll ∧ t.flt = s.flt ∧ t.mem.half1 = s.mem.half1 ∧ t.mem.regions = s.mem.regions
      ∧ d.num ∈ t.stp.done ∧ (s.stp.active = true → s.afterClose = false → t.lnk = s.lnk)
    let still (t : State) : Prop := { t.mem with live := s.mem.live } = s.mem
    let rest (t : State) : Prop := but t ∧ t.lnk = s.lnk ∧ t.ana = s.ana ∧ t.stk = s.stk ∧ t.free = s.free
    let only (c : Instr) (l : List (Opnd × Nat)) : Prop := ∃ t, exec c s = .next t ∧ s.onlyAt t h l ∧ rest t
    let puts (c : Instr) (bs : List Byte) : Prop := ∃ t, exec c s = .next t ∧ s.onlyAt t h [(oD, bs.length)] ∧ rest t
      ∧ (s.fits oD bs.length → t.opRead h oD bs.length = bs) ∧ (oD.mem = false → still t)
    let fn := Desc.f d 13 7 0
    let rows := (Desc.word d 10).toNat
    let rb := (Desc.word d 11).toNat
    let bound := u.rowBound oD rb
    let spots := (u.scatterSrc d).filter (fun x => decide (x.2.toNat < bound))
    let idx := leWords rows (u.opRead h (Desc.opB d) (4 * rows))
    ((op = 0x30 → isEwiseFn fn = true → puts (.ewise d calm) ((u.ewiseRun d).run fx0).1)
      ∧ (op = 0x31 → 0x30 ≤ fn → fn ≤ 0x33 → puts (.reduce d calm) ((u.reduceRun d).run fx0).1)
      ∧ (op = 0x32 → puts (.softmax d calm) ((u.softmaxRun d).run fx0).1)
      ∧ (op = 0x33 → puts (.norm d calm) ((u.normRun d).run fx0).1)
      ∧ (op = 0x34 → 0x20 ≤ fn → fn ≤ 0x26 → puts (.deriv d calm) ((u.derivRun d).run fx0).1)
      ∧ (op = 0x35 → puts (.softmaxBwd d calm) ((u.softmaxBwdRun d).run fx0).1)
      ∧ (op = 0x36 → puts (.normBwd d calm) ((u.normBwdRun d).run fx0).1)
      ∧ (op = 0x37 → puts (.lossXent d calm) ((u.lossRun d).run fx0).1)
      ∧ (op = 0x20 → puts (.dmp d calm) ((u.dmpRun d).run fx0).1)
      ∧ (op = 0x21 → puts (.diag d calm) ((u.diagRun d).run fx0).1)
      ∧ (op = 0x60 → puts (.move d calm) (u.opRead h (Desc.opA d) rows))
      ∧ (op = 0x61 → let w := elemBytes (Desc.opA d).fmt
         puts (.transpose d calm) (transposeBytes w rows rb (u.opRead h (Desc.opA d) (w * rows * rb))))
      ∧ (op = 0xB0 → let x := u.cur.head.base.toNat % digestP
         puts (.digestTensor d calm) (leBytes 8 (polySum x x ((leWords rows (u.opRead h (Desc.opA d) (4 * rows))).map (·.toNat)))))
      ∧ (op = 0x00 → ∃ t, exec (.nop d calm) s = .next t ∧ t.store = s.store ∧ still t ∧ rest t))
    ∧ ((op = 0x38 → let n := (Desc.word d 12).toNat
        puts (.gather d calm) (gatherRows (fun i => u.opRead h ((Desc.opA d).at (i * rb)) rb) rb n idx).1)
      ∧ (op = 0x62 → let n := u.rowBound (Desc.opA d) rb
        u.gatherSpoilt d rb n idx = false → puts (.gatherMem d calm) (u.gatherBytes d rb n idx))
      ∧ (op = 0x63 → isW (Desc.opA d).fmt = true → puts (.expand d calm) ((u.expandRun d).run fx0).1)
      ∧ (op = 0x39 → only (.scatter d calm) (spots.map (fun x => (oD.at (x.2.toNat * rb), x.1.length))))
      ∧ (op = 0x3A → only (.scatterAdd d calm) (spots.map (fun x => (oD.at (x.2.toNat * rb), rb)))))
    ∧ (op = 0x40 → let r := ((u.convertRun d).run fx0).1.1
      (convOk (Desc.opA d).fmt oD.fmt = true → isQ8 oD.fmt = false → isW oD.fmt = false → puts (.convert d calm) r.bytes)
      ∧ ∃ t, exec (.convert d calm) s = .next t ∧ but t ∧ t.ana = s.ana ∧ t.stk = s.stk ∧ t.free = s.free
        ∧ s.onlyAt t h ([(oD, r.bytes.length), (Desc.opB d, r.side.length)]
          ++ (s.regionOfKind 6).toList.map (fun q => (regionAt q (8 * (Desc.word d 13).toNat), 8))))
    ∧ (op = 0x41 → ∃ t, exec (.quantise d calm) s = .next t ∧ but t ∧ t.stk = s.stk ∧ t.free = s.free
      ∧ t.ana.arrays = s.ana.arrays ∧ t.ana.cores = s.ana.cores ∧ s.onlyAt t h (u.quantPlaces d))
    ∧ (op = 0x51 → s.mem.poison = [] → ∃ t, exec (.pop d calm) s = .next t ∧ but t ∧ t.ana = s.ana ∧ t.free = s.free
      ∧ s.onlyAt t h [(oD, 256 * pUnits d)] ∧ ∀ j, j ≠ h / 8 → t.stkOf j = s.stkOf j)
    ∧ (op = 0x80 → s.flt.shadowCfg = none → ∀ l, s.layerOf d = some l → ((u.updateRun d l).run fx0).1.outs.any (·.bad) = false →
      only (.update d calm) (s.updatePlaces d l))
    ∧ (op = 0x90 → ∃ t, exec (.awrite d calm) s = .next t ∧ but t ∧ t.store = s.store ∧ still t ∧ t.lnk = s.lnk ∧ t.stk = s.stk
      ∧ ∀ a, a ≠ s.placed (awArray d) → t.array a = s.array a)
    ∧ (op = 0xA0 → ∃ t, exec (.compare d calm) s = .next t ∧ t.store = s.store ∧ still t ∧ rest t)

/-- The Stockpot gives back what was pushed (R185 to R188, R249): a pop of the same layer, micro-batch, kind, slot and number of units, with
nothing pushed between, writes to D the bytes that the push read, zero units elided or not, and takes the record off. -/
def Obligations.PopsGiveBackWhatWasPushed : Prop :=
  ∀ (s : State) (d p : Desc), s.takes d → Desc.opcode d = 0x50 → s.kindOf d ≠ 9 → s.recomputable (Desc.layer d) = false →
    let c := Desc.home d / 8
    let k := s.stkOf c
    let bs := (s.accountExts (s.costExts d)).pushBytes d false
    k.top + bs.length - (k.frames.head?.map (·.start)).getD k.top ≤ s.stkSize c →
    k.low ≤ k.top → k.frameOf (pMb d) = none → Desc.opcode p = 0x51 →
    Desc.home p / 8 = c → pMb p = pMb d → Desc.layer p = Desc.layer d → pKind p = pKind d → pSlot p = pSlot d → pUnits p = pUnits d →
    ∃ t, exec (.push d calm) s = .next t ∧ (t.stkOf c).top = k.top + bs.length
      ∧ t.store = s.store ∧ d.num ∈ t.stp.done
      ∧ (t.takes p → (Desc.opD p).mem = false → (Desc.opD p).addr < localBytes →
        ∃ v, exec (.pop p calm) t = .next v ∧ (v.stkOf c).frameOf (pMb d) = none
          ∧ s.stored v (Desc.localAt p) ((s.opRead (Desc.home d) (Desc.opA d) (256 * pUnits d)).take (256 * pUnits d)))


/-- Collectives and the Stockpot's traffic (R188, R264, R268, R273, R274, R281, R283): a collective whose group does not serve it faults; a stale
packet is dropped and counted; a malformed one fails the step and its collective; one for a collective of the beat that has not
started waits; a gathered unit is written to D and done, a hop passes its sum on along the arc, an owner holds a partial until the
other's comes, and an OPERAND conclusion asks for the unit again, at the third time gives the collective up; a complete collective leaves its channel and its descriptor is
done. A fetch brings the bytes below the head into it, a write-back takes the oldest to the region; an uncorrectable word keeps either from
moving anything (R173, R323). -/
def Obligations.CollectivesTakePacketsAndEnd : Prop :=
  ∀ (s : State),
    (∀ (d : Desc), s.takes d → s.collOn (cVc d) = none →
      (∀ g, Tab.find s.rcp.groups (Desc.word d 11).toNat = some g → bindsColl d g = false) →
      ∀ c ∈ [(0x70, Instr.allreduce d calm), (0x71, .reduceScatter d calm), (0x72, .allgather d calm), (0x73, .broadcast d calm),
        (0x74, .sendrecv d calm)], Desc.opcode d = c.1 →
        ∃ t, exec c.2 s = .next t ∧ d.num ∈ t.stp.faulted ∧ d.num ∈ t.stp.done
          ∧ (s.train = true → s.stp.active = true → s.afterClose = false → 3 ∈ t.stp.fails) ∧ (s.train = false → t.stp.fails = s.stp.fails))
    ∧ (∀ (port vc : Nat) (p : Packet) (o : Option ResidueObs), port < 6 → vc < 16 →
      let fails (t : State) : Prop := (s.stp.active = true → s.afterClose = false → 4 ∈ t.stp.fails)
        ∧ ∀ x, s.collOn vc = some x → ∃ y, t.collOn vc = some y ∧ y.failed = true
      (p.beat ≠ wd s.lnk.beat → ∃ t, exec (.collPacket port vc p o) s = .next t
        ∧ t.ctrGet cStale = satAdd (s.ctrGet cStale) 1 ∧ t = { s with ctr := t.ctr, lnk := t.lnk })
      ∧ (p.beat = wd s.lnk.beat → p.jobId ≠ s.cur.head.jobId → ∃ t, exec (.collPacket port vc p o) s = .next t ∧ fails t)
      ∧ (p.beat = wd s.lnk.beat → p.jobId = s.cur.head.jobId →
        (∀ d, (∀ x, s.collOn vc = some x → x.desc.num ≠ p.desc) → s.beatColl vc p.desc = some d → s.willRun d = true → d.num ∉ s.stp.done →
          ∃ t, exec (.collPacket port vc p o) s = .next t ∧ t = { s with coll := t.coll, lnk := t.lnk }
            ∧ t.coll = { s.coll with early := s.coll.early ++ [{ port := port, vc := vc, pkt := p, obs := o }] })
        ∧ (∀ x, s.collOn vc = some x → x.desc.num = p.desc →
          (∀ cause, s.malformed x p = some cause → ∃ t, exec (.collPacket port vc p o) s = .next t ∧ fails t)
          ∧ (s.malformed x p = none → x.failed = false →
            (o = none → p.phase = 1 → cKind x.desc ≠ .reduceScatter → ∃ t y, exec (.collPacket port vc p o) s = .next t
              ∧ t.collOn vc = some y ∧ (p.chunk, p.unit) ∈ y.doneUnits ∧ ∀ k ∈ x.doneUnits, k ∈ y.doneUnits)
            ∧ (o = none → p.phase = 1 → cKind x.desc ≠ .reduceScatter → cKind x.desc ≠ .sendrecv → cMode x.desc = 0 →
              (Desc.opD x.desc).fmt = fT32 → (Desc.opD x.desc).mem = false →
              let i := cIndex x.desc x.n p.chunk p.unit
              (Desc.opD x.desc).addr + 4 * i < localBytes → ∃ t, exec (.collPacket port vc p o) s = .next t
                ∧ s.stored t (Desc.localAt x.desc + 4 * i) (wordBytes
                  (((leWords 256 p.payload).take (cCount x.desc x.n p.chunk p.unit)).map (fun w => if isNan32 w then nan32 else w))))
            ∧ (o = none → p.phase = 0 → cKind x.desc = .allreduce → roleOf x.n x.me (cOwner x.desc p.chunk) = .hop p.arcB false →
              let v := ((((s.sealOk port).rxPass port vc (packetBytes p).length).ackPacket vc p).gotUnit p)
              let r := (v.hopRun x p.chunk p.unit (some p.payload) none).run fx0
              exec (.collPacket port vc p o) s
                  = .next ((v.emitFx x p.chunk p.unit r).sendUnit x (!p.arcB) 0 p.arcB p.chunk p.unit r.1.payload)
              ∧ (cMode x.desc = 0 → r.1.payload
                  = wordBytes ((addUnits (s.collMode x) (leWords 256 p.payload) (s.ownUnit x p.chunk p.unit)).run fx0).1))
            ∧ (o = none → p.phase = 0 → cReduces x.desc = true → roleOf x.n x.me (cOwner x.desc p.chunk) = .owner →
              0 < arcA x.n → 0 < arcB x.n → x.partialsOf p.chunk p.unit = [] → (p.chunk, p.unit) ∉ x.doneUnits →
              ∃ t y, exec (.collPacket port vc p o) s = .next t ∧ t.collOn vc = some y ∧ y.doneUnits = x.doneUnits
                ∧ y.partials = x.partials ++ [{ chunk := p.chunk, unit := p.unit, arcB := p.arcB, payload := p.payload, fix := none }]
                ∧ t = { s with coll := t.coll, lnk := t.lnk })
            ∧ (∀ r, o = some r → disagrees r = true → s.conclude port r = .operand → x.flawsOf (p.chunk, p.unit, p.arcB) < 2 →
              ∃ t y, exec (.collPacket port vc p o) s = .next t
                ∧ { port := port, desc := p.desc, chunk := p.chunk, unit := p.unit, arcB := p.arcB } ∈ t.coll.resends
                ∧ t.ctrGet cColResend = satAdd (s.ctrGet cColResend) 1 ∧ t.collOn vc = some y
                ∧ y.doneUnits = x.doneUnits ∧ y.partials = x.partials)
            ∧ (∀ r, o = some r → disagrees r = true → s.conclude port r = .operand → 2 ≤ x.flawsOf (p.chunk, p.unit, p.arcB) →
              ∃ t y, exec (.collPacket port vc p o) s = .next t ∧ t.collOn vc = some y ∧ y.failed = true
                ∧ (∀ q ∈ t.coll.resends, q.desc ≠ p.desc) ∧ (s.stp.active = true → s.afterClose = false → 0xA ∈ t.stp.causes))))))
    ∧ (∀ vc, vc < 16 →
      (s.collOn vc = none → exec (.collComplete vc) s = .next s)
      ∧ (∀ x, s.collOn vc = some x → x.complete = false → exec (.collComplete vc) s = .next s)
      ∧ (∀ x, s.collOn vc = some x → x.complete = true → cAgreed x.desc = false ∨ x.failed = true → x.bad = false →
        (∀ q ∈ s.coll.queue, cVc q.desc ≠ vc) → ∃ t, exec (.collComplete vc) s = .next t ∧ t.collOn vc = none
          ∧ x.desc.num ∈ t.stp.done ∧ (∀ y ∈ s.coll.running, y.vc ≠ vc → y ∈ t.coll.running)
          ∧ t = { s with coll := t.coll, stp := t.stp, mem := t.mem }))
    ∧ (∀ c bytes, c < 16 →
      (∀ e, s.stkRegion c = none → exec (.popPrefetch c bytes e) s = .next s ∧ exec (.stashWriteback c bytes e) s = .next s)
      ∧ (∀ r, s.stkRegion c = some r →
        let k := s.stkOf c
        (let n := min bytes (k.low - (k.frames.head?.map (·.start)).getD k.low)
         let bs := s.stkStored c (k.low - n) n
         let ue := s.stkPoison r (wrapRuns (s.stkSize c) (k.low - n) n)
         (∀ e, e.storeUe.isSome = true ∨ e.mem.ue ≠ [] ∨ ue ≠ [] → ∃ t, exec (.popPrefetch c bytes e) s = .next t ∧ t.stk = s.stk
          ∧ t.store = s.store)
         ∧ (ue = [] → ∃ t, exec (.popPrefetch c bytes calm) s = .next t ∧ (t.stkOf c).low = k.low - n ∧ (t.stkOf c).frames = k.frames
          ∧ (t.stkOf c).wrote = k.wrote ∧ (k.low ≤ k.top → Mem.read (t.stkOf c).head (k.low - n) bs.length = bs)
          ∧ (∀ j, j ≠ c → t.stkOf j = s.stkOf j) ∧ t = { s with stk := t.stk, ctr := t.ctr }))
        ∧ (let n := s.writebackLen c bytes
           (∀ e, e.storeUe.isSome = true → ∃ t, exec (.stashWriteback c bytes e) s = .next t ∧ t.stk = s.stk ∧ t.store = s.store)
           ∧ ∃ t, exec (.stashWriteback c bytes calm) s = .next t ∧ (t.stkOf c).wrote = k.wrote + n ∧ (t.stkOf c).low = max k.low (k.wrote + n)
            ∧ (t.stkOf c).frames = k.frames ∧ (∀ j, j ≠ c → t.stkOf j = s.stkOf j)
            ∧ (s.regionKind r = 1 → n ≤ s.stkSize c → t.stkStored c k.wrote n = Mem.read k.head k.wrote n)
            ∧ t = { s with stk := t.stk, ctr := t.ctr, store := t.store, mem := t.mem })))


/-- The level scrub, checksum windows and tasting (R108, R109, R113, R114, R130 to R132, R134, R135, R147): what is not the next of a core's
background work does nothing; a scrub goes through its positions, and its end is a pass, after which the bank is not late; a row with
a cell outside its guard band is written from its source, where no codeword of that is uncorrectable (R323), and counted once, and where it
read another level the step in progress replays; the first window after a calibration is the baseline; an array beyond the margins is charged and tasted; a first failed
tasting makes the core due, a second takes the array out of service. The moments are those of log 91. -/
def Obligations.ArraysAreScrubbedAndTasted : Prop :=
  ∀ (s : State),
    (∀ (core bank pos sigma : Nat) (reads : List RowRead), core < 128 → bank < 4 → pos < 130 →
      let c := s.core core
      let next := s.setCore core { c with pass := c.pass.set bank (pos + 1) }
      (s.mayScrub core = false ∨ s.scrubTurn core bank pos = false → exec (.scrubStep core bank pos reads sigma) s = .next s)
      ∧ (s.mayScrub core = true → s.scrubTurn core bank pos = true →
        (pos < 129 → exec (.scrubStep core bank pos [] sigma) s = .next next)
        ∧ (pos = 129 → ∃ t, exec (.scrubStep core bank pos [] sigma) s = .next t
          ∧ t.ctrGet cScrubPass = satAdd (s.ctrGet cScrubPass) 1 ∧ (t.core core).scrubbed = true
          ∧ (t.core core).pass = c.pass.set bank 0 ∧ (t.core core).late = clearBit4 c.late bank
          ∧ (t.core core).ageNext = clearBit4 c.ageNext bank
          ∧ (∀ m, averagesFor sigma = some m → (t.core core).m = c.m.set bank m ∧ t.cal = s.cal ∧ t.ana.arrays = s.ana.arrays)
          ∧ (averagesFor sigma = none → (t.core core).m = c.m.set bank 230
            ∧ (c.noisyCal.getLsbD bank = false → (t.core core).noisy.getLsbD bank = true
              ∧ (s.isAbsent core = false → core ∈ t.cal.due))
            ∧ (c.noisyCal.getLsbD bank = true → ∀ i, i < 4 → (t.array (16 * core + 4 * bank + i)).status = 3
              ∧ (t.array (16 * core + 4 * bank + i)).refNext = true)))
        ∧ (∀ f : RowRead, pos < 129 →
          let a := 16 * core + 4 * bank + f.pos % 4
          let x := s.array a
          let phys := scrubRow x pos (f.group % 8)
          let m := c.m.getD bank 24
          let ls := s.trueLevels a phys
          let out (i : Nat) : Bool := (f.reads.getD i []).any (fun p => decide (p.1 < 520) && outOfGuard x.fmt m (ls.getD p.1 0) p.2)
          let wrong : Bool := (f.reads.getD 0 []).any (fun p => decide (p.1 < 520) && wrongLevel x.fmt m (ls.getD p.1 0) p.2)
          (out 0 = false → exec (.scrubStep core bank pos [f] sigma) s = .next next)
          ∧ (out 0 = true → wrong = false → s.mem.poison = [] → (∃ i, i < 4 ∧ out (i + 1) = false) → ∃ t, exec (.scrubStep core bank pos [f] sigma) s = .next t
            ∧ t.ctrGet cScrubFix = satAdd (s.ctrGet cScrubFix) 1 ∧ t.flt = s.flt ∧ t.stp = s.stp ∧ t.evt = s.evt
            ∧ ∀ v, s.sourceRow a phys = some v → t.cellRow a phys = v.1)
          ∧ (out 0 = true → wrong = true → s.train = true → s.stp.active = true → s.stp.begun = true → s.afterClose = false →
            ∃ t, exec (.scrubStep core bank pos [f] sigma) s = .next t ∧ t.ctrGet cScrubFix = satAdd (s.ctrGet cScrubFix) 1
              ∧ 6 ∈ t.stp.causes)))
      ∧ (∀ age, ∃ t, exec (.scrubLate core bank age) s = .next t ∧ t.ctrGet cScrubLate = satAdd (s.ctrGet cScrubLate) 1
        ∧ t.core core = { c with late := setBit4 c.late bank } ∧ (∀ j, j ≠ core → t.core j = s.core j) ∧ t.ana.arrays = s.ana.arrays)
      ∧ exec (.scrubAgeLimit core bank) s = .next (s.setCore core { c with ageNext := setBit4 c.ageNext bank }))
    ∧ (∀ a, a < 2048 →
      let x := s.array a
      (x.chkDone = [] → exec (.checksumWindow a) s = .next s)
      ∧ (∀ w rest, x.chkDone = w :: rest →
        (x.baseline = none → exec (.checksumWindow a) s
          = .next ((s.count cChkWin 1).setArray a { x with chkDone := rest, baseline := some (w.sum, w.sq) }))
        ∧ (∀ b, x.baseline = some b →
          (w.fails b = false → exec (.checksumWindow a) s = .next ((s.count cChkWin 1).setArray a { x with chkDone := rest }))
          ∧ (w.fails b = true → ∃ t, exec (.checksumWindow a) s = .next t ∧ t.ctrGet cChkWin = satAdd (s.ctrGet cChkWin) 1
            ∧ t.ctrGet cChkFail = satAdd (s.ctrGet cChkFail) 1 ∧ (t.array a).tasteDue = true ∧ (t.array a).tasteAhead = true
            ∧ (t.array a).baseline = some b ∧ (t.array a).chkDone = rest
            ∧ ∃ e, t.hist? uArray a = some e ∧ e.lastEvent = 0x3005 ∧ e.last = s.hour256))))
    ∧ (∀ a, a < 2048 →
      let x := s.array a
      (x.captured = none ∨ s.mayServe (a / 16) = false ∨ s.imageAwake (a / 16) = false ∨ s.tastingTurn a = false → exec (.tasting a) s = .next s)
      ∧ (∀ c, x.captured = some c → s.mayServe (a / 16) = true → s.imageAwake (a / 16) = true → s.tastingTurn a = true →
        let r := s.tasteErrs a c
        (tastePasses r.1 = true → ∃ t, exec (.tasting a) s = .next t ∧ t.ctrGet cTaste = satAdd (s.ctrGet cTaste) 1
          ∧ t.array a = { x with captured := none, tasteFails := 0, tasteAhead := false, chk := r.2.win, chkDone := x.chkDone ++ r.2.full })
        ∧ (tastePasses r.1 = false → x.tasteFails = 0 → ∃ t, exec (.tasting a) s = .next t
          ∧ t.ctrGet cTasteFail = satAdd (s.ctrGet cTasteFail) 1 ∧ (t.array a).tasteFails = 1
          ∧ (t.array a).captured = some c ∧ (s.isAbsent (a / 16) = false → a / 16 ∈ t.cal.due ∧ a / 16 ∈ t.cal.urgent)
          ∧ (s.train = true → s.stp.active = true → s.stp.begun = true → s.stp.step = c.step → s.afterClose = false → 5 ∈ t.stp.causes))
        ∧ (tastePasses r.1 = false → x.tasteFails ≠ 0 →
          ((s.histOf uArray a).state = .clean ∨ (s.histOf uArray a).state = .transient) → ∃ t, exec (.tasting a) s = .next t
          ∧ (t.array a).status = 3 ∧ (t.array a).refNext = true ∧ (t.array a).captured = none ∧ (t.array a).tasteFails = 0
          ∧ ∃ e, t.hist? uArray a = some e ∧ e.state = .permanent ∧ e.dtFail = true)))

/-- Calibration and re-placement (R115, R118 to R120, R139 to R143, R147, R155): nothing for a core whose turn it is not; a REXT out of range
ends the run with the core still due; a bank that passes has its arrays' figures and the next epoch, and the fourth ends the run; a
converter found beyond its limits is to be calibrated again, and the second time its arrays are out of service; a block takes, at
a boundary, the choice that its ARRAY_SHORT told while that is still there: an array of its bank, a spare core, which loses no step, or none. The moments are those of log 91. -/
def Obligations.ArraysAreCalibratedAndReplaced : Prop :=
  ∀ (s : State),
    (∀ (core bank : Nat) (o : CalObs), core < 128 → bank < 4 →
      let c := s.core core
      (s.mayServe core = false ∨ s.calTurn core bank = false → exec (.calBankRun core bank o) s = .next s)
      ∧ (s.mayServe core = true → s.calTurn core bank = true →
        (∀ d, c.banksDone = 0 → rextBad o = some d → ∃ t, exec (.calBankRun core bank o) s = .next t ∧ t.cal.rextFault = true
          ∧ t.cal.rext = wd (o.rext.getD (o.rext.length - 1) 0) ∧ core ∈ t.cal.due ∧ core ∉ t.cal.busy ∧ (t.core core).banksDone = 0
          ∧ t.ctrGet cCalFail = satAdd (s.ctrGet cCalFail) 1 ∧ t.ana.arrays = s.ana.arrays)
        ∧ (c.banksDone ≠ 0 ∨ rextBad o = none →
          (s.convBad core o = [] →
            let done := setBit4 c.banksDone bank
            let fig (t : State) : Prop := ∀ i, i < 4 → (t.array (16 * core + 4 * bank + i)).calEpoch = s.cal.epochCnt + 1
              ∧ (t.array (16 * core + 4 * bank + i)).tempCal = o.temp ∧ (t.array (16 * core + 4 * bank + i)).baseline = none
              ∧ ∀ f, o.figs[i]? = some f → (t.array (16 * core + 4 * bank + i)).fig = f
                ∧ (figOk f = false → (s.array (16 * core + 4 * bank + i)).status ≠ 2 → (t.array (16 * core + 4 * bank + i)).status = 3)
            (done ≠ 0xF → ∃ t, exec (.calBankRun core bank o) s = .next t
              ∧ (c.banksDone = 0 → t.cal.rextFault = false ∧ t.cal.uCur = o.rext)
              ∧ t.cal.epochCnt = s.cal.epochCnt + 1 ∧ (t.core core).banksDone = done ∧ (t.core core).tempCal = c.tempCal
              ∧ t.cal.due = s.cal.due ∧ core ∈ t.cal.busy ∧ fig t)
            ∧ (done = 0xF → s.hostStill → ∃ t, exec (.calBankRun core bank o) s = .next t ∧ core ∉ t.cal.due ∧ core ∉ t.cal.busy
              ∧ (t.core core).tempCal = o.temp ∧ (t.core core).banksDone = 0 ∧ (t.core core).failedOnce = []
              ∧ t.ctrGet cCalRun = satAdd (s.ctrGet cCalRun) 1 ∧ t.ana.sctEpoch = s.ana.sctEpoch + 1 ∧ fig t))
          ∧ (∀ f, s.convBad core o = [f] →
            (convUnit core f.1 ∉ c.failedOnce → ∃ t, exec (.calBankRun core bank o) s = .next t
              ∧ core ∈ t.cal.due ∧ core ∉ t.cal.busy ∧ convUnit core f.1 ∈ (t.core core).failedOnce
              ∧ t.ctrGet cCalFail = satAdd (s.ctrGet cCalFail) 1)
            ∧ (convUnit core f.1 ∈ c.failedOnce →
              ((s.histOf uConv (convUnit core f.1)).state = .clean ∨ (s.histOf uConv (convUnit core f.1)).state = .transient) →
              ∃ t, exec (.calBankRun core bank o) s = .next t ∧ core ∈ t.cal.due
                ∧ t.ctrGet cCalFail = satAdd (s.ctrGet cCalFail) 1
                ∧ ∀ b, b < 4 → (t.array (16 * core + 4 * b + f.1.pos % 4)).status = 3
                  ∧ (t.array (16 * core + 4 * b + f.1.pos % 4)).refNext = true)))))
    ∧ (∀ a, a < 2048 →
      ((s.array a).unplaced = false ∨ (s.array a).moved.isSome = true ∨ (s.array a).lost = true ∨ s.mayReplace = false →
        exec (.arrayReplace a) s = .next s)
      ∧ ((s.array a).unplaced = true → (s.array a).moved = none → (s.array a).lost = false → s.mayReplace = true →
        (∀ b, s.choiceNow a = (1, b) → ∃ t, exec (.arrayReplace a) s = .next t ∧ (t.array a).moved = some b
          ∧ (t.array a).holds = false ∧ (t.array a).refOn = false ∧ (t.array a).plan = none ∧ t.ana.sctEpoch = s.ana.sctEpoch + 1
          ∧ t.stp = s.stp ∧ t.rcp = s.rcp)
        ∧ (∀ b, s.choiceNow a = (2, b) → ∃ t, exec (.arrayReplace a) s = .next t
          ∧ a / 16 ∈ t.flt.moving ∧ (t.array a).plan = none ∧ (∀ j, j ≠ a → t.array j = s.array j) ∧ t.stp = s.stp ∧ t.rcp = s.rcp)
        ∧ (∀ b, s.choiceNow a = (3, b) → ∃ t, exec (.arrayReplace a) s = .next t
          ∧ (t.array a).lost = true ∧ (t.array a).holds = false ∧ t.flt.degraded = true ∧ t.flt.lostNext = true
          ∧ t.ana.sctEpoch = s.ana.sctEpoch ∧ (s.rcp.state = .running → t.rcp.state = .stopping)))
      ∧ ((s.array a).plan = none → (∀ b, s.freeArray a = some b → s.choiceNow a = (1, b))
        ∧ (s.freeArray a = none → s.spareFor (a / 16) = true → s.choiceNow a = (2, 0))
        ∧ (s.freeArray a = none → s.spareFor (a / 16) = false → s.choiceNow a = (3, 0)))
      ∧ (∀ b, (s.array a).plan = some (1, b) → s.canTake a b = true → s.choiceNow a = (1, b))
      ∧ (∀ b, (s.array a).plan = some (2, b) → s.spareFor (a / 16) = true → s.choiceNow a = (2, b)))



/-- Temperatures (R117, R129, R142, R325 to R327, R402 to R404), in 0.1 °C but for the clusters' own in °C: a sample sets the die level with its hysteresis, the reference modes and
the ceiling, and the duty never rises by it; SHUTDOWN's and CRITICAL's sticky bits stay; each core of a sampled cluster takes its
temperature and band, and falls due beyond the trigger; a coolant outlet that reaches 65 °C is noted; a memory device that enters
CRITICAL starts an evacuation, which ends when every device is below 95 °C. A sample at the limit of its comparator takes the rails off, and
latches. -/
def Obligations.TemperaturesActAtOnce : Prop :=
  ∀ (s : State),
    (∀ (cd0 cd1 iod : Int) (cl : List Int),
      let hot := max cd0 cd1
      let lvl := dieLevel s.pwr.therm hot
      (s.pwr.pwrgood = true → 1150 ≤ max hot iod → ∃ t, exec (.dieTempSample cd0 cd1 iod cl) s = .next t ∧ t.pwr.pwrgood = false
        ∧ t.pwr.thermLatch = true ∧ t.pwr.sticky.getLsbD 8 = true)
      ∧ (s.pwr.pwrgood = false ∨ max hot iod < 1150 →
      ∃ t, exec (.dieTempSample cd0 cd1 iod cl) s = .next t ∧ t.pwr.cd0 = cd0 ∧ t.pwr.cd1 = cd1 ∧ t.pwr.iod = iod
        ∧ t.pwr.therm = lvl ∧ t.pwr.ceil = (if 1000 ≤ hot then max 2 (s.pwr.ceil - 1) else s.pwr.ceil)
        ∧ (t.ana.coldRef = true ↔ cd0 < 0 ∨ cd1 < 0) ∧ (t.ana.hotRef = true ↔ 2 ≤ lvl)
        ∧ t.pwr.duty ≤ s.pwr.duty ∧ t.pwr.duty ≤ t.pwr.ceil
        ∧ (s.pwr.therm < 3 → 3 ≤ lvl → t.pwr.sticky.getLsbD 3 = true) ∧ (s.pwr.therm < 4 → lvl = 4 → t.pwr.sticky.getLsbD 4 = true)
        ∧ (∀ i, s.pwr.sticky.getLsbD i = true → t.pwr.sticky.getLsbD i = true)
        ∧ (∀ k x, k < 128 → cl[k / 8]? = some x → (t.core k).temp = x ∧ (t.core k).band = bandFor (s.core k).band x
          ∧ (s.hif.state ≠ .boot → s.isAbsent k = false → s.cal.trig < (x - (s.core k).tempCal).natAbs → k ∈ t.cal.due))
        ∧ (∀ k, cl[k / 8]? = none → t.core k = s.core k) ∧ t.store = s.store ∧ t.flt = s.flt))
    ∧ (∀ (inlet outlet : Int),
      let u : State := { s with pwr := { s.pwr with inlet := inlet, outlet := outlet } }
      (s.pwr.pwrgood = true → 750 ≤ outlet → ∃ t, exec (.coolantSample inlet outlet) s = .next t ∧ t.pwr.pwrgood = false
        ∧ t.pwr.thermLatch = true)
      ∧ (s.pwr.pwrgood = false ∨ outlet < 750 →
        (outlet < 650 ∨ 650 ≤ s.pwr.outlet → exec (.coolantSample inlet outlet) s = .next u)
        ∧ (650 ≤ outlet → s.pwr.outlet < 650 → ∃ t, exec (.coolantSample inlet outlet) s = .next t ∧ t.pwr.inlet = inlet
          ∧ t.pwr.outlet = outlet ∧ t.pwr.sticky.getLsbD 5 = true)))
    ∧ (∀ (dev : Nat) (temp : Int), dev < 24 →
      let old := (Tab.get s.mem.temps dev (0, 0)).1
      (s.pwr.pwrgood = true → 1080 ≤ temp → ∃ t, exec (.memTempSample dev temp) s = .next t ∧ t.pwr.pwrgood = false
        ∧ t.pwr.thermLatch = true)
      ∧ (s.pwr.pwrgood = false ∨ temp < 1080 → ∃ t, exec (.memTempSample dev temp) s = .next t ∧ Tab.get t.mem.temps dev (0, 0) = (memLevel old temp, temp)
        ∧ (∀ j, j ≠ dev → Tab.find t.mem.temps j = Tab.find s.mem.temps j)
        ∧ (old < 4 → 1020 ≤ temp → t.mem.evac = true ∧ dev ∈ t.mem.hot ∧ t.evt.alarm.getLsbD 2 = true)
        ∧ (temp < 1020 ∨ 4 ≤ old → t.mem.evac = s.mem.evac ∧ t.mem.hot = s.mem.hot)))
    ∧ ((∀ e ∈ s.mem.temps, e.2.2 < 950) → exec .evacClear s = .next { s with mem := { s.mem with evac := false, hot := [] } })
    ∧ ((∃ e ∈ s.mem.temps, 950 ≤ e.2.2) → exec .evacClear s = .next s)

/-- The memory's own work (R28, R323, R324, R328, R335, R368): the patrol reads, in a background gap, a frame of an allocated region and, with
nothing found, changes nothing but the period that its first frame brings in force; a corrected codeword is counted and its frame
rewritten, unless a foreground write comes first; a marked frame of a committed bank that the lowest live member of the replica group
sends holds its bytes, and the step replays. In TEST, GO starts a
generator's run with the pattern it names, STOP asks it to end, and its end reports the first mismatch. -/
def Obligations.MemoryIsPatrolledRepairedAndTested : Prop :=
  ∀ (s : State),
    (∀ (r f : Nat),
      (∀ g lost, (s.region r = none ∧ r < 64) ∨ ((s.region r).isSome = true ∧ s.mayPatrol r f = false) →
        exec (.patrolScrub r f g lost) s = .next s)
      ∧ ((s.region r).isSome = true → s.mayPatrol r f = true →
        (s.framePoison r f = [] →
          (∀ lost, s.passStarts r f = false → exec (.patrolScrub r f { ce := [], ue := [] } lost) s = .next s)
          ∧ (∀ lost, s.passStarts r f = true → exec (.patrolScrub r f { ce := [], ue := [] } lost) s
            = .next { s with mem := { s.mem with patrol := s.mem.patrolNew } })
          ∧ (∀ o lost, ∃ t, exec (.patrolScrub r f { ce := [(r, o)], ue := [] } lost) s = .next t
            ∧ t.ctrGet cPatrolFix = (if lost then s.ctrGet cPatrolFix else satAdd (s.ctrGet cPatrolFix) 1) ∧ t.ctrGet cMemCe = satAdd (s.ctrGet cMemCe) 1
            ∧ t.store = s.store ∧ t.mem.regions = s.mem.regions ∧ t.mem.poison = s.mem.poison))
        ∧ (∀ o lost, s.framePoison r f = [] → ∃ t, exec (.patrolScrub r f { ce := [], ue := [(r, o)] } lost) s = .next t
          ∧ t.ctrGet cMemUe = satAdd (s.ctrGet cMemUe) 1 ∧ (r, o / 32) ∈ t.mem.poison ∧ t.store = s.store
          ∧ t.ctrGet cPatrolFix = s.ctrGet cPatrolFix))
      ∧ (∀ src data, r < 64 →
        let at_ := s.committedHalf r f * s.bankBytes r + 2048 * f
        (pairKind (s.regionKind r) = false ∨ s.repairer ≠ some src ∨ s.poisonIn r at_ 2048 = [] → exec (.frameRepair r f src data) s = .next s)
        ∧ (pairKind (s.regionKind r) = true → s.repairer = some src → s.poisonIn r at_ 2048 ≠ [] →
          ∃ t, exec (.frameRepair r f src data) s = .next t
          ∧ Mem.read t.store.gddr (gkey r at_) (data.take 2048).length = data.take 2048
          ∧ (∀ k, k < gkey r at_ ∨ gkey r at_ + (data.take 2048).length ≤ k → Mem.get t.store.gddr k = Mem.get s.store.gddr k)
          ∧ t.mem.poison = clearPoison s.mem.poison r at_ (data.take 2048).length
          ∧ (s.stp.active = true → s.afterClose = false → 0xA ∈ t.stp.causes) ∧ fld t.flt.lastRecov 31 28 = 4)))
    ∧ (∀ (dev : Nat) (v : Word), dev < 24 → s.hif.state = .test →
      (∃ t, exec (.tgGo dev v) s = .next t ∧ (t.tgen dev).go = true ∧ (t.tgen dev).raw = v.getLsbD 5
        ∧ (t.tgen dev).dir = fld v 4 3 ∧ (t.tgen dev).pattern = fld v 2 0
        ∧ t = { s with mem := { s.mem with tg := t.mem.tg } } ∧ ∀ d, d ≠ dev → t.tgen d = s.tgen d)
      ∧ ((s.tgen dev).go = true → ∃ t, exec (.tgStop dev v) s = .next t ∧ (t.tgen dev).go = true ∧ (t.tgen dev).stop = true
        ∧ ∀ d, d ≠ dev → t.tgen d = s.tgen d)
      ∧ ((s.tgen dev).go = true → ∀ errors first, ∃ t, exec (.tgRunDone dev errors first) s = .next t
        ∧ (t.tgen dev).go = false ∧ (t.tgen dev).stop = false
        ∧ (t.tgen dev).first = (if errors = 0 then 0xFFFFFFFF else first)
        ∧ (errors = 0 → t.ctr = s.ctr)))


/-- Localisation, spare cores and core watchdogs (R24, R359, R361, R372 to R374): suspects are taken one after the other, each against the
test core, both running the updates of the failed attempt again. Where the test core's digest is the majority's, an error is charged to the
suspect, or to the DGA that gave the output, and where their outputs differ the operands of the first group that differs become a captured
pattern; else nothing is charged (the case in which the two differ and the test core is not the majority's is the model's choice, log 69; what
the runs return are operands of the command, log 70). A core that is to move takes a spare that passes its tests and its old physical core
is out of service, or it is absent and the device degraded, to be lost at the boundary; a watchdog is a transient error and a cause of
replay. -/
def Obligations.FaultyCoresAreFoundAndMoved : Prop :=
  ∀ (s : State) (core : Nat), core < 128 →
    (∀ o, (s.mayLocalise = false ∨ s.flt.localising = false ∨ s.flt.suspects.head? ≠ some core → exec (.localise core o) s = .next s)
      ∧ (s.mayLocalise = true → s.flt.localising = true → s.flt.suspects.head? = some core →
        let rest := s.flt.suspects.filter (fun c => c != core)
        let done (t : State) : Prop := t.flt.suspects = rest ∧ t.flt.localising = !rest.isEmpty
          ∧ t.ctrGet cLocalise = satAdd (s.ctrGet cLocalise) (if rest.isEmpty then 1 else 0)
        let runs := s.flt.locRuns.filter (fun r => r.core == core)
        let good : Prop := locDigest runs o.test = (s.flt.locRef.getD core 0).toNat
        (s.testCore core = none ∨ ¬good →
          ∃ t, exec (.localise core o) s = .next t ∧ done t ∧ t.flt.hist = s.flt.hist ∧ t.flt.patterns = s.flt.patterns)
        ∧ (∀ x, s.testCore core ≠ none → good → locDiff runs o = some x → o.copy = none →
          let u := match o.dga with
            | none => (uCore, core)
            | some g => (uDga, 2 * core + g % 2)
          ∃ t e, exec (.localise core o) s = .next t ∧ done t ∧ t.hist? u.1 u.2 = some e ∧ e.lastEvent = 0xB001
            ∧ e.err = min 0xFFFFFFFF ((s.histOf u.1 u.2).err + 1)
            ∧ t.flt.patterns.getLast? = some (x.1.pattern x.2 o u.1 u.2 s.hour256))
        ∧ (s.testCore core ≠ none → good → locDiff runs o = none →
          ∃ t e, exec (.localise core o) s = .next t ∧ done t ∧ t.hist? uCore core = some e ∧ e.lastEvent = 0xB001
            ∧ e.err = min 0xFFFFFFFF ((s.histOf uCore core).err + 1) ∧ t.flt.patterns = s.flt.patterns)))
    ∧ (∀ failing us, (core ∉ s.flt.moving ∨ (s.stp.active = true ∧ s.stp.begun = true ∧ s.stp.halted = false) →
        ∀ cals, exec (.coreSpare core failing us cals) s = .next s)
      ∧ (core ∈ s.flt.moving → s.stp.active = false →
        let old := Tab.get s.flt.swapped core (s.phys core)
        (∀ p, (s.moveTargets core).find? (fun p => !failing.contains p) = some p → s.hostStill →
          ∃ t, exec (.coreSpare core failing us []) s = .next t ∧ Tab.find t.flt.coreMap core = some p ∧ core ∉ t.flt.moving
            ∧ old ∈ t.flt.usedPhys ∧ (∀ q ∈ s.flt.usedPhys, q ∈ t.flt.usedPhys) ∧ Tab.find t.flt.swapped core = none
            ∧ (t.core core).tempCal = (s.core core).temp ∧ (t.core core).banksDone = 0 ∧ core ∉ t.cal.due
            ∧ t.flt.absent = s.flt.absent ∧ t.ctrGet cRecovery = satAdd (s.ctrGet cRecovery) 1)
        ∧ ((s.moveTargets core).find? (fun p => !failing.contains p) = none →
          ∀ cals, ∃ t e, exec (.coreSpare core failing us cals) s = .next t ∧ core ∈ t.flt.absent ∧ core ∉ t.flt.moving ∧ t.flt.degraded = true
            ∧ old ∈ t.flt.usedPhys ∧ core ∉ t.cal.due ∧ t.hist? uCore core = some e ∧ e.state = .permanent ∧ e.phys = 0x3FF
            ∧ t.flt.lostNext = true ∧ (s.rcp.state = .running → t.rcp.state = .stopping))))
    ∧ (∃ t e, exec (.coreWatchdog core) s = .next t ∧ t.hist? uCore core = some e ∧ e.last = s.hour256
      ∧ e.err = min 0xFFFFFFFF ((s.histOf uCore core).err + 1) ∧ t.free = s.free + 1
      ∧ (s.stp.active = true → s.afterClose = false → 0xA ∈ t.stp.causes))

/-- Lost devices (R375 to R378): one already dead changes nothing; another device's loss discards the attempt, which commits nothing, and
the master's new table avoids it; then the device waits for the recovery that the leader chooses, drop-out before the shadow, or stops;
this device's own loss stops its work; where drop-out was chosen, the replica of the lost device (the devices that the leader names and those
that this device's own groups reach, log 143) is dropped from the groups, and the others replay; a message of the one device whose shadow is
held fills the working bank of its region or the step's log slot (log 117). -/
def Obligations.LostDevicesAreRoutedAround : Prop :=
  ∀ (s : State) (dev : Nat), dev < 1024 →
    (∀ c, dev ∈ s.lnk.dead → exec (.deviceLost dev c) s = .next s)
    ∧ (∀ c, dev ∉ s.lnk.dead → dev = s.device → s.hostStill → ∃ t, exec (.deviceLost dev c) s = .next t ∧ t.hif.state = .lost
        ∧ t.hif.ready = false ∧ t.stp.active = false ∧ t.stp.halted = true ∧ t.evt.alarm.getLsbD 11 = true ∧ t.upd = s.upd)
    ∧ (∀ c, dev ∉ s.lnk.dead → dev ≠ s.device → ∃ t, exec (.deviceLost dev c) s = .next t ∧ t.lnk.dead = s.lnk.dead ++ [dev]
        ∧ t.evt.alarm.getLsbD 11 = true ∧ t.upd = s.upd
        ∧ (s.mayRenew = true → (∀ g, dev ∉ (s.tableOf g).dead) → t.lnk.genNext = some (1 - s.lnk.gen, s.lnk.beat + 1)
          ∧ Tab.find t.lnk.routes (1 - s.lnk.gen) = some { dead := s.lnk.dead ++ [dev], down := s.lnk.downs })
        ∧ (s.mayRenew = false → t.lnk.genNext = s.lnk.genNext ∧ t.lnk.routes = s.lnk.routes)
        ∧ (s.stp.active = true → s.stp.begun = true → t.mem.written = []
          ∧ (t.stp.active = false ∨ (t.stp.halted = true ∧ t.stp.replayDue = some 0xA)))
        ∧ (∀ r, (r = .dropOut ∨ r = .shadow) → c = some r ∨ (c = none ∧ s.dropsOut dev = true ∧ r = .dropOut)
              ∨ (c = none ∧ s.dropsOut dev = false ∧ s.holdsShadow dev = true ∧ r = .shadow) →
          Tab.find t.flt.recov dev = some r ∧ t.rcp = s.rcp
          ∧ (s.stp.active = true → s.stp.begun = true → t.stp.active = true ∧ t.stp.halted = true ∧ t.stp.replayDue = some 0xA))
        ∧ (c = some .stop → t.stp.active = false ∧ (s.runningRecipe.isSome = true → t.rcp.state = .stopping)))
    ∧ (∀ members, Tab.find s.flt.recov dev ≠ some .dropOut → exec (.replicaDrop dev members) s = .next s)
    ∧ (∀ members, Tab.find s.flt.recov dev = some .dropOut →
      let gone := members.foldl addOnce (s.replicaOf (s.rcp.groups.length + 1) [dev])
      (s.device ∉ gone → ∃ t, exec (.replicaDrop dev members) s = .next t
        ∧ (∀ g ∈ t.rcp.groups, ∀ m ∈ g.2.members, m.1 ∉ gone) ∧ t.rcp.groups.map (·.1) = s.rcp.groups.map (·.1)
        ∧ (s.stp.active = true → s.stp.begun = true → t.stp.halted = true ∧ t.stp.replayDue = some 0xA)
        ∧ t.ctrGet cRecovery = satAdd (s.ctrGet cRecovery) 1 ∧ fld t.flt.lastRecov 31 28 = 2 ∧ t.upd = s.upd)
      ∧ (s.device ∈ gone → s.stp.active = false → ∃ t, exec (.replicaDrop dev members) s = .next t ∧ t.rcp.groups = s.rcp.groups
        ∧ (s.runningRecipe.isSome = true → t.rcp.state = .stopping) ∧ t.upd = s.upd))
    ∧ (∀ m : ShadowMsg,
      let w : ShadowWork := { step := m.step, epoch := m.epoch, full := shadowFull m, digest := m.digest, base := m.base }
      let takes (x : Shadow) : Prop := ∃ t, exec (.shadowTraffic m) s = .next t
        ∧ t.flt = { s.flt with shadow := some { x with n := m.n, work := some w } }
        ∧ (∀ r, s.ownRegion 0xB = some r → Mem.read t.store.gddr (gkey r (x.place m).1) (x.place m).2.length = (x.place m).2)
        ∧ t = { s with flt := t.flt, store := t.store, mem := t.mem, ctr := t.ctr }
      (s.shadowFits m = false → exec (.shadowTraffic m) s = .next s)
      ∧ (∀ x, s.flt.shadow = some x → x.dev ≠ m.dev → exec (.shadowTraffic m) s = .next s)
      ∧ (s.shadowFits m = true →
        (∀ x, s.flt.shadow = some x → x.dev = m.dev → x.size = m.size → takes x)
        ∧ (s.flt.shadow = none ∨ (∃ x, s.flt.shadow = some x ∧ x.dev = m.dev ∧ x.size ≠ m.size) → takes (Shadow.fresh m))))

/-- The recorder (R5, R411, R416 to R418, R421): it takes the oldest record of its queue while the main rails are on and no record of the
always-on buffer waits before it, gives it the next sequence, and keeps it in the first area while that has room; an ALARM record goes to the
store at once and, whole, to the management side; a flush empties the page buffer into the circulating area, or, where NVM refuses the
write, the device enters FAULT (R381, log 88); an operating hour passes only with the main rails on, and is saved. -/
def Obligations.RecordsAreKeptInOrder : Prop :=
  ∀ (s : State),
    (s.evt.queue = [] ∨ s.pwr.pwrgood = false ∨ s.evt.aonBuf ≠ [] → exec .recordWrite s = .next s)
    ∧ (∀ r rest, s.evt.queue = r :: rest → s.pwr.pwrgood = true → s.evt.aonBuf = [] →
      let x : Record := { r with seq := s.evt.seq }
      ∃ t, exec .recordWrite s = .next t ∧ t.evt.seq = (s.evt.seq + 1) % 2 ^ 32
        ∧ (s.evt.firstFull = false → s.evt.first.length < 4096 → t.evt.first = s.evt.first ++ [x])
        ∧ (s.evt.firstFull = true ∨ 4096 ≤ s.evt.first.length → t.evt.first = s.evt.first)
        ∧ (s.evt.first.length < 4095 → s.evt.firstFull = false → t.evt.firstFull = false ∧ t.evt.queue = rest ∧ t.ctr = s.ctr)
        ∧ (r.prio ≠ 0 → s.evt.page.length < 63 → t.evt.page = s.evt.page ++ [x] ∧ t.evt.circ = s.evt.circ ∧ t.sbm = s.sbm)
        ∧ (r.prio = 0 ∨ 63 ≤ s.evt.page.length → t.evt.page = [] ∧ Tab.find t.evt.circ (x.seq % 65536) = some x)
        ∧ (r.prio = 0 → t.sbm.pem = s.sbm.pem ++ [x])
        ∧ t.store = s.store ∧ t.hif = s.hif)
    ∧ (s.pwr.pwrgood = false → (∀ b, exec (.pageFlush b) s = .next s) ∧ exec .operatingHourTick s = .next s)
    ∧ (s.pwr.pwrgood = true → exec .operatingHourTick s = .next { s with
        evt := { s.evt with hours := s.evt.hours + 256, savedHours := s.evt.hours + 256 } })
    ∧ (s.pwr.pwrgood = true → s.hostStill → ∃ t, exec (.pageFlush false) s = .next t ∧ t.hif.state = .fault ∧ t.flt.fatal = true
      ∧ t.stp.active = false ∧ t.evt.page = s.evt.page ∧ t.evt.circ = s.evt.circ)
    ∧ (s.pwr.pwrgood = true → ∃ t, exec (.pageFlush true) s = .next t ∧ t.evt.page = []
      ∧ (∀ a r, s.evt.page = a ++ [r] → Tab.find t.evt.circ (r.seq % 65536) = some r)
      ∧ (∀ k, (∀ r ∈ s.evt.page, r.seq % 65536 ≠ k) → Tab.find t.evt.circ k = Tab.find s.evt.circ k)
      ∧ t = { s with evt := { s.evt with circ := t.evt.circ, page := [] } })



/-- A step runs the command at the front of the queue on the state with the queue's rest; on an empty queue the block idles (the model's
choice, log 11); and no word spells a command, since the operation table gives no row bits. -/
def Obligations.StepRunsTheFrontCommand : Prop :=
  ∀ (s : State),
    (∀ c rest, s.pending = c :: rest → step s = exec c { s with pending := rest })
    ∧ (s.pending = [] → step s = .next s)
    ∧ (∀ nbits w, decodeTableWord nbits w = none ∧ s.withFetchWord nbits w = s)

/-- The module right after reset (R91 to R93, R125, R225, R226, R260, R312, R313, R331, R339, R350, R361, R407 to R409, R416, R431, R441): the values
the spec gives (a register to which it gives none holds what log 2 names), no output driven, and the invariants of the other statements. -/
def Obligations.ResetLeavesTheModuleStarting : Prop :=
  let s := State.reset
  (s.pending = [] ∧ s.memOk ∧ s.evt.savedHours = s.evt.hours)
  ∧ (s.hif.state = .boot ∧ s.hif.ready = false ∧ s.hif.mboxEn = false ∧ s.hif.irqStat = 0 ∧ s.hif.railErr = 0)
  ∧ (s.pwr.supply = .starting ∧ s.pwr.duty = 8 ∧ s.pwr.limit = 1200 ∧ s.pwr.wakeTol = 100 ∧ s.pwr.sticky = 0 ∧ s.evt.alarm = 0)
  ∧ (s.sec.debug = 1 ∧ s.sec.owner = none ∧ s.sec.keys = [] ∧ s.evt.seq = 0 ∧ s.evt.first = [])
  ∧ (s.ana.w1lim = 0x80 ∧ s.ana.w3lim = 0x7F ∧ s.ana.w2lim = 0x55 ∧ s.ana.interval = 500 ∧ s.cal.trig = 8 ∧ s.mem.patrol = 4)
  ∧ (s.lnk.dimX = 1 ∧ s.lnk.dimY = 1 ∧ s.lnk.dimZ = 1 ∧ s.lnk.period = 200 ∧ s.lnk.domain = false)
  ∧ (s.upd.epoch = 0 ∧ s.upd.digest = 0 ∧ s.upd.stat = 0 ∧ s.rcp.slots = [] ∧ s.rcp.state = .idle ∧ s.flt.hist = [])
  ∧ (s.pinReady = .hiZ ∧ s.pinPwrgood = .hiZ ∧ s.pinAlertN = .hiZ ∧ s.pinMgmtAlertN = .hiZ ∧ s.pinThermN = .hiZ ∧ s.pinFaultN = .hiZ
      ∧ s.pinTickOut = .hiZ)
  ∧ (∀ c, c < 128 → (s.core c).band = 1 ∧ (s.core c).scrubbed = false)
  ∧ (∀ p, p < 6 → (s.port p).state = .disabled)

/-- What every step keeps, whatever the command (R421, R428, R431): the canonical form of the memories; the rest of the queue, in order; a
sealed module stays sealed; the rollback counter never falls; and the operating hours, which are always saved, never go back. -/
def Obligations.EveryStepKeepsItsPromises : Prop :=
  ∀ (s t : State), step s = .next t →
    (s.memOk → t.memOk) ∧ t.pending = s.pending.tail
    ∧ (s.sec.debug = 2 → t.sec.debug = 2)
    ∧ s.sec.rollback.toNat ≤ t.sec.rollback.toNat
    ∧ (s.evt.savedHours = s.evt.hours → t.evt.savedHours = t.evt.hours ∧ s.evt.hours ≤ t.evt.hours)

/-- Who changes what is guarded (R408, R414, R415, R417, R418, R429, R431, R433): alarm and sticky bits are cleared by register writes, or by the loss
of the always-on supply, alone; a lock moves by its command, the management port's register or the loss of the always-on supply; the owner and the recipe keys move by
OWNER_SET, RECIPE_KEY and DEBUG_UNLOCK; and the first area of the recorder loses its records by REC_CLEAR, or by the loss of power those
that no page flush had yet put in NVM. -/
def Obligations.GuardedStateHasItsOwnCommands : Prop :=
  ∀ (s t : State) (c : Instr) (rest : List Instr), s.pending = c :: rest → step s = .next t →
    ((∀ off v w, c ≠ .registerWrite off v w) → (∀ off v, c ≠ .regWrite off v) → (∀ mv, c ≠ .inputBelow34V mv) →
      s.evt.alarm &&& ~~~t.evt.alarm = 0 ∧ s.pwr.sticky &&& ~~~t.pwr.sticky = 0)
    ∧ ((∀ p k, c ≠ .lock p k) → (∀ off v, c ≠ .regWrite off v) → (∀ mv, c ≠ .inputBelow34V mv) →
      t.sbm.lockPower = s.sbm.lockPower ∧ t.sbm.lockSecurity = s.sbm.lockSecurity)
    ∧ ((∀ b x, c ≠ .ownerSet b x) → (∀ b n x, c ≠ .recipeKey b n x) → (∀ b x, c ≠ .debugUnlock b x) →
      t.sec.keys = s.sec.keys ∧ t.sec.owner = s.sec.owner)
    ∧ ((∀ b, c ≠ .recClear b) → (∀ mv, c ≠ .inputBelow34V mv) → s.evt.first <+: t.evt.first)
end

