-- ==== Sys2Proof/Laws/Mem.lean ====
section
/-! SUPPORT. The laws of the sparse maps and of the byte memories: a read after a write, and that every operation on a memory keeps
its canonical form. -/

namespace Sys2Proof.Machine

/-! ### Sparse maps -/

@[simp] theorem Tab.find_nil {α : Type} (k : Nat) : Tab.find ([] : Tab α) k = none := rfl

@[simp] theorem Tab.find_put_same {α : Type} (t : Tab α) (k : Nat) (v : α) : Tab.find (Tab.put t k v) k = some v := by
  induction t with
  | nil => simp [Tab.put, Tab.find]
  | cons e r ih =>
    obtain ⟨j, w⟩ := e
    unfold Tab.put
    split
    · simp [Tab.find]
    · split
      · simp [Tab.find]
      · simp [Tab.find, *]

theorem Tab.find_put_other {α : Type} (t : Tab α) (k j : Nat) (v : α) (h : j ≠ k) : Tab.find (Tab.put t k v) j = Tab.find t j := by
  induction t with
  | nil => simp [Tab.put, Tab.find, Ne.symm h]
  | cons e r ih =>
    obtain ⟨i, w⟩ := e
    unfold Tab.put
    split
    · subst_vars
      simp [Tab.find, Ne.symm h]
    · split
      · simp [Tab.find, Ne.symm h]
      · simp [Tab.find, ih]

theorem Tab.find_put {α : Type} (t : Tab α) (k j : Nat) (v : α) :
    Tab.find (Tab.put t k v) j = if j = k then some v else Tab.find t j := by
  split
  · subst_vars
    simp
  · exact Tab.find_put_other t k j v (by assumption)

theorem Tab.find_del {α : Type} (t : Tab α) (k j : Nat) : Tab.find (Tab.del t k) j = if j = k then none else Tab.find t j := by
  induction t with
  | nil => simp [Tab.del, Tab.find]
  | cons e r ih =>
    obtain ⟨i, w⟩ := e
    unfold Tab.del at ih ⊢
    by_cases hi : i = k
    · subst hi
      by_cases hj : j = i
      · simp_all
      · simp_all [Tab.find, Ne.symm hj]
    · by_cases hj : i = j
      · subst hj
        simp [Tab.find, hi]
      · simp_all [Tab.find]

@[simp] theorem Tab.get_put_same {α : Type} (t : Tab α) (k : Nat) (v d : α) : Tab.get (Tab.put t k v) k d = v := by
  simp [Tab.get]

theorem Tab.get_put_other {α : Type} (t : Tab α) (k j : Nat) (v d : α) (h : j ≠ k) :
    Tab.get (Tab.put t k v) j d = Tab.get t j d := by
  simp [Tab.get, Tab.find_put_other t k j v h]

/-! ### Byte memories: what a run of cells holds -/

theorem Mem.cells_bounds (a : Nat) (bs : List Byte) : ∀ c ∈ Mem.cells a bs, a ≤ c.1 ∧ c.1 < a + bs.length ∧ c.2 ≠ Mem.unlisted := by
  induction bs generalizing a with
  | nil => simp [Mem.cells]
  | cons b r ih =>
    intro c hc
    unfold Mem.cells at hc
    split at hc
    · have := ih (a + 1) c hc
      simp only [List.length_cons]
      exact ⟨by omega, by omega, this.2.2⟩
    · rcases List.mem_cons.mp hc with h | h
      · subst h
        exact ⟨Nat.le_refl _, by simp, by assumption⟩
      · have := ih (a + 1) c h
        simp only [List.length_cons]
        exact ⟨by omega, by omega, this.2.2⟩

theorem Mem.cells_rising (a : Nat) (bs : List Byte) : (Mem.cells a bs).Pairwise (fun x y => x.1 < y.1) := by
  induction bs generalizing a with
  | nil => simp [Mem.cells]
  | cons b r ih =>
    unfold Mem.cells
    split
    · exact ih (a + 1)
    · refine List.Pairwise.cons ?_ (ih (a + 1))
      intro c hc
      have := Mem.cells_bounds (a + 1) r c hc
      simp only
      omega

@[simp] theorem Mem.wf_nil : Mem.wf [] := ⟨List.Pairwise.nil, fun _ h => by cases h⟩

theorem Mem.wf_filter (m : Mem) (p : Nat × BitVec 8 → Bool) (h : Mem.wf m) : Mem.wf (m.filter p) :=
  ⟨h.1.filter p, fun c hc => h.2 c (List.mem_filter.mp hc).1⟩

/-- A write keeps the canonical form. -/
theorem Mem.wf_write (m : Mem) (a : Nat) (bs : List Byte) (h : Mem.wf m) : Mem.wf (Mem.write m a bs) := by
  have hc := Mem.cells_bounds a bs
  refine ⟨?_, ?_⟩
  · unfold Mem.write
    rw [List.pairwise_append, List.pairwise_append]
    refine ⟨⟨h.1.filter _, Mem.cells_rising a bs, ?_⟩, h.1.filter _, ?_⟩
    · intro x hx y hy
      have h1 := (List.mem_filter.mp hx).2
      have h2 := hc y hy
      simp only [decide_eq_true_eq] at h1
      omega
    · intro x hx y hy
      have h2 := (List.mem_filter.mp hy).2
      simp only [decide_eq_true_eq] at h2
      rcases List.mem_append.mp hx with hx | hx
      · have h1 := (List.mem_filter.mp hx).2
        simp only [decide_eq_true_eq] at h1
        omega
      · have h1 := hc x hx
        omega
  · intro c hcm
    unfold Mem.write at hcm
    simp only [List.mem_append, List.mem_filter] at hcm
    rcases hcm with (h1 | h1) | h1
    · exact h.2 c h1.1
    · exact (hc c h1).2.2
    · exact h.2 c h1.1

/-! ### A read after a write -/

theorem Mem.get_none (m : Mem) (a : Nat) (h : ∀ c ∈ m, c.1 ≠ a) : Mem.get m a = Mem.unlisted := by
  induction m with
  | nil => rfl
  | cons c r ih =>
    obtain ⟨b, v⟩ := c
    have hb : b ≠ a := h (b, v) (by simp)
    simp only [Mem.get, if_neg hb]
    exact ih (fun c hc => h c (by simp [hc]))

theorem Mem.get_append (m n : Mem) (a : Nat) (h : ∀ c ∈ m, c.1 ≠ a) : Mem.get (m ++ n) a = Mem.get n a := by
  induction m with
  | nil => rfl
  | cons c r ih =>
    obtain ⟨b, v⟩ := c
    have hb : b ≠ a := h (b, v) (by simp)
    simp only [List.cons_append, Mem.get, if_neg hb]
    exact ih (fun c hc => h c (by simp [hc]))

theorem Mem.get_append_left (m n : Mem) (a : Nat) (h : ∀ c ∈ n, c.1 ≠ a) : Mem.get (m ++ n) a = Mem.get m a := by
  induction m with
  | nil => simpa [Mem.get] using Mem.get_none n a h
  | cons c r ih =>
    obtain ⟨b, v⟩ := c
    simp only [List.cons_append, Mem.get]
    split
    · rfl
    · exact ih

theorem Mem.get_filter (m : Mem) (a : Nat) (p : Nat × BitVec 8 → Bool) (h : ∀ c ∈ m, c.1 = a → p c = true) :
    Mem.get (m.filter p) a = Mem.get m a := by
  induction m with
  | nil => rfl
  | cons c r ih =>
    obtain ⟨b, v⟩ := c
    have hr := ih (fun c hc => h c (by simp [hc]))
    by_cases hb : b = a
    · have hp := h (b, v) (by simp) hb
      rw [List.filter_cons_of_pos hp]
      simp [Mem.get, hb]
    · simp only [Mem.get, if_neg hb]
      by_cases hp : p (b, v) = true
      · simp [List.filter, hp, Mem.get, if_neg hb, hr]
      · simp [List.filter, hp, hr]

theorem Mem.get_cells (a : Nat) (bs : List Byte) (i : Nat) (h : i < bs.length) : Mem.get (Mem.cells a bs) (a + i) = bs[i] := by
  induction bs generalizing a i with
  | nil => simp at h
  | cons b r ih =>
    unfold Mem.cells
    cases i with
    | zero =>
      split
      · simp only [Nat.add_zero, List.getElem_cons_zero]
        rw [Mem.get_none]
        · exact (by assumption : b = _).symm
        · intro c hc
          have := Mem.cells_bounds (a + 1) r c hc
          omega
      · simp [Mem.get]
    | succ i =>
      have hi : i < r.length := by simpa using h
      have := ih (a + 1) i hi
      rw [show a + 1 + i = a + (i + 1) by omega] at this
      split
      · simpa using this
      · simp only [Mem.get, List.getElem_cons_succ]
        rw [if_neg (by omega)]
        exact this

/-- A byte that a write covers reads as the byte written. -/
theorem Mem.get_write_in (m : Mem) (a : Nat) (bs : List Byte) (i : Nat) (h : i < bs.length) :
    Mem.get (Mem.write m a bs) (a + i) = bs[i] := by
  unfold Mem.write
  rw [List.append_assoc, Mem.get_append, Mem.get_append_left, Mem.get_cells a bs i h]
  · intro c hc
    have := (List.mem_filter.mp hc).2
    simp only [decide_eq_true_eq] at this
    omega
  · intro c hc
    have := (List.mem_filter.mp hc).2
    simp only [decide_eq_true_eq] at this
    omega

/-- A byte outside a write reads as before. -/
theorem Mem.get_write_out (m : Mem) (a : Nat) (bs : List Byte) (k : Nat) (h : k < a ∨ a + bs.length ≤ k) :
    Mem.get (Mem.write m a bs) k = Mem.get m k := by
  unfold Mem.write
  have hc := Mem.cells_bounds a bs
  rcases h with h | h
  · rw [Mem.get_append_left, Mem.get_append_left, Mem.get_filter]
    · intro c _ h1
      simp only [decide_eq_true_eq]
      omega
    · intro c h1
      have := hc c h1
      omega
    · intro c h1
      have := (List.mem_filter.mp h1).2
      simp only [decide_eq_true_eq] at this
      omega
  · rw [List.append_assoc, Mem.get_append, Mem.get_append, Mem.get_filter]
    · intro c _ h1
      simp only [decide_eq_true_eq]
      omega
    · intro c h1
      have := hc c h1
      omega
    · intro c h1
      have := (List.mem_filter.mp h1).2
      simp only [decide_eq_true_eq] at this
      omega

/-! ### Runs of bytes -/

@[simp] theorem Mem.fill_length (a n : Nat) (m : Mem) : (Mem.fill a n m).length = n := by
  induction n generalizing a m with
  | zero => rfl
  | succ n ih =>
    unfold Mem.fill
    split
    · simp [ih]
    · split <;> simp [ih]

@[simp] theorem Mem.read_length (m : Mem) (a n : Nat) : (Mem.read m a n).length = n := by
  simp [Mem.read]

theorem Mem.fill_get (a n : Nat) (m : Mem) (hm : m.Pairwise (fun x y => x.1 < y.1)) (hb : ∀ c ∈ m, a ≤ c.1) (i : Nat) (h : i < n) :
    (Mem.fill a n m)[i]'(by simpa using h) = Mem.get m (a + i) := by
  induction n generalizing a m i with
  | zero => omega
  | succ n ih =>
    cases m with
    | nil =>
      unfold Mem.fill
      cases i with
      | zero => rfl
      | succ i =>
        simp only [List.getElem_cons_succ]
        rw [ih (a + 1) [] (by simp) (by simp) i (by omega)]
        rfl
    | cons c r =>
      obtain ⟨b, v⟩ := c
      have hr := (List.pairwise_cons.mp hm)
      have hab : a ≤ b := hb (b, v) (by simp)
      simp only [Mem.fill]
      split
      · rename_i hba
        subst hba
        cases i with
        | zero => simp [Mem.get]
        | succ i =>
          simp only [List.getElem_cons_succ]
          rw [ih (b + 1) r hr.2 (fun c hc => by have := hr.1 c hc; simp only at this; omega) i (by omega)]
          rw [show b + 1 + i = b + (i + 1) by omega]
          simp [Mem.get]
      · rename_i hba
        cases i with
        | zero =>
          simp only [List.getElem_cons_zero, Nat.add_zero, Mem.get, if_neg hba]
          rw [Mem.get_none]
          intro c hc
          have := hr.1 c hc
          simp only at this
          omega
        | succ i =>
          simp only [List.getElem_cons_succ]
          rw [ih (a + 1) ((b, v) :: r) hm ?_ i (by omega)]
          · rw [show a + 1 + i = a + (i + 1) by omega]
          · intro c hc
            rcases List.mem_cons.mp hc with h1 | h1
            · subst h1
              simp only
              omega
            · have := hr.1 c h1
              simp only at this
              omega

/-- Byte i of a run read from a memory in canonical form is the byte at its address. -/
theorem Mem.read_get (m : Mem) (a n i : Nat) (hm : Mem.wf m) (h : i < n) :
    (Mem.read m a n)[i]'(by simpa using h) = Mem.get m (a + i) := by
  unfold Mem.read
  rw [Mem.fill_get a n _ (hm.1.filter _) ?_ i h, Mem.get_filter]
  · intro c _ h1
    simp only [Bool.and_eq_true, decide_eq_true_eq]
    omega
  · intro c hc
    have := (List.mem_filter.mp hc).2
    simp only [Bool.and_eq_true, decide_eq_true_eq] at this
    omega

/-- A run whose first byte is not listed. -/
theorem Mem.fill_low (a n : Nat) (m : Mem) (h : ∀ c ∈ m, a < c.1) :
    Mem.fill a (n + 1) m = Mem.unlisted :: Mem.fill (a + 1) n m := by
  cases m with
  | nil => rfl
  | cons x r =>
    have := h x (by simp)
    simp [Mem.fill]
    omega

/-- The entries of a run of bytes give it back. -/
theorem Mem.fill_cells (a : Nat) (bs : List Byte) : Mem.fill a bs.length (Mem.cells a bs) = bs := by
  induction bs generalizing a with
  | nil => rfl
  | cons b r ih =>
    unfold Mem.cells
    split
    · rename_i h
      rw [List.length_cons, Mem.fill_low _ _ _ (fun c hc => (Mem.cells_bounds (a + 1) r c hc).1), ih, h]
    · simp [Mem.fill, ih]

/-- The bytes just written read back. -/
theorem Mem.read_write (m : Mem) (a : Nat) (bs : List Byte) : Mem.read (Mem.write m a bs) a bs.length = bs := by
  have : (Mem.write m a bs).filter (fun c => decide (a ≤ c.1) && decide (c.1 < a + bs.length)) = Mem.cells a bs := by
    unfold Mem.write
    rw [List.filter_append, List.filter_append, List.filter_filter, List.filter_filter, List.filter_eq_nil_iff.2,
      List.filter_eq_self.2, List.filter_eq_nil_iff.2]
    · simp
    · intro c _; simp
    · intro c hc; have := Mem.cells_bounds a bs c hc; simp; omega
    · intro c _; simp; omega
  rw [Mem.read, this, Mem.fill_cells]

/-- A run that a write does not touch reads as before. -/
theorem Mem.read_write_out (m : Mem) (a : Nat) (bs : List Byte) (k n : Nat) (hm : Mem.wf m) (h : k + n ≤ a ∨ a + bs.length ≤ k) :
    Mem.read (Mem.write m a bs) k n = Mem.read m k n := by
  apply List.ext_getElem (by simp)
  intro i h1 h2
  have hi : i < n := by simpa using h1
  rw [Mem.read_get _ _ _ _ (Mem.wf_write m a bs hm) hi, Mem.read_get _ _ _ _ hm hi]
  apply Mem.get_write_out
  omega

theorem spread_wf (segs : List SglEntry) (bs : List Byte) (m : Mem) (h : Mem.wf m) : Mem.wf (spread segs bs m) := by
  induction segs generalizing bs m with
  | nil => exact h
  | cons g r ih => exact ih _ _ (Mem.wf_write m g.addr _ h)

theorem Tab.find_mem {α : Type} (t : Tab α) (k : Nat) (v : α) (h : Tab.find t k = some v) : (k, v) ∈ t := by
  induction t with
  | nil => cases h
  | cons x r ih =>
    obtain ⟨j, w⟩ := x
    unfold Tab.find at h
    split at h
    · subst_vars
      exact Option.some.inj h ▸ List.mem_cons_self ..
    · exact List.mem_cons_of_mem _ (ih h)

theorem Tab.mem_put {α : Type} (t : Tab α) (k : Nat) (v : α) (e : Nat × α) (h : e ∈ Tab.put t k v) : e = (k, v) ∨ e ∈ t := by
  induction t with
  | nil => simpa [Tab.put] using h
  | cons x r ih =>
    obtain ⟨j, w⟩ := x
    unfold Tab.put at h
    split at h
    · simp only [List.mem_cons] at h ⊢
      exact h.imp id .inr
    · split at h
      · simpa only [List.mem_cons] using h
      · simp only [List.mem_cons] at h ⊢
        exact h.elim (fun h => .inr (.inl h)) (fun h => (ih h).imp id .inr)

theorem headsOk_nil : headsOk [] := fun _ h => absurd h (by simp)

theorem headsOk_put (l : Tab Stk) (c : Nat) (k : Stk) (h : headsOk l) (hk : Mem.wf k.head) : headsOk (Tab.put l c k) := by
  intro e he
  rcases Tab.mem_put l c k e he with h1 | h1
  · exact h1 ▸ hk
  · exact h e h1

theorem reset_memOk : State.reset.memOk :=
  ⟨Mem.wf_nil, Mem.wf_nil, Mem.wf_nil, Mem.wf_nil, headsOk_nil, fun v h => by cases h⟩

end Sys2Proof.Machine
end

