-- ==== Sys2Proof/Laws/Kept.lean ====
section
/-! SUPPORT. What every shared operation of the machine keeps: the queue, the canonical form of the memories, the security root's
promises, the alarm bits, the locks, the keys and the recorder's first area. One lemma for each operation follows in KeptOps. -/

namespace Sys2Proof.Machine

/-- What every command keeps, from one state to another. -/
structure KeptCore (b t : State) : Prop where
  queue : t.pending = b.pending
  mem : b.memOk → t.memOk
  isSealed : b.sec.debug = 2 → t.sec.debug = 2
  rollback : b.sec.rollback.toNat ≤ t.sec.rollback.toNat
  hours : b.evt.savedHours = b.evt.hours → t.evt.savedHours = t.evt.hours ∧ b.evt.hours ≤ t.evt.hours

/-- The parts that a few commands change: alarm bits, locks, recipe keys and owner, the first area. -/
structure Skip where
  bits : Bool
  locks : Bool
  keys : Bool
  first : Bool

/-- No part left out. -/
def Skip.no : Skip := { bits := false, locks := false, keys := false, first := false }

/-- What all but a few commands keep beside it: each part that sk does not leave out. -/
structure Kept (sk : Skip) (b t : State) : Prop extends KeptCore b t where
  alarm : sk.bits = false → b.evt.alarm &&& ~~~t.evt.alarm = 0
  sticky : sk.bits = false → b.pwr.sticky &&& ~~~t.pwr.sticky = 0
  lockP : sk.locks = false → t.sbm.lockPower = b.sbm.lockPower
  lockS : sk.locks = false → t.sbm.lockSecurity = b.sbm.lockSecurity
  keys : sk.keys = false → t.sec.keys = b.sec.keys
  owner : sk.keys = false → t.sec.owner = b.sec.owner
  first : sk.first = false → b.evt.first <+: t.evt.first

variable {sk : Skip}

theorem KeptCore.refl (b : State) : KeptCore b b :=
  ⟨rfl, id, id, Nat.le_refl _, fun h => ⟨h, Nat.le_refl _⟩⟩

theorem KeptCore.trans {a b c : State} (h : KeptCore a b) (k : KeptCore b c) : KeptCore a c :=
  ⟨k.queue.trans h.queue, fun m => k.mem (h.mem m), fun m => k.isSealed (h.isSealed m), Nat.le_trans h.rollback k.rollback,
   fun m => ⟨(k.hours (h.hours m).1).1, Nat.le_trans (h.hours m).2 (k.hours (h.hours m).1).2⟩⟩

theorem Kept.refl (b : State) : Kept sk b b :=
  ⟨KeptCore.refl b, fun _ => by simp, fun _ => by simp, fun _ => rfl, fun _ => rfl, fun _ => rfl, fun _ => rfl,
   fun _ => List.prefix_refl _⟩

/-- A step from one kept state to a next that differs in none of the kept parts. -/
theorem Kept.same {b t u : State} (h : Kept sk b t) (hp : u.pending = t.pending) (hs : u.store = t.store) (hq : u.stk = t.stk)
    (hz : u.stp.saved = t.stp.saved) (hd : u.sec.debug = t.sec.debug)
    (hr : u.sec.rollback = t.sec.rollback) (hk : u.sec.keys = t.sec.keys) (ho : u.sec.owner = t.sec.owner)
    (he : u.evt.hours = t.evt.hours) (hv : u.evt.savedHours = t.evt.savedHours) (ha : u.evt.alarm = t.evt.alarm)
    (hf : u.evt.first = t.evt.first) (hy : u.pwr.sticky = t.pwr.sticky) (h1 : u.sbm.lockPower = t.sbm.lockPower)
    (h2 : u.sbm.lockSecurity = t.sbm.lockSecurity) : Kept sk b u :=
  ⟨⟨hp.trans h.queue, fun m => by have := h.mem m; rwa [State.memOk, hs, hq, hz], fun m => hd.trans (h.isSealed m),
    by rw [hr]; exact h.rollback, fun m => by rw [he, hv]; exact h.hours m⟩,
   fun k => by rw [ha]; exact h.alarm k, fun k => by rw [hy]; exact h.sticky k, fun k => h1.trans (h.lockP k),
   fun k => h2.trans (h.lockS k), fun k => hk.trans (h.keys k), fun k => ho.trans (h.owner k), fun k => by rw [hf]; exact h.first k⟩

/-- The same for a state given field by field, of which the parts read here agree. -/
theorem Kept.mk_same {b t : State} (h : Kept sk b t) {ctr hif sbm pwr evt sec ana cal mem lnk rcp stp upd coll flt free}
    (hz : stp.saved = t.stp.saved) (hd : sec.debug = t.sec.debug) (hr : sec.rollback = t.sec.rollback) (hk : sec.keys = t.sec.keys)
    (ho : sec.owner = t.sec.owner) (he : evt.hours = t.evt.hours)
    (hv : evt.savedHours = t.evt.savedHours) (ha : evt.alarm = t.evt.alarm)
    (hf : evt.first = t.evt.first) (hy : pwr.sticky = t.pwr.sticky)
    (h1 : sbm.lockPower = t.sbm.lockPower) (h2 : sbm.lockSecurity = t.sbm.lockSecurity) :
    Kept sk b (State.mk t.pending ctr hif sbm pwr evt sec ana cal mem t.store lnk rcp stp upd t.stk coll flt free) :=
  h.same rfl rfl rfl hz hd hr hk ho he hv ha hf hy h1 h2

/-- Of an outcome, when it is a next state. -/
def KeptO (sk : Skip) (b : State) (o : Host.Outcome State Fault Refusal) : Prop :=
  match o with
  | .next t => Kept sk b t
  | .fault _ => True
  | .refused _ => True

theorem KeptO.next {b t : State} (h : Kept sk b t) : KeptO sk b (.next t) := h
theorem KeptO.fault {b : State} (f : Fault) : KeptO sk b (.fault f) := trivial

theorem Kept.foldl {α : Type} {b : State} (f : State → α → State) (hf : ∀ t x, Kept sk b t → Kept sk b (f t x)) (l : List α) (t : State)
    (h : Kept sk b t) : Kept sk b (l.foldl f t) := by
  induction l generalizing t with
  | nil => exact h
  | cons x r ih => exact ih _ (hf t x h)

theorem Kept.ite {b t u : State} {c : Prop} [Decidable c] (h1 : c → Kept sk b t) (h2 : ¬c → Kept sk b u) : Kept sk b (if c then t else u) := by
  split
  · exact h1 (by assumption)
  · exact h2 (by assumption)

/-! ### The parts of the recorder that its own operations keep -/

/-- What an operation on the recorder keeps. -/
structure RecKept (e f : Recorder) : Prop where
  hours : f.hours = e.hours
  saved : f.savedHours = e.savedHours
  alarm : f.alarm = e.alarm
  first : e.first <+: f.first

theorem Kept.evt {b t u : State} (h : Kept sk b t) (hr : RecKept t.evt u.evt) (hp : u.pending = t.pending) (hs : u.store = t.store)
    (hq : u.stk = t.stk) (hz : u.stp = t.stp)
    (hd : u.sec.debug = t.sec.debug)
    (hb : u.sec.rollback = t.sec.rollback) (hk : u.sec.keys = t.sec.keys) (ho : u.sec.owner = t.sec.owner)
    (hy : u.pwr.sticky = t.pwr.sticky) (h1 : u.sbm.lockPower = t.sbm.lockPower)
    (h2 : u.sbm.lockSecurity = t.sbm.lockSecurity) : Kept sk b u :=
  ⟨⟨hp.trans h.queue, fun m => by have := h.mem m; rwa [State.memOk, hs, hq, hz], fun m => hd.trans (h.isSealed m),
    by rw [hb]; exact h.rollback, fun m => by rw [hr.hours, hr.saved]; exact h.hours m⟩,
   fun k => by rw [hr.alarm]; exact h.alarm k, fun k => by rw [hy]; exact h.sticky k, fun k => h1.trans (h.lockP k),
   fun k => h2.trans (h.lockS k), fun k => hk.trans (h.keys k), fun k => ho.trans (h.owner k), fun k => (h.first k).trans hr.first⟩

/-- Memories that differ in their contents alone. -/
theorem Kept.store {b t u : State} (h : Kept sk b t) (hm : t.memOk → u.memOk) (hp : u.pending = t.pending) (hsec : u.sec = t.sec)
    (he : u.evt = t.evt) (hw : u.pwr = t.pwr) (hb : u.sbm = t.sbm) : Kept sk b u :=
  ⟨⟨hp.trans h.queue, fun m => hm (h.mem m), fun m => by rw [hsec]; exact h.isSealed m, by rw [hsec]; exact h.rollback,
    fun m => by rw [he]; exact h.hours m⟩,
   fun k => by rw [he]; exact h.alarm k, fun k => by rw [hw]; exact h.sticky k, fun k => by rw [hb]; exact h.lockP k,
   fun k => by rw [hb]; exact h.lockS k, fun k => by rw [hsec]; exact h.keys k, fun k => by rw [hsec]; exact h.owner k,
   fun k => by rw [he]; exact h.first k⟩

/-- Bits that are only set stay kept. -/
theorem bits_kept {n : Nat} (a b x : BitVec n) (h : a &&& ~~~b = 0) : a &&& ~~~(b ||| x) = 0 := by
  ext i hi
  have := congrArg (fun v : BitVec n => v.getLsbD i) h
  simp only [BitVec.getLsbD_and, BitVec.getLsbD_not, hi, decide_true, Bool.true_and] at this
  simp only [← BitVec.getLsbD_eq_getElem, BitVec.getLsbD_and, BitVec.getLsbD_not, BitVec.getLsbD_or, hi, decide_true, Bool.true_and]
  cases h1 : a.getLsbD i <;> cases h2 : b.getLsbD i <;> simp_all

end Sys2Proof.Machine
end

