-- ==== Sys2Proof/Laws/KeptOps1.lean ====
section
/-! SUPPORT. One lemma for each operation of the machine, saying that it keeps what Kept names: the shared operations, the engines, the links and the collectives. -/

namespace Sys2Proof.Machine

-- Every lemma has the same proof, whose steps serve some operations and not others.
set_option linter.unusedTactic false
set_option linter.unreachableTactic false

variable {sk : Skip}

/-! ### Ops -/

theorem State.count_kept {base s : State} (hk : Kept sk base s) (off n : Nat) : Kept sk base (State.count s off n) := by
  unfold State.count
  try dsimp only
  repeat' first
    | with_reducible assumption | (intro _ _) | with_reducible refine Kept.ite (fun _ => ?_) (fun _ => ?_) | split
    | with_reducible refine Kept.mk_same ?_ rfl rfl rfl rfl rfl rfl rfl rfl rfl rfl rfl rfl

theorem State.msi_kept {base s : State} (hk : Kept sk base s) (v : Nat) : Kept sk base (State.msi s v) := by
  unfold State.msi
  try dsimp only
  repeat' first
    | with_reducible assumption | (intro _ _) | with_reducible refine Kept.ite (fun _ => ?_) (fun _ => ?_) | split
    | with_reducible refine Kept.mk_same ?_ rfl rfl rfl rfl rfl rfl rfl rfl rfl rfl rfl rfl

theorem State.setIrq_kept {base s : State} (hk : Kept sk base s) (i : Nat) : Kept sk base (State.setIrq s i) := by
  unfold State.setIrq
  try dsimp only
  repeat' first
    | with_reducible assumption | with_reducible apply State.msi_kept | (intro _ _)
    | with_reducible refine Kept.ite (fun _ => ?_) (fun _ => ?_) | split
    | with_reducible refine Kept.mk_same ?_ rfl rfl rfl rfl rfl rfl rfl rfl rfl rfl rfl rfl

theorem State.alert_kept {base s : State} (hk : Kept sk base s) (maskBit : Nat) : Kept sk base (State.alert s maskBit) := by
  unfold State.alert
  try dsimp only
  repeat' first
    | with_reducible assumption | with_reducible apply State.msi_kept | with_reducible apply State.setIrq_kept | (intro _ _)
    | with_reducible refine Kept.ite (fun _ => ?_) (fun _ => ?_) | split
    | with_reducible refine Kept.mk_same ?_ rfl rfl rfl rfl rfl rfl rfl rfl rfl rfl rfl rfl

theorem State.setSticky_kept {base s : State} (h : Kept sk base s) (i : Nat) : Kept sk base (State.setSticky s i) := by
  unfold State.setSticky
  split
  · exact h
  · apply State.alert_kept
    exact ⟨⟨h.queue, h.mem, h.isSealed, h.rollback, h.hours⟩, h.alarm, fun k => bits_kept _ _ _ (h.sticky k), h.lockP, h.lockS, h.keys, h.owner,
      h.first⟩

theorem State.setAlarm_kept {base s : State} (h : Kept sk base s) (cls : Nat) : Kept sk base (State.setAlarm s cls) := by
  unfold State.setAlarm
  split
  · exact h
  · apply State.alert_kept
    exact ⟨⟨h.queue, h.mem, h.isSealed, h.rollback, h.hours⟩, fun k => bits_kept _ _ _ (h.alarm k), h.sticky, h.lockP, h.lockS, h.keys, h.owner,
      h.first⟩

theorem Recorder.take_kept (e : Recorder) (r : Record) (unit : Nat) : RecKept e (e.take r unit) := by
  unfold Recorder.take
  dsimp only
  split <;> exact ⟨rfl, rfl, rfl, List.prefix_refl _⟩

theorem Recorder.takeAon_kept (e : Recorder) (r : Record) : RecKept e (e.takeAon r) := by
  unfold Recorder.takeAon
  split <;> exact ⟨rfl, rfl, rfl, List.prefix_refl _⟩

theorem State.record_kept {base s : State} (h : Kept sk base s) (r : Record) (unit : Nat) : Kept sk base (State.record s r unit) := by
  unfold State.record
  extract_lets code s1
  have h1 : Kept sk base s1 := Kept.ite (fun _ => State.setAlarm_kept h _) (fun _ => h)
  split
  · have h2 : Kept sk base { s1 with evt := s1.evt.take r unit } :=
      Kept.evt h1 (Recorder.take_kept _ _ _) rfl rfl rfl rfl rfl rfl rfl rfl rfl rfl rfl
    split
    · exact h2
    all_goals exact State.count_kept h2 _ _
  · split
    · exact Kept.evt h1 (Recorder.takeAon_kept _ _) rfl rfl rfl rfl rfl rfl rfl rfl rfl rfl rfl
    · exact h1

theorem State.raiseU_kept {base s : State} (hk : Kept sk base s) (code unit : Nat) (payload : List Word) :
    Kept sk base (State.raiseU s code unit payload) := by
  unfold State.raiseU
  try dsimp only
  repeat' first
    | with_reducible assumption | with_reducible apply State.record_kept | (intro _ _)
    | with_reducible refine Kept.ite (fun _ => ?_) (fun _ => ?_) | split
    | with_reducible refine Kept.mk_same ?_ rfl rfl rfl rfl rfl rfl rfl rfl rfl rfl rfl rfl

theorem State.raise_kept {base s : State} (hk : Kept sk base s) (code : Nat) (payload : List Word) :
    Kept sk base (State.raise s code payload) := by
  unfold State.raise
  try dsimp only
  repeat' first
    | with_reducible assumption | with_reducible apply State.raiseU_kept | (intro _ _)
    | with_reducible refine Kept.ite (fun _ => ?_) (fun _ => ?_) | split
    | with_reducible refine Kept.mk_same ?_ rfl rfl rfl rfl rfl rfl rfl rfl rfl rfl rfl rfl

theorem State.raiseFor_kept {base s : State} (hk : Kept sk base s) (o : Option Stamp) (code : Nat) (payload : List Word) :
    Kept sk base (State.raiseFor s o code payload) := by
  unfold State.raiseFor
  try dsimp only
  repeat' first
    | with_reducible assumption | with_reducible apply State.record_kept | with_reducible apply State.raise_kept | (intro _ _)
    | with_reducible refine Kept.ite (fun _ => ?_) (fun _ => ?_) | split
    | with_reducible refine Kept.mk_same ?_ rfl rfl rfl rfl rfl rfl rfl rfl rfl rfl rfl rfl

theorem State.raiseOnce_kept {base s : State} (hk : Kept sk base s) (code key unit : Nat) (payload : List Word) :
    Kept sk base (State.raiseOnce s code key unit payload) := by
  unfold State.raiseOnce
  try dsimp only
  repeat' first
    | with_reducible assumption | with_reducible apply State.raiseU_kept | (intro _ _)
    | with_reducible refine Kept.ite (fun _ => ?_) (fun _ => ?_) | split
    | with_reducible refine Kept.mk_same ?_ rfl rfl rfl rfl rfl rfl rfl rfl rfl rfl rfl rfl

theorem State.setArray_kept {base s : State} (hk : Kept sk base s) (a : Nat) (x : ArrayS) : Kept sk base (State.setArray s a x) := by
  unfold State.setArray
  try dsimp only
  repeat' first
    | with_reducible assumption | (intro _ _) | with_reducible refine Kept.ite (fun _ => ?_) (fun _ => ?_) | split
    | with_reducible refine Kept.mk_same ?_ rfl rfl rfl rfl rfl rfl rfl rfl rfl rfl rfl rfl

theorem State.setCore_kept {base s : State} (hk : Kept sk base s) (c : Nat) (x : CoreS) : Kept sk base (State.setCore s c x) := by
  unfold State.setCore
  try dsimp only
  repeat' first
    | with_reducible assumption | (intro _ _) | with_reducible refine Kept.ite (fun _ => ?_) (fun _ => ?_) | split
    | with_reducible refine Kept.mk_same ?_ rfl rfl rfl rfl rfl rfl rfl rfl rfl rfl rfl rfl

theorem State.setPort_kept {base s : State} (hk : Kept sk base s) (p : Nat) (x : Port) : Kept sk base (State.setPort s p x) := by
  unfold State.setPort
  try dsimp only
  repeat' first
    | with_reducible assumption | (intro _ _) | with_reducible refine Kept.ite (fun _ => ?_) (fun _ => ?_) | split
    | with_reducible refine Kept.mk_same ?_ rfl rfl rfl rfl rfl rfl rfl rfl rfl rfl rfl rfl

theorem State.setState_kept {base s : State} (hk : Kept sk base s) (d : DevState) : Kept sk base (State.setState s d) := by
  unfold State.setState
  try dsimp only
  repeat' first
    | with_reducible assumption | with_reducible apply State.setIrq_kept | (intro _ _)
    | with_reducible refine Kept.ite (fun _ => ?_) (fun _ => ?_) | split
    | with_reducible refine Kept.mk_same ?_ rfl rfl rfl rfl rfl rfl rfl rfl rfl rfl rfl rfl

theorem State.settle_kept {base s : State} (hk : Kept sk base s) : Kept sk base (State.settle s) := by
  unfold State.settle
  try dsimp only
  repeat' first
    | with_reducible assumption | with_reducible apply State.setState_kept | (intro _ _)
    | with_reducible refine Kept.ite (fun _ => ?_) (fun _ => ?_) | split
    | with_reducible refine Kept.mk_same ?_ rfl rfl rfl rfl rfl rfl rfl rfl rfl rfl rfl rfl

theorem State.keepLate_kept {base s : State} (hk : Kept sk base s) (x : Bool × Nat × Stamp) : Kept sk base (State.keepLate s x) := by
  unfold State.keepLate
  try dsimp only
  repeat' first
    | with_reducible assumption | (intro _ _) | with_reducible refine Kept.ite (fun _ => ?_) (fun _ => ?_) | split
    | with_reducible refine Kept.mk_same ?_ rfl rfl rfl rfl rfl rfl rfl rfl rfl rfl rfl rfl

theorem State.causeAt_kept {base s : State} (hk : Kept sk base s) (c : Nat) (t : Stamp) : Kept sk base (State.causeAt s c t) := by
  unfold State.causeAt
  try dsimp only
  repeat' first
    | with_reducible assumption | with_reducible apply State.keepLate_kept | (intro _ _)
    | with_reducible refine Kept.ite (fun _ => ?_) (fun _ => ?_) | split
    | with_reducible refine Kept.mk_same ?_ rfl rfl rfl rfl rfl rfl rfl rfl rfl rfl rfl rfl

theorem State.cause_kept {base s : State} (hk : Kept sk base s) (c : Nat) : Kept sk base (State.cause s c) := by
  unfold State.cause
  try dsimp only
  repeat' first
    | with_reducible assumption | with_reducible apply State.causeAt_kept | (intro _ _)
    | with_reducible refine Kept.ite (fun _ => ?_) (fun _ => ?_) | split
    | with_reducible refine Kept.mk_same ?_ rfl rfl rfl rfl rfl rfl rfl rfl rfl rfl rfl rfl

theorem State.fail_kept {base s : State} (hk : Kept sk base s) (c : Nat) : Kept sk base (State.fail s c) := by
  unfold State.fail
  try dsimp only
  repeat' first
    | with_reducible assumption | with_reducible apply State.keepLate_kept | (intro _ _)
    | with_reducible refine Kept.ite (fun _ => ?_) (fun _ => ?_) | split
    | with_reducible refine Kept.mk_same ?_ rfl rfl rfl rfl rfl rfl rfl rfl rfl rfl rfl rfl

theorem State.draw_kept {base s : State} (hk : Kept sk base s) (n : Nat) : Kept sk base (State.draw s n) := by
  unfold State.draw
  try dsimp only
  repeat' first
    | with_reducible assumption | (intro _ _) | with_reducible refine Kept.ite (fun _ => ?_) (fun _ => ?_) | split
    | with_reducible refine Kept.mk_same ?_ rfl rfl rfl rfl rfl rfl rfl rfl rfl rfl rfl rfl

theorem State.toHost_kept {base s : State} (h : Kept sk base s) (t : Ticket) (bs : List Byte) : Kept sk base (State.toHost s t bs) := by
  refine Kept.store h (fun m => ?_) rfl rfl rfl rfl rfl
  refine ⟨m.1, m.2.1, m.2.2.1, ?_, m.2.2.2.2⟩
  unfold State.toHost
  dsimp only
  split
  · exact spread_wf _ _ _ m.2.2.2.1
  · exact Mem.wf_write _ _ _ m.2.2.2.1

theorem State.post_kept {base s : State} (hk : Kept sk base s) (op : Half) (t : Ticket) (status : Nat) (res : List Word) :
    Kept sk base (State.post s op t status res) := by
  unfold State.post
  try dsimp only
  repeat' first
    | with_reducible assumption | (intro _ _) | with_reducible refine Kept.ite (fun _ => ?_) (fun _ => ?_) | split
    | with_reducible refine Kept.mk_same ?_ rfl rfl rfl rfl rfl rfl rfl rfl rfl rfl rfl rfl

/-! ### Flags -/

theorem State.applyCounts_kept {base s : State} (hk : Kept sk base s) (f : NumFx) : Kept sk base (State.applyCounts s f) := by
  unfold State.applyCounts
  try dsimp only
  repeat' first
    | with_reducible assumption | with_reducible apply State.count_kept | (intro _ _)
    | with_reducible refine Kept.ite (fun _ => ?_) (fun _ => ?_) | split
    | with_reducible refine Kept.mk_same ?_ rfl rfl rfl rfl rfl rfl rfl rfl rfl rfl rfl rfl

theorem State.applyFx_kept {base s : State} (hk : Kept sk base s) (f : NumFx) (desc : Nat) : Kept sk base (State.applyFx s f desc) := by
  unfold State.applyFx
  try dsimp only
  repeat' first
    | with_reducible assumption | with_reducible apply State.raiseOnce_kept | with_reducible apply State.applyCounts_kept | (intro _ _)
    | with_reducible refine Kept.ite (fun _ => ?_) (fun _ => ?_) | split
    | with_reducible refine Kept.mk_same ?_ rfl rfl rfl rfl rfl rfl rfl rfl rfl rfl rfl rfl

theorem State.dutyFall_kept {base s : State} (hk : Kept sk base s) : Kept sk base (State.dutyFall s) := by
  unfold State.dutyFall
  try dsimp only
  repeat' first
    | with_reducible assumption | (intro _ _) | with_reducible refine Kept.ite (fun _ => ?_) (fun _ => ?_) | split
    | with_reducible refine Kept.mk_same ?_ rfl rfl rfl rfl rfl rfl rfl rfl rfl rfl rfl rfl

theorem State.dutyTick_kept {base s : State} (hk : Kept sk base s) : Kept sk base (State.dutyTick s) := by
  unfold State.dutyTick
  try dsimp only
  repeat' first
    | with_reducible assumption | (intro _ _) | with_reducible refine Kept.ite (fun _ => ?_) (fun _ => ?_) | split
    | with_reducible refine Kept.mk_same ?_ rfl rfl rfl rfl rfl rfl rfl rfl rfl rfl rfl rfl

/-! ### Operands -/

theorem State.coreWrite_kept {base s : State} (h : Kept sk base s) (core addr : Nat) (bs : List Byte) :
    Kept sk base (State.coreWrite s core addr bs) := by
  unfold State.coreWrite
  split
  · exact Kept.store h (fun m => ⟨Mem.wf_write _ _ _ m.1, m.2⟩) rfl rfl rfl rfl rfl
  · exact Kept.store h (fun m => ⟨m.1, Mem.wf_write _ _ _ m.2.1, m.2.2⟩) rfl rfl rfl rfl rfl

theorem State.rawWrite_kept {base s : State} (h : Kept sk base s) (r off : Nat) (bs : List Byte) :
    Kept sk base (State.rawWrite s r off bs) :=
  Kept.store h (fun m => ⟨m.1, m.2.1, Mem.wf_write _ _ _ m.2.2.1, m.2.2.2⟩) rfl rfl rfl rfl rfl

theorem State.frameWrite_kept {base s : State} (hk : Kept sk base s) (r frame off : Nat) (bs : List Byte) :
    Kept sk base (State.frameWrite s r frame off bs) := by
  unfold State.frameWrite
  try dsimp only
  repeat' first
    | with_reducible assumption | with_reducible apply State.rawWrite_kept | (intro _ _)
    | with_reducible refine Kept.ite (fun _ => ?_) (fun _ => ?_) | split
    | with_reducible refine Kept.mk_same ?_ rfl rfl rfl rfl rfl rfl rfl rfl rfl rfl rfl rfl

theorem State.framesWrite_kept {base s : State} (hk : Kept sk base s) (r : Nat) (ps : List (Nat × Nat × Nat)) (bs : List Byte) :
    Kept sk base (State.framesWrite s r ps bs) := by
  induction ps generalizing s r bs with
  | nil =>
    unfold State.framesWrite
    try dsimp only
    repeat' first
      | with_reducible assumption | with_reducible apply State.frameWrite_kept | (intro _ _)
      | with_reducible refine Kept.ite (fun _ => ?_) (fun _ => ?_) | split
      | with_reducible refine Kept.mk_same ?_ rfl rfl rfl rfl rfl rfl rfl rfl rfl rfl rfl rfl
  | cons x r ih =>
    unfold State.framesWrite
    try dsimp only
    repeat' first
      | with_reducible assumption | with_reducible apply ih | with_reducible apply State.frameWrite_kept | (intro _ _)
      | with_reducible refine Kept.ite (fun _ => ?_) (fun _ => ?_) | split
      | with_reducible refine Kept.mk_same ?_ rfl rfl rfl rfl rfl rfl rfl rfl rfl rfl rfl rfl

theorem State.keepOld_kept {base s : State} (hk : Kept sk base s) (r off n : Nat) : Kept sk base (State.keepOld s r off n) := by
  unfold State.keepOld
  try dsimp only
  repeat' first
    | with_reducible assumption | (intro _ _) | with_reducible refine Kept.ite (fun _ => ?_) (fun _ => ?_) | split
    | with_reducible refine Kept.mk_same ?_ rfl rfl rfl rfl rfl rfl rfl rfl rfl rfl rfl rfl

theorem State.regWrite_kept {base s : State} (hk : Kept sk base s) (r off : Nat) (bs : List Byte) :
    Kept sk base (State.regWrite s r off bs) := by
  unfold State.regWrite
  try dsimp only
  repeat' first
    | with_reducible assumption | with_reducible apply State.rawWrite_kept | with_reducible apply State.framesWrite_kept
    | with_reducible apply State.keepOld_kept | (intro _ _) | with_reducible refine Kept.ite (fun _ => ?_) (fun _ => ?_) | split
    | with_reducible refine Kept.mk_same ?_ rfl rfl rfl rfl rfl rfl rfl rfl rfl rfl rfl rfl

theorem State.commitWriteAt_kept {base s : State} (hk : Kept sk base s) (r : Nat) (ps : List (Nat × Nat × Nat)) (bs : List Byte) :
    Kept sk base (State.commitWriteAt s r ps bs) := by
  induction ps generalizing s r bs with
  | nil =>
    unfold State.commitWriteAt
    try dsimp only
    repeat' first
      | with_reducible assumption | with_reducible apply State.rawWrite_kept | (intro _ _)
      | with_reducible refine Kept.ite (fun _ => ?_) (fun _ => ?_) | split
      | with_reducible refine Kept.mk_same ?_ rfl rfl rfl rfl rfl rfl rfl rfl rfl rfl rfl rfl
  | cons x r ih =>
    unfold State.commitWriteAt
    try dsimp only
    repeat' first
      | with_reducible assumption | with_reducible apply ih | with_reducible apply State.rawWrite_kept | (intro _ _)
      | with_reducible refine Kept.ite (fun _ => ?_) (fun _ => ?_) | split
      | with_reducible refine Kept.mk_same ?_ rfl rfl rfl rfl rfl rfl rfl rfl rfl rfl rfl rfl

theorem State.regWriteCommitted_kept {base s : State} (hk : Kept sk base s) (r off : Nat) (bs : List Byte) :
    Kept sk base (State.regWriteCommitted s r off bs) := by
  unfold State.regWriteCommitted
  try dsimp only
  repeat' first
    | with_reducible assumption | with_reducible apply State.rawWrite_kept | with_reducible apply State.commitWriteAt_kept | (intro _ _)
    | with_reducible refine Kept.ite (fun _ => ?_) (fun _ => ?_) | split
    | with_reducible refine Kept.mk_same ?_ rfl rfl rfl rfl rfl rfl rfl rfl rfl rfl rfl rfl

theorem State.swapBanks_kept {base s : State} (hk : Kept sk base s) : Kept sk base (State.swapBanks s) := by
  unfold State.swapBanks
  try dsimp only
  repeat' first
    | with_reducible assumption | (intro _ _) | with_reducible refine Kept.ite (fun _ => ?_) (fun _ => ?_) | split
    | with_reducible refine Kept.mk_same ?_ rfl rfl rfl rfl rfl rfl rfl rfl rfl rfl rfl rfl

theorem foldWrite_wf {α : Type} (a : α → Nat) (b : α → List Byte) (l : List α) (m : Mem) (h : Mem.wf m) :
    Mem.wf (l.foldl (fun m x => Mem.write m (a x) (b x)) m) := by
  induction l generalizing m with
  | nil => exact h
  | cons x r ih => exact ih _ (Mem.wf_write _ _ _ h)

theorem State.dropBanks_kept {base s : State} (h : Kept sk base s) : Kept sk base (State.dropBanks s) :=
  Kept.store h (fun m => ⟨m.1, m.2.1, foldWrite_wf _ _ _ _ m.2.2.1, m.2.2.2⟩) rfl rfl rfl rfl rfl

theorem State.account_kept {base s : State} (hk : Kept sk base s) (r off n : Nat) (write : Bool) :
    Kept sk base (State.account s r off n write) := by
  unfold State.account
  try dsimp only
  repeat' first
    | with_reducible assumption | with_reducible apply State.count_kept | (intro _ _)
    | with_reducible refine Kept.ite (fun _ => ?_) (fun _ => ?_) | split
    | with_reducible refine Kept.mk_same ?_ rfl rfl rfl rfl rfl rfl rfl rfl rfl rfl rfl rfl

theorem State.freePoison_kept {base s : State} (hk : Kept sk base s) (r : Nat) : Kept sk base (State.freePoison s r) := by
  unfold State.freePoison
  try dsimp only
  repeat' first
    | with_reducible assumption | (intro _ _) | with_reducible refine Kept.ite (fun _ => ?_) (fun _ => ?_) | split
    | with_reducible refine Kept.mk_same ?_ rfl rfl rfl rfl rfl rfl rfl rfl rfl rfl rfl rfl

theorem State.takePoison_kept {base s : State} (hk : Kept sk base s) (r : Nat) : Kept sk base (State.takePoison s r) := by
  unfold State.takePoison
  try dsimp only
  repeat' first
    | with_reducible assumption | (intro _ _) | with_reducible refine Kept.ite (fun _ => ?_) (fun _ => ?_) | split
    | with_reducible refine Kept.mk_same ?_ rfl rfl rfl rfl rfl rfl rfl rfl rfl rfl rfl rfl

theorem State.opWrite_kept {base s : State} (hk : Kept sk base s) (core : Nat) (o : Opnd) (bs : List Byte) :
    Kept sk base (State.opWrite s core o bs) := by
  unfold State.opWrite
  try dsimp only
  repeat' first
    | with_reducible assumption | with_reducible apply State.coreWrite_kept | with_reducible apply State.regWrite_kept | (intro _ _)
    | with_reducible refine Kept.ite (fun _ => ?_) (fun _ => ?_) | split
    | with_reducible refine Kept.mk_same ?_ rfl rfl rfl rfl rfl rfl rfl rfl rfl rfl rfl rfl

theorem State.estPut_kept {base s : State} (hk : Kept sk base s) (g : Nat) (e w1 : Word) : Kept sk base (State.estPut s g e w1) := by
  unfold State.estPut
  try dsimp only
  repeat' first
    | with_reducible assumption | with_reducible apply State.regWrite_kept | with_reducible apply State.account_kept | (intro _ _)
    | with_reducible refine Kept.ite (fun _ => ?_) (fun _ => ?_) | split
    | with_reducible refine Kept.mk_same ?_ rfl rfl rfl rfl rfl rfl rfl rfl rfl rfl rfl rfl

theorem State.estLook_kept {base s : State} (hk : Kept sk base s) (g : Nat) : Kept sk base (State.estLook s g) := by
  unfold State.estLook
  try dsimp only
  repeat' first
    | with_reducible assumption | with_reducible apply State.account_kept | (intro _ _)
    | with_reducible refine Kept.ite (fun _ => ?_) (fun _ => ?_) | split
    | with_reducible refine Kept.mk_same ?_ rfl rfl rfl rfl rfl rfl rfl rfl rfl rfl rfl rfl

theorem State.observe_kept {base s : State} (hk : Kept sk base s) (g : Nat) (e : Word) : Kept sk base (State.observe s g e) := by
  unfold State.observe
  try dsimp only
  repeat' first
    | with_reducible assumption | with_reducible apply State.estPut_kept | with_reducible apply State.estLook_kept | (intro _ _)
    | with_reducible refine Kept.ite (fun _ => ?_) (fun _ => ?_) | split
    | with_reducible refine Kept.mk_same ?_ rfl rfl rfl rfl rfl rfl rfl rfl rfl rfl rfl rfl

theorem State.correct_kept {base s : State} (hk : Kept sk base s) (md : FMode) (g : Nat) (init a : Word) :
    Kept sk base (State.correct s md g init a) := by
  unfold State.correct
  try dsimp only
  repeat' first
    | with_reducible assumption | with_reducible apply State.count_kept | (intro _ _)
    | with_reducible refine Kept.ite (fun _ => ?_) (fun _ => ?_) | split
    | with_reducible refine Kept.mk_same ?_ rfl rfl rfl rfl rfl rfl rfl rfl rfl rfl rfl rfl

/-! ### Units -/

theorem State.setHist_kept {base s : State} (hk : Kept sk base s) (e : UnitHist) : Kept sk base (State.setHist s e) := by
  unfold State.setHist
  try dsimp only
  repeat' first
    | with_reducible assumption | with_reducible apply State.count_kept | (intro _ _)
    | with_reducible refine Kept.ite (fun _ => ?_) (fun _ => ?_) | split
    | with_reducible refine Kept.mk_same ?_ rfl rfl rfl rfl rfl rfl rfl rfl rfl rfl rfl rfl

theorem State.chargeCe_kept {base s : State} (hk : Kept sk base s) (cls unit n : Nat) : Kept sk base (State.chargeCe s cls unit n) := by
  unfold State.chargeCe
  try dsimp only
  repeat' first
    | with_reducible assumption | with_reducible apply State.setHist_kept | (intro _ _)
    | with_reducible refine Kept.ite (fun _ => ?_) (fun _ => ?_) | split
    | with_reducible refine Kept.mk_same ?_ rfl rfl rfl rfl rfl rfl rfl rfl rfl rfl rfl rfl

theorem State.quarantine_kept {base s : State} (hk : Kept sk base s) (a : Nat) : Kept sk base (State.quarantine s a) := by
  unfold State.quarantine
  try dsimp only
  repeat' first
    | with_reducible assumption | with_reducible apply State.setArray_kept | (intro _ _)
    | with_reducible refine Kept.ite (fun _ => ?_) (fun _ => ?_) | split
    | with_reducible refine Kept.mk_same ?_ rfl rfl rfl rfl rfl rfl rfl rfl rfl rfl rfl rfl

theorem State.quarantineAll_kept {base s : State} (hk : Kept sk base s) (l : List Nat) : Kept sk base (State.quarantineAll s l) := by
  induction l generalizing s with
  | nil =>
    unfold State.quarantineAll
    try dsimp only
    repeat' first
      | with_reducible assumption | with_reducible apply State.quarantine_kept | (intro _ _)
      | with_reducible refine Kept.ite (fun _ => ?_) (fun _ => ?_) | split
      | with_reducible refine Kept.mk_same ?_ rfl rfl rfl rfl rfl rfl rfl rfl rfl rfl rfl rfl
  | cons x r ih =>
    unfold State.quarantineAll
    try dsimp only
    repeat' first
      | with_reducible assumption | with_reducible apply ih | with_reducible apply State.quarantine_kept | (intro _ _)
      | with_reducible refine Kept.ite (fun _ => ?_) (fun _ => ?_) | split
      | with_reducible refine Kept.mk_same ?_ rfl rfl rfl rfl rfl rfl rfl rfl rfl rfl rfl rfl

theorem State.queueMove_kept {base s : State} (hk : Kept sk base s) (core : Nat) : Kept sk base (State.queueMove s core) := by
  unfold State.queueMove
  try dsimp only
  repeat' first
    | with_reducible assumption | (intro _ _) | with_reducible refine Kept.ite (fun _ => ?_) (fun _ => ?_) | split
    | with_reducible refine Kept.mk_same ?_ rfl rfl rfl rfl rfl rfl rfl rfl rfl rfl rfl rfl

theorem State.moveCore_kept {base s : State} (hk : Kept sk base s) (core : Nat) : Kept sk base (State.moveCore s core) := by
  unfold State.moveCore
  try dsimp only
  repeat' first
    | with_reducible assumption | with_reducible apply State.cause_kept | with_reducible apply State.queueMove_kept | (intro _ _)
    | with_reducible refine Kept.ite (fun _ => ?_) (fun _ => ?_) | split
    | with_reducible refine Kept.mk_same ?_ rfl rfl rfl rfl rfl rfl rfl rfl rfl rfl rfl rfl

theorem State.lose_kept {base s : State} (hk : Kept sk base s) : Kept sk base (State.lose s) := by
  unfold State.lose
  try dsimp only
  repeat' first
    | with_reducible assumption | with_reducible apply State.setState_kept | (intro _ _)
    | with_reducible refine Kept.ite (fun _ => ?_) (fun _ => ?_) | split
    | with_reducible refine Kept.mk_same ?_ rfl rfl rfl rfl rfl rfl rfl rfl rfl rfl rfl rfl

theorem State.permanent_kept {base s : State} (hk : Kept sk base s) (cls unit : Nat) : Kept sk base (State.permanent s cls unit) := by
  unfold State.permanent
  try dsimp only
  repeat' first
    | with_reducible assumption | with_reducible apply State.setPort_kept | with_reducible apply State.quarantine_kept
    | with_reducible apply State.quarantineAll_kept | with_reducible apply State.moveCore_kept | with_reducible apply State.lose_kept
    | (intro _ _) | with_reducible refine Kept.ite (fun _ => ?_) (fun _ => ?_) | split
    | with_reducible refine Kept.mk_same ?_ rfl rfl rfl rfl rfl rfl rfl rfl rfl rfl rfl rfl

theorem State.chargeErr_kept {base s : State} (hk : Kept sk base s) (cls unit code : Nat) (dt : Bool) :
    Kept sk base (State.chargeErr s cls unit code dt) := by
  unfold State.chargeErr
  try dsimp only
  repeat' first
    | with_reducible assumption | with_reducible apply State.count_kept | with_reducible apply State.raiseU_kept
    | with_reducible apply State.setHist_kept | with_reducible apply State.permanent_kept | (intro _ _)
    | with_reducible refine Kept.ite (fun _ => ?_) (fun _ => ?_) | split
    | with_reducible refine Kept.mk_same ?_ rfl rfl rfl rfl rfl rfl rfl rfl rfl rfl rfl rfl

theorem State.dtFailure_kept {base s : State} (hk : Kept sk base s) (cls unit : Nat) : Kept sk base (State.dtFailure s cls unit) := by
  unfold State.dtFailure
  try dsimp only
  repeat' first
    | with_reducible assumption | with_reducible apply State.chargeErr_kept | (intro _ _)
    | with_reducible refine Kept.ite (fun _ => ?_) (fun _ => ?_) | split
    | with_reducible refine Kept.mk_same ?_ rfl rfl rfl rfl rfl rfl rfl rfl rfl rfl rfl rfl

theorem State.dtFailures_kept {base s : State} (hk : Kept sk base s) (l : List (Nat × Nat)) : Kept sk base (State.dtFailures s l) := by
  induction l generalizing s with
  | nil =>
    unfold State.dtFailures
    try dsimp only
    repeat' first
      | with_reducible assumption | with_reducible apply State.dtFailure_kept | (intro _ _)
      | with_reducible refine Kept.ite (fun _ => ?_) (fun _ => ?_) | split
      | with_reducible refine Kept.mk_same ?_ rfl rfl rfl rfl rfl rfl rfl rfl rfl rfl rfl rfl
  | cons x r ih =>
    unfold State.dtFailures
    try dsimp only
    repeat' first
      | with_reducible assumption | with_reducible apply ih | with_reducible apply State.dtFailure_kept | (intro _ _)
      | with_reducible refine Kept.ite (fun _ => ?_) (fun _ => ?_) | split
      | with_reducible refine Kept.mk_same ?_ rfl rfl rfl rfl rfl rfl rfl rfl rfl rfl rfl rfl

theorem State.clearHist_kept {base s : State} (hk : Kept sk base s) (cls unit : Nat) : Kept sk base (State.clearHist s cls unit) := by
  unfold State.clearHist
  try dsimp only
  repeat' first
    | with_reducible assumption | with_reducible apply State.setHist_kept | (intro _ _)
    | with_reducible refine Kept.ite (fun _ => ?_) (fun _ => ?_) | split
    | with_reducible refine Kept.mk_same ?_ rfl rfl rfl rfl rfl rfl rfl rfl rfl rfl rfl rfl

theorem State.sealOk_kept {base s : State} (hk : Kept sk base s) (port : Nat) : Kept sk base (State.sealOk s port) := by
  unfold State.sealOk
  try dsimp only
  repeat' first
    | with_reducible assumption | with_reducible apply State.setPort_kept | (intro _ _)
    | with_reducible refine Kept.ite (fun _ => ?_) (fun _ => ?_) | split
    | with_reducible refine Kept.mk_same ?_ rfl rfl rfl rfl rfl rfl rfl rfl rfl rfl rfl rfl

/-! ### Run -/

theorem State.memCe_kept {base s : State} (hk : Kept sk base s) (l : List (Nat × Nat)) : Kept sk base (State.memCe s l) := by
  induction l generalizing s with
  | nil =>
    unfold State.memCe
    try dsimp only
    repeat' first
      | with_reducible assumption | with_reducible apply State.count_kept | with_reducible apply State.chargeCe_kept | (intro _ _)
      | with_reducible refine Kept.ite (fun _ => ?_) (fun _ => ?_) | split
      | with_reducible refine Kept.mk_same ?_ rfl rfl rfl rfl rfl rfl rfl rfl rfl rfl rfl rfl
  | cons x r ih =>
    unfold State.memCe
    try dsimp only
    repeat' first
      | with_reducible assumption | with_reducible apply ih | with_reducible apply State.count_kept
      | with_reducible apply State.chargeCe_kept | (intro _ _) | with_reducible refine Kept.ite (fun _ => ?_) (fun _ => ?_) | split
      | with_reducible refine Kept.mk_same ?_ rfl rfl rfl rfl rfl rfl rfl rfl rfl rfl rfl rfl

theorem State.bankLoss_kept {base s : State} (hk : Kept sk base s) (r off : Nat) : Kept sk base (State.bankLoss s r off) := by
  unfold State.bankLoss
  try dsimp only
  repeat' first
    | with_reducible assumption | (intro _ _) | with_reducible refine Kept.ite (fun _ => ?_) (fun _ => ?_) | split
    | with_reducible refine Kept.mk_same ?_ rfl rfl rfl rfl rfl rfl rfl rfl rfl rfl rfl rfl

theorem State.memUe_kept {base s : State} (hk : Kept sk base s) (reader core : Nat) (l : List (Nat × Nat)) :
    Kept sk base (State.memUe s reader core l) := by
  induction l generalizing s reader core with
  | nil =>
    unfold State.memUe
    try dsimp only
    repeat' first
      | with_reducible assumption | with_reducible apply State.count_kept | with_reducible apply State.raiseU_kept
      | with_reducible apply State.chargeErr_kept | with_reducible apply State.bankLoss_kept | (intro _ _)
      | with_reducible refine Kept.ite (fun _ => ?_) (fun _ => ?_) | split
      | with_reducible refine Kept.mk_same ?_ rfl rfl rfl rfl rfl rfl rfl rfl rfl rfl rfl rfl
  | cons x r ih =>
    unfold State.memUe
    try dsimp only
    repeat' first
      | with_reducible assumption | with_reducible apply ih | with_reducible apply State.count_kept
      | with_reducible apply State.raiseU_kept | with_reducible apply State.chargeErr_kept | with_reducible apply State.bankLoss_kept
      | (intro _ _) | with_reducible refine Kept.ite (fun _ => ?_) (fun _ => ?_) | split
      | with_reducible refine Kept.mk_same ?_ rfl rfl rfl rfl rfl rfl rfl rfl rfl rfl rfl rfl

theorem State.accountExts_kept {base s : State} (hk : Kept sk base s) (l : List Ext) : Kept sk base (State.accountExts s l) := by
  induction l generalizing s with
  | nil =>
    unfold State.accountExts
    try dsimp only
    repeat' first
      | with_reducible assumption | with_reducible apply State.account_kept | (intro _ _)
      | with_reducible refine Kept.ite (fun _ => ?_) (fun _ => ?_) | split
      | with_reducible refine Kept.mk_same ?_ rfl rfl rfl rfl rfl rfl rfl rfl rfl rfl rfl rfl
  | cons x r ih =>
    unfold State.accountExts
    try dsimp only
    repeat' first
      | with_reducible assumption | with_reducible apply ih | with_reducible apply State.account_kept | (intro _ _)
      | with_reducible refine Kept.ite (fun _ => ?_) (fun _ => ?_) | split
      | with_reducible refine Kept.mk_same ?_ rfl rfl rfl rfl rfl rfl rfl rfl rfl rfl rfl rfl

theorem State.storeCes_kept {base s : State} (hk : Kept sk base s) (core : Nat) (l : List Nat) :
    Kept sk base (State.storeCes s core l) := by
  induction l generalizing s core with
  | nil =>
    unfold State.storeCes
    try dsimp only
    repeat' first
      | with_reducible assumption | with_reducible apply State.count_kept | with_reducible apply State.chargeCe_kept | (intro _ _)
      | with_reducible refine Kept.ite (fun _ => ?_) (fun _ => ?_) | split
      | with_reducible refine Kept.mk_same ?_ rfl rfl rfl rfl rfl rfl rfl rfl rfl rfl rfl rfl
  | cons x r ih =>
    unfold State.storeCes
    try dsimp only
    repeat' first
      | with_reducible assumption | with_reducible apply ih | with_reducible apply State.count_kept
      | with_reducible apply State.chargeCe_kept | (intro _ _) | with_reducible refine Kept.ite (fun _ => ?_) (fun _ => ?_) | split
      | with_reducible refine Kept.mk_same ?_ rfl rfl rfl rfl rfl rfl rfl rfl rfl rfl rfl rfl

theorem State.storeUe_kept {base s : State} (hk : Kept sk base s) (core : Nat) (a : Option Nat) :
    Kept sk base (State.storeUe s core a) := by
  unfold State.storeUe
  try dsimp only
  repeat' first
    | with_reducible assumption | with_reducible apply State.count_kept | with_reducible apply State.raiseU_kept
    | with_reducible apply State.cause_kept | with_reducible apply State.chargeErr_kept | (intro _ _)
    | with_reducible refine Kept.ite (fun _ => ?_) (fun _ => ?_) | split
    | with_reducible refine Kept.mk_same ?_ rfl rfl rfl rfl rfl rfl rfl rfl rfl rfl rfl rfl

theorem State.mark_kept {base s : State} (hk : Kept sk base s) (code key : Nat) : Kept sk base (State.mark s code key) := by
  unfold State.mark
  try dsimp only
  repeat' first
    | with_reducible assumption | (intro _ _) | with_reducible refine Kept.ite (fun _ => ?_) (fun _ => ?_) | split
    | with_reducible refine Kept.mk_same ?_ rfl rfl rfl rfl rfl rfl rfl rfl rfl rfl rfl rfl

theorem State.noteLate_kept {base s : State} (hk : Kept sk base s) (late : Bool) (slot : Nat) :
    Kept sk base (State.noteLate s late slot) := by
  unfold State.noteLate
  try dsimp only
  repeat' first
    | with_reducible assumption | with_reducible apply State.count_kept | with_reducible apply State.mark_kept | (intro _ _)
    | with_reducible refine Kept.ite (fun _ => ?_) (fun _ => ?_) | split
    | with_reducible refine Kept.mk_same ?_ rfl rfl rfl rfl rfl rfl rfl rfl rfl rfl rfl rfl

theorem State.hold_kept {base s : State} (hk : Kept sk base s) (n : Nat) : Kept sk base (State.hold s n) := by
  unfold State.hold
  try dsimp only
  repeat' first
    | with_reducible assumption | (intro _ _) | with_reducible refine Kept.ite (fun _ => ?_) (fun _ => ?_) | split
    | with_reducible refine Kept.mk_same ?_ rfl rfl rfl rfl rfl rfl rfl rfl rfl rfl rfl rfl

theorem State.pruneLive_kept {base s : State} (hk : Kept sk base s) : Kept sk base (State.pruneLive s) := by
  unfold State.pruneLive
  try dsimp only
  repeat' first
    | with_reducible assumption | (intro _ _) | with_reducible refine Kept.ite (fun _ => ?_) (fun _ => ?_) | split
    | with_reducible refine Kept.mk_same ?_ rfl rfl rfl rfl rfl rfl rfl rfl rfl rfl rfl rfl

theorem State.drainMb_kept {base s : State} (hk : Kept sk base s) (inst : Nat) : Kept sk base (State.drainMb s inst) := by
  unfold State.drainMb
  try dsimp only
  repeat' first
    | with_reducible assumption | with_reducible apply State.pruneLive_kept | (intro _ _)
    | with_reducible refine Kept.ite (fun _ => ?_) (fun _ => ?_) | split
    | with_reducible refine Kept.mk_same ?_ rfl rfl rfl rfl rfl rfl rfl rfl rfl rfl rfl rfl

theorem State.drainAll_kept {base s : State} (hk : Kept sk base s) (l : List Nat) : Kept sk base (State.drainAll s l) := by
  induction l generalizing s with
  | nil =>
    unfold State.drainAll
    try dsimp only
    repeat' first
      | with_reducible assumption | with_reducible apply State.drainMb_kept | (intro _ _)
      | with_reducible refine Kept.ite (fun _ => ?_) (fun _ => ?_) | split
      | with_reducible refine Kept.mk_same ?_ rfl rfl rfl rfl rfl rfl rfl rfl rfl rfl rfl rfl
  | cons x r ih =>
    unfold State.drainAll
    try dsimp only
    repeat' first
      | with_reducible assumption | with_reducible apply ih | with_reducible apply State.drainMb_kept | (intro _ _)
      | with_reducible refine Kept.ite (fun _ => ?_) (fun _ => ?_) | split
      | with_reducible refine Kept.mk_same ?_ rfl rfl rfl rfl rfl rfl rfl rfl rfl rfl rfl rfl

theorem State.passMb_kept {base s : State} (hk : Kept sk base s) (d : Desc) : Kept sk base (State.passMb s d) := by
  unfold State.passMb
  try dsimp only
  repeat' first
    | with_reducible assumption | with_reducible apply State.drainMb_kept | (intro _ _)
    | with_reducible refine Kept.ite (fun _ => ?_) (fun _ => ?_) | split
    | with_reducible refine Kept.mk_same ?_ rfl rfl rfl rfl rfl rfl rfl rfl rfl rfl rfl rfl

theorem State.finish_kept {base s : State} (hk : Kept sk base s) (n : Nat) : Kept sk base (State.finish s n) := by
  unfold State.finish
  try dsimp only
  repeat' first
    | with_reducible assumption | with_reducible apply State.passMb_kept | (intro _ _)
    | with_reducible refine Kept.ite (fun _ => ?_) (fun _ => ?_) | split
    | with_reducible refine Kept.mk_same ?_ rfl rfl rfl rfl rfl rfl rfl rfl rfl rfl rfl rfl

theorem State.nanFill_kept {base s : State} (hk : Kept sk base s) (core : Nat) (l : List Ext) : Kept sk base (State.nanFill s core l) := by
  induction l generalizing s core with
  | nil =>
    unfold State.nanFill
    try dsimp only
    repeat' first
      | with_reducible assumption | with_reducible apply State.draw_kept | with_reducible apply State.opWrite_kept | (intro _ _)
      | with_reducible refine Kept.ite (fun _ => ?_) (fun _ => ?_) | split
      | with_reducible refine Kept.mk_same ?_ rfl rfl rfl rfl rfl rfl rfl rfl rfl rfl rfl rfl
  | cons x r ih =>
    unfold State.nanFill
    try dsimp only
    repeat' first
      | with_reducible assumption | with_reducible apply ih | with_reducible apply State.draw_kept
      | with_reducible apply State.opWrite_kept | (intro _ _) | with_reducible refine Kept.ite (fun _ => ?_) (fun _ => ?_) | split
      | with_reducible refine Kept.mk_same ?_ rfl rfl rfl rfl rfl rfl rfl rfl rfl rfl rfl rfl

theorem State.nanResult_kept {base s : State} (hk : Kept sk base s) (desc : Nat) : Kept sk base (State.nanResult s desc) := by
  unfold State.nanResult
  try dsimp only
  repeat' first
    | with_reducible assumption | with_reducible apply State.raiseOnce_kept | (intro _ _)
    | with_reducible refine Kept.ite (fun _ => ?_) (fun _ => ?_) | split
    | with_reducible refine Kept.mk_same ?_ rfl rfl rfl rfl rfl rfl rfl rfl rfl rfl rfl rfl

theorem State.nanOut_kept {base s : State} (hk : Kept sk base s) (d : Desc) (l : List Ext) : Kept sk base (State.nanOut s d l) := by
  unfold State.nanOut
  try dsimp only
  repeat' first
    | with_reducible assumption | with_reducible apply State.nanFill_kept | with_reducible apply State.nanResult_kept | (intro _ _)
    | with_reducible refine Kept.ite (fun _ => ?_) (fun _ => ?_) | split
    | with_reducible refine Kept.mk_same ?_ rfl rfl rfl rfl rfl rfl rfl rfl rfl rfl rfl rfl

theorem State.meetUe_kept {base s : State} (hk : Kept sk base s) (core : Nat) (ue : List (Nat × Nat)) :
    Kept sk base (State.meetUe s core ue) := by
  unfold State.meetUe
  try dsimp only
  repeat' first
    | with_reducible assumption | with_reducible apply State.cause_kept | with_reducible apply State.memUe_kept | (intro _ _)
    | with_reducible refine Kept.ite (fun _ => ?_) (fun _ => ?_) | split
    | with_reducible refine Kept.mk_same ?_ rfl rfl rfl rfl rfl rfl rfl rfl rfl rfl rfl rfl

theorem State.envFx_kept {base s : State} (hk : Kept sk base s) (d : Desc) (e : Env) (ue : List (Nat × Nat)) :
    Kept sk base (State.envFx s d e ue) := by
  unfold State.envFx
  try dsimp only
  repeat' first
    | with_reducible assumption | with_reducible apply State.count_kept | with_reducible apply State.memCe_kept
    | with_reducible apply State.accountExts_kept | with_reducible apply State.storeCes_kept | with_reducible apply State.storeUe_kept
    | with_reducible apply State.noteLate_kept | with_reducible apply State.meetUe_kept | (intro _ _)
    | with_reducible refine Kept.ite (fun _ => ?_) (fun _ => ?_) | split
    | with_reducible refine Kept.mk_same ?_ rfl rfl rfl rfl rfl rfl rfl rfl rfl rfl rfl rfl

theorem State.runDesc_kept {base s : State} (hk : Kept sk base s) (op : Nat) (d : Desc) (e : Env) (body : State → State)
    (hb : ∀ t, Kept sk base t → Kept sk base (body t)) : Kept sk base (State.runDesc s op d e body) := by
  unfold State.runDesc
  refine Kept.ite (fun _ => hk) (fun _ => Kept.ite (fun _ => State.hold_kept hk _) (fun _ => ?_))
  extract_lets ue s1 bad
  have h1 : Kept sk base s1 := hb _ (State.envFx_kept hk _ _ _)
  exact State.finish_kept (Kept.ite (fun _ => State.nanOut_kept h1 _ _) (fun _ => h1)) _

theorem State.writeFx_kept {base s : State} (hk : Kept sk base s) (d : Desc) (core : Nat) (o : Opnd) (r : List Byte × NumFx) :
    Kept sk base (State.writeFx s d core o r) := by
  unfold State.writeFx
  try dsimp only
  repeat' first
    | with_reducible assumption | with_reducible apply State.applyFx_kept | with_reducible apply State.opWrite_kept | (intro _ _)
    | with_reducible refine Kept.ite (fun _ => ?_) (fun _ => ?_) | split
    | with_reducible refine Kept.mk_same ?_ rfl rfl rfl rfl rfl rfl rfl rfl rfl rfl rfl rfl

/-! ### Whisk -/

theorem State.ewise_kept {base s : State} (hk : Kept sk base s) (d : Desc) : Kept sk base (State.ewise s d) := by
  unfold State.ewise
  try dsimp only
  repeat' first
    | with_reducible assumption | with_reducible apply State.writeFx_kept | (intro _ _)
    | with_reducible refine Kept.ite (fun _ => ?_) (fun _ => ?_) | split
    | with_reducible refine Kept.mk_same ?_ rfl rfl rfl rfl rfl rfl rfl rfl rfl rfl rfl rfl

theorem execEwise_kept (s : State) (d : Desc) (e : Env) : KeptO sk s (execEwise d e s) := by
  have hk : Kept sk s s := Kept.refl s
  unfold execEwise
  try dsimp only
  repeat' first
    | with_reducible assumption | with_reducible apply KeptO.next | with_reducible exact KeptO.fault _
    | with_reducible apply State.runDesc_kept | with_reducible apply State.ewise_kept | (intro _ _)
    | with_reducible refine Kept.ite (fun _ => ?_) (fun _ => ?_) | split
    | with_reducible refine Kept.mk_same ?_ rfl rfl rfl rfl rfl rfl rfl rfl rfl rfl rfl rfl

theorem State.reduceOp_kept {base s : State} (hk : Kept sk base s) (d : Desc) : Kept sk base (State.reduceOp s d) := by
  unfold State.reduceOp
  try dsimp only
  repeat' first
    | with_reducible assumption | with_reducible apply State.writeFx_kept | (intro _ _)
    | with_reducible refine Kept.ite (fun _ => ?_) (fun _ => ?_) | split
    | with_reducible refine Kept.mk_same ?_ rfl rfl rfl rfl rfl rfl rfl rfl rfl rfl rfl rfl

theorem execReduce_kept (s : State) (d : Desc) (e : Env) : KeptO sk s (execReduce d e s) := by
  have hk : Kept sk s s := Kept.refl s
  unfold execReduce
  try dsimp only
  repeat' first
    | with_reducible assumption | with_reducible apply KeptO.next | with_reducible exact KeptO.fault _
    | with_reducible apply State.runDesc_kept | with_reducible apply State.reduceOp_kept | (intro _ _)
    | with_reducible refine Kept.ite (fun _ => ?_) (fun _ => ?_) | split
    | with_reducible refine Kept.mk_same ?_ rfl rfl rfl rfl rfl rfl rfl rfl rfl rfl rfl rfl

theorem execSoftmax_kept (s : State) (d : Desc) (e : Env) : KeptO sk s (execSoftmax d e s) := by
  have hk : Kept sk s s := Kept.refl s
  unfold execSoftmax
  try dsimp only
  repeat' first
    | with_reducible assumption | with_reducible apply KeptO.next | with_reducible exact KeptO.fault _
    | with_reducible apply State.runDesc_kept | with_reducible apply State.writeFx_kept | (intro _ _)
    | with_reducible refine Kept.ite (fun _ => ?_) (fun _ => ?_) | split
    | with_reducible refine Kept.mk_same ?_ rfl rfl rfl rfl rfl rfl rfl rfl rfl rfl rfl rfl

theorem execNorm_kept (s : State) (d : Desc) (e : Env) : KeptO sk s (execNorm d e s) := by
  have hk : Kept sk s s := Kept.refl s
  unfold execNorm
  try dsimp only
  repeat' first
    | with_reducible assumption | with_reducible apply KeptO.next | with_reducible exact KeptO.fault _
    | with_reducible apply State.runDesc_kept | with_reducible apply State.writeFx_kept | (intro _ _)
    | with_reducible refine Kept.ite (fun _ => ?_) (fun _ => ?_) | split
    | with_reducible refine Kept.mk_same ?_ rfl rfl rfl rfl rfl rfl rfl rfl rfl rfl rfl rfl

theorem State.derivOp_kept {base s : State} (hk : Kept sk base s) (d : Desc) : Kept sk base (State.derivOp s d) := by
  unfold State.derivOp
  try dsimp only
  repeat' first
    | with_reducible assumption | with_reducible apply State.writeFx_kept | (intro _ _)
    | with_reducible refine Kept.ite (fun _ => ?_) (fun _ => ?_) | split
    | with_reducible refine Kept.mk_same ?_ rfl rfl rfl rfl rfl rfl rfl rfl rfl rfl rfl rfl

theorem execDeriv_kept (s : State) (d : Desc) (e : Env) : KeptO sk s (execDeriv d e s) := by
  have hk : Kept sk s s := Kept.refl s
  unfold execDeriv
  try dsimp only
  repeat' first
    | with_reducible assumption | with_reducible apply KeptO.next | with_reducible exact KeptO.fault _
    | with_reducible apply State.runDesc_kept | with_reducible apply State.derivOp_kept | (intro _ _)
    | with_reducible refine Kept.ite (fun _ => ?_) (fun _ => ?_) | split
    | with_reducible refine Kept.mk_same ?_ rfl rfl rfl rfl rfl rfl rfl rfl rfl rfl rfl rfl

theorem execSoftmaxBwd_kept (s : State) (d : Desc) (e : Env) : KeptO sk s (execSoftmaxBwd d e s) := by
  have hk : Kept sk s s := Kept.refl s
  unfold execSoftmaxBwd
  try dsimp only
  repeat' first
    | with_reducible assumption | with_reducible apply KeptO.next | with_reducible exact KeptO.fault _
    | with_reducible apply State.runDesc_kept | with_reducible apply State.writeFx_kept | (intro _ _)
    | with_reducible refine Kept.ite (fun _ => ?_) (fun _ => ?_) | split
    | with_reducible refine Kept.mk_same ?_ rfl rfl rfl rfl rfl rfl rfl rfl rfl rfl rfl rfl

theorem execNormBwd_kept (s : State) (d : Desc) (e : Env) : KeptO sk s (execNormBwd d e s) := by
  have hk : Kept sk s s := Kept.refl s
  unfold execNormBwd
  try dsimp only
  repeat' first
    | with_reducible assumption | with_reducible apply KeptO.next | with_reducible exact KeptO.fault _
    | with_reducible apply State.runDesc_kept | with_reducible apply State.writeFx_kept | (intro _ _)
    | with_reducible refine Kept.ite (fun _ => ?_) (fun _ => ?_) | split
    | with_reducible refine Kept.mk_same ?_ rfl rfl rfl rfl rfl rfl rfl rfl rfl rfl rfl rfl

theorem execLossXent_kept (s : State) (d : Desc) (e : Env) : KeptO sk s (execLossXent d e s) := by
  have hk : Kept sk s s := Kept.refl s
  unfold execLossXent
  try dsimp only
  repeat' first
    | with_reducible assumption | with_reducible apply KeptO.next | with_reducible exact KeptO.fault _
    | with_reducible apply State.runDesc_kept | with_reducible apply State.writeFx_kept | (intro _ _)
    | with_reducible refine Kept.ite (fun _ => ?_) (fun _ => ?_) | split
    | with_reducible refine Kept.mk_same ?_ rfl rfl rfl rfl rfl rfl rfl rfl rfl rfl rfl rfl

theorem State.gatherOp_kept {base s : State} (hk : Kept sk base s) (d : Desc) : Kept sk base (State.gatherOp s d) := by
  unfold State.gatherOp
  try dsimp only
  repeat' first
    | with_reducible assumption | with_reducible apply State.count_kept | with_reducible apply State.opWrite_kept | (intro _ _)
    | with_reducible refine Kept.ite (fun _ => ?_) (fun _ => ?_) | split
    | with_reducible refine Kept.mk_same ?_ rfl rfl rfl rfl rfl rfl rfl rfl rfl rfl rfl rfl

theorem execGather_kept (s : State) (d : Desc) (e : Env) : KeptO sk s (execGather d e s) := by
  have hk : Kept sk s s := Kept.refl s
  unfold execGather
  try dsimp only
  repeat' first
    | with_reducible assumption | with_reducible apply KeptO.next | with_reducible exact KeptO.fault _
    | with_reducible apply State.runDesc_kept | with_reducible apply State.gatherOp_kept | (intro _ _)
    | with_reducible refine Kept.ite (fun _ => ?_) (fun _ => ?_) | split
    | with_reducible refine Kept.mk_same ?_ rfl rfl rfl rfl rfl rfl rfl rfl rfl rfl rfl rfl

theorem State.scatterRows_kept {base s : State} (hk : Kept sk base s) (core : Nat) (o : Opnd) (bytes bound : Nat) (rows : List (List Byte × Word)) :
    Kept sk base (State.scatterRows s core o bytes bound rows) := by
  induction rows generalizing s core o bytes bound with
  | nil =>
    unfold State.scatterRows
    try dsimp only
    repeat' first
      | with_reducible assumption | with_reducible apply State.count_kept | with_reducible apply State.opWrite_kept | (intro _ _)
      | with_reducible refine Kept.ite (fun _ => ?_) (fun _ => ?_) | split
      | with_reducible refine Kept.mk_same ?_ rfl rfl rfl rfl rfl rfl rfl rfl rfl rfl rfl rfl
  | cons x r ih =>
    unfold State.scatterRows
    try dsimp only
    repeat' first
      | with_reducible assumption | with_reducible apply ih | with_reducible apply State.count_kept
      | with_reducible apply State.opWrite_kept | (intro _ _) | with_reducible refine Kept.ite (fun _ => ?_) (fun _ => ?_) | split
      | with_reducible refine Kept.mk_same ?_ rfl rfl rfl rfl rfl rfl rfl rfl rfl rfl rfl rfl

theorem execScatter_kept (s : State) (d : Desc) (e : Env) : KeptO sk s (execScatter d e s) := by
  have hk : Kept sk s s := Kept.refl s
  unfold execScatter
  try dsimp only
  repeat' first
    | with_reducible assumption | with_reducible apply KeptO.next | with_reducible exact KeptO.fault _
    | with_reducible apply State.runDesc_kept | with_reducible apply State.scatterRows_kept | (intro _ _)
    | with_reducible refine Kept.ite (fun _ => ?_) (fun _ => ?_) | split
    | with_reducible refine Kept.mk_same ?_ rfl rfl rfl rfl rfl rfl rfl rfl rfl rfl rfl rfl

theorem State.scatterAddRows_kept {base s : State} (hk : Kept sk base s) (d : Desc) (o : Opnd) (bytes bound : Nat) (rows : List (List Byte × Word)) :
    Kept sk base (State.scatterAddRows s d o bytes bound rows) := by
  induction rows generalizing s d o bytes bound with
  | nil =>
    unfold State.scatterAddRows
    try dsimp only
    repeat' first
      | with_reducible assumption | with_reducible apply State.count_kept | with_reducible apply State.writeFx_kept | (intro _ _)
      | with_reducible refine Kept.ite (fun _ => ?_) (fun _ => ?_) | split
      | with_reducible refine Kept.mk_same ?_ rfl rfl rfl rfl rfl rfl rfl rfl rfl rfl rfl rfl
  | cons x r ih =>
    unfold State.scatterAddRows
    try dsimp only
    repeat' first
      | with_reducible assumption | with_reducible apply ih | with_reducible apply State.count_kept
      | with_reducible apply State.writeFx_kept | (intro _ _) | with_reducible refine Kept.ite (fun _ => ?_) (fun _ => ?_) | split
      | with_reducible refine Kept.mk_same ?_ rfl rfl rfl rfl rfl rfl rfl rfl rfl rfl rfl rfl

theorem execScatterAdd_kept (s : State) (d : Desc) (e : Env) : KeptO sk s (execScatterAdd d e s) := by
  have hk : Kept sk s s := Kept.refl s
  unfold execScatterAdd
  try dsimp only
  repeat' first
    | with_reducible assumption | with_reducible apply KeptO.next | with_reducible exact KeptO.fault _
    | with_reducible apply State.runDesc_kept | with_reducible apply State.scatterAddRows_kept | (intro _ _)
    | with_reducible refine Kept.ite (fun _ => ?_) (fun _ => ?_) | split
    | with_reducible refine Kept.mk_same ?_ rfl rfl rfl rfl rfl rfl rfl rfl rfl rfl rfl rfl

theorem State.compareOp_kept {base s : State} (hk : Kept sk base s) (d : Desc) : Kept sk base (State.compareOp s d) := by
  unfold State.compareOp
  try dsimp only
  repeat' first
    | with_reducible assumption | with_reducible apply State.applyFx_kept | (intro _ _)
    | with_reducible refine Kept.ite (fun _ => ?_) (fun _ => ?_) | split
    | with_reducible refine Kept.mk_same ?_ rfl rfl rfl rfl rfl rfl rfl rfl rfl rfl rfl rfl

theorem execCompare_kept (s : State) (d : Desc) (e : Env) : KeptO sk s (execCompare d e s) := by
  have hk : Kept sk s s := Kept.refl s
  unfold execCompare
  try dsimp only
  repeat' first
    | with_reducible assumption | with_reducible apply KeptO.next | with_reducible exact KeptO.fault _
    | with_reducible apply State.runDesc_kept | with_reducible apply State.compareOp_kept | (intro _ _)
    | with_reducible refine Kept.ite (fun _ => ?_) (fun _ => ?_) | split
    | with_reducible refine Kept.mk_same ?_ rfl rfl rfl rfl rfl rfl rfl rfl rfl rfl rfl rfl

theorem State.digestTensorOp_kept {base s : State} (hk : Kept sk base s) (d : Desc) : Kept sk base (State.digestTensorOp s d) := by
  unfold State.digestTensorOp
  try dsimp only
  repeat' first
    | with_reducible assumption | with_reducible apply State.opWrite_kept | (intro _ _)
    | with_reducible refine Kept.ite (fun _ => ?_) (fun _ => ?_) | split
    | with_reducible refine Kept.mk_same ?_ rfl rfl rfl rfl rfl rfl rfl rfl rfl rfl rfl rfl

theorem execDigestTensor_kept (s : State) (d : Desc) (e : Env) : KeptO sk s (execDigestTensor d e s) := by
  have hk : Kept sk s s := Kept.refl s
  unfold execDigestTensor
  try dsimp only
  repeat' first
    | with_reducible assumption | with_reducible apply KeptO.next | with_reducible exact KeptO.fault _
    | with_reducible apply State.runDesc_kept | with_reducible apply State.digestTensorOp_kept | (intro _ _)
    | with_reducible refine Kept.ite (fun _ => ?_) (fun _ => ?_) | split
    | with_reducible refine Kept.mk_same ?_ rfl rfl rfl rfl rfl rfl rfl rfl rfl rfl rfl rfl

theorem execDmp_kept (s : State) (d : Desc) (e : Env) : KeptO sk s (execDmp d e s) := by
  have hk : Kept sk s s := Kept.refl s
  unfold execDmp
  try dsimp only
  repeat' first
    | with_reducible assumption | with_reducible apply KeptO.next | with_reducible exact KeptO.fault _
    | with_reducible apply State.runDesc_kept | with_reducible apply State.writeFx_kept | (intro _ _)
    | with_reducible refine Kept.ite (fun _ => ?_) (fun _ => ?_) | split
    | with_reducible refine Kept.mk_same ?_ rfl rfl rfl rfl rfl rfl rfl rfl rfl rfl rfl rfl

theorem execDiag_kept (s : State) (d : Desc) (e : Env) : KeptO sk s (execDiag d e s) := by
  have hk : Kept sk s s := Kept.refl s
  unfold execDiag
  try dsimp only
  repeat' first
    | with_reducible assumption | with_reducible apply KeptO.next | with_reducible exact KeptO.fault _
    | with_reducible apply State.runDesc_kept | with_reducible apply State.writeFx_kept | (intro _ _)
    | with_reducible refine Kept.ite (fun _ => ?_) (fun _ => ?_) | split
    | with_reducible refine Kept.mk_same ?_ rfl rfl rfl rfl rfl rfl rfl rfl rfl rfl rfl rfl

theorem execNop_kept (s : State) (d : Desc) (e : Env) : KeptO sk s (execNop d e s) := by
  have hk : Kept sk s s := Kept.refl s
  unfold execNop
  try dsimp only
  repeat' first
    | with_reducible assumption | with_reducible apply KeptO.next | with_reducible exact KeptO.fault _
    | with_reducible apply State.runDesc_kept | (intro _ _) | with_reducible refine Kept.ite (fun _ => ?_) (fun _ => ?_) | split
    | with_reducible refine Kept.mk_same ?_ rfl rfl rfl rfl rfl rfl rfl rfl rfl rfl rfl rfl

/-! ### Arrays -/

theorem State.putRow_kept {base s : State} (hk : Kept sk base s) (a row : Nat) (cells : List (BitVec 2)) (rem : List Int) :
    Kept sk base (State.putRow s a row cells rem) := by
  unfold State.putRow
  try dsimp only
  repeat' first
    | with_reducible assumption | (intro _ _) | with_reducible refine Kept.ite (fun _ => ?_) (fun _ => ?_) | split
    | with_reducible refine Kept.mk_same ?_ rfl rfl rfl rfl rfl rfl rfl rfl rfl rfl rfl rfl

theorem State.putRows_kept {base s : State} (hk : Kept sk base s) (a f row : Nat) (rows : List (List Nat)) :
    Kept sk base (State.putRows s a f row rows) := by
  induction rows generalizing s a f row with
  | nil =>
    unfold State.putRows
    try dsimp only
    repeat' first
      | with_reducible assumption | with_reducible apply State.putRow_kept | with_reducible refine Kept.foldl _ (fun _ _ _ => ?_) _ _ ?_
      | (intro _ _) | with_reducible refine Kept.ite (fun _ => ?_) (fun _ => ?_) | split
      | with_reducible refine Kept.mk_same ?_ rfl rfl rfl rfl rfl rfl rfl rfl rfl rfl rfl rfl
  | cons x r ih =>
    unfold State.putRows
    try dsimp only
    repeat' first
      | with_reducible assumption | with_reducible apply ih | with_reducible apply State.putRow_kept
      | with_reducible refine Kept.foldl _ (fun _ _ _ => ?_) _ _ ?_ | (intro _ _)
      | with_reducible refine Kept.ite (fun _ => ?_) (fun _ => ?_) | split
      | with_reducible refine Kept.mk_same ?_ rfl rfl rfl rfl rfl rfl rfl rfl rfl rfl rfl rfl

theorem State.putSpares_kept {base s : State} (hk : Kept sk base s) (a : Nat) (ns : List Nat) : Kept sk base (State.putSpares s a ns) := by
  induction ns generalizing s a with
  | nil =>
    unfold State.putSpares
    try dsimp only
    repeat' first
      | with_reducible assumption | with_reducible apply State.putRow_kept | (intro _ _)
      | with_reducible refine Kept.ite (fun _ => ?_) (fun _ => ?_) | split
      | with_reducible refine Kept.mk_same ?_ rfl rfl rfl rfl rfl rfl rfl rfl rfl rfl rfl rfl
  | cons x r ih =>
    unfold State.putSpares
    try dsimp only
    repeat' first
      | with_reducible assumption | with_reducible apply ih | with_reducible apply State.putRow_kept | (intro _ _)
      | with_reducible refine Kept.ite (fun _ => ?_) (fun _ => ?_) | split
      | with_reducible refine Kept.mk_same ?_ rfl rfl rfl rfl rfl rfl rfl rfl rfl rfl rfl rfl

theorem State.putScales_kept {base s : State} (hk : Kept sk base s) (a block : Nat) (rows : List (List Half)) :
    Kept sk base (State.putScales s a block rows) := by
  induction rows generalizing s a block with
  | nil =>
    unfold State.putScales
    try dsimp only
    repeat' first
      | with_reducible assumption | (intro _ _) | with_reducible refine Kept.ite (fun _ => ?_) (fun _ => ?_) | split
      | with_reducible refine Kept.mk_same ?_ rfl rfl rfl rfl rfl rfl rfl rfl rfl rfl rfl rfl
  | cons x r ih =>
    unfold State.putScales
    try dsimp only
    repeat' first
      | with_reducible assumption | with_reducible apply ih | (intro _ _) | with_reducible refine Kept.ite (fun _ => ?_) (fun _ => ?_)
      | split | with_reducible refine Kept.mk_same ?_ rfl rfl rfl rfl rfl rfl rfl rfl rfl rfl rfl rfl

theorem State.program_kept {base s : State} (hk : Kept sk base s) (a : Nat) (p : Prog) (src : RowSrc) :
    Kept sk base (State.program s a p src) := by
  unfold State.program
  extract_lets s1 s2 s3 x
  have h1 : Kept sk base s1 := State.putRows_kept hk _ _ _ _
  have h2 : Kept sk base s2 := Kept.ite (fun _ => State.putSpares_kept h1 _ _) (fun _ => h1)
  have h3 : Kept sk base s3 := State.putScales_kept h2 _ _ _
  exact State.count_kept (State.setArray_kept h3 _ _) _ _

theorem State.noteWrite_kept {base s : State} (hk : Kept sk base s) (a : Nat) (full more : Bool) :
    Kept sk base (State.noteWrite s a full more) := by
  unfold State.noteWrite
  try dsimp only
  repeat' first
    | with_reducible assumption | with_reducible apply State.setCore_kept | with_reducible apply State.mark_kept | (intro _ _)
    | with_reducible refine Kept.ite (fun _ => ?_) (fun _ => ?_) | split
    | with_reducible refine Kept.mk_same ?_ rfl rfl rfl rfl rfl rfl rfl rfl rfl rfl rfl rfl

theorem State.awrite_kept {base s : State} (hk : Kept sk base s) (d : Desc) : Kept sk base (State.awrite s d) := by
  unfold State.awrite
  extract_lets a x src more core p
  refine Kept.ite (fun _ => State.noteWrite_kept hk _ _ _) (fun _ => Kept.ite
    (fun _ => State.noteWrite_kept (State.setArray_kept hk _ _) _ _ _) (fun _ => ?_))
  exact State.noteWrite_kept (State.program_kept hk _ _ _) _ _ _

theorem execAwrite_kept (s : State) (d : Desc) (e : Env) : KeptO sk s (execAwrite d e s) := by
  have hk : Kept sk s s := Kept.refl s
  unfold execAwrite
  try dsimp only
  repeat' first
    | with_reducible assumption | with_reducible apply KeptO.next | with_reducible exact KeptO.fault _
    | with_reducible apply State.runDesc_kept | with_reducible apply State.awrite_kept | (intro _ _)
    | with_reducible refine Kept.ite (fun _ => ?_) (fun _ => ?_) | split
    | with_reducible refine Kept.mk_same ?_ rfl rfl rfl rfl rfl rfl rfl rfl rfl rfl rfl rfl

theorem State.imageLook_kept {base s : State} (hk : Kept sk base s) (r off n : Nat) : Kept sk base (State.imageLook s r off n).1 := by
  unfold State.imageLook
  try dsimp only
  repeat' first
    | with_reducible assumption | with_reducible apply State.account_kept | with_reducible apply State.memUe_kept | (intro _ _)
    | with_reducible refine Kept.ite (fun _ => ?_) (fun _ => ?_) | split
    | with_reducible refine Kept.mk_same ?_ rfl rfl rfl rfl rfl rfl rfl rfl rfl rfl rfl rfl

theorem State.rewriteRow_kept {base s : State} (hk : Kept sk base s) (a row : Nat) : Kept sk base (State.rewriteRow s a row) := by
  unfold State.rewriteRow
  try dsimp only
  repeat' first
    | with_reducible assumption | with_reducible apply State.putRow_kept | with_reducible apply State.imageLook_kept | (intro _ _)
    | with_reducible refine Kept.ite (fun _ => ?_) (fun _ => ?_) | split
    | with_reducible refine Kept.mk_same ?_ rfl rfl rfl rfl rfl rfl rfl rfl rfl rfl rfl rfl

theorem State.programFrom_kept {base s : State} (hk : Kept sk base s) (a : Nat) (x : RowSrc) : Kept sk base (State.programFrom s a x) := by
  unfold State.programFrom
  try dsimp only
  repeat' first
    | with_reducible assumption | with_reducible apply State.program_kept | with_reducible apply State.imageLook_kept | (intro _ _)
    | with_reducible refine Kept.ite (fun _ => ?_) (fun _ => ?_) | split
    | with_reducible refine Kept.mk_same ?_ rfl rfl rfl rfl rfl rfl rfl rfl rfl rfl rfl rfl

theorem State.programAll_kept {base s : State} (hk : Kept sk base s) (a : Nat) (l : List RowSrc) :
    Kept sk base (State.programAll s a l) := by
  induction l generalizing s a with
  | nil =>
    unfold State.programAll
    try dsimp only
    repeat' first
      | with_reducible assumption | with_reducible apply State.programFrom_kept | (intro _ _)
      | with_reducible refine Kept.ite (fun _ => ?_) (fun _ => ?_) | split
      | with_reducible refine Kept.mk_same ?_ rfl rfl rfl rfl rfl rfl rfl rfl rfl rfl rfl rfl
  | cons x r ih =>
    unfold State.programAll
    try dsimp only
    repeat' first
      | with_reducible assumption | with_reducible apply ih | with_reducible apply State.programFrom_kept | (intro _ _)
      | with_reducible refine Kept.ite (fun _ => ?_) (fun _ => ?_) | split
      | with_reducible refine Kept.mk_same ?_ rfl rfl rfl rfl rfl rfl rfl rfl rfl rfl rfl rfl

theorem State.loseArray_kept {base s : State} (hk : Kept sk base s) (a : Nat) : Kept sk base (State.loseArray s a) := by
  unfold State.loseArray
  try dsimp only
  repeat' first
    | with_reducible assumption | with_reducible apply State.setArray_kept | (intro _ _)
    | with_reducible refine Kept.ite (fun _ => ?_) (fun _ => ?_) | split
    | with_reducible refine Kept.mk_same ?_ rfl rfl rfl rfl rfl rfl rfl rfl rfl rfl rfl rfl

/-! ### Amp -/

theorem State.descFault_kept {base s : State} (hk : Kept sk base s) (d : Desc) (cause : Nat) :
    Kept sk base (State.descFault s d cause) := by
  unfold State.descFault
  try dsimp only
  repeat' first
    | with_reducible assumption | with_reducible apply State.raise_kept | with_reducible apply State.fail_kept
    | with_reducible apply State.nanOut_kept | (intro _ _) | with_reducible refine Kept.ite (fun _ => ?_) (fun _ => ?_) | split
    | with_reducible refine Kept.mk_same ?_ rfl rfl rfl rfl rfl rfl rfl rfl rfl rfl rfl rfl

theorem State.taste_kept {base s : State} (hk : Kept sk base s) (d : Desc) (arrs : List (Nat × Nat)) (c : SieveCfg) (vs : List AmpVec) :
    Kept sk base (State.taste s d arrs c vs) := by
  unfold State.taste
  try dsimp only
  repeat' first
    | with_reducible assumption | with_reducible apply State.setArray_kept | with_reducible apply State.mark_kept | (intro _ _)
    | with_reducible refine Kept.ite (fun _ => ?_) (fun _ => ?_) | split
    | with_reducible refine Kept.mk_same ?_ rfl rfl rfl rfl rfl rfl rfl rfl rfl rfl rfl rfl

theorem State.keepWindows_kept {base s : State} (hk : Kept sk base s) (l : List (Nat × LaneAcc)) :
    Kept sk base (State.keepWindows s l) := by
  induction l generalizing s with
  | nil =>
    unfold State.keepWindows
    try dsimp only
    repeat' first
      | with_reducible assumption | with_reducible apply State.setArray_kept | (intro _ _)
      | with_reducible refine Kept.ite (fun _ => ?_) (fun _ => ?_) | split
      | with_reducible refine Kept.mk_same ?_ rfl rfl rfl rfl rfl rfl rfl rfl rfl rfl rfl rfl
  | cons x r ih =>
    unfold State.keepWindows
    try dsimp only
    repeat' first
      | with_reducible assumption | with_reducible apply ih | with_reducible apply State.setArray_kept | (intro _ _)
      | with_reducible refine Kept.ite (fun _ => ?_) (fun _ => ?_) | split
      | with_reducible refine Kept.mk_same ?_ rfl rfl rfl rfl rfl rfl rfl rfl rfl rfl rfl rfl

theorem State.ampCounts_kept {base s : State} (hk : Kept sk base s) (d : Desc) (vs : List AmpVec) (clamps : Nat) :
    Kept sk base (State.ampCounts s d vs clamps) := by
  unfold State.ampCounts
  try dsimp only
  repeat' first
    | with_reducible assumption | with_reducible apply State.count_kept | with_reducible apply State.raiseOnce_kept
    | with_reducible apply State.setCore_kept | (intro _ _) | with_reducible refine Kept.ite (fun _ => ?_) (fun _ => ?_) | split
    | with_reducible refine Kept.mk_same ?_ rfl rfl rfl rfl rfl rfl rfl rfl rfl rfl rfl rfl

theorem State.amp_kept {base s : State} (hk : Kept sk base s) (d : Desc) : Kept sk base (State.amp s d) := by
  unfold State.amp
  try dsimp only
  repeat' first
    | with_reducible assumption | with_reducible apply State.count_kept | with_reducible apply State.draw_kept
    | with_reducible apply State.writeFx_kept | with_reducible apply State.descFault_kept | with_reducible apply State.taste_kept
    | with_reducible apply State.keepWindows_kept | with_reducible apply State.ampCounts_kept | (intro _ _)
    | with_reducible refine Kept.ite (fun _ => ?_) (fun _ => ?_) | split
    | with_reducible refine Kept.mk_same ?_ rfl rfl rfl rfl rfl rfl rfl rfl rfl rfl rfl rfl

theorem execAmp_kept (s : State) (d : Desc) (e : Env) : KeptO sk s (execAmp d e s) := by
  have hk : Kept sk s s := Kept.refl s
  unfold execAmp
  try dsimp only
  repeat' first
    | with_reducible assumption | with_reducible apply KeptO.next | with_reducible exact KeptO.fault _
    | with_reducible apply State.runDesc_kept | with_reducible apply State.amp_kept | (intro _ _)
    | with_reducible refine Kept.ite (fun _ => ?_) (fun _ => ?_) | split
    | with_reducible refine Kept.mk_same ?_ rfl rfl rfl rfl rfl rfl rfl rfl rfl rfl rfl rfl

/-! ### Convert -/

theorem State.scaleOvf_kept {base s : State} (hk : Kept sk base s) (d : Desc) (tensor : Nat) :
    Kept sk base (State.scaleOvf s d tensor) := by
  unfold State.scaleOvf
  try dsimp only
  repeat' first
    | with_reducible assumption | with_reducible apply State.raiseOnce_kept | (intro _ _)
    | with_reducible refine Kept.ite (fun _ => ?_) (fun _ => ?_) | split
    | with_reducible refine Kept.mk_same ?_ rfl rfl rfl rfl rfl rfl rfl rfl rfl rfl rfl rfl

theorem State.convertEst_kept {base s : State} (hk : Kept sk base s) (d : Desc) (r : NarrowOut) (e : Word) :
    Kept sk base (State.convertEst s d r e) := by
  unfold State.convertEst
  try dsimp only
  repeat' first
    | with_reducible assumption | with_reducible apply State.cause_kept | with_reducible apply State.observe_kept
    | with_reducible apply State.correct_kept | (intro _ _) | with_reducible refine Kept.ite (fun _ => ?_) (fun _ => ?_) | split
    | with_reducible refine Kept.mk_same ?_ rfl rfl rfl rfl rfl rfl rfl rfl rfl rfl rfl rfl

theorem State.convertOp_kept {base s : State} (hk : Kept sk base s) (d : Desc) : Kept sk base (State.convertOp s d) := by
  unfold State.convertOp
  try dsimp only
  repeat' first
    | with_reducible assumption | with_reducible apply State.opWrite_kept | with_reducible apply State.writeFx_kept
    | with_reducible apply State.scaleOvf_kept | with_reducible apply State.convertEst_kept | (intro _ _)
    | with_reducible refine Kept.ite (fun _ => ?_) (fun _ => ?_) | split
    | with_reducible refine Kept.mk_same ?_ rfl rfl rfl rfl rfl rfl rfl rfl rfl rfl rfl rfl

theorem execConvert_kept (s : State) (d : Desc) (e : Env) : KeptO sk s (execConvert d e s) := by
  have hk : Kept sk s s := Kept.refl s
  unfold execConvert
  try dsimp only
  repeat' first
    | with_reducible assumption | with_reducible apply KeptO.next | with_reducible exact KeptO.fault _
    | with_reducible apply State.runDesc_kept | with_reducible apply State.convertOp_kept | (intro _ _)
    | with_reducible refine Kept.ite (fun _ => ?_) (fun _ => ?_) | split
    | with_reducible refine Kept.mk_same ?_ rfl rfl rfl rfl rfl rfl rfl rfl rfl rfl rfl rfl

theorem State.spillWrite_kept {base s : State} (hk : Kept sk base s) (array : Nat) (es : List OutEnt) :
    Kept sk base (State.spillWrite s array es) := by
  unfold State.spillWrite
  try dsimp only
  repeat' first
    | with_reducible assumption | with_reducible apply State.regWrite_kept | with_reducible apply State.account_kept | (intro _ _)
    | with_reducible refine Kept.ite (fun _ => ?_) (fun _ => ?_) | split
    | with_reducible refine Kept.mk_same ?_ rfl rfl rfl rfl rfl rfl rfl rfl rfl rfl rfl rfl

theorem State.notePart_kept {base s : State} (hk : Kept sk base s) (p : PartInfo) : Kept sk base (State.notePart s p) := by
  unfold State.notePart
  try dsimp only
  repeat' first
    | with_reducible assumption | (intro _ _) | with_reducible refine Kept.ite (fun _ => ?_) (fun _ => ?_) | split
    | with_reducible refine Kept.mk_same ?_ rfl rfl rfl rfl rfl rfl rfl rfl rfl rfl rfl rfl

theorem State.corrects_kept {base s : State} (hk : Kept sk base s) (md : FMode) (l : List (Nat × Word)) :
    Kept sk base (State.corrects s md l) := by
  induction l generalizing s md with
  | nil =>
    unfold State.corrects
    try dsimp only
    repeat' first
      | with_reducible assumption | with_reducible apply State.correct_kept | (intro _ _)
      | with_reducible refine Kept.ite (fun _ => ?_) (fun _ => ?_) | split
      | with_reducible refine Kept.mk_same ?_ rfl rfl rfl rfl rfl rfl rfl rfl rfl rfl rfl rfl
  | cons x r ih =>
    unfold State.corrects
    try dsimp only
    repeat' first
      | with_reducible assumption | with_reducible apply ih | with_reducible apply State.correct_kept | (intro _ _)
      | with_reducible refine Kept.ite (fun _ => ?_) (fun _ => ?_) | split
      | with_reducible refine Kept.mk_same ?_ rfl rfl rfl rfl rfl rfl rfl rfl rfl rfl rfl rfl

theorem State.outlierOvf_kept {base s : State} (hk : Kept sk base s) (d : Desc) (array : Nat) (excess : List Cand) (obs : List (Nat × Word)) :
    Kept sk base (State.outlierOvf s d array excess obs).1 := by
  unfold State.outlierOvf
  try dsimp only
  repeat' first
    | with_reducible assumption | with_reducible apply State.count_kept | with_reducible apply State.raiseOnce_kept
    | with_reducible apply State.cause_kept | with_reducible apply State.spillWrite_kept | with_reducible apply State.corrects_kept
    | (intro _ _) | with_reducible refine Kept.ite (fun _ => ?_) (fun _ => ?_) | split
    | with_reducible refine Kept.mk_same ?_ rfl rfl rfl rfl rfl rfl rfl rfl rfl rfl rfl rfl

theorem State.noteSlot_kept {base s : State} (hk : Kept sk base s) (o : Opnd) : Kept sk base (State.noteSlot s o) := by
  unfold State.noteSlot
  try dsimp only
  repeat' first
    | with_reducible assumption | (intro _ _) | with_reducible refine Kept.ite (fun _ => ?_) (fun _ => ?_) | split
    | with_reducible refine Kept.mk_same ?_ rfl rfl rfl rfl rfl rfl rfl rfl rfl rfl rfl rfl

/-- Kept by the state that a numeric computation answers. -/
def KeptN {α : Type} (sk : Skip) (b : State) (m : Nm (State × α)) : Prop :=
  ∀ f, Kept sk b (m.run f).1.1

theorem KeptN.pure {α : Type} {b : State} {a : State × α} (h : Kept sk b a.1) : KeptN sk b (Pure.pure a) := fun _ => h

theorem KeptN.bind {α β : Type} {b : State} {m : Nm (State × α)} {g : State × α → Nm (State × β)} (hm : KeptN sk b m)
    (hg : ∀ a, Kept sk b a.1 → KeptN sk b (g a)) : KeptN sk b (m >>= g) := fun f => hg _ (hm f) _

theorem KeptN.skip {α β : Type} {b : State} {m : Nm α} {g : α → Nm (State × β)} (hg : ∀ a, KeptN sk b (g a)) :
    KeptN sk b (m >>= g) := fun _ => hg _ _

theorem State.quantGroup_kept {base s : State} (hk : Kept sk base s) (q : QCfg) (j g0 row0 : Nat) (xs : List Word) :
    KeptN sk base (State.quantGroup s q j g0 row0 xs) := by
  unfold State.quantGroup
  split
  · exact KeptN.pure hk
  · refine KeptN.skip (fun a => ?_)
    split
    · exact KeptN.skip (fun e => KeptN.skip (fun sc => KeptN.skip (fun bs => KeptN.pure hk)))
    · exact KeptN.skip (fun e => KeptN.skip (fun sc => KeptN.skip (fun bs => KeptN.pure (State.observe_kept hk _ _))))

theorem State.quantGroups_kept {base s : State} (hk : Kept sk base s) (q : QCfg) (j r0 row0 : Nat) (gs : List (List Word)) :
    KeptN sk base (State.quantGroups s q j r0 row0 gs) := by
  induction gs generalizing s row0 with
  | nil => exact KeptN.pure hk
  | cons g r ih =>
    exact KeptN.bind (State.quantGroup_kept hk _ _ _ _ _) (fun a ha => KeptN.bind (ih ha _) (fun c hc => KeptN.pure hc))

theorem State.quantCols_kept {base s : State} (hk : Kept sk base s) (q : QCfg) (j r0 : Nat) (cols : List (List Word)) :
    KeptN sk base (State.quantCols s q j r0 cols) := by
  induction cols generalizing s j with
  | nil => exact KeptN.pure hk
  | cons c r ih =>
    exact KeptN.bind (State.quantGroups_kept hk _ _ _ _ _) (fun a ha => KeptN.bind (ih ha _) (fun c hc => KeptN.pure hc))

theorem State.quantArray_kept {base s : State} (hk : Kept sk base s) (d : Desc) (q : QCfg) (cols : List (List Word)) (n part : Nat) :
    KeptN sk base (State.quantArray s d q cols n part) := by
  unfold State.quantArray
  refine KeptN.bind (State.quantCols_kept hk _ _ _ _) (fun x hx => KeptN.skip (fun rows => KeptN.pure ?_))
  refine Kept.ite (fun _ => State.cause_kept (State.corrects_kept ?_ _ _) _) (fun _ => ?_)
  all_goals exact State.notePart_kept (State.accountExts_kept (State.opWrite_kept (State.opWrite_kept
      (State.opWrite_kept (State.outlierOvf_kept hx _ _ _ _) _ _ _) _ _ _) _ _ _) _) _

theorem State.quantArrays_kept {base s : State} (hk : Kept sk base s) (d : Desc) (q : QCfg) (cols : List (List Word)) (ns : List Nat)
    (part : Nat) (ov : Bool) : KeptN sk base (State.quantArrays s d q cols ns part ov) := by
  induction ns generalizing s part ov with
  | nil => exact KeptN.pure hk
  | cons n r ih => exact KeptN.bind (State.quantArray_kept hk _ _ _ _ _) (fun a ha => ih ha _ _)

theorem State.quantiseRun_kept {base s : State} (hk : Kept sk base s) (d : Desc) (rebuild : Bool) :
    KeptN sk base (State.quantiseRun s d rebuild) := by
  unfold State.quantiseRun
  exact KeptN.skip (fun ws => State.quantArrays_kept hk _ _ _ _ _ _)

theorem State.quantiseOp_kept {base s : State} (hk : Kept sk base s) (d : Desc) : Kept sk base (State.quantiseOp s d) := by
  unfold State.quantiseOp
  refine Kept.ite (fun _ => ?_) (fun _ => hk)
  have h1 := State.applyFx_kept (State.quantiseRun_kept hk d false fx0) ((State.quantiseRun s d false).run fx0).2 d.num
  exact State.noteSlot_kept (Kept.ite (fun _ => State.scaleOvf_kept h1 _ _) (fun _ => h1)) _

theorem execQuantise_kept (s : State) (d : Desc) (e : Env) : KeptO sk s (execQuantise d e s) :=
  State.runDesc_kept (Kept.refl s) _ _ _ _ (fun _ h => State.quantiseOp_kept h _)

/-! ### Links -/

theorem State.putPort_kept {base s : State} (hk : Kept sk base s) (p : Nat) (x : Port) : Kept sk base (State.putPort s p x) := by
  unfold State.putPort
  try dsimp only
  repeat' first
    | with_reducible assumption | with_reducible apply State.setPort_kept | (intro _ _)
    | with_reducible refine Kept.ite (fun _ => ?_) (fun _ => ?_) | split
    | with_reducible refine Kept.mk_same ?_ rfl rfl rfl rfl rfl rfl rfl rfl rfl rfl rfl rfl

theorem State.setDowns_kept {base s : State} (hk : Kept sk base s) (devs : List Nat) (l : List (Nat × Nat)) :
    Kept sk base (State.setDowns s devs l) := by
  unfold State.setDowns
  try dsimp only
  repeat' first
    | with_reducible assumption | (intro _ _) | with_reducible refine Kept.ite (fun _ => ?_) (fun _ => ?_) | split
    | with_reducible refine Kept.mk_same ?_ rfl rfl rfl rfl rfl rfl rfl rfl rfl rfl rfl rfl

theorem State.rxTake_kept {base s : State} (hk : Kept sk base s) (port : Option Nat) (vc n : Nat) :
    Kept sk base (State.rxTake s port vc n) := by
  unfold State.rxTake
  try dsimp only
  repeat' first
    | with_reducible assumption | with_reducible apply State.setPort_kept | (intro _ _)
    | with_reducible refine Kept.ite (fun _ => ?_) (fun _ => ?_) | split
    | with_reducible refine Kept.mk_same ?_ rfl rfl rfl rfl rfl rfl rfl rfl rfl rfl rfl rfl

theorem State.rxFree_kept {base s : State} (hk : Kept sk base s) (port : Option Nat) (vc n : Nat) :
    Kept sk base (State.rxFree s port vc n) := by
  unfold State.rxFree
  try dsimp only
  repeat' first
    | with_reducible assumption | with_reducible apply State.setPort_kept | (intro _ _)
    | with_reducible refine Kept.ite (fun _ => ?_) (fun _ => ?_) | split
    | with_reducible refine Kept.mk_same ?_ rfl rfl rfl rfl rfl rfl rfl rfl rfl rfl rfl rfl

theorem State.dropPacket_kept {base s : State} (hk : Kept sk base s) (p : LinkPkt) : Kept sk base (State.dropPacket s p) := by
  unfold State.dropPacket
  try dsimp only
  repeat' first
    | with_reducible assumption | with_reducible apply State.count_kept | with_reducible apply State.rxFree_kept | (intro _ _)
    | with_reducible refine Kept.ite (fun _ => ?_) (fun _ => ?_) | split
    | with_reducible refine Kept.mk_same ?_ rfl rfl rfl rfl rfl rfl rfl rfl rfl rfl rfl rfl

theorem State.dropPackets_kept {base s : State} (hk : Kept sk base s) (l : List (LinkPkt × Nat)) :
    Kept sk base (State.dropPackets s l) := by
  induction l generalizing s with
  | nil =>
    unfold State.dropPackets
    try dsimp only
    repeat' first
      | with_reducible assumption | with_reducible apply State.dropPacket_kept | (intro _ _)
      | with_reducible refine Kept.ite (fun _ => ?_) (fun _ => ?_) | split
      | with_reducible refine Kept.mk_same ?_ rfl rfl rfl rfl rfl rfl rfl rfl rfl rfl rfl rfl
  | cons x r ih =>
    unfold State.dropPackets
    try dsimp only
    repeat' first
      | with_reducible assumption | with_reducible apply ih | with_reducible apply State.dropPacket_kept | (intro _ _)
      | with_reducible refine Kept.ite (fun _ => ?_) (fun _ => ?_) | split
      | with_reducible refine Kept.mk_same ?_ rfl rfl rfl rfl rfl rfl rfl rfl rfl rfl rfl rfl

theorem State.dropWaiting_kept {base s : State} (hk : Kept sk base s) (port : Nat) : Kept sk base (State.dropWaiting s port) := by
  unfold State.dropWaiting
  try dsimp only
  repeat' first
    | with_reducible assumption | with_reducible apply State.dropPackets_kept | (intro _ _)
    | with_reducible refine Kept.ite (fun _ => ?_) (fun _ => ?_) | split
    | with_reducible refine Kept.mk_same ?_ rfl rfl rfl rfl rfl rfl rfl rfl rfl rfl rfl rfl

theorem State.sendOut_kept {base s : State} (hk : Kept sk base s) (k : LinkPkt × Nat) : Kept sk base (State.sendOut s k) := by
  unfold State.sendOut
  try dsimp only
  repeat' first
    | with_reducible assumption | with_reducible apply State.setPort_kept | with_reducible apply State.rxFree_kept | (intro _ _)
    | with_reducible refine Kept.ite (fun _ => ?_) (fun _ => ?_) | split
    | with_reducible refine Kept.mk_same ?_ rfl rfl rfl rfl rfl rfl rfl rfl rfl rfl rfl rfl

theorem State.pumpFor_kept {base s : State} (hk : Kept sk base s) (fuel port : Nat) : Kept sk base (State.pumpFor s fuel port) := by
  induction fuel generalizing s port with
  | zero =>
    unfold State.pumpFor
    try dsimp only
    repeat' first
      | with_reducible assumption | with_reducible apply State.sendOut_kept | (intro _ _)
      | with_reducible refine Kept.ite (fun _ => ?_) (fun _ => ?_) | split
      | with_reducible refine Kept.mk_same ?_ rfl rfl rfl rfl rfl rfl rfl rfl rfl rfl rfl rfl
  | succ n ih =>
    unfold State.pumpFor
    try dsimp only
    repeat' first
      | with_reducible assumption | with_reducible apply ih | with_reducible apply State.sendOut_kept | (intro _ _)
      | with_reducible refine Kept.ite (fun _ => ?_) (fun _ => ?_) | split
      | with_reducible refine Kept.mk_same ?_ rfl rfl rfl rfl rfl rfl rfl rfl rfl rfl rfl rfl

theorem State.pump_kept {base s : State} (hk : Kept sk base s) (port : Nat) : Kept sk base (State.pump s port) := by
  unfold State.pump
  try dsimp only
  repeat' first
    | with_reducible assumption | with_reducible apply State.pumpFor_kept | (intro _ _)
    | with_reducible refine Kept.ite (fun _ => ?_) (fun _ => ?_) | split
    | with_reducible refine Kept.mk_same ?_ rfl rfl rfl rfl rfl rfl rfl rfl rfl rfl rfl rfl

theorem execCreditReturn_kept (s : State) (port vc bytes : Nat) : KeptO sk s (execCreditReturn port vc bytes s) := by
  have hk : Kept sk s s := Kept.refl s
  unfold execCreditReturn
  try dsimp only
  repeat' first
    | with_reducible assumption | with_reducible apply KeptO.next | with_reducible exact KeptO.fault _
    | with_reducible apply State.setPort_kept | with_reducible apply State.pump_kept | (intro _ _)
    | with_reducible refine Kept.ite (fun _ => ?_) (fun _ => ?_) | split
    | with_reducible refine Kept.mk_same ?_ rfl rfl rfl rfl rfl rfl rfl rfl rfl rfl rfl rfl

theorem State.enqueue_kept {base s : State} (hk : Kept sk base s) (p : LinkPkt) (port : Nat) : Kept sk base (State.enqueue s p port) := by
  unfold State.enqueue
  try dsimp only
  repeat' first
    | with_reducible assumption | with_reducible apply State.pump_kept | (intro _ _)
    | with_reducible refine Kept.ite (fun _ => ?_) (fun _ => ?_) | split
    | with_reducible refine Kept.mk_same ?_ rfl rfl rfl rfl rfl rfl rfl rfl rfl rfl rfl rfl

theorem State.routeBy_kept {base s : State} (hk : Kept sk base s) (r : Route) (p : LinkPkt) : Kept sk base (State.routeBy s r p) := by
  unfold State.routeBy
  try dsimp only
  repeat' first
    | with_reducible assumption | with_reducible apply State.dropPacket_kept | with_reducible apply State.enqueue_kept | (intro _ _)
    | with_reducible refine Kept.ite (fun _ => ?_) (fun _ => ?_) | split
    | with_reducible refine Kept.mk_same ?_ rfl rfl rfl rfl rfl rfl rfl rfl rfl rfl rfl rfl

theorem State.deliver_kept {base s : State} (hk : Kept sk base s) (p : LinkPkt) : Kept sk base (State.deliver s p) := by
  unfold State.deliver
  try dsimp only
  repeat' first
    | with_reducible assumption | with_reducible apply State.rxFree_kept | (intro _ _)
    | with_reducible refine Kept.ite (fun _ => ?_) (fun _ => ?_) | split
    | with_reducible refine Kept.mk_same ?_ rfl rfl rfl rfl rfl rfl rfl rfl rfl rfl rfl rfl

theorem State.route_kept {base s : State} (hk : Kept sk base s) (p : LinkPkt) : Kept sk base (State.route s p) := by
  unfold State.route
  try dsimp only
  repeat' first
    | with_reducible assumption | with_reducible apply State.dropPacket_kept | with_reducible apply State.routeBy_kept
    | with_reducible apply State.deliver_kept | (intro _ _) | with_reducible refine Kept.ite (fun _ => ?_) (fun _ => ?_) | split
    | with_reducible refine Kept.mk_same ?_ rfl rfl rfl rfl rfl rfl rfl rfl rfl rfl rfl rfl

theorem State.keep_kept {base s : State} (hk : Kept sk base s) (p : LinkPkt) : Kept sk base (State.keep s p) := by
  unfold State.keep
  try dsimp only
  repeat' first
    | with_reducible assumption | (intro _ _) | with_reducible refine Kept.ite (fun _ => ?_) (fun _ => ?_) | split
    | with_reducible refine Kept.mk_same ?_ rfl rfl rfl rfl rfl rfl rfl rfl rfl rfl rfl rfl

theorem State.handTo_kept {base s : State} (hk : Kept sk base s) (port : Nat) (p : LinkPkt) : Kept sk base (State.handTo s port p) := by
  unfold State.handTo
  try dsimp only
  repeat' first
    | with_reducible assumption | with_reducible apply State.enqueue_kept | with_reducible apply State.route_kept
    | with_reducible apply State.keep_kept | (intro _ _) | with_reducible refine Kept.ite (fun _ => ?_) (fun _ => ?_) | split
    | with_reducible refine Kept.mk_same ?_ rfl rfl rfl rfl rfl rfl rfl rfl rfl rfl rfl rfl

theorem execPacketRoute_kept (s : State) (p : LinkPkt) : KeptO sk s (execPacketRoute p s) := by
  have hk : Kept sk s s := Kept.refl s
  unfold execPacketRoute
  try dsimp only
  repeat' first
    | with_reducible assumption | with_reducible apply KeptO.next | with_reducible exact KeptO.fault _
    | with_reducible apply State.sealOk_kept | with_reducible apply State.rxTake_kept | with_reducible apply State.route_kept
    | with_reducible apply State.keep_kept | (intro _ _) | with_reducible refine Kept.ite (fun _ => ?_) (fun _ => ?_) | split
    | with_reducible refine Kept.mk_same ?_ rfl rfl rfl rfl rfl rfl rfl rfl rfl rfl rfl rfl

theorem execE2eResendTimeout_kept (s : State) (id : Nat) : KeptO sk s (execE2eResendTimeout id s) := by
  have hk : Kept sk s s := Kept.refl s
  unfold execE2eResendTimeout
  try dsimp only
  repeat' first
    | with_reducible assumption | with_reducible apply KeptO.next | with_reducible exact KeptO.fault _
    | with_reducible apply State.route_kept | (intro _ _) | with_reducible refine Kept.ite (fun _ => ?_) (fun _ => ?_) | split
    | with_reducible refine Kept.mk_same ?_ rfl rfl rfl rfl rfl rfl rfl rfl rfl rfl rfl rfl

theorem execEndToEndAcknowledgement_kept (s : State) (id : Nat) : KeptO sk s (execEndToEndAcknowledgement id s) := by
  have hk : Kept sk s s := Kept.refl s
  unfold execEndToEndAcknowledgement
  try dsimp only
  repeat' first
    | with_reducible assumption | with_reducible apply KeptO.next | with_reducible exact KeptO.fault _ | (intro _ _)
    | with_reducible refine Kept.ite (fun _ => ?_) (fun _ => ?_) | split
    | with_reducible refine Kept.mk_same ?_ rfl rfl rfl rfl rfl rfl rfl rfl rfl rfl rfl rfl

theorem State.sendTable_kept {base s : State} (hk : Kept sk base s) (r : Route) (gen beat : Nat) (l : List Nat) :
    Kept sk base (State.sendTable s r gen beat l) := by
  induction l generalizing s r gen beat with
  | nil =>
    unfold State.sendTable
    try dsimp only
    repeat' first
      | with_reducible assumption | with_reducible apply State.route_kept | with_reducible apply State.keep_kept | (intro _ _)
      | with_reducible refine Kept.ite (fun _ => ?_) (fun _ => ?_) | split
      | with_reducible refine Kept.mk_same ?_ rfl rfl rfl rfl rfl rfl rfl rfl rfl rfl rfl rfl
  | cons x r ih =>
    unfold State.sendTable
    try dsimp only
    repeat' first
      | with_reducible assumption | with_reducible apply ih | with_reducible apply State.route_kept | with_reducible apply State.keep_kept
      | (intro _ _) | with_reducible refine Kept.ite (fun _ => ?_) (fun _ => ?_) | split
      | with_reducible refine Kept.mk_same ?_ rfl rfl rfl rfl rfl rfl rfl rfl rfl rfl rfl rfl

theorem State.rebuild_kept {base s : State} (hk : Kept sk base s) : Kept sk base (State.rebuild s) := by
  unfold State.rebuild
  try dsimp only
  repeat' first
    | with_reducible assumption | with_reducible apply State.sendTable_kept | (intro _ _)
    | with_reducible refine Kept.ite (fun _ => ?_) (fun _ => ?_) | split
    | with_reducible refine Kept.mk_same ?_ rfl rfl rfl rfl rfl rfl rfl rfl rfl rfl rfl rfl

theorem State.noteDowns_kept {base s : State} (hk : Kept sk base s) : Kept sk base (State.noteDowns s) := by
  unfold State.noteDowns
  try dsimp only
  repeat' first
    | with_reducible assumption | with_reducible apply State.setDowns_kept | with_reducible apply State.rebuild_kept | (intro _ _)
    | with_reducible refine Kept.ite (fun _ => ?_) (fun _ => ?_) | split
    | with_reducible refine Kept.mk_same ?_ rfl rfl rfl rfl rfl rfl rfl rfl rfl rfl rfl rfl

theorem execRouteTableReceive_kept (s : State) (gen beat : Nat) (dead : List Nat) (down : List (Nat × Nat)) :
    KeptO sk s (execRouteTableReceive gen beat dead down s) := by
  have hk : Kept sk s s := Kept.refl s
  unfold execRouteTableReceive
  try dsimp only
  repeat' first
    | with_reducible assumption | with_reducible apply KeptO.next | with_reducible exact KeptO.fault _ | (intro _ _)
    | with_reducible refine Kept.ite (fun _ => ?_) (fun _ => ?_) | split
    | with_reducible refine Kept.mk_same ?_ rfl rfl rfl rfl rfl rfl rfl rfl rfl rfl rfl rfl

theorem State.takeDown_kept {base s : State} (hk : Kept sk base s) (p : Nat) (x : Port) : Kept sk base (State.takeDown s p x) := by
  unfold State.takeDown
  try dsimp only
  repeat' first
    | with_reducible assumption | with_reducible apply State.putPort_kept | with_reducible apply State.dropWaiting_kept
    | with_reducible apply State.noteDowns_kept | (intro _ _) | with_reducible refine Kept.ite (fun _ => ?_) (fun _ => ?_) | split
    | with_reducible refine Kept.mk_same ?_ rfl rfl rfl rfl rfl rfl rfl rfl rfl rfl rfl rfl

theorem State.portDown_kept {base s : State} (hk : Kept sk base s) (p : Nat) : Kept sk base (State.portDown s p) := by
  unfold State.portDown
  try dsimp only
  repeat' first
    | with_reducible assumption | with_reducible apply State.raiseU_kept | with_reducible apply State.takeDown_kept | (intro _ _)
    | with_reducible refine Kept.ite (fun _ => ?_) (fun _ => ?_) | split
    | with_reducible refine Kept.mk_same ?_ rfl rfl rfl rfl rfl rfl rfl rfl rfl rfl rfl rfl

theorem State.startTraining_kept {base s : State} (hk : Kept sk base s) (p : Nat) : Kept sk base (State.startTraining s p) := by
  unfold State.startTraining
  try dsimp only
  repeat' first
    | with_reducible assumption | with_reducible apply State.putPort_kept | with_reducible apply State.dropWaiting_kept
    | with_reducible apply State.noteDowns_kept | (intro _ _) | with_reducible refine Kept.ite (fun _ => ?_) (fun _ => ?_) | split
    | with_reducible refine Kept.mk_same ?_ rfl rfl rfl rfl rfl rfl rfl rfl rfl rfl rfl rfl

theorem execCablePresentChange_kept (s : State) (port : Nat) (present : Bool) : KeptO sk s (execCablePresentChange port present s) := by
  have hk : Kept sk s s := Kept.refl s
  unfold execCablePresentChange
  try dsimp only
  repeat' first
    | with_reducible assumption | with_reducible apply KeptO.next | with_reducible exact KeptO.fault _
    | with_reducible apply State.setPort_kept | with_reducible apply State.startTraining_kept | (intro _ _)
    | with_reducible refine Kept.ite (fun _ => ?_) (fun _ => ?_) | split
    | with_reducible refine Kept.mk_same ?_ rfl rfl rfl rfl rfl rfl rfl rfl rfl rfl rfl rfl

theorem execPortRetrain_kept (s : State) (port : Nat) : KeptO sk s (execPortRetrain port s) := by
  have hk : Kept sk s s := Kept.refl s
  unfold execPortRetrain
  try dsimp only
  repeat' first
    | with_reducible assumption | with_reducible apply KeptO.next | with_reducible exact KeptO.fault _
    | with_reducible apply State.setPort_kept | with_reducible apply State.startTraining_kept | (intro _ _)
    | with_reducible refine Kept.ite (fun _ => ?_) (fun _ => ?_) | split
    | with_reducible refine Kept.mk_same ?_ rfl rfl rfl rfl rfl rfl rfl rfl rfl rfl rfl rfl

theorem execPortTrainingDone_kept (s : State) (port : Nat) (o : TrainObs) : KeptO sk s (execPortTrainingDone port o s) := by
  have hk : Kept sk s s := Kept.refl s
  unfold execPortTrainingDone
  try dsimp only
  repeat' first
    | with_reducible assumption | with_reducible apply KeptO.next | with_reducible exact KeptO.fault _
    | with_reducible apply State.raiseU_kept | with_reducible apply State.setPort_kept | with_reducible apply State.putPort_kept
    | with_reducible apply State.noteDowns_kept | with_reducible apply State.portDown_kept | with_reducible apply State.startTraining_kept
    | (intro _ _) | with_reducible refine Kept.ite (fun _ => ?_) (fun _ => ?_) | split
    | with_reducible refine Kept.mk_same ?_ rfl rfl rfl rfl rfl rfl rfl rfl rfl rfl rfl rfl

theorem State.laneOut_kept {base s : State} (hk : Kept sk base s) (port lane : Nat) : Kept sk base (State.laneOut s port lane) := by
  unfold State.laneOut
  try dsimp only
  repeat' first
    | with_reducible assumption | with_reducible apply State.setPort_kept | with_reducible apply State.portDown_kept | (intro _ _)
    | with_reducible refine Kept.ite (fun _ => ?_) (fun _ => ?_) | split
    | with_reducible refine Kept.mk_same ?_ rfl rfl rfl rfl rfl rfl rfl rfl rfl rfl rfl rfl

theorem State.laneDrop_kept {base s : State} (hk : Kept sk base s) (port lane : Nat) : Kept sk base (State.laneDrop s port lane) := by
  unfold State.laneDrop
  try dsimp only
  repeat' first
    | with_reducible assumption | with_reducible apply State.count_kept | with_reducible apply State.raiseU_kept
    | with_reducible apply State.setPort_kept | with_reducible apply State.chargeErr_kept | with_reducible apply State.portDown_kept
    | (intro _ _) | with_reducible refine Kept.ite (fun _ => ?_) (fun _ => ?_) | split
    | with_reducible refine Kept.mk_same ?_ rfl rfl rfl rfl rfl rfl rfl rfl rfl rfl rfl rfl

theorem execLaneDrop_kept (s : State) (port lane : Nat) : KeptO sk s (execLaneDrop port lane s) := by
  have hk : Kept sk s s := Kept.refl s
  unfold execLaneDrop
  try dsimp only
  repeat' first
    | with_reducible assumption | with_reducible apply KeptO.next | with_reducible exact KeptO.fault _
    | with_reducible apply State.laneDrop_kept | (intro _ _) | with_reducible refine Kept.ite (fun _ => ?_) (fun _ => ?_) | split
    | with_reducible refine Kept.mk_same ?_ rfl rfl rfl rfl rfl rfl rfl rfl rfl rfl rfl rfl

theorem execLaneRetrain_kept (s : State) (port lane : Nat) (good : Bool) : KeptO sk s (execLaneRetrain port lane good s) := by
  have hk : Kept sk s s := Kept.refl s
  unfold execLaneRetrain
  try dsimp only
  repeat' first
    | with_reducible assumption | with_reducible apply KeptO.next | with_reducible exact KeptO.fault _
    | with_reducible apply State.setPort_kept | with_reducible apply State.dtFailure_kept | (intro _ _)
    | with_reducible refine Kept.ite (fun _ => ?_) (fun _ => ?_) | split
    | with_reducible refine Kept.mk_same ?_ rfl rfl rfl rfl rfl rfl rfl rfl rfl rfl rfl rfl

theorem State.askResend_kept {base s : State} (hk : Kept sk base s) (port seq : Nat) : Kept sk base (State.askResend s port seq) := by
  unfold State.askResend
  try dsimp only
  repeat' first
    | with_reducible assumption | with_reducible apply State.count_kept | with_reducible apply State.setPort_kept | (intro _ _)
    | with_reducible refine Kept.ite (fun _ => ?_) (fun _ => ?_) | split
    | with_reducible refine Kept.mk_same ?_ rfl rfl rfl rfl rfl rfl rfl rfl rfl rfl rfl rfl

theorem execRetryBlockFail_kept (s : State) (port seq : Nat) (lane : Option Nat) (uncorr : Nat) (data : List Byte) (crc : Word) :
    KeptO sk s (execRetryBlockFail port seq lane uncorr data crc s) := by
  have hk : Kept sk s s := Kept.refl s
  unfold execRetryBlockFail
  try dsimp only
  repeat' first
    | with_reducible assumption | with_reducible apply KeptO.next | with_reducible exact KeptO.fault _
    | with_reducible apply State.count_kept | with_reducible apply State.setPort_kept | with_reducible apply State.chargeCe_kept
    | with_reducible apply State.laneDrop_kept | with_reducible apply State.askResend_kept | (intro _ _)
    | with_reducible refine Kept.ite (fun _ => ?_) (fun _ => ?_) | split
    | with_reducible refine Kept.mk_same ?_ rfl rfl rfl rfl rfl rfl rfl rfl rfl rfl rfl rfl

theorem execLinkResendRequest_kept (s : State) (port seq : Nat) : KeptO sk s (execLinkResendRequest port seq s) := by
  have hk : Kept sk s s := Kept.refl s
  unfold execLinkResendRequest
  try dsimp only
  repeat' first
    | with_reducible assumption | with_reducible apply KeptO.next | with_reducible exact KeptO.fault _
    | with_reducible apply State.setPort_kept | (intro _ _) | with_reducible refine Kept.ite (fun _ => ?_) (fun _ => ?_) | split
    | with_reducible refine Kept.mk_same ?_ rfl rfl rfl rfl rfl rfl rfl rfl rfl rfl rfl rfl

theorem execRetryBlockAcknowledgement_kept (s : State) (port seq corr : Nat) :
    KeptO sk s (execRetryBlockAcknowledgement port seq corr s) := by
  have hk : Kept sk s s := Kept.refl s
  unfold execRetryBlockAcknowledgement
  try dsimp only
  repeat' first
    | with_reducible assumption | with_reducible apply KeptO.next | with_reducible exact KeptO.fault _
    | with_reducible apply State.count_kept | with_reducible apply State.setPort_kept | with_reducible apply State.pump_kept | (intro _ _)
    | with_reducible refine Kept.ite (fun _ => ?_) (fun _ => ?_) | split
    | with_reducible refine Kept.mk_same ?_ rfl rfl rfl rfl rfl rfl rfl rfl rfl rfl rfl rfl

theorem execSealTagFail_kept (s : State) (port seq : Nat) : KeptO sk s (execSealTagFail port seq s) := by
  have hk : Kept sk s s := Kept.refl s
  unfold execSealTagFail
  try dsimp only
  repeat' first
    | with_reducible assumption | with_reducible apply KeptO.next | with_reducible exact KeptO.fault _
    | with_reducible apply State.count_kept | with_reducible apply State.raiseU_kept | with_reducible apply State.setPort_kept
    | with_reducible apply State.takeDown_kept | with_reducible apply State.askResend_kept | (intro _ _)
    | with_reducible refine Kept.ite (fun _ => ?_) (fun _ => ?_) | split
    | with_reducible refine Kept.mk_same ?_ rfl rfl rfl rfl rfl rfl rfl rfl rfl rfl rfl rfl

/-! ### Stash -/

theorem Kept.heads {base s : State} (hk : Kept sk base s) (m : base.memOk) : headsOk s.stk := (hk.mem m).2.2.2.2.1

theorem State.stkOf_wf {s : State} (h : headsOk s.stk) (c : Nat) : Mem.wf (s.stkOf c).head := by
  unfold State.stkOf Tab.get
  cases h1 : Tab.find s.stk c with
  | none => exact Mem.wf_nil
  | some k => exact h _ (Tab.find_mem _ _ _ h1)

theorem State.setStk_kept {base s : State} (hk : Kept sk base s) (c : Nat) (k : Stk) (hw : base.memOk → Mem.wf k.head) :
    Kept sk base (State.setStk s c k) :=
  ⟨⟨hk.queue, fun m => have h := hk.mem m; ⟨h.1, h.2.1, h.2.2.1, h.2.2.2.1, headsOk_put _ _ _ h.2.2.2.2.1 (hw m), h.2.2.2.2.2⟩,
    hk.isSealed, hk.rollback, hk.hours⟩, hk.alarm, hk.sticky, hk.lockP, hk.lockS, hk.keys, hk.owner, hk.first⟩

theorem State.noteHigh_kept {base s : State} (hk : Kept sk base s) (c : Nat) : Kept sk base (State.noteHigh s c) := by
  have h1 (b : Bool) : Kept sk base (s.setStk c { s.stkOf c with high := b }) :=
    State.setStk_kept hk _ _ (fun m => State.stkOf_wf (hk.heads m) c)
  unfold State.noteHigh
  exact Kept.ite (fun _ => Kept.ite (fun _ => hk) (fun _ => State.raise_kept (h1 _) _ _))
    (fun _ => Kept.ite (fun _ => h1 _) (fun _ => hk))

theorem Stk.cut_wf (k : Stk) (h : Mem.wf k.head) : Mem.wf k.cut.head := Mem.wf_filter _ _ h

theorem State.fetchStk_wf (s : State) (c : Nat) (k : Stk) (off : Nat) (h : Mem.wf k.head) : Mem.wf (s.fetchStk c k off).head := by
  unfold State.fetchStk
  split
  · exact Stk.cut_wf _ (Mem.wf_write _ _ _ h)
  · exact Stk.cut_wf _ h

theorem State.settleStk_kept {base s : State} (hk : Kept sk base s) (c : Nat) (k : Stk) (hw : base.memOk → Mem.wf k.head) :
    Kept sk base (State.settleStk s c k) :=
  State.setStk_kept hk _ _ (fun m => State.fetchStk_wf _ _ _ _ (hw m))

theorem State.decideThin_kept {base s : State} (hk : Kept sk base s) (mb layer : Nat) : Kept sk base (State.decideThin s mb layer) := by
  unfold State.decideThin
  try dsimp only
  repeat' first
    | with_reducible assumption | with_reducible apply State.count_kept | with_reducible apply State.raise_kept
    | with_reducible apply State.mark_kept | (intro _ _) | with_reducible refine Kept.ite (fun _ => ?_) (fun _ => ?_) | split
    | with_reducible refine Kept.mk_same ?_ rfl rfl rfl rfl rfl rfl rfl rfl rfl rfl rfl rfl

theorem State.dropFrom_kept {base s : State} (hk : Kept sk base s) (c : Nat) (p : StkFrame → Bool) :
    Kept sk base (State.dropFrom s c p) := by
  have h1 (k : Stk) (h : k.head = (s.stkOf c).head) : Kept sk base ((s.settleStk c k).noteHigh c) :=
    State.noteHigh_kept (State.settleStk_kept hk _ _ (fun m => h ▸ State.stkOf_wf (hk.heads m) c)) _
  unfold State.dropFrom
  extract_lets k
  exact Kept.ite (fun _ => h1 _ rfl) (fun _ => hk)

theorem State.dropFrames_kept {base s : State} (hk : Kept sk base s) (p : StkFrame → Bool) : Kept sk base (State.dropFrames s p) :=
  Kept.foldl _ (fun _ _ h => State.dropFrom_kept h _ _) _ _ hk

theorem State.addSplit_kept {base s : State} (hk : Kept sk base s) (mb : Nat) : Kept sk base (State.addSplit s mb) := by
  unfold State.addSplit
  try dsimp only
  repeat' first
    | with_reducible assumption | with_reducible apply State.count_kept | (intro _ _)
    | with_reducible refine Kept.ite (fun _ => ?_) (fun _ => ?_) | split
    | with_reducible refine Kept.mk_same ?_ rfl rfl rfl rfl rfl rfl rfl rfl rfl rfl rfl rfl

theorem State.nextPart_kept {base s : State} (hk : Kept sk base s) (mb : Nat) : Kept sk base (State.nextPart s mb) := by
  unfold State.nextPart
  try dsimp only
  repeat' first
    | with_reducible assumption | (intro _ _) | with_reducible refine Kept.ite (fun _ => ?_) (fun _ => ?_) | split
    | with_reducible refine Kept.mk_same ?_ rfl rfl rfl rfl rfl rfl rfl rfl rfl rfl rfl rfl

theorem State.closeHalf_kept {base s : State} (hk : Kept sk base s) (mb : Nat) : Kept sk base (State.closeHalf s mb) := by
  unfold State.closeHalf
  try dsimp only
  repeat' first
    | with_reducible assumption | (intro _ _) | with_reducible refine Kept.ite (fun _ => ?_) (fun _ => ?_) | split
    | with_reducible refine Kept.mk_same ?_ rfl rfl rfl rfl rfl rfl rfl rfl rfl rfl rfl rfl

theorem State.finishAll_kept {base s : State} (hk : Kept sk base s) (l : List Nat) : Kept sk base (State.finishAll s l) := by
  induction l generalizing s with
  | nil =>
    unfold State.finishAll
    try dsimp only
    repeat' first
      | with_reducible assumption | with_reducible apply State.finish_kept | (intro _ _)
      | with_reducible refine Kept.ite (fun _ => ?_) (fun _ => ?_) | split
      | with_reducible refine Kept.mk_same ?_ rfl rfl rfl rfl rfl rfl rfl rfl rfl rfl rfl rfl
  | cons x r ih =>
    unfold State.finishAll
    try dsimp only
    repeat' first
      | with_reducible assumption | with_reducible apply ih | with_reducible apply State.finish_kept | (intro _ _)
      | with_reducible refine Kept.ite (fun _ => ?_) (fun _ => ?_) | split
      | with_reducible refine Kept.mk_same ?_ rfl rfl rfl rfl rfl rfl rfl rfl rfl rfl rfl rfl

theorem State.dropMb_kept {base s : State} (hk : Kept sk base s) (mb : Nat) : Kept sk base (State.dropMb s mb) := by
  unfold State.dropMb
  extract_lets s1 k s2' s2
  have h1 : Kept sk base s1 := State.dropFrames_kept hk _
  clear_value s1
  have h2 : Kept sk base s2 := Kept.ite (fun _ => State.closeHalf_kept h1 _)
    (fun _ => Kept.mk_same h1 rfl rfl rfl rfl rfl rfl rfl rfl rfl rfl rfl rfl)
  exact State.finishAll_kept h2 _

theorem State.takeReserve_kept {base s : State} (hk : Kept sk base s) (mb depth : Nat) : Kept sk base (State.takeReserve s mb depth) := by
  unfold State.takeReserve
  try dsimp only
  repeat' first
    | with_reducible assumption | with_reducible apply State.cause_kept | (intro _ _)
    | with_reducible refine Kept.ite (fun _ => ?_) (fun _ => ?_) | split
    | with_reducible refine Kept.mk_same ?_ rfl rfl rfl rfl rfl rfl rfl rfl rfl rfl rfl rfl

theorem State.stashFull_kept {base s : State} (hk : Kept sk base s) (d : Desc) (c : Nat) : Kept sk base (State.stashFull s d c) := by
  unfold State.stashFull
  extract_lets mb depth fatal fill s1
  have h1 : Kept sk base s1 := State.dropMb_kept (State.raise_kept hk _ _) _
  exact Kept.ite (fun _ => State.fail_kept h1 _) (fun _ => State.drainMb_kept (State.takeReserve_kept (State.addSplit_kept h1 _) _ _) _)

theorem State.pushOp_kept {base s : State} (hk : Kept sk base s) (d : Desc) (bad : Bool) : Kept sk base (State.pushOp s d bad) := by
  unfold State.pushOp
  extract_lets c s1 bs k base' r s2
  have h1 : Kept sk base s1 := State.decideThin_kept hk _ _
  refine Kept.ite (fun _ => hk) (fun _ => Kept.ite (fun _ => h1) (fun _ => Kept.ite (fun _ => State.stashFull_kept h1 _ _) (fun _ => ?_)))
  have h2 : Kept sk base s2 :=
    State.noteHigh_kept (State.setStk_kept h1 _ _ (fun m => Mem.wf_write _ _ _ (State.stkOf_wf (h1.heads m) c))) _
  exact Kept.ite (fun _ => State.draw_kept (Kept.ite (fun _ => State.nanResult_kept h2 _) (fun _ => h2)) _) (fun _ => h2)

theorem execPush_kept (s : State) (d : Desc) (e : Env) : KeptO sk s (execPush d e s) := by
  have hk : Kept sk s s := Kept.refl s
  unfold execPush
  try dsimp only
  repeat' first
    | with_reducible assumption | with_reducible apply KeptO.next | with_reducible exact KeptO.fault _
    | with_reducible apply State.storeUe_kept | with_reducible apply State.runDesc_kept | with_reducible apply State.pushOp_kept
    | (intro _ _) | with_reducible refine Kept.ite (fun _ => ?_) (fun _ => ?_) | split
    | with_reducible refine Kept.mk_same ?_ rfl rfl rfl rfl rfl rfl rfl rfl rfl rfl rfl rfl

theorem State.stashOrder_kept {base s : State} (hk : Kept sk base s) : Kept sk base (State.stashOrder s) := by
  unfold State.stashOrder
  try dsimp only
  repeat' first
    | with_reducible assumption | with_reducible apply State.raise_kept | with_reducible apply State.cause_kept | (intro _ _)
    | with_reducible refine Kept.ite (fun _ => ?_) (fun _ => ?_) | split
    | with_reducible refine Kept.mk_same ?_ rfl rfl rfl rfl rfl rfl rfl rfl rfl rfl rfl rfl

theorem State.noteRecomp_kept {base s : State} (hk : Kept sk base s) (inst seg : Nat) : Kept sk base (State.noteRecomp s inst seg) := by
  unfold State.noteRecomp
  try dsimp only
  repeat' first
    | with_reducible assumption | with_reducible apply State.count_kept | with_reducible apply State.mark_kept | (intro _ _)
    | with_reducible refine Kept.ite (fun _ => ?_) (fun _ => ?_) | split
    | with_reducible refine Kept.mk_same ?_ rfl rfl rfl rfl rfl rfl rfl rfl rfl rfl rfl rfl

theorem State.stkLoads_kept {base s : State} (hk : Kept sk base s) (r : Nat) (runs : List (Nat × Nat)) :
    Kept sk base (State.stkLoads s r runs) := by
  induction runs generalizing s r with
  | nil =>
    unfold State.stkLoads
    try dsimp only
    repeat' first
      | with_reducible assumption | with_reducible apply State.account_kept | (intro _ _)
      | with_reducible refine Kept.ite (fun _ => ?_) (fun _ => ?_) | split
      | with_reducible refine Kept.mk_same ?_ rfl rfl rfl rfl rfl rfl rfl rfl rfl rfl rfl rfl
  | cons x r ih =>
    unfold State.stkLoads
    try dsimp only
    repeat' first
      | with_reducible assumption | with_reducible apply ih | with_reducible apply State.account_kept | (intro _ _)
      | with_reducible refine Kept.ite (fun _ => ?_) (fun _ => ?_) | split
      | with_reducible refine Kept.mk_same ?_ rfl rfl rfl rfl rfl rfl rfl rfl rfl rfl rfl rfl

theorem State.loadRecord_kept {base s : State} (hk : Kept sk base s) (d : Desc) (c off n : Nat) :
    Kept sk base (State.loadRecord s d c off n).1 := by
  unfold State.loadRecord
  try dsimp only
  repeat' first
    | with_reducible assumption | with_reducible apply State.meetUe_kept | with_reducible apply State.stkLoads_kept | (intro _ _)
    | with_reducible refine Kept.ite (fun _ => ?_) (fun _ => ?_) | split
    | with_reducible refine Kept.mk_same ?_ rfl rfl rfl rfl rfl rfl rfl rfl rfl rfl rfl rfl

theorem Stk.pop_head (k : Stk) (mb : Nat) : (k.pop mb).head = k.head := by
  unfold Stk.pop
  split <;> rfl

theorem State.popOp_kept {base s : State} (hk : Kept sk base s) (d : Desc) : Kept sk base (State.popOp s d) := by
  unfold State.popOp
  extract_lets c inst
  refine Kept.ite (fun _ => hk) (fun _ => ?_)
  split
  · exact State.stashOrder_kept hk
  · extract_lets bs e s0 s1 s2
    have he : Kept sk base e.1 := State.loadRecord_kept hk _ _ _ _
    have h0 : Kept sk base s0 := State.opWrite_kept he _ _ _
    have h1 : Kept sk base s1 := Kept.ite (fun _ => State.nanOut_kept h0 _ _) (fun _ => h0)
    have h2 : Kept sk base s2 := State.nextPart_kept (State.noteHigh_kept (State.settleStk_kept h1 _ _
      (fun m => by rw [Stk.pop_head]; exact State.stkOf_wf (h1.heads m) c)) _) _
    exact Kept.ite (fun _ => State.stashOrder_kept hk) (fun _ => Kept.ite (fun _ => State.noteRecomp_kept h2 _ _) (fun _ => h2))

theorem execPop_kept (s : State) (d : Desc) (e : Env) : KeptO sk s (execPop d e s) := by
  have hk : Kept sk s s := Kept.refl s
  unfold execPop
  try dsimp only
  repeat' first
    | with_reducible assumption | with_reducible apply KeptO.next | with_reducible exact KeptO.fault _
    | with_reducible apply State.count_kept | with_reducible apply State.runDesc_kept | with_reducible apply State.popOp_kept
    | (intro _ _) | with_reducible refine Kept.ite (fun _ => ?_) (fun _ => ?_) | split
    | with_reducible refine Kept.mk_same ?_ rfl rfl rfl rfl rfl rfl rfl rfl rfl rfl rfl rfl

theorem State.stkErrors_kept {base s : State} (hk : Kept sk base s) (cluster : Nat) (e : Env) (ue : List (Nat × Nat)) :
    Kept sk base (State.stkErrors s cluster e ue) := by
  unfold State.stkErrors
  try dsimp only
  repeat' first
    | with_reducible assumption | with_reducible apply State.memCe_kept | with_reducible apply State.storeCes_kept
    | with_reducible apply State.storeUe_kept | with_reducible apply State.meetUe_kept | (intro _ _)
    | with_reducible refine Kept.ite (fun _ => ?_) (fun _ => ?_) | split
    | with_reducible refine Kept.mk_same ?_ rfl rfl rfl rfl rfl rfl rfl rfl rfl rfl rfl rfl

theorem execPopPrefetch_kept (s : State) (cluster bytes : Nat) (e : Env) : KeptO sk s (execPopPrefetch cluster bytes e s) := by
  unfold execPopPrefetch
  split
  · trivial
  · split
    · exact Kept.refl s
    · extract_lets k n runs ue s1
      have h1 : Kept sk s s1 := State.stkErrors_kept (State.stkLoads_kept (Kept.refl s) _ _) _ _ _
      exact KeptO.next (Kept.ite (fun _ => State.setStk_kept h1 _ _
        (fun m => State.fetchStk_wf _ _ _ _ (State.stkOf_wf m.2.2.2.2.1 _))) (fun _ => h1))

theorem State.stkStore_kept {base s : State} (hk : Kept sk base s) (r : Nat) (runs : List (Nat × Nat)) (bs : List Byte) :
    Kept sk base (State.stkStore s r runs bs) := by
  induction runs generalizing s r bs with
  | nil =>
    unfold State.stkStore
    try dsimp only
    repeat' first
      | with_reducible assumption | with_reducible apply State.regWrite_kept | with_reducible apply State.account_kept | (intro _ _)
      | with_reducible refine Kept.ite (fun _ => ?_) (fun _ => ?_) | split
      | with_reducible refine Kept.mk_same ?_ rfl rfl rfl rfl rfl rfl rfl rfl rfl rfl rfl rfl
  | cons x r ih =>
    unfold State.stkStore
    try dsimp only
    repeat' first
      | with_reducible assumption | with_reducible apply ih | with_reducible apply State.regWrite_kept
      | with_reducible apply State.account_kept | (intro _ _) | with_reducible refine Kept.ite (fun _ => ?_) (fun _ => ?_) | split
      | with_reducible refine Kept.mk_same ?_ rfl rfl rfl rfl rfl rfl rfl rfl rfl rfl rfl rfl

theorem execStashWriteback_kept (s : State) (cluster bytes : Nat) (e : Env) : KeptO sk s (execStashWriteback cluster bytes e s) := by
  unfold execStashWriteback
  split
  · trivial
  · split
    · exact Kept.refl s
    · extract_lets k n s0 s1
      have h0 : Kept sk s s0 := State.stkErrors_kept (Kept.refl s) _ _ _
      exact KeptO.next (Kept.ite (fun _ => h0) (fun _ => State.setStk_kept (State.stkStore_kept h0 _ _ _) _ _
        (fun m => Stk.cut_wf _ (State.stkOf_wf m.2.2.2.2.1 _))))

/-! ### Dma -/

theorem State.moveOp_kept {base s : State} (hk : Kept sk base s) (d : Desc) : Kept sk base (State.moveOp s d) := by
  unfold State.moveOp
  try dsimp only
  repeat' first
    | with_reducible assumption | with_reducible apply State.opWrite_kept | (intro _ _)
    | with_reducible refine Kept.ite (fun _ => ?_) (fun _ => ?_) | split
    | with_reducible refine Kept.mk_same ?_ rfl rfl rfl rfl rfl rfl rfl rfl rfl rfl rfl rfl

theorem execMove_kept (s : State) (d : Desc) (e : Env) : KeptO sk s (execMove d e s) := by
  have hk : Kept sk s s := Kept.refl s
  unfold execMove
  try dsimp only
  repeat' first
    | with_reducible assumption | with_reducible apply KeptO.next | with_reducible exact KeptO.fault _
    | with_reducible apply State.runDesc_kept | with_reducible apply State.moveOp_kept | (intro _ _)
    | with_reducible refine Kept.ite (fun _ => ?_) (fun _ => ?_) | split
    | with_reducible refine Kept.mk_same ?_ rfl rfl rfl rfl rfl rfl rfl rfl rfl rfl rfl rfl

theorem State.transposeOp_kept {base s : State} (hk : Kept sk base s) (d : Desc) : Kept sk base (State.transposeOp s d) := by
  unfold State.transposeOp
  try dsimp only
  repeat' first
    | with_reducible assumption | with_reducible apply State.opWrite_kept | (intro _ _)
    | with_reducible refine Kept.ite (fun _ => ?_) (fun _ => ?_) | split
    | with_reducible refine Kept.mk_same ?_ rfl rfl rfl rfl rfl rfl rfl rfl rfl rfl rfl rfl

theorem execTranspose_kept (s : State) (d : Desc) (e : Env) : KeptO sk s (execTranspose d e s) := by
  have hk : Kept sk s s := Kept.refl s
  unfold execTranspose
  try dsimp only
  repeat' first
    | with_reducible assumption | with_reducible apply KeptO.next | with_reducible exact KeptO.fault _
    | with_reducible apply State.runDesc_kept | with_reducible apply State.transposeOp_kept | (intro _ _)
    | with_reducible refine Kept.ite (fun _ => ?_) (fun _ => ?_) | split
    | with_reducible refine Kept.mk_same ?_ rfl rfl rfl rfl rfl rfl rfl rfl rfl rfl rfl rfl

theorem State.fetchRow_kept {base s : State} (hk : Kept sk base s) (d : Desc) (o : Opnd) (rb : Nat) :
    Kept sk base (State.fetchRow s d o rb) := by
  unfold State.fetchRow
  try dsimp only
  repeat' first
    | with_reducible assumption | with_reducible apply State.account_kept | with_reducible apply State.meetUe_kept | (intro _ _)
    | with_reducible refine Kept.ite (fun _ => ?_) (fun _ => ?_) | split
    | with_reducible refine Kept.mk_same ?_ rfl rfl rfl rfl rfl rfl rfl rfl rfl rfl rfl rfl

theorem State.fetchRows_kept {base s : State} (hk : Kept sk base s) (d : Desc) (rb bound : Nat) (idx : List Word) :
    Kept sk base (State.fetchRows s d rb bound idx) := by
  induction idx generalizing s d rb bound with
  | nil =>
    unfold State.fetchRows
    try dsimp only
    repeat' first
      | with_reducible assumption | with_reducible apply State.count_kept | with_reducible apply State.fetchRow_kept | (intro _ _)
      | with_reducible refine Kept.ite (fun _ => ?_) (fun _ => ?_) | split
      | with_reducible refine Kept.mk_same ?_ rfl rfl rfl rfl rfl rfl rfl rfl rfl rfl rfl rfl
  | cons x r ih =>
    unfold State.fetchRows
    try dsimp only
    repeat' first
      | with_reducible assumption | with_reducible apply ih | with_reducible apply State.count_kept
      | with_reducible apply State.fetchRow_kept | (intro _ _) | with_reducible refine Kept.ite (fun _ => ?_) (fun _ => ?_) | split
      | with_reducible refine Kept.mk_same ?_ rfl rfl rfl rfl rfl rfl rfl rfl rfl rfl rfl rfl

theorem State.gatherMemOp_kept {base s : State} (hk : Kept sk base s) (d : Desc) : Kept sk base (State.gatherMemOp s d) := by
  unfold State.gatherMemOp
  try dsimp only
  repeat' first
    | with_reducible assumption | with_reducible apply State.count_kept | with_reducible apply State.opWrite_kept
    | with_reducible apply State.nanOut_kept | with_reducible apply State.fetchRows_kept | (intro _ _)
    | with_reducible refine Kept.ite (fun _ => ?_) (fun _ => ?_) | split
    | with_reducible refine Kept.mk_same ?_ rfl rfl rfl rfl rfl rfl rfl rfl rfl rfl rfl rfl

theorem execGatherMem_kept (s : State) (d : Desc) (e : Env) : KeptO sk s (execGatherMem d e s) := by
  have hk : Kept sk s s := Kept.refl s
  unfold execGatherMem
  try dsimp only
  repeat' first
    | with_reducible assumption | with_reducible apply KeptO.next | with_reducible exact KeptO.fault _
    | with_reducible apply State.runDesc_kept | with_reducible apply State.gatherMemOp_kept | (intro _ _)
    | with_reducible refine Kept.ite (fun _ => ?_) (fun _ => ?_) | split
    | with_reducible refine Kept.mk_same ?_ rfl rfl rfl rfl rfl rfl rfl rfl rfl rfl rfl rfl

theorem State.expandOp_kept {base s : State} (hk : Kept sk base s) (d : Desc) : Kept sk base (State.expandOp s d) := by
  unfold State.expandOp
  try dsimp only
  repeat' first
    | with_reducible assumption | with_reducible apply State.writeFx_kept | (intro _ _)
    | with_reducible refine Kept.ite (fun _ => ?_) (fun _ => ?_) | split
    | with_reducible refine Kept.mk_same ?_ rfl rfl rfl rfl rfl rfl rfl rfl rfl rfl rfl rfl

theorem execExpand_kept (s : State) (d : Desc) (e : Env) : KeptO sk s (execExpand d e s) := by
  have hk : Kept sk s s := Kept.refl s
  unfold execExpand
  try dsimp only
  repeat' first
    | with_reducible assumption | with_reducible apply KeptO.next | with_reducible exact KeptO.fault _
    | with_reducible apply State.runDesc_kept | with_reducible apply State.expandOp_kept | (intro _ _)
    | with_reducible refine Kept.ite (fun _ => ?_) (fun _ => ?_) | split
    | with_reducible refine Kept.mk_same ?_ rfl rfl rfl rfl rfl rfl rfl rfl rfl rfl rfl rfl

/-! ### Update -/

theorem State.restore_kept {base s : State} (hk : Kept sk base s) (r off n : Nat) : Kept sk base (State.restore s r off n) := by
  unfold State.restore
  try dsimp only
  repeat' first
    | with_reducible assumption | with_reducible apply State.regWrite_kept | (intro _ _)
    | with_reducible refine Kept.ite (fun _ => ?_) (fun _ => ?_) | split
    | with_reducible refine Kept.mk_same ?_ rfl rfl rfl rfl rfl rfl rfl rfl rfl rfl rfl rfl

theorem State.holdLayer_kept {base s : State} (hk : Kept sk base s) (d : Desc) (l : Layer) : Kept sk base (State.holdLayer s d l) := by
  unfold State.holdLayer
  try dsimp only
  repeat' first
    | with_reducible assumption | with_reducible apply State.restore_kept | (intro _ _)
    | with_reducible refine Kept.ite (fun _ => ?_) (fun _ => ?_) | split
    | with_reducible refine Kept.mk_same ?_ rfl rfl rfl rfl rfl rfl rfl rfl rfl rfl rfl rfl

theorem State.nonFinite_kept {base s : State} (hk : Kept sk base s) (d : Desc) (l : Layer) : Kept sk base (State.nonFinite s d l) := by
  unfold State.nonFinite
  try dsimp only
  repeat' first
    | with_reducible assumption | with_reducible apply State.count_kept | with_reducible apply State.raiseOnce_kept
    | with_reducible apply State.fail_kept | with_reducible apply State.holdLayer_kept | (intro _ _)
    | with_reducible refine Kept.ite (fun _ => ?_) (fun _ => ?_) | split
    | with_reducible refine Kept.mk_same ?_ rfl rfl rfl rfl rfl rfl rfl rfl rfl rfl rfl rfl

theorem State.addRatio_kept {base s : State} (hk : Kept sk base s) (md : FMode) (layer core : Nat) (sd sw : Word) :
    Kept sk base (State.addRatio s md layer core sd sw) := by
  unfold State.addRatio
  try dsimp only
  repeat' first
    | with_reducible assumption | with_reducible apply State.applyCounts_kept | (intro _ _)
    | with_reducible refine Kept.ite (fun _ => ?_) (fun _ => ?_) | split
    | with_reducible refine Kept.mk_same ?_ rfl rfl rfl rfl rfl rfl rfl rfl rfl rfl rfl rfl

theorem State.addCoreDigest_kept {base s : State} (hk : Kept sk base s) (core n : Nat) : Kept sk base (State.addCoreDigest s core n) := by
  unfold State.addCoreDigest
  try dsimp only
  repeat' first
    | with_reducible assumption | (intro _ _) | with_reducible refine Kept.ite (fun _ => ?_) (fun _ => ?_) | split
    | with_reducible refine Kept.mk_same ?_ rfl rfl rfl rfl rfl rfl rfl rfl rfl rfl rfl rfl

theorem State.updateWrites_kept {base s : State} (hk : Kept sk base s) (d : Desc) (l : Layer) (r : UpdRun) :
    Kept sk base (State.updateWrites s d l r) := by
  unfold State.updateWrites
  try dsimp only
  repeat' first
    | with_reducible assumption | with_reducible apply State.regWrite_kept | with_reducible apply State.opWrite_kept | (intro _ _)
    | with_reducible refine Kept.ite (fun _ => ?_) (fun _ => ?_) | split
    | with_reducible refine Kept.mk_same ?_ rfl rfl rfl rfl rfl rfl rfl rfl rfl rfl rfl rfl

theorem State.keepGrad_kept {base s : State} (hk : Kept sk base s) (d : Desc) (l : Layer) : Kept sk base (State.keepGrad s d l) := by
  unfold State.keepGrad
  try dsimp only
  repeat' first
    | with_reducible assumption | (intro _ _) | with_reducible refine Kept.ite (fun _ => ?_) (fun _ => ?_) | split
    | with_reducible refine Kept.mk_same ?_ rfl rfl rfl rfl rfl rfl rfl rfl rfl rfl rfl rfl

theorem State.updateOp_kept {base s : State} (hk : Kept sk base s) (d : Desc) : Kept sk base (State.updateOp s d) := by
  unfold State.updateOp
  try dsimp only
  repeat' first
    | with_reducible assumption | with_reducible apply State.applyFx_kept | with_reducible apply State.nonFinite_kept
    | with_reducible apply State.addRatio_kept | with_reducible apply State.addCoreDigest_kept
    | with_reducible apply State.updateWrites_kept | with_reducible apply State.keepGrad_kept | (intro _ _)
    | with_reducible refine Kept.ite (fun _ => ?_) (fun _ => ?_) | split
    | with_reducible refine Kept.mk_same ?_ rfl rfl rfl rfl rfl rfl rfl rfl rfl rfl rfl rfl

theorem State.runWhen_kept {base s : State} (hk : Kept sk base s) (op : Nat) (d : Desc) (ready : Bool) (body : State → State)
    (hb : ∀ t, Kept sk base t → Kept sk base (body t)) : Kept sk base (State.runWhen s op d ready body) := by
  unfold State.runWhen
  exact Kept.ite (fun _ => hk) (fun _ => Kept.ite (fun _ => State.hold_kept hk _) (fun _ => State.finish_kept (hb _ hk) _))

theorem execFence_kept (s : State) (d : Desc) (e : Env) : KeptO sk s (execFence d e s) :=
  State.runWhen_kept (Kept.refl s) _ _ _ _ (fun _ h => State.noteLate_kept h _ _)

theorem State.commitOp_kept {base s : State} (hk : Kept sk base s) : Kept sk base (State.commitOp s) := by
  unfold State.commitOp
  try dsimp only
  repeat' first
    | with_reducible assumption | (intro _ _) | with_reducible refine Kept.ite (fun _ => ?_) (fun _ => ?_) | split
    | with_reducible refine Kept.mk_same ?_ rfl rfl rfl rfl rfl rfl rfl rfl rfl rfl rfl rfl

theorem State.sendBulk_kept {base s : State} (hk : Kept sk base s) (dst vc id : Nat) (bs : List Byte) :
    Kept sk base (State.sendBulk s dst vc id bs) := by
  unfold State.sendBulk
  try dsimp only
  repeat' first
    | with_reducible assumption | with_reducible apply State.route_kept | with_reducible apply State.keep_kept
    | with_reducible refine Kept.foldl _ (fun _ _ _ => ?_) _ _ ?_ | (intro _ _)
    | with_reducible refine Kept.ite (fun _ => ?_) (fun _ => ?_) | split
    | with_reducible refine Kept.mk_same ?_ rfl rfl rfl rfl rfl rfl rfl rfl rfl rfl rfl rfl

theorem State.sendShadow_kept {base s : State} (hk : Kept sk base s) : Kept sk base (State.sendShadow s) := by
  unfold State.sendShadow
  try dsimp only
  repeat' first
    | with_reducible assumption | with_reducible apply State.sendBulk_kept | (intro _ _)
    | with_reducible refine Kept.ite (fun _ => ?_) (fun _ => ?_) | split
    | with_reducible refine Kept.mk_same ?_ rfl rfl rfl rfl rfl rfl rfl rfl rfl rfl rfl rfl

theorem execUpdate_kept (s : State) (d : Desc) (e : Env) : KeptO sk s (execUpdate d e s) := by
  have hk : Kept sk s s := Kept.refl s
  unfold execUpdate
  try dsimp only
  repeat' first
    | with_reducible assumption | with_reducible apply KeptO.next | with_reducible exact KeptO.fault _
    | with_reducible apply State.runDesc_kept | with_reducible apply State.updateOp_kept | with_reducible apply State.sendShadow_kept
    | (intro _ _) | with_reducible refine Kept.ite (fun _ => ?_) (fun _ => ?_) | split
    | with_reducible refine Kept.mk_same ?_ rfl rfl rfl rfl rfl rfl rfl rfl rfl rfl rfl rfl

theorem execCommit_kept (s : State) (d : Desc) (e : Env) (arrived : Bool) : KeptO sk s (execCommit d e arrived s) := by
  unfold execCommit
  extract_lets t
  have ht : Kept sk s t := Kept.ite (fun _ => State.sendShadow_kept (Kept.refl s)) (fun _ => Kept.refl s)
  exact KeptO.next (State.runWhen_kept ht _ _ _ _ (fun t h => State.commitOp_kept (State.noteLate_kept h _ _)))

theorem State.sendDigest_kept {base s : State} (hk : Kept sk base s) (d : Desc) (g : Group) : Kept sk base (State.sendDigest s d g) := by
  unfold State.sendDigest
  try dsimp only
  repeat' first
    | with_reducible assumption | with_reducible apply State.route_kept | with_reducible apply State.keep_kept
    | with_reducible refine Kept.foldl _ (fun _ _ _ => ?_) _ _ ?_ | (intro _ _)
    | with_reducible refine Kept.ite (fun _ => ?_) (fun _ => ?_) | split
    | with_reducible refine Kept.mk_same ?_ rfl rfl rfl rfl rfl rfl rfl rfl rfl rfl rfl rfl

theorem State.copyBanks_kept {base s : State} (hk : Kept sk base s) (c : BankCopy) : Kept sk base (State.copyBanks s c) := by
  unfold State.copyBanks
  try dsimp only
  repeat' first
    | with_reducible assumption | with_reducible apply State.regWriteCommitted_kept
    | with_reducible refine Kept.foldl _ (fun _ _ _ => ?_) _ _ ?_ | (intro _ _)
    | with_reducible refine Kept.ite (fun _ => ?_) (fun _ => ?_) | split
    | with_reducible refine Kept.mk_same ?_ rfl rfl rfl rfl rfl rfl rfl rfl rfl rfl rfl rfl

theorem State.sendBanks_kept {base s : State} (hk : Kept sk base s) (m : DigestMsg) (peers : List DigestMsg) :
    Kept sk base (State.sendBanks s m peers) := by
  unfold State.sendBanks
  try dsimp only
  repeat' first
    | with_reducible assumption | with_reducible apply State.sendBulk_kept | with_reducible refine Kept.foldl _ (fun _ _ _ => ?_) _ _ ?_
    | (intro _ _) | with_reducible refine Kept.ite (fun _ => ?_) (fun _ => ?_) | split
    | with_reducible refine Kept.mk_same ?_ rfl rfl rfl rfl rfl rfl rfl rfl rfl rfl rfl rfl

theorem State.localise_kept {base s : State} (hk : Kept sk base s) (sus : List Nat) (ref : DigestMsg) :
    Kept sk base (State.localise s sus ref) := by
  unfold State.localise
  try dsimp only
  repeat' first
    | with_reducible assumption | (intro _ _) | with_reducible refine Kept.ite (fun _ => ?_) (fun _ => ?_) | split
    | with_reducible refine Kept.mk_same ?_ rfl rfl rfl rfl rfl rfl rfl rfl rfl rfl rfl rfl

theorem State.swapSuspects_kept {base s : State} (hk : Kept sk base s) (l : List Nat) : Kept sk base (State.swapSuspects s l) := by
  induction l generalizing s with
  | nil =>
    unfold State.swapSuspects
    try dsimp only
    repeat' first
      | with_reducible assumption | (intro _ _) | with_reducible refine Kept.ite (fun _ => ?_) (fun _ => ?_) | split
      | with_reducible refine Kept.mk_same ?_ rfl rfl rfl rfl rfl rfl rfl rfl rfl rfl rfl rfl
  | cons x r ih =>
    unfold State.swapSuspects
    try dsimp only
    repeat' first
      | with_reducible assumption | with_reducible apply ih | (intro _ _) | with_reducible refine Kept.ite (fun _ => ?_) (fun _ => ?_)
      | split | with_reducible refine Kept.mk_same ?_ rfl rfl rfl rfl rfl rfl rfl rfl rfl rfl rfl rfl

theorem State.chargeSuspects_kept {base s : State} (hk : Kept sk base s) (l : List Nat) : Kept sk base (State.chargeSuspects s l) := by
  induction l generalizing s with
  | nil =>
    unfold State.chargeSuspects
    try dsimp only
    repeat' first
      | with_reducible assumption | with_reducible apply State.chargeErr_kept | (intro _ _)
      | with_reducible refine Kept.ite (fun _ => ?_) (fun _ => ?_) | split
      | with_reducible refine Kept.mk_same ?_ rfl rfl rfl rfl rfl rfl rfl rfl rfl rfl rfl rfl
  | cons x r ih =>
    unfold State.chargeSuspects
    try dsimp only
    repeat' first
      | with_reducible assumption | with_reducible apply ih | with_reducible apply State.chargeErr_kept | (intro _ _)
      | with_reducible refine Kept.ite (fun _ => ?_) (fun _ => ?_) | split
      | with_reducible refine Kept.mk_same ?_ rfl rfl rfl rfl rfl rfl rfl rfl rfl rfl rfl rfl

theorem State.digestsAgree_kept {base s : State} (hk : Kept sk base s) : Kept sk base (State.digestsAgree s) := by
  unfold State.digestsAgree
  try dsimp only
  repeat' first
    | with_reducible assumption | with_reducible apply State.count_kept | with_reducible apply State.chargeSuspects_kept | (intro _ _)
    | with_reducible refine Kept.ite (fun _ => ?_) (fun _ => ?_) | split
    | with_reducible refine Kept.mk_same ?_ rfl rfl rfl rfl rfl rfl rfl rfl rfl rfl rfl rfl

theorem State.digestsDiffer_kept {base s : State} (hk : Kept sk base s) (me : DigestMsg) (peers : List DigestMsg)
    (copy : Option BankCopy) : Kept sk base (State.digestsDiffer s me peers copy) := by
  unfold State.digestsDiffer
  extract_lets all s1
  have h1 : Kept sk base s1 := State.cause_kept (State.count_kept (State.raise_kept hk _ _) _ _) _
  clear_value s1
  split
  · extract_lets same low
    refine Kept.ite (fun _ => Kept.ite (fun _ => State.sendBanks_kept h1 _ _) (fun _ => h1)) (fun _ => Kept.ite (fun _ => ?_) (fun _ => ?_))
    · cases copy.filter (fun c => c.src == low.dev) with
      | none => exact h1
      | some c => exact State.copyBanks_kept h1 c
    · exact State.swapSuspects_kept (State.localise_kept h1 _ _) _
  · exact Kept.ite (fun _ => State.localise_kept h1 _ _)
      (fun _ => Kept.mk_same h1 rfl rfl rfl rfl rfl rfl rfl rfl rfl rfl rfl rfl)

theorem State.digestExchangeOp_kept {base s : State} (hk : Kept sk base s) (d : Desc) (peers : List DigestMsg) (copy : Option BankCopy) :
    Kept sk base (State.digestExchangeOp s d peers copy) := by
  unfold State.digestExchangeOp
  try dsimp only
  repeat' first
    | with_reducible assumption | with_reducible apply State.raise_kept | with_reducible apply State.fail_kept
    | with_reducible apply State.sendDigest_kept | with_reducible apply State.digestsAgree_kept
    | with_reducible apply State.digestsDiffer_kept | (intro _ _) | with_reducible refine Kept.ite (fun _ => ?_) (fun _ => ?_) | split
    | with_reducible refine Kept.mk_same ?_ rfl rfl rfl rfl rfl rfl rfl rfl rfl rfl rfl rfl

theorem execDigestExchange_kept (s : State) (d : Desc) (e : Env) (peers : List DigestMsg) (copy : Option BankCopy) :
    KeptO sk s (execDigestExchange d e peers copy s) := by
  have hk : Kept sk s s := Kept.refl s
  unfold execDigestExchange
  try dsimp only
  repeat' first
    | with_reducible assumption | with_reducible apply KeptO.next | with_reducible exact KeptO.fault _
    | with_reducible apply State.runDesc_kept | with_reducible apply State.digestExchangeOp_kept | (intro _ _)
    | with_reducible refine Kept.ite (fun _ => ?_) (fun _ => ?_) | split
    | with_reducible refine Kept.mk_same ?_ rfl rfl rfl rfl rfl rfl rfl rfl rfl rfl rfl rfl

/-! ### Collectives -/

theorem State.setColl_kept {base s : State} (hk : Kept sk base s) (x : CollS) : Kept sk base (State.setColl s x) := by
  unfold State.setColl
  try dsimp only
  repeat' first
    | with_reducible assumption | (intro _ _) | with_reducible refine Kept.ite (fun _ => ?_) (fun _ => ?_) | split
    | with_reducible refine Kept.mk_same ?_ rfl rfl rfl rfl rfl rfl rfl rfl rfl rfl rfl rfl

theorem State.onColl_kept {base s : State} (hk : Kept sk base s) (vc : Nat) (f : CollS → CollS) : Kept sk base (State.onColl s vc f) := by
  unfold State.onColl
  try dsimp only
  repeat' first
    | with_reducible assumption | with_reducible apply State.setColl_kept | (intro _ _)
    | with_reducible refine Kept.ite (fun _ => ?_) (fun _ => ?_) | split
    | with_reducible refine Kept.mk_same ?_ rfl rfl rfl rfl rfl rfl rfl rfl rfl rfl rfl rfl

theorem State.sendPacket_kept {base s : State} (hk : Kept sk base s) (x : CollS) (next : Bool) (p : Packet) :
    Kept sk base (State.sendPacket s x next p) := by
  unfold State.sendPacket
  try dsimp only
  repeat' first
    | with_reducible assumption | with_reducible apply State.handTo_kept | (intro _ _)
    | with_reducible refine Kept.ite (fun _ => ?_) (fun _ => ?_) | split
    | with_reducible refine Kept.mk_same ?_ rfl rfl rfl rfl rfl rfl rfl rfl rfl rfl rfl rfl

theorem State.sendUnit_kept {base s : State} (hk : Kept sk base s) (x : CollS) (next : Bool) (phase : Nat) (arc : Bool) (c u : Nat) (payload : List Byte) :
    Kept sk base (State.sendUnit s x next phase arc c u payload) := by
  unfold State.sendUnit
  try dsimp only
  repeat' first
    | with_reducible assumption | with_reducible apply State.sendPacket_kept | (intro _ _)
    | with_reducible refine Kept.ite (fun _ => ?_) (fun _ => ?_) | split
    | with_reducible refine Kept.mk_same ?_ rfl rfl rfl rfl rfl rfl rfl rfl rfl rfl rfl rfl

theorem State.unitDone_kept {base s : State} (hk : Kept sk base s) (vc : Nat) (k : Nat × Nat) : Kept sk base (State.unitDone s vc k) := by
  unfold State.unitDone
  try dsimp only
  repeat' first
    | with_reducible assumption | with_reducible apply State.onColl_kept | (intro _ _)
    | with_reducible refine Kept.ite (fun _ => ?_) (fun _ => ?_) | split
    | with_reducible refine Kept.mk_same ?_ rfl rfl rfl rfl rfl rfl rfl rfl rfl rfl rfl rfl

theorem State.sendArcs_kept {base s : State} (hk : Kept sk base s) (x : CollS) (phase c u : Nat) (payload : List Byte) :
    Kept sk base (State.sendArcs s x phase c u payload) := by
  unfold State.sendArcs
  try dsimp only
  repeat' first
    | with_reducible assumption | with_reducible apply State.sendUnit_kept | (intro _ _)
    | with_reducible refine Kept.ite (fun _ => ?_) (fun _ => ?_) | split
    | with_reducible refine Kept.mk_same ?_ rfl rfl rfl rfl rfl rfl rfl rfl rfl rfl rfl rfl

theorem State.forward_kept {base s : State} (hk : Kept sk base s) (x : CollS) (p : Packet) : Kept sk base (State.forward s x p) := by
  unfold State.forward
  try dsimp only
  repeat' first
    | with_reducible assumption | with_reducible apply State.sendPacket_kept | (intro _ _)
    | with_reducible refine Kept.ite (fun _ => ?_) (fun _ => ?_) | split
    | with_reducible refine Kept.mk_same ?_ rfl rfl rfl rfl rfl rfl rfl rfl rfl rfl rfl rfl

theorem State.putErr_kept {base s : State} (hk : Kept sk base s) (x : CollS) (c u : Nat) (es : List Word) :
    Kept sk base (State.putErr s x c u es) := by
  unfold State.putErr
  try dsimp only
  repeat' first
    | with_reducible assumption | with_reducible apply State.regWrite_kept | (intro _ _)
    | with_reducible refine Kept.ite (fun _ => ?_) (fun _ => ?_) | split
    | with_reducible refine Kept.mk_same ?_ rfl rfl rfl rfl rfl rfl rfl rfl rfl rfl rfl rfl

theorem State.putD_kept {base s : State} (hk : Kept sk base s) (x : CollS) (i : Nat) (ws : List Word) :
    Kept sk base (State.putD s x i ws) := by
  unfold State.putD
  try dsimp only
  repeat' first
    | with_reducible assumption | with_reducible apply State.opWrite_kept | with_reducible apply State.writeFx_kept | (intro _ _)
    | with_reducible refine Kept.ite (fun _ => ?_) (fun _ => ?_) | split
    | with_reducible refine Kept.mk_same ?_ rfl rfl rfl rfl rfl rfl rfl rfl rfl rfl rfl rfl

theorem State.putUnit_kept {base s : State} (hk : Kept sk base s) (x : CollS) (c u : Nat) (ws : List Word) :
    Kept sk base (State.putUnit s x c u ws) := by
  unfold State.putUnit
  try dsimp only
  repeat' first
    | with_reducible assumption | with_reducible apply State.putD_kept | (intro _ _)
    | with_reducible refine Kept.ite (fun _ => ?_) (fun _ => ?_) | split
    | with_reducible refine Kept.mk_same ?_ rfl rfl rfl rfl rfl rfl rfl rfl rfl rfl rfl rfl

theorem State.emitFx_kept {base s : State} (hk : Kept sk base s) (x : CollS) (c u : Nat) (r : UnitOut × NumFx) :
    Kept sk base (State.emitFx s x c u r) := by
  unfold State.emitFx
  try dsimp only
  repeat' first
    | with_reducible assumption | with_reducible apply State.applyFx_kept | with_reducible apply State.scaleOvf_kept
    | with_reducible apply State.putErr_kept | (intro _ _) | with_reducible refine Kept.ite (fun _ => ?_) (fun _ => ?_) | split
    | with_reducible refine Kept.mk_same ?_ rfl rfl rfl rfl rfl rfl rfl rfl rfl rfl rfl rfl

theorem State.askUnit_kept {base s : State} (hk : Kept sk base s) (port desc c u : Nat) (arc : Bool) :
    Kept sk base (State.askUnit s port desc c u arc) := by
  unfold State.askUnit
  try dsimp only
  repeat' first
    | with_reducible assumption | (intro _ _) | with_reducible refine Kept.ite (fun _ => ?_) (fun _ => ?_) | split
    | with_reducible refine Kept.mk_same ?_ rfl rfl rfl rfl rfl rfl rfl rfl rfl rfl rfl rfl

theorem State.gotUnit_kept {base s : State} (hk : Kept sk base s) (p : Packet) : Kept sk base (State.gotUnit s p) := by
  unfold State.gotUnit
  try dsimp only
  repeat' first
    | with_reducible assumption | (intro _ _) | with_reducible refine Kept.ite (fun _ => ?_) (fun _ => ?_) | split
    | with_reducible refine Kept.mk_same ?_ rfl rfl rfl rfl rfl rfl rfl rfl rfl rfl rfl rfl

theorem State.resendLimit_kept {base s : State} (hk : Kept sk base s) (x : CollS) : Kept sk base (State.resendLimit s x) := by
  unfold State.resendLimit
  try dsimp only
  repeat' first
    | with_reducible assumption | with_reducible apply State.raise_kept | with_reducible apply State.cause_kept | (intro _ _)
    | with_reducible refine Kept.ite (fun _ => ?_) (fun _ => ?_) | split
    | with_reducible refine Kept.mk_same ?_ rfl rfl rfl rfl rfl rfl rfl rfl rfl rfl rfl rfl

theorem State.residueOwn_kept {base s : State} (hk : Kept sk base s) (x : CollS) (port u : Nat) (o : ResidueObs) :
    Kept sk base (State.residueOwn s x port u o) := by
  unfold State.residueOwn
  try dsimp only
  repeat' first
    | with_reducible assumption | with_reducible apply State.count_kept | with_reducible apply State.raiseU_kept
    | with_reducible apply State.draw_kept | with_reducible apply State.chargeCe_kept | with_reducible apply State.chargeErr_kept
    | (intro _ _) | with_reducible refine Kept.ite (fun _ => ?_) (fun _ => ?_) | split
    | with_reducible refine Kept.mk_same ?_ rfl rfl rfl rfl rfl rfl rfl rfl rfl rfl rfl rfl

theorem State.residue_kept {base s : State} (hk : Kept sk base s) (x : CollS) (port c u : Nat) (arc : Bool) (o : ResidueObs) :
    Kept sk base (State.residue s x port c u arc o) := by
  unfold State.residue
  try dsimp only
  repeat' first
    | with_reducible assumption | with_reducible apply State.count_kept | with_reducible apply State.setColl_kept
    | with_reducible apply State.askUnit_kept | with_reducible apply State.resendLimit_kept | with_reducible apply State.residueOwn_kept
    | (intro _ _) | with_reducible refine Kept.ite (fun _ => ?_) (fun _ => ?_) | split
    | with_reducible refine Kept.mk_same ?_ rfl rfl rfl rfl rfl rfl rfl rfl rfl rfl rfl rfl

theorem State.hopUnit_kept {base s : State} (hk : Kept sk base s) (x : CollS) (arc : Bool) (c u : Nat) (inp : Option (List Byte)) (fix : Option (Nat × Word)) :
    Kept sk base (State.hopUnit s x arc c u inp fix) := by
  unfold State.hopUnit
  try dsimp only
  repeat' first
    | with_reducible assumption | with_reducible apply State.sendUnit_kept | with_reducible apply State.unitDone_kept
    | with_reducible apply State.emitFx_kept | (intro _ _) | with_reducible refine Kept.ite (fun _ => ?_) (fun _ => ?_) | split
    | with_reducible refine Kept.mk_same ?_ rfl rfl rfl rfl rfl rfl rfl rfl rfl rfl rfl rfl

theorem State.noteBlocks_kept {base s : State} (hk : Kept sk base s) (x : CollS) (c u : Nat) (ws : List Word) (ovf : List Bool) :
    Kept sk base (State.noteBlocks s x c u ws ovf) := by
  unfold State.noteBlocks
  try dsimp only
  repeat' first
    | with_reducible assumption | with_reducible apply State.onColl_kept | with_reducible refine Kept.foldl _ (fun _ _ _ => ?_) _ _ ?_
    | (intro _ _) | with_reducible refine Kept.ite (fun _ => ?_) (fun _ => ?_) | split
    | with_reducible refine Kept.mk_same ?_ rfl rfl rfl rfl rfl rfl rfl rfl rfl rfl rfl rfl

theorem State.sendSums_kept {base s : State} (hk : Kept sk base s) (x : CollS) (c : Nat) (us : List Nat) :
    Kept sk base (State.sendSums s x c us) := by
  induction us generalizing s x c with
  | nil =>
    unfold State.sendSums
    try dsimp only
    repeat' first
      | with_reducible assumption | with_reducible apply State.unitDone_kept | with_reducible apply State.sendArcs_kept | (intro _ _)
      | with_reducible refine Kept.ite (fun _ => ?_) (fun _ => ?_) | split
      | with_reducible refine Kept.mk_same ?_ rfl rfl rfl rfl rfl rfl rfl rfl rfl rfl rfl rfl
  | cons x r ih =>
    unfold State.sendSums
    try dsimp only
    repeat' first
      | with_reducible assumption | with_reducible apply ih | with_reducible apply State.unitDone_kept
      | with_reducible apply State.sendArcs_kept | (intro _ _) | with_reducible refine Kept.ite (fun _ => ?_) (fun _ => ?_) | split
      | with_reducible refine Kept.mk_same ?_ rfl rfl rfl rfl rfl rfl rfl rfl rfl rfl rfl rfl

theorem State.trySums_kept {base s : State} (hk : Kept sk base s) (vc c : Nat) : Kept sk base (State.trySums s vc c) := by
  unfold State.trySums
  try dsimp only
  repeat' first
    | with_reducible assumption | with_reducible apply State.sendSums_kept | (intro _ _)
    | with_reducible refine Kept.ite (fun _ => ?_) (fun _ => ?_) | split
    | with_reducible refine Kept.mk_same ?_ rfl rfl rfl rfl rfl rfl rfl rfl rfl rfl rfl rfl

theorem State.ownerUnit_kept {base s : State} (hk : Kept sk base s) (x : CollS) (c u : Nat) : Kept sk base (State.ownerUnit s x c u) := by
  unfold State.ownerUnit
  try dsimp only
  repeat' first
    | with_reducible assumption | with_reducible apply State.applyFx_kept | with_reducible apply State.unitDone_kept
    | with_reducible apply State.sendArcs_kept | with_reducible apply State.putUnit_kept | with_reducible apply State.emitFx_kept
    | with_reducible apply State.noteBlocks_kept | with_reducible apply State.trySums_kept | (intro _ _)
    | with_reducible refine Kept.ite (fun _ => ?_) (fun _ => ?_) | split
    | with_reducible refine Kept.mk_same ?_ rfl rfl rfl rfl rfl rfl rfl rfl rfl rfl rfl rfl

theorem State.sourceUnit_kept {base s : State} (hk : Kept sk base s) (x : CollS) (c u : Nat) (fix : Option (Nat × Word)) :
    Kept sk base (State.sourceUnit s x c u fix) := by
  unfold State.sourceUnit
  try dsimp only
  repeat' first
    | with_reducible assumption | with_reducible apply State.unitDone_kept | with_reducible apply State.sendArcs_kept
    | with_reducible apply State.putUnit_kept | with_reducible apply State.emitFx_kept | (intro _ _)
    | with_reducible refine Kept.ite (fun _ => ?_) (fun _ => ?_) | split
    | with_reducible refine Kept.mk_same ?_ rfl rfl rfl rfl rfl rfl rfl rfl rfl rfl rfl rfl

theorem State.rawUnit_kept {base s : State} (hk : Kept sk base s) (x : CollS) (u : Nat) : Kept sk base (State.rawUnit s x u) := by
  unfold State.rawUnit
  try dsimp only
  repeat' first
    | with_reducible assumption | with_reducible apply State.sendUnit_kept | (intro _ _)
    | with_reducible refine Kept.ite (fun _ => ?_) (fun _ => ?_) | split
    | with_reducible refine Kept.mk_same ?_ rfl rfl rfl rfl rfl rfl rfl rfl rfl rfl rfl rfl

theorem State.startUnit_kept {base s : State} (hk : Kept sk base s) (vc : Nat) (k : Nat × Nat) (fix : Option (Nat × Word)) :
    Kept sk base (State.startUnit s vc k fix) := by
  unfold State.startUnit
  try dsimp only
  repeat' first
    | with_reducible assumption | with_reducible apply State.unitDone_kept | with_reducible apply State.hopUnit_kept
    | with_reducible apply State.sourceUnit_kept | with_reducible apply State.rawUnit_kept | (intro _ _)
    | with_reducible refine Kept.ite (fun _ => ?_) (fun _ => ?_) | split
    | with_reducible refine Kept.mk_same ?_ rfl rfl rfl rfl rfl rfl rfl rfl rfl rfl rfl rfl

theorem State.startChecked_kept {base s : State} (hk : Kept sk base s) (vc : Nat) (adds : List AddObs) (k : Nat × Nat) :
    Kept sk base (State.startChecked s vc adds k) := by
  unfold State.startChecked
  try dsimp only
  repeat' first
    | with_reducible assumption | with_reducible apply State.residueOwn_kept | with_reducible apply State.startUnit_kept | (intro _ _)
    | with_reducible refine Kept.ite (fun _ => ?_) (fun _ => ?_) | split
    | with_reducible refine Kept.mk_same ?_ rfl rfl rfl rfl rfl rfl rfl rfl rfl rfl rfl rfl

theorem State.startUnits_kept {base s : State} (hk : Kept sk base s) (vc : Nat) (adds : List AddObs) (l : List (Nat × Nat)) :
    Kept sk base (State.startUnits s vc adds l) := by
  induction l generalizing s vc adds with
  | nil =>
    unfold State.startUnits
    try dsimp only
    repeat' first
      | with_reducible assumption | with_reducible apply State.startChecked_kept | (intro _ _)
      | with_reducible refine Kept.ite (fun _ => ?_) (fun _ => ?_) | split
      | with_reducible refine Kept.mk_same ?_ rfl rfl rfl rfl rfl rfl rfl rfl rfl rfl rfl rfl
  | cons x r ih =>
    unfold State.startUnits
    try dsimp only
    repeat' first
      | with_reducible assumption | with_reducible apply ih | with_reducible apply State.startChecked_kept | (intro _ _)
      | with_reducible refine Kept.ite (fun _ => ?_) (fun _ => ?_) | split
      | with_reducible refine Kept.mk_same ?_ rfl rfl rfl rfl rfl rfl rfl rfl rfl rfl rfl rfl

theorem State.collMalformed_kept {base s : State} (hk : Kept sk base s) (vc cause src : Nat) :
    Kept sk base (State.collMalformed s vc cause src) := by
  unfold State.collMalformed
  try dsimp only
  repeat' first
    | with_reducible assumption | with_reducible apply State.raise_kept | with_reducible apply State.fail_kept
    | with_reducible apply State.nanOut_kept | with_reducible apply State.setColl_kept | (intro _ _)
    | with_reducible refine Kept.ite (fun _ => ?_) (fun _ => ?_) | split
    | with_reducible refine Kept.mk_same ?_ rfl rfl rfl rfl rfl rfl rfl rfl rfl rfl rfl rfl

theorem State.takePartial_kept {base s : State} (hk : Kept sk base s) (x : CollS) (p : Packet) (fix : Option (Nat × Word)) :
    Kept sk base (State.takePartial s x p fix) := by
  unfold State.takePartial
  try dsimp only
  repeat' first
    | with_reducible assumption | with_reducible apply State.setColl_kept | with_reducible apply State.ownerUnit_kept | (intro _ _)
    | with_reducible refine Kept.ite (fun _ => ?_) (fun _ => ?_) | split
    | with_reducible refine Kept.mk_same ?_ rfl rfl rfl rfl rfl rfl rfl rfl rfl rfl rfl rfl

theorem State.takeGather_kept {base s : State} (hk : Kept sk base s) (x : CollS) (p : Packet) : Kept sk base (State.takeGather s x p) := by
  unfold State.takeGather
  try dsimp only
  repeat' first
    | with_reducible assumption | with_reducible apply State.applyFx_kept | with_reducible apply State.opWrite_kept
    | with_reducible apply State.unitDone_kept | with_reducible apply State.forward_kept | with_reducible apply State.putUnit_kept
    | with_reducible apply State.noteBlocks_kept | (intro _ _) | with_reducible refine Kept.ite (fun _ => ?_) (fun _ => ?_) | split
    | with_reducible refine Kept.mk_same ?_ rfl rfl rfl rfl rfl rfl rfl rfl rfl rfl rfl rfl

theorem State.takeSummary_kept {base s : State} (hk : Kept sk base s) (x : CollS) (p : Packet) :
    Kept sk base (State.takeSummary s x p) := by
  unfold State.takeSummary
  try dsimp only
  repeat' first
    | with_reducible assumption | with_reducible apply State.onColl_kept | with_reducible apply State.unitDone_kept
    | with_reducible apply State.forward_kept | with_reducible refine Kept.foldl _ (fun _ _ _ => ?_) _ _ ?_ | (intro _ _)
    | with_reducible refine Kept.ite (fun _ => ?_) (fun _ => ?_) | split
    | with_reducible refine Kept.mk_same ?_ rfl rfl rfl rfl rfl rfl rfl rfl rfl rfl rfl rfl

theorem State.takePacket_kept {base s : State} (hk : Kept sk base s) (x : CollS) (p : Packet) (fix : Option (Nat × Word)) :
    Kept sk base (State.takePacket s x p fix) := by
  unfold State.takePacket
  try dsimp only
  repeat' first
    | with_reducible assumption | with_reducible apply State.hopUnit_kept | with_reducible apply State.takePartial_kept
    | with_reducible apply State.takeGather_kept | with_reducible apply State.takeSummary_kept | (intro _ _)
    | with_reducible refine Kept.ite (fun _ => ?_) (fun _ => ?_) | split
    | with_reducible refine Kept.mk_same ?_ rfl rfl rfl rfl rfl rfl rfl rfl rfl rfl rfl rfl

theorem State.ownPacket_kept {base s : State} (hk : Kept sk base s) (port : Nat) (x : CollS) (p : Packet) (o : Option ResidueObs) :
    Kept sk base (State.ownPacket s port x p o) := by
  unfold State.ownPacket
  try dsimp only
  repeat' first
    | with_reducible assumption | with_reducible apply State.gotUnit_kept | with_reducible apply State.residue_kept
    | with_reducible apply State.collMalformed_kept | with_reducible apply State.takePacket_kept | (intro _ _)
    | with_reducible refine Kept.ite (fun _ => ?_) (fun _ => ?_) | split
    | with_reducible refine Kept.mk_same ?_ rfl rfl rfl rfl rfl rfl rfl rfl rfl rfl rfl rfl

theorem State.packet_kept {base s : State} (hk : Kept sk base s) (port vc : Nat) (p : Packet) (o : Option ResidueObs) :
    Kept sk base (State.packet s port vc p o) := by
  unfold State.packet
  try dsimp only
  repeat' first
    | with_reducible assumption | with_reducible apply State.count_kept | with_reducible apply State.collMalformed_kept
    | with_reducible apply State.ownPacket_kept | (intro _ _) | with_reducible refine Kept.ite (fun _ => ?_) (fun _ => ?_) | split
    | with_reducible refine Kept.mk_same ?_ rfl rfl rfl rfl rfl rfl rfl rfl rfl rfl rfl rfl

theorem State.wakeEarly_kept {base s : State} (hk : Kept sk base s) (vc num : Nat) (l : List Early) :
    Kept sk base (State.wakeEarly s vc num l) := by
  induction l generalizing s vc num with
  | nil =>
    unfold State.wakeEarly
    try dsimp only
    repeat' first
      | with_reducible assumption | with_reducible apply State.packet_kept | (intro _ _)
      | with_reducible refine Kept.ite (fun _ => ?_) (fun _ => ?_) | split
      | with_reducible refine Kept.mk_same ?_ rfl rfl rfl rfl rfl rfl rfl rfl rfl rfl rfl rfl
  | cons x r ih =>
    unfold State.wakeEarly
    try dsimp only
    repeat' first
      | with_reducible assumption | with_reducible apply ih | with_reducible apply State.packet_kept | (intro _ _)
      | with_reducible refine Kept.ite (fun _ => ?_) (fun _ => ?_) | split
      | with_reducible refine Kept.mk_same ?_ rfl rfl rfl rfl rfl rfl rfl rfl rfl rfl rfl rfl

theorem State.rxPass_kept {base s : State} (hk : Kept sk base s) (port vc n : Nat) : Kept sk base (State.rxPass s port vc n) := by
  unfold State.rxPass
  try dsimp only
  repeat' first
    | with_reducible assumption | with_reducible apply State.rxTake_kept | with_reducible apply State.rxFree_kept | (intro _ _)
    | with_reducible refine Kept.ite (fun _ => ?_) (fun _ => ?_) | split
    | with_reducible refine Kept.mk_same ?_ rfl rfl rfl rfl rfl rfl rfl rfl rfl rfl rfl rfl

theorem State.ackPacket_kept {base s : State} (hk : Kept sk base s) (vc : Nat) (p : Packet) : Kept sk base (State.ackPacket s vc p) := by
  unfold State.ackPacket
  try dsimp only
  repeat' first
    | with_reducible assumption | (intro _ _) | with_reducible refine Kept.ite (fun _ => ?_) (fun _ => ?_) | split
    | with_reducible refine Kept.mk_same ?_ rfl rfl rfl rfl rfl rfl rfl rfl rfl rfl rfl rfl

theorem execCollPacket_kept (s : State) (port vc : Nat) (p : Packet) (o : Option ResidueObs) :
    KeptO sk s (execCollPacket port vc p o s) := by
  have hk : Kept sk s s := Kept.refl s
  unfold execCollPacket
  try dsimp only
  repeat' first
    | with_reducible assumption | with_reducible apply KeptO.next | with_reducible exact KeptO.fault _
    | with_reducible apply State.sealOk_kept | with_reducible apply State.packet_kept | with_reducible apply State.rxPass_kept
    | with_reducible apply State.ackPacket_kept | (intro _ _) | with_reducible refine Kept.ite (fun _ => ?_) (fun _ => ?_) | split
    | with_reducible refine Kept.mk_same ?_ rfl rfl rfl rfl rfl rfl rfl rfl rfl rfl rfl rfl

theorem State.beginColl_kept {base s : State} (hk : Kept sk base s) (d : Desc) (bad : Bool) (adds : List AddObs) :
    Kept sk base (State.beginColl s d bad adds) := by
  unfold State.beginColl
  try dsimp only
  repeat' first
    | with_reducible assumption | with_reducible apply State.applyFx_kept | with_reducible apply State.finish_kept
    | with_reducible apply State.descFault_kept | with_reducible apply State.startUnits_kept | with_reducible apply State.wakeEarly_kept
    | (intro _ _) | with_reducible refine Kept.ite (fun _ => ?_) (fun _ => ?_) | split
    | with_reducible refine Kept.mk_same ?_ rfl rfl rfl rfl rfl rfl rfl rfl rfl rfl rfl rfl

theorem State.startColl_kept {base s : State} (hk : Kept sk base s) (d : Desc) (bad : Bool) (adds : List AddObs) :
    Kept sk base (State.startColl s d bad adds) := by
  unfold State.startColl
  try dsimp only
  repeat' first
    | with_reducible assumption | with_reducible apply State.beginColl_kept | (intro _ _)
    | with_reducible refine Kept.ite (fun _ => ?_) (fun _ => ?_) | split
    | with_reducible refine Kept.mk_same ?_ rfl rfl rfl rfl rfl rfl rfl rfl rfl rfl rfl rfl

theorem State.collective_kept {base s : State} (hk : Kept sk base s) (op : Nat) (d : Desc) (e : Env) :
    Kept sk base (State.collective s op d e) := by
  unfold State.collective
  try dsimp only
  repeat' first
    | with_reducible assumption | with_reducible apply State.storeUe_kept | with_reducible apply State.hold_kept
    | with_reducible apply State.envFx_kept | with_reducible apply State.startColl_kept | (intro _ _)
    | with_reducible refine Kept.ite (fun _ => ?_) (fun _ => ?_) | split
    | with_reducible refine Kept.mk_same ?_ rfl rfl rfl rfl rfl rfl rfl rfl rfl rfl rfl rfl

theorem execAllreduce_kept (s : State) (d : Desc) (e : Env) : KeptO sk s (execAllreduce d e s) := by
  have hk : Kept sk s s := Kept.refl s
  unfold execAllreduce
  try dsimp only
  repeat' first
    | with_reducible assumption | with_reducible apply KeptO.next | with_reducible exact KeptO.fault _
    | with_reducible apply State.collective_kept | (intro _ _) | with_reducible refine Kept.ite (fun _ => ?_) (fun _ => ?_) | split
    | with_reducible refine Kept.mk_same ?_ rfl rfl rfl rfl rfl rfl rfl rfl rfl rfl rfl rfl

theorem execReduceScatter_kept (s : State) (d : Desc) (e : Env) : KeptO sk s (execReduceScatter d e s) := by
  have hk : Kept sk s s := Kept.refl s
  unfold execReduceScatter
  try dsimp only
  repeat' first
    | with_reducible assumption | with_reducible apply KeptO.next | with_reducible exact KeptO.fault _
    | with_reducible apply State.collective_kept | (intro _ _) | with_reducible refine Kept.ite (fun _ => ?_) (fun _ => ?_) | split
    | with_reducible refine Kept.mk_same ?_ rfl rfl rfl rfl rfl rfl rfl rfl rfl rfl rfl rfl

theorem execAllgather_kept (s : State) (d : Desc) (e : Env) : KeptO sk s (execAllgather d e s) := by
  have hk : Kept sk s s := Kept.refl s
  unfold execAllgather
  try dsimp only
  repeat' first
    | with_reducible assumption | with_reducible apply KeptO.next | with_reducible exact KeptO.fault _
    | with_reducible apply State.collective_kept | (intro _ _) | with_reducible refine Kept.ite (fun _ => ?_) (fun _ => ?_) | split
    | with_reducible refine Kept.mk_same ?_ rfl rfl rfl rfl rfl rfl rfl rfl rfl rfl rfl rfl

theorem execBroadcast_kept (s : State) (d : Desc) (e : Env) : KeptO sk s (execBroadcast d e s) := by
  have hk : Kept sk s s := Kept.refl s
  unfold execBroadcast
  try dsimp only
  repeat' first
    | with_reducible assumption | with_reducible apply KeptO.next | with_reducible exact KeptO.fault _
    | with_reducible apply State.collective_kept | (intro _ _) | with_reducible refine Kept.ite (fun _ => ?_) (fun _ => ?_) | split
    | with_reducible refine Kept.mk_same ?_ rfl rfl rfl rfl rfl rfl rfl rfl rfl rfl rfl rfl

theorem execSendrecv_kept (s : State) (d : Desc) (e : Env) : KeptO sk s (execSendrecv d e s) := by
  have hk : Kept sk s s := Kept.refl s
  unfold execSendrecv
  try dsimp only
  repeat' first
    | with_reducible assumption | with_reducible apply KeptO.next | with_reducible exact KeptO.fault _
    | with_reducible apply State.collective_kept | (intro _ _) | with_reducible refine Kept.ite (fun _ => ?_) (fun _ => ?_) | split
    | with_reducible refine Kept.mk_same ?_ rfl rfl rfl rfl rfl rfl rfl rfl rfl rfl rfl rfl

theorem State.settleBlocks_kept {base s : State} (hk : Kept sk base s) (x : CollS) (js : List Nat) :
    Kept sk base (State.settleBlocks s x js) := by
  induction js generalizing s x with
  | nil =>
    unfold State.settleBlocks
    try dsimp only
    repeat' first
      | with_reducible assumption | with_reducible apply State.count_kept | with_reducible apply State.applyFx_kept
      | with_reducible apply State.estPut_kept | with_reducible apply State.observe_kept | with_reducible apply State.correct_kept
      | (intro _ _) | with_reducible refine Kept.ite (fun _ => ?_) (fun _ => ?_) | split
      | with_reducible refine Kept.mk_same ?_ rfl rfl rfl rfl rfl rfl rfl rfl rfl rfl rfl rfl
  | cons x r ih =>
    unfold State.settleBlocks
    try dsimp only
    repeat' first
      | with_reducible assumption | with_reducible apply ih | with_reducible apply State.count_kept
      | with_reducible apply State.applyFx_kept | with_reducible apply State.estPut_kept | with_reducible apply State.observe_kept
      | with_reducible apply State.correct_kept | (intro _ _) | with_reducible refine Kept.ite (fun _ => ?_) (fun _ => ?_) | split
      | with_reducible refine Kept.mk_same ?_ rfl rfl rfl rfl rfl rfl rfl rfl rfl rfl rfl rfl

theorem State.ringOvf_kept {base s : State} (hk : Kept sk base s) (x : CollS) : Kept sk base (State.ringOvf s x) := by
  unfold State.ringOvf
  try dsimp only
  repeat' first
    | with_reducible assumption | with_reducible apply State.raise_kept | with_reducible apply State.cause_kept | (intro _ _)
    | with_reducible refine Kept.ite (fun _ => ?_) (fun _ => ?_) | split
    | with_reducible refine Kept.mk_same ?_ rfl rfl rfl rfl rfl rfl rfl rfl rfl rfl rfl rfl

theorem State.nextColls_kept {base s : State} (hk : Kept sk base s) (fuel vc : Nat) : Kept sk base (State.nextColls s fuel vc) := by
  induction fuel generalizing s vc with
  | zero =>
    unfold State.nextColls
    try dsimp only
    repeat' first
      | with_reducible assumption | with_reducible apply State.beginColl_kept | (intro _ _)
      | with_reducible refine Kept.ite (fun _ => ?_) (fun _ => ?_) | split
      | with_reducible refine Kept.mk_same ?_ rfl rfl rfl rfl rfl rfl rfl rfl rfl rfl rfl rfl
  | succ n ih =>
    unfold State.nextColls
    try dsimp only
    repeat' first
      | with_reducible assumption | with_reducible apply ih | with_reducible apply State.beginColl_kept | (intro _ _)
      | with_reducible refine Kept.ite (fun _ => ?_) (fun _ => ?_) | split
      | with_reducible refine Kept.mk_same ?_ rfl rfl rfl rfl rfl rfl rfl rfl rfl rfl rfl rfl

theorem State.nextColl_kept {base s : State} (hk : Kept sk base s) (vc : Nat) : Kept sk base (State.nextColl s vc) := by
  unfold State.nextColl
  try dsimp only
  repeat' first
    | with_reducible assumption | with_reducible apply State.nextColls_kept | (intro _ _)
    | with_reducible refine Kept.ite (fun _ => ?_) (fun _ => ?_) | split
    | with_reducible refine Kept.mk_same ?_ rfl rfl rfl rfl rfl rfl rfl rfl rfl rfl rfl rfl

theorem State.collComplete_kept {base s : State} (hk : Kept sk base s) (vc : Nat) : Kept sk base (State.collComplete s vc) := by
  unfold State.collComplete
  try dsimp only
  repeat' first
    | with_reducible assumption | with_reducible apply State.finish_kept | with_reducible apply State.nanOut_kept
    | with_reducible apply State.settleBlocks_kept | with_reducible apply State.ringOvf_kept | with_reducible apply State.nextColl_kept
    | (intro _ _) | with_reducible refine Kept.ite (fun _ => ?_) (fun _ => ?_) | split
    | with_reducible refine Kept.mk_same ?_ rfl rfl rfl rfl rfl rfl rfl rfl rfl rfl rfl rfl

theorem execCollComplete_kept (s : State) (vc : Nat) : KeptO sk s (execCollComplete vc s) := by
  have hk : Kept sk s s := Kept.refl s
  unfold execCollComplete
  try dsimp only
  repeat' first
    | with_reducible assumption | with_reducible apply KeptO.next | with_reducible exact KeptO.fault _
    | with_reducible apply State.collComplete_kept | (intro _ _) | with_reducible refine Kept.ite (fun _ => ?_) (fun _ => ?_) | split
    | with_reducible refine Kept.mk_same ?_ rfl rfl rfl rfl rfl rfl rfl rfl rfl rfl rfl rfl

end Sys2Proof.Machine
end

