-- ==== Sys2Proof/Laws/KeptOps2.lean ====
section
/-! SUPPORT. One lemma for each operation of the machine, saying that it keeps what Kept names: background work, NVM blocks, memory, the sequencer and the mailbox. -/

namespace Sys2Proof.Machine

-- Every lemma has the same proof, whose steps serve some operations and not others.
set_option linter.unusedTactic false
set_option linter.unreachableTactic false

variable {sk : Skip}

/-! ### Background -/

theorem State.newSct_kept {base s : State} (hk : Kept sk base s) (t : Tab (List Word)) : Kept sk base (State.newSct s t) := by
  unfold State.newSct
  try dsimp only
  repeat' first
    | with_reducible assumption | with_reducible apply State.raise_kept | (intro _ _)
    | with_reducible refine Kept.ite (fun _ => ?_) (fun _ => ?_) | split
    | with_reducible refine Kept.mk_same ?_ rfl rfl rfl rfl rfl rfl rfl rfl rfl rfl rfl rfl

theorem State.publish_kept {base s : State} (hk : Kept sk base s) : Kept sk base (State.publish s) := by
  unfold State.publish
  try dsimp only
  repeat' first
    | with_reducible assumption | with_reducible apply State.newSct_kept | (intro _ _)
    | with_reducible refine Kept.ite (fun _ => ?_) (fun _ => ?_) | split
    | with_reducible refine Kept.mk_same ?_ rfl rfl rfl rfl rfl rfl rfl rfl rfl rfl rfl rfl

theorem State.publishCore_kept {base s : State} (hk : Kept sk base s) (core : Nat) : Kept sk base (State.publishCore s core) := by
  unfold State.publishCore
  try dsimp only
  repeat' first
    | with_reducible assumption | with_reducible apply State.newSct_kept | with_reducible refine Kept.foldl _ (fun _ _ _ => ?_) _ _ ?_
    | (intro _ _) | with_reducible refine Kept.ite (fun _ => ?_) (fun _ => ?_) | split
    | with_reducible refine Kept.mk_same ?_ rfl rfl rfl rfl rfl rfl rfl rfl rfl rfl rfl rfl

theorem State.makeDue_kept {base s : State} (hk : Kept sk base s) (core : Nat) (urgent : Bool) :
    Kept sk base (State.makeDue s core urgent) := by
  unfold State.makeDue
  try dsimp only
  repeat' first
    | with_reducible assumption | (intro _ _) | with_reducible refine Kept.ite (fun _ => ?_) (fun _ => ?_) | split
    | with_reducible refine Kept.mk_same ?_ rfl rfl rfl rfl rfl rfl rfl rfl rfl rfl rfl rfl

theorem State.degrade_kept {base s : State} (hk : Kept sk base s) : Kept sk base (State.degrade s) := by
  unfold State.degrade
  try dsimp only
  repeat' first
    | with_reducible assumption | (intro _ _) | with_reducible refine Kept.ite (fun _ => ?_) (fun _ => ?_) | split
    | with_reducible refine Kept.mk_same ?_ rfl rfl rfl rfl rfl rfl rfl rfl rfl rfl rfl rfl

theorem State.arrayShort_kept {base s : State} (hk : Kept sk base s) (a : Nat) : Kept sk base (State.arrayShort s a) := by
  unfold State.arrayShort
  try dsimp only
  repeat' first
    | with_reducible assumption | with_reducible apply State.raiseU_kept | with_reducible apply State.setArray_kept | (intro _ _)
    | with_reducible refine Kept.ite (fun _ => ?_) (fun _ => ?_) | split
    | with_reducible refine Kept.mk_same ?_ rfl rfl rfl rfl rfl rfl rfl rfl rfl rfl rfl rfl

theorem State.writeRemap_kept {base s : State} (hk : Kept sk base s) (core : Nat) : Kept sk base (State.writeRemap s core) := by
  unfold State.writeRemap
  try dsimp only
  repeat' first
    | with_reducible assumption | (intro _ _) | with_reducible refine Kept.ite (fun _ => ?_) (fun _ => ?_) | split
    | with_reducible refine Kept.mk_same ?_ rfl rfl rfl rfl rfl rfl rfl rfl rfl rfl rfl rfl

theorem State.setSpare_kept {base s : State} (hk : Kept sk base s) (a n : Nat) (e : Spare) : Kept sk base (State.setSpare s a n e) := by
  unfold State.setSpare
  try dsimp only
  repeat' first
    | with_reducible assumption | with_reducible apply State.setArray_kept | with_reducible apply State.writeRemap_kept | (intro _ _)
    | with_reducible refine Kept.ite (fun _ => ?_) (fun _ => ?_) | split
    | with_reducible refine Kept.mk_same ?_ rfl rfl rfl rfl rfl rfl rfl rfl rfl rfl rfl rfl

theorem State.takeSpare_kept {base s : State} (hk : Kept sk base s) (a row n : Nat) : Kept sk base (State.takeSpare s a row n) := by
  unfold State.takeSpare
  try dsimp only
  repeat' first
    | with_reducible assumption | with_reducible apply State.rewriteRow_kept | with_reducible apply State.setSpare_kept | (intro _ _)
    | with_reducible refine Kept.ite (fun _ => ?_) (fun _ => ?_) | split
    | with_reducible refine Kept.mk_same ?_ rfl rfl rfl rfl rfl rfl rfl rfl rfl rfl rfl rfl

theorem State.rowFails_kept {base s : State} (hk : Kept sk base s) (a phys : Nat) (wrong : Bool) :
    Kept sk base (State.rowFails s a phys wrong) := by
  unfold State.rowFails
  try dsimp only
  repeat' first
    | with_reducible assumption | with_reducible apply State.count_kept | with_reducible apply State.raiseU_kept
    | with_reducible apply State.chargeErr_kept | with_reducible apply State.arrayShort_kept | with_reducible apply State.setSpare_kept
    | with_reducible apply State.takeSpare_kept | (intro _ _) | with_reducible refine Kept.ite (fun _ => ?_) (fun _ => ?_) | split
    | with_reducible refine Kept.mk_same ?_ rfl rfl rfl rfl rfl rfl rfl rfl rfl rfl rfl rfl

theorem State.scrubFind_kept {base s : State} (hk : Kept sk base s) (core bank pos : Nat) (f : RowRead) :
    Kept sk base (State.scrubFind s core bank pos f) := by
  unfold State.scrubFind
  try dsimp only
  repeat' first
    | with_reducible assumption | with_reducible apply State.count_kept | with_reducible apply State.cause_kept
    | with_reducible apply State.rewriteRow_kept | with_reducible apply State.rowFails_kept | (intro _ _)
    | with_reducible refine Kept.ite (fun _ => ?_) (fun _ => ?_) | split
    | with_reducible refine Kept.mk_same ?_ rfl rfl rfl rfl rfl rfl rfl rfl rfl rfl rfl rfl

theorem State.scrubFinds_kept {base s : State} (hk : Kept sk base s) (core bank pos : Nat) (l : List RowRead) :
    Kept sk base (State.scrubFinds s core bank pos l) := by
  induction l generalizing s core bank pos with
  | nil =>
    unfold State.scrubFinds
    try dsimp only
    repeat' first
      | with_reducible assumption | with_reducible apply State.scrubFind_kept | (intro _ _)
      | with_reducible refine Kept.ite (fun _ => ?_) (fun _ => ?_) | split
      | with_reducible refine Kept.mk_same ?_ rfl rfl rfl rfl rfl rfl rfl rfl rfl rfl rfl rfl
  | cons x r ih =>
    unfold State.scrubFinds
    try dsimp only
    repeat' first
      | with_reducible assumption | with_reducible apply ih | with_reducible apply State.scrubFind_kept | (intro _ _)
      | with_reducible refine Kept.ite (fun _ => ?_) (fun _ => ?_) | split
      | with_reducible refine Kept.mk_same ?_ rfl rfl rfl rfl rfl rfl rfl rfl rfl rfl rfl rfl

theorem State.setAverages_kept {base s : State} (hk : Kept sk base s) (core bank sigma : Nat) :
    Kept sk base (State.setAverages s core bank sigma) := by
  unfold State.setAverages
  extract_lets c
  split
  · exact State.setCore_kept hk _ _
  · exact Kept.ite (fun _ => State.quarantineAll_kept (State.setCore_kept hk _ _) _)
      (fun _ => State.makeDue_kept (State.setCore_kept hk _ _) _ _)

theorem State.scrubPass_kept {base s : State} (hk : Kept sk base s) (core bank sigma : Nat) :
    Kept sk base (State.scrubPass s core bank sigma) := by
  unfold State.scrubPass
  try dsimp only
  repeat' first
    | with_reducible assumption | with_reducible apply State.count_kept | with_reducible apply State.setCore_kept
    | with_reducible apply State.setAverages_kept | (intro _ _) | with_reducible refine Kept.ite (fun _ => ?_) (fun _ => ?_) | split
    | with_reducible refine Kept.mk_same ?_ rfl rfl rfl rfl rfl rfl rfl rfl rfl rfl rfl rfl

theorem State.scrubStep_kept {base s : State} (hk : Kept sk base s) (core bank pos : Nat) (finds : List RowRead) (sigma : Nat) :
    Kept sk base (State.scrubStep s core bank pos finds sigma) := by
  unfold State.scrubStep
  try dsimp only
  repeat' first
    | with_reducible assumption | with_reducible apply State.setCore_kept | with_reducible apply State.scrubFinds_kept
    | with_reducible apply State.scrubPass_kept | (intro _ _) | with_reducible refine Kept.ite (fun _ => ?_) (fun _ => ?_) | split
    | with_reducible refine Kept.mk_same ?_ rfl rfl rfl rfl rfl rfl rfl rfl rfl rfl rfl rfl

theorem execScrubStep_kept (s : State) (core bank pos : Nat) (finds : List RowRead) (sigma : Nat) :
    KeptO sk s (execScrubStep core bank pos finds sigma s) := by
  have hk : Kept sk s s := Kept.refl s
  unfold execScrubStep
  try dsimp only
  repeat' first
    | with_reducible assumption | with_reducible apply KeptO.next | with_reducible exact KeptO.fault _
    | with_reducible apply State.scrubStep_kept | (intro _ _) | with_reducible refine Kept.ite (fun _ => ?_) (fun _ => ?_) | split
    | with_reducible refine Kept.mk_same ?_ rfl rfl rfl rfl rfl rfl rfl rfl rfl rfl rfl rfl

theorem execScrubLate_kept (s : State) (core bank ageUs : Nat) : KeptO sk s (execScrubLate core bank ageUs s) := by
  have hk : Kept sk s s := Kept.refl s
  unfold execScrubLate
  try dsimp only
  repeat' first
    | with_reducible assumption | with_reducible apply KeptO.next | with_reducible exact KeptO.fault _
    | with_reducible apply State.count_kept | with_reducible apply State.raiseU_kept | with_reducible apply State.setCore_kept
    | (intro _ _) | with_reducible refine Kept.ite (fun _ => ?_) (fun _ => ?_) | split
    | with_reducible refine Kept.mk_same ?_ rfl rfl rfl rfl rfl rfl rfl rfl rfl rfl rfl rfl

theorem execScrubAgeLimit_kept (s : State) (core bank : Nat) : KeptO sk s (execScrubAgeLimit core bank s) := by
  have hk : Kept sk s s := Kept.refl s
  unfold execScrubAgeLimit
  try dsimp only
  repeat' first
    | with_reducible assumption | with_reducible apply KeptO.next | with_reducible exact KeptO.fault _
    | with_reducible apply State.setCore_kept | (intro _ _) | with_reducible refine Kept.ite (fun _ => ?_) (fun _ => ?_) | split
    | with_reducible refine Kept.mk_same ?_ rfl rfl rfl rfl rfl rfl rfl rfl rfl rfl rfl rfl

theorem State.moveArray_kept {base s : State} (hk : Kept sk base s) (a b : Nat) : Kept sk base (State.moveArray s a b) := by
  unfold State.moveArray
  try dsimp only
  repeat' first
    | with_reducible assumption | with_reducible apply State.setArray_kept | with_reducible apply State.programAll_kept | (intro _ _)
    | with_reducible refine Kept.ite (fun _ => ?_) (fun _ => ?_) | split
    | with_reducible refine Kept.mk_same ?_ rfl rfl rfl rfl rfl rfl rfl rfl rfl rfl rfl rfl

theorem State.replace_kept {base s : State} (hk : Kept sk base s) (array : Nat) : Kept sk base (State.replace s array) := by
  unfold State.replace
  try dsimp only
  repeat' first
    | with_reducible assumption | with_reducible apply State.setArray_kept | with_reducible apply State.queueMove_kept
    | with_reducible apply State.publish_kept | with_reducible apply State.degrade_kept | with_reducible apply State.moveArray_kept
    | (intro _ _) | with_reducible refine Kept.ite (fun _ => ?_) (fun _ => ?_) | split
    | with_reducible refine Kept.mk_same ?_ rfl rfl rfl rfl rfl rfl rfl rfl rfl rfl rfl rfl

theorem execArrayReplace_kept (s : State) (array : Nat) : KeptO sk s (execArrayReplace array s) := by
  have hk : Kept sk s s := Kept.refl s
  unfold execArrayReplace
  try dsimp only
  repeat' first
    | with_reducible assumption | with_reducible apply KeptO.next | with_reducible exact KeptO.fault _
    | with_reducible apply State.replace_kept | (intro _ _) | with_reducible refine Kept.ite (fun _ => ?_) (fun _ => ?_) | split
    | with_reducible refine Kept.mk_same ?_ rfl rfl rfl rfl rfl rfl rfl rfl rfl rfl rfl rfl

theorem State.checksumFails_kept {base s : State} (hk : Kept sk base s) (a : Nat) (w : ChkWin) :
    Kept sk base (State.checksumFails s a w) := by
  unfold State.checksumFails
  try dsimp only
  repeat' first
    | with_reducible assumption | with_reducible apply State.count_kept | with_reducible apply State.raiseU_kept
    | with_reducible apply State.setArray_kept | with_reducible apply State.chargeErr_kept | (intro _ _)
    | with_reducible refine Kept.ite (fun _ => ?_) (fun _ => ?_) | split
    | with_reducible refine Kept.mk_same ?_ rfl rfl rfl rfl rfl rfl rfl rfl rfl rfl rfl rfl

theorem State.judgeWindow_kept {base s : State} (hk : Kept sk base s) (a : Nat) : Kept sk base (State.judgeWindow s a) := by
  unfold State.judgeWindow
  try dsimp only
  repeat' first
    | with_reducible assumption | with_reducible apply State.count_kept | with_reducible apply State.setArray_kept
    | with_reducible apply State.checksumFails_kept | (intro _ _) | with_reducible refine Kept.ite (fun _ => ?_) (fun _ => ?_) | split
    | with_reducible refine Kept.mk_same ?_ rfl rfl rfl rfl rfl rfl rfl rfl rfl rfl rfl rfl

theorem State.judgeWindows_kept {base s : State} (hk : Kept sk base s) (a n : Nat) : Kept sk base (State.judgeWindows s a n) := by
  induction n generalizing s a with
  | zero =>
    unfold State.judgeWindows
    try dsimp only
    repeat' first
      | with_reducible assumption | with_reducible apply State.judgeWindow_kept | (intro _ _)
      | with_reducible refine Kept.ite (fun _ => ?_) (fun _ => ?_) | split
      | with_reducible refine Kept.mk_same ?_ rfl rfl rfl rfl rfl rfl rfl rfl rfl rfl rfl rfl
  | succ n ih =>
    unfold State.judgeWindows
    try dsimp only
    repeat' first
      | with_reducible assumption | with_reducible apply ih | with_reducible apply State.judgeWindow_kept | (intro _ _)
      | with_reducible refine Kept.ite (fun _ => ?_) (fun _ => ?_) | split
      | with_reducible refine Kept.mk_same ?_ rfl rfl rfl rfl rfl rfl rfl rfl rfl rfl rfl rfl

theorem execChecksumWindow_kept (s : State) (array : Nat) : KeptO sk s (execChecksumWindow array s) := by
  have hk : Kept sk s s := Kept.refl s
  unfold execChecksumWindow
  try dsimp only
  repeat' first
    | with_reducible assumption | with_reducible apply KeptO.next | with_reducible exact KeptO.fault _
    | with_reducible apply State.judgeWindow_kept | (intro _ _) | with_reducible refine Kept.ite (fun _ => ?_) (fun _ => ?_) | split
    | with_reducible refine Kept.mk_same ?_ rfl rfl rfl rfl rfl rfl rfl rfl rfl rfl rfl rfl

theorem State.capture_kept {base s : State} (hk : Kept sk base s) (p : Pattern) : Kept sk base (State.capture s p) := by
  unfold State.capture
  try dsimp only
  repeat' first
    | with_reducible assumption | with_reducible apply State.raise_kept | (intro _ _)
    | with_reducible refine Kept.ite (fun _ => ?_) (fun _ => ?_) | split
    | with_reducible refine Kept.mk_same ?_ rfl rfl rfl rfl rfl rfl rfl rfl rfl rfl rfl rfl

theorem State.tasteFails_kept {base s : State} (hk : Kept sk base s) (a : Nat) (c : Captured) :
    Kept sk base (State.tasteFails s a c) := by
  unfold State.tasteFails
  extract_lets x openStep closing s1 s2
  have h1 : Kept sk base s1 := State.raiseU_kept (State.count_kept hk _ _) _ _ _
  have h2 : Kept sk base s2 := Kept.ite (fun _ => State.cause_kept h1 _) (fun _ => h1)
  clear_value s2
  exact Kept.ite (fun _ => State.makeDue_kept (State.chargeErr_kept (State.setArray_kept h2 _ _) _ _ _ _) _ _)
    (fun _ => State.chargeErr_kept (State.capture_kept (State.setArray_kept h2 _ _) _) _ _ _ _)

theorem State.tasting_kept {base s : State} (hk : Kept sk base s) (a : Nat) (c : Captured) : Kept sk base (State.tasting s a c) := by
  unfold State.tasting
  extract_lets r s1 z
  have h1 : Kept sk base s1 := State.draw_kept (State.keepWindows_kept (State.count_kept hk _ _) _) _
  clear_value s1
  exact Kept.ite (fun _ => State.setArray_kept h1 _ _) (fun _ => State.tasteFails_kept h1 _ _)

theorem execTasting_kept (s : State) (array : Nat) : KeptO sk s (execTasting array s) := by
  have hk : Kept sk s s := Kept.refl s
  unfold execTasting
  try dsimp only
  repeat' first
    | with_reducible assumption | with_reducible apply KeptO.next | with_reducible exact KeptO.fault _
    | with_reducible apply State.tasting_kept | (intro _ _) | with_reducible refine Kept.ite (fun _ => ?_) (fun _ => ?_) | split
    | with_reducible refine Kept.mk_same ?_ rfl rfl rfl rfl rfl rfl rfl rfl rfl rfl rfl rfl

theorem State.levelEvents_kept {base s : State} (hk : Kept sk base s) (old new : Nat) : Kept sk base (State.levelEvents s old new) := by
  unfold State.levelEvents
  try dsimp only
  repeat' first
    | with_reducible assumption | with_reducible apply State.setSticky_kept | with_reducible apply State.raise_kept | (intro _ _)
    | with_reducible refine Kept.ite (fun _ => ?_) (fun _ => ?_) | split
    | with_reducible refine Kept.mk_same ?_ rfl rfl rfl rfl rfl rfl rfl rfl rfl rfl rfl rfl

theorem State.coreTemp_kept {base s : State} (hk : Kept sk base s) (core : Nat) (t : Int) : Kept sk base (State.coreTemp s core t) := by
  unfold State.coreTemp
  try dsimp only
  repeat' first
    | with_reducible assumption | with_reducible apply State.raiseU_kept | with_reducible apply State.setCore_kept
    | with_reducible apply State.makeDue_kept | (intro _ _) | with_reducible refine Kept.ite (fun _ => ?_) (fun _ => ?_) | split
    | with_reducible refine Kept.mk_same ?_ rfl rfl rfl rfl rfl rfl rfl rfl rfl rfl rfl rfl

theorem State.coreTemps_kept {base s : State} (hk : Kept sk base s) (cores : List Nat) (clusters : List Int) :
    Kept sk base (State.coreTemps s cores clusters) := by
  induction cores generalizing s clusters with
  | nil =>
    unfold State.coreTemps
    try dsimp only
    repeat' first
      | with_reducible assumption | with_reducible apply State.coreTemp_kept | (intro _ _)
      | with_reducible refine Kept.ite (fun _ => ?_) (fun _ => ?_) | split
      | with_reducible refine Kept.mk_same ?_ rfl rfl rfl rfl rfl rfl rfl rfl rfl rfl rfl rfl
  | cons x r ih =>
    unfold State.coreTemps
    try dsimp only
    repeat' first
      | with_reducible assumption | with_reducible apply ih | with_reducible apply State.coreTemp_kept | (intro _ _)
      | with_reducible refine Kept.ite (fun _ => ?_) (fun _ => ?_) | split
      | with_reducible refine Kept.mk_same ?_ rfl rfl rfl rfl rfl rfl rfl rfl rfl rfl rfl rfl

theorem State.dieTemps_kept {base s : State} (hk : Kept sk base s) (cd0 cd1 iod : Int) (clusters : List Int) :
    Kept sk base (State.dieTemps s cd0 cd1 iod clusters) := by
  unfold State.dieTemps
  try dsimp only
  repeat' first
    | with_reducible assumption | with_reducible apply State.dutyFall_kept | with_reducible apply State.levelEvents_kept
    | with_reducible apply State.coreTemps_kept | (intro _ _) | with_reducible refine Kept.ite (fun _ => ?_) (fun _ => ?_) | split
    | with_reducible refine Kept.mk_same ?_ rfl rfl rfl rfl rfl rfl rfl rfl rfl rfl rfl rfl

theorem State.coolant_kept {base s : State} (hk : Kept sk base s) (inlet outlet : Int) : Kept sk base (State.coolant s inlet outlet) := by
  unfold State.coolant
  try dsimp only
  repeat' first
    | with_reducible assumption | with_reducible apply State.setSticky_kept | with_reducible apply State.raise_kept | (intro _ _)
    | with_reducible refine Kept.ite (fun _ => ?_) (fun _ => ?_) | split
    | with_reducible refine Kept.mk_same ?_ rfl rfl rfl rfl rfl rfl rfl rfl rfl rfl rfl rfl

/-! ### Nvm -/

theorem State.calFail_kept {base s : State} (hk : Kept sk base s) (unit : Nat) (words : List Word) :
    Kept sk base (State.calFail s unit words) := by
  unfold State.calFail
  try dsimp only
  repeat' first
    | with_reducible assumption | with_reducible apply State.count_kept | with_reducible apply State.raiseU_kept | (intro _ _)
    | with_reducible refine Kept.ite (fun _ => ?_) (fun _ => ?_) | split
    | with_reducible refine Kept.mk_same ?_ rfl rfl rfl rfl rfl rfl rfl rfl rfl rfl rfl rfl

theorem State.writeBlock_kept {base s : State} (hk : Kept sk base s) (core : Nat) : Kept sk base (State.writeBlock s core) := by
  unfold State.writeBlock
  try dsimp only
  repeat' first
    | with_reducible assumption | (intro _ _) | with_reducible refine Kept.ite (fun _ => ?_) (fun _ => ?_) | split
    | with_reducible refine Kept.mk_same ?_ rfl rfl rfl rfl rfl rfl rfl rfl rfl rfl rfl rfl

theorem State.useBlock_kept {base s : State} (hk : Kept sk base s) (core : Nat) (bs : List Byte) :
    Kept sk base (State.useBlock s core bs) := by
  unfold State.useBlock
  extract_lets h c s1 recs vals k i s2
  have h1 : Kept sk base s1 := State.setCore_kept hk _ _
  have h2 : Kept sk base s2 := Kept.mk_same h1 rfl rfl rfl rfl rfl rfl rfl rfl rfl rfl rfl rfl
  clear_value s2
  exact Kept.foldl _ (fun _ _ h => State.setArray_kept h _ _) _ _ h2

theorem State.badBlock_kept {base s : State} (hk : Kept sk base s) (core : Nat) : Kept sk base (State.badBlock s core) := by
  unfold State.badBlock
  try dsimp only
  repeat' first
    | with_reducible assumption | with_reducible apply State.count_kept | with_reducible apply State.setCore_kept
    | with_reducible apply State.makeDue_kept | with_reducible apply State.calFail_kept | (intro _ _)
    | with_reducible refine Kept.ite (fun _ => ?_) (fun _ => ?_) | split
    | with_reducible refine Kept.mk_same ?_ rfl rfl rfl rfl rfl rfl rfl rfl rfl rfl rfl rfl

theorem State.loadBlock_kept {base s : State} (hk : Kept sk base s) (core : Nat) (n : NvmRead) :
    Kept sk base (State.loadBlock s core n) := by
  unfold State.loadBlock
  split
  · exact hk
  · exact Kept.ite (fun _ => State.useBlock_kept hk _ _) (fun _ => State.badBlock_kept hk _)

theorem State.useRemap_kept {base s : State} (hk : Kept sk base s) (core : Nat) (bs : List Byte) :
    Kept sk base (State.useRemap s core bs) := by
  unfold State.useRemap
  exact Kept.foldl _ (fun _ _ h => State.setArray_kept h _ _) _ _ hk

theorem State.rowsFail_kept {base s : State} (hk : Kept sk base s) (a : Nat) (l : List Nat) : Kept sk base (State.rowsFail s a l) := by
  induction l generalizing s a with
  | nil =>
    unfold State.rowsFail
    try dsimp only
    repeat' first
      | with_reducible assumption | with_reducible apply State.rowFails_kept | (intro _ _)
      | with_reducible refine Kept.ite (fun _ => ?_) (fun _ => ?_) | split
      | with_reducible refine Kept.mk_same ?_ rfl rfl rfl rfl rfl rfl rfl rfl rfl rfl rfl rfl
  | cons x r ih =>
    unfold State.rowsFail
    try dsimp only
    repeat' first
      | with_reducible assumption | with_reducible apply ih | with_reducible apply State.rowFails_kept | (intro _ _)
      | with_reducible refine Kept.ite (fun _ => ?_) (fun _ => ?_) | split
      | with_reducible refine Kept.mk_same ?_ rfl rfl rfl rfl rfl rfl rfl rfl rfl rfl rfl rfl

theorem State.badRemap_kept {base s : State} (hk : Kept sk base s) (core : Nat) : Kept sk base (State.badRemap s core) := by
  unfold State.badRemap
  exact Kept.foldl _ (fun _ _ h => State.rowsFail_kept (State.rowsFail_kept (State.setArray_kept h _ _) _ _) _ _) _ _
    (State.calFail_kept hk _ _)

theorem State.loadRemap_kept {base s : State} (hk : Kept sk base s) (core : Nat) (n : NvmRead) :
    Kept sk base (State.loadRemap s core n) := by
  unfold State.loadRemap
  split
  · exact hk
  · split
    · exact State.useRemap_kept hk _ _
    · exact State.useRemap_kept hk _ _
    · exact State.useRemap_kept hk _ _
    · exact State.badRemap_kept hk _

theorem State.loadBlocks_kept {base s : State} (hk : Kept sk base s) (n : NvmRead) (l : List Nat) :
    Kept sk base (State.loadBlocks s n l) := by
  induction l generalizing s n with
  | nil =>
    unfold State.loadBlocks
    try dsimp only
    repeat' first
      | with_reducible assumption | with_reducible apply State.loadBlock_kept | with_reducible apply State.loadRemap_kept | (intro _ _)
      | with_reducible refine Kept.ite (fun _ => ?_) (fun _ => ?_) | split
      | with_reducible refine Kept.mk_same ?_ rfl rfl rfl rfl rfl rfl rfl rfl rfl rfl rfl rfl
  | cons x r ih =>
    unfold State.loadBlocks
    try dsimp only
    repeat' first
      | with_reducible assumption | with_reducible apply ih | with_reducible apply State.loadBlock_kept
      | with_reducible apply State.loadRemap_kept | (intro _ _) | with_reducible refine Kept.ite (fun _ => ?_) (fun _ => ?_) | split
      | with_reducible refine Kept.mk_same ?_ rfl rfl rfl rfl rfl rfl rfl rfl rfl rfl rfl rfl

/-! ### Memory -/

theorem State.recovered_kept {base s : State} (hk : Kept sk base s) (kind : Nat) : Kept sk base (State.recovered s kind) := by
  unfold State.recovered
  try dsimp only
  repeat' first
    | with_reducible assumption | with_reducible apply State.draw_kept | (intro _ _)
    | with_reducible refine Kept.ite (fun _ => ?_) (fun _ => ?_) | split
    | with_reducible refine Kept.mk_same ?_ rfl rfl rfl rfl rfl rfl rfl rfl rfl rfl rfl rfl

theorem execPatrolScrub_kept (s : State) (region frame : Nat) (g : MemObs) (lost : Bool) :
    KeptO sk s (execPatrolScrub region frame g lost s) := by
  have hk : Kept sk s s := Kept.refl s
  unfold execPatrolScrub
  try dsimp only
  repeat' first
    | with_reducible assumption | with_reducible apply KeptO.next | with_reducible exact KeptO.fault _
    | with_reducible apply State.count_kept | with_reducible apply State.memCe_kept | with_reducible apply State.memUe_kept | (intro _ _)
    | with_reducible refine Kept.ite (fun _ => ?_) (fun _ => ?_) | split
    | with_reducible refine Kept.mk_same ?_ rfl rfl rfl rfl rfl rfl rfl rfl rfl rfl rfl rfl

theorem execFrameRepair_kept (s : State) (region frame src : Nat) (data : List Byte) :
    KeptO sk s (execFrameRepair region frame src data s) := by
  have hk : Kept sk s s := Kept.refl s
  unfold execFrameRepair
  try dsimp only
  repeat' first
    | with_reducible assumption | with_reducible apply KeptO.next | with_reducible exact KeptO.fault _
    | with_reducible apply State.raiseU_kept | with_reducible apply State.cause_kept | with_reducible apply State.rawWrite_kept
    | with_reducible apply State.account_kept | with_reducible apply State.recovered_kept | (intro _ _)
    | with_reducible refine Kept.ite (fun _ => ?_) (fun _ => ?_) | split
    | with_reducible refine Kept.mk_same ?_ rfl rfl rfl rfl rfl rfl rfl rfl rfl rfl rfl rfl

theorem State.memHot_kept {base s : State} (hk : Kept sk base s) (dev old new lvl : Nat) (t : Int) :
    Kept sk base (State.memHot s dev old new lvl t) := by
  unfold State.memHot
  try dsimp only
  repeat' first
    | with_reducible assumption | with_reducible apply State.raiseU_kept | (intro _ _)
    | with_reducible refine Kept.ite (fun _ => ?_) (fun _ => ?_) | split
    | with_reducible refine Kept.mk_same ?_ rfl rfl rfl rfl rfl rfl rfl rfl rfl rfl rfl rfl

theorem State.memTempSample_kept {base s : State} (hk : Kept sk base s) (dev : Nat) (temp : Int) :
    Kept sk base (State.memTempSample s dev temp) := by
  unfold State.memTempSample
  try dsimp only
  repeat' first
    | with_reducible assumption | with_reducible apply State.raise_kept | with_reducible apply State.memHot_kept | (intro _ _)
    | with_reducible refine Kept.ite (fun _ => ?_) (fun _ => ?_) | split
    | with_reducible refine Kept.mk_same ?_ rfl rfl rfl rfl rfl rfl rfl rfl rfl rfl rfl rfl

theorem execEvacClear_kept (s : State) : KeptO sk s (execEvacClear s) := by
  have hk : Kept sk s s := Kept.refl s
  unfold execEvacClear
  try dsimp only
  repeat' first
    | with_reducible assumption | with_reducible apply KeptO.next | with_reducible exact KeptO.fault _ | (intro _ _)
    | with_reducible refine Kept.ite (fun _ => ?_) (fun _ => ?_) | split
    | with_reducible refine Kept.mk_same ?_ rfl rfl rfl rfl rfl rfl rfl rfl rfl rfl rfl rfl

theorem execMemPatrolCfgWrite_kept (s : State) (v : Word) : KeptO sk s (execMemPatrolCfgWrite v s) := by
  have hk : Kept sk s s := Kept.refl s
  unfold execMemPatrolCfgWrite
  try dsimp only
  repeat' first
    | with_reducible assumption | with_reducible apply KeptO.next | with_reducible exact KeptO.fault _ | (intro _ _)
    | with_reducible refine Kept.ite (fun _ => ?_) (fun _ => ?_) | split
    | with_reducible refine Kept.mk_same ?_ rfl rfl rfl rfl rfl rfl rfl rfl rfl rfl rfl rfl

theorem State.setTgen_kept {base s : State} (hk : Kept sk base s) (dev : Nat) (t : TrafficGen) : Kept sk base (State.setTgen s dev t) := by
  unfold State.setTgen
  try dsimp only
  repeat' first
    | with_reducible assumption | (intro _ _) | with_reducible refine Kept.ite (fun _ => ?_) (fun _ => ?_) | split
    | with_reducible refine Kept.mk_same ?_ rfl rfl rfl rfl rfl rfl rfl rfl rfl rfl rfl rfl

theorem State.tgWrite_kept {base s : State} (hk : Kept sk base s) (dev : Nat) (v : Word) : Kept sk base (State.tgWrite s dev v) := by
  unfold State.tgWrite
  try dsimp only
  repeat' first
    | with_reducible assumption | with_reducible apply State.setTgen_kept | (intro _ _)
    | with_reducible refine Kept.ite (fun _ => ?_) (fun _ => ?_) | split
    | with_reducible refine Kept.mk_same ?_ rfl rfl rfl rfl rfl rfl rfl rfl rfl rfl rfl rfl

theorem execTgGo_kept (s : State) (dev : Nat) (v : Word) : KeptO sk s (execTgGo dev v s) := by
  have hk : Kept sk s s := Kept.refl s
  unfold execTgGo
  try dsimp only
  repeat' first
    | with_reducible assumption | with_reducible apply KeptO.next | with_reducible exact KeptO.fault _
    | with_reducible apply State.tgWrite_kept | (intro _ _) | with_reducible refine Kept.ite (fun _ => ?_) (fun _ => ?_) | split
    | with_reducible refine Kept.mk_same ?_ rfl rfl rfl rfl rfl rfl rfl rfl rfl rfl rfl rfl

theorem execTgStop_kept (s : State) (dev : Nat) (v : Word) : KeptO sk s (execTgStop dev v s) := by
  have hk : Kept sk s s := Kept.refl s
  unfold execTgStop
  try dsimp only
  repeat' first
    | with_reducible assumption | with_reducible apply KeptO.next | with_reducible exact KeptO.fault _
    | with_reducible apply State.tgWrite_kept | (intro _ _) | with_reducible refine Kept.ite (fun _ => ?_) (fun _ => ?_) | split
    | with_reducible refine Kept.mk_same ?_ rfl rfl rfl rfl rfl rfl rfl rfl rfl rfl rfl rfl

theorem State.spoil_kept {base s : State} (hk : Kept sk base s) (r off n : Nat) : Kept sk base (State.spoil s r off n) := by
  unfold State.spoil
  try dsimp only
  repeat' first
    | with_reducible assumption | (intro _ _) | with_reducible refine Kept.ite (fun _ => ?_) (fun _ => ?_) | split
    | with_reducible refine Kept.mk_same ?_ rfl rfl rfl rfl rfl rfl rfl rfl rfl rfl rfl rfl

theorem State.tgRuns_kept {base s : State} (hk : Kept sk base s) (r : Nat) (t : TrafficGen) (runs : List (Nat × Nat)) :
    Kept sk base (State.tgRuns s r t runs) := by
  induction runs generalizing s r t with
  | nil =>
    unfold State.tgRuns
    try dsimp only
    repeat' first
      | with_reducible assumption | with_reducible apply State.draw_kept | with_reducible apply State.rawWrite_kept
      | with_reducible apply State.spoil_kept | (intro _ _) | with_reducible refine Kept.ite (fun _ => ?_) (fun _ => ?_) | split
      | with_reducible refine Kept.mk_same ?_ rfl rfl rfl rfl rfl rfl rfl rfl rfl rfl rfl rfl
  | cons x r ih =>
    unfold State.tgRuns
    try dsimp only
    repeat' first
      | with_reducible assumption | with_reducible apply ih | with_reducible apply State.draw_kept
      | with_reducible apply State.rawWrite_kept | with_reducible apply State.spoil_kept | (intro _ _)
      | with_reducible refine Kept.ite (fun _ => ?_) (fun _ => ?_) | split
      | with_reducible refine Kept.mk_same ?_ rfl rfl rfl rfl rfl rfl rfl rfl rfl rfl rfl rfl

theorem State.tgFree_kept {base s : State} (hk : Kept sk base s) (dev n : Nat) (t : TrafficGen) :
    Kept sk base (State.tgFree s dev n t) := by
  unfold State.tgFree
  try dsimp only
  repeat' first
    | with_reducible assumption | (intro _ _) | with_reducible refine Kept.ite (fun _ => ?_) (fun _ => ?_) | split
    | with_reducible refine Kept.mk_same ?_ rfl rfl rfl rfl rfl rfl rfl rfl rfl rfl rfl rfl

theorem State.tgRecipes_kept {base s : State} (hk : Kept sk base s) (dev n : Nat) : Kept sk base (State.tgRecipes s dev n) := by
  unfold State.tgRecipes
  try dsimp only
  repeat' first
    | with_reducible assumption | (intro _ _) | with_reducible refine Kept.ite (fun _ => ?_) (fun _ => ?_) | split
    | with_reducible refine Kept.mk_same ?_ rfl rfl rfl rfl rfl rfl rfl rfl rfl rfl rfl rfl

theorem State.tgFill_kept {base s : State} (hk : Kept sk base s) (dev n : Nat) (t : TrafficGen) (rs : Tab Region) :
    Kept sk base (State.tgFill s dev n t rs) := by
  induction rs generalizing s dev n t with
  | nil =>
    unfold State.tgFill
    try dsimp only
    repeat' first
      | with_reducible assumption | with_reducible apply State.tgRuns_kept | (intro _ _)
      | with_reducible refine Kept.ite (fun _ => ?_) (fun _ => ?_) | split
      | with_reducible refine Kept.mk_same ?_ rfl rfl rfl rfl rfl rfl rfl rfl rfl rfl rfl rfl
  | cons x r ih =>
    unfold State.tgFill
    try dsimp only
    repeat' first
      | with_reducible assumption | with_reducible apply ih | with_reducible apply State.tgRuns_kept | (intro _ _)
      | with_reducible refine Kept.ite (fun _ => ?_) (fun _ => ?_) | split
      | with_reducible refine Kept.mk_same ?_ rfl rfl rfl rfl rfl rfl rfl rfl rfl rfl rfl rfl

theorem execTgRunDone_kept (s : State) (dev errors : Nat) (first : Word) : KeptO sk s (execTgRunDone dev errors first s) := by
  have hk : Kept sk s s := Kept.refl s
  unfold execTgRunDone
  try dsimp only
  repeat' first
    | with_reducible assumption | with_reducible apply KeptO.next | with_reducible exact KeptO.fault _
    | with_reducible apply State.count_kept | with_reducible apply State.draw_kept | with_reducible apply State.dtFailure_kept
    | with_reducible apply State.setTgen_kept | with_reducible apply State.tgFree_kept | with_reducible apply State.tgRecipes_kept
    | with_reducible apply State.tgFill_kept | (intro _ _) | with_reducible refine Kept.ite (fun _ => ?_) (fun _ => ?_) | split
    | with_reducible refine Kept.mk_same ?_ rfl rfl rfl rfl rfl rfl rfl rfl rfl rfl rfl rfl

/-! ### Recipe -/

theorem State.blankRegion_kept {base s : State} (hk : Kept sk base s) (n : Nat) : Kept sk base (State.blankRegion s n) :=
  Kept.store hk (fun m => ⟨m.1, m.2.1, Mem.wf_filter _ _ m.2.2.1, m.2.2.2⟩) rfl rfl rfl rfl rfl

theorem State.blankRegions_kept {base s : State} (hk : Kept sk base s) (l : List RegionEnt) : Kept sk base (State.blankRegions s l) := by
  induction l generalizing s with
  | nil =>
    unfold State.blankRegions
    try dsimp only
    repeat' first
      | with_reducible assumption | with_reducible apply State.blankRegion_kept | (intro _ _)
      | with_reducible refine Kept.ite (fun _ => ?_) (fun _ => ?_) | split
      | with_reducible refine Kept.mk_same ?_ rfl rfl rfl rfl rfl rfl rfl rfl rfl rfl rfl rfl
  | cons x r ih =>
    unfold State.blankRegions
    try dsimp only
    repeat' first
      | with_reducible assumption | with_reducible apply ih | with_reducible apply State.blankRegion_kept | (intro _ _)
      | with_reducible refine Kept.ite (fun _ => ?_) (fun _ => ?_) | split
      | with_reducible refine Kept.mk_same ?_ rfl rfl rfl rfl rfl rfl rfl rfl rfl rfl rfl rfl

theorem State.takePoisons_kept {base s : State} (hk : Kept sk base s) (l : List Nat) : Kept sk base (State.takePoisons s l) := by
  induction l generalizing s with
  | nil =>
    unfold State.takePoisons
    try dsimp only
    repeat' first
      | with_reducible assumption | with_reducible apply State.takePoison_kept | (intro _ _)
      | with_reducible refine Kept.ite (fun _ => ?_) (fun _ => ?_) | split
      | with_reducible refine Kept.mk_same ?_ rfl rfl rfl rfl rfl rfl rfl rfl rfl rfl rfl rfl
  | cons x r ih =>
    unfold State.takePoisons
    try dsimp only
    repeat' first
      | with_reducible assumption | with_reducible apply ih | with_reducible apply State.takePoison_kept | (intro _ _)
      | with_reducible refine Kept.ite (fun _ => ?_) (fun _ => ?_) | split
      | with_reducible refine Kept.mk_same ?_ rfl rfl rfl rfl rfl rfl rfl rfl rfl rfl rfl rfl

theorem State.copyConsts_kept {base s : State} (hk : Kept sk base s) (l : List ConstBlock) : Kept sk base (State.copyConsts s l) := by
  induction l generalizing s with
  | nil =>
    unfold State.copyConsts
    try dsimp only
    repeat' first
      | with_reducible assumption | with_reducible apply State.regWriteCommitted_kept | with_reducible apply State.account_kept
      | (intro _ _) | with_reducible refine Kept.ite (fun _ => ?_) (fun _ => ?_) | split
      | with_reducible refine Kept.mk_same ?_ rfl rfl rfl rfl rfl rfl rfl rfl rfl rfl rfl rfl
  | cons x r ih =>
    unfold State.copyConsts
    try dsimp only
    repeat' first
      | with_reducible assumption | with_reducible apply ih | with_reducible apply State.regWriteCommitted_kept
      | with_reducible apply State.account_kept | (intro _ _) | with_reducible refine Kept.ite (fun _ => ?_) (fun _ => ?_) | split
      | with_reducible refine Kept.mk_same ?_ rfl rfl rfl rfl rfl rfl rfl rfl rfl rfl rfl rfl

theorem State.takeRegions_kept {base s : State} (hk : Kept sk base s) (bs : List Byte) (r : Recipe) :
    Kept sk base (State.takeRegions s bs r) := by
  unfold State.takeRegions
  try dsimp only
  repeat' first
    | with_reducible assumption | with_reducible apply State.blankRegions_kept | with_reducible apply State.takePoisons_kept
    | with_reducible apply State.copyConsts_kept | (intro _ _) | with_reducible refine Kept.ite (fun _ => ?_) (fun _ => ?_) | split
    | with_reducible refine Kept.mk_same ?_ rfl rfl rfl rfl rfl rfl rfl rfl rfl rfl rfl rfl

/-! ### Sequencer -/

theorem State.noteSkip_kept {base s : State} (hk : Kept sk base s) (n : Nat) : Kept sk base (State.noteSkip s n) := by
  unfold State.noteSkip
  try dsimp only
  repeat' first
    | with_reducible assumption | (intro _ _) | with_reducible refine Kept.ite (fun _ => ?_) (fun _ => ?_) | split
    | with_reducible refine Kept.mk_same ?_ rfl rfl rfl rfl rfl rfl rfl rfl rfl rfl rfl rfl

theorem State.passAll_kept {base s : State} (hk : Kept sk base s) (l : List Desc) : Kept sk base (State.passAll s l) := by
  induction l generalizing s with
  | nil =>
    unfold State.passAll
    try dsimp only
    repeat' first
      | with_reducible assumption | with_reducible apply State.passMb_kept | (intro _ _)
      | with_reducible refine Kept.ite (fun _ => ?_) (fun _ => ?_) | split
      | with_reducible refine Kept.mk_same ?_ rfl rfl rfl rfl rfl rfl rfl rfl rfl rfl rfl rfl
  | cons x r ih =>
    unfold State.passAll
    try dsimp only
    repeat' first
      | with_reducible assumption | with_reducible apply ih | with_reducible apply State.passMb_kept | (intro _ _)
      | with_reducible refine Kept.ite (fun _ => ?_) (fun _ => ?_) | split
      | with_reducible refine Kept.mk_same ?_ rfl rfl rfl rfl rfl rfl rfl rfl rfl rfl rfl rfl

theorem State.skipSlot_kept {base s : State} (hk : Kept sk base s) (n : Nat) : Kept sk base (State.skipSlot s n) := by
  unfold State.skipSlot
  try dsimp only
  repeat' first
    | with_reducible assumption | with_reducible apply State.noteSkip_kept | with_reducible apply State.passAll_kept | (intro _ _)
    | with_reducible refine Kept.ite (fun _ => ?_) (fun _ => ?_) | split
    | with_reducible refine Kept.mk_same ?_ rfl rfl rfl rfl rfl rfl rfl rfl rfl rfl rfl rfl

theorem State.tagMb_kept {base s : State} (hk : Kept sk base s) (n : Nat) (x : Slot) : Kept sk base (State.tagMb s n x) := by
  unfold State.tagMb
  try dsimp only
  repeat' first
    | with_reducible assumption | (intro _ _) | with_reducible refine Kept.ite (fun _ => ?_) (fun _ => ?_) | split
    | with_reducible refine Kept.mk_same ?_ rfl rfl rfl rfl rfl rfl rfl rfl rfl rfl rfl rfl

theorem State.openEpoch_kept {base s : State} (hk : Kept sk base s) (x : Slot) : Kept sk base (State.openEpoch s x) := by
  unfold State.openEpoch
  try dsimp only
  repeat' first
    | with_reducible assumption | (intro _ _) | with_reducible refine Kept.ite (fun _ => ?_) (fun _ => ?_) | split
    | with_reducible refine Kept.mk_same ?_ rfl rfl rfl rfl rfl rfl rfl rfl rfl rfl rfl rfl

theorem State.startDesc_kept {base s : State} (hk : Kept sk base s) (d : Desc) : Kept sk base (State.startDesc s d) := by
  unfold State.startDesc
  try dsimp only
  repeat' first
    | with_reducible assumption | with_reducible apply State.setCore_kept | with_reducible apply State.finish_kept
    | with_reducible apply State.descFault_kept | (intro _ _) | with_reducible refine Kept.ite (fun _ => ?_) (fun _ => ?_) | split
    | with_reducible refine Kept.mk_same ?_ rfl rfl rfl rfl rfl rfl rfl rfl rfl rfl rfl rfl

theorem State.startDescs_kept {base s : State} (hk : Kept sk base s) (l : List Desc) : Kept sk base (State.startDescs s l) := by
  induction l generalizing s with
  | nil =>
    unfold State.startDescs
    try dsimp only
    repeat' first
      | with_reducible assumption | with_reducible apply State.startDesc_kept | (intro _ _)
      | with_reducible refine Kept.ite (fun _ => ?_) (fun _ => ?_) | split
      | with_reducible refine Kept.mk_same ?_ rfl rfl rfl rfl rfl rfl rfl rfl rfl rfl rfl rfl
  | cons x r ih =>
    unfold State.startDescs
    try dsimp only
    repeat' first
      | with_reducible assumption | with_reducible apply ih | with_reducible apply State.startDesc_kept | (intro _ _)
      | with_reducible refine Kept.ite (fun _ => ?_) (fun _ => ?_) | split
      | with_reducible refine Kept.mk_same ?_ rfl rfl rfl rfl rfl rfl rfl rfl rfl rfl rfl rfl

theorem State.startSlot_kept {base s : State} (hk : Kept sk base s) (n : Nat) (x : Slot) : Kept sk base (State.startSlot s n x) := by
  unfold State.startSlot
  try dsimp only
  repeat' first
    | with_reducible assumption | with_reducible apply State.count_kept | with_reducible apply State.skipSlot_kept
    | with_reducible apply State.tagMb_kept | with_reducible apply State.openEpoch_kept | with_reducible apply State.startDescs_kept
    | (intro _ _) | with_reducible refine Kept.ite (fun _ => ?_) (fun _ => ?_) | split
    | with_reducible refine Kept.mk_same ?_ rfl rfl rfl rfl rfl rfl rfl rfl rfl rfl rfl rfl

theorem execSlotStart_kept (s : State) (slot : Nat) : KeptO sk s (execSlotStart slot s) := by
  have hk : Kept sk s s := Kept.refl s
  unfold execSlotStart
  try dsimp only
  repeat' first
    | with_reducible assumption | with_reducible apply KeptO.next | with_reducible exact KeptO.fault _
    | with_reducible apply State.drainAll_kept | with_reducible apply State.startSlot_kept | (intro _ _)
    | with_reducible refine Kept.ite (fun _ => ?_) (fun _ => ?_) | split
    | with_reducible refine Kept.mk_same ?_ rfl rfl rfl rfl rfl rfl rfl rfl rfl rfl rfl rfl

theorem execSequencerWaitRelease_kept (s : State) (d : Nat) : KeptO sk s (execSequencerWaitRelease d s) := by
  have hk : Kept sk s s := Kept.refl s
  unfold execSequencerWaitRelease
  try dsimp only
  repeat' first
    | with_reducible assumption | with_reducible apply KeptO.next | with_reducible exact KeptO.fault _ | (intro _ _)
    | with_reducible refine Kept.ite (fun _ => ?_) (fun _ => ?_) | split
    | with_reducible refine Kept.mk_same ?_ rfl rfl rfl rfl rfl rfl rfl rfl rfl rfl rfl rfl

theorem State.fenceCheck_kept {base s : State} (hk : Kept sk base s) : Kept sk base (State.fenceCheck s) := by
  unfold State.fenceCheck
  try dsimp only
  repeat' first
    | with_reducible assumption | with_reducible apply State.count_kept | with_reducible apply State.raise_kept | (intro _ _)
    | with_reducible refine Kept.ite (fun _ => ?_) (fun _ => ?_) | split
    | with_reducible refine Kept.mk_same ?_ rfl rfl rfl rfl rfl rfl rfl rfl rfl rfl rfl rfl

theorem execEpochFenceStall_kept (s : State) : KeptO sk s (execEpochFenceStall s) := by
  have hk : Kept sk s s := Kept.refl s
  unfold execEpochFenceStall
  try dsimp only
  repeat' first
    | with_reducible assumption | with_reducible apply KeptO.next | with_reducible exact KeptO.fault _
    | with_reducible apply State.raise_kept | with_reducible apply State.cause_kept | (intro _ _)
    | with_reducible refine Kept.ite (fun _ => ?_) (fun _ => ?_) | split
    | with_reducible refine Kept.mk_same ?_ rfl rfl rfl rfl rfl rfl rfl rfl rfl rfl rfl rfl

theorem State.advance_kept {base s : State} (hk : Kept sk base s) : Kept sk base (State.advance s) := by
  unfold State.advance
  try dsimp only
  repeat' first
    | with_reducible assumption | (intro _ _) | with_reducible refine Kept.ite (fun _ => ?_) (fun _ => ?_) | split
    | with_reducible refine Kept.mk_same ?_ rfl rfl rfl rfl rfl rfl rfl rfl rfl rfl rfl rfl

theorem State.quietBanks_kept {base s : State} (hk : Kept sk base s) : Kept sk base (State.quietBanks s) := by
  unfold State.quietBanks
  try dsimp only
  repeat' first
    | with_reducible assumption | (intro _ _) | with_reducible refine Kept.ite (fun _ => ?_) (fun _ => ?_) | split
    | with_reducible refine Kept.mk_same ?_ rfl rfl rfl rfl rfl rfl rfl rfl rfl rfl rfl rfl

theorem State.dropWork_kept {base s : State} (hk : Kept sk base s) : Kept sk base (State.dropWork s) := by
  unfold State.dropWork
  try dsimp only
  repeat' first
    | with_reducible assumption | with_reducible apply State.quietBanks_kept | (intro _ _)
    | with_reducible refine Kept.ite (fun _ => ?_) (fun _ => ?_) | split
    | with_reducible refine Kept.mk_same ?_ rfl rfl rfl rfl rfl rfl rfl rfl rfl rfl rfl rfl

theorem Tab.get_wf (l : Tab Stk) (h : headsOk l) (c : Nat) : Mem.wf (Tab.get l c Stk.empty).head := by
  unfold Tab.get
  cases h1 : Tab.find l c with
  | none => exact Mem.wf_nil
  | some k => exact h _ (Tab.find_mem _ _ _ h1)

theorem State.rewindStk_kept {base s : State} (hk : Kept sk base s) (saved : Tab Stk) (l : List Nat) (hw : base.memOk → headsOk saved) :
    Kept sk base (State.rewindStk s saved l) := by
  induction l generalizing s with
  | nil => exact hk
  | cons c r ih =>
    have h1 : Kept sk base (s.setStk c { Tab.get saved c Stk.empty with high := (s.stkOf c).high }) :=
      State.setStk_kept hk _ _ (fun m => Tab.get_wf _ (hw m) _)
    exact ih (State.noteHigh_kept h1 _)

theorem State.rewind_kept {base s : State} (hk : Kept sk base s) : Kept sk base (State.rewind s) := by
  unfold State.rewind
  split
  · exact hk
  · rename_i v h
    refine State.rewindStk_kept ?_ _ _ (fun m => (hk.mem m).2.2.2.2.2 v h)
    exact Kept.mk_same hk rfl rfl rfl rfl rfl rfl rfl rfl rfl rfl rfl rfl

theorem State.discard_kept {base s : State} (hk : Kept sk base s) : Kept sk base (State.discard s) := by
  unfold State.discard
  try dsimp only
  repeat' first
    | with_reducible assumption | with_reducible apply State.dropBanks_kept | with_reducible apply State.dropWork_kept
    | with_reducible apply State.rewind_kept | (intro _ _) | with_reducible refine Kept.ite (fun _ => ?_) (fun _ => ?_) | split
    | with_reducible refine Kept.mk_same ?_ rfl rfl rfl rfl rfl rfl rfl rfl rfl rfl rfl rfl

theorem State.putCorrections_kept {base s : State} (hk : Kept sk base s) (l : Tab (Word × Word)) :
    Kept sk base (State.putCorrections s l) := by
  induction l generalizing s with
  | nil =>
    unfold State.putCorrections
    try dsimp only
    repeat' first
      | with_reducible assumption | with_reducible apply State.estPut_kept | (intro _ _)
      | with_reducible refine Kept.ite (fun _ => ?_) (fun _ => ?_) | split
      | with_reducible refine Kept.mk_same ?_ rfl rfl rfl rfl rfl rfl rfl rfl rfl rfl rfl rfl
  | cons x r ih =>
    unfold State.putCorrections
    try dsimp only
    repeat' first
      | with_reducible assumption | with_reducible apply ih | with_reducible apply State.estPut_kept | (intro _ _)
      | with_reducible refine Kept.ite (fun _ => ?_) (fun _ => ?_) | split
      | with_reducible refine Kept.mk_same ?_ rfl rfl rfl rfl rfl rfl rfl rfl rfl rfl rfl rfl

theorem State.restart_kept {base s : State} (hk : Kept sk base s) : Kept sk base (State.restart s) := by
  unfold State.restart
  try dsimp only
  repeat' first
    | with_reducible assumption | with_reducible apply State.fenceCheck_kept | with_reducible apply State.discard_kept
    | with_reducible apply State.putCorrections_kept | (intro _ _) | with_reducible refine Kept.ite (fun _ => ?_) (fun _ => ?_) | split
    | with_reducible refine Kept.mk_same ?_ rfl rfl rfl rfl rfl rfl rfl rfl rfl rfl rfl rfl

theorem State.takeGroups_kept {base s : State} (hk : Kept sk base s) : Kept sk base (State.takeGroups s) := by
  unfold State.takeGroups
  try dsimp only
  repeat' first
    | with_reducible assumption | (intro _ _) | with_reducible refine Kept.ite (fun _ => ?_) (fun _ => ?_) | split
    | with_reducible refine Kept.mk_same ?_ rfl rfl rfl rfl rfl rfl rfl rfl rfl rfl rfl rfl

/-- A step or attempt begun anew. -/
theorem Kept.fresh {base s t : State} (hk : Kept sk base s) (hz : t.stp.saved = none) (hp : t.pending = s.pending) (hs : t.store = s.store)
    (hq : t.stk = s.stk) (hc : t.sec = s.sec) (he : t.evt = s.evt) (hw : t.pwr = s.pwr) (hb : t.sbm = s.sbm) : Kept sk base t :=
  Kept.store hk (fun m => by rw [State.memOk, hs, hq, hz]; exact ⟨m.1, m.2.1, m.2.2.1, m.2.2.2.1, m.2.2.2.2.1, fun _ h => nomatch h⟩)
    hp hc he hw hb

theorem State.enterStep_kept {base s : State} (hk : Kept sk base s) : Kept sk base (State.enterStep s) :=
  Kept.fresh hk rfl rfl rfl rfl rfl rfl rfl rfl

theorem State.beginStep_kept {base s : State} (hk : Kept sk base s) : Kept sk base (State.beginStep s) := by
  unfold State.beginStep
  refine Kept.ite (fun _ => ?_) (fun _ => hk)
  extract_lets s1 x s2
  have h1 : Kept sk base s1 := State.takeGroups_kept hk
  have h2 : Kept sk base s2 := Kept.store h1
    (fun m => ⟨m.1, m.2.1, m.2.2.1, m.2.2.2.1, m.2.2.2.2.1, fun v h => Option.some.inj h ▸ m.2.2.2.2.1⟩) rfl rfl rfl rfl rfl
  clear_value s2
  exact State.fenceCheck_kept (Kept.mk_same h2 rfl rfl rfl rfl rfl rfl rfl rfl rfl rfl rfl rfl)

theorem State.leaveStep_kept {base s : State} (hk : Kept sk base s) : Kept sk base (State.leaveStep s) := by
  unfold State.leaveStep
  exact Kept.fresh (State.dropWork_kept hk) rfl rfl rfl rfl rfl rfl rfl rfl

theorem State.putRing_kept {base s : State} (hk : Kept sk base s) (layer i : Nat) (rho : Word) :
    Kept sk base (State.putRing s layer i rho) := by
  unfold State.putRing
  try dsimp only
  repeat' first
    | with_reducible assumption | with_reducible apply State.rawWrite_kept | with_reducible apply State.account_kept | (intro _ _)
    | with_reducible refine Kept.ite (fun _ => ?_) (fun _ => ?_) | split
    | with_reducible refine Kept.mk_same ?_ rfl rfl rfl rfl rfl rfl rfl rfl rfl rfl rfl rfl

theorem State.noteRatio_kept {base s : State} (hk : Kept sk base s) (n : Nat) (l : Layer) (rho : Word) :
    Kept sk base (State.noteRatio s n l rho) := by
  unfold State.noteRatio
  try dsimp only
  repeat' first
    | with_reducible assumption | with_reducible apply State.count_kept | with_reducible apply State.raise_kept
    | with_reducible apply State.putRing_kept | (intro _ _) | with_reducible refine Kept.ite (fun _ => ?_) (fun _ => ?_) | split
    | with_reducible refine Kept.mk_same ?_ rfl rfl rfl rfl rfl rfl rfl rfl rfl rfl rfl rfl

theorem State.noteRatios_kept {base s : State} (hk : Kept sk base s) (l : List (Nat × Layer × Word)) :
    Kept sk base (State.noteRatios s l) := by
  induction l generalizing s with
  | nil =>
    unfold State.noteRatios
    try dsimp only
    repeat' first
      | with_reducible assumption | with_reducible apply State.noteRatio_kept | (intro _ _)
      | with_reducible refine Kept.ite (fun _ => ?_) (fun _ => ?_) | split
      | with_reducible refine Kept.mk_same ?_ rfl rfl rfl rfl rfl rfl rfl rfl rfl rfl rfl rfl
  | cons x r ih =>
    unfold State.noteRatios
    try dsimp only
    repeat' first
      | with_reducible assumption | with_reducible apply ih | with_reducible apply State.noteRatio_kept | (intro _ _)
      | with_reducible refine Kept.ite (fun _ => ?_) (fun _ => ?_) | split
      | with_reducible refine Kept.mk_same ?_ rfl rfl rfl rfl rfl rfl rfl rfl rfl rfl rfl rfl

theorem State.countTaste_kept {base s : State} (hk : Kept sk base s) : Kept sk base (State.countTaste s) := by
  unfold State.countTaste
  try dsimp only
  repeat' first
    | with_reducible assumption | (intro _ _) | with_reducible refine Kept.ite (fun _ => ?_) (fun _ => ?_) | split
    | with_reducible refine Kept.mk_same ?_ rfl rfl rfl rfl rfl rfl rfl rfl rfl rfl rfl rfl

theorem State.countTasteBeat_kept {base s : State} (hk : Kept sk base s) : Kept sk base (State.countTasteBeat s) := by
  unfold State.countTasteBeat
  try dsimp only
  repeat' first
    | with_reducible assumption | with_reducible apply State.countTaste_kept | (intro _ _)
    | with_reducible refine Kept.ite (fun _ => ?_) (fun _ => ?_) | split
    | with_reducible refine Kept.mk_same ?_ rfl rfl rfl rfl rfl rfl rfl rfl rfl rfl rfl rfl

theorem State.commitStep_kept {base s : State} (hk : Kept sk base s) : Kept sk base (State.commitStep s) := by
  unfold State.commitStep
  try dsimp only
  repeat' first
    | with_reducible assumption | with_reducible apply State.applyCounts_kept | with_reducible apply State.swapBanks_kept
    | with_reducible apply State.pruneLive_kept | with_reducible apply State.leaveStep_kept | with_reducible apply State.noteRatios_kept
    | with_reducible apply State.countTaste_kept | (intro _ _) | with_reducible refine Kept.ite (fun _ => ?_) (fun _ => ?_) | split
    | with_reducible refine Kept.mk_same ?_ rfl rfl rfl rfl rfl rfl rfl rfl rfl rfl rfl rfl

theorem State.showOutputs_kept {base s : State} (hk : Kept sk base s) : Kept sk base (State.showOutputs s) := by
  unfold State.showOutputs
  try dsimp only
  repeat' first
    | with_reducible assumption | with_reducible apply State.swapBanks_kept | with_reducible apply State.leaveStep_kept | (intro _ _)
    | with_reducible refine Kept.ite (fun _ => ?_) (fun _ => ?_) | split
    | with_reducible refine Kept.mk_same ?_ rfl rfl rfl rfl rfl rfl rfl rfl rfl rfl rfl rfl

theorem State.failStep_kept {base s : State} (hk : Kept sk base s) (cause : Nat) : Kept sk base (State.failStep s cause) := by
  unfold State.failStep
  try dsimp only
  repeat' first
    | with_reducible assumption | with_reducible apply State.discard_kept | with_reducible apply State.leaveStep_kept | (intro _ _)
    | with_reducible refine Kept.ite (fun _ => ?_) (fun _ => ?_) | split
    | with_reducible refine Kept.mk_same ?_ rfl rfl rfl rfl rfl rfl rfl rfl rfl rfl rfl rfl

theorem State.putShadow_kept {base s : State} (hk : Kept sk base s) (off : Nat) (bs : List Byte) :
    Kept sk base (State.putShadow s off bs) := by
  unfold State.putShadow
  try dsimp only
  repeat' first
    | with_reducible assumption | with_reducible apply State.rawWrite_kept | with_reducible apply State.account_kept | (intro _ _)
    | with_reducible refine Kept.ite (fun _ => ?_) (fun _ => ?_) | split
    | with_reducible refine Kept.mk_same ?_ rfl rfl rfl rfl rfl rfl rfl rfl rfl rfl rfl rfl

theorem State.shadowTick_kept {base s : State} (hk : Kept sk base s) (commit : Bool) : Kept sk base (State.shadowTick s commit) := by
  unfold State.shadowTick
  try dsimp only
  repeat' first
    | with_reducible assumption | with_reducible apply State.putShadow_kept | (intro _ _)
    | with_reducible refine Kept.ite (fun _ => ?_) (fun _ => ?_) | split
    | with_reducible refine Kept.mk_same ?_ rfl rfl rfl rfl rfl rfl rfl rfl rfl rfl rfl rfl

/-! ### Mailbox -/

theorem State.badDoorbell_kept {base s : State} (hk : Kept sk base s) : Kept sk base (State.badDoorbell s) := by
  unfold State.badDoorbell
  try dsimp only
  repeat' first
    | with_reducible assumption | with_reducible apply State.count_kept | (intro _ _)
    | with_reducible refine Kept.ite (fun _ => ?_) (fun _ => ?_) | split
    | with_reducible refine Kept.mk_same ?_ rfl rfl rfl rfl rfl rfl rfl rfl rfl rfl rfl rfl

theorem State.setRail_kept {base s : State} (hk : Kept sk base s) (n : Nat) (r : Rail) : Kept sk base (State.setRail s n r) := by
  unfold State.setRail
  try dsimp only
  repeat' first
    | with_reducible assumption | (intro _ _) | with_reducible refine Kept.ite (fun _ => ?_) (fun _ => ?_) | split
    | with_reducible refine Kept.mk_same ?_ rfl rfl rfl rfl rfl rfl rfl rfl rfl rfl rfl rfl

theorem State.railFails_kept {base s : State} (hk : Kept sk base s) (n : Nat) (r : Rail) : Kept sk base (State.railFails s n r) := by
  unfold State.railFails
  try dsimp only
  repeat' first
    | with_reducible assumption | with_reducible apply State.setIrq_kept | with_reducible apply State.setRail_kept | (intro _ _)
    | with_reducible refine Kept.ite (fun _ => ?_) (fun _ => ?_) | split
    | with_reducible refine Kept.mk_same ?_ rfl rfl rfl rfl rfl rfl rfl rfl rfl rfl rfl rfl

theorem execRailTail_kept (s : State) (n : Nat) (v : Word) : KeptO sk s (execRailTail n v s) := by
  have hk : Kept sk s s := Kept.refl s
  unfold execRailTail
  try dsimp only
  repeat' first
    | with_reducible assumption | with_reducible apply KeptO.next | with_reducible exact KeptO.fault _
    | with_reducible apply State.badDoorbell_kept | with_reducible apply State.setRail_kept | with_reducible apply State.railFails_kept
    | (intro _ _) | with_reducible refine Kept.ite (fun _ => ?_) (fun _ => ?_) | split
    | with_reducible refine Kept.mk_same ?_ rfl rfl rfl rfl rfl rfl rfl rfl rfl rfl rfl rfl

theorem execTicketFetch_kept (s : State) (n : Nat) (read : Option (List (List Word))) : KeptO sk s (execTicketFetch n read s) := by
  have hk : Kept sk s s := Kept.refl s
  unfold execTicketFetch
  try dsimp only
  repeat' first
    | with_reducible assumption | with_reducible apply KeptO.next | with_reducible exact KeptO.fault _
    | with_reducible apply State.setRail_kept | with_reducible apply State.railFails_kept | (intro _ _)
    | with_reducible refine Kept.ite (fun _ => ?_) (fun _ => ?_) | split
    | with_reducible refine Kept.mk_same ?_ rfl rfl rfl rfl rfl rfl rfl rfl rfl rfl rfl rfl

theorem State.setPass_kept {base s : State} (hk : Kept sk base s) (n : Nat) (p : Pass) : Kept sk base (State.setPass s n p) := by
  unfold State.setPass
  try dsimp only
  repeat' first
    | with_reducible assumption | (intro _ _) | with_reducible refine Kept.ite (fun _ => ?_) (fun _ => ?_) | split
    | with_reducible refine Kept.mk_same ?_ rfl rfl rfl rfl rfl rfl rfl rfl rfl rfl rfl rfl

theorem execPassHead_kept (s : State) (n : Nat) (v : Word) : KeptO sk s (execPassHead n v s) := by
  have hk : Kept sk s s := Kept.refl s
  unfold execPassHead
  try dsimp only
  repeat' first
    | with_reducible assumption | with_reducible apply KeptO.next | with_reducible exact KeptO.fault _
    | with_reducible apply State.badDoorbell_kept | with_reducible apply State.setPass_kept | (intro _ _)
    | with_reducible refine Kept.ite (fun _ => ?_) (fun _ => ?_) | split
    | with_reducible refine Kept.mk_same ?_ rfl rfl rfl rfl rfl rfl rfl rfl rfl rfl rfl rfl

theorem State.signal_kept {base s : State} (hk : Kept sk base s) (n : Nat) (p : Pass) : Kept sk base (State.signal s n p) := by
  unfold State.signal
  try dsimp only
  repeat' first
    | with_reducible assumption | with_reducible apply State.msi_kept | with_reducible apply State.setPass_kept | (intro _ _)
    | with_reducible refine Kept.ite (fun _ => ?_) (fun _ => ?_) | split
    | with_reducible refine Kept.mk_same ?_ rfl rfl rfl rfl rfl rfl rfl rfl rfl rfl rfl rfl

theorem execCompletionWrite_kept (s : State) (n : Nat) : KeptO sk s (execCompletionWrite n s) := by
  unfold execCompletionWrite
  split
  · trivial
  · split
    · exact Kept.refl s
    · split
      · exact Kept.refl s
      · split
        · exact Kept.refl s
        · extract_lets _ s1 q
          have h1 : Kept sk s s1 :=
            Kept.store (Kept.refl s) (fun m => ⟨m.1, m.2.1, m.2.2.1, Mem.wf_write _ _ _ m.2.2.2.1, m.2.2.2.2⟩) rfl rfl rfl rfl rfl
          split
          · exact State.setPass_kept h1 _ _
          · split
            · exact State.signal_kept h1 _ _
            · exact State.setPass_kept h1 _ _

theorem execPassTimer_kept (s : State) (n : Nat) : KeptO sk s (execPassTimer n s) := by
  have hk : Kept sk s s := Kept.refl s
  unfold execPassTimer
  try dsimp only
  repeat' first
    | with_reducible assumption | with_reducible apply KeptO.next | with_reducible exact KeptO.fault _
    | with_reducible apply State.signal_kept | (intro _ _) | with_reducible refine Kept.ite (fun _ => ?_) (fun _ => ?_) | split
    | with_reducible refine Kept.mk_same ?_ rfl rfl rfl rfl rfl rfl rfl rfl rfl rfl rfl rfl

theorem State.resetMailbox_kept {base s : State} (hk : Kept sk base s) (on : Bool) : Kept sk base (State.resetMailbox s on) := by
  unfold State.resetMailbox
  try dsimp only
  repeat' first
    | with_reducible assumption | (intro _ _) | with_reducible refine Kept.ite (fun _ => ?_) (fun _ => ?_) | split
    | with_reducible refine Kept.mk_same ?_ rfl rfl rfl rfl rfl rfl rfl rfl rfl rfl rfl rfl

theorem execMboxEnSet_kept (s : State) : KeptO sk s (execMboxEnSet s) := by
  have hk : Kept sk s s := Kept.refl s
  unfold execMboxEnSet
  try dsimp only
  repeat' first
    | with_reducible assumption | with_reducible apply KeptO.next | with_reducible exact KeptO.fault _ | (intro _ _)
    | with_reducible refine Kept.ite (fun _ => ?_) (fun _ => ?_) | split
    | with_reducible refine Kept.mk_same ?_ rfl rfl rfl rfl rfl rfl rfl rfl rfl rfl rfl rfl

theorem execMboxDisable_kept (s : State) : KeptO sk s (execMboxDisable s) := by
  have hk : Kept sk s s := Kept.refl s
  unfold execMboxDisable
  try dsimp only
  repeat' first
    | with_reducible assumption | with_reducible apply KeptO.next | with_reducible exact KeptO.fault _
    | with_reducible apply State.resetMailbox_kept | (intro _ _) | with_reducible refine Kept.ite (fun _ => ?_) (fun _ => ?_) | split
    | with_reducible refine Kept.mk_same ?_ rfl rfl rfl rfl rfl rfl rfl rfl rfl rfl rfl rfl

theorem execMboxReset_kept (s : State) : KeptO sk s (execMboxReset s) := by
  have hk : Kept sk s s := Kept.refl s
  unfold execMboxReset
  try dsimp only
  repeat' first
    | with_reducible assumption | with_reducible apply KeptO.next | with_reducible exact KeptO.fault _
    | with_reducible apply State.resetMailbox_kept | (intro _ _) | with_reducible refine Kept.ite (fun _ => ?_) (fun _ => ?_) | split
    | with_reducible refine Kept.mk_same ?_ rfl rfl rfl rfl rfl rfl rfl rfl rfl rfl rfl rfl

end Sys2Proof.Machine
end

