-- ==== Sys2Proof/Laws/KeptOps3.lean ====
section
/-! SUPPORT. One lemma for each operation of the machine, saying that it keeps what Kept names: the tickets. -/

namespace Sys2Proof.Machine

-- Every lemma has the same proof, whose steps serve some operations and not others.
set_option linter.unusedTactic false
set_option linter.unreachableTactic false

variable {sk : Skip}

/-! ### Tickets -/

theorem State.complete_kept {base s : State} (hk : Kept sk base s) (w : WaitTicket) (st : Nat) (res : List Word) :
    Kept sk base (State.complete s w st res) := by
  unfold State.complete
  try dsimp only
  repeat' first
    | with_reducible assumption | with_reducible apply State.post_kept | (intro _ _)
    | with_reducible refine Kept.ite (fun _ => ?_) (fun _ => ?_) | split
    | with_reducible refine Kept.mk_same ?_ rfl rfl rfl rfl rfl rfl rfl rfl rfl rfl rfl rfl

theorem State.okT_kept {base s : State} (hk : Kept sk base s) (w : WaitTicket) (res : List Word) : Kept sk base (State.okT s w res) := by
  unfold State.okT
  try dsimp only
  repeat' first
    | with_reducible assumption | with_reducible apply State.complete_kept | (intro _ _)
    | with_reducible refine Kept.ite (fun _ => ?_) (fun _ => ?_) | split
    | with_reducible refine Kept.mk_same ?_ rfl rfl rfl rfl rfl rfl rfl rfl rfl rfl rfl rfl

theorem State.badParam_kept {base s : State} (hk : Kept sk base s) (w : WaitTicket) (i : Nat) : Kept sk base (State.badParam s w i) := by
  unfold State.badParam
  try dsimp only
  repeat' first
    | with_reducible assumption | with_reducible apply State.complete_kept | (intro _ _)
    | with_reducible refine Kept.ite (fun _ => ?_) (fun _ => ?_) | split
    | with_reducible refine Kept.mk_same ?_ rfl rfl rfl rfl rfl rfl rfl rfl rfl rfl rfl rfl

theorem State.badState_kept {base s : State} (hk : Kept sk base s) (w : WaitTicket) : Kept sk base (State.badState s w) := by
  unfold State.badState
  try dsimp only
  repeat' first
    | with_reducible assumption | with_reducible apply State.complete_kept | (intro _ _)
    | with_reducible refine Kept.ite (fun _ => ?_) (fun _ => ?_) | split
    | with_reducible refine Kept.mk_same ?_ rfl rfl rfl rfl rfl rfl rfl rfl rfl rfl rfl rfl

theorem State.busy_kept {base s : State} (hk : Kept sk base s) (w : WaitTicket) : Kept sk base (State.busy s w) := by
  unfold State.busy
  try dsimp only
  repeat' first
    | with_reducible assumption | (intro _ _) | with_reducible refine Kept.ite (fun _ => ?_) (fun _ => ?_) | split
    | with_reducible refine Kept.mk_same ?_ rfl rfl rfl rfl rfl rfl rfl rfl rfl rfl rfl rfl

theorem State.answer_kept {base s : State} (hk : Kept sk base s) (w : WaitTicket) (at_ : Nat) (bs : List Byte) (res : List Word) :
    Kept sk base (State.answer s w at_ bs res) := by
  unfold State.answer
  try dsimp only
  repeat' first
    | with_reducible assumption | with_reducible apply State.toHost_kept | with_reducible apply State.complete_kept
    | with_reducible apply State.okT_kept | with_reducible apply State.badParam_kept | (intro _ _)
    | with_reducible refine Kept.ite (fun _ => ?_) (fun _ => ?_) | split
    | with_reducible refine Kept.mk_same ?_ rfl rfl rfl rfl rfl rfl rfl rfl rfl rfl rfl rfl

theorem State.tkIdentify_kept {base s : State} (hk : Kept sk base s) (w : WaitTicket) : Kept sk base (State.tkIdentify s w) := by
  unfold State.tkIdentify
  try dsimp only
  repeat' first
    | with_reducible assumption | with_reducible apply State.answer_kept | (intro _ _)
    | with_reducible refine Kept.ite (fun _ => ?_) (fun _ => ?_) | split
    | with_reducible refine Kept.mk_same ?_ rfl rfl rfl rfl rfl rfl rfl rfl rfl rfl rfl rfl

theorem State.tkCreateRail_kept {base s : State} (hk : Kept sk base s) (w : WaitTicket) : Kept sk base (State.tkCreateRail s w) := by
  unfold State.tkCreateRail
  try dsimp only
  repeat' first
    | with_reducible assumption | with_reducible apply State.setRail_kept | with_reducible apply State.complete_kept
    | with_reducible apply State.okT_kept | with_reducible apply State.badParam_kept | (intro _ _)
    | with_reducible refine Kept.ite (fun _ => ?_) (fun _ => ?_) | split
    | with_reducible refine Kept.mk_same ?_ rfl rfl rfl rfl rfl rfl rfl rfl rfl rfl rfl rfl

theorem State.dropRail_kept {base s : State} (hk : Kept sk base s) (n : Nat) : Kept sk base (State.dropRail s n) := by
  unfold State.dropRail
  try dsimp only
  repeat' first
    | with_reducible assumption | (intro _ _) | with_reducible refine Kept.ite (fun _ => ?_) (fun _ => ?_) | split
    | with_reducible refine Kept.mk_same ?_ rfl rfl rfl rfl rfl rfl rfl rfl rfl rfl rfl rfl

theorem State.tkDeleteRail_kept {base s : State} (hk : Kept sk base s) (w : WaitTicket) : Kept sk base (State.tkDeleteRail s w) := by
  unfold State.tkDeleteRail
  try dsimp only
  repeat' first
    | with_reducible assumption | with_reducible apply State.badParam_kept | (intro _ _)
    | with_reducible refine Kept.ite (fun _ => ?_) (fun _ => ?_) | split
    | with_reducible refine Kept.mk_same ?_ rfl rfl rfl rfl rfl rfl rfl rfl rfl rfl rfl rfl

theorem State.finishDeletes_kept {base s : State} (hk : Kept sk base s) (l : List WaitTicket) : Kept sk base (State.finishDeletes s l) := by
  induction l generalizing s with
  | nil =>
    unfold State.finishDeletes
    try dsimp only
    repeat' first
      | with_reducible assumption | with_reducible apply State.okT_kept | with_reducible apply State.dropRail_kept | (intro _ _)
      | with_reducible refine Kept.ite (fun _ => ?_) (fun _ => ?_) | split
      | with_reducible refine Kept.mk_same ?_ rfl rfl rfl rfl rfl rfl rfl rfl rfl rfl rfl rfl
  | cons x r ih =>
    unfold State.finishDeletes
    try dsimp only
    repeat' first
      | with_reducible assumption | with_reducible apply ih | with_reducible apply State.okT_kept
      | with_reducible apply State.dropRail_kept | (intro _ _) | with_reducible refine Kept.ite (fun _ => ?_) (fun _ => ?_) | split
      | with_reducible refine Kept.mk_same ?_ rfl rfl rfl rfl rfl rfl rfl rfl rfl rfl rfl rfl

theorem State.tkCreatePass_kept {base s : State} (hk : Kept sk base s) (w : WaitTicket) : Kept sk base (State.tkCreatePass s w) := by
  unfold State.tkCreatePass
  try dsimp only
  repeat' first
    | with_reducible assumption | with_reducible apply State.setPass_kept | with_reducible apply State.complete_kept
    | with_reducible apply State.okT_kept | with_reducible apply State.badParam_kept | (intro _ _)
    | with_reducible refine Kept.ite (fun _ => ?_) (fun _ => ?_) | split
    | with_reducible refine Kept.mk_same ?_ rfl rfl rfl rfl rfl rfl rfl rfl rfl rfl rfl rfl

theorem State.tkDeletePass_kept {base s : State} (hk : Kept sk base s) (w : WaitTicket) : Kept sk base (State.tkDeletePass s w) := by
  unfold State.tkDeletePass
  try dsimp only
  repeat' first
    | with_reducible assumption | with_reducible apply State.okT_kept | with_reducible apply State.badParam_kept
    | with_reducible apply State.badState_kept | (intro _ _) | with_reducible refine Kept.ite (fun _ => ?_) (fun _ => ?_) | split
    | with_reducible refine Kept.mk_same ?_ rfl rfl rfl rfl rfl rfl rfl rfl rfl rfl rfl rfl

theorem State.tkStatus_kept {base s : State} (hk : Kept sk base s) (w : WaitTicket) : Kept sk base (State.tkStatus s w) := by
  unfold State.tkStatus
  try dsimp only
  repeat' first
    | with_reducible assumption | with_reducible apply State.okT_kept | (intro _ _)
    | with_reducible refine Kept.ite (fun _ => ?_) (fun _ => ?_) | split
    | with_reducible refine Kept.mk_same ?_ rfl rfl rfl rfl rfl rfl rfl rfl rfl rfl rfl rfl

theorem State.tkMemWrite_kept {base s : State} (hk : Kept sk base s) (w : WaitTicket) : Kept sk base (State.tkMemWrite s w) := by
  unfold State.tkMemWrite
  try dsimp only
  repeat' first
    | with_reducible assumption | with_reducible apply State.regWriteCommitted_kept | with_reducible apply State.account_kept
    | with_reducible apply State.complete_kept | with_reducible apply State.okT_kept | with_reducible apply State.badParam_kept
    | with_reducible apply State.badState_kept | (intro _ _) | with_reducible refine Kept.ite (fun _ => ?_) (fun _ => ?_) | split
    | with_reducible refine Kept.mk_same ?_ rfl rfl rfl rfl rfl rfl rfl rfl rfl rfl rfl rfl

theorem State.viewErrors_kept {base s : State} (hk : Kept sk base s) (reader : Nat) (r off n : Nat) (g : MemObs) :
    Kept sk base (State.viewErrors s reader r off n g).1 := by
  unfold State.viewErrors
  try dsimp only
  repeat' first
    | with_reducible assumption | with_reducible apply State.memCe_kept | with_reducible apply State.memUe_kept | (intro _ _)
    | with_reducible refine Kept.ite (fun _ => ?_) (fun _ => ?_) | split
    | with_reducible refine Kept.mk_same ?_ rfl rfl rfl rfl rfl rfl rfl rfl rfl rfl rfl rfl

theorem State.tkMemRead_kept {base s : State} (hk : Kept sk base s) (w : WaitTicket) : Kept sk base (State.tkMemRead s w) := by
  unfold State.tkMemRead
  try dsimp only
  repeat' first
    | with_reducible assumption | with_reducible apply State.draw_kept | with_reducible apply State.account_kept
    | with_reducible apply State.complete_kept | with_reducible apply State.badParam_kept | with_reducible apply State.answer_kept
    | with_reducible apply State.viewErrors_kept | (intro _ _) | with_reducible refine Kept.ite (fun _ => ?_) (fun _ => ?_) | split
    | with_reducible refine Kept.mk_same ?_ rfl rfl rfl rfl rfl rfl rfl rfl rfl rfl rfl rfl

theorem State.tkRegionQuery_kept {base s : State} (hk : Kept sk base s) (w : WaitTicket) : Kept sk base (State.tkRegionQuery s w) := by
  unfold State.tkRegionQuery
  try dsimp only
  repeat' first
    | with_reducible assumption | with_reducible apply State.okT_kept | with_reducible apply State.badParam_kept | (intro _ _)
    | with_reducible refine Kept.ite (fun _ => ?_) (fun _ => ?_) | split
    | with_reducible refine Kept.mk_same ?_ rfl rfl rfl rfl rfl rfl rfl rfl rfl rfl rfl rfl

theorem State.tkRegionFree_kept {base s : State} (hk : Kept sk base s) (w : WaitTicket) : Kept sk base (State.tkRegionFree s w) := by
  unfold State.tkRegionFree
  try dsimp only
  repeat' first
    | with_reducible assumption | with_reducible apply State.freePoison_kept | with_reducible apply State.okT_kept
    | with_reducible apply State.badParam_kept | with_reducible apply State.badState_kept | (intro _ _)
    | with_reducible refine Kept.ite (fun _ => ?_) (fun _ => ?_) | split
    | with_reducible refine Kept.mk_same ?_ rfl rfl rfl rfl rfl rfl rfl rfl rfl rfl rfl rfl

theorem State.leaveDegraded_kept {base s : State} (hk : Kept sk base s) (r : Recipe) : Kept sk base (State.leaveDegraded s r) := by
  unfold State.leaveDegraded
  try dsimp only
  repeat' first
    | with_reducible assumption | with_reducible apply State.setState_kept | (intro _ _)
    | with_reducible refine Kept.ite (fun _ => ?_) (fun _ => ?_) | split
    | with_reducible refine Kept.mk_same ?_ rfl rfl rfl rfl rfl rfl rfl rfl rfl rfl rfl rfl

theorem State.refuse_kept {base s : State} (hk : Kept sk base s) (w : WaitTicket) (x : Nat × Nat × Nat) :
    Kept sk base (State.refuse s w x) := by
  unfold State.refuse
  try dsimp only
  repeat' first
    | with_reducible assumption | with_reducible apply State.count_kept | with_reducible apply State.raise_kept
    | with_reducible apply State.complete_kept | (intro _ _) | with_reducible refine Kept.ite (fun _ => ?_) (fun _ => ?_) | split
    | with_reducible refine Kept.mk_same ?_ rfl rfl rfl rfl rfl rfl rfl rfl rfl rfl rfl rfl

theorem State.takeRecipe_kept {base s : State} (hk : Kept sk base s) (bs : List Byte) (h : Nat) :
    Kept sk base (State.takeRecipe s bs h) := by
  unfold State.takeRecipe
  extract_lets s1
  have h1 : Kept sk base s1 := State.takeRegions_kept hk _ _
  exact State.leaveDegraded_kept (Kept.mk_same h1 rfl rfl rfl rfl rfl rfl rfl rfl rfl rfl rfl rfl) _

theorem State.tkRecipeLoad_kept {base s : State} (hk : Kept sk base s) (w : WaitTicket) : Kept sk base (State.tkRecipeLoad s w) := by
  unfold State.tkRecipeLoad
  try dsimp only
  repeat' first
    | with_reducible assumption | with_reducible apply State.complete_kept | with_reducible apply State.okT_kept
    | with_reducible apply State.refuse_kept | with_reducible apply State.takeRecipe_kept | (intro _ _)
    | with_reducible refine Kept.ite (fun _ => ?_) (fun _ => ?_) | split
    | with_reducible refine Kept.mk_same ?_ rfl rfl rfl rfl rfl rfl rfl rfl rfl rfl rfl rfl

theorem State.tkRecipeUnload_kept {base s : State} (hk : Kept sk base s) (w : WaitTicket) : Kept sk base (State.tkRecipeUnload s w) := by
  unfold State.tkRecipeUnload
  try dsimp only
  repeat' first
    | with_reducible assumption | with_reducible apply State.okT_kept | with_reducible apply State.badParam_kept
    | with_reducible apply State.badState_kept | (intro _ _) | with_reducible refine Kept.ite (fun _ => ?_) (fun _ => ?_) | split
    | with_reducible refine Kept.mk_same ?_ rfl rfl rfl rfl rfl rfl rfl rfl rfl rfl rfl rfl

theorem State.startRecipe_kept {base s : State} (hk : Kept sk base s) (h first : Nat) : Kept sk base (State.startRecipe s h first) := by
  unfold State.startRecipe
  refine State.setState_kept (State.pruneLive_kept ?_) _
  exact Kept.store hk (fun m => ⟨m.1, m.2.1, m.2.2.1, m.2.2.2.1, headsOk_nil, fun _ h => nomatch h⟩) rfl rfl rfl rfl rfl

theorem State.tkRecipeStart_kept {base s : State} (hk : Kept sk base s) (w : WaitTicket) : Kept sk base (State.tkRecipeStart s w) := by
  unfold State.tkRecipeStart
  try dsimp only
  repeat' first
    | with_reducible assumption | with_reducible apply State.okT_kept | with_reducible apply State.badParam_kept
    | with_reducible apply State.badState_kept | with_reducible apply State.busy_kept | with_reducible apply State.startRecipe_kept
    | (intro _ _) | with_reducible refine Kept.ite (fun _ => ?_) (fun _ => ?_) | split
    | with_reducible refine Kept.mk_same ?_ rfl rfl rfl rfl rfl rfl rfl rfl rfl rfl rfl rfl

theorem State.tkRecipeStop_kept {base s : State} (hk : Kept sk base s) (w : WaitTicket) : Kept sk base (State.tkRecipeStop s w) := by
  unfold State.tkRecipeStop
  try dsimp only
  repeat' first
    | with_reducible assumption | with_reducible apply State.badState_kept | with_reducible apply State.busy_kept | (intro _ _)
    | with_reducible refine Kept.ite (fun _ => ?_) (fun _ => ?_) | split
    | with_reducible refine Kept.mk_same ?_ rfl rfl rfl rfl rfl rfl rfl rfl rfl rfl rfl rfl

theorem State.tkStep_kept {base s : State} (hk : Kept sk base s) (w : WaitTicket) (run : Bool) : Kept sk base (State.tkStep s w run) := by
  unfold State.tkStep
  try dsimp only
  repeat' first
    | with_reducible assumption | with_reducible apply State.enterStep_kept | with_reducible apply State.badState_kept
    | with_reducible apply State.busy_kept | (intro _ _) | with_reducible refine Kept.ite (fun _ => ?_) (fun _ => ?_) | split
    | with_reducible refine Kept.mk_same ?_ rfl rfl rfl rfl rfl rfl rfl rfl rfl rfl rfl rfl

theorem State.lookParts_kept {base s : State} (hk : Kept sk base s) (r : Recipe) (ks : List Nat) :
    Kept sk base (State.lookParts s r ks) := by
  induction ks generalizing s r with
  | nil =>
    unfold State.lookParts
    try dsimp only
    repeat' first
      | with_reducible assumption | with_reducible apply State.account_kept | (intro _ _)
      | with_reducible refine Kept.ite (fun _ => ?_) (fun _ => ?_) | split
      | with_reducible refine Kept.mk_same ?_ rfl rfl rfl rfl rfl rfl rfl rfl rfl rfl rfl rfl
  | cons x r ih =>
    unfold State.lookParts
    try dsimp only
    repeat' first
      | with_reducible assumption | with_reducible apply ih | with_reducible apply State.account_kept | (intro _ _)
      | with_reducible refine Kept.ite (fun _ => ?_) (fun _ => ?_) | split
      | with_reducible refine Kept.mk_same ?_ rfl rfl rfl rfl rfl rfl rfl rfl rfl rfl rfl rfl

theorem State.tkCkptSave_kept {base s : State} (hk : Kept sk base s) (w : WaitTicket) : Kept sk base (State.tkCkptSave s w) := by
  unfold State.tkCkptSave
  try dsimp only
  repeat' first
    | with_reducible assumption | with_reducible apply State.draw_kept | with_reducible apply State.memUe_kept
    | with_reducible apply State.complete_kept | with_reducible apply State.badParam_kept | with_reducible apply State.badState_kept
    | with_reducible apply State.answer_kept | with_reducible apply State.lookParts_kept | (intro _ _)
    | with_reducible refine Kept.ite (fun _ => ?_) (fun _ => ?_) | split
    | with_reducible refine Kept.mk_same ?_ rfl rfl rfl rfl rfl rfl rfl rfl rfl rfl rfl rfl

theorem State.bothBanks_kept {base s : State} (hk : Kept sk base s) (g n : Nat) (bs : List Byte) :
    Kept sk base (State.bothBanks s g n bs) := by
  unfold State.bothBanks
  try dsimp only
  repeat' first
    | with_reducible assumption | with_reducible apply State.rawWrite_kept | with_reducible apply State.account_kept | (intro _ _)
    | with_reducible refine Kept.ite (fun _ => ?_) (fun _ => ?_) | split
    | with_reducible refine Kept.mk_same ?_ rfl rfl rfl rfl rfl rfl rfl rfl rfl rfl rfl rfl

theorem State.takeBody_kept {base s : State} (hk : Kept sk base s) (r : Recipe) (ks : List Nat) (bs : List Byte) :
    Kept sk base (State.takeBody s r ks bs) := by
  induction ks generalizing s r bs with
  | nil =>
    unfold State.takeBody
    try dsimp only
    repeat' first
      | with_reducible assumption | with_reducible apply State.bothBanks_kept | (intro _ _)
      | with_reducible refine Kept.ite (fun _ => ?_) (fun _ => ?_) | split
      | with_reducible refine Kept.mk_same ?_ rfl rfl rfl rfl rfl rfl rfl rfl rfl rfl rfl rfl
  | cons x r ih =>
    unfold State.takeBody
    try dsimp only
    repeat' first
      | with_reducible assumption | with_reducible apply ih | with_reducible apply State.bothBanks_kept | (intro _ _)
      | with_reducible refine Kept.ite (fun _ => ?_) (fun _ => ?_) | split
      | with_reducible refine Kept.mk_same ?_ rfl rfl rfl rfl rfl rfl rfl rfl rfl rfl rfl rfl

theorem State.under_kept {base s : State} (hk : Kept sk base s) (r : Recipe) : Kept sk base (State.under s r) :=
  Kept.fresh hk rfl rfl rfl rfl rfl rfl rfl rfl

theorem State.tkCkptRestore_kept {base s : State} (hk : Kept sk base s) (w : WaitTicket) : Kept sk base (State.tkCkptRestore s w) := by
  unfold State.tkCkptRestore
  try dsimp only
  repeat' first
    | with_reducible assumption | with_reducible apply State.complete_kept | with_reducible apply State.badParam_kept
    | with_reducible apply State.badState_kept | with_reducible apply State.busy_kept | (intro _ _)
    | with_reducible refine Kept.ite (fun _ => ?_) (fun _ => ?_) | split
    | with_reducible refine Kept.mk_same ?_ rfl rfl rfl rfl rfl rfl rfl rfl rfl rfl rfl rfl

theorem State.applyRestore_kept {base s : State} (hk : Kept sk base s) (w : WaitTicket) : Kept sk base (State.applyRestore s w) := by
  unfold State.applyRestore
  try dsimp only
  repeat' first
    | with_reducible assumption | with_reducible apply State.dropBanks_kept | with_reducible apply State.complete_kept
    | with_reducible apply State.okT_kept | with_reducible apply State.badState_kept | with_reducible apply State.takeBody_kept
    | (intro _ _) | with_reducible refine Kept.ite (fun _ => ?_) (fun _ => ?_) | split
    | with_reducible refine Kept.mk_same ?_ rfl rfl rfl rfl rfl rfl rfl rfl rfl rfl rfl rfl

theorem State.tkShadowCfg_kept {base s : State} (hk : Kept sk base s) (w : WaitTicket) : Kept sk base (State.tkShadowCfg s w) := by
  unfold State.tkShadowCfg
  try dsimp only
  repeat' first
    | with_reducible assumption | with_reducible apply State.okT_kept | with_reducible apply State.badParam_kept | (intro _ _)
    | with_reducible refine Kept.ite (fun _ => ?_) (fun _ => ?_) | split
    | with_reducible refine Kept.mk_same ?_ rfl rfl rfl rfl rfl rfl rfl rfl rfl rfl rfl rfl

theorem State.logUpdate_kept {base s : State} (hk : Kept sk base s) (grad : List Byte) (d : Desc) :
    Kept sk base (State.logUpdate s grad d) := by
  unfold State.logUpdate
  try dsimp only
  repeat' first
    | with_reducible assumption | with_reducible apply State.holdLayer_kept | with_reducible apply State.updateWrites_kept | (intro _ _)
    | with_reducible refine Kept.ite (fun _ => ?_) (fun _ => ?_) | split
    | with_reducible refine Kept.mk_same ?_ rfl rfl rfl rfl rfl rfl rfl rfl rfl rfl rfl rfl

theorem State.logUpdates_kept {base s : State} (hk : Kept sk base s) (grad : List Byte) (l : List Desc) :
    Kept sk base (State.logUpdates s grad l) := by
  induction l generalizing s grad with
  | nil =>
    unfold State.logUpdates
    try dsimp only
    repeat' first
      | with_reducible assumption | with_reducible apply State.logUpdate_kept | (intro _ _)
      | with_reducible refine Kept.ite (fun _ => ?_) (fun _ => ?_) | split
      | with_reducible refine Kept.mk_same ?_ rfl rfl rfl rfl rfl rfl rfl rfl rfl rfl rfl rfl
  | cons x r ih =>
    unfold State.logUpdates
    try dsimp only
    repeat' first
      | with_reducible assumption | with_reducible apply ih | with_reducible apply State.logUpdate_kept | (intro _ _)
      | with_reducible refine Kept.ite (fun _ => ?_) (fun _ => ?_) | split
      | with_reducible refine Kept.mk_same ?_ rfl rfl rfl rfl rfl rfl rfl rfl rfl rfl rfl rfl

theorem State.logSteps_kept {base s : State} (hk : Kept sk base s) (ds : List Desc) (l : List ShadowLog) :
    Kept sk base (State.logSteps s ds l) := by
  induction l generalizing s ds with
  | nil =>
    unfold State.logSteps
    try dsimp only
    repeat' first
      | with_reducible assumption | with_reducible apply State.swapBanks_kept | with_reducible apply State.logUpdates_kept | (intro _ _)
      | with_reducible refine Kept.ite (fun _ => ?_) (fun _ => ?_) | split
      | with_reducible refine Kept.mk_same ?_ rfl rfl rfl rfl rfl rfl rfl rfl rfl rfl rfl rfl
  | cons x r ih =>
    unfold State.logSteps
    try dsimp only
    repeat' first
      | with_reducible assumption | with_reducible apply ih | with_reducible apply State.swapBanks_kept
      | with_reducible apply State.logUpdates_kept | (intro _ _) | with_reducible refine Kept.ite (fun _ => ?_) (fun _ => ?_) | split
      | with_reducible refine Kept.mk_same ?_ rfl rfl rfl rfl rfl rfl rfl rfl rfl rfl rfl rfl

theorem State.putKind_kept {base s : State} (hk : Kept sk base s) (r : Recipe) (k : Nat) (bs : List Byte) :
    Kept sk base (State.putKind s r k bs) := by
  unfold State.putKind
  try dsimp only
  repeat' first
    | with_reducible assumption | with_reducible apply State.bothBanks_kept | (intro _ _)
    | with_reducible refine Kept.ite (fun _ => ?_) (fun _ => ?_) | split
    | with_reducible refine Kept.mk_same ?_ rfl rfl rfl rfl rfl rfl rfl rfl rfl rfl rfl rfl

theorem State.rebuildImage_kept {base s : State} (hk : Kept sk base s) (l : List Desc) : Kept sk base (State.rebuildImage s l) := by
  induction l generalizing s with
  | nil => exact hk
  | cons d r ih => exact ih (State.quantiseRun_kept hk d true fx0)

theorem State.rebuildArrays_kept {base s : State} (hk : Kept sk base s) (l : List Desc) : Kept sk base (State.rebuildArrays s l) := by
  induction l generalizing s with
  | nil =>
    unfold State.rebuildArrays
    try dsimp only
    repeat' first
      | with_reducible assumption | with_reducible apply State.awrite_kept | (intro _ _)
      | with_reducible refine Kept.ite (fun _ => ?_) (fun _ => ?_) | split
      | with_reducible refine Kept.mk_same ?_ rfl rfl rfl rfl rfl rfl rfl rfl rfl rfl rfl rfl
  | cons x r ih =>
    unfold State.rebuildArrays
    try dsimp only
    repeat' first
      | with_reducible assumption | with_reducible apply ih | with_reducible apply State.awrite_kept | (intro _ _)
      | with_reducible refine Kept.ite (fun _ => ?_) (fun _ => ?_) | split
      | with_reducible refine Kept.mk_same ?_ rfl rfl rfl rfl rfl rfl rfl rfl rfl rfl rfl rfl

theorem State.takeShadow_kept {base s : State} (hk : Kept sk base s) (r : Recipe) (x : ShadowImage) :
    Kept sk base (State.takeShadow s r x) := by
  unfold State.takeShadow
  try dsimp only
  repeat' first
    | with_reducible assumption | with_reducible apply State.under_kept | with_reducible apply State.logSteps_kept
    | with_reducible apply State.putKind_kept | with_reducible apply State.rebuildImage_kept
    | with_reducible apply State.rebuildArrays_kept | (intro _ _) | with_reducible refine Kept.ite (fun _ => ?_) (fun _ => ?_) | split
    | with_reducible refine Kept.mk_same ?_ rfl rfl rfl rfl rfl rfl rfl rfl rfl rfl rfl rfl

theorem State.hasRestored_kept {base s : State} (hk : Kept sk base s) (dev : Nat) : Kept sk base (State.hasRestored s dev) := by
  unfold State.hasRestored
  try dsimp only
  repeat' first
    | with_reducible assumption | (intro _ _) | with_reducible refine Kept.ite (fun _ => ?_) (fun _ => ?_) | split
    | with_reducible refine Kept.mk_same ?_ rfl rfl rfl rfl rfl rfl rfl rfl rfl rfl rfl rfl

theorem State.tkShadowRestore_kept {base s : State} (hk : Kept sk base s) (w : WaitTicket) :
    Kept sk base (State.tkShadowRestore s w) := by
  unfold State.tkShadowRestore
  split
  · exact State.badState_kept hk _
  · rename_i r _
    refine Kept.ite (fun _ => State.badState_kept hk _) (fun _ => Kept.ite (fun _ => State.badParam_kept hk _ _) (fun _ => ?_))
    split
    · exact State.complete_kept (State.raise_kept hk _ _) _ _ _
    · rename_i x _
      have ht : Kept sk base (s.takeShadow r x) := State.takeShadow_kept hk _ _
      generalize s.takeShadow r x = t at ht
      have h1 : Kept sk base { t with rcp := { s.rcp with nextStep := x.step + 1 }, stp := s.stp } :=
        ⟨⟨ht.queue, fun m => have h := ht.mem m; ⟨h.1, h.2.1, h.2.2.1, h.2.2.2.1, h.2.2.2.2.1, (hk.mem m).2.2.2.2.2⟩, ht.isSealed, ht.rollback,
          ht.hours⟩, ht.alarm, ht.sticky, ht.lockP, ht.lockS, ht.keys, ht.owner, ht.first⟩
      exact Kept.ite (fun _ => State.okT_kept (State.hasRestored_kept (State.recovered_kept (State.count_kept (State.raise_kept h1 _ _) _ _) _) _) _ _)
        (fun _ => State.complete_kept hk _ _ _)

theorem State.calCommand_kept {base s : State} (hk : Kept sk base s) (l : List Nat) : Kept sk base (State.calCommand s l) := by
  induction l generalizing s with
  | nil =>
    unfold State.calCommand
    try dsimp only
    repeat' first
      | with_reducible assumption | with_reducible apply State.makeDue_kept | (intro _ _)
      | with_reducible refine Kept.ite (fun _ => ?_) (fun _ => ?_) | split
      | with_reducible refine Kept.mk_same ?_ rfl rfl rfl rfl rfl rfl rfl rfl rfl rfl rfl rfl
  | cons x r ih =>
    unfold State.calCommand
    try dsimp only
    repeat' first
      | with_reducible assumption | with_reducible apply ih | with_reducible apply State.makeDue_kept | (intro _ _)
      | with_reducible refine Kept.ite (fun _ => ?_) (fun _ => ?_) | split
      | with_reducible refine Kept.mk_same ?_ rfl rfl rfl rfl rfl rfl rfl rfl rfl rfl rfl rfl

theorem State.tkCalRun_kept {base s : State} (hk : Kept sk base s) (w : WaitTicket) : Kept sk base (State.tkCalRun s w) := by
  unfold State.tkCalRun
  try dsimp only
  repeat' first
    | with_reducible assumption | with_reducible apply State.okT_kept | with_reducible apply State.badParam_kept
    | with_reducible apply State.busy_kept | with_reducible apply State.calCommand_kept | (intro _ _)
    | with_reducible refine Kept.ite (fun _ => ?_) (fun _ => ?_) | split
    | with_reducible refine Kept.mk_same ?_ rfl rfl rfl rfl rfl rfl rfl rfl rfl rfl rfl rfl

theorem State.tkSctRead_kept {base s : State} (hk : Kept sk base s) (w : WaitTicket) : Kept sk base (State.tkSctRead s w) := by
  unfold State.tkSctRead
  exact State.answer_kept hk _ _ _ _

theorem State.tkTestEnter_kept {base s : State} (hk : Kept sk base s) (w : WaitTicket) : Kept sk base (State.tkTestEnter s w) := by
  unfold State.tkTestEnter
  try dsimp only
  repeat' first
    | with_reducible assumption | with_reducible apply State.setState_kept | with_reducible apply State.okT_kept
    | with_reducible apply State.badState_kept | (intro _ _) | with_reducible refine Kept.ite (fun _ => ?_) (fun _ => ?_) | split
    | with_reducible refine Kept.mk_same ?_ rfl rfl rfl rfl rfl rfl rfl rfl rfl rfl rfl rfl

theorem State.testFailure_kept {base s : State} (hk : Kept sk base s) (cls unit : Nat) : Kept sk base (State.testFailure s cls unit) := by
  unfold State.testFailure
  try dsimp only
  repeat' first
    | with_reducible assumption | with_reducible apply State.dtFailure_kept | with_reducible apply State.laneOut_kept
    | with_reducible apply State.rowFails_kept | (intro _ _) | with_reducible refine Kept.ite (fun _ => ?_) (fun _ => ?_) | split
    | with_reducible refine Kept.mk_same ?_ rfl rfl rfl rfl rfl rfl rfl rfl rfl rfl rfl rfl

theorem State.testFailures_kept {base s : State} (hk : Kept sk base s) (l : List (Nat × Nat)) : Kept sk base (State.testFailures s l) := by
  induction l generalizing s with
  | nil =>
    unfold State.testFailures
    try dsimp only
    repeat' first
      | with_reducible assumption | with_reducible apply State.testFailure_kept | (intro _ _)
      | with_reducible refine Kept.ite (fun _ => ?_) (fun _ => ?_) | split
      | with_reducible refine Kept.mk_same ?_ rfl rfl rfl rfl rfl rfl rfl rfl rfl rfl rfl rfl
  | cons x r ih =>
    unfold State.testFailures
    try dsimp only
    repeat' first
      | with_reducible assumption | with_reducible apply ih | with_reducible apply State.testFailure_kept | (intro _ _)
      | with_reducible refine Kept.ite (fun _ => ?_) (fun _ => ?_) | split
      | with_reducible refine Kept.mk_same ?_ rfl rfl rfl rfl rfl rfl rfl rfl rfl rfl rfl rfl

theorem State.tkTestLeave_kept {base s : State} (hk : Kept sk base s) (w : WaitTicket) : Kept sk base (State.tkTestLeave s w) := by
  unfold State.tkTestLeave
  try dsimp only
  repeat' first
    | with_reducible assumption | with_reducible apply State.setState_kept | with_reducible apply State.publish_kept
    | with_reducible apply State.okT_kept | with_reducible apply State.badState_kept | with_reducible apply State.testFailures_kept
    | (intro _ _) | with_reducible refine Kept.ite (fun _ => ?_) (fun _ => ?_) | split
    | with_reducible refine Kept.mk_same ?_ rfl rfl rfl rfl rfl rfl rfl rfl rfl rfl rfl rfl

theorem State.tkDirectedTest_kept {base s : State} (hk : Kept sk base s) (w : WaitTicket) : Kept sk base (State.tkDirectedTest s w) := by
  unfold State.tkDirectedTest
  try dsimp only
  repeat' first
    | with_reducible assumption | with_reducible apply State.okT_kept | with_reducible apply State.badParam_kept
    | with_reducible apply State.badState_kept | with_reducible apply State.testFailure_kept | (intro _ _)
    | with_reducible refine Kept.ite (fun _ => ?_) (fun _ => ?_) | split
    | with_reducible refine Kept.mk_same ?_ rfl rfl rfl rfl rfl rfl rfl rfl rfl rfl rfl rfl

theorem State.tkEventRead_kept {base s : State} (hk : Kept sk base s) (w : WaitTicket) : Kept sk base (State.tkEventRead s w) := by
  unfold State.tkEventRead
  try dsimp only
  repeat' first
    | with_reducible assumption | with_reducible apply State.badParam_kept | with_reducible apply State.answer_kept | (intro _ _)
    | with_reducible refine Kept.ite (fun _ => ?_) (fun _ => ?_) | split
    | with_reducible refine Kept.mk_same ?_ rfl rfl rfl rfl rfl rfl rfl rfl rfl rfl rfl rfl

theorem State.tkHistoryRead_kept {base s : State} (hk : Kept sk base s) (w : WaitTicket) : Kept sk base (State.tkHistoryRead s w) := by
  unfold State.tkHistoryRead
  try dsimp only
  repeat' first
    | with_reducible assumption | with_reducible apply State.badParam_kept | with_reducible apply State.answer_kept | (intro _ _)
    | with_reducible refine Kept.ite (fun _ => ?_) (fun _ => ?_) | split
    | with_reducible refine Kept.mk_same ?_ rfl rfl rfl rfl rfl rfl rfl rfl rfl rfl rfl rfl

theorem State.lookRings_kept {base s : State} (hk : Kept sk base s) (reader : Nat) (l : List Nat) (g : MemObs) :
    Kept sk base (State.lookRings s reader l g).1 := by
  induction l generalizing s reader g with
  | nil =>
    unfold State.lookRings
    try dsimp only
    repeat' first
      | with_reducible assumption | with_reducible apply State.account_kept | with_reducible apply State.viewErrors_kept | (intro _ _)
      | with_reducible refine Kept.ite (fun _ => ?_) (fun _ => ?_) | split
      | with_reducible refine Kept.mk_same ?_ rfl rfl rfl rfl rfl rfl rfl rfl rfl rfl rfl rfl
  | cons x r ih =>
    unfold State.lookRings
    try dsimp only
    repeat' first
      | with_reducible assumption | with_reducible apply ih | with_reducible apply State.account_kept
      | with_reducible apply State.viewErrors_kept | (intro _ _) | with_reducible refine Kept.ite (fun _ => ?_) (fun _ => ?_) | split
      | with_reducible refine Kept.mk_same ?_ rfl rfl rfl rfl rfl rfl rfl rfl rfl rfl rfl rfl

theorem State.tkRatioRead_kept {base s : State} (hk : Kept sk base s) (w : WaitTicket) : Kept sk base (State.tkRatioRead s w) := by
  unfold State.tkRatioRead
  try dsimp only
  repeat' first
    | with_reducible assumption | with_reducible apply State.draw_kept | with_reducible apply State.complete_kept
    | with_reducible apply State.badParam_kept | with_reducible apply State.answer_kept | with_reducible apply State.lookRings_kept
    | (intro _ _) | with_reducible refine Kept.ite (fun _ => ?_) (fun _ => ?_) | split
    | with_reducible refine Kept.mk_same ?_ rfl rfl rfl rfl rfl rfl rfl rfl rfl rfl rfl rfl

theorem State.tkTelemetryRead_kept {base s : State} (hk : Kept sk base s) (w : WaitTicket) : Kept sk base (State.tkTelemetryRead s w) := by
  unfold State.tkTelemetryRead
  try dsimp only
  repeat' first
    | with_reducible assumption | with_reducible apply State.draw_kept | with_reducible apply State.answer_kept | (intro _ _)
    | with_reducible refine Kept.ite (fun _ => ?_) (fun _ => ?_) | split
    | with_reducible refine Kept.mk_same ?_ rfl rfl rfl rfl rfl rfl rfl rfl rfl rfl rfl rfl

theorem State.loseArrays_kept {base s : State} (hk : Kept sk base s) (l : List Nat) : Kept sk base (State.loseArrays s l) := by
  induction l generalizing s with
  | nil =>
    unfold State.loseArrays
    try dsimp only
    repeat' first
      | with_reducible assumption | with_reducible apply State.loseArray_kept | (intro _ _)
      | with_reducible refine Kept.ite (fun _ => ?_) (fun _ => ?_) | split
      | with_reducible refine Kept.mk_same ?_ rfl rfl rfl rfl rfl rfl rfl rfl rfl rfl rfl rfl
  | cons x r ih =>
    unfold State.loseArrays
    try dsimp only
    repeat' first
      | with_reducible assumption | with_reducible apply ih | with_reducible apply State.loseArray_kept | (intro _ _)
      | with_reducible refine Kept.ite (fun _ => ?_) (fun _ => ?_) | split
      | with_reducible refine Kept.mk_same ?_ rfl rfl rfl rfl rfl rfl rfl rfl rfl rfl rfl rfl

theorem State.rewriteArrays_kept {base s : State} (hk : Kept sk base s) (l : List Nat) : Kept sk base (State.rewriteArrays s l) := by
  induction l generalizing s with
  | nil =>
    unfold State.rewriteArrays
    try dsimp only
    repeat' first
      | with_reducible assumption | with_reducible apply State.programAll_kept | (intro _ _)
      | with_reducible refine Kept.ite (fun _ => ?_) (fun _ => ?_) | split
      | with_reducible refine Kept.mk_same ?_ rfl rfl rfl rfl rfl rfl rfl rfl rfl rfl rfl rfl
  | cons x r ih =>
    unfold State.rewriteArrays
    try dsimp only
    repeat' first
      | with_reducible assumption | with_reducible apply ih | with_reducible apply State.programAll_kept | (intro _ _)
      | with_reducible refine Kept.ite (fun _ => ?_) (fun _ => ?_) | split
      | with_reducible refine Kept.mk_same ?_ rfl rfl rfl rfl rfl rfl rfl rfl rfl rfl rfl rfl

theorem State.idleEffects_kept {base s : State} (hk : Kept sk base s) (old new : Nat) (n : NvmRead) :
    Kept sk base (State.idleEffects s old new n) := by
  unfold State.idleEffects
  extract_lets _ s1
  have h1 : Kept sk base s1 := Kept.ite (fun _ => Kept.store hk
    (fun m => ⟨Mem.wf_nil, Mem.wf_nil, m.2.2.1, m.2.2.2.1, headsOk_nil, m.2.2.2.2.2⟩) rfl rfl rfl rfl rfl) (fun _ => hk)
  exact Kept.ite (fun _ => State.loseArrays_kept h1 _)
    (fun _ => Kept.ite (fun _ => State.rewriteArrays_kept (State.loadBlocks_kept h1 _ _) _) (fun _ => h1))

theorem State.setIdle_kept {base s : State} (hk : Kept sk base s) (n : Nat) (nvm : NvmRead) : Kept sk base (State.setIdle s n nvm) := by
  unfold State.setIdle
  try dsimp only
  repeat' first
    | with_reducible assumption | with_reducible apply State.setIrq_kept | with_reducible apply State.raise_kept
    | with_reducible apply State.dutyFall_kept | with_reducible apply State.idleEffects_kept | (intro _ _)
    | with_reducible refine Kept.ite (fun _ => ?_) (fun _ => ?_) | split
    | with_reducible refine Kept.mk_same ?_ rfl rfl rfl rfl rfl rfl rfl rfl rfl rfl rfl rfl

theorem State.idleExit_kept {base s : State} (hk : Kept sk base s) (nvm : NvmRead) : Kept sk base (State.idleExit s nvm) := by
  unfold State.idleExit
  try dsimp only
  repeat' first
    | with_reducible assumption | with_reducible apply State.setState_kept | with_reducible apply State.setIdle_kept | (intro _ _)
    | with_reducible refine Kept.ite (fun _ => ?_) (fun _ => ?_) | split
    | with_reducible refine Kept.mk_same ?_ rfl rfl rfl rfl rfl rfl rfl rfl rfl rfl rfl rfl

theorem State.tkSetWakeTol_kept {base s : State} (hk : Kept sk base s) (w : WaitTicket) : Kept sk base (State.tkSetWakeTol s w) := by
  unfold State.tkSetWakeTol
  try dsimp only
  repeat' first
    | with_reducible assumption | with_reducible apply State.okT_kept | with_reducible apply State.setIdle_kept
    | with_reducible apply State.idleExit_kept | (intro _ _) | with_reducible refine Kept.ite (fun _ => ?_) (fun _ => ?_) | split
    | with_reducible refine Kept.mk_same ?_ rfl rfl rfl rfl rfl rfl rfl rfl rfl rfl rfl rfl

theorem State.tkIdleEnter_kept {base s : State} (hk : Kept sk base s) (w : WaitTicket) : Kept sk base (State.tkIdleEnter s w) := by
  unfold State.tkIdleEnter
  try dsimp only
  repeat' first
    | with_reducible assumption | with_reducible apply State.setState_kept | with_reducible apply State.okT_kept
    | with_reducible apply State.badParam_kept | with_reducible apply State.badState_kept | with_reducible apply State.setIdle_kept
    | with_reducible apply State.idleExit_kept | (intro _ _) | with_reducible refine Kept.ite (fun _ => ?_) (fun _ => ?_) | split
    | with_reducible refine Kept.mk_same ?_ rfl rfl rfl rfl rfl rfl rfl rfl rfl rfl rfl rfl

theorem State.tkIdleExit_kept {base s : State} (hk : Kept sk base s) (w : WaitTicket) : Kept sk base (State.tkIdleExit s w) := by
  unfold State.tkIdleExit
  try dsimp only
  repeat' first
    | with_reducible assumption | with_reducible apply State.okT_kept | with_reducible apply State.badState_kept
    | with_reducible apply State.idleExit_kept | (intro _ _) | with_reducible refine Kept.ite (fun _ => ?_) (fun _ => ?_) | split
    | with_reducible refine Kept.mk_same ?_ rfl rfl rfl rfl rfl rfl rfl rfl rfl rfl rfl rfl

theorem State.tkPowerLimit_kept {base s : State} (hk : Kept sk base s) (w : WaitTicket) : Kept sk base (State.tkPowerLimit s w) := by
  unfold State.tkPowerLimit
  try dsimp only
  repeat' first
    | with_reducible assumption | with_reducible apply State.complete_kept | with_reducible apply State.okT_kept
    | with_reducible apply State.badParam_kept | (intro _ _) | with_reducible refine Kept.ite (fun _ => ?_) (fun _ => ?_) | split
    | with_reducible refine Kept.mk_same ?_ rfl rfl rfl rfl rfl rfl rfl rfl rfl rfl rfl rfl

theorem State.endLimits_kept {base s : State} (hk : Kept sk base s) (st : Nat) (l : List WaitTicket) :
    Kept sk base (State.endLimits s st l) := by
  induction l generalizing s st with
  | nil =>
    unfold State.endLimits
    try dsimp only
    repeat' first
      | with_reducible assumption | with_reducible apply State.complete_kept | (intro _ _)
      | with_reducible refine Kept.ite (fun _ => ?_) (fun _ => ?_) | split
      | with_reducible refine Kept.mk_same ?_ rfl rfl rfl rfl rfl rfl rfl rfl rfl rfl rfl rfl
  | cons x r ih =>
    unfold State.endLimits
    try dsimp only
    repeat' first
      | with_reducible assumption | with_reducible apply ih | with_reducible apply State.complete_kept | (intro _ _)
      | with_reducible refine Kept.ite (fun _ => ?_) (fun _ => ?_) | split
      | with_reducible refine Kept.mk_same ?_ rfl rfl rfl rfl rfl rfl rfl rfl rfl rfl rfl rfl

theorem State.tkPowerQuery_kept {base s : State} (hk : Kept sk base s) (w : WaitTicket) : Kept sk base (State.tkPowerQuery s w) := by
  unfold State.tkPowerQuery
  try dsimp only
  repeat' first
    | with_reducible assumption | with_reducible apply State.okT_kept | (intro _ _)
    | with_reducible refine Kept.ite (fun _ => ?_) (fun _ => ?_) | split
    | with_reducible refine Kept.mk_same ?_ rfl rfl rfl rfl rfl rfl rfl rfl rfl rfl rfl rfl

theorem State.retrainPorts_kept {base s : State} (hk : Kept sk base s) (l : List Nat) : Kept sk base (State.retrainPorts s l) := by
  induction l generalizing s with
  | nil =>
    unfold State.retrainPorts
    try dsimp only
    repeat' first
      | with_reducible assumption | with_reducible apply State.putPort_kept | with_reducible apply State.startTraining_kept | (intro _ _)
      | with_reducible refine Kept.ite (fun _ => ?_) (fun _ => ?_) | split
      | with_reducible refine Kept.mk_same ?_ rfl rfl rfl rfl rfl rfl rfl rfl rfl rfl rfl rfl
  | cons x r ih =>
    unfold State.retrainPorts
    try dsimp only
    repeat' first
      | with_reducible assumption | with_reducible apply ih | with_reducible apply State.putPort_kept
      | with_reducible apply State.startTraining_kept | (intro _ _) | with_reducible refine Kept.ite (fun _ => ?_) (fun _ => ?_) | split
      | with_reducible refine Kept.mk_same ?_ rfl rfl rfl rfl rfl rfl rfl rfl rfl rfl rfl rfl

theorem State.tkDomainSet_kept {base s : State} (hk : Kept sk base s) (w : WaitTicket) : Kept sk base (State.tkDomainSet s w) := by
  unfold State.tkDomainSet
  try dsimp only
  repeat' first
    | with_reducible assumption | with_reducible apply State.okT_kept | with_reducible apply State.badParam_kept
    | with_reducible apply State.badState_kept | with_reducible apply State.retrainPorts_kept | (intro _ _)
    | with_reducible refine Kept.ite (fun _ => ?_) (fun _ => ?_) | split
    | with_reducible refine Kept.mk_same ?_ rfl rfl rfl rfl rfl rfl rfl rfl rfl rfl rfl rfl

theorem State.tkGroupDefine_kept {base s : State} (hk : Kept sk base s) (w : WaitTicket) : Kept sk base (State.tkGroupDefine s w) := by
  unfold State.tkGroupDefine
  try dsimp only
  repeat' first
    | with_reducible assumption | with_reducible apply State.complete_kept | with_reducible apply State.okT_kept
    | with_reducible apply State.badParam_kept | (intro _ _) | with_reducible refine Kept.ite (fun _ => ?_) (fun _ => ?_) | split
    | with_reducible refine Kept.mk_same ?_ rfl rfl rfl rfl rfl rfl rfl rfl rfl rfl rfl rfl

theorem State.tkGroupDelete_kept {base s : State} (hk : Kept sk base s) (w : WaitTicket) : Kept sk base (State.tkGroupDelete s w) := by
  unfold State.tkGroupDelete
  try dsimp only
  repeat' first
    | with_reducible assumption | with_reducible apply State.okT_kept | with_reducible apply State.badParam_kept | (intro _ _)
    | with_reducible refine Kept.ite (fun _ => ?_) (fun _ => ?_) | split
    | with_reducible refine Kept.mk_same ?_ rfl rfl rfl rfl rfl rfl rfl rfl rfl rfl rfl rfl

theorem State.tkBeatSet_kept {base s : State} (hk : Kept sk base s) (w : WaitTicket) : Kept sk base (State.tkBeatSet s w) := by
  unfold State.tkBeatSet
  try dsimp only
  repeat' first
    | with_reducible assumption | with_reducible apply State.okT_kept | with_reducible apply State.badParam_kept
    | with_reducible apply State.badState_kept | (intro _ _) | with_reducible refine Kept.ite (fun _ => ?_) (fun _ => ?_) | split
    | with_reducible refine Kept.mk_same ?_ rfl rfl rfl rfl rfl rfl rfl rfl rfl rfl rfl rfl

theorem State.tkDomainJoin_kept {base s : State} (hk : Kept sk base s) (w : WaitTicket) : Kept sk base (State.tkDomainJoin s w) := by
  unfold State.tkDomainJoin
  try dsimp only
  repeat' first
    | with_reducible assumption | with_reducible apply State.setState_kept | with_reducible apply State.okT_kept
    | with_reducible apply State.badState_kept | (intro _ _) | with_reducible refine Kept.ite (fun _ => ?_) (fun _ => ?_) | split
    | with_reducible refine Kept.mk_same ?_ rfl rfl rfl rfl rfl rfl rfl rfl rfl rfl rfl rfl

theorem State.tkLinkQuery_kept {base s : State} (hk : Kept sk base s) (w : WaitTicket) : Kept sk base (State.tkLinkQuery s w) := by
  unfold State.tkLinkQuery
  try dsimp only
  repeat' first
    | with_reducible assumption | with_reducible apply State.okT_kept | (intro _ _)
    | with_reducible refine Kept.ite (fun _ => ?_) (fun _ => ?_) | split
    | with_reducible refine Kept.mk_same ?_ rfl rfl rfl rfl rfl rfl rfl rfl rfl rfl rfl rfl

theorem State.tkSecQuery_kept {base s : State} (hk : Kept sk base s) (w : WaitTicket) : Kept sk base (State.tkSecQuery s w) := by
  unfold State.tkSecQuery
  try dsimp only
  repeat' first
    | with_reducible assumption | with_reducible apply State.okT_kept | (intro _ _)
    | with_reducible refine Kept.ite (fun _ => ?_) (fun _ => ?_) | split
    | with_reducible refine Kept.mk_same ?_ rfl rfl rfl rfl rfl rfl rfl rfl rfl rfl rfl rfl

theorem State.tkCertRead_kept {base s : State} (hk : Kept sk base s) (w : WaitTicket) : Kept sk base (State.tkCertRead s w) := by
  unfold State.tkCertRead
  try dsimp only
  repeat' first
    | with_reducible assumption | with_reducible apply State.answer_kept | (intro _ _)
    | with_reducible refine Kept.ite (fun _ => ?_) (fun _ => ?_) | split
    | with_reducible refine Kept.mk_same ?_ rfl rfl rfl rfl rfl rfl rfl rfl rfl rfl rfl rfl

theorem State.tkMeasure_kept {base s : State} (hk : Kept sk base s) (w : WaitTicket) : Kept sk base (State.tkMeasure s w) := by
  unfold State.tkMeasure
  try dsimp only
  repeat' first
    | with_reducible assumption | with_reducible apply State.complete_kept | with_reducible apply State.answer_kept | (intro _ _)
    | with_reducible refine Kept.ite (fun _ => ?_) (fun _ => ?_) | split
    | with_reducible refine Kept.mk_same ?_ rfl rfl rfl rfl rfl rfl rfl rfl rfl rfl rfl rfl

set_option maxRecDepth 8000 in
theorem State.runTicket_kept {base s : State} (hk : Kept sk base s) (w : WaitTicket) : Kept sk base (State.runTicket s w) := by
  unfold State.runTicket
  try dsimp only
  repeat' first
    | with_reducible assumption | with_reducible apply State.complete_kept | with_reducible apply State.tkIdentify_kept
    | with_reducible apply State.tkCreateRail_kept | with_reducible apply State.tkDeleteRail_kept
    | with_reducible apply State.tkCreatePass_kept | with_reducible apply State.tkDeletePass_kept
    | with_reducible apply State.tkStatus_kept | with_reducible apply State.tkMemWrite_kept | with_reducible apply State.tkMemRead_kept
    | with_reducible apply State.tkRegionQuery_kept | with_reducible apply State.tkRegionFree_kept
    | with_reducible apply State.tkRecipeLoad_kept | with_reducible apply State.tkRecipeUnload_kept
    | with_reducible apply State.tkRecipeStart_kept | with_reducible apply State.tkRecipeStop_kept
    | with_reducible apply State.tkStep_kept | with_reducible apply State.tkCkptSave_kept | with_reducible apply State.tkCkptRestore_kept
    | with_reducible apply State.tkShadowCfg_kept | with_reducible apply State.tkShadowRestore_kept
    | with_reducible apply State.tkCalRun_kept | with_reducible apply State.tkSctRead_kept | with_reducible apply State.tkTestEnter_kept
    | with_reducible apply State.tkTestLeave_kept | with_reducible apply State.tkDirectedTest_kept
    | with_reducible apply State.tkEventRead_kept | with_reducible apply State.tkHistoryRead_kept
    | with_reducible apply State.tkRatioRead_kept | with_reducible apply State.tkTelemetryRead_kept
    | with_reducible apply State.tkSetWakeTol_kept | with_reducible apply State.tkIdleEnter_kept
    | with_reducible apply State.tkIdleExit_kept | with_reducible apply State.tkPowerLimit_kept
    | with_reducible apply State.tkPowerQuery_kept | with_reducible apply State.tkDomainSet_kept
    | with_reducible apply State.tkGroupDefine_kept | with_reducible apply State.tkGroupDelete_kept
    | with_reducible apply State.tkBeatSet_kept | with_reducible apply State.tkDomainJoin_kept
    | with_reducible apply State.tkLinkQuery_kept | with_reducible apply State.tkSecQuery_kept
    | with_reducible apply State.tkCertRead_kept | with_reducible apply State.tkMeasure_kept | (intro _ _)
    | with_reducible refine Kept.ite (fun _ => ?_) (fun _ => ?_) | split
    | with_reducible refine Kept.mk_same ?_ rfl rfl rfl rfl rfl rfl rfl rfl rfl rfl rfl rfl

theorem State.startTicket_kept {base s : State} (hk : Kept sk base s) (w : WaitTicket) : Kept sk base (State.startTicket s w) := by
  unfold State.startTicket
  try dsimp only
  repeat' first
    | with_reducible assumption | with_reducible apply State.complete_kept | with_reducible apply State.badParam_kept
    | with_reducible apply State.badState_kept | with_reducible apply State.idleExit_kept | with_reducible apply State.runTicket_kept
    | (intro _ _) | with_reducible refine Kept.ite (fun _ => ?_) (fun _ => ?_) | split
    | with_reducible refine Kept.mk_same ?_ rfl rfl rfl rfl rfl rfl rfl rfl rfl rfl rfl rfl

theorem State.drainN_kept {base s : State} (hk : Kept sk base s) (fuel : Nat) : Kept sk base (State.drainN s fuel) := by
  induction fuel generalizing s with
  | zero =>
    unfold State.drainN
    try dsimp only
    repeat' first
      | with_reducible assumption | with_reducible apply State.finishDeletes_kept | with_reducible apply State.startTicket_kept
      | (intro _ _) | with_reducible refine Kept.ite (fun _ => ?_) (fun _ => ?_) | split
      | with_reducible refine Kept.mk_same ?_ rfl rfl rfl rfl rfl rfl rfl rfl rfl rfl rfl rfl
  | succ n ih =>
    unfold State.drainN
    try dsimp only
    repeat' first
      | with_reducible assumption | with_reducible apply ih | with_reducible apply State.finishDeletes_kept
      | with_reducible apply State.startTicket_kept | (intro _ _) | with_reducible refine Kept.ite (fun _ => ?_) (fun _ => ?_) | split
      | with_reducible refine Kept.mk_same ?_ rfl rfl rfl rfl rfl rfl rfl rfl rfl rfl rfl rfl

theorem State.endAttempt_kept {base s : State} (hk : Kept sk base s) : Kept sk base (State.endAttempt s) := by
  unfold State.endAttempt
  exact Kept.ite (fun _ => Kept.fresh (State.discard_kept hk) rfl rfl rfl rfl rfl rfl rfl rfl) (fun _ => hk)

theorem State.abortList_kept {base s : State} (hk : Kept sk base s) (l : List WaitTicket) : Kept sk base (State.abortList s l) := by
  induction l generalizing s with
  | nil =>
    unfold State.abortList
    try dsimp only
    repeat' first
      | with_reducible assumption | with_reducible apply State.complete_kept | (intro _ _)
      | with_reducible refine Kept.ite (fun _ => ?_) (fun _ => ?_) | split
      | with_reducible refine Kept.mk_same ?_ rfl rfl rfl rfl rfl rfl rfl rfl rfl rfl rfl rfl
  | cons x r ih =>
    unfold State.abortList
    try dsimp only
    repeat' first
      | with_reducible assumption | with_reducible apply ih | with_reducible apply State.complete_kept | (intro _ _)
      | with_reducible refine Kept.ite (fun _ => ?_) (fun _ => ?_) | split
      | with_reducible refine Kept.mk_same ?_ rfl rfl rfl rfl rfl rfl rfl rfl rfl rfl rfl rfl

theorem State.endRunning_kept {base s : State} (hk : Kept sk base s) : Kept sk base (State.endRunning s) := by
  unfold State.endRunning
  try dsimp only
  repeat' first
    | with_reducible assumption | with_reducible apply State.complete_kept | with_reducible apply State.okT_kept | (intro _ _)
    | with_reducible refine Kept.ite (fun _ => ?_) (fun _ => ?_) | split
    | with_reducible refine Kept.mk_same ?_ rfl rfl rfl rfl rfl rfl rfl rfl rfl rfl rfl rfl

theorem State.endLost_kept {base s : State} (hk : Kept sk base s) : Kept sk base (State.endLost s) := by
  unfold State.endLost
  try dsimp only
  repeat' first
    | with_reducible assumption | with_reducible apply State.endAttempt_kept | with_reducible apply State.abortList_kept
    | with_reducible apply State.endRunning_kept | (intro _ _) | with_reducible refine Kept.ite (fun _ => ?_) (fun _ => ?_) | split
    | with_reducible refine Kept.mk_same ?_ rfl rfl rfl rfl rfl rfl rfl rfl rfl rfl rfl rfl

theorem State.drain_kept {base s : State} (hk : Kept sk base s) : Kept sk base (State.drain s) := by
  unfold State.drain
  try dsimp only
  repeat' first
    | with_reducible assumption | with_reducible apply State.okT_kept | with_reducible apply State.drainN_kept
    | with_reducible apply State.endLost_kept | (intro _ _) | with_reducible refine Kept.ite (fun _ => ?_) (fun _ => ?_) | split
    | with_reducible refine Kept.mk_same ?_ rfl rfl rfl rfl rfl rfl rfl rfl rfl rfl rfl rfl

theorem State.submit_kept {base s : State} (hk : Kept sk base s) (w : WaitTicket) : Kept sk base (State.submit s w) := by
  unfold State.submit
  try dsimp only
  repeat' first
    | with_reducible assumption | with_reducible apply State.setRail_kept | with_reducible apply State.drain_kept | (intro _ _)
    | with_reducible refine Kept.ite (fun _ => ?_) (fun _ => ?_) | split
    | with_reducible refine Kept.mk_same ?_ rfl rfl rfl rfl rfl rfl rfl rfl rfl rfl rfl rfl

theorem execIdentify_kept (s : State) (t : Ticket) : KeptO sk s (execIdentify t s) := by
  have hk : Kept sk s s := Kept.refl s
  unfold execIdentify
  try dsimp only
  repeat' first
    | with_reducible assumption | with_reducible apply KeptO.next | with_reducible exact KeptO.fault _
    | with_reducible apply State.submit_kept | (intro _ _) | with_reducible refine Kept.ite (fun _ => ?_) (fun _ => ?_) | split
    | with_reducible refine Kept.mk_same ?_ rfl rfl rfl rfl rfl rfl rfl rfl rfl rfl rfl rfl

theorem execCreateRail_kept (s : State) (t : Ticket) : KeptO sk s (execCreateRail t s) := by
  have hk : Kept sk s s := Kept.refl s
  unfold execCreateRail
  try dsimp only
  repeat' first
    | with_reducible assumption | with_reducible apply KeptO.next | with_reducible exact KeptO.fault _
    | with_reducible apply State.submit_kept | (intro _ _) | with_reducible refine Kept.ite (fun _ => ?_) (fun _ => ?_) | split
    | with_reducible refine Kept.mk_same ?_ rfl rfl rfl rfl rfl rfl rfl rfl rfl rfl rfl rfl

theorem execDeleteRail_kept (s : State) (t : Ticket) : KeptO sk s (execDeleteRail t s) := by
  have hk : Kept sk s s := Kept.refl s
  unfold execDeleteRail
  try dsimp only
  repeat' first
    | with_reducible assumption | with_reducible apply KeptO.next | with_reducible exact KeptO.fault _
    | with_reducible apply State.submit_kept | (intro _ _) | with_reducible refine Kept.ite (fun _ => ?_) (fun _ => ?_) | split
    | with_reducible refine Kept.mk_same ?_ rfl rfl rfl rfl rfl rfl rfl rfl rfl rfl rfl rfl

theorem execCreatePass_kept (s : State) (t : Ticket) : KeptO sk s (execCreatePass t s) := by
  have hk : Kept sk s s := Kept.refl s
  unfold execCreatePass
  try dsimp only
  repeat' first
    | with_reducible assumption | with_reducible apply KeptO.next | with_reducible exact KeptO.fault _
    | with_reducible apply State.submit_kept | (intro _ _) | with_reducible refine Kept.ite (fun _ => ?_) (fun _ => ?_) | split
    | with_reducible refine Kept.mk_same ?_ rfl rfl rfl rfl rfl rfl rfl rfl rfl rfl rfl rfl

theorem execDeletePass_kept (s : State) (t : Ticket) : KeptO sk s (execDeletePass t s) := by
  have hk : Kept sk s s := Kept.refl s
  unfold execDeletePass
  try dsimp only
  repeat' first
    | with_reducible assumption | with_reducible apply KeptO.next | with_reducible exact KeptO.fault _
    | with_reducible apply State.submit_kept | (intro _ _) | with_reducible refine Kept.ite (fun _ => ?_) (fun _ => ?_) | split
    | with_reducible refine Kept.mk_same ?_ rfl rfl rfl rfl rfl rfl rfl rfl rfl rfl rfl rfl

theorem execStatus_kept (s : State) (t : Ticket) : KeptO sk s (execStatus t s) := by
  have hk : Kept sk s s := Kept.refl s
  unfold execStatus
  try dsimp only
  repeat' first
    | with_reducible assumption | with_reducible apply KeptO.next | with_reducible exact KeptO.fault _
    | with_reducible apply State.submit_kept | (intro _ _) | with_reducible refine Kept.ite (fun _ => ?_) (fun _ => ?_) | split
    | with_reducible refine Kept.mk_same ?_ rfl rfl rfl rfl rfl rfl rfl rfl rfl rfl rfl rfl

theorem execMemWrite_kept (s : State) (t : Ticket) : KeptO sk s (execMemWrite t s) := by
  have hk : Kept sk s s := Kept.refl s
  unfold execMemWrite
  try dsimp only
  repeat' first
    | with_reducible assumption | with_reducible apply KeptO.next | with_reducible exact KeptO.fault _
    | with_reducible apply State.submit_kept | (intro _ _) | with_reducible refine Kept.ite (fun _ => ?_) (fun _ => ?_) | split
    | with_reducible refine Kept.mk_same ?_ rfl rfl rfl rfl rfl rfl rfl rfl rfl rfl rfl rfl

theorem execMemRead_kept (s : State) (t : Ticket) (g : MemObs) : KeptO sk s (execMemRead t g s) := by
  have hk : Kept sk s s := Kept.refl s
  unfold execMemRead
  try dsimp only
  repeat' first
    | with_reducible assumption | with_reducible apply KeptO.next | with_reducible exact KeptO.fault _
    | with_reducible apply State.submit_kept | (intro _ _) | with_reducible refine Kept.ite (fun _ => ?_) (fun _ => ?_) | split
    | with_reducible refine Kept.mk_same ?_ rfl rfl rfl rfl rfl rfl rfl rfl rfl rfl rfl rfl

theorem execRegionQuery_kept (s : State) (t : Ticket) : KeptO sk s (execRegionQuery t s) := by
  have hk : Kept sk s s := Kept.refl s
  unfold execRegionQuery
  try dsimp only
  repeat' first
    | with_reducible assumption | with_reducible apply KeptO.next | with_reducible exact KeptO.fault _
    | with_reducible apply State.submit_kept | (intro _ _) | with_reducible refine Kept.ite (fun _ => ?_) (fun _ => ?_) | split
    | with_reducible refine Kept.mk_same ?_ rfl rfl rfl rfl rfl rfl rfl rfl rfl rfl rfl rfl

theorem execRegionFree_kept (s : State) (t : Ticket) : KeptO sk s (execRegionFree t s) := by
  have hk : Kept sk s s := Kept.refl s
  unfold execRegionFree
  try dsimp only
  repeat' first
    | with_reducible assumption | with_reducible apply KeptO.next | with_reducible exact KeptO.fault _
    | with_reducible apply State.submit_kept | (intro _ _) | with_reducible refine Kept.ite (fun _ => ?_) (fun _ => ?_) | split
    | with_reducible refine Kept.mk_same ?_ rfl rfl rfl rfl rfl rfl rfl rfl rfl rfl rfl rfl

theorem execRecipeLoad_kept (s : State) (t : Ticket) : KeptO sk s (execRecipeLoad t s) := by
  have hk : Kept sk s s := Kept.refl s
  unfold execRecipeLoad
  try dsimp only
  repeat' first
    | with_reducible assumption | with_reducible apply KeptO.next | with_reducible exact KeptO.fault _
    | with_reducible apply State.submit_kept | (intro _ _) | with_reducible refine Kept.ite (fun _ => ?_) (fun _ => ?_) | split
    | with_reducible refine Kept.mk_same ?_ rfl rfl rfl rfl rfl rfl rfl rfl rfl rfl rfl rfl

theorem execRecipeUnload_kept (s : State) (t : Ticket) : KeptO sk s (execRecipeUnload t s) := by
  have hk : Kept sk s s := Kept.refl s
  unfold execRecipeUnload
  try dsimp only
  repeat' first
    | with_reducible assumption | with_reducible apply KeptO.next | with_reducible exact KeptO.fault _
    | with_reducible apply State.submit_kept | (intro _ _) | with_reducible refine Kept.ite (fun _ => ?_) (fun _ => ?_) | split
    | with_reducible refine Kept.mk_same ?_ rfl rfl rfl rfl rfl rfl rfl rfl rfl rfl rfl rfl

theorem execRecipeStart_kept (s : State) (t : Ticket) : KeptO sk s (execRecipeStart t s) := by
  have hk : Kept sk s s := Kept.refl s
  unfold execRecipeStart
  try dsimp only
  repeat' first
    | with_reducible assumption | with_reducible apply KeptO.next | with_reducible exact KeptO.fault _
    | with_reducible apply State.submit_kept | (intro _ _) | with_reducible refine Kept.ite (fun _ => ?_) (fun _ => ?_) | split
    | with_reducible refine Kept.mk_same ?_ rfl rfl rfl rfl rfl rfl rfl rfl rfl rfl rfl rfl

theorem execRecipeStop_kept (s : State) (t : Ticket) : KeptO sk s (execRecipeStop t s) := by
  have hk : Kept sk s s := Kept.refl s
  unfold execRecipeStop
  try dsimp only
  repeat' first
    | with_reducible assumption | with_reducible apply KeptO.next | with_reducible exact KeptO.fault _
    | with_reducible apply State.submit_kept | (intro _ _) | with_reducible refine Kept.ite (fun _ => ?_) (fun _ => ?_) | split
    | with_reducible refine Kept.mk_same ?_ rfl rfl rfl rfl rfl rfl rfl rfl rfl rfl rfl rfl

theorem execStepRun_kept (s : State) (t : Ticket) : KeptO sk s (execStepRun t s) := by
  have hk : Kept sk s s := Kept.refl s
  unfold execStepRun
  try dsimp only
  repeat' first
    | with_reducible assumption | with_reducible apply KeptO.next | with_reducible exact KeptO.fault _
    | with_reducible apply State.submit_kept | (intro _ _) | with_reducible refine Kept.ite (fun _ => ?_) (fun _ => ?_) | split
    | with_reducible refine Kept.mk_same ?_ rfl rfl rfl rfl rfl rfl rfl rfl rfl rfl rfl rfl

theorem execInvoke_kept (s : State) (t : Ticket) : KeptO sk s (execInvoke t s) := by
  have hk : Kept sk s s := Kept.refl s
  unfold execInvoke
  try dsimp only
  repeat' first
    | with_reducible assumption | with_reducible apply KeptO.next | with_reducible exact KeptO.fault _
    | with_reducible apply State.submit_kept | (intro _ _) | with_reducible refine Kept.ite (fun _ => ?_) (fun _ => ?_) | split
    | with_reducible refine Kept.mk_same ?_ rfl rfl rfl rfl rfl rfl rfl rfl rfl rfl rfl rfl

theorem execCkptSave_kept (s : State) (t : Ticket) : KeptO sk s (execCkptSave t s) := by
  have hk : Kept sk s s := Kept.refl s
  unfold execCkptSave
  try dsimp only
  repeat' first
    | with_reducible assumption | with_reducible apply KeptO.next | with_reducible exact KeptO.fault _
    | with_reducible apply State.submit_kept | (intro _ _) | with_reducible refine Kept.ite (fun _ => ?_) (fun _ => ?_) | split
    | with_reducible refine Kept.mk_same ?_ rfl rfl rfl rfl rfl rfl rfl rfl rfl rfl rfl rfl

theorem execCkptRestore_kept (s : State) (t : Ticket) : KeptO sk s (execCkptRestore t s) := by
  have hk : Kept sk s s := Kept.refl s
  unfold execCkptRestore
  try dsimp only
  repeat' first
    | with_reducible assumption | with_reducible apply KeptO.next | with_reducible exact KeptO.fault _
    | with_reducible apply State.submit_kept | (intro _ _) | with_reducible refine Kept.ite (fun _ => ?_) (fun _ => ?_) | split
    | with_reducible refine Kept.mk_same ?_ rfl rfl rfl rfl rfl rfl rfl rfl rfl rfl rfl rfl

theorem execShadowCfg_kept (s : State) (t : Ticket) (accepted : Bool) : KeptO sk s (execShadowCfg t accepted s) := by
  have hk : Kept sk s s := Kept.refl s
  unfold execShadowCfg
  try dsimp only
  repeat' first
    | with_reducible assumption | with_reducible apply KeptO.next | with_reducible exact KeptO.fault _
    | with_reducible apply State.submit_kept | (intro _ _) | with_reducible refine Kept.ite (fun _ => ?_) (fun _ => ?_) | split
    | with_reducible refine Kept.mk_same ?_ rfl rfl rfl rfl rfl rfl rfl rfl rfl rfl rfl rfl

theorem execShadowRestore_kept (s : State) (t : Ticket) (img : Option ShadowImage) : KeptO sk s (execShadowRestore t img s) := by
  have hk : Kept sk s s := Kept.refl s
  unfold execShadowRestore
  try dsimp only
  repeat' first
    | with_reducible assumption | with_reducible apply KeptO.next | with_reducible exact KeptO.fault _
    | with_reducible apply State.submit_kept | (intro _ _) | with_reducible refine Kept.ite (fun _ => ?_) (fun _ => ?_) | split
    | with_reducible refine Kept.mk_same ?_ rfl rfl rfl rfl rfl rfl rfl rfl rfl rfl rfl rfl

theorem execCalRun_kept (s : State) (t : Ticket) : KeptO sk s (execCalRun t s) := by
  have hk : Kept sk s s := Kept.refl s
  unfold execCalRun
  try dsimp only
  repeat' first
    | with_reducible assumption | with_reducible apply KeptO.next | with_reducible exact KeptO.fault _
    | with_reducible apply State.submit_kept | (intro _ _) | with_reducible refine Kept.ite (fun _ => ?_) (fun _ => ?_) | split
    | with_reducible refine Kept.mk_same ?_ rfl rfl rfl rfl rfl rfl rfl rfl rfl rfl rfl rfl

theorem execSctRead_kept (s : State) (t : Ticket) : KeptO sk s (execSctRead t s) := by
  have hk : Kept sk s s := Kept.refl s
  unfold execSctRead
  try dsimp only
  repeat' first
    | with_reducible assumption | with_reducible apply KeptO.next | with_reducible exact KeptO.fault _
    | with_reducible apply State.submit_kept | (intro _ _) | with_reducible refine Kept.ite (fun _ => ?_) (fun _ => ?_) | split
    | with_reducible refine Kept.mk_same ?_ rfl rfl rfl rfl rfl rfl rfl rfl rfl rfl rfl rfl

theorem execTestEnter_kept (s : State) (t : Ticket) : KeptO sk s (execTestEnter t s) := by
  have hk : Kept sk s s := Kept.refl s
  unfold execTestEnter
  try dsimp only
  repeat' first
    | with_reducible assumption | with_reducible apply KeptO.next | with_reducible exact KeptO.fault _
    | with_reducible apply State.submit_kept | (intro _ _) | with_reducible refine Kept.ite (fun _ => ?_) (fun _ => ?_) | split
    | with_reducible refine Kept.mk_same ?_ rfl rfl rfl rfl rfl rfl rfl rfl rfl rfl rfl rfl

theorem execTestLeave_kept (s : State) (t : Ticket) (fails : List (Nat × Nat)) : KeptO sk s (execTestLeave t fails s) := by
  have hk : Kept sk s s := Kept.refl s
  unfold execTestLeave
  try dsimp only
  repeat' first
    | with_reducible assumption | with_reducible apply KeptO.next | with_reducible exact KeptO.fault _
    | with_reducible apply State.submit_kept | (intro _ _) | with_reducible refine Kept.ite (fun _ => ?_) (fun _ => ?_) | split
    | with_reducible refine Kept.mk_same ?_ rfl rfl rfl rfl rfl rfl rfl rfl rfl rfl rfl rfl

theorem execDirectedTest_kept (s : State) (t : Ticket) (fails : Bool) : KeptO sk s (execDirectedTest t fails s) := by
  have hk : Kept sk s s := Kept.refl s
  unfold execDirectedTest
  try dsimp only
  repeat' first
    | with_reducible assumption | with_reducible apply KeptO.next | with_reducible exact KeptO.fault _
    | with_reducible apply State.submit_kept | (intro _ _) | with_reducible refine Kept.ite (fun _ => ?_) (fun _ => ?_) | split
    | with_reducible refine Kept.mk_same ?_ rfl rfl rfl rfl rfl rfl rfl rfl rfl rfl rfl rfl

theorem execEventRead_kept (s : State) (t : Ticket) : KeptO sk s (execEventRead t s) := by
  have hk : Kept sk s s := Kept.refl s
  unfold execEventRead
  try dsimp only
  repeat' first
    | with_reducible assumption | with_reducible apply KeptO.next | with_reducible exact KeptO.fault _
    | with_reducible apply State.submit_kept | (intro _ _) | with_reducible refine Kept.ite (fun _ => ?_) (fun _ => ?_) | split
    | with_reducible refine Kept.mk_same ?_ rfl rfl rfl rfl rfl rfl rfl rfl rfl rfl rfl rfl

theorem execHistoryRead_kept (s : State) (t : Ticket) : KeptO sk s (execHistoryRead t s) := by
  have hk : Kept sk s s := Kept.refl s
  unfold execHistoryRead
  try dsimp only
  repeat' first
    | with_reducible assumption | with_reducible apply KeptO.next | with_reducible exact KeptO.fault _
    | with_reducible apply State.submit_kept | (intro _ _) | with_reducible refine Kept.ite (fun _ => ?_) (fun _ => ?_) | split
    | with_reducible refine Kept.mk_same ?_ rfl rfl rfl rfl rfl rfl rfl rfl rfl rfl rfl rfl

theorem execRatioRead_kept (s : State) (t : Ticket) : KeptO sk s (execRatioRead t s) := by
  have hk : Kept sk s s := Kept.refl s
  unfold execRatioRead
  try dsimp only
  repeat' first
    | with_reducible assumption | with_reducible apply KeptO.next | with_reducible exact KeptO.fault _
    | with_reducible apply State.submit_kept | (intro _ _) | with_reducible refine Kept.ite (fun _ => ?_) (fun _ => ?_) | split
    | with_reducible refine Kept.mk_same ?_ rfl rfl rfl rfl rfl rfl rfl rfl rfl rfl rfl rfl

theorem execTelemetryRead_kept (s : State) (t : Ticket) : KeptO sk s (execTelemetryRead t s) := by
  have hk : Kept sk s s := Kept.refl s
  unfold execTelemetryRead
  try dsimp only
  repeat' first
    | with_reducible assumption | with_reducible apply KeptO.next | with_reducible exact KeptO.fault _
    | with_reducible apply State.submit_kept | (intro _ _) | with_reducible refine Kept.ite (fun _ => ?_) (fun _ => ?_) | split
    | with_reducible refine Kept.mk_same ?_ rfl rfl rfl rfl rfl rfl rfl rfl rfl rfl rfl rfl

theorem execSetWakeTol_kept (s : State) (t : Ticket) : KeptO sk s (execSetWakeTol t s) := by
  have hk : Kept sk s s := Kept.refl s
  unfold execSetWakeTol
  try dsimp only
  repeat' first
    | with_reducible assumption | with_reducible apply KeptO.next | with_reducible exact KeptO.fault _
    | with_reducible apply State.submit_kept | (intro _ _) | with_reducible refine Kept.ite (fun _ => ?_) (fun _ => ?_) | split
    | with_reducible refine Kept.mk_same ?_ rfl rfl rfl rfl rfl rfl rfl rfl rfl rfl rfl rfl

theorem execIdleEnter_kept (s : State) (t : Ticket) : KeptO sk s (execIdleEnter t s) := by
  have hk : Kept sk s s := Kept.refl s
  unfold execIdleEnter
  try dsimp only
  repeat' first
    | with_reducible assumption | with_reducible apply KeptO.next | with_reducible exact KeptO.fault _
    | with_reducible apply State.submit_kept | (intro _ _) | with_reducible refine Kept.ite (fun _ => ?_) (fun _ => ?_) | split
    | with_reducible refine Kept.mk_same ?_ rfl rfl rfl rfl rfl rfl rfl rfl rfl rfl rfl rfl

theorem execIdleExit_kept (s : State) (t : Ticket) (nvm : NvmRead) : KeptO sk s (execIdleExit t nvm s) := by
  have hk : Kept sk s s := Kept.refl s
  unfold execIdleExit
  try dsimp only
  repeat' first
    | with_reducible assumption | with_reducible apply KeptO.next | with_reducible exact KeptO.fault _
    | with_reducible apply State.submit_kept | (intro _ _) | with_reducible refine Kept.ite (fun _ => ?_) (fun _ => ?_) | split
    | with_reducible refine Kept.mk_same ?_ rfl rfl rfl rfl rfl rfl rfl rfl rfl rfl rfl rfl

theorem execPowerLimit_kept (s : State) (t : Ticket) : KeptO sk s (execPowerLimit t s) := by
  have hk : Kept sk s s := Kept.refl s
  unfold execPowerLimit
  try dsimp only
  repeat' first
    | with_reducible assumption | with_reducible apply KeptO.next | with_reducible exact KeptO.fault _
    | with_reducible apply State.submit_kept | (intro _ _) | with_reducible refine Kept.ite (fun _ => ?_) (fun _ => ?_) | split
    | with_reducible refine Kept.mk_same ?_ rfl rfl rfl rfl rfl rfl rfl rfl rfl rfl rfl rfl

theorem execPowerQuery_kept (s : State) (t : Ticket) : KeptO sk s (execPowerQuery t s) := by
  have hk : Kept sk s s := Kept.refl s
  unfold execPowerQuery
  try dsimp only
  repeat' first
    | with_reducible assumption | with_reducible apply KeptO.next | with_reducible exact KeptO.fault _
    | with_reducible apply State.submit_kept | (intro _ _) | with_reducible refine Kept.ite (fun _ => ?_) (fun _ => ?_) | split
    | with_reducible refine Kept.mk_same ?_ rfl rfl rfl rfl rfl rfl rfl rfl rfl rfl rfl rfl

theorem execDomainSet_kept (s : State) (t : Ticket) : KeptO sk s (execDomainSet t s) := by
  have hk : Kept sk s s := Kept.refl s
  unfold execDomainSet
  try dsimp only
  repeat' first
    | with_reducible assumption | with_reducible apply KeptO.next | with_reducible exact KeptO.fault _
    | with_reducible apply State.submit_kept | (intro _ _) | with_reducible refine Kept.ite (fun _ => ?_) (fun _ => ?_) | split
    | with_reducible refine Kept.mk_same ?_ rfl rfl rfl rfl rfl rfl rfl rfl rfl rfl rfl rfl

theorem execGroupDefine_kept (s : State) (t : Ticket) : KeptO sk s (execGroupDefine t s) := by
  have hk : Kept sk s s := Kept.refl s
  unfold execGroupDefine
  try dsimp only
  repeat' first
    | with_reducible assumption | with_reducible apply KeptO.next | with_reducible exact KeptO.fault _
    | with_reducible apply State.submit_kept | (intro _ _) | with_reducible refine Kept.ite (fun _ => ?_) (fun _ => ?_) | split
    | with_reducible refine Kept.mk_same ?_ rfl rfl rfl rfl rfl rfl rfl rfl rfl rfl rfl rfl

theorem execGroupDelete_kept (s : State) (t : Ticket) : KeptO sk s (execGroupDelete t s) := by
  have hk : Kept sk s s := Kept.refl s
  unfold execGroupDelete
  try dsimp only
  repeat' first
    | with_reducible assumption | with_reducible apply KeptO.next | with_reducible exact KeptO.fault _
    | with_reducible apply State.submit_kept | (intro _ _) | with_reducible refine Kept.ite (fun _ => ?_) (fun _ => ?_) | split
    | with_reducible refine Kept.mk_same ?_ rfl rfl rfl rfl rfl rfl rfl rfl rfl rfl rfl rfl

theorem execBeatSet_kept (s : State) (t : Ticket) : KeptO sk s (execBeatSet t s) := by
  have hk : Kept sk s s := Kept.refl s
  unfold execBeatSet
  try dsimp only
  repeat' first
    | with_reducible assumption | with_reducible apply KeptO.next | with_reducible exact KeptO.fault _
    | with_reducible apply State.submit_kept | (intro _ _) | with_reducible refine Kept.ite (fun _ => ?_) (fun _ => ?_) | split
    | with_reducible refine Kept.mk_same ?_ rfl rfl rfl rfl rfl rfl rfl rfl rfl rfl rfl rfl

theorem execDomainJoin_kept (s : State) (t : Ticket) : KeptO sk s (execDomainJoin t s) := by
  have hk : Kept sk s s := Kept.refl s
  unfold execDomainJoin
  try dsimp only
  repeat' first
    | with_reducible assumption | with_reducible apply KeptO.next | with_reducible exact KeptO.fault _
    | with_reducible apply State.submit_kept | (intro _ _) | with_reducible refine Kept.ite (fun _ => ?_) (fun _ => ?_) | split
    | with_reducible refine Kept.mk_same ?_ rfl rfl rfl rfl rfl rfl rfl rfl rfl rfl rfl rfl

theorem execLinkQuery_kept (s : State) (t : Ticket) : KeptO sk s (execLinkQuery t s) := by
  have hk : Kept sk s s := Kept.refl s
  unfold execLinkQuery
  try dsimp only
  repeat' first
    | with_reducible assumption | with_reducible apply KeptO.next | with_reducible exact KeptO.fault _
    | with_reducible apply State.submit_kept | (intro _ _) | with_reducible refine Kept.ite (fun _ => ?_) (fun _ => ?_) | split
    | with_reducible refine Kept.mk_same ?_ rfl rfl rfl rfl rfl rfl rfl rfl rfl rfl rfl rfl

theorem execSecQuery_kept (s : State) (t : Ticket) : KeptO sk s (execSecQuery t s) := by
  have hk : Kept sk s s := Kept.refl s
  unfold execSecQuery
  try dsimp only
  repeat' first
    | with_reducible assumption | with_reducible apply KeptO.next | with_reducible exact KeptO.fault _
    | with_reducible apply State.submit_kept | (intro _ _) | with_reducible refine Kept.ite (fun _ => ?_) (fun _ => ?_) | split
    | with_reducible refine Kept.mk_same ?_ rfl rfl rfl rfl rfl rfl rfl rfl rfl rfl rfl rfl

theorem execCertRead_kept (s : State) (t : Ticket) : KeptO sk s (execCertRead t s) := by
  have hk : Kept sk s s := Kept.refl s
  unfold execCertRead
  try dsimp only
  repeat' first
    | with_reducible assumption | with_reducible apply KeptO.next | with_reducible exact KeptO.fault _
    | with_reducible apply State.submit_kept | (intro _ _) | with_reducible refine Kept.ite (fun _ => ?_) (fun _ => ?_) | split
    | with_reducible refine Kept.mk_same ?_ rfl rfl rfl rfl rfl rfl rfl rfl rfl rfl rfl rfl

theorem execMeasure_kept (s : State) (t : Ticket) : KeptO sk s (execMeasure t s) := by
  have hk : Kept sk s s := Kept.refl s
  unfold execMeasure
  try dsimp only
  repeat' first
    | with_reducible assumption | with_reducible apply KeptO.next | with_reducible exact KeptO.fault _
    | with_reducible apply State.submit_kept | (intro _ _) | with_reducible refine Kept.ite (fun _ => ?_) (fun _ => ?_) | split
    | with_reducible refine Kept.mk_same ?_ rfl rfl rfl rfl rfl rfl rfl rfl rfl rfl rfl rfl

theorem execTicketBadOpcode_kept (s : State) (op : Half) (t : Ticket) : KeptO sk s (execTicketBadOpcode op t s) := by
  have hk : Kept sk s s := Kept.refl s
  unfold execTicketBadOpcode
  try dsimp only
  repeat' first
    | with_reducible assumption | with_reducible apply KeptO.next | with_reducible exact KeptO.fault _
    | with_reducible apply State.submit_kept | (intro _ _) | with_reducible refine Kept.ite (fun _ => ?_) (fun _ => ?_) | split
    | with_reducible refine Kept.mk_same ?_ rfl rfl rfl rfl rfl rfl rfl rfl rfl rfl rfl rfl

end Sys2Proof.Machine
end

