-- ==== Sys2Proof/Laws/KeptOps4.lean ====
section
/-! SUPPORT. One lemma for each operation of the machine, saying that it keeps what Kept names: registers, calibration, recovery, the beat, power and management. -/

namespace Sys2Proof.Machine

-- Every lemma has the same proof, whose steps serve some operations and not others.
set_option linter.unusedTactic false
set_option linter.unreachableTactic false

variable {sk : Skip}

/-! ### Regs -/

theorem State.setLatches_kept {base s : State} (hk : Kept sk base s) (m : Master) (t : Tab Word) :
    Kept sk base (State.setLatches s m t) := by
  unfold State.setLatches
  try dsimp only
  repeat' first
    | with_reducible assumption | (intro _ _) | with_reducible refine Kept.ite (fun _ => ?_) (fun _ => ?_) | split
    | with_reducible refine Kept.mk_same ?_ rfl rfl rfl rfl rfl rfl rfl rfl rfl rfl rfl rfl

theorem State.readReg_kept {base s : State} (hk : Kept sk base s) (m : Master) (off : Nat) : Kept sk base (State.readReg s m off).2 := by
  unfold State.readReg
  try dsimp only
  repeat' first
    | with_reducible assumption | with_reducible apply State.setLatches_kept | (intro _ _)
    | with_reducible refine Kept.ite (fun _ => ?_) (fun _ => ?_) | split
    | with_reducible refine Kept.mk_same ?_ rfl rfl rfl rfl rfl rfl rfl rfl rfl rfl rfl rfl

theorem State.hostData_kept {base s : State} (hk : Kept sk base s) (l : List Word) : Kept sk base (State.hostData s l) := by
  unfold State.hostData
  try dsimp only
  repeat' first
    | with_reducible assumption | (intro _ _) | with_reducible refine Kept.ite (fun _ => ?_) (fun _ => ?_) | split
    | with_reducible refine Kept.mk_same ?_ rfl rfl rfl rfl rfl rfl rfl rfl rfl rfl rfl rfl

theorem State.hostRead_kept {base s : State} (hk : Kept sk base s) (off hwAdd : Nat) : Kept sk base (State.hostRead s off hwAdd) := by
  unfold State.hostRead
  try dsimp only
  repeat' first
    | with_reducible assumption | with_reducible apply State.readReg_kept | with_reducible apply State.hostData_kept | (intro _ _)
    | with_reducible refine Kept.ite (fun _ => ?_) (fun _ => ?_) | split
    | with_reducible refine Kept.mk_same ?_ rfl rfl rfl rfl rfl rfl rfl rfl rfl rfl rfl rfl

theorem State.hostReadAt_kept {base s : State} (hk : Kept sk base s) (off hwAdd : Nat) : Kept sk base (State.hostReadAt s off hwAdd) := by
  unfold State.hostReadAt
  try dsimp only
  repeat' first
    | with_reducible assumption | with_reducible apply State.count_kept | with_reducible apply State.hostData_kept
    | with_reducible apply State.hostRead_kept | (intro _ _) | with_reducible refine Kept.ite (fun _ => ?_) (fun _ => ?_) | split
    | with_reducible refine Kept.mk_same ?_ rfl rfl rfl rfl rfl rfl rfl rfl rfl rfl rfl rfl

theorem execRcCounterRead_kept (s : State) (off hwAdd : Nat) : KeptO sk s (execRcCounterRead off hwAdd s) := by
  have hk : Kept sk s s := Kept.refl s
  unfold execRcCounterRead
  try dsimp only
  repeat' first
    | with_reducible assumption | with_reducible apply KeptO.next | with_reducible exact KeptO.fault _
    | with_reducible apply State.hostReadAt_kept | (intro _ _) | with_reducible refine Kept.ite (fun _ => ?_) (fun _ => ?_) | split
    | with_reducible refine Kept.mk_same ?_ rfl rfl rfl rfl rfl rfl rfl rfl rfl rfl rfl rfl

theorem State.rsp_kept {base s : State} (hk : Kept sk base s) (status : Nat) (l : List Word) : Kept sk base (State.rsp s status l) := by
  unfold State.rsp
  try dsimp only
  repeat' first
    | with_reducible assumption | (intro _ _) | with_reducible refine Kept.ite (fun _ => ?_) (fun _ => ?_) | split
    | with_reducible refine Kept.mk_same ?_ rfl rfl rfl rfl rfl rfl rfl rfl rfl rfl rfl rfl

theorem State.mgmtBad_kept {base s : State} (hk : Kept sk base s) : Kept sk base (State.mgmtBad s) := by
  unfold State.mgmtBad
  try dsimp only
  repeat' first
    | with_reducible assumption | with_reducible apply State.count_kept | (intro _ _)
    | with_reducible refine Kept.ite (fun _ => ?_) (fun _ => ?_) | split
    | with_reducible refine Kept.mk_same ?_ rfl rfl rfl rfl rfl rfl rfl rfl rfl rfl rfl rfl

theorem State.mgmtRead_kept {base s : State} (hk : Kept sk base s) (off : Nat) : Kept sk base (State.mgmtRead s off) := by
  unfold State.mgmtRead
  try dsimp only
  repeat' first
    | with_reducible assumption | with_reducible apply State.readReg_kept | with_reducible apply State.rsp_kept
    | with_reducible apply State.mgmtBad_kept | (intro _ _) | with_reducible refine Kept.ite (fun _ => ?_) (fun _ => ?_) | split
    | with_reducible refine Kept.mk_same ?_ rfl rfl rfl rfl rfl rfl rfl rfl rfl rfl rfl rfl

theorem execRegRead_kept (s : State) (off : Nat) : KeptO sk s (execRegRead off s) := by
  have hk : Kept sk s s := Kept.refl s
  unfold execRegRead
  try dsimp only
  repeat' first
    | with_reducible assumption | with_reducible apply KeptO.next | with_reducible exact KeptO.fault _
    | with_reducible apply State.mgmtRead_kept | (intro _ _) | with_reducible refine Kept.ite (fun _ => ?_) (fun _ => ?_) | split
    | with_reducible refine Kept.mk_same ?_ rfl rfl rfl rfl rfl rfl rfl rfl rfl rfl rfl rfl

theorem State.readBy_kept {base s : State} (hk : Kept sk base s) (m : Master) (off : Nat) : Kept sk base (State.readBy s m off) := by
  unfold State.readBy
  try dsimp only
  repeat' first
    | with_reducible assumption | with_reducible apply State.hostReadAt_kept | with_reducible apply State.mgmtRead_kept | (intro _ _)
    | with_reducible refine Kept.ite (fun _ => ?_) (fun _ => ?_) | split
    | with_reducible refine Kept.mk_same ?_ rfl rfl rfl rfl rfl rfl rfl rfl rfl rfl rfl rfl

theorem execLowWordRead_kept (s : State) (m : Master) (off : Nat) : KeptO sk s (execLowWordRead m off s) := by
  have hk : Kept sk s s := Kept.refl s
  unfold execLowWordRead
  try dsimp only
  repeat' first
    | with_reducible assumption | with_reducible apply KeptO.next | with_reducible exact KeptO.fault _
    | with_reducible apply State.readBy_kept | (intro _ _) | with_reducible refine Kept.ite (fun _ => ?_) (fun _ => ?_) | split
    | with_reducible refine Kept.mk_same ?_ rfl rfl rfl rfl rfl rfl rfl rfl rfl rfl rfl rfl

theorem execHighWordRead_kept (s : State) (m : Master) (off : Nat) : KeptO sk s (execHighWordRead m off s) := by
  have hk : Kept sk s s := Kept.refl s
  unfold execHighWordRead
  try dsimp only
  repeat' first
    | with_reducible assumption | with_reducible apply KeptO.next | with_reducible exact KeptO.fault _
    | with_reducible apply State.readBy_kept | (intro _ _) | with_reducible refine Kept.ite (fun _ => ?_) (fun _ => ?_) | split
    | with_reducible refine Kept.mk_same ?_ rfl rfl rfl rfl rfl rfl rfl rfl rfl rfl rfl rfl

theorem State.writeHifCtl_kept {base s : State} (hk : Kept sk base s) (v : Word) : Kept sk base (State.writeHifCtl s v) := by
  unfold State.writeHifCtl
  try dsimp only
  repeat' first
    | with_reducible assumption | with_reducible apply State.resetMailbox_kept | (intro _ _)
    | with_reducible refine Kept.ite (fun _ => ?_) (fun _ => ?_) | split
    | with_reducible refine Kept.mk_same ?_ rfl rfl rfl rfl rfl rfl rfl rfl rfl rfl rfl rfl

theorem State.writeWin_kept {base s : State} (hk : Kept sk base s) (n i : Nat) (v : Word) : Kept sk base (State.writeWin s n i v) := by
  unfold State.writeWin
  try dsimp only
  repeat' first
    | with_reducible assumption | (intro _ _) | with_reducible refine Kept.ite (fun _ => ?_) (fun _ => ?_) | split
    | with_reducible refine Kept.mk_same ?_ rfl rfl rfl rfl rfl rfl rfl rfl rfl rfl rfl rfl

theorem State.hifWrite_kept {base s : State} (hk : Kept sk base s) (off : Nat) (v : Word) : Kept sk base (State.hifWrite s off v) := by
  unfold State.hifWrite
  try dsimp only
  repeat' first
    | with_reducible assumption | with_reducible apply State.writeHifCtl_kept | with_reducible apply State.writeWin_kept | (intro _ _)
    | with_reducible refine Kept.ite (fun _ => ?_) (fun _ => ?_) | split
    | with_reducible refine Kept.mk_same ?_ rfl rfl rfl rfl rfl rfl rfl rfl rfl rfl rfl rfl

theorem State.writeRowlim_kept {base s : State} (hk : Kept sk base s) (v : Word) : Kept sk base (State.writeRowlim s v) := by
  unfold State.writeRowlim
  try dsimp only
  repeat' first
    | with_reducible assumption | (intro _ _) | with_reducible refine Kept.ite (fun _ => ?_) (fun _ => ?_) | split
    | with_reducible refine Kept.mk_same ?_ rfl rfl rfl rfl rfl rfl rfl rfl rfl rfl rfl rfl

theorem State.writeAnaCtl_kept {base s : State} (hk : Kept sk base s) (v : Word) : Kept sk base (State.writeAnaCtl s v) := by
  unfold State.writeAnaCtl
  try dsimp only
  repeat' first
    | with_reducible assumption | (intro _ _) | with_reducible refine Kept.ite (fun _ => ?_) (fun _ => ?_) | split
    | with_reducible refine Kept.mk_same ?_ rfl rfl rfl rfl rfl rfl rfl rfl rfl rfl rfl rfl

theorem State.writeCalCtl_kept {base s : State} (hk : Kept sk base s) (v : Word) : Kept sk base (State.writeCalCtl s v) := by
  unfold State.writeCalCtl
  try dsimp only
  repeat' first
    | with_reducible assumption | (intro _ _) | with_reducible refine Kept.ite (fun _ => ?_) (fun _ => ?_) | split
    | with_reducible refine Kept.mk_same ?_ rfl rfl rfl rfl rfl rfl rfl rfl rfl rfl rfl rfl

theorem State.writeCalCmd_kept {base s : State} (hk : Kept sk base s) (v : Word) : Kept sk base (State.writeCalCmd s v) := by
  unfold State.writeCalCmd
  try dsimp only
  repeat' first
    | with_reducible assumption | with_reducible apply State.calCommand_kept | (intro _ _)
    | with_reducible refine Kept.ite (fun _ => ?_) (fun _ => ?_) | split
    | with_reducible refine Kept.mk_same ?_ rfl rfl rfl rfl rfl rfl rfl rfl rfl rfl rfl rfl

theorem bits_cleared {n : Nat} (a b : BitVec n) : (b &&& ~~~a) &&& ~~~b = 0 := by
  ext i hi
  simp only [← BitVec.getLsbD_eq_getElem, BitVec.getLsbD_and, BitVec.getLsbD_not, hi, decide_true, Bool.true_and]
  cases a.getLsbD i <;> cases b.getLsbD i <;> simp

theorem State.sharedWrite_kept {base s : State} (hk : Kept sk base s) (off : Nat) (v : Word) (hb : sk.bits = true) :
    Kept sk base (State.sharedWrite s off v) := by
  have nb : ∀ P : Prop, sk.bits = false → P := fun P h => by rw [hb] at h; cases h
  unfold State.sharedWrite
  repeat' first
    | exact hk
    | with_reducible refine Kept.ite (fun _ => ?_) (fun _ => ?_)
    | with_reducible apply State.writeRowlim_kept
    | with_reducible apply State.writeAnaCtl_kept
    | with_reducible apply State.writeCalCtl_kept
    | with_reducible apply State.writeCalCmd_kept
    | with_reducible apply State.tgWrite_kept
    | with_reducible apply State.setTgen_kept
    | with_reducible refine Kept.mk_same hk rfl rfl rfl rfl rfl rfl rfl rfl rfl rfl rfl rfl
    | exact ⟨⟨hk.queue, hk.mem, hk.isSealed, hk.rollback, hk.hours⟩, hk.alarm, fun h => nb _ h, hk.lockP, hk.lockS, hk.keys, hk.owner,
        hk.first⟩
    | exact ⟨⟨hk.queue, hk.mem, hk.isSealed, hk.rollback, hk.hours⟩, fun h => nb _ h, hk.sticky, hk.lockP, hk.lockS, hk.keys, hk.owner,
        hk.first⟩

theorem State.hwSets_kept {base s : State} (hk : Kept sk base s) (off : Nat) (v : Word) (l : List Nat) :
    Kept sk base (State.hwSets s off v l) := by
  induction l generalizing s off v with
  | nil =>
    unfold State.hwSets
    try dsimp only
    repeat' first
      | with_reducible assumption | with_reducible apply State.setIrq_kept | with_reducible apply State.setSticky_kept
      | with_reducible apply State.setAlarm_kept | (intro _ _) | with_reducible refine Kept.ite (fun _ => ?_) (fun _ => ?_) | split
      | with_reducible refine Kept.mk_same ?_ rfl rfl rfl rfl rfl rfl rfl rfl rfl rfl rfl rfl
  | cons x r ih =>
    unfold State.hwSets
    try dsimp only
    repeat' first
      | with_reducible assumption | with_reducible apply ih | with_reducible apply State.setIrq_kept
      | with_reducible apply State.setSticky_kept | with_reducible apply State.setAlarm_kept | (intro _ _)
      | with_reducible refine Kept.ite (fun _ => ?_) (fun _ => ?_) | split
      | with_reducible refine Kept.mk_same ?_ rfl rfl rfl rfl rfl rfl rfl rfl rfl rfl rfl rfl

theorem State.hostWrite_kept {base s : State} (hk : Kept sk base s) (off : Nat) (v : Word) (hbits : sk.bits = true) :
    Kept sk base (State.hostWrite s off v) := by
  unfold State.hostWrite
  try dsimp only
  repeat' first
    | with_reducible assumption | with_reducible apply State.count_kept | with_reducible apply State.hifWrite_kept
    | with_reducible apply State.sharedWrite_kept | (intro _ _) | with_reducible refine Kept.ite (fun _ => ?_) (fun _ => ?_) | split
    | with_reducible refine Kept.mk_same ?_ rfl rfl rfl rfl rfl rfl rfl rfl rfl rfl rfl rfl

theorem execRegisterWrite_kept (s : State) (off : Nat) (v hwSet : Word) (hbits : sk.bits = true) :
    KeptO sk s (execRegisterWrite off v hwSet s) := by
  have hk : Kept sk s s := Kept.refl s
  unfold execRegisterWrite
  try dsimp only
  repeat' first
    | with_reducible assumption | with_reducible apply KeptO.next | with_reducible exact KeptO.fault _
    | with_reducible apply State.hwSets_kept | with_reducible apply State.hostWrite_kept | (intro _ _)
    | with_reducible refine Kept.ite (fun _ => ?_) (fun _ => ?_) | split
    | with_reducible refine Kept.mk_same ?_ rfl rfl rfl rfl rfl rfl rfl rfl rfl rfl rfl rfl

theorem execAnaRowlimWrite_kept (s : State) (v : Word) : KeptO sk s (execAnaRowlimWrite v s) := by
  have hk : Kept sk s s := Kept.refl s
  unfold execAnaRowlimWrite
  try dsimp only
  repeat' first
    | with_reducible assumption | with_reducible apply KeptO.next | with_reducible exact KeptO.fault _
    | with_reducible apply State.writeRowlim_kept | (intro _ _) | with_reducible refine Kept.ite (fun _ => ?_) (fun _ => ?_) | split
    | with_reducible refine Kept.mk_same ?_ rfl rfl rfl rfl rfl rfl rfl rfl rfl rfl rfl rfl

theorem execAnaCtlWrite_kept (s : State) (v : Word) : KeptO sk s (execAnaCtlWrite v s) := by
  have hk : Kept sk s s := Kept.refl s
  unfold execAnaCtlWrite
  try dsimp only
  repeat' first
    | with_reducible assumption | with_reducible apply KeptO.next | with_reducible exact KeptO.fault _
    | with_reducible apply State.writeAnaCtl_kept | (intro _ _) | with_reducible refine Kept.ite (fun _ => ?_) (fun _ => ?_) | split
    | with_reducible refine Kept.mk_same ?_ rfl rfl rfl rfl rfl rfl rfl rfl rfl rfl rfl rfl

theorem execCalCtlWrite_kept (s : State) (v : Word) : KeptO sk s (execCalCtlWrite v s) := by
  have hk : Kept sk s s := Kept.refl s
  unfold execCalCtlWrite
  try dsimp only
  repeat' first
    | with_reducible assumption | with_reducible apply KeptO.next | with_reducible exact KeptO.fault _
    | with_reducible apply State.writeCalCtl_kept | (intro _ _) | with_reducible refine Kept.ite (fun _ => ?_) (fun _ => ?_) | split
    | with_reducible refine Kept.mk_same ?_ rfl rfl rfl rfl rfl rfl rfl rfl rfl rfl rfl rfl

theorem execCalCmdGo_kept (s : State) (v : Word) : KeptO sk s (execCalCmdGo v s) := by
  have hk : Kept sk s s := Kept.refl s
  unfold execCalCmdGo
  try dsimp only
  repeat' first
    | with_reducible assumption | with_reducible apply KeptO.next | with_reducible exact KeptO.fault _
    | with_reducible apply State.writeCalCmd_kept | (intro _ _) | with_reducible refine Kept.ite (fun _ => ?_) (fun _ => ?_) | split
    | with_reducible refine Kept.mk_same ?_ rfl rfl rfl rfl rfl rfl rfl rfl rfl rfl rfl rfl

theorem State.badAccess_kept {base s : State} (hk : Kept sk base s) (m : Master) (write : Bool) (off size : Nat) :
    Kept sk base (State.badAccess s m write off size) := by
  unfold State.badAccess
  try dsimp only
  repeat' first
    | with_reducible assumption | with_reducible apply State.count_kept | with_reducible apply State.hostData_kept
    | with_reducible apply State.rsp_kept | with_reducible apply State.mgmtBad_kept | (intro _ _)
    | with_reducible refine Kept.ite (fun _ => ?_) (fun _ => ?_) | split
    | with_reducible refine Kept.mk_same ?_ rfl rfl rfl rfl rfl rfl rfl rfl rfl rfl rfl rfl

theorem execBadAccess_kept (s : State) (m : Master) (write : Bool) (off size : Nat) : KeptO sk s (execBadAccess m write off size s) := by
  have hk : Kept sk s s := Kept.refl s
  unfold execBadAccess
  try dsimp only
  repeat' first
    | with_reducible assumption | with_reducible apply KeptO.next | with_reducible exact KeptO.fault _
    | with_reducible apply State.badAccess_kept | (intro _ _) | with_reducible refine Kept.ite (fun _ => ?_) (fun _ => ?_) | split
    | with_reducible refine Kept.mk_same ?_ rfl rfl rfl rfl rfl rfl rfl rfl rfl rfl rfl rfl

theorem State.setLocks_kept {base s : State} (hk : Kept sk base s) (power security : Bool) (hb : sk.locks = true) :
    Kept sk base (State.setLocks s power security) := by
  have nb : ∀ P : Prop, sk.locks = false → P := fun P h => by rw [hb] at h; cases h
  unfold State.setLocks
  refine Kept.ite (fun _ => hk) (fun _ => State.setIrq_kept ?_ _)
  exact ⟨⟨hk.queue, hk.mem, hk.isSealed, hk.rollback, hk.hours⟩, hk.alarm, hk.sticky, fun h => nb _ h, fun h => nb _ h, hk.keys, hk.owner,
        hk.first⟩

theorem State.mgmtWrite_kept {base s : State} (hk : Kept sk base s) (off : Nat) (v : Word) (hbits : sk.bits = true) (hlocks : sk.locks = true) :
    Kept sk base (State.mgmtWrite s off v) := by
  unfold State.mgmtWrite
  try dsimp only
  repeat' first
    | with_reducible assumption | with_reducible apply State.rsp_kept | with_reducible apply State.mgmtBad_kept
    | with_reducible apply State.sharedWrite_kept | with_reducible apply State.setLocks_kept | (intro _ _)
    | with_reducible refine Kept.ite (fun _ => ?_) (fun _ => ?_) | split
    | with_reducible refine Kept.mk_same ?_ rfl rfl rfl rfl rfl rfl rfl rfl rfl rfl rfl rfl

theorem execRegWrite_kept (s : State) (off : Nat) (v : Word) (hbits : sk.bits = true) (hlocks : sk.locks = true) :
    KeptO sk s (execRegWrite off v s) := by
  have hk : Kept sk s s := Kept.refl s
  unfold execRegWrite
  try dsimp only
  repeat' first
    | with_reducible assumption | with_reducible apply KeptO.next | with_reducible exact KeptO.fault _
    | with_reducible apply State.mgmtWrite_kept | (intro _ _) | with_reducible refine Kept.ite (fun _ => ?_) (fun _ => ?_) | split
    | with_reducible refine Kept.mk_same ?_ rfl rfl rfl rfl rfl rfl rfl rfl rfl rfl rfl rfl

theorem bar2Write_kept (s : State) (off : Nat) (v : Word) : KeptO sk s (bar2Write off v s) := by
  unfold bar2Write
  split
  · exact Kept.refl s
  · exact execRailTail_kept s _ _
  · exact execPassHead_kept s _ _

theorem State.winRead_kept {base s : State} (hk : Kept sk base s) (off len : Nat) (g : MemObs) :
    Kept sk base (State.winRead s off len g) := by
  unfold State.winRead
  try dsimp only
  repeat' first
    | with_reducible assumption | with_reducible apply State.count_kept | with_reducible apply State.account_kept
    | with_reducible apply State.viewErrors_kept | with_reducible apply State.hostData_kept | (intro _ _)
    | with_reducible refine Kept.ite (fun _ => ?_) (fun _ => ?_) | split
    | with_reducible refine Kept.mk_same ?_ rfl rfl rfl rfl rfl rfl rfl rfl rfl rfl rfl rfl

theorem State.winWrite_kept {base s : State} (hk : Kept sk base s) (off : Nat) (bs : List Byte) :
    Kept sk base (State.winWrite s off bs) := by
  unfold State.winWrite
  try dsimp only
  repeat' first
    | with_reducible assumption | with_reducible apply State.count_kept | with_reducible apply State.regWriteCommitted_kept
    | with_reducible apply State.account_kept | (intro _ _) | with_reducible refine Kept.ite (fun _ => ?_) (fun _ => ?_) | split
    | with_reducible refine Kept.mk_same ?_ rfl rfl rfl rfl rfl rfl rfl rfl rfl rfl rfl rfl

theorem execBar4Access_kept (s : State) (write : Option (List Byte)) (off len : Nat) (g : MemObs) :
    KeptO sk s (execBar4Access write off len g s) := by
  have hk : Kept sk s s := Kept.refl s
  unfold execBar4Access
  try dsimp only
  repeat' first
    | with_reducible assumption | with_reducible apply KeptO.next | with_reducible exact KeptO.fault _
    | with_reducible apply State.winRead_kept | with_reducible apply State.winWrite_kept | (intro _ _)
    | with_reducible refine Kept.ite (fun _ => ?_) (fun _ => ?_) | split
    | with_reducible refine Kept.mk_same ?_ rfl rfl rfl rfl rfl rfl rfl rfl rfl rfl rfl rfl

/-! ### Calibration -/

theorem State.convFail_kept {base s : State} (hk : Kept sk base s) (core : Nat) (x : ConvTest × Nat) :
    Kept sk base (State.convFail s core x) := by
  unfold State.convFail
  try dsimp only
  repeat' first
    | with_reducible assumption | with_reducible apply State.setCore_kept | with_reducible apply State.chargeErr_kept
    | with_reducible apply State.calFail_kept | (intro _ _) | with_reducible refine Kept.ite (fun _ => ?_) (fun _ => ?_) | split
    | with_reducible refine Kept.mk_same ?_ rfl rfl rfl rfl rfl rfl rfl rfl rfl rfl rfl rfl

theorem State.convFails_kept {base s : State} (hk : Kept sk base s) (core : Nat) (l : List (ConvTest × Nat)) :
    Kept sk base (State.convFails s core l) := by
  induction l generalizing s core with
  | nil =>
    unfold State.convFails
    try dsimp only
    repeat' first
      | with_reducible assumption | with_reducible apply State.convFail_kept | (intro _ _)
      | with_reducible refine Kept.ite (fun _ => ?_) (fun _ => ?_) | split
      | with_reducible refine Kept.mk_same ?_ rfl rfl rfl rfl rfl rfl rfl rfl rfl rfl rfl rfl
  | cons x r ih =>
    unfold State.convFails
    try dsimp only
    repeat' first
      | with_reducible assumption | with_reducible apply ih | with_reducible apply State.convFail_kept | (intro _ _)
      | with_reducible refine Kept.ite (fun _ => ?_) (fun _ => ?_) | split
      | with_reducible refine Kept.mk_same ?_ rfl rfl rfl rfl rfl rfl rfl rfl rfl rfl rfl rfl

theorem State.calStays_kept {base s : State} (hk : Kept sk base s) (core : Nat) : Kept sk base (State.calStays s core) := by
  unfold State.calStays
  try dsimp only
  repeat' first
    | with_reducible assumption | with_reducible apply State.makeDue_kept | with_reducible apply State.busy_kept | (intro _ _)
    | with_reducible refine Kept.ite (fun _ => ?_) (fun _ => ?_) | split
    | with_reducible refine Kept.mk_same ?_ rfl rfl rfl rfl rfl rfl rfl rfl rfl rfl rfl rfl

theorem State.rextFails_kept {base s : State} (hk : Kept sk base s) (core die : Nat) (o : CalObs) :
    Kept sk base (State.rextFails s core die o) := by
  unfold State.rextFails
  try dsimp only
  repeat' first
    | with_reducible assumption | with_reducible apply State.calFail_kept | with_reducible apply State.calStays_kept | (intro _ _)
    | with_reducible refine Kept.ite (fun _ => ?_) (fun _ => ?_) | split
    | with_reducible refine Kept.mk_same ?_ rfl rfl rfl rfl rfl rfl rfl rfl rfl rfl rfl rfl

theorem State.arrayCalibrated_kept {base s : State} (hk : Kept sk base s) (epoch : Word) (temp : Int) (a : Nat) (fig : ArrFig) :
    Kept sk base (State.arrayCalibrated s epoch temp a fig) := by
  unfold State.arrayCalibrated
  try dsimp only
  repeat' first
    | with_reducible assumption | with_reducible apply State.setArray_kept | with_reducible apply State.quarantine_kept
    | with_reducible apply State.judgeWindows_kept | (intro _ _) | with_reducible refine Kept.ite (fun _ => ?_) (fun _ => ?_) | split
    | with_reducible refine Kept.mk_same ?_ rfl rfl rfl rfl rfl rfl rfl rfl rfl rfl rfl rfl

theorem State.bankCalibrated_kept {base s : State} (hk : Kept sk base s) (epoch : Word) (temp : Int) (l : List (Nat × ArrFig)) :
    Kept sk base (State.bankCalibrated s epoch temp l) := by
  induction l generalizing s epoch temp with
  | nil =>
    unfold State.bankCalibrated
    try dsimp only
    repeat' first
      | with_reducible assumption | with_reducible apply State.arrayCalibrated_kept | (intro _ _)
      | with_reducible refine Kept.ite (fun _ => ?_) (fun _ => ?_) | split
      | with_reducible refine Kept.mk_same ?_ rfl rfl rfl rfl rfl rfl rfl rfl rfl rfl rfl rfl
  | cons x r ih =>
    unfold State.bankCalibrated
    try dsimp only
    repeat' first
      | with_reducible assumption | with_reducible apply ih | with_reducible apply State.arrayCalibrated_kept | (intro _ _)
      | with_reducible refine Kept.ite (fun _ => ?_) (fun _ => ?_) | split
      | with_reducible refine Kept.mk_same ?_ rfl rfl rfl rfl rfl rfl rfl rfl rfl rfl rfl rfl

theorem State.calEnd_kept {base s : State} (hk : Kept sk base s) (core : Nat) (temp : Int) : Kept sk base (State.calEnd s core temp) := by
  unfold State.calEnd
  try dsimp only
  repeat' first
    | with_reducible assumption | with_reducible apply State.count_kept | with_reducible apply State.raiseU_kept
    | with_reducible apply State.setCore_kept | with_reducible apply State.writeBlock_kept | with_reducible apply State.busy_kept
    | (intro _ _) | with_reducible refine Kept.ite (fun _ => ?_) (fun _ => ?_) | split
    | with_reducible refine Kept.mk_same ?_ rfl rfl rfl rfl rfl rfl rfl rfl rfl rfl rfl rfl

theorem State.calDone_kept {base s : State} (hk : Kept sk base s) (core : Nat) (temp : Int) : Kept sk base (State.calDone s core temp) := by
  unfold State.calDone
  try dsimp only
  repeat' first
    | with_reducible assumption | with_reducible apply State.publishCore_kept | with_reducible apply State.drain_kept
    | with_reducible apply State.calEnd_kept | (intro _ _) | with_reducible refine Kept.ite (fun _ => ?_) (fun _ => ?_) | split
    | with_reducible refine Kept.mk_same ?_ rfl rfl rfl rfl rfl rfl rfl rfl rfl rfl rfl rfl

theorem State.bankPasses_kept {base s : State} (hk : Kept sk base s) (core bank : Nat) (o : CalObs) :
    Kept sk base (State.bankPasses s core bank o) := by
  unfold State.bankPasses
  try dsimp only
  repeat' first
    | with_reducible assumption | with_reducible apply State.setCore_kept | with_reducible apply State.bankCalibrated_kept | (intro _ _)
    | with_reducible refine Kept.ite (fun _ => ?_) (fun _ => ?_) | split
    | with_reducible refine Kept.mk_same ?_ rfl rfl rfl rfl rfl rfl rfl rfl rfl rfl rfl rfl

theorem State.measureRext_kept {base s : State} (hk : Kept sk base s) (o : CalObs) : Kept sk base (State.measureRext s o) := by
  unfold State.measureRext
  try dsimp only
  repeat' first
    | with_reducible assumption | (intro _ _) | with_reducible refine Kept.ite (fun _ => ?_) (fun _ => ?_) | split
    | with_reducible refine Kept.mk_same ?_ rfl rfl rfl rfl rfl rfl rfl rfl rfl rfl rfl rfl

theorem State.calConv_kept {base s : State} (hk : Kept sk base s) (core bank : Nat) (o : CalObs) :
    Kept sk base (State.calConv s core bank o) := by
  unfold State.calConv
  try dsimp only
  repeat' first
    | with_reducible assumption | with_reducible apply State.convFails_kept | with_reducible apply State.calStays_kept
    | with_reducible apply State.bankPasses_kept | (intro _ _) | with_reducible refine Kept.ite (fun _ => ?_) (fun _ => ?_) | split
    | with_reducible refine Kept.mk_same ?_ rfl rfl rfl rfl rfl rfl rfl rfl rfl rfl rfl rfl

theorem State.calBank_kept {base s : State} (hk : Kept sk base s) (core bank : Nat) (o : CalObs) :
    Kept sk base (State.calBank s core bank o) := by
  unfold State.calBank
  try dsimp only
  repeat' first
    | with_reducible assumption | with_reducible apply State.busy_kept | with_reducible apply State.rextFails_kept
    | with_reducible apply State.measureRext_kept | with_reducible apply State.calConv_kept | (intro _ _)
    | with_reducible refine Kept.ite (fun _ => ?_) (fun _ => ?_) | split
    | with_reducible refine Kept.mk_same ?_ rfl rfl rfl rfl rfl rfl rfl rfl rfl rfl rfl rfl

theorem State.calFinish_kept {base s : State} (hk : Kept sk base s) (core : Nat) (o : CalObs) :
    Kept sk base (State.calFinish s core o) := by
  unfold State.calFinish
  try dsimp only
  repeat' first
    | with_reducible assumption | with_reducible apply State.calDone_kept | (intro _ _)
    | with_reducible refine Kept.ite (fun _ => ?_) (fun _ => ?_) | split
    | with_reducible refine Kept.mk_same ?_ rfl rfl rfl rfl rfl rfl rfl rfl rfl rfl rfl rfl

theorem execCalBankRun_kept (s : State) (core bank : Nat) (o : CalObs) : KeptO sk s (execCalBankRun core bank o s) := by
  have hk : Kept sk s s := Kept.refl s
  unfold execCalBankRun
  try dsimp only
  repeat' first
    | with_reducible assumption | with_reducible apply KeptO.next | with_reducible exact KeptO.fault _
    | with_reducible apply State.calBank_kept | with_reducible apply State.calFinish_kept | (intro _ _)
    | with_reducible refine Kept.ite (fun _ => ?_) (fun _ => ?_) | split
    | with_reducible refine Kept.mk_same ?_ rfl rfl rfl rfl rfl rfl rfl rfl rfl rfl rfl rfl

theorem State.calRunBanks_kept {base s : State} (hk : Kept sk base s) (core : Nat) (temp : Int) (obs : Tab CalObs) (banks : List Nat) :
    Kept sk base (State.calRunBanks s core temp obs banks) := by
  induction banks generalizing s core temp obs with
  | nil =>
    unfold State.calRunBanks
    try dsimp only
    repeat' first
      | with_reducible assumption | with_reducible apply State.draw_kept | with_reducible apply State.calBank_kept | (intro _ _)
      | with_reducible refine Kept.ite (fun _ => ?_) (fun _ => ?_) | split
      | with_reducible refine Kept.mk_same ?_ rfl rfl rfl rfl rfl rfl rfl rfl rfl rfl rfl rfl
  | cons x r ih =>
    unfold State.calRunBanks
    try dsimp only
    repeat' first
      | with_reducible assumption | with_reducible apply ih | with_reducible apply State.draw_kept
      | with_reducible apply State.calBank_kept | (intro _ _) | with_reducible refine Kept.ite (fun _ => ?_) (fun _ => ?_) | split
      | with_reducible refine Kept.mk_same ?_ rfl rfl rfl rfl rfl rfl rfl rfl rfl rfl rfl rfl

theorem State.calWhole_kept {base s : State} (hk : Kept sk base s) (core : Nat) (temp : Int) (obs : Tab CalObs) :
    Kept sk base (State.calWhole s core temp obs) := by
  unfold State.calWhole
  try dsimp only
  repeat' first
    | with_reducible assumption | with_reducible apply State.setCore_kept | with_reducible apply State.calEnd_kept
    | with_reducible apply State.calRunBanks_kept | (intro _ _) | with_reducible refine Kept.ite (fun _ => ?_) (fun _ => ?_) | split
    | with_reducible refine Kept.mk_same ?_ rfl rfl rfl rfl rfl rfl rfl rfl rfl rfl rfl rfl

/-! ### Recorder -/

theorem Recorder.flushPage_kept (e : Recorder) : RecKept e e.flushPage := ⟨rfl, rfl, rfl, List.prefix_refl _⟩

theorem RecKept.trans {a b c : Recorder} (h : RecKept a b) (k : RecKept b c) : RecKept a c :=
  ⟨k.hours.trans h.hours, k.saved.trans h.saved, k.alarm.trans h.alarm, h.first.trans k.first⟩

theorem Recorder.put_kept (e : Recorder) (r : Record) : RecKept e (e.put r) := by
  unfold Recorder.put
  extract_lets w room e1
  have h1 : RecKept e e1 := ⟨rfl, rfl, rfl, by
    show e.first <+: (if room then e.first ++ [w] else e.first)
    split
    · exact List.prefix_append _ _
    · exact List.prefix_refl _⟩
  split
  · exact h1.trans (Recorder.flushPage_kept _)
  · exact h1

theorem State.writeRecord_kept {base s : State} (hk : Kept sk base s) (r : Record) : Kept sk base (State.writeRecord s r) := by
  unfold State.writeRecord
  extract_lets s1 _ s2
  have h1 : Kept sk base s1 := Kept.evt hk (Recorder.put_kept _ _) rfl rfl rfl rfl rfl rfl rfl rfl rfl rfl rfl
  have h2 : Kept sk base s2 := Kept.ite (fun _ => Kept.mk_same h1 rfl rfl rfl rfl rfl rfl rfl rfl rfl rfl rfl rfl) (fun _ => h1)
  exact Kept.ite (fun _ => State.raise_kept h2 _ _) (fun _ => h2)

theorem State.writeRecords_kept {base s : State} (hk : Kept sk base s) (l : List Record) : Kept sk base (State.writeRecords s l) := by
  induction l generalizing s with
  | nil =>
    unfold State.writeRecords
    try dsimp only
    repeat' first
      | with_reducible assumption | with_reducible apply State.writeRecord_kept | (intro _ _)
      | with_reducible refine Kept.ite (fun _ => ?_) (fun _ => ?_) | split
      | with_reducible refine Kept.mk_same ?_ rfl rfl rfl rfl rfl rfl rfl rfl rfl rfl rfl rfl
  | cons x r ih =>
    unfold State.writeRecords
    try dsimp only
    repeat' first
      | with_reducible assumption | with_reducible apply ih | with_reducible apply State.writeRecord_kept | (intro _ _)
      | with_reducible refine Kept.ite (fun _ => ?_) (fun _ => ?_) | split
      | with_reducible refine Kept.mk_same ?_ rfl rfl rfl rfl rfl rfl rfl rfl rfl rfl rfl rfl

theorem execRecordWrite_kept (s : State) : KeptO sk s (execRecordWrite s) := by
  have hk : Kept sk s s := Kept.refl s
  unfold execRecordWrite
  try dsimp only
  repeat' first
    | with_reducible assumption | with_reducible apply KeptO.next | with_reducible exact KeptO.fault _
    | with_reducible apply State.writeRecord_kept | (intro _ _) | with_reducible refine Kept.ite (fun _ => ?_) (fun _ => ?_) | split
    | with_reducible refine Kept.mk_same ?_ rfl rfl rfl rfl rfl rfl rfl rfl rfl rfl rfl rfl

theorem State.logStorm_kept {base s : State} (hk : Kept sk base s) : Kept sk base (State.logStorm s) := by
  unfold State.logStorm
  try dsimp only
  repeat' first
    | with_reducible assumption | with_reducible apply State.count_kept | (intro _ _)
    | with_reducible refine Kept.ite (fun _ => ?_) (fun _ => ?_) | split
    | with_reducible refine Kept.mk_same ?_ rfl rfl rfl rfl rfl rfl rfl rfl rfl rfl rfl rfl

theorem State.endBeatLog_kept {base s : State} (hk : Kept sk base s) : Kept sk base (State.endBeatLog s) := by
  unfold State.endBeatLog
  try dsimp only
  repeat' first
    | with_reducible assumption | with_reducible apply State.record_kept | with_reducible apply State.writeRecords_kept
    | with_reducible apply State.logStorm_kept | (intro _ _) | with_reducible refine Kept.ite (fun _ => ?_) (fun _ => ?_) | split
    | with_reducible refine Kept.mk_same ?_ rfl rfl rfl rfl rfl rfl rfl rfl rfl rfl rfl rfl

theorem State.openLog_kept {base s : State} (hk : Kept sk base s) : Kept sk base (State.openLog s) := by
  unfold State.openLog
  try dsimp only
  repeat' first
    | with_reducible assumption | with_reducible apply State.writeRecords_kept | (intro _ _)
    | with_reducible refine Kept.ite (fun _ => ?_) (fun _ => ?_) | split
    | with_reducible refine Kept.mk_same ?_ rfl rfl rfl rfl rfl rfl rfl rfl rfl rfl rfl rfl

theorem State.drainLog_kept {base s : State} (hk : Kept sk base s) : Kept sk base (State.drainLog s) := by
  unfold State.drainLog
  try dsimp only
  repeat' first
    | with_reducible assumption | with_reducible apply State.writeRecords_kept | (intro _ _)
    | with_reducible refine Kept.ite (fun _ => ?_) (fun _ => ?_) | split
    | with_reducible refine Kept.mk_same ?_ rfl rfl rfl rfl rfl rfl rfl rfl rfl rfl rfl rfl

theorem State.closeLog_kept {base s : State} (hk : Kept sk base s) : Kept sk base (State.closeLog s) := by
  unfold State.closeLog
  try dsimp only
  repeat' first
    | with_reducible assumption | with_reducible apply State.endBeatLog_kept | with_reducible apply State.openLog_kept
    | with_reducible apply State.drainLog_kept | (intro _ _) | with_reducible refine Kept.ite (fun _ => ?_) (fun _ => ?_) | split
    | with_reducible refine Kept.mk_same ?_ rfl rfl rfl rfl rfl rfl rfl rfl rfl rfl rfl rfl

theorem execOperatingHourTick_kept (s : State) : KeptO sk s (execOperatingHourTick s) := by
  have hk : Kept sk s s := Kept.refl s
  unfold execOperatingHourTick
  split
  · exact ⟨⟨rfl, id, id, Nat.le_refl _, fun _ => ⟨rfl, Nat.le_add_right _ _⟩⟩, hk.alarm, hk.sticky, hk.lockP, hk.lockS, hk.keys,
      hk.owner, hk.first⟩
  · exact hk

/-! ### Recovery -/

theorem State.haltAttempt_kept {base s : State} (hk : Kept sk base s) (c : Nat) : Kept sk base (State.haltAttempt s c) := by
  unfold State.haltAttempt
  try dsimp only
  repeat' first
    | with_reducible assumption | with_reducible apply State.discard_kept | (intro _ _)
    | with_reducible refine Kept.ite (fun _ => ?_) (fun _ => ?_) | split
    | with_reducible refine Kept.mk_same ?_ rfl rfl rfl rfl rfl rfl rfl rfl rfl rfl rfl rfl

theorem State.stopAttempt_kept {base s : State} (hk : Kept sk base s) : Kept sk base (State.stopAttempt s) := by
  unfold State.stopAttempt
  try dsimp only
  repeat' first
    | with_reducible assumption | with_reducible apply State.discard_kept | with_reducible apply State.leaveStep_kept
    | with_reducible apply State.complete_kept | (intro _ _) | with_reducible refine Kept.ite (fun _ => ?_) (fun _ => ?_) | split
    | with_reducible refine Kept.mk_same ?_ rfl rfl rfl rfl rfl rfl rfl rfl rfl rfl rfl rfl

theorem State.localiseFail_kept {base s : State} (hk : Kept sk base s) : Kept sk base (State.localiseFail s) := by
  unfold State.localiseFail
  try dsimp only
  repeat' first
    | with_reducible assumption | with_reducible apply State.raise_kept | (intro _ _)
    | with_reducible refine Kept.ite (fun _ => ?_) (fun _ => ?_) | split
    | with_reducible refine Kept.mk_same ?_ rfl rfl rfl rfl rfl rfl rfl rfl rfl rfl rfl rfl

theorem State.localiseNames_kept {base s : State} (hk : Kept sk base s) (core : Nat) (o : LocObs) (x : LocRun × Nat) :
    Kept sk base (State.localiseNames s core o x) := by
  unfold State.localiseNames
  try dsimp only
  repeat' first
    | with_reducible assumption | with_reducible apply State.chargeErr_kept | with_reducible apply State.capture_kept | (intro _ _)
    | with_reducible refine Kept.ite (fun _ => ?_) (fun _ => ?_) | split
    | with_reducible refine Kept.mk_same ?_ rfl rfl rfl rfl rfl rfl rfl rfl rfl rfl rfl rfl

theorem State.localiseCopies_kept {base s : State} (hk : Kept sk base s) (o : LocObs) : Kept sk base (State.localiseCopies s o) := by
  unfold State.localiseCopies
  try dsimp only
  repeat' first
    | with_reducible assumption | with_reducible apply State.cause_kept | with_reducible apply State.copyBanks_kept | (intro _ _)
    | with_reducible refine Kept.ite (fun _ => ?_) (fun _ => ?_) | split
    | with_reducible refine Kept.mk_same ?_ rfl rfl rfl rfl rfl rfl rfl rfl rfl rfl rfl rfl

theorem State.localised_kept {base s : State} (hk : Kept sk base s) (core : Nat) (o : LocObs) :
    Kept sk base (State.localised s core o) := by
  unfold State.localised
  try dsimp only
  repeat' first
    | with_reducible assumption | with_reducible apply State.chargeErr_kept | with_reducible apply State.localiseFail_kept
    | with_reducible apply State.localiseNames_kept | with_reducible apply State.localiseCopies_kept | (intro _ _)
    | with_reducible refine Kept.ite (fun _ => ?_) (fun _ => ?_) | split
    | with_reducible refine Kept.mk_same ?_ rfl rfl rfl rfl rfl rfl rfl rfl rfl rfl rfl rfl

theorem State.endSuspect_kept {base s : State} (hk : Kept sk base s) (core : Nat) : Kept sk base (State.endSuspect s core) := by
  unfold State.endSuspect
  try dsimp only
  repeat' first
    | with_reducible assumption | with_reducible apply State.count_kept | (intro _ _)
    | with_reducible refine Kept.ite (fun _ => ?_) (fun _ => ?_) | split
    | with_reducible refine Kept.mk_same ?_ rfl rfl rfl rfl rfl rfl rfl rfl rfl rfl rfl rfl

theorem execLocalise_kept (s : State) (core : Nat) (o : LocObs) : KeptO sk s (execLocalise core o s) := by
  have hk : Kept sk s s := Kept.refl s
  unfold execLocalise
  try dsimp only
  repeat' first
    | with_reducible assumption | with_reducible apply KeptO.next | with_reducible exact KeptO.fault _
    | with_reducible apply State.localised_kept | with_reducible apply State.endSuspect_kept | (intro _ _)
    | with_reducible refine Kept.ite (fun _ => ?_) (fun _ => ?_) | split
    | with_reducible refine Kept.mk_same ?_ rfl rfl rfl rfl rfl rfl rfl rfl rfl rfl rfl rfl

theorem State.retirePhys_kept {base s : State} (hk : Kept sk base s) (p : Nat) (e : UnitHist) : Kept sk base (State.retirePhys s p e) := by
  unfold State.retirePhys
  try dsimp only
  repeat' first
    | with_reducible assumption | with_reducible apply State.setHist_kept | (intro _ _)
    | with_reducible refine Kept.ite (fun _ => ?_) (fun _ => ?_) | split
    | with_reducible refine Kept.mk_same ?_ rfl rfl rfl rfl rfl rfl rfl rfl rfl rfl rfl rfl

theorem State.retireSpares_kept {base s : State} (hk : Kept sk base s) (l : List Nat) : Kept sk base (State.retireSpares s l) := by
  induction l generalizing s with
  | nil =>
    unfold State.retireSpares
    try dsimp only
    repeat' first
      | with_reducible assumption | with_reducible apply State.retirePhys_kept | (intro _ _)
      | with_reducible refine Kept.ite (fun _ => ?_) (fun _ => ?_) | split
      | with_reducible refine Kept.mk_same ?_ rfl rfl rfl rfl rfl rfl rfl rfl rfl rfl rfl rfl
  | cons x r ih =>
    unfold State.retireSpares
    try dsimp only
    repeat' first
      | with_reducible assumption | with_reducible apply ih | with_reducible apply State.retirePhys_kept | (intro _ _)
      | with_reducible refine Kept.ite (fun _ => ?_) (fun _ => ?_) | split
      | with_reducible refine Kept.mk_same ?_ rfl rfl rfl rfl rfl rfl rfl rfl rfl rfl rfl rfl

theorem State.makeAbsent_kept {base s : State} (hk : Kept sk base s) (core code : Nat) : Kept sk base (State.makeAbsent s core code) := by
  unfold State.makeAbsent
  try dsimp only
  repeat' first
    | with_reducible assumption | with_reducible apply State.setHist_kept | with_reducible apply State.permanent_kept
    | with_reducible apply State.degrade_kept | with_reducible apply State.busy_kept
    | with_reducible refine Kept.foldl _ (fun _ _ _ => ?_) _ _ ?_ | (intro _ _)
    | with_reducible refine Kept.ite (fun _ => ?_) (fun _ => ?_) | split
    | with_reducible refine Kept.mk_same ?_ rfl rfl rfl rfl rfl rfl rfl rfl rfl rfl rfl rfl

theorem State.writeNew_kept {base s : State} (hk : Kept sk base s) (l : List Nat) : Kept sk base (State.writeNew s l) := by
  induction l generalizing s with
  | nil =>
    unfold State.writeNew
    try dsimp only
    repeat' first
      | with_reducible assumption | with_reducible apply State.programAll_kept | (intro _ _)
      | with_reducible refine Kept.ite (fun _ => ?_) (fun _ => ?_) | split
      | with_reducible refine Kept.mk_same ?_ rfl rfl rfl rfl rfl rfl rfl rfl rfl rfl rfl rfl
  | cons x r ih =>
    unfold State.writeNew
    try dsimp only
    repeat' first
      | with_reducible assumption | with_reducible apply ih | with_reducible apply State.programAll_kept | (intro _ _)
      | with_reducible refine Kept.ite (fun _ => ?_) (fun _ => ?_) | split
      | with_reducible refine Kept.mk_same ?_ rfl rfl rfl rfl rfl rfl rfl rfl rfl rfl rfl rfl

theorem State.newArrays_kept {base s : State} (hk : Kept sk base s) (core : Nat) (cals : Tab CalObs) :
    Kept sk base (State.newArrays s core cals) := by
  unfold State.newArrays
  extract_lets l s1 x s2
  have h1 : Kept sk base s1 := Kept.foldl _ (fun t a h => State.setArray_kept (State.loseArray_kept h _) _ _) _ _ hk
  have h2 : Kept sk base s2 := State.setCore_kept h1 _ _
  clear_value s2
  exact State.writeNew_kept (State.drain_kept (State.publishCore_kept (State.calWhole_kept h2 _ _ _) _)) _

theorem State.movedTo_kept {base s : State} (hk : Kept sk base s) (core old p us : Nat) (cals : Tab CalObs) :
    Kept sk base (State.movedTo s core old p us cals) := by
  unfold State.movedTo
  extract_lets s1 mine x s2 e s3 s4 y
  have h1 : Kept sk base s1 := State.retirePhys_kept hk _ _
  have h2 : Kept sk base s2 := Kept.mk_same h1 rfl rfl rfl rfl rfl rfl rfl rfl rfl rfl rfl rfl
  have h3 : Kept sk base s3 := State.newArrays_kept (State.setHist_kept h2 _) _ _
  have h4 : Kept sk base s4 := State.count_kept (State.publish_kept (State.raiseU_kept h3 _ _ _)) _ _
  clear_value y s4
  exact Kept.mk_same h4 rfl rfl rfl rfl rfl rfl rfl rfl rfl rfl rfl rfl

theorem execCoreSpare_kept (s : State) (core : Nat) (failing : List Nat) (us : Nat) (cals : List (Nat × CalObs)) :
    KeptO sk s (execCoreSpare core failing us cals s) := by
  unfold execCoreSpare
  split
  · trivial
  · split
    · exact Kept.refl s
    · extract_lets old bad s1
      have h1 : Kept sk s s1 := State.retireSpares_kept (Kept.refl s) _
      split
      · exact State.movedTo_kept h1 _ _ _ _ _
      · have h2 := State.retirePhys_kept h1 old (s1.histOf uCore core)
        exact State.makeAbsent_kept (Kept.mk_same h2 rfl rfl rfl rfl rfl rfl rfl rfl rfl rfl rfl rfl) _ _

theorem State.askFrames_kept {base s : State} (hk : Kept sk base s) : Kept sk base (State.askFrames s) := by
  unfold State.askFrames
  try dsimp only
  repeat' first
    | with_reducible assumption | with_reducible apply State.sendBulk_kept | with_reducible refine Kept.foldl _ (fun _ _ _ => ?_) _ _ ?_
    | (intro _ _) | with_reducible refine Kept.ite (fun _ => ?_) (fun _ => ?_) | split
    | with_reducible refine Kept.mk_same ?_ rfl rfl rfl rfl rfl rfl rfl rfl rfl rfl rfl rfl

theorem State.takeChoice_kept {base s : State} (hk : Kept sk base s) (dev : Nat) (c : Recov) : Kept sk base (State.takeChoice s dev c) := by
  unfold State.takeChoice
  try dsimp only
  repeat' first
    | with_reducible assumption | with_reducible apply State.raise_kept | with_reducible apply State.stopAttempt_kept | (intro _ _)
    | with_reducible refine Kept.ite (fun _ => ?_) (fun _ => ?_) | split
    | with_reducible refine Kept.mk_same ?_ rfl rfl rfl rfl rfl rfl rfl rfl rfl rfl rfl rfl

theorem State.deviceGone_kept {base s : State} (hk : Kept sk base s) (dev : Nat) (choice : Option Recov) :
    Kept sk base (State.deviceGone s dev choice) := by
  unfold State.deviceGone
  try dsimp only
  repeat' first
    | with_reducible assumption | with_reducible apply State.raise_kept | with_reducible apply State.draw_kept
    | with_reducible apply State.lose_kept | with_reducible apply State.rebuild_kept | with_reducible apply State.drain_kept
    | with_reducible apply State.haltAttempt_kept | with_reducible apply State.takeChoice_kept | (intro _ _)
    | with_reducible refine Kept.ite (fun _ => ?_) (fun _ => ?_) | split
    | with_reducible refine Kept.mk_same ?_ rfl rfl rfl rfl rfl rfl rfl rfl rfl rfl rfl rfl

theorem execDeviceLost_kept (s : State) (dev : Nat) (choice : Option Recov) : KeptO sk s (execDeviceLost dev choice s) := by
  have hk : Kept sk s s := Kept.refl s
  unfold execDeviceLost
  try dsimp only
  repeat' first
    | with_reducible assumption | with_reducible apply KeptO.next | with_reducible exact KeptO.fault _
    | with_reducible apply State.deviceGone_kept | (intro _ _) | with_reducible refine Kept.ite (fun _ => ?_) (fun _ => ?_) | split
    | with_reducible refine Kept.mk_same ?_ rfl rfl rfl rfl rfl rfl rfl rfl rfl rfl rfl rfl

theorem State.dropReplica_kept {base s0 : State} (hk : Kept sk base s0) (dev : Nat) (members : List Nat) :
    Kept sk base (State.dropReplica s0 dev members) := by
  unfold State.dropReplica
  try dsimp only
  repeat' first
    | with_reducible assumption | with_reducible apply State.count_kept | with_reducible apply State.raise_kept
    | with_reducible apply State.recovered_kept | with_reducible apply State.haltAttempt_kept
    | with_reducible apply State.stopAttempt_kept | with_reducible refine Kept.foldl _ (fun _ _ _ => ?_) _ _ ?_ | (intro _ _)
    | with_reducible refine Kept.ite (fun _ => ?_) (fun _ => ?_) | split
    | with_reducible refine Kept.mk_same ?_ rfl rfl rfl rfl rfl rfl rfl rfl rfl rfl rfl rfl

theorem execReplicaDrop_kept (s : State) (dev : Nat) (members : List Nat) : KeptO sk s (execReplicaDrop dev members s) := by
  have hk : Kept sk s s := Kept.refl s
  unfold execReplicaDrop
  try dsimp only
  repeat' first
    | with_reducible assumption | with_reducible apply KeptO.next | with_reducible exact KeptO.fault _
    | with_reducible apply State.dropReplica_kept | (intro _ _) | with_reducible refine Kept.ite (fun _ => ?_) (fun _ => ?_) | split
    | with_reducible refine Kept.mk_same ?_ rfl rfl rfl rfl rfl rfl rfl rfl rfl rfl rfl rfl

theorem State.fillShadow_kept {base s : State} (hk : Kept sk base s) (x : Shadow) (m : ShadowMsg) :
    Kept sk base (State.fillShadow s x m) := by
  unfold State.fillShadow
  try dsimp only
  repeat' first
    | with_reducible assumption | with_reducible apply State.putShadow_kept | (intro _ _)
    | with_reducible refine Kept.ite (fun _ => ?_) (fun _ => ?_) | split
    | with_reducible refine Kept.mk_same ?_ rfl rfl rfl rfl rfl rfl rfl rfl rfl rfl rfl rfl

theorem execShadowTraffic_kept (s : State) (m : ShadowMsg) : KeptO sk s (execShadowTraffic m s) := by
  have hk : Kept sk s s := Kept.refl s
  unfold execShadowTraffic
  try dsimp only
  repeat' first
    | with_reducible assumption | with_reducible apply KeptO.next | with_reducible exact KeptO.fault _
    | with_reducible apply State.fillShadow_kept | (intro _ _) | with_reducible refine Kept.ite (fun _ => ?_) (fun _ => ?_) | split
    | with_reducible refine Kept.mk_same ?_ rfl rfl rfl rfl rfl rfl rfl rfl rfl rfl rfl rfl

theorem execCoreWatchdog_kept (s : State) (core : Nat) : KeptO sk s (execCoreWatchdog core s) := by
  have hk : Kept sk s s := Kept.refl s
  unfold execCoreWatchdog
  try dsimp only
  repeat' first
    | with_reducible assumption | with_reducible apply KeptO.next | with_reducible exact KeptO.fault _
    | with_reducible apply State.cause_kept | with_reducible apply State.draw_kept | with_reducible apply State.chargeErr_kept
    | (intro _ _) | with_reducible refine Kept.ite (fun _ => ?_) (fun _ => ?_) | split
    | with_reducible refine Kept.mk_same ?_ rfl rfl rfl rfl rfl rfl rfl rfl rfl rfl rfl rfl

/-! ### Beat -/

theorem State.seenFrom_kept {base s : State} (hk : Kept sk base s) (dev : Nat) : Kept sk base (State.seenFrom s dev) := by
  unfold State.seenFrom
  try dsimp only
  repeat' first
    | with_reducible assumption | (intro _ _) | with_reducible refine Kept.ite (fun _ => ?_) (fun _ => ?_) | split
    | with_reducible refine Kept.mk_same ?_ rfl rfl rfl rfl rfl rfl rfl rfl rfl rfl rfl rfl

theorem State.sendVc0_kept {base s : State} (hk : Kept sk base s) (port : Nat) (bs : List Byte) :
    Kept sk base (State.sendVc0 s port bs) := by
  unfold State.sendVc0
  try dsimp only
  repeat' first
    | with_reducible assumption | with_reducible apply State.enqueue_kept | (intro _ _)
    | with_reducible refine Kept.ite (fun _ => ?_) (fun _ => ?_) | split
    | with_reducible refine Kept.mk_same ?_ rfl rfl rfl rfl rfl rfl rfl rfl rfl rfl rfl rfl

theorem State.addReport_kept {base s : State} (hk : Kept sk base s) (r : Report) : Kept sk base (State.addReport s r) := by
  unfold State.addReport
  try dsimp only
  repeat' first
    | with_reducible assumption | (intro _ _) | with_reducible refine Kept.ite (fun _ => ?_) (fun _ => ?_) | split
    | with_reducible refine Kept.mk_same ?_ rfl rfl rfl rfl rfl rfl rfl rfl rfl rfl rfl rfl

theorem State.sendReport_kept {base s : State} (hk : Kept sk base s) : Kept sk base (State.sendReport s) := by
  unfold State.sendReport
  try dsimp only
  repeat' first
    | with_reducible assumption | with_reducible apply State.sendVc0_kept | (intro _ _)
    | with_reducible refine Kept.ite (fun _ => ?_) (fun _ => ?_) | split
    | with_reducible refine Kept.mk_same ?_ rfl rfl rfl rfl rfl rfl rfl rfl rfl rfl rfl rfl

theorem execBeatReport_kept (s : State) (r : Report) : KeptO sk s (execBeatReport r s) := by
  have hk : Kept sk s s := Kept.refl s
  unfold execBeatReport
  try dsimp only
  repeat' first
    | with_reducible assumption | with_reducible apply KeptO.next | with_reducible exact KeptO.fault _
    | with_reducible apply State.addReport_kept | with_reducible apply State.sendReport_kept | (intro _ _)
    | with_reducible refine Kept.ite (fun _ => ?_) (fun _ => ?_) | split
    | with_reducible refine Kept.mk_same ?_ rfl rfl rfl rfl rfl rfl rfl rfl rfl rfl rfl rfl

theorem State.overrun_kept {base s : State} (hk : Kept sk base s) (o : WinObs) : Kept sk base (State.overrun s o) := by
  unfold State.overrun
  try dsimp only
  repeat' first
    | with_reducible assumption | with_reducible apply State.count_kept | with_reducible apply State.raise_kept
    | with_reducible apply State.cause_kept | with_reducible apply State.dropWork_kept | with_reducible apply State.busy_kept
    | (intro _ _) | with_reducible refine Kept.ite (fun _ => ?_) (fun _ => ?_) | split
    | with_reducible refine Kept.mk_same ?_ rfl rfl rfl rfl rfl rfl rfl rfl rfl rfl rfl rfl

theorem execWindowClose_kept (s : State) (o : WinObs) : KeptO sk s (execWindowClose o s) := by
  have hk : Kept sk s s := Kept.refl s
  unfold execWindowClose
  try dsimp only
  repeat' first
    | with_reducible assumption | with_reducible apply KeptO.next | with_reducible exact KeptO.fault _
    | with_reducible apply State.endBeatLog_kept | with_reducible apply State.askFrames_kept | with_reducible apply State.addReport_kept
    | with_reducible apply State.sendReport_kept | with_reducible apply State.overrun_kept | (intro _ _)
    | with_reducible refine Kept.ite (fun _ => ?_) (fun _ => ?_) | split
    | with_reducible refine Kept.mk_same ?_ rfl rfl rfl rfl rfl rfl rfl rfl rfl rfl rfl rfl

theorem execStretchLimit_kept (s : State) : KeptO sk s (execStretchLimit s) := by
  have hk : Kept sk s s := Kept.refl s
  unfold execStretchLimit
  try dsimp only
  repeat' first
    | with_reducible assumption | with_reducible apply KeptO.next | with_reducible exact KeptO.fault _
    | with_reducible apply State.raise_kept | (intro _ _) | with_reducible refine Kept.ite (fun _ => ?_) (fun _ => ?_) | split
    | with_reducible refine Kept.mk_same ?_ rfl rfl rfl rfl rfl rfl rfl rfl rfl rfl rfl rfl

theorem State.sendTick_kept {base s : State} (hk : Kept sk base s) (m : TickMsg) (l : List Nat) : Kept sk base (State.sendTick s m l) := by
  induction l generalizing s m with
  | nil =>
    unfold State.sendTick
    try dsimp only
    repeat' first
      | with_reducible assumption | with_reducible apply State.sendVc0_kept | (intro _ _)
      | with_reducible refine Kept.ite (fun _ => ?_) (fun _ => ?_) | split
      | with_reducible refine Kept.mk_same ?_ rfl rfl rfl rfl rfl rfl rfl rfl rfl rfl rfl rfl
  | cons x r ih =>
    unfold State.sendTick
    try dsimp only
    repeat' first
      | with_reducible assumption | with_reducible apply ih | with_reducible apply State.sendVc0_kept | (intro _ _)
      | with_reducible refine Kept.ite (fun _ => ?_) (fun _ => ?_) | split
      | with_reducible refine Kept.mk_same ?_ rfl rfl rfl rfl rfl rfl rfl rfl rfl rfl rfl rfl

theorem execTickMessage_kept (s : State) (m : TickMsg) (skew : Int) : KeptO sk s (execTickMessage m skew s) := by
  have hk : Kept sk s s := Kept.refl s
  unfold execTickMessage
  try dsimp only
  repeat' first
    | with_reducible assumption | with_reducible apply KeptO.next | with_reducible exact KeptO.fault _
    | with_reducible apply State.sendTick_kept | (intro _ _) | with_reducible refine Kept.ite (fun _ => ?_) (fun _ => ?_) | split
    | with_reducible refine Kept.mk_same ?_ rfl rfl rfl rfl rfl rfl rfl rfl rfl rfl rfl rfl

theorem State.endTicket_kept {base s : State} (hk : Kept sk base s) (st : Nat) (res : List Word) :
    Kept sk base (State.endTicket s st res) := by
  unfold State.endTicket
  try dsimp only
  repeat' first
    | with_reducible assumption | with_reducible apply State.complete_kept | (intro _ _)
    | with_reducible refine Kept.ite (fun _ => ?_) (fun _ => ?_) | split
    | with_reducible refine Kept.mk_same ?_ rfl rfl rfl rfl rfl rfl rfl rfl rfl rfl rfl rfl

theorem State.tickCommit_kept {base s : State} (hk : Kept sk base s) (closing : Nat) : Kept sk base (State.tickCommit s closing) := by
  unfold State.tickCommit
  try dsimp only
  repeat' first
    | with_reducible assumption | with_reducible apply State.commitStep_kept | with_reducible apply State.endTicket_kept | (intro _ _)
    | with_reducible refine Kept.ite (fun _ => ?_) (fun _ => ?_) | split
    | with_reducible refine Kept.mk_same ?_ rfl rfl rfl rfl rfl rfl rfl rfl rfl rfl rfl rfl

theorem State.settleRun_kept {base s : State} (hk : Kept sk base s) : Kept sk base (State.settleRun s) := by
  unfold State.settleRun
  try dsimp only
  repeat' first
    | with_reducible assumption | with_reducible apply State.settle_kept | (intro _ _)
    | with_reducible refine Kept.ite (fun _ => ?_) (fun _ => ?_) | split
    | with_reducible refine Kept.mk_same ?_ rfl rfl rfl rfl rfl rfl rfl rfl rfl rfl rfl rfl

theorem State.tickFail_kept {base s : State} (hk : Kept sk base s) (cause : Nat) : Kept sk base (State.tickFail s cause) := by
  unfold State.tickFail
  try dsimp only
  repeat' first
    | with_reducible assumption | with_reducible apply State.failStep_kept | with_reducible apply State.endTicket_kept
    | with_reducible apply State.settleRun_kept | (intro _ _) | with_reducible refine Kept.ite (fun _ => ?_) (fun _ => ?_) | split
    | with_reducible refine Kept.mk_same ?_ rfl rfl rfl rfl rfl rfl rfl rfl rfl rfl rfl rfl

theorem State.tickShow_kept {base s : State} (hk : Kept sk base s) (opened : Nat) : Kept sk base (State.tickShow s opened) := by
  unfold State.tickShow
  try dsimp only
  repeat' first
    | with_reducible assumption | with_reducible apply State.showOutputs_kept | with_reducible apply State.endTicket_kept | (intro _ _)
    | with_reducible refine Kept.ite (fun _ => ?_) (fun _ => ?_) | split
    | with_reducible refine Kept.mk_same ?_ rfl rfl rfl rfl rfl rfl rfl rfl rfl rfl rfl rfl

theorem State.tickReplay_kept {base s : State} (hk : Kept sk base s) (c : Nat) (l : List (Nat × Stamp)) :
    Kept sk base (State.tickReplay s c l) := by
  unfold State.tickReplay
  try dsimp only
  repeat' first
    | with_reducible assumption | (intro _ _) | with_reducible refine Kept.ite (fun _ => ?_) (fun _ => ?_) | split
    | with_reducible refine Kept.mk_same ?_ rfl rfl rfl rfl rfl rfl rfl rfl rfl rfl rfl rfl

theorem State.tickStep_kept {base s : State} (hk : Kept sk base s) (m : TickMsg) (fly : Bool) (closing : Nat) :
    Kept sk base (State.tickStep s m fly closing) := by
  unfold State.tickStep
  try dsimp only
  repeat' first
    | with_reducible assumption | with_reducible apply State.tickCommit_kept | with_reducible apply State.tickFail_kept
    | with_reducible apply State.tickShow_kept | with_reducible apply State.tickReplay_kept | (intro _ _)
    | with_reducible refine Kept.ite (fun _ => ?_) (fun _ => ?_) | split
    | with_reducible refine Kept.mk_same ?_ rfl rfl rfl rfl rfl rfl rfl rfl rfl rfl rfl rfl

theorem State.dropFor_kept {base s : State} (hk : Kept sk base s) (x : Nat) : Kept sk base (State.dropFor s x) := by
  unfold State.dropFor
  extract_lets mb s1 x s2
  have h1 : Kept sk base s1 := State.dropMb_kept hk _
  clear_value s1
  have h2 : Kept sk base s2 := Kept.ite (fun _ => Kept.mk_same h1 rfl rfl rfl rfl rfl rfl rfl rfl rfl rfl rfl rfl) (fun _ => h1)
  clear_value s2
  exact Kept.ite (fun _ => hk) (fun _ => State.drainMb_kept (State.addSplit_kept h2 _) _)

theorem State.dropAll_kept {base s : State} (hk : Kept sk base s) (l : List Nat) : Kept sk base (State.dropAll s l) := by
  induction l generalizing s with
  | nil =>
    unfold State.dropAll
    try dsimp only
    repeat' first
      | with_reducible assumption | with_reducible apply State.dropFor_kept | (intro _ _)
      | with_reducible refine Kept.ite (fun _ => ?_) (fun _ => ?_) | split
      | with_reducible refine Kept.mk_same ?_ rfl rfl rfl rfl rfl rfl rfl rfl rfl rfl rfl rfl
  | cons x r ih =>
    unfold State.dropAll
    try dsimp only
    repeat' first
      | with_reducible assumption | with_reducible apply ih | with_reducible apply State.dropFor_kept | (intro _ _)
      | with_reducible refine Kept.ite (fun _ => ?_) (fun _ => ?_) | split
      | with_reducible refine Kept.mk_same ?_ rfl rfl rfl rfl rfl rfl rfl rfl rfl rfl rfl rfl

theorem State.takeShared_kept {base s : State} (hk : Kept sk base s) (m : TickMsg) : Kept sk base (State.takeShared s m) := by
  unfold State.takeShared
  try dsimp only
  repeat' first
    | with_reducible assumption | with_reducible apply State.dropAll_kept | with_reducible refine Kept.foldl _ (fun _ _ _ => ?_) _ _ ?_
    | (intro _ _) | with_reducible refine Kept.ite (fun _ => ?_) (fun _ => ?_) | split
    | with_reducible refine Kept.mk_same ?_ rfl rfl rfl rfl rfl rfl rfl rfl rfl rfl rfl rfl

theorem State.openBeat_kept {base s : State} (hk : Kept sk base s) (hold : Bool) : Kept sk base (State.openBeat s hold) := by
  unfold State.openBeat
  try dsimp only
  repeat' first
    | with_reducible assumption | with_reducible apply State.count_kept | with_reducible apply State.fenceCheck_kept
    | with_reducible apply State.advance_kept | with_reducible apply State.beginStep_kept | (intro _ _)
    | with_reducible refine Kept.ite (fun _ => ?_) (fun _ => ?_) | split
    | with_reducible refine Kept.mk_same ?_ rfl rfl rfl rfl rfl rfl rfl rfl rfl rfl rfl rfl

theorem State.tickArrays_kept {base s : State} (hk : Kept sk base s) : Kept sk base (State.tickArrays s) := by
  unfold State.tickArrays
  try dsimp only
  repeat' first
    | with_reducible assumption | (intro _ _) | with_reducible refine Kept.ite (fun _ => ?_) (fun _ => ?_) | split
    | with_reducible refine Kept.mk_same ?_ rfl rfl rfl rfl rfl rfl rfl rfl rfl rfl rfl rfl

theorem State.tickDuty_kept {base s : State} (hk : Kept sk base s) (pavg : Nat) (closed : Bool) :
    Kept sk base (State.tickDuty s pavg closed) := by
  unfold State.tickDuty
  try dsimp only
  repeat' first
    | with_reducible assumption | with_reducible apply State.count_kept | with_reducible apply State.setSticky_kept
    | with_reducible apply State.raise_kept | with_reducible apply State.dutyTick_kept | (intro _ _)
    | with_reducible refine Kept.ite (fun _ => ?_) (fun _ => ?_) | split
    | with_reducible refine Kept.mk_same ?_ rfl rfl rfl rfl rfl rfl rfl rfl rfl rfl rfl rfl

theorem State.tickRoutes_kept {base s : State} (hk : Kept sk base s) (gen : Nat) : Kept sk base (State.tickRoutes s gen) := by
  unfold State.tickRoutes
  try dsimp only
  repeat' first
    | with_reducible assumption | with_reducible apply State.raise_kept | (intro _ _)
    | with_reducible refine Kept.ite (fun _ => ?_) (fun _ => ?_) | split
    | with_reducible refine Kept.mk_same ?_ rfl rfl rfl rfl rfl rfl rfl rfl rfl rfl rfl rfl

theorem State.tickKeys_kept {base s : State} (hk : Kept sk base s) : Kept sk base (State.tickKeys s) := by
  unfold State.tickKeys
  try dsimp only
  repeat' first
    | with_reducible assumption | with_reducible refine Kept.foldl _ (fun _ _ _ => ?_) _ _ ?_ | (intro _ _)
    | with_reducible refine Kept.ite (fun _ => ?_) (fun _ => ?_) | split
    | with_reducible refine Kept.mk_same ?_ rfl rfl rfl rfl rfl rfl rfl rfl rfl rfl rfl rfl

theorem State.tickPort_kept {base s : State} (hk : Kept sk base s) (p : Nat) : Kept sk base (State.tickPort s p) := by
  unfold State.tickPort
  try dsimp only
  repeat' first
    | with_reducible assumption | with_reducible apply State.setPort_kept | with_reducible apply State.putPort_kept
    | with_reducible apply State.portDown_kept | (intro _ _) | with_reducible refine Kept.ite (fun _ => ?_) (fun _ => ?_) | split
    | with_reducible refine Kept.mk_same ?_ rfl rfl rfl rfl rfl rfl rfl rfl rfl rfl rfl rfl

theorem State.tickPorts_kept {base s : State} (hk : Kept sk base s) (l : List Nat) : Kept sk base (State.tickPorts s l) := by
  induction l generalizing s with
  | nil =>
    unfold State.tickPorts
    try dsimp only
    repeat' first
      | with_reducible assumption | with_reducible apply State.tickPort_kept | (intro _ _)
      | with_reducible refine Kept.ite (fun _ => ?_) (fun _ => ?_) | split
      | with_reducible refine Kept.mk_same ?_ rfl rfl rfl rfl rfl rfl rfl rfl rfl rfl rfl rfl
  | cons x r ih =>
    unfold State.tickPorts
    try dsimp only
    repeat' first
      | with_reducible assumption | with_reducible apply ih | with_reducible apply State.tickPort_kept | (intro _ _)
      | with_reducible refine Kept.ite (fun _ => ?_) (fun _ => ?_) | split
      | with_reducible refine Kept.mk_same ?_ rfl rfl rfl rfl rfl rfl rfl rfl rfl rfl rfl rfl

theorem State.selfGone_kept {base s : State} (hk : Kept sk base s) : Kept sk base (State.selfGone s) := by
  unfold State.selfGone
  try dsimp only
  repeat' first
    | with_reducible assumption | with_reducible apply State.raise_kept | (intro _ _)
    | with_reducible refine Kept.ite (fun _ => ?_) (fun _ => ?_) | split
    | with_reducible refine Kept.mk_same ?_ rfl rfl rfl rfl rfl rfl rfl rfl rfl rfl rfl rfl

theorem State.tickLost_kept {base s : State} (hk : Kept sk base s) (ch : Tab Recov) (l : List Nat) :
    Kept sk base (State.tickLost s ch l) := by
  induction l generalizing s ch with
  | nil =>
    unfold State.tickLost
    try dsimp only
    repeat' first
      | with_reducible assumption | with_reducible apply State.deviceGone_kept | with_reducible apply State.selfGone_kept | (intro _ _)
      | with_reducible refine Kept.ite (fun _ => ?_) (fun _ => ?_) | split
      | with_reducible refine Kept.mk_same ?_ rfl rfl rfl rfl rfl rfl rfl rfl rfl rfl rfl rfl
  | cons x r ih =>
    unfold State.tickLost
    try dsimp only
    repeat' first
      | with_reducible assumption | with_reducible apply ih | with_reducible apply State.deviceGone_kept
      | with_reducible apply State.selfGone_kept | (intro _ _) | with_reducible refine Kept.ite (fun _ => ?_) (fun _ => ?_) | split
      | with_reducible refine Kept.mk_same ?_ rfl rfl rfl rfl rfl rfl rfl rfl rfl rfl rfl rfl

theorem State.tickRestored_kept {base s : State} (hk : Kept sk base s) (l : List (Nat × Recov)) :
    Kept sk base (State.tickRestored s l) := by
  induction l generalizing s with
  | nil =>
    unfold State.tickRestored
    try dsimp only
    repeat' first
      | with_reducible assumption | with_reducible apply State.takeGroups_kept | (intro _ _)
      | with_reducible refine Kept.ite (fun _ => ?_) (fun _ => ?_) | split
      | with_reducible refine Kept.mk_same ?_ rfl rfl rfl rfl rfl rfl rfl rfl rfl rfl rfl rfl
  | cons x r ih =>
    unfold State.tickRestored
    try dsimp only
    repeat' first
      | with_reducible assumption | with_reducible apply ih | with_reducible apply State.takeGroups_kept | (intro _ _)
      | with_reducible refine Kept.ite (fun _ => ?_) (fun _ => ?_) | split
      | with_reducible refine Kept.mk_same ?_ rfl rfl rfl rfl rfl rfl rfl rfl rfl rfl rfl rfl

theorem State.tickLeave_kept {base s : State} (hk : Kept sk base s) : Kept sk base (State.tickLeave s) := by
  unfold State.tickLeave
  try dsimp only
  repeat' first
    | with_reducible assumption | with_reducible apply State.lose_kept | (intro _ _)
    | with_reducible refine Kept.ite (fun _ => ?_) (fun _ => ?_) | split
    | with_reducible refine Kept.mk_same ?_ rfl rfl rfl rfl rfl rfl rfl rfl rfl rfl rfl rfl

theorem State.tickRestore_kept {base s : State} (hk : Kept sk base s) : Kept sk base (State.tickRestore s) := by
  unfold State.tickRestore
  try dsimp only
  repeat' first
    | with_reducible assumption | with_reducible apply State.applyRestore_kept | (intro _ _)
    | with_reducible refine Kept.ite (fun _ => ?_) (fun _ => ?_) | split
    | with_reducible refine Kept.mk_same ?_ rfl rfl rfl rfl rfl rfl rfl rfl rfl rfl rfl rfl

theorem State.takeReport_kept {base s : State} (hk : Kept sk base s) : Kept sk base (State.takeReport s) := by
  unfold State.takeReport
  try dsimp only
  repeat' first
    | with_reducible assumption | with_reducible apply State.setDowns_kept | (intro _ _)
    | with_reducible refine Kept.ite (fun _ => ?_) (fun _ => ?_) | split
    | with_reducible refine Kept.mk_same ?_ rfl rfl rfl rfl rfl rfl rfl rfl rfl rfl rfl rfl

theorem State.dropEarly_kept {base s : State} (hk : Kept sk base s) : Kept sk base (State.dropEarly s) := by
  unfold State.dropEarly
  try dsimp only
  repeat' first
    | with_reducible assumption | with_reducible apply State.count_kept | (intro _ _)
    | with_reducible refine Kept.ite (fun _ => ?_) (fun _ => ?_) | split
    | with_reducible refine Kept.mk_same ?_ rfl rfl rfl rfl rfl rfl rfl rfl rfl rfl rfl rfl

theorem State.giveCauses_kept {base s : State} (hk : Kept sk base s) (l : List (Bool × Nat × Stamp)) :
    Kept sk base (State.giveCauses s l) := by
  induction l generalizing s with
  | nil =>
    unfold State.giveCauses
    try dsimp only
    repeat' first
      | with_reducible assumption | with_reducible apply State.causeAt_kept | with_reducible apply State.fail_kept | (intro _ _)
      | with_reducible refine Kept.ite (fun _ => ?_) (fun _ => ?_) | split
      | with_reducible refine Kept.mk_same ?_ rfl rfl rfl rfl rfl rfl rfl rfl rfl rfl rfl rfl
  | cons x r ih =>
    unfold State.giveCauses
    try dsimp only
    repeat' first
      | with_reducible assumption | with_reducible apply ih | with_reducible apply State.causeAt_kept
      | with_reducible apply State.fail_kept | (intro _ _) | with_reducible refine Kept.ite (fun _ => ?_) (fun _ => ?_) | split
      | with_reducible refine Kept.mk_same ?_ rfl rfl rfl rfl rfl rfl rfl rfl rfl rfl rfl rfl

theorem State.takeLate_kept {base s : State} (hk : Kept sk base s) : Kept sk base (State.takeLate s) := by
  unfold State.takeLate
  try dsimp only
  repeat' first
    | with_reducible assumption | with_reducible apply State.giveCauses_kept | (intro _ _)
    | with_reducible refine Kept.ite (fun _ => ?_) (fun _ => ?_) | split
    | with_reducible refine Kept.mk_same ?_ rfl rfl rfl rfl rfl rfl rfl rfl rfl rfl rfl rfl

theorem State.newBeat_kept {base s : State} (hk : Kept sk base s) (m : TickMsg) (fly : Bool) : Kept sk base (State.newBeat s m fly) := by
  unfold State.newBeat
  try dsimp only
  repeat' first
    | with_reducible assumption | with_reducible apply State.count_kept | with_reducible apply State.raise_kept
    | with_reducible apply State.endBeatLog_kept | with_reducible apply State.sendTick_kept | with_reducible apply State.takeReport_kept
    | with_reducible apply State.dropEarly_kept | (intro _ _) | with_reducible refine Kept.ite (fun _ => ?_) (fun _ => ?_) | split
    | with_reducible refine Kept.mk_same ?_ rfl rfl rfl rfl rfl rfl rfl rfl rfl rfl rfl rfl

theorem State.tick_kept {base s : State} (hk : Kept sk base s) (m : TickMsg) (pavg : Nat) (fly : Bool) :
    Kept sk base (State.tick s m pavg fly) := by
  unfold State.tick
  extract_lets closing s0 s1 s2 s3 s4 s5 x s6
  have h0 : Kept sk base s0 := State.newBeat_kept hk _ _
  have h1 : Kept sk base s1 := State.tickRestored_kept (State.tickLost_kept (State.takeShared_kept (State.shadowTick_kept (State.tickStep_kept h0 _ _ _) _) _) _ _) _
  have h2 : Kept sk base s2 :=
    State.tickKeys_kept (State.rebuild_kept (State.tickRoutes_kept (State.tickDuty_kept (State.tickArrays_kept h1) _ _) _))
  have h3 : Kept sk base s3 := State.tickLeave_kept (State.tickPorts_kept h2 _)
  have h4 : Kept sk base s4 := State.takeLate_kept (State.openBeat_kept h3 _)
  have h5 : Kept sk base s5 := Kept.ite (fun _ => State.countTasteBeat_kept h4) (fun _ => h4)
  have h6 : Kept sk base s6 := Kept.mk_same h5 rfl rfl rfl rfl rfl rfl rfl rfl rfl rfl rfl rfl
  exact State.drain_kept (State.tickRestore_kept (State.endLimits_kept h6 _ _))

theorem execBeatTick_kept (s : State) (pavg : Nat) : KeptO sk s (execBeatTick pavg s) := by
  have hk : Kept sk s s := Kept.refl s
  unfold execBeatTick
  split
  · exact hk
  · split
    · exact State.tick_kept hk _ _ _
    · split
      · exact hk
      · exact State.tick_kept hk _ _ _

theorem execFlywheelTick_kept (s : State) (pavg : Nat) : KeptO sk s (execFlywheelTick pavg s) := by
  have hk : Kept sk s s := Kept.refl s
  unfold execFlywheelTick
  split
  · exact hk
  · exact State.cause_kept (State.raise_kept (State.tick_kept hk _ _ _) _ _) _

theorem execMasterChange_kept (s : State) : KeptO sk s (execMasterChange s) := by
  have hk : Kept sk s s := Kept.refl s
  unfold execMasterChange
  try dsimp only
  repeat' first
    | with_reducible assumption | with_reducible apply KeptO.next | with_reducible exact KeptO.fault _
    | with_reducible apply State.raise_kept | with_reducible apply State.rebuild_kept | (intro _ _)
    | with_reducible refine Kept.ite (fun _ => ?_) (fun _ => ?_) | split
    | with_reducible refine Kept.mk_same ?_ rfl rfl rfl rfl rfl rfl rfl rfl rfl rfl rfl rfl

theorem execReplayStart_kept (s : State) : KeptO sk s (execReplayStart s) := by
  have hk : Kept sk s s := Kept.refl s
  unfold execReplayStart
  try dsimp only
  repeat' first
    | with_reducible assumption | with_reducible apply KeptO.next | with_reducible exact KeptO.fault _
    | with_reducible apply State.count_kept | with_reducible apply State.raiseFor_kept | with_reducible apply State.restart_kept
    | (intro _ _) | with_reducible refine Kept.ite (fun _ => ?_) (fun _ => ?_) | split
    | with_reducible refine Kept.mk_same ?_ rfl rfl rfl rfl rfl rfl rfl rfl rfl rfl rfl rfl

theorem execReplayLimit_kept (s : State) : KeptO sk s (execReplayLimit s) := by
  have hk : Kept sk s s := Kept.refl s
  unfold execReplayLimit
  try dsimp only
  repeat' first
    | with_reducible assumption | with_reducible apply KeptO.next | with_reducible exact KeptO.fault _
    | with_reducible apply State.raiseFor_kept | with_reducible apply State.drain_kept | with_reducible apply State.tickFail_kept
    | (intro _ _) | with_reducible refine Kept.ite (fun _ => ?_) (fun _ => ?_) | split
    | with_reducible refine Kept.mk_same ?_ rfl rfl rfl rfl rfl rfl rfl rfl rfl rfl rfl rfl

theorem State.portBack_kept {base s : State} (hk : Kept sk base s) (p : Nat) : Kept sk base (State.portBack s p) := by
  unfold State.portBack
  try dsimp only
  repeat' first
    | with_reducible assumption | with_reducible apply State.putPort_kept | with_reducible apply State.noteDowns_kept | (intro _ _)
    | with_reducible refine Kept.ite (fun _ => ?_) (fun _ => ?_) | split
    | with_reducible refine Kept.mk_same ?_ rfl rfl rfl rfl rfl rfl rfl rfl rfl rfl rfl rfl

theorem State.portsBack_kept {base s : State} (hk : Kept sk base s) (l : List Nat) : Kept sk base (State.portsBack s l) := by
  induction l generalizing s with
  | nil =>
    unfold State.portsBack
    try dsimp only
    repeat' first
      | with_reducible assumption | with_reducible apply State.portBack_kept | (intro _ _)
      | with_reducible refine Kept.ite (fun _ => ?_) (fun _ => ?_) | split
      | with_reducible refine Kept.mk_same ?_ rfl rfl rfl rfl rfl rfl rfl rfl rfl rfl rfl rfl
  | cons x r ih =>
    unfold State.portsBack
    try dsimp only
    repeat' first
      | with_reducible assumption | with_reducible apply ih | with_reducible apply State.portBack_kept | (intro _ _)
      | with_reducible refine Kept.ite (fun _ => ?_) (fun _ => ?_) | split
      | with_reducible refine Kept.mk_same ?_ rfl rfl rfl rfl rfl rfl rfl rfl rfl rfl rfl rfl

theorem State.release_kept {base s : State} (hk : Kept sk base s) (op : Half) : Kept sk base (State.release s op) := by
  unfold State.release
  try dsimp only
  repeat' first
    | with_reducible assumption | with_reducible apply State.okT_kept | (intro _ _)
    | with_reducible refine Kept.ite (fun _ => ?_) (fun _ => ?_) | split
    | with_reducible refine Kept.mk_same ?_ rfl rfl rfl rfl rfl rfl rfl rfl rfl rfl rfl rfl

theorem State.endRecipe_kept {base s : State} (hk : Kept sk base s) : Kept sk base (State.endRecipe s) := by
  unfold State.endRecipe
  try dsimp only
  repeat' first
    | with_reducible assumption | (intro _ _) | with_reducible refine Kept.ite (fun _ => ?_) (fun _ => ?_) | split
    | with_reducible refine Kept.mk_same ?_ rfl rfl rfl rfl rfl rfl rfl rfl rfl rfl rfl rfl

theorem State.stopHere_kept {base s : State} (hk : Kept sk base s) : Kept sk base (State.stopHere s) := by
  unfold State.stopHere
  try dsimp only
  repeat' first
    | with_reducible assumption | with_reducible apply State.startRecipe_kept | with_reducible apply State.abortList_kept
    | with_reducible apply State.release_kept | with_reducible apply State.endRecipe_kept | (intro _ _)
    | with_reducible refine Kept.ite (fun _ => ?_) (fun _ => ?_) | split
    | with_reducible refine Kept.mk_same ?_ rfl rfl rfl rfl rfl rfl rfl rfl rfl rfl rfl rfl

theorem State.takeSpares_kept {base s : State} (hk : Kept sk base s) : Kept sk base (State.takeSpares s) := by
  unfold State.takeSpares
  try dsimp only
  repeat' first
    | with_reducible assumption | (intro _ _) | with_reducible refine Kept.ite (fun _ => ?_) (fun _ => ?_) | split
    | with_reducible refine Kept.mk_same ?_ rfl rfl rfl rfl rfl rfl rfl rfl rfl rfl rfl rfl

theorem State.takeLost_kept {base s : State} (hk : Kept sk base s) : Kept sk base (State.takeLost s) := by
  unfold State.takeLost
  try dsimp only
  repeat' first
    | with_reducible assumption | with_reducible apply State.lose_kept | (intro _ _)
    | with_reducible refine Kept.ite (fun _ => ?_) (fun _ => ?_) | split
    | with_reducible refine Kept.mk_same ?_ rfl rfl rfl rfl rfl rfl rfl rfl rfl rfl rfl rfl

theorem State.atBoundary_kept {base s : State} (hk : Kept sk base s) : Kept sk base (State.atBoundary s) := by
  unfold State.atBoundary
  exact State.takeLost_kept (State.settleRun_kept (State.stopHere_kept (State.takeSpares_kept (State.portsBack_kept
    (State.takeGroups_kept hk) _))))

theorem execBoundaryApply_kept (s : State) : KeptO sk s (execBoundaryApply s) := by
  unfold execBoundaryApply
  split
  · exact Kept.refl s
  · exact State.takeLate_kept (State.beginStep_kept (State.drain_kept (State.atBoundary_kept (Kept.refl s))))

/-! ### Power -/

theorem Sec.start_kept (c : Sec) : c.start.debug = c.start.debug := rfl

theorem State.railsOff_kept {base s : State} (hk : Kept sk base s) : Kept sk base (State.railsOff s) := by
  unfold State.railsOff
  split
  · exact Kept.mk_same hk rfl rfl rfl rfl rfl rfl rfl rfl rfl rfl rfl rfl
  · have ht := State.closeLog_kept hk
    generalize s.closeLog = t at ht
    exact ⟨⟨ht.queue, fun m => ⟨Mem.wf_nil, Mem.wf_nil, Mem.wf_nil, (ht.mem m).2.2.2.1, headsOk_nil, fun _ h => nomatch h⟩, ht.isSealed, ht.rollback, ht.hours⟩,
      ht.alarm, ht.sticky, ht.lockP, ht.lockS, ht.keys, ht.owner, ht.first⟩

theorem State.startRails_kept {base s : State} (hk : Kept sk base s) : Kept sk base (State.startRails s) := by
  unfold State.startRails
  exact ⟨⟨hk.queue, hk.mem, fun h => by
      show (if s.sec.sealArmed then 2 else s.sec.debug) = 2
      rw [hk.isSealed h]; split <;> rfl, hk.rollback, hk.hours⟩, hk.alarm, hk.sticky, hk.lockP, hk.lockS, hk.keys, hk.owner, hk.first⟩

theorem execMainRailEnable_kept (s : State) (mv : Nat) : KeptO sk s (execMainRailEnable mv s) := by
  have hk : Kept sk s s := Kept.refl s
  unfold execMainRailEnable
  try dsimp only
  repeat' first
    | with_reducible assumption | with_reducible apply KeptO.next | with_reducible exact KeptO.fault _
    | with_reducible apply State.startRails_kept | (intro _ _) | with_reducible refine Kept.ite (fun _ => ?_) (fun _ => ?_) | split
    | with_reducible refine Kept.mk_same ?_ rfl rfl rfl rfl rfl rfl rfl rfl rfl rfl rfl rfl

theorem State.stopStart_kept {base s : State} (hk : Kept sk base s) (step cause : Nat) : Kept sk base (State.stopStart s step cause) := by
  unfold State.stopStart
  try dsimp only
  repeat' first
    | with_reducible assumption | with_reducible apply State.raise_kept | (intro _ _)
    | with_reducible refine Kept.ite (fun _ => ?_) (fun _ => ?_) | split
    | with_reducible refine Kept.mk_same ?_ rfl rfl rfl rfl rfl rfl rfl rfl rfl rfl rfl rfl

theorem State.domainFault_kept {base s : State} (hk : Kept sk base s) (unit : Nat) : Kept sk base (State.domainFault s unit) := by
  unfold State.domainFault
  try dsimp only
  repeat' first
    | with_reducible assumption | with_reducible apply State.setSticky_kept | with_reducible apply State.raiseU_kept | (intro _ _)
    | with_reducible refine Kept.ite (fun _ => ?_) (fun _ => ?_) | split
    | with_reducible refine Kept.mk_same ?_ rfl rfl rfl rfl rfl rfl rfl rfl rfl rfl rfl rfl

theorem execRailPowerGoodTimeout_kept (s : State) (rail : Nat) : KeptO sk s (execRailPowerGoodTimeout rail s) := by
  have hk : Kept sk s s := Kept.refl s
  unfold execRailPowerGoodTimeout
  try dsimp only
  repeat' first
    | with_reducible assumption | with_reducible apply KeptO.next | with_reducible exact KeptO.fault _
    | with_reducible apply State.stopStart_kept | with_reducible apply State.domainFault_kept | (intro _ _)
    | with_reducible refine Kept.ite (fun _ => ?_) (fun _ => ?_) | split
    | with_reducible refine Kept.mk_same ?_ rfl rfl rfl rfl rfl rfl rfl rfl rfl rfl rfl rfl

theorem State.clusterFault_kept {base s : State} (hk : Kept sk base s) (l : List Nat) : Kept sk base (State.clusterFault s l) := by
  induction l generalizing s with
  | nil =>
    unfold State.clusterFault
    try dsimp only
    repeat' first
      | with_reducible assumption | with_reducible apply State.makeAbsent_kept | (intro _ _)
      | with_reducible refine Kept.ite (fun _ => ?_) (fun _ => ?_) | split
      | with_reducible refine Kept.mk_same ?_ rfl rfl rfl rfl rfl rfl rfl rfl rfl rfl rfl rfl
  | cons x r ih =>
    unfold State.clusterFault
    try dsimp only
    repeat' first
      | with_reducible assumption | with_reducible apply ih | with_reducible apply State.makeAbsent_kept | (intro _ _)
      | with_reducible refine Kept.ite (fun _ => ?_) (fun _ => ?_) | split
      | with_reducible refine Kept.mk_same ?_ rfl rfl rfl rfl rfl rfl rfl rfl rfl rfl rfl rfl

theorem State.domainLost_kept {base s : State} (hk : Kept sk base s) (dom : Nat) : Kept sk base (State.domainLost s dom) := by
  unfold State.domainLost
  have h0 : Kept sk base { s with pwr := { s.pwr with dom := s.pwr.dom &&& ~~~(BitVec.ofNat 36 (2 ^ dom)) } } :=
    Kept.mk_same hk rfl rfl rfl rfl rfl rfl rfl rfl rfl rfl rfl rfl
  extract_lets x s1
  have h1 : Kept sk base s1 := State.domainFault_kept h0 _
  clear_value s1
  exact Kept.ite (fun _ => State.clusterFault_kept h1 _) (fun _ => Kept.ite (fun _ => State.portDown_kept h1 _)
    (fun _ => Kept.ite (fun _ => State.stopStart_kept h1 _ _) (fun _ => State.drain_kept (State.lose_kept h1))))

theorem State.domainUp_kept {base s : State} (hk : Kept sk base s) (dom : Nat) (n : NvmRead) : Kept sk base (State.domainUp s dom n) := by
  unfold State.domainUp
  try dsimp only
  repeat' first
    | with_reducible assumption | with_reducible apply State.loadBlocks_kept | (intro _ _)
    | with_reducible refine Kept.ite (fun _ => ?_) (fun _ => ?_) | split
    | with_reducible refine Kept.mk_same ?_ rfl rfl rfl rfl rfl rfl rfl rfl rfl rfl rfl rfl

theorem execDomainRetry_kept (s : State) (dom : Nat) (good : Bool) (nvm : NvmRead) : KeptO sk s (execDomainRetry dom good nvm s) := by
  have hk : Kept sk s s := Kept.refl s
  unfold execDomainRetry
  try dsimp only
  repeat' first
    | with_reducible assumption | with_reducible apply KeptO.next | with_reducible exact KeptO.fault _
    | with_reducible apply State.domainLost_kept | with_reducible apply State.domainUp_kept | (intro _ _)
    | with_reducible refine Kept.ite (fun _ => ?_) (fun _ => ?_) | split
    | with_reducible refine Kept.mk_same ?_ rfl rfl rfl rfl rfl rfl rfl rfl rfl rfl rfl rfl

theorem execAlwaysOnPowerUp_kept (s : State) (mgmtSel : Bool) (addr : BitVec 3) : KeptO sk s (execAlwaysOnPowerUp mgmtSel addr s) := by
  have hk : Kept sk s s := Kept.refl s
  unfold execAlwaysOnPowerUp
  split
  · exact hk
  · exact ⟨⟨rfl, id, id, Nat.le_refl _, fun m => ⟨rfl, by show s.evt.hours ≤ s.evt.savedHours + 256; omega⟩⟩, hk.alarm, hk.sticky,
      hk.lockP, hk.lockS, hk.keys, hk.owner, hk.first⟩

theorem execInputBelow34V_kept (s : State) (mv : Nat) (hb : sk.bits = true) (hl : sk.locks = true) (hf : sk.first = true) :
    KeptO sk s (execInputBelow34V mv s) := by
  have nb : ∀ P : Prop, sk.bits = false → P := fun P h => by rw [hb] at h; cases h
  have nl : ∀ P : Prop, sk.locks = false → P := fun P h => by rw [hl] at h; cases h
  have nf : ∀ P : Prop, sk.first = false → P := fun P h => by rw [hf] at h; cases h
  have hk : Kept sk s s.railsOff := State.railsOff_kept (Kept.refl s)
  have he : s.railsOff.evt.powerLoss.hours = s.railsOff.evt.hours ∧ s.railsOff.evt.powerLoss.savedHours = s.railsOff.evt.savedHours := by
    unfold Recorder.powerLoss
    split <;> exact ⟨rfl, rfl⟩
  unfold execInputBelow34V
  split
  · exact Kept.refl s
  · exact ⟨⟨hk.queue, hk.mem, hk.isSealed, hk.rollback, fun m => by
        have := hk.hours m
        show s.railsOff.evt.powerLoss.savedHours = s.railsOff.evt.powerLoss.hours ∧ s.evt.hours ≤ s.railsOff.evt.powerLoss.hours
        rw [he.1, he.2]; exact this⟩,
      fun h => nb _ h, fun h => nb _ h, fun h => nl _ h, fun h => nl _ h, hk.keys, hk.owner, fun h => nf _ h⟩

theorem execPwrWarn_kept (s : State) (mv : Nat) : KeptO sk s (execPwrWarn mv s) := by
  have hk : Kept sk s s := Kept.refl s
  unfold execPwrWarn
  try dsimp only
  repeat' first
    | with_reducible assumption | with_reducible apply KeptO.next | with_reducible exact KeptO.fault _
    | with_reducible apply State.count_kept | with_reducible apply State.setSticky_kept | with_reducible apply State.raise_kept
    | with_reducible apply State.dutyFall_kept | (intro _ _) | with_reducible refine Kept.ite (fun _ => ?_) (fun _ => ?_) | split
    | with_reducible refine Kept.mk_same ?_ rfl rfl rfl rfl rfl rfl rfl rfl rfl rfl rfl rfl

theorem execBraceLeave_kept (s : State) (mv lowest us : Nat) : KeptO sk s (execBraceLeave mv lowest us s) := by
  have hk : Kept sk s s := Kept.refl s
  unfold execBraceLeave
  try dsimp only
  repeat' first
    | with_reducible assumption | with_reducible apply KeptO.next | with_reducible exact KeptO.fault _
    | with_reducible apply State.raise_kept | (intro _ _) | with_reducible refine Kept.ite (fun _ => ?_) (fun _ => ?_) | split
    | with_reducible refine Kept.mk_same ?_ rfl rfl rfl rfl rfl rfl rfl rfl rfl rfl rfl rfl

theorem execPwrUvReset_kept (s : State) (mv : Nat) : KeptO sk s (execPwrUvReset mv s) := by
  have hk : Kept sk s s := Kept.refl s
  unfold execPwrUvReset
  try dsimp only
  repeat' first
    | with_reducible assumption | with_reducible apply KeptO.next | with_reducible exact KeptO.fault _
    | with_reducible apply State.setSticky_kept | with_reducible apply State.raise_kept | with_reducible apply State.railsOff_kept
    | (intro _ _) | with_reducible refine Kept.ite (fun _ => ?_) (fun _ => ?_) | split
    | with_reducible refine Kept.mk_same ?_ rfl rfl rfl rfl rfl rfl rfl rfl rfl rfl rfl rfl

theorem execPwrOvw_kept (s : State) (mv : Nat) : KeptO sk s (execPwrOvw mv s) := by
  have hk : Kept sk s s := Kept.refl s
  unfold execPwrOvw
  try dsimp only
  repeat' first
    | with_reducible assumption | with_reducible apply KeptO.next | with_reducible exact KeptO.fault _
    | with_reducible apply State.setSticky_kept | with_reducible apply State.raise_kept | (intro _ _)
    | with_reducible refine Kept.ite (fun _ => ?_) (fun _ => ?_) | split
    | with_reducible refine Kept.mk_same ?_ rfl rfl rfl rfl rfl rfl rfl rfl rfl rfl rfl rfl

theorem execOvWarnClear_kept (s : State) (mv : Nat) : KeptO sk s (execOvWarnClear mv s) := by
  have hk : Kept sk s s := Kept.refl s
  unfold execOvWarnClear
  try dsimp only
  repeat' first
    | with_reducible assumption | with_reducible apply KeptO.next | with_reducible exact KeptO.fault _ | (intro _ _)
    | with_reducible refine Kept.ite (fun _ => ?_) (fun _ => ?_) | split
    | with_reducible refine Kept.mk_same ?_ rfl rfl rfl rfl rfl rfl rfl rfl rfl rfl rfl rfl

theorem execPwrOvShut_kept (s : State) (mv : Nat) : KeptO sk s (execPwrOvShut mv s) := by
  have hk : Kept sk s s := Kept.refl s
  unfold execPwrOvShut
  try dsimp only
  repeat' first
    | with_reducible assumption | with_reducible apply KeptO.next | with_reducible exact KeptO.fault _
    | with_reducible apply State.setSticky_kept | with_reducible apply State.raise_kept | with_reducible apply State.railsOff_kept
    | (intro _ _) | with_reducible refine Kept.ite (fun _ => ?_) (fun _ => ?_) | split
    | with_reducible refine Kept.mk_same ?_ rfl rfl rfl rfl rfl rfl rfl rfl rfl rfl rfl rfl

theorem execOvRestart_kept (s : State) (mv : Nat) : KeptO sk s (execOvRestart mv s) := by
  have hk : Kept sk s s := Kept.refl s
  unfold execOvRestart
  try dsimp only
  repeat' first
    | with_reducible assumption | with_reducible apply KeptO.next | with_reducible exact KeptO.fault _
    | with_reducible apply State.startRails_kept | (intro _ _) | with_reducible refine Kept.ite (fun _ => ?_) (fun _ => ?_) | split
    | with_reducible refine Kept.mk_same ?_ rfl rfl rfl rfl rfl rfl rfl rfl rfl rfl rfl rfl

theorem State.thermTrip_kept {base s : State} (hk : Kept sk base s) (src : ThermSource) (temp : Int) :
    Kept sk base (State.thermTrip s src temp) := by
  unfold State.thermTrip
  try dsimp only
  repeat' first
    | with_reducible assumption | with_reducible apply State.setSticky_kept | with_reducible apply State.raise_kept
    | with_reducible apply State.railsOff_kept | (intro _ _) | with_reducible refine Kept.ite (fun _ => ?_) (fun _ => ?_) | split
    | with_reducible refine Kept.mk_same ?_ rfl rfl rfl rfl rfl rfl rfl rfl rfl rfl rfl rfl

theorem execThermShutdown_kept (s : State) (src : ThermSource) (temp : Int) : KeptO sk s (execThermShutdown src temp s) := by
  have hk : Kept sk s s := Kept.refl s
  unfold execThermShutdown
  try dsimp only
  repeat' first
    | with_reducible assumption | with_reducible apply KeptO.next | with_reducible exact KeptO.fault _
    | with_reducible apply State.thermTrip_kept | (intro _ _) | with_reducible refine Kept.ite (fun _ => ?_) (fun _ => ?_) | split
    | with_reducible refine Kept.mk_same ?_ rfl rfl rfl rfl rfl rfl rfl rfl rfl rfl rfl rfl

theorem execDieTempSample_kept (s : State) (cd0 cd1 iod : Int) (clusters : List Int) :
    KeptO sk s (execDieTempSample cd0 cd1 iod clusters s) := by
  have hk : Kept sk s s := Kept.refl s
  unfold execDieTempSample
  try dsimp only
  repeat' first
    | with_reducible assumption | with_reducible apply KeptO.next | with_reducible exact KeptO.fault _
    | with_reducible apply State.dieTemps_kept | with_reducible apply State.thermTrip_kept | (intro _ _)
    | with_reducible refine Kept.ite (fun _ => ?_) (fun _ => ?_) | split
    | with_reducible refine Kept.mk_same ?_ rfl rfl rfl rfl rfl rfl rfl rfl rfl rfl rfl rfl

theorem execCoolantSample_kept (s : State) (inlet outlet : Int) : KeptO sk s (execCoolantSample inlet outlet s) := by
  have hk : Kept sk s s := Kept.refl s
  unfold execCoolantSample
  try dsimp only
  repeat' first
    | with_reducible assumption | with_reducible apply KeptO.next | with_reducible exact KeptO.fault _
    | with_reducible apply State.coolant_kept | with_reducible apply State.thermTrip_kept | (intro _ _)
    | with_reducible refine Kept.ite (fun _ => ?_) (fun _ => ?_) | split
    | with_reducible refine Kept.mk_same ?_ rfl rfl rfl rfl rfl rfl rfl rfl rfl rfl rfl rfl

theorem execMemTempSample_kept (s : State) (dev : Nat) (temp : Int) : KeptO sk s (execMemTempSample dev temp s) := by
  have hk : Kept sk s s := Kept.refl s
  unfold execMemTempSample
  try dsimp only
  repeat' first
    | with_reducible assumption | with_reducible apply KeptO.next | with_reducible exact KeptO.fault _
    | with_reducible apply State.memTempSample_kept | with_reducible apply State.thermTrip_kept | (intro _ _)
    | with_reducible refine Kept.ite (fun _ => ?_) (fun _ => ?_) | split
    | with_reducible refine Kept.mk_same ?_ rfl rfl rfl rfl rfl rfl rfl rfl rfl rfl rfl rfl

theorem State.failOver_kept {base s : State} (hk : Kept sk base s) : Kept sk base (State.failOver s) := by
  unfold State.failOver
  try dsimp only
  repeat' first
    | with_reducible assumption | with_reducible apply State.raise_kept | (intro _ _)
    | with_reducible refine Kept.ite (fun _ => ?_) (fun _ => ?_) | split
    | with_reducible refine Kept.mk_same ?_ rfl rfl rfl rfl rfl rfl rfl rfl rfl rfl rfl rfl

theorem State.refuseOld_kept {base s : State} (hk : Kept sk base s) (b ok : Bool) : Kept sk base (State.refuseOld s b ok) := by
  unfold State.refuseOld
  try dsimp only
  repeat' first
    | with_reducible assumption | with_reducible apply State.raise_kept | (intro _ _)
    | with_reducible refine Kept.ite (fun _ => ?_) (fun _ => ?_) | split
    | with_reducible refine Kept.mk_same ?_ rfl rfl rfl rfl rfl rfl rfl rfl rfl rfl rfl rfl

theorem State.bootWith_kept {base s : State} (hk : Kept sk base s) (aOk bOk : Bool) : Kept sk base (State.bootWith s aOk bOk) := by
  unfold State.bootWith
  try dsimp only
  repeat' first
    | with_reducible assumption | with_reducible apply State.stopStart_kept | with_reducible apply State.failOver_kept
    | with_reducible apply State.refuseOld_kept | (intro _ _) | with_reducible refine Kept.ite (fun _ => ?_) (fun _ => ?_) | split
    | with_reducible refine Kept.mk_same ?_ rfl rfl rfl rfl rfl rfl rfl rfl rfl rfl rfl rfl

theorem execFirmwareBoot_kept (s : State) (aOk bOk : Bool) : KeptO sk s (execFirmwareBoot aOk bOk s) := by
  have hk : Kept sk s s := Kept.refl s
  unfold execFirmwareBoot
  try dsimp only
  repeat' first
    | with_reducible assumption | with_reducible apply KeptO.next | with_reducible exact KeptO.fault _
    | with_reducible apply State.bootWith_kept | (intro _ _) | with_reducible refine Kept.ite (fun _ => ?_) (fun _ => ?_) | split
    | with_reducible refine Kept.mk_same ?_ rfl rfl rfl rfl rfl rfl rfl rfl rfl rfl rfl rfl

theorem State.copyFails_kept {base s : State} (hk : Kept sk base s) : Kept sk base (State.copyFails s) := by
  unfold State.copyFails
  try dsimp only
  repeat' first
    | with_reducible assumption | with_reducible apply State.stopStart_kept | with_reducible apply State.failOver_kept | (intro _ _)
    | with_reducible refine Kept.ite (fun _ => ?_) (fun _ => ?_) | split
    | with_reducible refine Kept.mk_same ?_ rfl rfl rfl rfl rfl rfl rfl rfl rfl rfl rfl rfl

theorem execBootWatchdog_kept (s : State) : KeptO sk s (execBootWatchdog s) := by
  have hk : Kept sk s s := Kept.refl s
  unfold execBootWatchdog
  try dsimp only
  repeat' first
    | with_reducible assumption | with_reducible apply KeptO.next | with_reducible exact KeptO.fault _
    | with_reducible apply State.copyFails_kept | (intro _ _) | with_reducible refine Kept.ite (fun _ => ?_) (fun _ => ?_) | split
    | with_reducible refine Kept.mk_same ?_ rfl rfl rfl rfl rfl rfl rfl rfl rfl rfl rfl rfl

theorem State.enterFault_kept {base s : State} (hk : Kept sk base s) : Kept sk base (State.enterFault s) := by
  unfold State.enterFault
  try dsimp only
  repeat' first
    | with_reducible assumption | with_reducible apply State.raise_kept | with_reducible apply State.setState_kept
    | with_reducible apply State.drain_kept | (intro _ _) | with_reducible refine Kept.ite (fun _ => ?_) (fun _ => ?_) | split
    | with_reducible refine Kept.mk_same ?_ rfl rfl rfl rfl rfl rfl rfl rfl rfl rfl rfl rfl

theorem execSysctlWatchdog_kept (s : State) : KeptO sk s (execSysctlWatchdog s) := by
  have hk : Kept sk s s := Kept.refl s
  unfold execSysctlWatchdog
  try dsimp only
  repeat' first
    | with_reducible assumption | with_reducible apply KeptO.next | with_reducible exact KeptO.fault _
    | with_reducible apply State.enterFault_kept | (intro _ _) | with_reducible refine Kept.ite (fun _ => ?_) (fun _ => ?_) | split
    | with_reducible refine Kept.mk_same ?_ rfl rfl rfl rfl rfl rfl rfl rfl rfl rfl rfl rfl

theorem State.nvmRefuses_kept {base s : State} (hk : Kept sk base s) : Kept sk base (State.nvmRefuses s) := by
  unfold State.nvmRefuses
  try dsimp only
  repeat' first
    | with_reducible assumption | with_reducible apply State.enterFault_kept | (intro _ _)
    | with_reducible refine Kept.ite (fun _ => ?_) (fun _ => ?_) | split
    | with_reducible refine Kept.mk_same ?_ rfl rfl rfl rfl rfl rfl rfl rfl rfl rfl rfl rfl

theorem execPageFlush_kept (s : State) (taken : Bool) : KeptO sk s (execPageFlush taken s) := by
  have hk : Kept sk s s := Kept.refl s
  unfold execPageFlush
  try dsimp only
  repeat' first
    | with_reducible assumption | with_reducible apply KeptO.next | with_reducible exact KeptO.fault _
    | with_reducible apply State.nvmRefuses_kept | (intro _ _) | with_reducible refine Kept.ite (fun _ => ?_) (fun _ => ?_) | split
    | with_reducible refine Kept.mk_same ?_ rfl rfl rfl rfl rfl rfl rfl rfl rfl rfl rfl rfl

theorem State.dueAt_kept {base s : State} (hk : Kept sk base s) (temp : Int) (l : List Nat) : Kept sk base (State.dueAt s temp l) := by
  induction l generalizing s temp with
  | nil =>
    unfold State.dueAt
    try dsimp only
    repeat' first
      | with_reducible assumption | with_reducible apply State.makeDue_kept | (intro _ _)
      | with_reducible refine Kept.ite (fun _ => ?_) (fun _ => ?_) | split
      | with_reducible refine Kept.mk_same ?_ rfl rfl rfl rfl rfl rfl rfl rfl rfl rfl rfl rfl
  | cons x r ih =>
    unfold State.dueAt
    try dsimp only
    repeat' first
      | with_reducible assumption | with_reducible apply ih | with_reducible apply State.makeDue_kept | (intro _ _)
      | with_reducible refine Kept.ite (fun _ => ?_) (fun _ => ?_) | split
      | with_reducible refine Kept.mk_same ?_ rfl rfl rfl rfl rfl rfl rfl rfl rfl rfl rfl rfl

theorem State.stepUtensel_kept {base s0 : State} (hk0 : Kept sk base s0) (o : StartObs) : Kept sk base (State.stepUtensel s0 o) := by
  unfold State.stepUtensel
  extract_lets s s1 s2
  have hk : Kept sk base s := State.openLog_kept hk0
  clear_value s
  have h1 : Kept sk base s1 := State.dueAt_kept (State.loadBlocks_kept hk _ _) _ _
  have h2 : Kept sk base s2 := Kept.foldl _ (fun _ _ h => State.startTraining_kept h _) _ _ h1
  clear_value s2
  exact Kept.ite (fun _ => State.copyFails_kept hk) (fun _ => Kept.ite (fun _ => State.enterFault_kept hk)
    (fun _ => Kept.mk_same h2 rfl rfl rfl rfl rfl rfl rfl rfl rfl rfl rfl rfl))

theorem State.stepMemory_kept {base s : State} (hk : Kept sk base s) (o : StartObs) : Kept sk base (State.stepMemory s o) := by
  unfold State.stepMemory
  extract_lets rate _ _ s1
  have h1 : Kept sk base s1 := Kept.store hk (fun m => ⟨m.1, m.2.1, Mem.wf_nil, m.2.2.2⟩) rfl rfl rfl rfl rfl
  exact Kept.ite (fun _ => State.stopStart_kept h1 _ _)
    (fun _ => Kept.mk_same h1 rfl rfl rfl rfl rfl rfl rfl rfl rfl rfl rfl rfl)

theorem State.stepTests_kept {base s : State} (hk : Kept sk base s) (o : StartObs) : Kept sk base (State.stepTests s o) := by
  unfold State.stepTests
  try dsimp only
  repeat' first
    | with_reducible assumption | with_reducible apply State.testFailures_kept | (intro _ _)
    | with_reducible refine Kept.ite (fun _ => ?_) (fun _ => ?_) | split
    | with_reducible refine Kept.mk_same ?_ rfl rfl rfl rfl rfl rfl rfl rfl rfl rfl rfl rfl

theorem State.startCores_kept {base s : State} (hk : Kept sk base s) (temp : Int) (cals : Tab CalObs) (l : List Nat) :
    Kept sk base (State.startCores s temp cals l) := by
  induction l generalizing s temp cals with
  | nil =>
    unfold State.startCores
    try dsimp only
    repeat' first
      | with_reducible assumption | with_reducible apply State.calWhole_kept | (intro _ _)
      | with_reducible refine Kept.ite (fun _ => ?_) (fun _ => ?_) | split
      | with_reducible refine Kept.mk_same ?_ rfl rfl rfl rfl rfl rfl rfl rfl rfl rfl rfl rfl
  | cons x r ih =>
    unfold State.startCores
    try dsimp only
    repeat' first
      | with_reducible assumption | with_reducible apply ih | with_reducible apply State.calWhole_kept | (intro _ _)
      | with_reducible refine Kept.ite (fun _ => ?_) (fun _ => ?_) | split
      | with_reducible refine Kept.mk_same ?_ rfl rfl rfl rfl rfl rfl rfl rfl rfl rfl rfl rfl

theorem State.stepCal_kept {base s : State} (hk : Kept sk base s) (o : StartObs) : Kept sk base (State.stepCal s o) := by
  unfold State.stepCal
  extract_lets s1
  have h1 : Kept sk base s1 := State.startCores_kept hk _ _ _
  clear_value s1
  exact Kept.ite (fun _ => hk) (fun _ => Kept.mk_same h1 rfl rfl rfl rfl rfl rfl rfl rfl rfl rfl rfl rfl)

theorem State.stepGood_kept {base s : State} (hk : Kept sk base s) : Kept sk base (State.stepGood s) := by
  have h1 := State.publish_kept hk
  unfold State.stepGood
  extract_lets s1
  refine ⟨⟨h1.queue, h1.mem, h1.isSealed, ?_, h1.hours⟩, h1.alarm, h1.sticky, h1.lockP, h1.lockS, h1.keys, h1.owner, h1.first⟩
  have : base.sec.rollback.toNat ≤ s1.sec.rollback.toNat := h1.rollback
  show base.sec.rollback.toNat ≤ (if s1.sec.rollback.toNat < s1.fwCopy.svn.toNat then s1.fwCopy.svn else s1.sec.rollback).toNat
  split <;> omega

theorem State.stepReady_kept {base s : State} (hk : Kept sk base s) : Kept sk base (State.stepReady s) := by
  unfold State.stepReady
  try dsimp only
  repeat' first
    | with_reducible assumption | with_reducible apply State.setState_kept | with_reducible apply State.drain_kept | (intro _ _)
    | with_reducible refine Kept.ite (fun _ => ?_) (fun _ => ?_) | split
    | with_reducible refine Kept.mk_same ?_ rfl rfl rfl rfl rfl rfl rfl rfl rfl rfl rfl rfl

theorem execStartupStep_kept (s : State) (o : StartObs) : KeptO sk s (execStartupStep o s) := by
  have hk : Kept sk s s := Kept.refl s
  unfold execStartupStep
  try dsimp only
  repeat' first
    | with_reducible assumption | with_reducible apply KeptO.next | with_reducible exact KeptO.fault _
    | with_reducible apply State.bootWith_kept | with_reducible apply State.stepUtensel_kept | with_reducible apply State.stepMemory_kept
    | with_reducible apply State.stepTests_kept | with_reducible apply State.stepCal_kept | with_reducible apply State.stepGood_kept
    | with_reducible apply State.stepReady_kept | (intro _ _) | with_reducible refine Kept.ite (fun _ => ?_) (fun _ => ?_) | split
    | with_reducible refine Kept.mk_same ?_ rfl rfl rfl rfl rfl rfl rfl rfl rfl rfl rfl rfl

theorem execSelfHeatTimeout_kept (s : State) : KeptO sk s (execSelfHeatTimeout s) := by
  have hk : Kept sk s s := Kept.refl s
  unfold execSelfHeatTimeout
  try dsimp only
  repeat' first
    | with_reducible assumption | with_reducible apply KeptO.next | with_reducible exact KeptO.fault _
    | with_reducible apply State.stopStart_kept | (intro _ _) | with_reducible refine Kept.ite (fun _ => ?_) (fun _ => ?_) | split
    | with_reducible refine Kept.mk_same ?_ rfl rfl rfl rfl rfl rfl rfl rfl rfl rfl rfl rfl

theorem execModReset_kept (s : State) : KeptO sk s (execModReset s) := by
  have hk : Kept sk s s := Kept.refl s
  unfold execModReset
  try dsimp only
  repeat' first
    | with_reducible assumption | with_reducible apply KeptO.next | with_reducible exact KeptO.fault _
    | with_reducible apply State.raise_kept | with_reducible apply State.railsOff_kept | (intro _ _)
    | with_reducible refine Kept.ite (fun _ => ?_) (fun _ => ?_) | split
    | with_reducible refine Kept.mk_same ?_ rfl rfl rfl rfl rfl rfl rfl rfl rfl rfl rfl rfl

theorem execModResetRelease_kept (s : State) : KeptO sk s (execModResetRelease s) := by
  have hk : Kept sk s s := Kept.refl s
  unfold execModResetRelease
  try dsimp only
  repeat' first
    | with_reducible assumption | with_reducible apply KeptO.next | with_reducible exact KeptO.fault _ | (intro _ _)
    | with_reducible refine Kept.ite (fun _ => ?_) (fun _ => ?_) | split
    | with_reducible refine Kept.mk_same ?_ rfl rfl rfl rfl rfl rfl rfl rfl rfl rfl rfl rfl

theorem State.resetFunction_kept {base s : State} (hk : Kept sk base s) : Kept sk base (State.resetFunction s) := by
  unfold State.resetFunction
  try dsimp only
  repeat' first
    | with_reducible assumption | with_reducible apply State.resetMailbox_kept | (intro _ _)
    | with_reducible refine Kept.ite (fun _ => ?_) (fun _ => ?_) | split
    | with_reducible refine Kept.mk_same ?_ rfl rfl rfl rfl rfl rfl rfl rfl rfl rfl rfl rfl

theorem execPerstAssert_kept (s : State) : KeptO sk s (execPerstAssert s) := by
  have hk : Kept sk s s := Kept.refl s
  unfold execPerstAssert
  try dsimp only
  repeat' first
    | with_reducible assumption | with_reducible apply KeptO.next | with_reducible exact KeptO.fault _
    | with_reducible apply State.resetFunction_kept | (intro _ _) | with_reducible refine Kept.ite (fun _ => ?_) (fun _ => ?_) | split
    | with_reducible refine Kept.mk_same ?_ rfl rfl rfl rfl rfl rfl rfl rfl rfl rfl rfl rfl

theorem execPerstRelease_kept (s : State) (width rate : Nat) : KeptO sk s (execPerstRelease width rate s) := by
  have hk : Kept sk s s := Kept.refl s
  unfold execPerstRelease
  try dsimp only
  repeat' first
    | with_reducible assumption | with_reducible apply KeptO.next | with_reducible exact KeptO.fault _
    | with_reducible apply State.raise_kept | (intro _ _) | with_reducible refine Kept.ite (fun _ => ?_) (fun _ => ?_) | split
    | with_reducible refine Kept.mk_same ?_ rfl rfl rfl rfl rfl rfl rfl rfl rfl rfl rfl rfl

theorem execFunctionLevelReset_kept (s : State) : KeptO sk s (execFunctionLevelReset s) := by
  have hk : Kept sk s s := Kept.refl s
  unfold execFunctionLevelReset
  try dsimp only
  repeat' first
    | with_reducible assumption | with_reducible apply KeptO.next | with_reducible exact KeptO.fault _
    | with_reducible apply State.resetFunction_kept | (intro _ _) | with_reducible refine Kept.ite (fun _ => ?_) (fun _ => ?_) | split
    | with_reducible refine Kept.mk_same ?_ rfl rfl rfl rfl rfl rfl rfl rfl rfl rfl rfl rfl

/-! ### Mgmt -/

theorem State.rspB_kept {base s : State} (hk : Kept sk base s) (status : Nat) (bs : List Byte) : Kept sk base (State.rspB s status bs) := by
  unfold State.rspB
  try dsimp only
  repeat' first
    | with_reducible assumption | with_reducible apply State.rsp_kept | (intro _ _)
    | with_reducible refine Kept.ite (fun _ => ?_) (fun _ => ?_) | split
    | with_reducible refine Kept.mk_same ?_ rfl rfl rfl rfl rfl rfl rfl rfl rfl rfl rfl rfl

theorem State.needRails_kept {base s : State} (hk : Kept sk base s) (busy : Nat) (t : State) (ht : Kept sk base t) :
    Kept sk base (State.needRails s busy t) := by
  unfold State.needRails
  exact Kept.ite (fun _ => hk) (fun _ => Kept.ite (fun _ => State.rsp_kept hk _ _) (fun _ => ht))

theorem State.needSession_kept {base s : State} (hk : Kept sk base s) (secured : Bool) (t : State) (ht : Kept sk base t) :
    Kept sk base (State.needSession s secured t) := by
  unfold State.needSession
  exact State.needRails_kept hk _ _ (Kept.ite (fun _ => ht) (fun _ => State.rsp_kept (State.raise_kept hk _ _) _ _))

theorem execLock_kept (s : State) (power take : Bool) (hlocks : sk.locks = true) : KeptO sk s (execLock power take s) := by
  have hk : Kept sk s s := Kept.refl s
  unfold execLock
  try dsimp only
  repeat' first
    | with_reducible assumption | with_reducible apply KeptO.next | with_reducible exact KeptO.fault _
    | with_reducible apply State.rsp_kept | with_reducible apply State.setLocks_kept | with_reducible apply State.needRails_kept
    | (intro _ _) | with_reducible refine Kept.ite (fun _ => ?_) (fun _ => ?_) | split
    | with_reducible refine Kept.mk_same ?_ rfl rfl rfl rfl rfl rfl rfl rfl rfl rfl rfl rfl

theorem State.releaseLatches_kept {base s : State} (hk : Kept sk base s) : Kept sk base (State.releaseLatches s) := by
  unfold State.releaseLatches
  try dsimp only
  repeat' first
    | with_reducible assumption | (intro _ _) | with_reducible refine Kept.ite (fun _ => ?_) (fun _ => ?_) | split
    | with_reducible refine Kept.mk_same ?_ rfl rfl rfl rfl rfl rfl rfl rfl rfl rfl rfl rfl

theorem execPowerOn_kept (s : State) : KeptO sk s (execPowerOn s) := by
  have hk : Kept sk s s := Kept.refl s
  unfold execPowerOn
  try dsimp only
  repeat' first
    | with_reducible assumption | with_reducible apply KeptO.next | with_reducible exact KeptO.fault _
    | with_reducible apply State.rsp_kept | with_reducible apply State.startRails_kept | with_reducible apply State.releaseLatches_kept
    | (intro _ _) | with_reducible refine Kept.ite (fun _ => ?_) (fun _ => ?_) | split
    | with_reducible refine Kept.mk_same ?_ rfl rfl rfl rfl rfl rfl rfl rfl rfl rfl rfl rfl

theorem execPowerOff_kept (s : State) : KeptO sk s (execPowerOff s) := by
  have hk : Kept sk s s := Kept.refl s
  unfold execPowerOff
  try dsimp only
  repeat' first
    | with_reducible assumption | with_reducible apply KeptO.next | with_reducible exact KeptO.fault _
    | with_reducible apply State.rsp_kept | with_reducible apply State.railsOff_kept | (intro _ _)
    | with_reducible refine Kept.ite (fun _ => ?_) (fun _ => ?_) | split
    | with_reducible refine Kept.mk_same ?_ rfl rfl rfl rfl rfl rfl rfl rfl rfl rfl rfl rfl

theorem execMgmtPowerLimit_kept (s : State) (watts : Word) : KeptO sk s (execMgmtPowerLimit watts s) := by
  have hk : Kept sk s s := Kept.refl s
  unfold execMgmtPowerLimit
  try dsimp only
  repeat' first
    | with_reducible assumption | with_reducible apply KeptO.next | with_reducible exact KeptO.fault _
    | with_reducible apply State.endLimits_kept | with_reducible apply State.rsp_kept | with_reducible apply State.needRails_kept
    | (intro _ _) | with_reducible refine Kept.ite (fun _ => ?_) (fun _ => ?_) | split
    | with_reducible refine Kept.mk_same ?_ rfl rfl rfl rfl rfl rfl rfl rfl rfl rfl rfl rfl

theorem execOwnerSet_kept (s : State) (secured : Bool) (cert : List Byte) (hb : sk.keys = true) :
    KeptO sk s (execOwnerSet secured cert s) := by
  have nb : ∀ P : Prop, sk.keys = false → P := fun P h => by rw [hb] at h; cases h
  have hk : Kept sk s s := Kept.refl s
  have h1 : Kept sk s { s with sec := { s.sec with owner := some cert } } :=
    ⟨⟨hk.queue, hk.mem, hk.isSealed, hk.rollback, hk.hours⟩, hk.alarm, hk.sticky, hk.lockP, hk.lockS, fun h => nb _ h, fun h => nb _ h,
        hk.first⟩
  unfold execOwnerSet
  exact Kept.ite (fun _ => State.needRails_kept hk _ _ (State.rsp_kept h1 _ _))
    (fun _ => State.needSession_kept hk _ _ (State.rsp_kept h1 _ _))

theorem State.unloadKey_kept {base s : State} (hk : Kept sk base s) (slot : Nat) : Kept sk base (State.unloadKey s slot) := by
  unfold State.unloadKey
  try dsimp only
  repeat' first
    | with_reducible assumption | with_reducible apply State.complete_kept | with_reducible apply State.abortList_kept | (intro _ _)
    | with_reducible refine Kept.ite (fun _ => ?_) (fun _ => ?_) | split
    | with_reducible refine Kept.mk_same ?_ rfl rfl rfl rfl rfl rfl rfl rfl rfl rfl rfl rfl

theorem execRecipeKey_kept (s : State) (secured : Bool) (slot : Nat) (key : Option (List Byte)) (hb : sk.keys = true) :
    KeptO sk s (execRecipeKey secured slot key s) := by
  have nb : ∀ P : Prop, sk.keys = false → P := fun P h => by rw [hb] at h; cases h
  have hk : Kept sk s s := Kept.refl s
  unfold execRecipeKey
  refine State.needSession_kept hk _ _ (Kept.ite (fun _ => State.rsp_kept hk _ _) (fun _ => ?_))
  refine State.rsp_kept (State.drain_kept (State.unloadKey_kept (State.raise_kept ?_ _ _) _)) _ _
  exact ⟨⟨hk.queue, hk.mem, hk.isSealed, hk.rollback, hk.hours⟩, hk.alarm, hk.sticky, hk.lockP, hk.lockS, fun h => nb _ h, fun h => nb _ h,
        hk.first⟩

theorem execLinkKey_kept (s : State) (secured : Bool) (port : Nat) (sending : Bool) (key : List Byte) (beat : Nat) :
    KeptO sk s (execLinkKey secured port sending key beat s) := by
  have hk : Kept sk s s := Kept.refl s
  unfold execLinkKey
  try dsimp only
  repeat' first
    | with_reducible assumption | with_reducible apply KeptO.next | with_reducible exact KeptO.fault _
    | with_reducible apply State.rsp_kept | with_reducible apply State.needSession_kept | (intro _ _)
    | with_reducible refine Kept.ite (fun _ => ?_) (fun _ => ?_) | split
    | with_reducible refine Kept.mk_same ?_ rfl rfl rfl rfl rfl rfl rfl rfl rfl rfl rfl rfl

theorem State.eraseKeys_kept {base s : State} (hk : Kept sk base s) (hb : sk.keys = true) : Kept sk base (State.eraseKeys s) := by
  have nb : ∀ P : Prop, sk.keys = false → P := fun P h => by rw [hb] at h; cases h
  unfold State.eraseKeys
  refine State.unloadKey_kept (State.unloadKey_kept (State.unloadKey_kept (State.unloadKey_kept (State.raise_kept ?_ _ _) _) _) _) _
  exact ⟨⟨hk.queue, hk.mem, hk.isSealed, hk.rollback, hk.hours⟩, hk.alarm, hk.sticky, hk.lockP, hk.lockS, fun h => nb _ h, fun h => nb _ h,
        hk.first⟩

theorem execDebugUnlock_kept (s : State) (secured doSeal : Bool) (hkeys : sk.keys = true) :
    KeptO sk s (execDebugUnlock secured doSeal s) := by
  have hk : Kept sk s s := Kept.refl s
  unfold execDebugUnlock
  try dsimp only
  repeat' first
    | with_reducible assumption | with_reducible apply KeptO.next | with_reducible exact KeptO.fault _
    | with_reducible apply State.drain_kept | with_reducible apply State.rsp_kept | with_reducible apply State.needSession_kept
    | with_reducible apply State.eraseKeys_kept | (intro _ _) | with_reducible refine Kept.ite (fun _ => ?_) (fun _ => ?_) | split
    | with_reducible refine Kept.mk_same ?_ rfl rfl rfl rfl rfl rfl rfl rfl rfl rfl rfl rfl

theorem State.clearFirst_kept {base s : State} (hk : Kept sk base s) (hb : sk.first = true) : Kept sk base (State.clearFirst s) := by
  have nb : ∀ P : Prop, sk.first = false → P := fun P h => by rw [hb] at h; cases h
  unfold State.clearFirst
  extract_lets t r
  have ht : Kept sk base t := State.drainLog_kept hk
  clear_value r t
  refine State.writeRecord_kept ?_ _
  exact ⟨⟨ht.queue, ht.mem, ht.isSealed, ht.rollback, ht.hours⟩, ht.alarm, ht.sticky, ht.lockP, ht.lockS, ht.keys, ht.owner,
        fun h => nb _ h⟩

theorem execRecClear_kept (s : State) (secured : Bool) (hb : sk.first = true) : KeptO sk s (execRecClear secured s) := by
  unfold execRecClear
  exact State.needSession_kept (Kept.refl s) _ _ (State.rsp_kept (State.clearFirst_kept (Kept.refl s) hb) _ _)

theorem execExportData_kept (s : State) (secured : Bool) (page : Nat) : KeptO sk s (execExportData secured page s) := by
  have hk : Kept sk s s := Kept.refl s
  unfold execExportData
  try dsimp only
  repeat' first
    | with_reducible assumption | with_reducible apply KeptO.next | with_reducible exact KeptO.fault _
    | with_reducible apply State.rsp_kept | with_reducible apply State.rspB_kept | with_reducible apply State.needSession_kept
    | (intro _ _) | with_reducible refine Kept.ite (fun _ => ?_) (fun _ => ?_) | split
    | with_reducible refine Kept.mk_same ?_ rfl rfl rfl rfl rfl rfl rfl rfl rfl rfl rfl rfl

theorem State.unitCleared_kept {base s : State} (hk : Kept sk base s) (cls unit : Nat) : Kept sk base (State.unitCleared s cls unit) := by
  unfold State.unitCleared
  try dsimp only
  repeat' first
    | with_reducible assumption | with_reducible apply State.putPort_kept | (intro _ _)
    | with_reducible refine Kept.ite (fun _ => ?_) (fun _ => ?_) | split
    | with_reducible refine Kept.mk_same ?_ rfl rfl rfl rfl rfl rfl rfl rfl rfl rfl rfl rfl

theorem execClassClear_kept (s : State) (secured : Bool) (cls unit : Nat) : KeptO sk s (execClassClear secured cls unit s) := by
  have hk : Kept sk s s := Kept.refl s
  unfold execClassClear
  try dsimp only
  repeat' first
    | with_reducible assumption | with_reducible apply KeptO.next | with_reducible exact KeptO.fault _
    | with_reducible apply State.clearHist_kept | with_reducible apply State.rsp_kept | with_reducible apply State.needSession_kept
    | with_reducible apply State.unitCleared_kept | (intro _ _) | with_reducible refine Kept.ite (fun _ => ?_) (fun _ => ?_) | split
    | with_reducible refine Kept.mk_same ?_ rfl rfl rfl rfl rfl rfl rfl rfl rfl rfl rfl rfl

theorem execMctpControl_kept (s : State) (c : MctpCtl) : KeptO sk s (execMctpControl c s) := by
  have hk : Kept sk s s := Kept.refl s
  unfold execMctpControl
  try dsimp only
  repeat' first
    | with_reducible assumption | with_reducible apply KeptO.next | with_reducible exact KeptO.fault _
    | with_reducible apply State.rsp_kept | with_reducible apply State.rspB_kept | (intro _ _)
    | with_reducible refine Kept.ite (fun _ => ?_) (fun _ => ?_) | split
    | with_reducible refine Kept.mk_same ?_ rfl rfl rfl rfl rfl rfl rfl rfl rfl rfl rfl rfl

theorem execMctpUnsupportedType_kept (s : State) (ty : Nat) : KeptO sk s (execMctpUnsupportedType ty s) := by
  have hk : Kept sk s s := Kept.refl s
  unfold execMctpUnsupportedType
  try dsimp only
  repeat' first
    | with_reducible assumption | with_reducible apply KeptO.next | with_reducible exact KeptO.fault _
    | with_reducible apply State.count_kept | (intro _ _) | with_reducible refine Kept.ite (fun _ => ?_) (fun _ => ?_) | split
    | with_reducible refine Kept.mk_same ?_ rfl rfl rfl rfl rfl rfl rfl rfl rfl rfl rfl rfl

theorem execPldmBase_kept (s : State) (cmd : Nat) : KeptO sk s (execPldmBase cmd s) := by
  have hk : Kept sk s s := Kept.refl s
  unfold execPldmBase
  try dsimp only
  repeat' first
    | with_reducible assumption | with_reducible apply KeptO.next | with_reducible exact KeptO.fault _
    | with_reducible apply State.rsp_kept | with_reducible apply State.rspB_kept | (intro _ _)
    | with_reducible refine Kept.ite (fun _ => ?_) (fun _ => ?_) | split
    | with_reducible refine Kept.mk_same ?_ rfl rfl rfl rfl rfl rfl rfl rfl rfl rfl rfl rfl

theorem execPldmSensorRead_kept (s : State) (id : Nat) : KeptO sk s (execPldmSensorRead id s) := by
  have hk : Kept sk s s := Kept.refl s
  unfold execPldmSensorRead
  try dsimp only
  repeat' first
    | with_reducible assumption | with_reducible apply KeptO.next | with_reducible exact KeptO.fault _
    | with_reducible apply State.draw_kept | with_reducible apply State.rsp_kept | (intro _ _)
    | with_reducible refine Kept.ite (fun _ => ?_) (fun _ => ?_) | split
    | with_reducible refine Kept.mk_same ?_ rfl rfl rfl rfl rfl rfl rfl rfl rfl rfl rfl rfl

theorem execPldmUnsupportedType_kept (s : State) (ty : Nat) : KeptO sk s (execPldmUnsupportedType ty s) := by
  have hk : Kept sk s s := Kept.refl s
  unfold execPldmUnsupportedType
  try dsimp only
  repeat' first
    | with_reducible assumption | with_reducible apply KeptO.next | with_reducible exact KeptO.fault _
    | with_reducible apply State.rsp_kept | with_reducible apply State.needRails_kept | (intro _ _)
    | with_reducible refine Kept.ite (fun _ => ?_) (fun _ => ?_) | split
    | with_reducible refine Kept.mk_same ?_ rfl rfl rfl rfl rfl rfl rfl rfl rfl rfl rfl rfl

theorem Sec.putInactive_keeps (c : Sec) (f : FwCopy) : (c.putInactive f).debug = c.debug ∧ (c.putInactive f).rollback = c.rollback ∧
    (c.putInactive f).keys = c.keys ∧ (c.putInactive f).owner = c.owner := by
  unfold Sec.putInactive
  split <;> exact ⟨rfl, rfl, rfl, rfl⟩

theorem State.imageDone_kept {base s : State} (hk : Kept sk base s) (ok : Bool) (svn build : Half) :
    Kept sk base (State.imageDone s ok svn build) := by
  unfold State.imageDone
  extract_lets _ s1
  have h1 : Kept sk base s1 := Kept.mk_same hk rfl rfl rfl rfl rfl rfl rfl rfl rfl rfl rfl rfl
  refine Kept.ite (fun _ => State.rsp_kept (State.raise_kept h1 _ _) _ _) (fun _ => Kept.ite (fun _ => State.rsp_kept h1 _ _)
    (fun _ => State.rsp_kept ?_ _ _))
  have := Sec.putInactive_keeps s1.sec { svn := svn, build := build, valid := true, hash := Config.sha384 s.sbm.fwImage }
  exact Kept.mk_same h1 rfl this.1 this.2.1 this.2.2.1 this.2.2.2 rfl rfl rfl rfl rfl rfl rfl

theorem execPldmFirmwareUpdate_kept (s : State) (c : FwCmd) : KeptO sk s (execPldmFirmwareUpdate c s) := by
  have hk : Kept sk s s := Kept.refl s
  unfold execPldmFirmwareUpdate
  refine State.needRails_kept hk _ _ ?_
  split
  · refine State.rsp_kept ?_ _ _
    exact Kept.mk_same hk rfl rfl rfl rfl rfl rfl rfl rfl rfl rfl rfl rfl
  · have := Sec.putInactive_keeps s.sec { s.sec.inactive with valid := false }
    refine State.rsp_kept ?_ _ _
    exact Kept.mk_same hk rfl this.1 this.2.1 this.2.2.1 this.2.2.2 rfl rfl rfl rfl rfl rfl rfl
  · exact State.imageDone_kept hk _ _ _

theorem execActivateFirmware_kept (s : State) (selfContained : Bool) : KeptO sk s (execActivateFirmware selfContained s) := by
  have hk : Kept sk s s := Kept.refl s
  unfold execActivateFirmware
  try dsimp only
  repeat' first
    | with_reducible assumption | with_reducible apply KeptO.next | with_reducible exact KeptO.fault _
    | with_reducible apply State.raise_kept | with_reducible apply State.rsp_kept | with_reducible apply State.railsOff_kept
    | with_reducible apply State.startRails_kept | with_reducible apply State.needRails_kept | (intro _ _)
    | with_reducible refine Kept.ite (fun _ => ?_) (fun _ => ?_) | split
    | with_reducible refine Kept.mk_same ?_ rfl rfl rfl rfl rfl rfl rfl rfl rfl rfl rfl rfl

theorem execSpdmGetCertificate_kept (s : State) : KeptO sk s (execSpdmGetCertificate s) := by
  have hk : Kept sk s s := Kept.refl s
  unfold execSpdmGetCertificate
  try dsimp only
  repeat' first
    | with_reducible assumption | with_reducible apply KeptO.next | with_reducible exact KeptO.fault _
    | with_reducible apply State.rspB_kept | with_reducible apply State.needRails_kept | (intro _ _)
    | with_reducible refine Kept.ite (fun _ => ?_) (fun _ => ?_) | split
    | with_reducible refine Kept.mk_same ?_ rfl rfl rfl rfl rfl rfl rfl rfl rfl rfl rfl rfl

theorem execSpdmChallenge_kept (s : State) (nonce : List Byte) : KeptO sk s (execSpdmChallenge nonce s) := by
  have hk : Kept sk s s := Kept.refl s
  unfold execSpdmChallenge
  try dsimp only
  repeat' first
    | with_reducible assumption | with_reducible apply KeptO.next | with_reducible exact KeptO.fault _
    | with_reducible apply State.rspB_kept | with_reducible apply State.needRails_kept | (intro _ _)
    | with_reducible refine Kept.ite (fun _ => ?_) (fun _ => ?_) | split
    | with_reducible refine Kept.mk_same ?_ rfl rfl rfl rfl rfl rfl rfl rfl rfl rfl rfl rfl

theorem execSpdmGetMeasurements_kept (s : State) (nonce : List Byte) : KeptO sk s (execSpdmGetMeasurements nonce s) := by
  have hk : Kept sk s s := Kept.refl s
  unfold execSpdmGetMeasurements
  try dsimp only
  repeat' first
    | with_reducible assumption | with_reducible apply KeptO.next | with_reducible exact KeptO.fault _
    | with_reducible apply State.rspB_kept | with_reducible apply State.needRails_kept | (intro _ _)
    | with_reducible refine Kept.ite (fun _ => ?_) (fun _ => ?_) | split
    | with_reducible refine Kept.mk_same ?_ rfl rfl rfl rfl rfl rfl rfl rfl rfl rfl rfl rfl

theorem execSpdmKeyExchange_kept (s : State) (chains : Bool) : KeptO sk s (execSpdmKeyExchange chains s) := by
  have hk : Kept sk s s := Kept.refl s
  unfold execSpdmKeyExchange
  try dsimp only
  repeat' first
    | with_reducible assumption | with_reducible apply KeptO.next | with_reducible exact KeptO.fault _
    | with_reducible apply State.rsp_kept | with_reducible apply State.rspB_kept | with_reducible apply State.needRails_kept | (intro _ _)
    | with_reducible refine Kept.ite (fun _ => ?_) (fun _ => ?_) | split
    | with_reducible refine Kept.mk_same ?_ rfl rfl rfl rfl rfl rfl rfl rfl rfl rfl rfl rfl

end Sys2Proof.Machine
end

