-- ==== Sys2Proof/Laws/State.lean ====
section
/-! SUPPORT. What each shared operation leaves as it was, one lemma for each field of the state, so that no later proof unfolds a
record update; and what the COUNT registers and alarm bits hold after an event. -/

namespace Sys2Proof.Machine

-- Every lemma has the same proof, whose steps serve some operations and not others.
set_option linter.unusedTactic false
set_option linter.unreachableTactic false

@[simp] theorem State.count_pending (s : State) (off n : Nat) : (s.count off n).pending = s.pending := by
  unfold State.count; split <;> rfl
@[simp] theorem State.count_hif (s : State) (off n : Nat) : (s.count off n).hif = s.hif := by
  unfold State.count; split <;> rfl
@[simp] theorem State.count_sbm (s : State) (off n : Nat) : (s.count off n).sbm = s.sbm := by
  unfold State.count; split <;> rfl
@[simp] theorem State.count_pwr (s : State) (off n : Nat) : (s.count off n).pwr = s.pwr := by
  unfold State.count; split <;> rfl
@[simp] theorem State.count_evt (s : State) (off n : Nat) : (s.count off n).evt = s.evt := by
  unfold State.count; split <;> rfl
@[simp] theorem State.count_sec (s : State) (off n : Nat) : (s.count off n).sec = s.sec := by
  unfold State.count; split <;> rfl
@[simp] theorem State.count_ana (s : State) (off n : Nat) : (s.count off n).ana = s.ana := by
  unfold State.count; split <;> rfl
@[simp] theorem State.count_cal (s : State) (off n : Nat) : (s.count off n).cal = s.cal := by
  unfold State.count; split <;> rfl
@[simp] theorem State.count_mem (s : State) (off n : Nat) : (s.count off n).mem = s.mem := by
  unfold State.count; split <;> rfl
@[simp] theorem State.count_store (s : State) (off n : Nat) : (s.count off n).store = s.store := by
  unfold State.count; split <;> rfl
@[simp] theorem State.count_lnk (s : State) (off n : Nat) : (s.count off n).lnk = s.lnk := by
  unfold State.count; split <;> rfl
@[simp] theorem State.count_rcp (s : State) (off n : Nat) : (s.count off n).rcp = s.rcp := by
  unfold State.count; split <;> rfl
@[simp] theorem State.count_stp (s : State) (off n : Nat) : (s.count off n).stp = s.stp := by
  unfold State.count; split <;> rfl
@[simp] theorem State.count_upd (s : State) (off n : Nat) : (s.count off n).upd = s.upd := by
  unfold State.count; split <;> rfl
@[simp] theorem State.count_stk (s : State) (off n : Nat) : (s.count off n).stk = s.stk := by
  unfold State.count; split <;> rfl
@[simp] theorem State.count_coll (s : State) (off n : Nat) : (s.count off n).coll = s.coll := by
  unfold State.count; split <;> rfl
@[simp] theorem State.count_flt (s : State) (off n : Nat) : (s.count off n).flt = s.flt := by
  unfold State.count; split <;> rfl
@[simp] theorem State.count_free (s : State) (off n : Nat) : (s.count off n).free = s.free := by
  unfold State.count; split <;> rfl
@[simp] theorem State.msi_pending (s : State) (v : Nat) : (s.msi v).pending = s.pending := rfl
@[simp] theorem State.msi_ctr (s : State) (v : Nat) : (s.msi v).ctr = s.ctr := rfl
@[simp] theorem State.msi_sbm (s : State) (v : Nat) : (s.msi v).sbm = s.sbm := rfl
@[simp] theorem State.msi_pwr (s : State) (v : Nat) : (s.msi v).pwr = s.pwr := rfl
@[simp] theorem State.msi_evt (s : State) (v : Nat) : (s.msi v).evt = s.evt := rfl
@[simp] theorem State.msi_sec (s : State) (v : Nat) : (s.msi v).sec = s.sec := rfl
@[simp] theorem State.msi_ana (s : State) (v : Nat) : (s.msi v).ana = s.ana := rfl
@[simp] theorem State.msi_cal (s : State) (v : Nat) : (s.msi v).cal = s.cal := rfl
@[simp] theorem State.msi_mem (s : State) (v : Nat) : (s.msi v).mem = s.mem := rfl
@[simp] theorem State.msi_store (s : State) (v : Nat) : (s.msi v).store = s.store := rfl
@[simp] theorem State.msi_lnk (s : State) (v : Nat) : (s.msi v).lnk = s.lnk := rfl
@[simp] theorem State.msi_rcp (s : State) (v : Nat) : (s.msi v).rcp = s.rcp := rfl
@[simp] theorem State.msi_stp (s : State) (v : Nat) : (s.msi v).stp = s.stp := rfl
@[simp] theorem State.msi_upd (s : State) (v : Nat) : (s.msi v).upd = s.upd := rfl
@[simp] theorem State.msi_stk (s : State) (v : Nat) : (s.msi v).stk = s.stk := rfl
@[simp] theorem State.msi_coll (s : State) (v : Nat) : (s.msi v).coll = s.coll := rfl
@[simp] theorem State.msi_flt (s : State) (v : Nat) : (s.msi v).flt = s.flt := rfl
@[simp] theorem State.msi_free (s : State) (v : Nat) : (s.msi v).free = s.free := rfl
@[simp] theorem State.setIrq_pending (s : State) (i : Nat) : (s.setIrq i).pending = s.pending := by
  unfold State.setIrq; try dsimp only
  repeat' split
  all_goals first | rfl | simp
@[simp] theorem State.setIrq_ctr (s : State) (i : Nat) : (s.setIrq i).ctr = s.ctr := by
  unfold State.setIrq; try dsimp only
  repeat' split
  all_goals first | rfl | simp
@[simp] theorem State.setIrq_sbm (s : State) (i : Nat) : (s.setIrq i).sbm = s.sbm := by
  unfold State.setIrq; try dsimp only
  repeat' split
  all_goals first | rfl | simp
@[simp] theorem State.setIrq_pwr (s : State) (i : Nat) : (s.setIrq i).pwr = s.pwr := by
  unfold State.setIrq; try dsimp only
  repeat' split
  all_goals first | rfl | simp
@[simp] theorem State.setIrq_evt (s : State) (i : Nat) : (s.setIrq i).evt = s.evt := by
  unfold State.setIrq; try dsimp only
  repeat' split
  all_goals first | rfl | simp
@[simp] theorem State.setIrq_sec (s : State) (i : Nat) : (s.setIrq i).sec = s.sec := by
  unfold State.setIrq; try dsimp only
  repeat' split
  all_goals first | rfl | simp
@[simp] theorem State.setIrq_ana (s : State) (i : Nat) : (s.setIrq i).ana = s.ana := by
  unfold State.setIrq; try dsimp only
  repeat' split
  all_goals first | rfl | simp
@[simp] theorem State.setIrq_cal (s : State) (i : Nat) : (s.setIrq i).cal = s.cal := by
  unfold State.setIrq; try dsimp only
  repeat' split
  all_goals first | rfl | simp
@[simp] theorem State.setIrq_mem (s : State) (i : Nat) : (s.setIrq i).mem = s.mem := by
  unfold State.setIrq; try dsimp only
  repeat' split
  all_goals first | rfl | simp
@[simp] theorem State.setIrq_store (s : State) (i : Nat) : (s.setIrq i).store = s.store := by
  unfold State.setIrq; try dsimp only
  repeat' split
  all_goals first | rfl | simp
@[simp] theorem State.setIrq_lnk (s : State) (i : Nat) : (s.setIrq i).lnk = s.lnk := by
  unfold State.setIrq; try dsimp only
  repeat' split
  all_goals first | rfl | simp
@[simp] theorem State.setIrq_rcp (s : State) (i : Nat) : (s.setIrq i).rcp = s.rcp := by
  unfold State.setIrq; try dsimp only
  repeat' split
  all_goals first | rfl | simp
@[simp] theorem State.setIrq_stp (s : State) (i : Nat) : (s.setIrq i).stp = s.stp := by
  unfold State.setIrq; try dsimp only
  repeat' split
  all_goals first | rfl | simp
@[simp] theorem State.setIrq_upd (s : State) (i : Nat) : (s.setIrq i).upd = s.upd := by
  unfold State.setIrq; try dsimp only
  repeat' split
  all_goals first | rfl | simp
@[simp] theorem State.setIrq_stk (s : State) (i : Nat) : (s.setIrq i).stk = s.stk := by
  unfold State.setIrq; try dsimp only
  repeat' split
  all_goals first | rfl | simp
@[simp] theorem State.setIrq_coll (s : State) (i : Nat) : (s.setIrq i).coll = s.coll := by
  unfold State.setIrq; try dsimp only
  repeat' split
  all_goals first | rfl | simp
@[simp] theorem State.setIrq_flt (s : State) (i : Nat) : (s.setIrq i).flt = s.flt := by
  unfold State.setIrq; try dsimp only
  repeat' split
  all_goals first | rfl | simp
@[simp] theorem State.setIrq_free (s : State) (i : Nat) : (s.setIrq i).free = s.free := by
  unfold State.setIrq; try dsimp only
  repeat' split
  all_goals first | rfl | simp
@[simp] theorem State.alert_pending (s : State) (m : Nat) : (s.alert m).pending = s.pending := by
  unfold State.alert; try dsimp only
  repeat' split
  all_goals first | rfl | simp
@[simp] theorem State.alert_ctr (s : State) (m : Nat) : (s.alert m).ctr = s.ctr := by
  unfold State.alert; try dsimp only
  repeat' split
  all_goals first | rfl | simp
@[simp] theorem State.alert_sbm (s : State) (m : Nat) : (s.alert m).sbm = s.sbm := by
  unfold State.alert; try dsimp only
  repeat' split
  all_goals first | rfl | simp
@[simp] theorem State.alert_pwr (s : State) (m : Nat) : (s.alert m).pwr = s.pwr := by
  unfold State.alert; try dsimp only
  repeat' split
  all_goals first | rfl | simp
@[simp] theorem State.alert_evt (s : State) (m : Nat) : (s.alert m).evt = s.evt := by
  unfold State.alert; try dsimp only
  repeat' split
  all_goals first | rfl | simp
@[simp] theorem State.alert_sec (s : State) (m : Nat) : (s.alert m).sec = s.sec := by
  unfold State.alert; try dsimp only
  repeat' split
  all_goals first | rfl | simp
@[simp] theorem State.alert_ana (s : State) (m : Nat) : (s.alert m).ana = s.ana := by
  unfold State.alert; try dsimp only
  repeat' split
  all_goals first | rfl | simp
@[simp] theorem State.alert_cal (s : State) (m : Nat) : (s.alert m).cal = s.cal := by
  unfold State.alert; try dsimp only
  repeat' split
  all_goals first | rfl | simp
@[simp] theorem State.alert_mem (s : State) (m : Nat) : (s.alert m).mem = s.mem := by
  unfold State.alert; try dsimp only
  repeat' split
  all_goals first | rfl | simp
@[simp] theorem State.alert_store (s : State) (m : Nat) : (s.alert m).store = s.store := by
  unfold State.alert; try dsimp only
  repeat' split
  all_goals first | rfl | simp
@[simp] theorem State.alert_lnk (s : State) (m : Nat) : (s.alert m).lnk = s.lnk := by
  unfold State.alert; try dsimp only
  repeat' split
  all_goals first | rfl | simp
@[simp] theorem State.alert_rcp (s : State) (m : Nat) : (s.alert m).rcp = s.rcp := by
  unfold State.alert; try dsimp only
  repeat' split
  all_goals first | rfl | simp
@[simp] theorem State.alert_stp (s : State) (m : Nat) : (s.alert m).stp = s.stp := by
  unfold State.alert; try dsimp only
  repeat' split
  all_goals first | rfl | simp
@[simp] theorem State.alert_upd (s : State) (m : Nat) : (s.alert m).upd = s.upd := by
  unfold State.alert; try dsimp only
  repeat' split
  all_goals first | rfl | simp
@[simp] theorem State.alert_stk (s : State) (m : Nat) : (s.alert m).stk = s.stk := by
  unfold State.alert; try dsimp only
  repeat' split
  all_goals first | rfl | simp
@[simp] theorem State.alert_coll (s : State) (m : Nat) : (s.alert m).coll = s.coll := by
  unfold State.alert; try dsimp only
  repeat' split
  all_goals first | rfl | simp
@[simp] theorem State.alert_flt (s : State) (m : Nat) : (s.alert m).flt = s.flt := by
  unfold State.alert; try dsimp only
  repeat' split
  all_goals first | rfl | simp
@[simp] theorem State.alert_free (s : State) (m : Nat) : (s.alert m).free = s.free := by
  unfold State.alert; try dsimp only
  repeat' split
  all_goals first | rfl | simp
@[simp] theorem State.setSticky_pending (s : State) (i : Nat) : (s.setSticky i).pending = s.pending := by
  unfold State.setSticky; try dsimp only
  repeat' split
  all_goals first | rfl | simp
@[simp] theorem State.setSticky_ctr (s : State) (i : Nat) : (s.setSticky i).ctr = s.ctr := by
  unfold State.setSticky; try dsimp only
  repeat' split
  all_goals first | rfl | simp
@[simp] theorem State.setSticky_sbm (s : State) (i : Nat) : (s.setSticky i).sbm = s.sbm := by
  unfold State.setSticky; try dsimp only
  repeat' split
  all_goals first | rfl | simp
@[simp] theorem State.setSticky_evt (s : State) (i : Nat) : (s.setSticky i).evt = s.evt := by
  unfold State.setSticky; try dsimp only
  repeat' split
  all_goals first | rfl | simp
@[simp] theorem State.setSticky_sec (s : State) (i : Nat) : (s.setSticky i).sec = s.sec := by
  unfold State.setSticky; try dsimp only
  repeat' split
  all_goals first | rfl | simp
@[simp] theorem State.setSticky_ana (s : State) (i : Nat) : (s.setSticky i).ana = s.ana := by
  unfold State.setSticky; try dsimp only
  repeat' split
  all_goals first | rfl | simp
@[simp] theorem State.setSticky_cal (s : State) (i : Nat) : (s.setSticky i).cal = s.cal := by
  unfold State.setSticky; try dsimp only
  repeat' split
  all_goals first | rfl | simp
@[simp] theorem State.setSticky_mem (s : State) (i : Nat) : (s.setSticky i).mem = s.mem := by
  unfold State.setSticky; try dsimp only
  repeat' split
  all_goals first | rfl | simp
@[simp] theorem State.setSticky_store (s : State) (i : Nat) : (s.setSticky i).store = s.store := by
  unfold State.setSticky; try dsimp only
  repeat' split
  all_goals first | rfl | simp
@[simp] theorem State.setSticky_lnk (s : State) (i : Nat) : (s.setSticky i).lnk = s.lnk := by
  unfold State.setSticky; try dsimp only
  repeat' split
  all_goals first | rfl | simp
@[simp] theorem State.setSticky_rcp (s : State) (i : Nat) : (s.setSticky i).rcp = s.rcp := by
  unfold State.setSticky; try dsimp only
  repeat' split
  all_goals first | rfl | simp
@[simp] theorem State.setSticky_stp (s : State) (i : Nat) : (s.setSticky i).stp = s.stp := by
  unfold State.setSticky; try dsimp only
  repeat' split
  all_goals first | rfl | simp
@[simp] theorem State.setSticky_upd (s : State) (i : Nat) : (s.setSticky i).upd = s.upd := by
  unfold State.setSticky; try dsimp only
  repeat' split
  all_goals first | rfl | simp
@[simp] theorem State.setSticky_stk (s : State) (i : Nat) : (s.setSticky i).stk = s.stk := by
  unfold State.setSticky; try dsimp only
  repeat' split
  all_goals first | rfl | simp
@[simp] theorem State.setSticky_coll (s : State) (i : Nat) : (s.setSticky i).coll = s.coll := by
  unfold State.setSticky; try dsimp only
  repeat' split
  all_goals first | rfl | simp
@[simp] theorem State.setSticky_flt (s : State) (i : Nat) : (s.setSticky i).flt = s.flt := by
  unfold State.setSticky; try dsimp only
  repeat' split
  all_goals first | rfl | simp
@[simp] theorem State.setSticky_free (s : State) (i : Nat) : (s.setSticky i).free = s.free := by
  unfold State.setSticky; try dsimp only
  repeat' split
  all_goals first | rfl | simp
@[simp] theorem State.setAlarm_pending (s : State) (c : Nat) : (s.setAlarm c).pending = s.pending := by
  unfold State.setAlarm; try dsimp only
  repeat' split
  all_goals first | rfl | simp
@[simp] theorem State.setAlarm_ctr (s : State) (c : Nat) : (s.setAlarm c).ctr = s.ctr := by
  unfold State.setAlarm; try dsimp only
  repeat' split
  all_goals first | rfl | simp
@[simp] theorem State.setAlarm_sbm (s : State) (c : Nat) : (s.setAlarm c).sbm = s.sbm := by
  unfold State.setAlarm; try dsimp only
  repeat' split
  all_goals first | rfl | simp
@[simp] theorem State.setAlarm_pwr (s : State) (c : Nat) : (s.setAlarm c).pwr = s.pwr := by
  unfold State.setAlarm; try dsimp only
  repeat' split
  all_goals first | rfl | simp
@[simp] theorem State.setAlarm_sec (s : State) (c : Nat) : (s.setAlarm c).sec = s.sec := by
  unfold State.setAlarm; try dsimp only
  repeat' split
  all_goals first | rfl | simp
@[simp] theorem State.setAlarm_ana (s : State) (c : Nat) : (s.setAlarm c).ana = s.ana := by
  unfold State.setAlarm; try dsimp only
  repeat' split
  all_goals first | rfl | simp
@[simp] theorem State.setAlarm_cal (s : State) (c : Nat) : (s.setAlarm c).cal = s.cal := by
  unfold State.setAlarm; try dsimp only
  repeat' split
  all_goals first | rfl | simp
@[simp] theorem State.setAlarm_mem (s : State) (c : Nat) : (s.setAlarm c).mem = s.mem := by
  unfold State.setAlarm; try dsimp only
  repeat' split
  all_goals first | rfl | simp
@[simp] theorem State.setAlarm_store (s : State) (c : Nat) : (s.setAlarm c).store = s.store := by
  unfold State.setAlarm; try dsimp only
  repeat' split
  all_goals first | rfl | simp
@[simp] theorem State.setAlarm_lnk (s : State) (c : Nat) : (s.setAlarm c).lnk = s.lnk := by
  unfold State.setAlarm; try dsimp only
  repeat' split
  all_goals first | rfl | simp
@[simp] theorem State.setAlarm_rcp (s : State) (c : Nat) : (s.setAlarm c).rcp = s.rcp := by
  unfold State.setAlarm; try dsimp only
  repeat' split
  all_goals first | rfl | simp
@[simp] theorem State.setAlarm_stp (s : State) (c : Nat) : (s.setAlarm c).stp = s.stp := by
  unfold State.setAlarm; try dsimp only
  repeat' split
  all_goals first | rfl | simp
@[simp] theorem State.setAlarm_upd (s : State) (c : Nat) : (s.setAlarm c).upd = s.upd := by
  unfold State.setAlarm; try dsimp only
  repeat' split
  all_goals first | rfl | simp
@[simp] theorem State.setAlarm_stk (s : State) (c : Nat) : (s.setAlarm c).stk = s.stk := by
  unfold State.setAlarm; try dsimp only
  repeat' split
  all_goals first | rfl | simp
@[simp] theorem State.setAlarm_coll (s : State) (c : Nat) : (s.setAlarm c).coll = s.coll := by
  unfold State.setAlarm; try dsimp only
  repeat' split
  all_goals first | rfl | simp
@[simp] theorem State.setAlarm_flt (s : State) (c : Nat) : (s.setAlarm c).flt = s.flt := by
  unfold State.setAlarm; try dsimp only
  repeat' split
  all_goals first | rfl | simp
@[simp] theorem State.setAlarm_free (s : State) (c : Nat) : (s.setAlarm c).free = s.free := by
  unfold State.setAlarm; try dsimp only
  repeat' split
  all_goals first | rfl | simp
@[simp] theorem State.record_pending (s : State) (r : Record) (unit : Nat) : (s.record r unit).pending = s.pending := by
  unfold State.record; dsimp only
  repeat' split
  all_goals first | rfl | simp
@[simp] theorem State.record_sbm (s : State) (r : Record) (unit : Nat) : (s.record r unit).sbm = s.sbm := by
  unfold State.record; dsimp only
  repeat' split
  all_goals first | rfl | simp
@[simp] theorem State.record_pwr (s : State) (r : Record) (unit : Nat) : (s.record r unit).pwr = s.pwr := by
  unfold State.record; dsimp only
  repeat' split
  all_goals first | rfl | simp
@[simp] theorem State.record_sec (s : State) (r : Record) (unit : Nat) : (s.record r unit).sec = s.sec := by
  unfold State.record; dsimp only
  repeat' split
  all_goals first | rfl | simp
@[simp] theorem State.record_ana (s : State) (r : Record) (unit : Nat) : (s.record r unit).ana = s.ana := by
  unfold State.record; dsimp only
  repeat' split
  all_goals first | rfl | simp
@[simp] theorem State.record_cal (s : State) (r : Record) (unit : Nat) : (s.record r unit).cal = s.cal := by
  unfold State.record; dsimp only
  repeat' split
  all_goals first | rfl | simp
@[simp] theorem State.record_mem (s : State) (r : Record) (unit : Nat) : (s.record r unit).mem = s.mem := by
  unfold State.record; dsimp only
  repeat' split
  all_goals first | rfl | simp
@[simp] theorem State.record_store (s : State) (r : Record) (unit : Nat) : (s.record r unit).store = s.store := by
  unfold State.record; dsimp only
  repeat' split
  all_goals first | rfl | simp
@[simp] theorem State.record_lnk (s : State) (r : Record) (unit : Nat) : (s.record r unit).lnk = s.lnk := by
  unfold State.record; dsimp only
  repeat' split
  all_goals first | rfl | simp
@[simp] theorem State.record_rcp (s : State) (r : Record) (unit : Nat) : (s.record r unit).rcp = s.rcp := by
  unfold State.record; dsimp only
  repeat' split
  all_goals first | rfl | simp
@[simp] theorem State.record_stp (s : State) (r : Record) (unit : Nat) : (s.record r unit).stp = s.stp := by
  unfold State.record; dsimp only
  repeat' split
  all_goals first | rfl | simp
@[simp] theorem State.record_upd (s : State) (r : Record) (unit : Nat) : (s.record r unit).upd = s.upd := by
  unfold State.record; dsimp only
  repeat' split
  all_goals first | rfl | simp
@[simp] theorem State.record_stk (s : State) (r : Record) (unit : Nat) : (s.record r unit).stk = s.stk := by
  unfold State.record; dsimp only
  repeat' split
  all_goals first | rfl | simp
@[simp] theorem State.record_coll (s : State) (r : Record) (unit : Nat) : (s.record r unit).coll = s.coll := by
  unfold State.record; dsimp only
  repeat' split
  all_goals first | rfl | simp
@[simp] theorem State.record_flt (s : State) (r : Record) (unit : Nat) : (s.record r unit).flt = s.flt := by
  unfold State.record; dsimp only
  repeat' split
  all_goals first | rfl | simp
@[simp] theorem State.record_free (s : State) (r : Record) (unit : Nat) : (s.record r unit).free = s.free := by
  unfold State.record; dsimp only
  repeat' split
  all_goals first | rfl | simp
@[simp] theorem State.raiseU_pending (s : State) (code unit : Nat) (l : List Word) : (s.raiseU code unit l).pending = s.pending :=
  s.record_pending _ _
@[simp] theorem State.raiseU_sbm (s : State) (code unit : Nat) (l : List Word) : (s.raiseU code unit l).sbm = s.sbm :=
  s.record_sbm _ _
@[simp] theorem State.raiseU_pwr (s : State) (code unit : Nat) (l : List Word) : (s.raiseU code unit l).pwr = s.pwr :=
  s.record_pwr _ _
@[simp] theorem State.raiseU_sec (s : State) (code unit : Nat) (l : List Word) : (s.raiseU code unit l).sec = s.sec :=
  s.record_sec _ _
@[simp] theorem State.raiseU_ana (s : State) (code unit : Nat) (l : List Word) : (s.raiseU code unit l).ana = s.ana :=
  s.record_ana _ _
@[simp] theorem State.raiseU_cal (s : State) (code unit : Nat) (l : List Word) : (s.raiseU code unit l).cal = s.cal :=
  s.record_cal _ _
@[simp] theorem State.raiseU_mem (s : State) (code unit : Nat) (l : List Word) : (s.raiseU code unit l).mem = s.mem :=
  s.record_mem _ _
@[simp] theorem State.raiseU_store (s : State) (code unit : Nat) (l : List Word) : (s.raiseU code unit l).store = s.store :=
  s.record_store _ _
@[simp] theorem State.raiseU_lnk (s : State) (code unit : Nat) (l : List Word) : (s.raiseU code unit l).lnk = s.lnk :=
  s.record_lnk _ _
@[simp] theorem State.raiseU_rcp (s : State) (code unit : Nat) (l : List Word) : (s.raiseU code unit l).rcp = s.rcp :=
  s.record_rcp _ _
@[simp] theorem State.raiseU_stp (s : State) (code unit : Nat) (l : List Word) : (s.raiseU code unit l).stp = s.stp :=
  s.record_stp _ _
@[simp] theorem State.raiseU_upd (s : State) (code unit : Nat) (l : List Word) : (s.raiseU code unit l).upd = s.upd :=
  s.record_upd _ _
@[simp] theorem State.raiseU_stk (s : State) (code unit : Nat) (l : List Word) : (s.raiseU code unit l).stk = s.stk :=
  s.record_stk _ _
@[simp] theorem State.raiseU_coll (s : State) (code unit : Nat) (l : List Word) : (s.raiseU code unit l).coll = s.coll :=
  s.record_coll _ _
@[simp] theorem State.raiseU_flt (s : State) (code unit : Nat) (l : List Word) : (s.raiseU code unit l).flt = s.flt :=
  s.record_flt _ _
@[simp] theorem State.raiseU_free (s : State) (code unit : Nat) (l : List Word) : (s.raiseU code unit l).free = s.free :=
  s.record_free _ _
@[simp] theorem State.raise_pending (s : State) (code : Nat) (l : List Word) : (s.raise code l).pending = s.pending :=
  s.raiseU_pending code 0 l
@[simp] theorem State.raise_sbm (s : State) (code : Nat) (l : List Word) : (s.raise code l).sbm = s.sbm :=
  s.raiseU_sbm code 0 l
@[simp] theorem State.raise_pwr (s : State) (code : Nat) (l : List Word) : (s.raise code l).pwr = s.pwr :=
  s.raiseU_pwr code 0 l
@[simp] theorem State.raise_sec (s : State) (code : Nat) (l : List Word) : (s.raise code l).sec = s.sec :=
  s.raiseU_sec code 0 l
@[simp] theorem State.raise_ana (s : State) (code : Nat) (l : List Word) : (s.raise code l).ana = s.ana :=
  s.raiseU_ana code 0 l
@[simp] theorem State.raise_cal (s : State) (code : Nat) (l : List Word) : (s.raise code l).cal = s.cal :=
  s.raiseU_cal code 0 l
@[simp] theorem State.raise_mem (s : State) (code : Nat) (l : List Word) : (s.raise code l).mem = s.mem :=
  s.raiseU_mem code 0 l
@[simp] theorem State.raise_store (s : State) (code : Nat) (l : List Word) : (s.raise code l).store = s.store :=
  s.raiseU_store code 0 l
@[simp] theorem State.raise_lnk (s : State) (code : Nat) (l : List Word) : (s.raise code l).lnk = s.lnk :=
  s.raiseU_lnk code 0 l
@[simp] theorem State.raise_rcp (s : State) (code : Nat) (l : List Word) : (s.raise code l).rcp = s.rcp :=
  s.raiseU_rcp code 0 l
@[simp] theorem State.raise_stp (s : State) (code : Nat) (l : List Word) : (s.raise code l).stp = s.stp :=
  s.raiseU_stp code 0 l
@[simp] theorem State.raise_upd (s : State) (code : Nat) (l : List Word) : (s.raise code l).upd = s.upd :=
  s.raiseU_upd code 0 l
@[simp] theorem State.raise_stk (s : State) (code : Nat) (l : List Word) : (s.raise code l).stk = s.stk :=
  s.raiseU_stk code 0 l
@[simp] theorem State.raise_coll (s : State) (code : Nat) (l : List Word) : (s.raise code l).coll = s.coll :=
  s.raiseU_coll code 0 l
@[simp] theorem State.raise_flt (s : State) (code : Nat) (l : List Word) : (s.raise code l).flt = s.flt :=
  s.raiseU_flt code 0 l
@[simp] theorem State.raise_free (s : State) (code : Nat) (l : List Word) : (s.raise code l).free = s.free :=
  s.raiseU_free code 0 l
@[simp] theorem State.raiseOnce_pending (s : State) (code key unit : Nat) (l : List Word) : (s.raiseOnce code key unit l).pending = s.pending := by
  unfold State.raiseOnce; try dsimp only
  repeat' split
  all_goals first | rfl | simp
@[simp] theorem State.raiseOnce_sbm (s : State) (code key unit : Nat) (l : List Word) : (s.raiseOnce code key unit l).sbm = s.sbm := by
  unfold State.raiseOnce; try dsimp only
  repeat' split
  all_goals first | rfl | simp
@[simp] theorem State.raiseOnce_pwr (s : State) (code key unit : Nat) (l : List Word) : (s.raiseOnce code key unit l).pwr = s.pwr := by
  unfold State.raiseOnce; try dsimp only
  repeat' split
  all_goals first | rfl | simp
@[simp] theorem State.raiseOnce_sec (s : State) (code key unit : Nat) (l : List Word) : (s.raiseOnce code key unit l).sec = s.sec := by
  unfold State.raiseOnce; try dsimp only
  repeat' split
  all_goals first | rfl | simp
@[simp] theorem State.raiseOnce_ana (s : State) (code key unit : Nat) (l : List Word) : (s.raiseOnce code key unit l).ana = s.ana := by
  unfold State.raiseOnce; try dsimp only
  repeat' split
  all_goals first | rfl | simp
@[simp] theorem State.raiseOnce_cal (s : State) (code key unit : Nat) (l : List Word) : (s.raiseOnce code key unit l).cal = s.cal := by
  unfold State.raiseOnce; try dsimp only
  repeat' split
  all_goals first | rfl | simp
@[simp] theorem State.raiseOnce_mem (s : State) (code key unit : Nat) (l : List Word) : (s.raiseOnce code key unit l).mem = s.mem := by
  unfold State.raiseOnce; try dsimp only
  repeat' split
  all_goals first | rfl | simp
@[simp] theorem State.raiseOnce_store (s : State) (code key unit : Nat) (l : List Word) : (s.raiseOnce code key unit l).store = s.store := by
  unfold State.raiseOnce; try dsimp only
  repeat' split
  all_goals first | rfl | simp
@[simp] theorem State.raiseOnce_lnk (s : State) (code key unit : Nat) (l : List Word) : (s.raiseOnce code key unit l).lnk = s.lnk := by
  unfold State.raiseOnce; try dsimp only
  repeat' split
  all_goals first | rfl | simp
@[simp] theorem State.raiseOnce_rcp (s : State) (code key unit : Nat) (l : List Word) : (s.raiseOnce code key unit l).rcp = s.rcp := by
  unfold State.raiseOnce; try dsimp only
  repeat' split
  all_goals first | rfl | simp
@[simp] theorem State.raiseOnce_upd (s : State) (code key unit : Nat) (l : List Word) : (s.raiseOnce code key unit l).upd = s.upd := by
  unfold State.raiseOnce; try dsimp only
  repeat' split
  all_goals first | rfl | simp
@[simp] theorem State.raiseOnce_stk (s : State) (code key unit : Nat) (l : List Word) : (s.raiseOnce code key unit l).stk = s.stk := by
  unfold State.raiseOnce; try dsimp only
  repeat' split
  all_goals first | rfl | simp
@[simp] theorem State.raiseOnce_coll (s : State) (code key unit : Nat) (l : List Word) : (s.raiseOnce code key unit l).coll = s.coll := by
  unfold State.raiseOnce; try dsimp only
  repeat' split
  all_goals first | rfl | simp
@[simp] theorem State.raiseOnce_flt (s : State) (code key unit : Nat) (l : List Word) : (s.raiseOnce code key unit l).flt = s.flt := by
  unfold State.raiseOnce; try dsimp only
  repeat' split
  all_goals first | rfl | simp
@[simp] theorem State.raiseOnce_free (s : State) (code key unit : Nat) (l : List Word) : (s.raiseOnce code key unit l).free = s.free := by
  unfold State.raiseOnce; try dsimp only
  repeat' split
  all_goals first | rfl | simp
@[simp] theorem State.raiseFor_pending (s : State) (o : Option Stamp) (code : Nat) (l : List Word) : (s.raiseFor o code l).pending = s.pending := by
  unfold State.raiseFor; try dsimp only
  repeat' split
  all_goals first | rfl | simp
@[simp] theorem State.raiseFor_sbm (s : State) (o : Option Stamp) (code : Nat) (l : List Word) : (s.raiseFor o code l).sbm = s.sbm := by
  unfold State.raiseFor; try dsimp only
  repeat' split
  all_goals first | rfl | simp
@[simp] theorem State.raiseFor_pwr (s : State) (o : Option Stamp) (code : Nat) (l : List Word) : (s.raiseFor o code l).pwr = s.pwr := by
  unfold State.raiseFor; try dsimp only
  repeat' split
  all_goals first | rfl | simp
@[simp] theorem State.raiseFor_sec (s : State) (o : Option Stamp) (code : Nat) (l : List Word) : (s.raiseFor o code l).sec = s.sec := by
  unfold State.raiseFor; try dsimp only
  repeat' split
  all_goals first | rfl | simp
@[simp] theorem State.raiseFor_ana (s : State) (o : Option Stamp) (code : Nat) (l : List Word) : (s.raiseFor o code l).ana = s.ana := by
  unfold State.raiseFor; try dsimp only
  repeat' split
  all_goals first | rfl | simp
@[simp] theorem State.raiseFor_cal (s : State) (o : Option Stamp) (code : Nat) (l : List Word) : (s.raiseFor o code l).cal = s.cal := by
  unfold State.raiseFor; try dsimp only
  repeat' split
  all_goals first | rfl | simp
@[simp] theorem State.raiseFor_mem (s : State) (o : Option Stamp) (code : Nat) (l : List Word) : (s.raiseFor o code l).mem = s.mem := by
  unfold State.raiseFor; try dsimp only
  repeat' split
  all_goals first | rfl | simp
@[simp] theorem State.raiseFor_store (s : State) (o : Option Stamp) (code : Nat) (l : List Word) : (s.raiseFor o code l).store = s.store := by
  unfold State.raiseFor; try dsimp only
  repeat' split
  all_goals first | rfl | simp
@[simp] theorem State.raiseFor_lnk (s : State) (o : Option Stamp) (code : Nat) (l : List Word) : (s.raiseFor o code l).lnk = s.lnk := by
  unfold State.raiseFor; try dsimp only
  repeat' split
  all_goals first | rfl | simp
@[simp] theorem State.raiseFor_rcp (s : State) (o : Option Stamp) (code : Nat) (l : List Word) : (s.raiseFor o code l).rcp = s.rcp := by
  unfold State.raiseFor; try dsimp only
  repeat' split
  all_goals first | rfl | simp
@[simp] theorem State.raiseFor_stp (s : State) (o : Option Stamp) (code : Nat) (l : List Word) : (s.raiseFor o code l).stp = s.stp := by
  unfold State.raiseFor; try dsimp only
  repeat' split
  all_goals first | rfl | simp
@[simp] theorem State.raiseFor_upd (s : State) (o : Option Stamp) (code : Nat) (l : List Word) : (s.raiseFor o code l).upd = s.upd := by
  unfold State.raiseFor; try dsimp only
  repeat' split
  all_goals first | rfl | simp
@[simp] theorem State.raiseFor_stk (s : State) (o : Option Stamp) (code : Nat) (l : List Word) : (s.raiseFor o code l).stk = s.stk := by
  unfold State.raiseFor; try dsimp only
  repeat' split
  all_goals first | rfl | simp
@[simp] theorem State.raiseFor_coll (s : State) (o : Option Stamp) (code : Nat) (l : List Word) : (s.raiseFor o code l).coll = s.coll := by
  unfold State.raiseFor; try dsimp only
  repeat' split
  all_goals first | rfl | simp
@[simp] theorem State.raiseFor_flt (s : State) (o : Option Stamp) (code : Nat) (l : List Word) : (s.raiseFor o code l).flt = s.flt := by
  unfold State.raiseFor; try dsimp only
  repeat' split
  all_goals first | rfl | simp
@[simp] theorem State.raiseFor_free (s : State) (o : Option Stamp) (code : Nat) (l : List Word) : (s.raiseFor o code l).free = s.free := by
  unfold State.raiseFor; try dsimp only
  repeat' split
  all_goals first | rfl | simp
@[simp] theorem State.mark_pending (s : State) (code key : Nat) : (s.mark code key).pending = s.pending := rfl
@[simp] theorem State.mark_ctr (s : State) (code key : Nat) : (s.mark code key).ctr = s.ctr := rfl
@[simp] theorem State.mark_hif (s : State) (code key : Nat) : (s.mark code key).hif = s.hif := rfl
@[simp] theorem State.mark_sbm (s : State) (code key : Nat) : (s.mark code key).sbm = s.sbm := rfl
@[simp] theorem State.mark_pwr (s : State) (code key : Nat) : (s.mark code key).pwr = s.pwr := rfl
@[simp] theorem State.mark_evt (s : State) (code key : Nat) : (s.mark code key).evt = s.evt := rfl
@[simp] theorem State.mark_sec (s : State) (code key : Nat) : (s.mark code key).sec = s.sec := rfl
@[simp] theorem State.mark_ana (s : State) (code key : Nat) : (s.mark code key).ana = s.ana := rfl
@[simp] theorem State.mark_cal (s : State) (code key : Nat) : (s.mark code key).cal = s.cal := rfl
@[simp] theorem State.mark_mem (s : State) (code key : Nat) : (s.mark code key).mem = s.mem := rfl
@[simp] theorem State.mark_store (s : State) (code key : Nat) : (s.mark code key).store = s.store := rfl
@[simp] theorem State.mark_lnk (s : State) (code key : Nat) : (s.mark code key).lnk = s.lnk := rfl
@[simp] theorem State.mark_rcp (s : State) (code key : Nat) : (s.mark code key).rcp = s.rcp := rfl
@[simp] theorem State.mark_upd (s : State) (code key : Nat) : (s.mark code key).upd = s.upd := rfl
@[simp] theorem State.mark_stk (s : State) (code key : Nat) : (s.mark code key).stk = s.stk := rfl
@[simp] theorem State.mark_coll (s : State) (code key : Nat) : (s.mark code key).coll = s.coll := rfl
@[simp] theorem State.mark_flt (s : State) (code key : Nat) : (s.mark code key).flt = s.flt := rfl
@[simp] theorem State.mark_free (s : State) (code key : Nat) : (s.mark code key).free = s.free := rfl
@[simp] theorem State.keepLate_pending (s : State) (x : Bool × Nat × Stamp) : (s.keepLate x).pending = s.pending := by
  unfold State.keepLate; try dsimp only
  repeat' split
  all_goals first | rfl | simp
@[simp] theorem State.keepLate_ctr (s : State) (x : Bool × Nat × Stamp) : (s.keepLate x).ctr = s.ctr := by
  unfold State.keepLate; try dsimp only
  repeat' split
  all_goals first | rfl | simp
@[simp] theorem State.keepLate_hif (s : State) (x : Bool × Nat × Stamp) : (s.keepLate x).hif = s.hif := by
  unfold State.keepLate; try dsimp only
  repeat' split
  all_goals first | rfl | simp
@[simp] theorem State.keepLate_sbm (s : State) (x : Bool × Nat × Stamp) : (s.keepLate x).sbm = s.sbm := by
  unfold State.keepLate; try dsimp only
  repeat' split
  all_goals first | rfl | simp
@[simp] theorem State.keepLate_pwr (s : State) (x : Bool × Nat × Stamp) : (s.keepLate x).pwr = s.pwr := by
  unfold State.keepLate; try dsimp only
  repeat' split
  all_goals first | rfl | simp
@[simp] theorem State.keepLate_evt (s : State) (x : Bool × Nat × Stamp) : (s.keepLate x).evt = s.evt := by
  unfold State.keepLate; try dsimp only
  repeat' split
  all_goals first | rfl | simp
@[simp] theorem State.keepLate_sec (s : State) (x : Bool × Nat × Stamp) : (s.keepLate x).sec = s.sec := by
  unfold State.keepLate; try dsimp only
  repeat' split
  all_goals first | rfl | simp
@[simp] theorem State.keepLate_ana (s : State) (x : Bool × Nat × Stamp) : (s.keepLate x).ana = s.ana := by
  unfold State.keepLate; try dsimp only
  repeat' split
  all_goals first | rfl | simp
@[simp] theorem State.keepLate_cal (s : State) (x : Bool × Nat × Stamp) : (s.keepLate x).cal = s.cal := by
  unfold State.keepLate; try dsimp only
  repeat' split
  all_goals first | rfl | simp
@[simp] theorem State.keepLate_mem (s : State) (x : Bool × Nat × Stamp) : (s.keepLate x).mem = s.mem := by
  unfold State.keepLate; try dsimp only
  repeat' split
  all_goals first | rfl | simp
@[simp] theorem State.keepLate_store (s : State) (x : Bool × Nat × Stamp) : (s.keepLate x).store = s.store := by
  unfold State.keepLate; try dsimp only
  repeat' split
  all_goals first | rfl | simp
@[simp] theorem State.keepLate_rcp (s : State) (x : Bool × Nat × Stamp) : (s.keepLate x).rcp = s.rcp := by
  unfold State.keepLate; try dsimp only
  repeat' split
  all_goals first | rfl | simp
@[simp] theorem State.keepLate_stp (s : State) (x : Bool × Nat × Stamp) : (s.keepLate x).stp = s.stp := by
  unfold State.keepLate; try dsimp only
  repeat' split
  all_goals first | rfl | simp
@[simp] theorem State.keepLate_upd (s : State) (x : Bool × Nat × Stamp) : (s.keepLate x).upd = s.upd := by
  unfold State.keepLate; try dsimp only
  repeat' split
  all_goals first | rfl | simp
@[simp] theorem State.keepLate_stk (s : State) (x : Bool × Nat × Stamp) : (s.keepLate x).stk = s.stk := by
  unfold State.keepLate; try dsimp only
  repeat' split
  all_goals first | rfl | simp
@[simp] theorem State.keepLate_coll (s : State) (x : Bool × Nat × Stamp) : (s.keepLate x).coll = s.coll := by
  unfold State.keepLate; try dsimp only
  repeat' split
  all_goals first | rfl | simp
@[simp] theorem State.keepLate_flt (s : State) (x : Bool × Nat × Stamp) : (s.keepLate x).flt = s.flt := by
  unfold State.keepLate; try dsimp only
  repeat' split
  all_goals first | rfl | simp
@[simp] theorem State.keepLate_free (s : State) (x : Bool × Nat × Stamp) : (s.keepLate x).free = s.free := by
  unfold State.keepLate; try dsimp only
  repeat' split
  all_goals first | rfl | simp
@[simp] theorem State.causeAt_pending (s : State) (c : Nat) (o : Stamp) : (s.causeAt c o).pending = s.pending := by
  unfold State.causeAt; try dsimp only
  repeat' split
  all_goals first | rfl | simp
@[simp] theorem State.causeAt_ctr (s : State) (c : Nat) (o : Stamp) : (s.causeAt c o).ctr = s.ctr := by
  unfold State.causeAt; try dsimp only
  repeat' split
  all_goals first | rfl | simp
@[simp] theorem State.causeAt_hif (s : State) (c : Nat) (o : Stamp) : (s.causeAt c o).hif = s.hif := by
  unfold State.causeAt; try dsimp only
  repeat' split
  all_goals first | rfl | simp
@[simp] theorem State.causeAt_sbm (s : State) (c : Nat) (o : Stamp) : (s.causeAt c o).sbm = s.sbm := by
  unfold State.causeAt; try dsimp only
  repeat' split
  all_goals first | rfl | simp
@[simp] theorem State.causeAt_pwr (s : State) (c : Nat) (o : Stamp) : (s.causeAt c o).pwr = s.pwr := by
  unfold State.causeAt; try dsimp only
  repeat' split
  all_goals first | rfl | simp
@[simp] theorem State.causeAt_evt (s : State) (c : Nat) (o : Stamp) : (s.causeAt c o).evt = s.evt := by
  unfold State.causeAt; try dsimp only
  repeat' split
  all_goals first | rfl | simp
@[simp] theorem State.causeAt_sec (s : State) (c : Nat) (o : Stamp) : (s.causeAt c o).sec = s.sec := by
  unfold State.causeAt; try dsimp only
  repeat' split
  all_goals first | rfl | simp
@[simp] theorem State.causeAt_ana (s : State) (c : Nat) (o : Stamp) : (s.causeAt c o).ana = s.ana := by
  unfold State.causeAt; try dsimp only
  repeat' split
  all_goals first | rfl | simp
@[simp] theorem State.causeAt_cal (s : State) (c : Nat) (o : Stamp) : (s.causeAt c o).cal = s.cal := by
  unfold State.causeAt; try dsimp only
  repeat' split
  all_goals first | rfl | simp
@[simp] theorem State.causeAt_mem (s : State) (c : Nat) (o : Stamp) : (s.causeAt c o).mem = s.mem := by
  unfold State.causeAt; try dsimp only
  repeat' split
  all_goals first | rfl | simp
@[simp] theorem State.causeAt_store (s : State) (c : Nat) (o : Stamp) : (s.causeAt c o).store = s.store := by
  unfold State.causeAt; try dsimp only
  repeat' split
  all_goals first | rfl | simp
@[simp] theorem State.causeAt_rcp (s : State) (c : Nat) (o : Stamp) : (s.causeAt c o).rcp = s.rcp := by
  unfold State.causeAt; try dsimp only
  repeat' split
  all_goals first | rfl | simp
@[simp] theorem State.causeAt_upd (s : State) (c : Nat) (o : Stamp) : (s.causeAt c o).upd = s.upd := by
  unfold State.causeAt; try dsimp only
  repeat' split
  all_goals first | rfl | simp
@[simp] theorem State.causeAt_stk (s : State) (c : Nat) (o : Stamp) : (s.causeAt c o).stk = s.stk := by
  unfold State.causeAt; try dsimp only
  repeat' split
  all_goals first | rfl | simp
@[simp] theorem State.causeAt_coll (s : State) (c : Nat) (o : Stamp) : (s.causeAt c o).coll = s.coll := by
  unfold State.causeAt; try dsimp only
  repeat' split
  all_goals first | rfl | simp
@[simp] theorem State.causeAt_flt (s : State) (c : Nat) (o : Stamp) : (s.causeAt c o).flt = s.flt := by
  unfold State.causeAt; try dsimp only
  repeat' split
  all_goals first | rfl | simp
@[simp] theorem State.causeAt_free (s : State) (c : Nat) (o : Stamp) : (s.causeAt c o).free = s.free := by
  unfold State.causeAt; try dsimp only
  repeat' split
  all_goals first | rfl | simp
@[simp] theorem State.cause_pending (s : State) (c : Nat) : (s.cause c).pending = s.pending :=
  s.causeAt_pending _ _
@[simp] theorem State.cause_ctr (s : State) (c : Nat) : (s.cause c).ctr = s.ctr :=
  s.causeAt_ctr _ _
@[simp] theorem State.cause_hif (s : State) (c : Nat) : (s.cause c).hif = s.hif :=
  s.causeAt_hif _ _
@[simp] theorem State.cause_sbm (s : State) (c : Nat) : (s.cause c).sbm = s.sbm :=
  s.causeAt_sbm _ _
@[simp] theorem State.cause_pwr (s : State) (c : Nat) : (s.cause c).pwr = s.pwr :=
  s.causeAt_pwr _ _
@[simp] theorem State.cause_evt (s : State) (c : Nat) : (s.cause c).evt = s.evt :=
  s.causeAt_evt _ _
@[simp] theorem State.cause_sec (s : State) (c : Nat) : (s.cause c).sec = s.sec :=
  s.causeAt_sec _ _
@[simp] theorem State.cause_ana (s : State) (c : Nat) : (s.cause c).ana = s.ana :=
  s.causeAt_ana _ _
@[simp] theorem State.cause_cal (s : State) (c : Nat) : (s.cause c).cal = s.cal :=
  s.causeAt_cal _ _
@[simp] theorem State.cause_mem (s : State) (c : Nat) : (s.cause c).mem = s.mem :=
  s.causeAt_mem _ _
@[simp] theorem State.cause_store (s : State) (c : Nat) : (s.cause c).store = s.store :=
  s.causeAt_store _ _
@[simp] theorem State.cause_rcp (s : State) (c : Nat) : (s.cause c).rcp = s.rcp :=
  s.causeAt_rcp _ _
@[simp] theorem State.cause_upd (s : State) (c : Nat) : (s.cause c).upd = s.upd :=
  s.causeAt_upd _ _
@[simp] theorem State.cause_stk (s : State) (c : Nat) : (s.cause c).stk = s.stk :=
  s.causeAt_stk _ _
@[simp] theorem State.cause_coll (s : State) (c : Nat) : (s.cause c).coll = s.coll :=
  s.causeAt_coll _ _
@[simp] theorem State.cause_flt (s : State) (c : Nat) : (s.cause c).flt = s.flt :=
  s.causeAt_flt _ _
@[simp] theorem State.cause_free (s : State) (c : Nat) : (s.cause c).free = s.free :=
  s.causeAt_free _ _
@[simp] theorem State.fail_pending (s : State) (c : Nat) : (s.fail c).pending = s.pending := by
  unfold State.fail; try dsimp only
  repeat' split
  all_goals first | rfl | simp
@[simp] theorem State.fail_ctr (s : State) (c : Nat) : (s.fail c).ctr = s.ctr := by
  unfold State.fail; try dsimp only
  repeat' split
  all_goals first | rfl | simp
@[simp] theorem State.fail_hif (s : State) (c : Nat) : (s.fail c).hif = s.hif := by
  unfold State.fail; try dsimp only
  repeat' split
  all_goals first | rfl | simp
@[simp] theorem State.fail_sbm (s : State) (c : Nat) : (s.fail c).sbm = s.sbm := by
  unfold State.fail; try dsimp only
  repeat' split
  all_goals first | rfl | simp
@[simp] theorem State.fail_pwr (s : State) (c : Nat) : (s.fail c).pwr = s.pwr := by
  unfold State.fail; try dsimp only
  repeat' split
  all_goals first | rfl | simp
@[simp] theorem State.fail_evt (s : State) (c : Nat) : (s.fail c).evt = s.evt := by
  unfold State.fail; try dsimp only
  repeat' split
  all_goals first | rfl | simp
@[simp] theorem State.fail_sec (s : State) (c : Nat) : (s.fail c).sec = s.sec := by
  unfold State.fail; try dsimp only
  repeat' split
  all_goals first | rfl | simp
@[simp] theorem State.fail_ana (s : State) (c : Nat) : (s.fail c).ana = s.ana := by
  unfold State.fail; try dsimp only
  repeat' split
  all_goals first | rfl | simp
@[simp] theorem State.fail_cal (s : State) (c : Nat) : (s.fail c).cal = s.cal := by
  unfold State.fail; try dsimp only
  repeat' split
  all_goals first | rfl | simp
@[simp] theorem State.fail_mem (s : State) (c : Nat) : (s.fail c).mem = s.mem := by
  unfold State.fail; try dsimp only
  repeat' split
  all_goals first | rfl | simp
@[simp] theorem State.fail_store (s : State) (c : Nat) : (s.fail c).store = s.store := by
  unfold State.fail; try dsimp only
  repeat' split
  all_goals first | rfl | simp
@[simp] theorem State.fail_rcp (s : State) (c : Nat) : (s.fail c).rcp = s.rcp := by
  unfold State.fail; try dsimp only
  repeat' split
  all_goals first | rfl | simp
@[simp] theorem State.fail_upd (s : State) (c : Nat) : (s.fail c).upd = s.upd := by
  unfold State.fail; try dsimp only
  repeat' split
  all_goals first | rfl | simp
@[simp] theorem State.fail_stk (s : State) (c : Nat) : (s.fail c).stk = s.stk := by
  unfold State.fail; try dsimp only
  repeat' split
  all_goals first | rfl | simp
@[simp] theorem State.fail_coll (s : State) (c : Nat) : (s.fail c).coll = s.coll := by
  unfold State.fail; try dsimp only
  repeat' split
  all_goals first | rfl | simp
@[simp] theorem State.fail_flt (s : State) (c : Nat) : (s.fail c).flt = s.flt := by
  unfold State.fail; try dsimp only
  repeat' split
  all_goals first | rfl | simp
@[simp] theorem State.fail_free (s : State) (c : Nat) : (s.fail c).free = s.free := by
  unfold State.fail; try dsimp only
  repeat' split
  all_goals first | rfl | simp
@[simp] theorem State.draw_pending (s : State) (n : Nat) : (s.draw n).pending = s.pending := rfl
@[simp] theorem State.draw_ctr (s : State) (n : Nat) : (s.draw n).ctr = s.ctr := rfl
@[simp] theorem State.draw_hif (s : State) (n : Nat) : (s.draw n).hif = s.hif := rfl
@[simp] theorem State.draw_sbm (s : State) (n : Nat) : (s.draw n).sbm = s.sbm := rfl
@[simp] theorem State.draw_pwr (s : State) (n : Nat) : (s.draw n).pwr = s.pwr := rfl
@[simp] theorem State.draw_evt (s : State) (n : Nat) : (s.draw n).evt = s.evt := rfl
@[simp] theorem State.draw_sec (s : State) (n : Nat) : (s.draw n).sec = s.sec := rfl
@[simp] theorem State.draw_ana (s : State) (n : Nat) : (s.draw n).ana = s.ana := rfl
@[simp] theorem State.draw_cal (s : State) (n : Nat) : (s.draw n).cal = s.cal := rfl
@[simp] theorem State.draw_mem (s : State) (n : Nat) : (s.draw n).mem = s.mem := rfl
@[simp] theorem State.draw_store (s : State) (n : Nat) : (s.draw n).store = s.store := rfl
@[simp] theorem State.draw_lnk (s : State) (n : Nat) : (s.draw n).lnk = s.lnk := rfl
@[simp] theorem State.draw_rcp (s : State) (n : Nat) : (s.draw n).rcp = s.rcp := rfl
@[simp] theorem State.draw_stp (s : State) (n : Nat) : (s.draw n).stp = s.stp := rfl
@[simp] theorem State.draw_upd (s : State) (n : Nat) : (s.draw n).upd = s.upd := rfl
@[simp] theorem State.draw_stk (s : State) (n : Nat) : (s.draw n).stk = s.stk := rfl
@[simp] theorem State.draw_coll (s : State) (n : Nat) : (s.draw n).coll = s.coll := rfl
@[simp] theorem State.draw_flt (s : State) (n : Nat) : (s.draw n).flt = s.flt := rfl
@[simp] theorem State.setArray_pending (s : State) (a : Nat) (x : ArrayS) : (s.setArray a x).pending = s.pending := rfl
@[simp] theorem State.setArray_ctr (s : State) (a : Nat) (x : ArrayS) : (s.setArray a x).ctr = s.ctr := rfl
@[simp] theorem State.setArray_hif (s : State) (a : Nat) (x : ArrayS) : (s.setArray a x).hif = s.hif := rfl
@[simp] theorem State.setArray_sbm (s : State) (a : Nat) (x : ArrayS) : (s.setArray a x).sbm = s.sbm := rfl
@[simp] theorem State.setArray_pwr (s : State) (a : Nat) (x : ArrayS) : (s.setArray a x).pwr = s.pwr := rfl
@[simp] theorem State.setArray_evt (s : State) (a : Nat) (x : ArrayS) : (s.setArray a x).evt = s.evt := rfl
@[simp] theorem State.setArray_sec (s : State) (a : Nat) (x : ArrayS) : (s.setArray a x).sec = s.sec := rfl
@[simp] theorem State.setArray_cal (s : State) (a : Nat) (x : ArrayS) : (s.setArray a x).cal = s.cal := rfl
@[simp] theorem State.setArray_mem (s : State) (a : Nat) (x : ArrayS) : (s.setArray a x).mem = s.mem := rfl
@[simp] theorem State.setArray_store (s : State) (a : Nat) (x : ArrayS) : (s.setArray a x).store = s.store := rfl
@[simp] theorem State.setArray_lnk (s : State) (a : Nat) (x : ArrayS) : (s.setArray a x).lnk = s.lnk := rfl
@[simp] theorem State.setArray_rcp (s : State) (a : Nat) (x : ArrayS) : (s.setArray a x).rcp = s.rcp := rfl
@[simp] theorem State.setArray_stp (s : State) (a : Nat) (x : ArrayS) : (s.setArray a x).stp = s.stp := rfl
@[simp] theorem State.setArray_upd (s : State) (a : Nat) (x : ArrayS) : (s.setArray a x).upd = s.upd := rfl
@[simp] theorem State.setArray_stk (s : State) (a : Nat) (x : ArrayS) : (s.setArray a x).stk = s.stk := rfl
@[simp] theorem State.setArray_coll (s : State) (a : Nat) (x : ArrayS) : (s.setArray a x).coll = s.coll := rfl
@[simp] theorem State.setArray_flt (s : State) (a : Nat) (x : ArrayS) : (s.setArray a x).flt = s.flt := rfl
@[simp] theorem State.setArray_free (s : State) (a : Nat) (x : ArrayS) : (s.setArray a x).free = s.free := rfl
@[simp] theorem State.setCore_pending (s : State) (c : Nat) (x : CoreS) : (s.setCore c x).pending = s.pending := rfl
@[simp] theorem State.setCore_ctr (s : State) (c : Nat) (x : CoreS) : (s.setCore c x).ctr = s.ctr := rfl
@[simp] theorem State.setCore_hif (s : State) (c : Nat) (x : CoreS) : (s.setCore c x).hif = s.hif := rfl
@[simp] theorem State.setCore_sbm (s : State) (c : Nat) (x : CoreS) : (s.setCore c x).sbm = s.sbm := rfl
@[simp] theorem State.setCore_pwr (s : State) (c : Nat) (x : CoreS) : (s.setCore c x).pwr = s.pwr := rfl
@[simp] theorem State.setCore_evt (s : State) (c : Nat) (x : CoreS) : (s.setCore c x).evt = s.evt := rfl
@[simp] theorem State.setCore_sec (s : State) (c : Nat) (x : CoreS) : (s.setCore c x).sec = s.sec := rfl
@[simp] theorem State.setCore_cal (s : State) (c : Nat) (x : CoreS) : (s.setCore c x).cal = s.cal := rfl
@[simp] theorem State.setCore_mem (s : State) (c : Nat) (x : CoreS) : (s.setCore c x).mem = s.mem := rfl
@[simp] theorem State.setCore_store (s : State) (c : Nat) (x : CoreS) : (s.setCore c x).store = s.store := rfl
@[simp] theorem State.setCore_lnk (s : State) (c : Nat) (x : CoreS) : (s.setCore c x).lnk = s.lnk := rfl
@[simp] theorem State.setCore_rcp (s : State) (c : Nat) (x : CoreS) : (s.setCore c x).rcp = s.rcp := rfl
@[simp] theorem State.setCore_stp (s : State) (c : Nat) (x : CoreS) : (s.setCore c x).stp = s.stp := rfl
@[simp] theorem State.setCore_upd (s : State) (c : Nat) (x : CoreS) : (s.setCore c x).upd = s.upd := rfl
@[simp] theorem State.setCore_stk (s : State) (c : Nat) (x : CoreS) : (s.setCore c x).stk = s.stk := rfl
@[simp] theorem State.setCore_coll (s : State) (c : Nat) (x : CoreS) : (s.setCore c x).coll = s.coll := rfl
@[simp] theorem State.setCore_flt (s : State) (c : Nat) (x : CoreS) : (s.setCore c x).flt = s.flt := rfl
@[simp] theorem State.setCore_free (s : State) (c : Nat) (x : CoreS) : (s.setCore c x).free = s.free := rfl
@[simp] theorem State.setPort_pending (s : State) (p : Nat) (x : Port) : (s.setPort p x).pending = s.pending := rfl
@[simp] theorem State.setPort_ctr (s : State) (p : Nat) (x : Port) : (s.setPort p x).ctr = s.ctr := rfl
@[simp] theorem State.setPort_hif (s : State) (p : Nat) (x : Port) : (s.setPort p x).hif = s.hif := rfl
@[simp] theorem State.setPort_sbm (s : State) (p : Nat) (x : Port) : (s.setPort p x).sbm = s.sbm := rfl
@[simp] theorem State.setPort_pwr (s : State) (p : Nat) (x : Port) : (s.setPort p x).pwr = s.pwr := rfl
@[simp] theorem State.setPort_evt (s : State) (p : Nat) (x : Port) : (s.setPort p x).evt = s.evt := rfl
@[simp] theorem State.setPort_sec (s : State) (p : Nat) (x : Port) : (s.setPort p x).sec = s.sec := rfl
@[simp] theorem State.setPort_ana (s : State) (p : Nat) (x : Port) : (s.setPort p x).ana = s.ana := rfl
@[simp] theorem State.setPort_cal (s : State) (p : Nat) (x : Port) : (s.setPort p x).cal = s.cal := rfl
@[simp] theorem State.setPort_mem (s : State) (p : Nat) (x : Port) : (s.setPort p x).mem = s.mem := rfl
@[simp] theorem State.setPort_store (s : State) (p : Nat) (x : Port) : (s.setPort p x).store = s.store := rfl
@[simp] theorem State.setPort_rcp (s : State) (p : Nat) (x : Port) : (s.setPort p x).rcp = s.rcp := rfl
@[simp] theorem State.setPort_stp (s : State) (p : Nat) (x : Port) : (s.setPort p x).stp = s.stp := rfl
@[simp] theorem State.setPort_upd (s : State) (p : Nat) (x : Port) : (s.setPort p x).upd = s.upd := rfl
@[simp] theorem State.setPort_stk (s : State) (p : Nat) (x : Port) : (s.setPort p x).stk = s.stk := rfl
@[simp] theorem State.setPort_coll (s : State) (p : Nat) (x : Port) : (s.setPort p x).coll = s.coll := rfl
@[simp] theorem State.setPort_flt (s : State) (p : Nat) (x : Port) : (s.setPort p x).flt = s.flt := rfl
@[simp] theorem State.setPort_free (s : State) (p : Nat) (x : Port) : (s.setPort p x).free = s.free := rfl
@[simp] theorem State.putPort_pending (s : State) (p : Nat) (x : Port) : (s.putPort p x).pending = s.pending := rfl
@[simp] theorem State.putPort_ctr (s : State) (p : Nat) (x : Port) : (s.putPort p x).ctr = s.ctr := rfl
@[simp] theorem State.putPort_hif (s : State) (p : Nat) (x : Port) : (s.putPort p x).hif = s.hif := rfl
@[simp] theorem State.putPort_sbm (s : State) (p : Nat) (x : Port) : (s.putPort p x).sbm = s.sbm := rfl
@[simp] theorem State.putPort_evt (s : State) (p : Nat) (x : Port) : (s.putPort p x).evt = s.evt := rfl
@[simp] theorem State.putPort_sec (s : State) (p : Nat) (x : Port) : (s.putPort p x).sec = s.sec := rfl
@[simp] theorem State.putPort_ana (s : State) (p : Nat) (x : Port) : (s.putPort p x).ana = s.ana := rfl
@[simp] theorem State.putPort_cal (s : State) (p : Nat) (x : Port) : (s.putPort p x).cal = s.cal := rfl
@[simp] theorem State.putPort_mem (s : State) (p : Nat) (x : Port) : (s.putPort p x).mem = s.mem := rfl
@[simp] theorem State.putPort_store (s : State) (p : Nat) (x : Port) : (s.putPort p x).store = s.store := rfl
@[simp] theorem State.putPort_rcp (s : State) (p : Nat) (x : Port) : (s.putPort p x).rcp = s.rcp := rfl
@[simp] theorem State.putPort_stp (s : State) (p : Nat) (x : Port) : (s.putPort p x).stp = s.stp := rfl
@[simp] theorem State.putPort_upd (s : State) (p : Nat) (x : Port) : (s.putPort p x).upd = s.upd := rfl
@[simp] theorem State.putPort_stk (s : State) (p : Nat) (x : Port) : (s.putPort p x).stk = s.stk := rfl
@[simp] theorem State.putPort_coll (s : State) (p : Nat) (x : Port) : (s.putPort p x).coll = s.coll := rfl
@[simp] theorem State.putPort_flt (s : State) (p : Nat) (x : Port) : (s.putPort p x).flt = s.flt := rfl
@[simp] theorem State.putPort_free (s : State) (p : Nat) (x : Port) : (s.putPort p x).free = s.free := rfl
@[simp] theorem State.setState_pending (s : State) (d : DevState) : (s.setState d).pending = s.pending := by
  unfold State.setState; try dsimp only
  repeat' split
  all_goals first | rfl | simp
@[simp] theorem State.setState_ctr (s : State) (d : DevState) : (s.setState d).ctr = s.ctr := by
  unfold State.setState; try dsimp only
  repeat' split
  all_goals first | rfl | simp
@[simp] theorem State.setState_sbm (s : State) (d : DevState) : (s.setState d).sbm = s.sbm := by
  unfold State.setState; try dsimp only
  repeat' split
  all_goals first | rfl | simp
@[simp] theorem State.setState_pwr (s : State) (d : DevState) : (s.setState d).pwr = s.pwr := by
  unfold State.setState; try dsimp only
  repeat' split
  all_goals first | rfl | simp
@[simp] theorem State.setState_evt (s : State) (d : DevState) : (s.setState d).evt = s.evt := by
  unfold State.setState; try dsimp only
  repeat' split
  all_goals first | rfl | simp
@[simp] theorem State.setState_sec (s : State) (d : DevState) : (s.setState d).sec = s.sec := by
  unfold State.setState; try dsimp only
  repeat' split
  all_goals first | rfl | simp
@[simp] theorem State.setState_cal (s : State) (d : DevState) : (s.setState d).cal = s.cal := by
  unfold State.setState; try dsimp only
  repeat' split
  all_goals first | rfl | simp
@[simp] theorem State.setState_store (s : State) (d : DevState) : (s.setState d).store = s.store := by
  unfold State.setState; try dsimp only
  repeat' split
  all_goals first | rfl | simp
@[simp] theorem State.setState_lnk (s : State) (d : DevState) : (s.setState d).lnk = s.lnk := by
  unfold State.setState; try dsimp only
  repeat' split
  all_goals first | rfl | simp
@[simp] theorem State.setState_rcp (s : State) (d : DevState) : (s.setState d).rcp = s.rcp := by
  unfold State.setState; try dsimp only
  repeat' split
  all_goals first | rfl | simp
@[simp] theorem State.setState_stp (s : State) (d : DevState) : (s.setState d).stp = s.stp := by
  unfold State.setState; try dsimp only
  repeat' split
  all_goals first | rfl | simp
@[simp] theorem State.setState_upd (s : State) (d : DevState) : (s.setState d).upd = s.upd := by
  unfold State.setState; try dsimp only
  repeat' split
  all_goals first | rfl | simp
@[simp] theorem State.setState_stk (s : State) (d : DevState) : (s.setState d).stk = s.stk := by
  unfold State.setState; try dsimp only
  repeat' split
  all_goals first | rfl | simp
@[simp] theorem State.setState_coll (s : State) (d : DevState) : (s.setState d).coll = s.coll := by
  unfold State.setState; try dsimp only
  repeat' split
  all_goals first | rfl | simp
@[simp] theorem State.setState_flt (s : State) (d : DevState) : (s.setState d).flt = s.flt := by
  unfold State.setState; try dsimp only
  repeat' split
  all_goals first | rfl | simp
@[simp] theorem State.setState_free (s : State) (d : DevState) : (s.setState d).free = s.free := by
  unfold State.setState; try dsimp only
  repeat' split
  all_goals first | rfl | simp
@[simp] theorem State.setRail_pending (s : State) (n : Nat) (r : Rail) : (s.setRail n r).pending = s.pending := rfl
@[simp] theorem State.setRail_ctr (s : State) (n : Nat) (r : Rail) : (s.setRail n r).ctr = s.ctr := rfl
@[simp] theorem State.setRail_sbm (s : State) (n : Nat) (r : Rail) : (s.setRail n r).sbm = s.sbm := rfl
@[simp] theorem State.setRail_pwr (s : State) (n : Nat) (r : Rail) : (s.setRail n r).pwr = s.pwr := rfl
@[simp] theorem State.setRail_evt (s : State) (n : Nat) (r : Rail) : (s.setRail n r).evt = s.evt := rfl
@[simp] theorem State.setRail_sec (s : State) (n : Nat) (r : Rail) : (s.setRail n r).sec = s.sec := rfl
@[simp] theorem State.setRail_ana (s : State) (n : Nat) (r : Rail) : (s.setRail n r).ana = s.ana := rfl
@[simp] theorem State.setRail_cal (s : State) (n : Nat) (r : Rail) : (s.setRail n r).cal = s.cal := rfl
@[simp] theorem State.setRail_mem (s : State) (n : Nat) (r : Rail) : (s.setRail n r).mem = s.mem := rfl
@[simp] theorem State.setRail_store (s : State) (n : Nat) (r : Rail) : (s.setRail n r).store = s.store := rfl
@[simp] theorem State.setRail_lnk (s : State) (n : Nat) (r : Rail) : (s.setRail n r).lnk = s.lnk := rfl
@[simp] theorem State.setRail_rcp (s : State) (n : Nat) (r : Rail) : (s.setRail n r).rcp = s.rcp := rfl
@[simp] theorem State.setRail_stp (s : State) (n : Nat) (r : Rail) : (s.setRail n r).stp = s.stp := rfl
@[simp] theorem State.setRail_upd (s : State) (n : Nat) (r : Rail) : (s.setRail n r).upd = s.upd := rfl
@[simp] theorem State.setRail_stk (s : State) (n : Nat) (r : Rail) : (s.setRail n r).stk = s.stk := rfl
@[simp] theorem State.setRail_coll (s : State) (n : Nat) (r : Rail) : (s.setRail n r).coll = s.coll := rfl
@[simp] theorem State.setRail_flt (s : State) (n : Nat) (r : Rail) : (s.setRail n r).flt = s.flt := rfl
@[simp] theorem State.setRail_free (s : State) (n : Nat) (r : Rail) : (s.setRail n r).free = s.free := rfl
@[simp] theorem State.setPass_pending (s : State) (n : Nat) (p : Pass) : (s.setPass n p).pending = s.pending := rfl
@[simp] theorem State.setPass_ctr (s : State) (n : Nat) (p : Pass) : (s.setPass n p).ctr = s.ctr := rfl
@[simp] theorem State.setPass_sbm (s : State) (n : Nat) (p : Pass) : (s.setPass n p).sbm = s.sbm := rfl
@[simp] theorem State.setPass_pwr (s : State) (n : Nat) (p : Pass) : (s.setPass n p).pwr = s.pwr := rfl
@[simp] theorem State.setPass_evt (s : State) (n : Nat) (p : Pass) : (s.setPass n p).evt = s.evt := rfl
@[simp] theorem State.setPass_sec (s : State) (n : Nat) (p : Pass) : (s.setPass n p).sec = s.sec := rfl
@[simp] theorem State.setPass_ana (s : State) (n : Nat) (p : Pass) : (s.setPass n p).ana = s.ana := rfl
@[simp] theorem State.setPass_cal (s : State) (n : Nat) (p : Pass) : (s.setPass n p).cal = s.cal := rfl
@[simp] theorem State.setPass_mem (s : State) (n : Nat) (p : Pass) : (s.setPass n p).mem = s.mem := rfl
@[simp] theorem State.setPass_store (s : State) (n : Nat) (p : Pass) : (s.setPass n p).store = s.store := rfl
@[simp] theorem State.setPass_lnk (s : State) (n : Nat) (p : Pass) : (s.setPass n p).lnk = s.lnk := rfl
@[simp] theorem State.setPass_rcp (s : State) (n : Nat) (p : Pass) : (s.setPass n p).rcp = s.rcp := rfl
@[simp] theorem State.setPass_stp (s : State) (n : Nat) (p : Pass) : (s.setPass n p).stp = s.stp := rfl
@[simp] theorem State.setPass_upd (s : State) (n : Nat) (p : Pass) : (s.setPass n p).upd = s.upd := rfl
@[simp] theorem State.setPass_stk (s : State) (n : Nat) (p : Pass) : (s.setPass n p).stk = s.stk := rfl
@[simp] theorem State.setPass_coll (s : State) (n : Nat) (p : Pass) : (s.setPass n p).coll = s.coll := rfl
@[simp] theorem State.setPass_flt (s : State) (n : Nat) (p : Pass) : (s.setPass n p).flt = s.flt := rfl
@[simp] theorem State.setPass_free (s : State) (n : Nat) (p : Pass) : (s.setPass n p).free = s.free := rfl
@[simp] theorem State.post_pending (s : State) (op : Half) (k : Ticket) (st : Nat) (res : List Word) : (s.post op k st res).pending = s.pending := by
  unfold State.post; try dsimp only
  repeat' split
  all_goals first | rfl | simp
@[simp] theorem State.post_ctr (s : State) (op : Half) (k : Ticket) (st : Nat) (res : List Word) : (s.post op k st res).ctr = s.ctr := by
  unfold State.post; try dsimp only
  repeat' split
  all_goals first | rfl | simp
@[simp] theorem State.post_sbm (s : State) (op : Half) (k : Ticket) (st : Nat) (res : List Word) : (s.post op k st res).sbm = s.sbm := by
  unfold State.post; try dsimp only
  repeat' split
  all_goals first | rfl | simp
@[simp] theorem State.post_pwr (s : State) (op : Half) (k : Ticket) (st : Nat) (res : List Word) : (s.post op k st res).pwr = s.pwr := by
  unfold State.post; try dsimp only
  repeat' split
  all_goals first | rfl | simp
@[simp] theorem State.post_evt (s : State) (op : Half) (k : Ticket) (st : Nat) (res : List Word) : (s.post op k st res).evt = s.evt := by
  unfold State.post; try dsimp only
  repeat' split
  all_goals first | rfl | simp
@[simp] theorem State.post_sec (s : State) (op : Half) (k : Ticket) (st : Nat) (res : List Word) : (s.post op k st res).sec = s.sec := by
  unfold State.post; try dsimp only
  repeat' split
  all_goals first | rfl | simp
@[simp] theorem State.post_ana (s : State) (op : Half) (k : Ticket) (st : Nat) (res : List Word) : (s.post op k st res).ana = s.ana := by
  unfold State.post; try dsimp only
  repeat' split
  all_goals first | rfl | simp
@[simp] theorem State.post_cal (s : State) (op : Half) (k : Ticket) (st : Nat) (res : List Word) : (s.post op k st res).cal = s.cal := by
  unfold State.post; try dsimp only
  repeat' split
  all_goals first | rfl | simp
@[simp] theorem State.post_mem (s : State) (op : Half) (k : Ticket) (st : Nat) (res : List Word) : (s.post op k st res).mem = s.mem := by
  unfold State.post; try dsimp only
  repeat' split
  all_goals first | rfl | simp
@[simp] theorem State.post_store (s : State) (op : Half) (k : Ticket) (st : Nat) (res : List Word) : (s.post op k st res).store = s.store := by
  unfold State.post; try dsimp only
  repeat' split
  all_goals first | rfl | simp
@[simp] theorem State.post_lnk (s : State) (op : Half) (k : Ticket) (st : Nat) (res : List Word) : (s.post op k st res).lnk = s.lnk := by
  unfold State.post; try dsimp only
  repeat' split
  all_goals first | rfl | simp
@[simp] theorem State.post_rcp (s : State) (op : Half) (k : Ticket) (st : Nat) (res : List Word) : (s.post op k st res).rcp = s.rcp := by
  unfold State.post; try dsimp only
  repeat' split
  all_goals first | rfl | simp
@[simp] theorem State.post_stp (s : State) (op : Half) (k : Ticket) (st : Nat) (res : List Word) : (s.post op k st res).stp = s.stp := by
  unfold State.post; try dsimp only
  repeat' split
  all_goals first | rfl | simp
@[simp] theorem State.post_upd (s : State) (op : Half) (k : Ticket) (st : Nat) (res : List Word) : (s.post op k st res).upd = s.upd := by
  unfold State.post; try dsimp only
  repeat' split
  all_goals first | rfl | simp
@[simp] theorem State.post_stk (s : State) (op : Half) (k : Ticket) (st : Nat) (res : List Word) : (s.post op k st res).stk = s.stk := by
  unfold State.post; try dsimp only
  repeat' split
  all_goals first | rfl | simp
@[simp] theorem State.post_coll (s : State) (op : Half) (k : Ticket) (st : Nat) (res : List Word) : (s.post op k st res).coll = s.coll := by
  unfold State.post; try dsimp only
  repeat' split
  all_goals first | rfl | simp
@[simp] theorem State.post_flt (s : State) (op : Half) (k : Ticket) (st : Nat) (res : List Word) : (s.post op k st res).flt = s.flt := by
  unfold State.post; try dsimp only
  repeat' split
  all_goals first | rfl | simp
@[simp] theorem State.post_free (s : State) (op : Half) (k : Ticket) (st : Nat) (res : List Word) : (s.post op k st res).free = s.free := by
  unfold State.post; try dsimp only
  repeat' split
  all_goals first | rfl | simp
@[simp] theorem State.complete_pending (s : State) (w : WaitTicket) (st : Nat) (res : List Word) : (s.complete w st res).pending = s.pending := by
  unfold State.complete; try dsimp only
  repeat' split
  all_goals first | rfl | simp
@[simp] theorem State.complete_ctr (s : State) (w : WaitTicket) (st : Nat) (res : List Word) : (s.complete w st res).ctr = s.ctr := by
  unfold State.complete; try dsimp only
  repeat' split
  all_goals first | rfl | simp
@[simp] theorem State.complete_sbm (s : State) (w : WaitTicket) (st : Nat) (res : List Word) : (s.complete w st res).sbm = s.sbm := by
  unfold State.complete; try dsimp only
  repeat' split
  all_goals first | rfl | simp
@[simp] theorem State.complete_pwr (s : State) (w : WaitTicket) (st : Nat) (res : List Word) : (s.complete w st res).pwr = s.pwr := by
  unfold State.complete; try dsimp only
  repeat' split
  all_goals first | rfl | simp
@[simp] theorem State.complete_evt (s : State) (w : WaitTicket) (st : Nat) (res : List Word) : (s.complete w st res).evt = s.evt := by
  unfold State.complete; try dsimp only
  repeat' split
  all_goals first | rfl | simp
@[simp] theorem State.complete_sec (s : State) (w : WaitTicket) (st : Nat) (res : List Word) : (s.complete w st res).sec = s.sec := by
  unfold State.complete; try dsimp only
  repeat' split
  all_goals first | rfl | simp
@[simp] theorem State.complete_ana (s : State) (w : WaitTicket) (st : Nat) (res : List Word) : (s.complete w st res).ana = s.ana := by
  unfold State.complete; try dsimp only
  repeat' split
  all_goals first | rfl | simp
@[simp] theorem State.complete_cal (s : State) (w : WaitTicket) (st : Nat) (res : List Word) : (s.complete w st res).cal = s.cal := by
  unfold State.complete; try dsimp only
  repeat' split
  all_goals first | rfl | simp
@[simp] theorem State.complete_mem (s : State) (w : WaitTicket) (st : Nat) (res : List Word) : (s.complete w st res).mem = s.mem := by
  unfold State.complete; try dsimp only
  repeat' split
  all_goals first | rfl | simp
@[simp] theorem State.complete_store (s : State) (w : WaitTicket) (st : Nat) (res : List Word) : (s.complete w st res).store = s.store := by
  unfold State.complete; try dsimp only
  repeat' split
  all_goals first | rfl | simp
@[simp] theorem State.complete_lnk (s : State) (w : WaitTicket) (st : Nat) (res : List Word) : (s.complete w st res).lnk = s.lnk := by
  unfold State.complete; try dsimp only
  repeat' split
  all_goals first | rfl | simp
@[simp] theorem State.complete_rcp (s : State) (w : WaitTicket) (st : Nat) (res : List Word) : (s.complete w st res).rcp = s.rcp := by
  unfold State.complete; try dsimp only
  repeat' split
  all_goals first | rfl | simp
@[simp] theorem State.complete_stp (s : State) (w : WaitTicket) (st : Nat) (res : List Word) : (s.complete w st res).stp = s.stp := by
  unfold State.complete; try dsimp only
  repeat' split
  all_goals first | rfl | simp
@[simp] theorem State.complete_upd (s : State) (w : WaitTicket) (st : Nat) (res : List Word) : (s.complete w st res).upd = s.upd := by
  unfold State.complete; try dsimp only
  repeat' split
  all_goals first | rfl | simp
@[simp] theorem State.complete_stk (s : State) (w : WaitTicket) (st : Nat) (res : List Word) : (s.complete w st res).stk = s.stk := by
  unfold State.complete; try dsimp only
  repeat' split
  all_goals first | rfl | simp
@[simp] theorem State.complete_coll (s : State) (w : WaitTicket) (st : Nat) (res : List Word) : (s.complete w st res).coll = s.coll := by
  unfold State.complete; try dsimp only
  repeat' split
  all_goals first | rfl | simp
@[simp] theorem State.complete_flt (s : State) (w : WaitTicket) (st : Nat) (res : List Word) : (s.complete w st res).flt = s.flt := by
  unfold State.complete; try dsimp only
  repeat' split
  all_goals first | rfl | simp
@[simp] theorem State.complete_free (s : State) (w : WaitTicket) (st : Nat) (res : List Word) : (s.complete w st res).free = s.free := by
  unfold State.complete; try dsimp only
  repeat' split
  all_goals first | rfl | simp
@[simp] theorem State.toHost_pending (s : State) (k : Ticket) (bs : List Byte) : (s.toHost k bs).pending = s.pending := rfl
@[simp] theorem State.toHost_ctr (s : State) (k : Ticket) (bs : List Byte) : (s.toHost k bs).ctr = s.ctr := rfl
@[simp] theorem State.toHost_hif (s : State) (k : Ticket) (bs : List Byte) : (s.toHost k bs).hif = s.hif := rfl
@[simp] theorem State.toHost_sbm (s : State) (k : Ticket) (bs : List Byte) : (s.toHost k bs).sbm = s.sbm := rfl
@[simp] theorem State.toHost_pwr (s : State) (k : Ticket) (bs : List Byte) : (s.toHost k bs).pwr = s.pwr := rfl
@[simp] theorem State.toHost_evt (s : State) (k : Ticket) (bs : List Byte) : (s.toHost k bs).evt = s.evt := rfl
@[simp] theorem State.toHost_sec (s : State) (k : Ticket) (bs : List Byte) : (s.toHost k bs).sec = s.sec := rfl
@[simp] theorem State.toHost_ana (s : State) (k : Ticket) (bs : List Byte) : (s.toHost k bs).ana = s.ana := rfl
@[simp] theorem State.toHost_cal (s : State) (k : Ticket) (bs : List Byte) : (s.toHost k bs).cal = s.cal := rfl
@[simp] theorem State.toHost_mem (s : State) (k : Ticket) (bs : List Byte) : (s.toHost k bs).mem = s.mem := rfl
@[simp] theorem State.toHost_lnk (s : State) (k : Ticket) (bs : List Byte) : (s.toHost k bs).lnk = s.lnk := rfl
@[simp] theorem State.toHost_rcp (s : State) (k : Ticket) (bs : List Byte) : (s.toHost k bs).rcp = s.rcp := rfl
@[simp] theorem State.toHost_stp (s : State) (k : Ticket) (bs : List Byte) : (s.toHost k bs).stp = s.stp := rfl
@[simp] theorem State.toHost_upd (s : State) (k : Ticket) (bs : List Byte) : (s.toHost k bs).upd = s.upd := rfl
@[simp] theorem State.toHost_stk (s : State) (k : Ticket) (bs : List Byte) : (s.toHost k bs).stk = s.stk := rfl
@[simp] theorem State.toHost_coll (s : State) (k : Ticket) (bs : List Byte) : (s.toHost k bs).coll = s.coll := rfl
@[simp] theorem State.toHost_flt (s : State) (k : Ticket) (bs : List Byte) : (s.toHost k bs).flt = s.flt := rfl
@[simp] theorem State.toHost_free (s : State) (k : Ticket) (bs : List Byte) : (s.toHost k bs).free = s.free := rfl
@[simp] theorem State.coreWrite_pending (s : State) (c a : Nat) (bs : List Byte) : (s.coreWrite c a bs).pending = s.pending := by
  unfold State.coreWrite; try dsimp only
  repeat' split
  all_goals first | rfl | simp
@[simp] theorem State.coreWrite_ctr (s : State) (c a : Nat) (bs : List Byte) : (s.coreWrite c a bs).ctr = s.ctr := by
  unfold State.coreWrite; try dsimp only
  repeat' split
  all_goals first | rfl | simp
@[simp] theorem State.coreWrite_hif (s : State) (c a : Nat) (bs : List Byte) : (s.coreWrite c a bs).hif = s.hif := by
  unfold State.coreWrite; try dsimp only
  repeat' split
  all_goals first | rfl | simp
@[simp] theorem State.coreWrite_sbm (s : State) (c a : Nat) (bs : List Byte) : (s.coreWrite c a bs).sbm = s.sbm := by
  unfold State.coreWrite; try dsimp only
  repeat' split
  all_goals first | rfl | simp
@[simp] theorem State.coreWrite_pwr (s : State) (c a : Nat) (bs : List Byte) : (s.coreWrite c a bs).pwr = s.pwr := by
  unfold State.coreWrite; try dsimp only
  repeat' split
  all_goals first | rfl | simp
@[simp] theorem State.coreWrite_evt (s : State) (c a : Nat) (bs : List Byte) : (s.coreWrite c a bs).evt = s.evt := by
  unfold State.coreWrite; try dsimp only
  repeat' split
  all_goals first | rfl | simp
@[simp] theorem State.coreWrite_sec (s : State) (c a : Nat) (bs : List Byte) : (s.coreWrite c a bs).sec = s.sec := by
  unfold State.coreWrite; try dsimp only
  repeat' split
  all_goals first | rfl | simp
@[simp] theorem State.coreWrite_ana (s : State) (c a : Nat) (bs : List Byte) : (s.coreWrite c a bs).ana = s.ana := by
  unfold State.coreWrite; try dsimp only
  repeat' split
  all_goals first | rfl | simp
@[simp] theorem State.coreWrite_cal (s : State) (c a : Nat) (bs : List Byte) : (s.coreWrite c a bs).cal = s.cal := by
  unfold State.coreWrite; try dsimp only
  repeat' split
  all_goals first | rfl | simp
@[simp] theorem State.coreWrite_mem (s : State) (c a : Nat) (bs : List Byte) : (s.coreWrite c a bs).mem = s.mem := by
  unfold State.coreWrite; try dsimp only
  repeat' split
  all_goals first | rfl | simp
@[simp] theorem State.coreWrite_lnk (s : State) (c a : Nat) (bs : List Byte) : (s.coreWrite c a bs).lnk = s.lnk := by
  unfold State.coreWrite; try dsimp only
  repeat' split
  all_goals first | rfl | simp
@[simp] theorem State.coreWrite_rcp (s : State) (c a : Nat) (bs : List Byte) : (s.coreWrite c a bs).rcp = s.rcp := by
  unfold State.coreWrite; try dsimp only
  repeat' split
  all_goals first | rfl | simp
@[simp] theorem State.coreWrite_stp (s : State) (c a : Nat) (bs : List Byte) : (s.coreWrite c a bs).stp = s.stp := by
  unfold State.coreWrite; try dsimp only
  repeat' split
  all_goals first | rfl | simp
@[simp] theorem State.coreWrite_upd (s : State) (c a : Nat) (bs : List Byte) : (s.coreWrite c a bs).upd = s.upd := by
  unfold State.coreWrite; try dsimp only
  repeat' split
  all_goals first | rfl | simp
@[simp] theorem State.coreWrite_stk (s : State) (c a : Nat) (bs : List Byte) : (s.coreWrite c a bs).stk = s.stk := by
  unfold State.coreWrite; try dsimp only
  repeat' split
  all_goals first | rfl | simp
@[simp] theorem State.coreWrite_coll (s : State) (c a : Nat) (bs : List Byte) : (s.coreWrite c a bs).coll = s.coll := by
  unfold State.coreWrite; try dsimp only
  repeat' split
  all_goals first | rfl | simp
@[simp] theorem State.coreWrite_flt (s : State) (c a : Nat) (bs : List Byte) : (s.coreWrite c a bs).flt = s.flt := by
  unfold State.coreWrite; try dsimp only
  repeat' split
  all_goals first | rfl | simp
@[simp] theorem State.coreWrite_free (s : State) (c a : Nat) (bs : List Byte) : (s.coreWrite c a bs).free = s.free := by
  unfold State.coreWrite; try dsimp only
  repeat' split
  all_goals first | rfl | simp
@[simp] theorem State.rawWrite_pending (s : State) (r off : Nat) (bs : List Byte) : (s.rawWrite r off bs).pending = s.pending := rfl
@[simp] theorem State.rawWrite_ctr (s : State) (r off : Nat) (bs : List Byte) : (s.rawWrite r off bs).ctr = s.ctr := rfl
@[simp] theorem State.rawWrite_hif (s : State) (r off : Nat) (bs : List Byte) : (s.rawWrite r off bs).hif = s.hif := rfl
@[simp] theorem State.rawWrite_sbm (s : State) (r off : Nat) (bs : List Byte) : (s.rawWrite r off bs).sbm = s.sbm := rfl
@[simp] theorem State.rawWrite_pwr (s : State) (r off : Nat) (bs : List Byte) : (s.rawWrite r off bs).pwr = s.pwr := rfl
@[simp] theorem State.rawWrite_evt (s : State) (r off : Nat) (bs : List Byte) : (s.rawWrite r off bs).evt = s.evt := rfl
@[simp] theorem State.rawWrite_sec (s : State) (r off : Nat) (bs : List Byte) : (s.rawWrite r off bs).sec = s.sec := rfl
@[simp] theorem State.rawWrite_ana (s : State) (r off : Nat) (bs : List Byte) : (s.rawWrite r off bs).ana = s.ana := rfl
@[simp] theorem State.rawWrite_cal (s : State) (r off : Nat) (bs : List Byte) : (s.rawWrite r off bs).cal = s.cal := rfl
@[simp] theorem State.rawWrite_lnk (s : State) (r off : Nat) (bs : List Byte) : (s.rawWrite r off bs).lnk = s.lnk := rfl
@[simp] theorem State.rawWrite_rcp (s : State) (r off : Nat) (bs : List Byte) : (s.rawWrite r off bs).rcp = s.rcp := rfl
@[simp] theorem State.rawWrite_stp (s : State) (r off : Nat) (bs : List Byte) : (s.rawWrite r off bs).stp = s.stp := rfl
@[simp] theorem State.rawWrite_upd (s : State) (r off : Nat) (bs : List Byte) : (s.rawWrite r off bs).upd = s.upd := rfl
@[simp] theorem State.rawWrite_stk (s : State) (r off : Nat) (bs : List Byte) : (s.rawWrite r off bs).stk = s.stk := rfl
@[simp] theorem State.rawWrite_coll (s : State) (r off : Nat) (bs : List Byte) : (s.rawWrite r off bs).coll = s.coll := rfl
@[simp] theorem State.rawWrite_flt (s : State) (r off : Nat) (bs : List Byte) : (s.rawWrite r off bs).flt = s.flt := rfl
@[simp] theorem State.rawWrite_free (s : State) (r off : Nat) (bs : List Byte) : (s.rawWrite r off bs).free = s.free := rfl
@[simp] theorem State.rsp_pending (s : State) (st : Nat) (l : List Word) : (s.rsp st l).pending = s.pending := rfl
@[simp] theorem State.rsp_ctr (s : State) (st : Nat) (l : List Word) : (s.rsp st l).ctr = s.ctr := rfl
@[simp] theorem State.rsp_hif (s : State) (st : Nat) (l : List Word) : (s.rsp st l).hif = s.hif := rfl
@[simp] theorem State.rsp_pwr (s : State) (st : Nat) (l : List Word) : (s.rsp st l).pwr = s.pwr := rfl
@[simp] theorem State.rsp_evt (s : State) (st : Nat) (l : List Word) : (s.rsp st l).evt = s.evt := rfl
@[simp] theorem State.rsp_sec (s : State) (st : Nat) (l : List Word) : (s.rsp st l).sec = s.sec := rfl
@[simp] theorem State.rsp_ana (s : State) (st : Nat) (l : List Word) : (s.rsp st l).ana = s.ana := rfl
@[simp] theorem State.rsp_cal (s : State) (st : Nat) (l : List Word) : (s.rsp st l).cal = s.cal := rfl
@[simp] theorem State.rsp_mem (s : State) (st : Nat) (l : List Word) : (s.rsp st l).mem = s.mem := rfl
@[simp] theorem State.rsp_store (s : State) (st : Nat) (l : List Word) : (s.rsp st l).store = s.store := rfl
@[simp] theorem State.rsp_lnk (s : State) (st : Nat) (l : List Word) : (s.rsp st l).lnk = s.lnk := rfl
@[simp] theorem State.rsp_rcp (s : State) (st : Nat) (l : List Word) : (s.rsp st l).rcp = s.rcp := rfl
@[simp] theorem State.rsp_stp (s : State) (st : Nat) (l : List Word) : (s.rsp st l).stp = s.stp := rfl
@[simp] theorem State.rsp_upd (s : State) (st : Nat) (l : List Word) : (s.rsp st l).upd = s.upd := rfl
@[simp] theorem State.rsp_stk (s : State) (st : Nat) (l : List Word) : (s.rsp st l).stk = s.stk := rfl
@[simp] theorem State.rsp_coll (s : State) (st : Nat) (l : List Word) : (s.rsp st l).coll = s.coll := rfl
@[simp] theorem State.rsp_flt (s : State) (st : Nat) (l : List Word) : (s.rsp st l).flt = s.flt := rfl
@[simp] theorem State.rsp_free (s : State) (st : Nat) (l : List Word) : (s.rsp st l).free = s.free := rfl
@[simp] theorem State.setHist_pending (s : State) (e : UnitHist) : (s.setHist e).pending = s.pending := by
  unfold State.setHist; try dsimp only
  repeat' split
  all_goals first | rfl | simp
@[simp] theorem State.setHist_hif (s : State) (e : UnitHist) : (s.setHist e).hif = s.hif := by
  unfold State.setHist; try dsimp only
  repeat' split
  all_goals first | rfl | simp
@[simp] theorem State.setHist_sbm (s : State) (e : UnitHist) : (s.setHist e).sbm = s.sbm := by
  unfold State.setHist; try dsimp only
  repeat' split
  all_goals first | rfl | simp
@[simp] theorem State.setHist_pwr (s : State) (e : UnitHist) : (s.setHist e).pwr = s.pwr := by
  unfold State.setHist; try dsimp only
  repeat' split
  all_goals first | rfl | simp
@[simp] theorem State.setHist_evt (s : State) (e : UnitHist) : (s.setHist e).evt = s.evt := by
  unfold State.setHist; try dsimp only
  repeat' split
  all_goals first | rfl | simp
@[simp] theorem State.setHist_sec (s : State) (e : UnitHist) : (s.setHist e).sec = s.sec := by
  unfold State.setHist; try dsimp only
  repeat' split
  all_goals first | rfl | simp
@[simp] theorem State.setHist_ana (s : State) (e : UnitHist) : (s.setHist e).ana = s.ana := by
  unfold State.setHist; try dsimp only
  repeat' split
  all_goals first | rfl | simp
@[simp] theorem State.setHist_cal (s : State) (e : UnitHist) : (s.setHist e).cal = s.cal := by
  unfold State.setHist; try dsimp only
  repeat' split
  all_goals first | rfl | simp
@[simp] theorem State.setHist_mem (s : State) (e : UnitHist) : (s.setHist e).mem = s.mem := by
  unfold State.setHist; try dsimp only
  repeat' split
  all_goals first | rfl | simp
@[simp] theorem State.setHist_store (s : State) (e : UnitHist) : (s.setHist e).store = s.store := by
  unfold State.setHist; try dsimp only
  repeat' split
  all_goals first | rfl | simp
@[simp] theorem State.setHist_lnk (s : State) (e : UnitHist) : (s.setHist e).lnk = s.lnk := by
  unfold State.setHist; try dsimp only
  repeat' split
  all_goals first | rfl | simp
@[simp] theorem State.setHist_rcp (s : State) (e : UnitHist) : (s.setHist e).rcp = s.rcp := by
  unfold State.setHist; try dsimp only
  repeat' split
  all_goals first | rfl | simp
@[simp] theorem State.setHist_stp (s : State) (e : UnitHist) : (s.setHist e).stp = s.stp := by
  unfold State.setHist; try dsimp only
  repeat' split
  all_goals first | rfl | simp
@[simp] theorem State.setHist_upd (s : State) (e : UnitHist) : (s.setHist e).upd = s.upd := by
  unfold State.setHist; try dsimp only
  repeat' split
  all_goals first | rfl | simp
@[simp] theorem State.setHist_stk (s : State) (e : UnitHist) : (s.setHist e).stk = s.stk := by
  unfold State.setHist; try dsimp only
  repeat' split
  all_goals first | rfl | simp
@[simp] theorem State.setHist_coll (s : State) (e : UnitHist) : (s.setHist e).coll = s.coll := by
  unfold State.setHist; try dsimp only
  repeat' split
  all_goals first | rfl | simp
@[simp] theorem State.setHist_free (s : State) (e : UnitHist) : (s.setHist e).free = s.free := by
  unfold State.setHist; try dsimp only
  repeat' split
  all_goals first | rfl | simp
@[simp] theorem State.hold_pending (s : State) (n : Nat) : (s.hold n).pending = s.pending := rfl
@[simp] theorem State.hold_ctr (s : State) (n : Nat) : (s.hold n).ctr = s.ctr := rfl
@[simp] theorem State.hold_hif (s : State) (n : Nat) : (s.hold n).hif = s.hif := rfl
@[simp] theorem State.hold_sbm (s : State) (n : Nat) : (s.hold n).sbm = s.sbm := rfl
@[simp] theorem State.hold_pwr (s : State) (n : Nat) : (s.hold n).pwr = s.pwr := rfl
@[simp] theorem State.hold_evt (s : State) (n : Nat) : (s.hold n).evt = s.evt := rfl
@[simp] theorem State.hold_sec (s : State) (n : Nat) : (s.hold n).sec = s.sec := rfl
@[simp] theorem State.hold_ana (s : State) (n : Nat) : (s.hold n).ana = s.ana := rfl
@[simp] theorem State.hold_cal (s : State) (n : Nat) : (s.hold n).cal = s.cal := rfl
@[simp] theorem State.hold_mem (s : State) (n : Nat) : (s.hold n).mem = s.mem := rfl
@[simp] theorem State.hold_store (s : State) (n : Nat) : (s.hold n).store = s.store := rfl
@[simp] theorem State.hold_lnk (s : State) (n : Nat) : (s.hold n).lnk = s.lnk := rfl
@[simp] theorem State.hold_rcp (s : State) (n : Nat) : (s.hold n).rcp = s.rcp := rfl
@[simp] theorem State.hold_upd (s : State) (n : Nat) : (s.hold n).upd = s.upd := rfl
@[simp] theorem State.hold_stk (s : State) (n : Nat) : (s.hold n).stk = s.stk := rfl
@[simp] theorem State.hold_coll (s : State) (n : Nat) : (s.hold n).coll = s.coll := rfl
@[simp] theorem State.hold_flt (s : State) (n : Nat) : (s.hold n).flt = s.flt := rfl
@[simp] theorem State.hold_free (s : State) (n : Nat) : (s.hold n).free = s.free := rfl
@[simp] theorem State.setColl_pending (s : State) (x : CollS) : (s.setColl x).pending = s.pending := rfl
@[simp] theorem State.setColl_ctr (s : State) (x : CollS) : (s.setColl x).ctr = s.ctr := rfl
@[simp] theorem State.setColl_hif (s : State) (x : CollS) : (s.setColl x).hif = s.hif := rfl
@[simp] theorem State.setColl_sbm (s : State) (x : CollS) : (s.setColl x).sbm = s.sbm := rfl
@[simp] theorem State.setColl_pwr (s : State) (x : CollS) : (s.setColl x).pwr = s.pwr := rfl
@[simp] theorem State.setColl_evt (s : State) (x : CollS) : (s.setColl x).evt = s.evt := rfl
@[simp] theorem State.setColl_sec (s : State) (x : CollS) : (s.setColl x).sec = s.sec := rfl
@[simp] theorem State.setColl_ana (s : State) (x : CollS) : (s.setColl x).ana = s.ana := rfl
@[simp] theorem State.setColl_cal (s : State) (x : CollS) : (s.setColl x).cal = s.cal := rfl
@[simp] theorem State.setColl_mem (s : State) (x : CollS) : (s.setColl x).mem = s.mem := rfl
@[simp] theorem State.setColl_store (s : State) (x : CollS) : (s.setColl x).store = s.store := rfl
@[simp] theorem State.setColl_lnk (s : State) (x : CollS) : (s.setColl x).lnk = s.lnk := rfl
@[simp] theorem State.setColl_rcp (s : State) (x : CollS) : (s.setColl x).rcp = s.rcp := rfl
@[simp] theorem State.setColl_stp (s : State) (x : CollS) : (s.setColl x).stp = s.stp := rfl
@[simp] theorem State.setColl_upd (s : State) (x : CollS) : (s.setColl x).upd = s.upd := rfl
@[simp] theorem State.setColl_stk (s : State) (x : CollS) : (s.setColl x).stk = s.stk := rfl
@[simp] theorem State.setColl_flt (s : State) (x : CollS) : (s.setColl x).flt = s.flt := rfl
@[simp] theorem State.setColl_free (s : State) (x : CollS) : (s.setColl x).free = s.free := rfl
@[simp] theorem State.setStk_pending (s : State) (c : Nat) (k : Stk) : (s.setStk c k).pending = s.pending := rfl
@[simp] theorem State.setStk_ctr (s : State) (c : Nat) (k : Stk) : (s.setStk c k).ctr = s.ctr := rfl
@[simp] theorem State.setStk_hif (s : State) (c : Nat) (k : Stk) : (s.setStk c k).hif = s.hif := rfl
@[simp] theorem State.setStk_sbm (s : State) (c : Nat) (k : Stk) : (s.setStk c k).sbm = s.sbm := rfl
@[simp] theorem State.setStk_pwr (s : State) (c : Nat) (k : Stk) : (s.setStk c k).pwr = s.pwr := rfl
@[simp] theorem State.setStk_evt (s : State) (c : Nat) (k : Stk) : (s.setStk c k).evt = s.evt := rfl
@[simp] theorem State.setStk_sec (s : State) (c : Nat) (k : Stk) : (s.setStk c k).sec = s.sec := rfl
@[simp] theorem State.setStk_ana (s : State) (c : Nat) (k : Stk) : (s.setStk c k).ana = s.ana := rfl
@[simp] theorem State.setStk_cal (s : State) (c : Nat) (k : Stk) : (s.setStk c k).cal = s.cal := rfl
@[simp] theorem State.setStk_mem (s : State) (c : Nat) (k : Stk) : (s.setStk c k).mem = s.mem := rfl
@[simp] theorem State.setStk_store (s : State) (c : Nat) (k : Stk) : (s.setStk c k).store = s.store := rfl
@[simp] theorem State.setStk_lnk (s : State) (c : Nat) (k : Stk) : (s.setStk c k).lnk = s.lnk := rfl
@[simp] theorem State.setStk_rcp (s : State) (c : Nat) (k : Stk) : (s.setStk c k).rcp = s.rcp := rfl
@[simp] theorem State.setStk_stp (s : State) (c : Nat) (k : Stk) : (s.setStk c k).stp = s.stp := rfl
@[simp] theorem State.setStk_upd (s : State) (c : Nat) (k : Stk) : (s.setStk c k).upd = s.upd := rfl
@[simp] theorem State.setStk_coll (s : State) (c : Nat) (k : Stk) : (s.setStk c k).coll = s.coll := rfl
@[simp] theorem State.setStk_flt (s : State) (c : Nat) (k : Stk) : (s.setStk c k).flt = s.flt := rfl
@[simp] theorem State.setStk_free (s : State) (c : Nat) (k : Stk) : (s.setStk c k).free = s.free := rfl
@[simp] theorem State.setTgen_pending (s : State) (d : Nat) (g : TrafficGen) : (s.setTgen d g).pending = s.pending := rfl
@[simp] theorem State.setTgen_ctr (s : State) (d : Nat) (g : TrafficGen) : (s.setTgen d g).ctr = s.ctr := rfl
@[simp] theorem State.setTgen_hif (s : State) (d : Nat) (g : TrafficGen) : (s.setTgen d g).hif = s.hif := rfl
@[simp] theorem State.setTgen_sbm (s : State) (d : Nat) (g : TrafficGen) : (s.setTgen d g).sbm = s.sbm := rfl
@[simp] theorem State.setTgen_pwr (s : State) (d : Nat) (g : TrafficGen) : (s.setTgen d g).pwr = s.pwr := rfl
@[simp] theorem State.setTgen_evt (s : State) (d : Nat) (g : TrafficGen) : (s.setTgen d g).evt = s.evt := rfl
@[simp] theorem State.setTgen_sec (s : State) (d : Nat) (g : TrafficGen) : (s.setTgen d g).sec = s.sec := rfl
@[simp] theorem State.setTgen_ana (s : State) (d : Nat) (g : TrafficGen) : (s.setTgen d g).ana = s.ana := rfl
@[simp] theorem State.setTgen_cal (s : State) (d : Nat) (g : TrafficGen) : (s.setTgen d g).cal = s.cal := rfl
@[simp] theorem State.setTgen_store (s : State) (d : Nat) (g : TrafficGen) : (s.setTgen d g).store = s.store := rfl
@[simp] theorem State.setTgen_lnk (s : State) (d : Nat) (g : TrafficGen) : (s.setTgen d g).lnk = s.lnk := rfl
@[simp] theorem State.setTgen_rcp (s : State) (d : Nat) (g : TrafficGen) : (s.setTgen d g).rcp = s.rcp := rfl
@[simp] theorem State.setTgen_stp (s : State) (d : Nat) (g : TrafficGen) : (s.setTgen d g).stp = s.stp := rfl
@[simp] theorem State.setTgen_upd (s : State) (d : Nat) (g : TrafficGen) : (s.setTgen d g).upd = s.upd := rfl
@[simp] theorem State.setTgen_stk (s : State) (d : Nat) (g : TrafficGen) : (s.setTgen d g).stk = s.stk := rfl
@[simp] theorem State.setTgen_coll (s : State) (d : Nat) (g : TrafficGen) : (s.setTgen d g).coll = s.coll := rfl
@[simp] theorem State.setTgen_flt (s : State) (d : Nat) (g : TrafficGen) : (s.setTgen d g).flt = s.flt := rfl
@[simp] theorem State.setTgen_free (s : State) (d : Nat) (g : TrafficGen) : (s.setTgen d g).free = s.free := rfl
@[simp] theorem State.swapBanks_pending (s : State) : (s.swapBanks).pending = s.pending := rfl
@[simp] theorem State.swapBanks_ctr (s : State) : (s.swapBanks).ctr = s.ctr := rfl
@[simp] theorem State.swapBanks_hif (s : State) : (s.swapBanks).hif = s.hif := rfl
@[simp] theorem State.swapBanks_sbm (s : State) : (s.swapBanks).sbm = s.sbm := rfl
@[simp] theorem State.swapBanks_pwr (s : State) : (s.swapBanks).pwr = s.pwr := rfl
@[simp] theorem State.swapBanks_evt (s : State) : (s.swapBanks).evt = s.evt := rfl
@[simp] theorem State.swapBanks_sec (s : State) : (s.swapBanks).sec = s.sec := rfl
@[simp] theorem State.swapBanks_ana (s : State) : (s.swapBanks).ana = s.ana := rfl
@[simp] theorem State.swapBanks_cal (s : State) : (s.swapBanks).cal = s.cal := rfl
@[simp] theorem State.swapBanks_store (s : State) : (s.swapBanks).store = s.store := rfl
@[simp] theorem State.swapBanks_lnk (s : State) : (s.swapBanks).lnk = s.lnk := rfl
@[simp] theorem State.swapBanks_rcp (s : State) : (s.swapBanks).rcp = s.rcp := rfl
@[simp] theorem State.swapBanks_stp (s : State) : (s.swapBanks).stp = s.stp := rfl
@[simp] theorem State.swapBanks_upd (s : State) : (s.swapBanks).upd = s.upd := rfl
@[simp] theorem State.swapBanks_stk (s : State) : (s.swapBanks).stk = s.stk := rfl
@[simp] theorem State.swapBanks_coll (s : State) : (s.swapBanks).coll = s.coll := rfl
@[simp] theorem State.swapBanks_flt (s : State) : (s.swapBanks).flt = s.flt := rfl
@[simp] theorem State.swapBanks_free (s : State) : (s.swapBanks).free = s.free := rfl
@[simp] theorem State.dropBanks_pending (s : State) : (s.dropBanks).pending = s.pending := rfl
@[simp] theorem State.dropBanks_ctr (s : State) : (s.dropBanks).ctr = s.ctr := rfl
@[simp] theorem State.dropBanks_hif (s : State) : (s.dropBanks).hif = s.hif := rfl
@[simp] theorem State.dropBanks_sbm (s : State) : (s.dropBanks).sbm = s.sbm := rfl
@[simp] theorem State.dropBanks_pwr (s : State) : (s.dropBanks).pwr = s.pwr := rfl
@[simp] theorem State.dropBanks_evt (s : State) : (s.dropBanks).evt = s.evt := rfl
@[simp] theorem State.dropBanks_sec (s : State) : (s.dropBanks).sec = s.sec := rfl
@[simp] theorem State.dropBanks_ana (s : State) : (s.dropBanks).ana = s.ana := rfl
@[simp] theorem State.dropBanks_cal (s : State) : (s.dropBanks).cal = s.cal := rfl
@[simp] theorem State.dropBanks_lnk (s : State) : (s.dropBanks).lnk = s.lnk := rfl
@[simp] theorem State.dropBanks_rcp (s : State) : (s.dropBanks).rcp = s.rcp := rfl
@[simp] theorem State.dropBanks_stp (s : State) : (s.dropBanks).stp = s.stp := rfl
@[simp] theorem State.dropBanks_upd (s : State) : (s.dropBanks).upd = s.upd := rfl
@[simp] theorem State.dropBanks_stk (s : State) : (s.dropBanks).stk = s.stk := rfl
@[simp] theorem State.dropBanks_coll (s : State) : (s.dropBanks).coll = s.coll := rfl
@[simp] theorem State.dropBanks_flt (s : State) : (s.dropBanks).flt = s.flt := rfl
@[simp] theorem State.dropBanks_free (s : State) : (s.dropBanks).free = s.free := rfl

/-! ### COUNT registers after an operation -/

theorem satAdd_zero (w : Word) : satAdd w 0 = w := by
  unfold satAdd
  rw [Nat.add_zero, Nat.min_eq_right (by have := w.isLt; omega)]
  simp

theorem State.ctrGet_count (s : State) (off n o : Nat) :
    (s.count off n).ctrGet o = if o = off then satAdd (s.ctrGet o) n else s.ctrGet o := by
  unfold State.count
  split
  · rename_i h
    subst h
    split
    · rw [satAdd_zero]
    · rfl
  · unfold State.ctrGet
    by_cases h : o = off
    · subst h
      simp
    · rw [if_neg h]
      exact Tab.get_put_other _ _ _ _ _ h

/-- Events change the recorder's two counters alone. -/
theorem State.ctrGet_record (s : State) (r : Record) (unit o : Nat) (h1 : o ≠ cRecCoal) (h2 : o ≠ cRecDrop) :
    (s.record r unit).ctrGet o = s.ctrGet o := by
  have hk : ∀ (t : State), t.ctr = s.ctr → t.ctrGet o = s.ctrGet o := fun t ht => by unfold State.ctrGet; rw [ht]
  unfold State.record
  dsimp only
  have hs : (if prioOf r.code = 0 then s.setAlarm (r.code / 4096) else s).ctr = s.ctr := by
    split
    · exact State.setAlarm_ctr s _
    · rfl
  split
  · split
    · exact hk _ hs
    · rw [State.ctrGet_count, if_neg h1]; exact hk _ hs
    · rw [State.ctrGet_count, if_neg h2]; exact hk _ hs
    · rw [State.ctrGet_count, if_neg h2]; exact hk _ hs
  · split
    · exact hk _ hs
    · exact hk _ hs

theorem State.ctrGet_raiseU (s : State) (code unit o : Nat) (l : List Word) (h1 : o ≠ cRecCoal) (h2 : o ≠ cRecDrop) :
    (s.raiseU code unit l).ctrGet o = s.ctrGet o :=
  s.ctrGet_record _ _ _ h1 h2

/-- An ALARM event sets its class's bit. -/
theorem State.record_alarm (s : State) (r : Record) (unit : Nat) (h : prioOf r.code = 0) (hc : r.code / 4096 < 14) :
    (s.record r unit).evt.alarm.getLsbD (r.code / 4096) = true := by
  have ha : (s.setAlarm (r.code / 4096)).evt.alarm.getLsbD (r.code / 4096) = true := by
    unfold State.setAlarm
    split
    · assumption
    · have : ∀ (t : State) m, (t.alert m).evt = t.evt := fun t m => State.alert_evt t m
      rw [this]
      simp only [BitVec.getLsbD_or, BitVec.getLsbD_ofNat]
      have : (2 ^ (r.code / 4096)).testBit (r.code / 4096) = true := Nat.testBit_two_pow_self
      simp [this, hc]
  have ht : ∀ (e : Recorder) r u, (e.take r u).alarm = e.alarm := by
    intro e r u
    unfold Recorder.take
    dsimp only
    split <;> rfl
  unfold State.record
  simp only [h, if_true]
  split
  · split <;> simp [ht, ha]
  · split
    · have : ∀ (e : Recorder) r, (e.takeAon r).alarm = e.alarm := by
        intro e r
        unfold Recorder.takeAon
        split <;> rfl
      simp [this, ha]
    · exact ha

theorem State.raiseU_alarm (s : State) (code unit : Nat) (l : List Word) (h : prioOf code = 0) (hc : code / 4096 < 14) :
    (s.raiseU code unit l).evt.alarm.getLsbD (code / 4096) = true :=
  s.record_alarm (s.mkRecord code l) unit h hc

end Sys2Proof.Machine
end

