-- ==== Sys2Proof/Laws/Tickets.lean ====
section
/-! SUPPORT. A ticket that the state takes at once: its submission is its own effect on the state that has it in flight, and a
completion is its posting. -/

namespace Sys2Proof.Machine

theorem State.finishDeletes_nil (s : State) : s.finishDeletes [] = s := rfl

theorem State.startable_nil (s : State) (l : List WaitTicket) : s.startable l [] = none := rfl

/-- With nothing waiting, no ticket starts. -/
theorem State.drainN_quiet (s : State) (n : Nat) (hw : s.hif.waitq = []) (hd : s.hif.deleting = []) : s.drainN n = s := by
  cases n with
  | zero => rfl
  | succ n => simp [State.drainN, hd, hw, State.finishDeletes_nil, State.startable_nil]

/-- The first ticket that may start does. -/
theorem State.drainN_start (s u : State) (w : WaitTicket) (n : Nat) (hd : s.hif.deleting = [])
    (hs : s.startable [] s.hif.waitq = some w)
    (hu : ({ s with hif := { s.hif with waitq := s.hif.waitq.erase w } } : State) = u) :
    s.drainN (n + 1) = (u.startTicket w).drainN n := by
  have h0 : s.finishDeletes s.hif.deleting = s := by rw [hd]; rfl
  rw [State.drainN]
  dsimp only
  rw [h0, hs]
  subst hu
  rfl

/-- A ticket outside a sequenced run completes by being posted. -/
theorem State.complete_post (u : State) (w : WaitTicket) (st : Nat) (res : List Word) (h : u.hif.seqBusy = none) :
    u.complete w st res = u.post w.op w.t st res := by
  have : (u.post w.op w.t st res).hif.seqBusy = none := by
    unfold State.post
    split
    · exact h
    · dsimp only
      split <;> exact h
  unfold State.complete
  simp [this]

theorem State.post_waitq (u : State) (op : Half) (k : Ticket) (st : Nat) (res : List Word) :
    (u.post op k st res).hif.waitq = u.hif.waitq ∧ (u.post op k st res).hif.deleting = u.hif.deleting := by
  unfold State.post
  split
  · exact ⟨rfl, rfl⟩
  · dsimp only
    split <;> exact ⟨rfl, rfl⟩

/-- A layout without a flaw. -/
theorem LayoutOk.flaw {w : WaitTicket} {n a : Nat} {q : Bool} (h : LayoutOk w.t n a) : w.flaw (n, a, q) = none := by
  have h3 : (w.t.p.drop n).findIdx? (fun x => x != 0) = none := by
    rw [List.findIdx?_eq_none_iff]
    intro x hx
    simp [h.unused x hx]
  have hs : (if w.t.sgl && a == 1 then sglBad w.t else none) = none := by
    split
    · rename_i hc
      simp only [Bool.and_eq_true, beq_iff_eq] at hc
      obtain ⟨hl, hg⟩ := h.list hc.1 hc.2
      unfold sglBad
      rw [if_neg (by omega), if_neg]
      simp only [List.any_eq_true, not_exists, not_and]
      intro g hm
      simp [hg g hm]
    · rfl
  have ha := h.aligned
  unfold WaitTicket.flaw
  rw [if_neg (by simp [h.rsvd]), if_neg, if_neg]
  · simp only [hs, h3]
    rfl
  · rintro ⟨h1, h2⟩
    simp only [alignOf] at ha
    simp only at h1
    subst h1
    simp at ha
    exact h2 ha
  · rintro ⟨h1, h2⟩
    simp only at h1
    subst h1
    simp [alignOf] at ha
    exact h2 ha

/-- The one ticket of a rail in flight, its command come. -/
def ticketTaken (r : Rail) (op : Half) (k : Ticket) : Rail :=
  { r with inflight := [{ id := k.slot, op := op, tag := k.tag, words := (r.inflight.head?.map (·.words)).getD [], taken := true }] }

/-- A rail ready for a ticket takes it as it is given. -/
theorem Rail.readyFor.takeIn {r : Rail} {op : Half} {k : Ticket} (h : r.readyFor op k) : r.takeIn op k = (ticketTaken r op k, k) := by
  rcases h with h | ⟨ws, h, hk⟩
  · simp [Rail.takeIn, ticketTaken, h]
  · simp [Rail.takeIn, ticketTaken, h, hk]

/-- A free mailbox starts the ticket it is given, and then what else may start. -/
theorem State.submit_starts {s : State} {w : WaitTicket} (hf : MailboxFree s w.op w.t)
    (hover : s.hif.state = .lost ∨ s.hif.state = .fault → s.stp.saved = none ∧ s.runningRecipe = none) :
    s.submit w = ((s.admits w.op w.t).startTicket w).drainN 1 := by
  obtain ⟨r, hr, hin, hp⟩ := hf.rail
  have hrun : s.mboxRuns = true := by
    have := hf.up
    simp [State.mboxRuns, hf.on, this]
  -- the state that holds the ticket waiting
  have hadm : s.admits w.op w.t = s.setRail w.t.rail (ticketTaken r w.op w.t) := by
    simp [State.admits, hr, ticketTaken]
  have hsub : s.submit w = State.drain { s.admits w.op w.t with hif := { (s.admits w.op w.t).hif with waitq := [w] } } := by
    unfold State.submit
    simp only [hr, hrun, Bool.not_true, Bool.false_eq_true, if_false]
    rw [hin.takeIn, hadm]
    simp [State.setRail, hf.waits]
  rw [hsub]
  generalize hadm' : s.admits w.op w.t = u
  have hu : u = s.setRail w.t.rail (ticketTaken r w.op w.t) := hadm'.symm.trans hadm
  have hst : u.hif.state = s.hif.state := by rw [hu]; rfl
  have hstp : u.stp = s.stp := by rw [hu]; rfl
  have hrcp : u.rcp = s.rcp := by rw [hu]; rfl
  have hsbm : u.sbm = s.sbm := by rw [hu]; rfl
  have hw0 : u.hif.waitq = [] := by rw [hu]; exact hf.waits
  have hd0 : u.hif.deleting = [] := by rw [hu]; exact hf.deletes
  have hb0 : u.hif.seqBusy = none := by rw [hu]; exact hf.alone
  have hfind : Tab.find u.hif.rails w.t.rail = some (ticketTaken r w.op w.t) := by
    rw [hu]; exact Tab.find_put_same _ _ _
  generalize hvv : ({ u with hif := { u.hif with waitq := [w] } } : State) = v
  have hvs : v.hif.state = s.hif.state := by subst hvv; exact hst
  have hvt : v.stp = s.stp := by subst hvv; exact hstp
  have hvr : v.rcp = s.rcp := by subst hvv; exact hrcp
  have hvb : v.hif.seqBusy = none := by subst hvv; exact hb0
  have hvw : v.hif.waitq = [w] := by subst hvv; rfl
  have hvd : v.hif.deleting = [] := by subst hvv; exact hd0
  have hlost : v.endLost = v := by
    unfold State.endLost
    split
    · rename_i hc
      rw [hvs] at hc
      obtain ⟨h1, h2⟩ := hover hc
      have ea : v.endAttempt = v := by
        unfold State.endAttempt
        rw [if_neg]
        simp only [hvt, hf.still.1, h1]
        simp
      have er : v.runningRecipe = none := by
        rw [← h2]
        unfold State.runningRecipe State.recipe
        simp only [hvr]
      simp only [ea, er, Option.isSome_none, Bool.false_eq_true, if_false]
      unfold State.endRunning
      rw [hvb]
    · rfl
  have hdr : v.drain = v.drainN 2 := by
    unfold State.drain
    simp only [hlost, hvb, hvw]
    rfl
  rw [hdr]
  have hmay : v.mayStart [] w = true := by
    subst hvv
    unfold State.mayStart Rail.mayStart
    simp only [hfind, hb0, hstp, hf.still.1, hf.still.2]
    simp [ticketTaken]
  have hback : ({ v with hif := { v.hif with waitq := v.hif.waitq.erase w } } : State) = u := by
    subst hvv
    have : ([w] : List WaitTicket).erase w = [] := by simp
    simp only [this]
    rw [← hw0]
  refine State.drainN_start v u w 1 hvd ?_ hback
  rw [hvw]
  simp only [State.startable, hmay, if_true]

/-- The state that takes a ticket runs it, and then starts what else may start. -/
theorem State.submit_runs {s : State} {w : WaitTicket} {n a : Nat} {q : Bool} (h : TicketOk s w.op w.t n a)
    (he : opEntry w.op = some (n, a, q)) : s.submit w = ((s.admits w.op w.t).runTicket w).drainN 1 := by
  obtain ⟨hl, hf, hs⟩ := h
  rw [State.submit_starts hf hs.gone]
  obtain ⟨r, hr, -⟩ := hf.rail
  generalize hadm : s.admits w.op w.t = u
  have hu : u = s.setRail w.t.rail (ticketTaken r w.op w.t) := by rw [← hadm]; simp [State.admits, hr, ticketTaken]
  have hst : u.hif.state = s.hif.state := by rw [hu]; rfl
  have hsbm : u.sbm = s.sbm := by rw [hu]; rfl
  congr 1
  unfold State.startTicket
  simp only [he]
  have h1 : u.stateAllows w.op = true := by
    unfold State.stateAllows
    rw [hst]
    by_cases hc : s.hif.state = .fault
    · rcases hs.fault hc with h | h <;> simp [hc, h]
    · simp [hc]
  have h2 : u.denies w.op = false := by
    unfold State.denies
    rw [hsbm]
    have p := hs.power
    have c := hs.security
    cases hpw : s.sbm.lockPower <;> cases hsc : s.sbm.lockSecurity <;> simp_all
  simp only [h1, h2, Bool.not_true, Bool.false_eq_true, if_false, LayoutOk.flaw hl]
  have h4 : (if w.wakes = true then u.idleExit w.nvm else u) = u := by
    split
    · rename_i hc
      unfold State.idleExit
      rw [if_neg]
      intro hi
      rw [hst] at hi
      have := hs.awake hi
      simp only [WaitTicket.wakes, WaitTicket.seq, he, Bool.and_eq_true, bne_iff_ne, ne_eq] at hc this
      rcases this with h | h | h
      · rw [hc.1.1] at h; cases h
      · exact hc.1.2 h
      · exact hc.2 h
    · rfl
  rw [h4]

/-- A ticket whose own effect ends in a completion. -/
theorem State.submit_done {s u : State} {w : WaitTicket} {n a st : Nat} {q : Bool} {res : List Word}
    (h : TicketOk s w.op w.t n a) (he : opEntry w.op = some (n, a, q)) (hu : (s.admits w.op w.t).runTicket w = u.complete w st res)
    (hb : u.hif.seqBusy = none) (hw : u.hif.waitq = []) (hd : u.hif.deleting = []) : s.submit w = u.post w.op w.t st res := by
  rw [State.submit_runs h he, hu, State.complete_post u w st res hb]
  exact State.drainN_quiet _ _ ((State.post_waitq u _ _ _ _).1.trans hw) ((State.post_waitq u _ _ _ _).2.trans hd)

/-- A ticket whose own effect leaves it running. -/
theorem State.submit_stays {s : State} {w : WaitTicket} {n a : Nat} {q : Bool} (h : TicketOk s w.op w.t n a)
    (he : opEntry w.op = some (n, a, q)) (hw : ((s.admits w.op w.t).runTicket w).hif.waitq = [])
    (hd : ((s.admits w.op w.t).runTicket w).hif.deleting = []) : s.submit w = (s.admits w.op w.t).runTicket w := by
  rw [State.submit_runs h he]
  exact State.drainN_quiet _ _ hw hd

/-- Admitting a ticket changes the rails alone. -/
theorem State.admits_eq (s : State) (op : Half) (k : Ticket) :
    ∃ rs, s.admits op k = { s with hif := { s.hif with rails := rs } } := by
  unfold State.admits
  split
  · exact ⟨s.hif.rails, rfl⟩
  · exact ⟨_, rfl⟩

/-- An answer that fits the buffer is written there and posted with SUCCESS. -/
theorem State.answer_fits (u : State) (w : WaitTicket) (at0 : Nat) (bs : List Byte) (res : List Word) (b : List Byte)
    (h : at0 + bs.length ≤ bufLen w.t) (hb : w.t.buf = .ok b) :
    u.answer w at0 bs res = (u.toHost (bufFrom w.t at0) bs).complete w 0 res := by
  unfold State.answer
  rw [if_neg (by omega), hb]
  rfl

/-- A ticket whose own effect ends in an answer that fits its buffer. -/
theorem State.submit_page {s u : State} {op : Half} {k : Ticket} {n a at0 : Nat} {q : Bool} {res : List Word} {b bs : List Byte}
    (w : WaitTicket) (hwo : w.op = op) (hwt : w.t = k) (h : TicketOk s op k n a) (he : opEntry op = some (n, a, q))
    (hb : k.buf = .ok b) (hl : at0 + bs.length ≤ bufLen k) (hu : (s.admits op k).runTicket w = u.answer w at0 bs res)
    (h1 : u.hif.seqBusy = none) (h2 : u.hif.waitq = []) (h3 : u.hif.deleting = []) :
    s.submit w = (u.toHost (bufFrom k at0) bs).post op k 0 res := by
  subst hwo hwt
  refine State.submit_done h he ?_ h1 h2 h3
  rw [hu, State.answer_fits _ _ _ _ _ b hl hb]

/-- The same as `submit_done`, with the opcode and the ticket named. -/
theorem State.submit_ends {s u : State} {op : Half} {k : Ticket} {n a st : Nat} {q : Bool} {res : List Word} (w : WaitTicket)
    (hwo : w.op = op) (hwt : w.t = k) (h : TicketOk s op k n a) (he : opEntry op = some (n, a, q))
    (hu : (s.admits op k).runTicket w = u.complete w st res) (hb : u.hif.seqBusy = none) (hw : u.hif.waitq = [])
    (hd : u.hif.deleting = []) : s.submit w = u.post op k st res := by
  subst hwo hwt
  exact State.submit_done h he hu hb hw hd

/-- The same as `submit_stays`, with the opcode and the ticket named. -/
theorem State.submit_runs_on {s u : State} {op : Half} {k : Ticket} {n a : Nat} {q : Bool} (w : WaitTicket)
    (hwo : w.op = op) (hwt : w.t = k) (h : TicketOk s op k n a) (he : opEntry op = some (n, a, q))
    (hu : (s.admits op k).runTicket w = u) (hw : u.hif.waitq = []) (hd : u.hif.deleting = []) : s.submit w = u := by
  subst hwo hwt
  subst hu
  exact State.submit_stays h he hw hd

end Sys2Proof.Machine
end

