-- ==== Sys2Proof/Laws/Writes.lean ====
section
/-! SUPPORT. What a write to a store, to a region or to a bank pair does to what a read gives: the bytes written read back as the attempt sees
them, every other byte reads as before, and what others see of the bank pairs and of the regions written in place does not change. -/

namespace Sys2Proof.Machine

/-! ### Reads byte by byte -/

/-- The byte of a region that `regRead` gives at an offset. -/
def State.byteAt (s : State) (attempt : Bool) (r x : Nat) : Byte :=
  if pairKind (s.regionKind r) then
    Mem.get s.store.gddr (gkey r ((if attempt then s.attemptHalf r (x / 2048) else s.committedHalf r (x / 2048)) * s.bankBytes r + x))
  else if attempt || !openKind (s.regionKind r) then Mem.get s.store.gddr (gkey r x)
  else Mem.get s.visible (gkey r x)

theorem Mem.read_map (m : Mem) (a n : Nat) (h : Mem.wf m) : Mem.read m a n = (List.range n).map (fun i => Mem.get m (a + i)) := by
  apply List.ext_getElem (by simp)
  intro i h1 h2
  have hi : i < n := by simpa using h1
  rw [Mem.read_get m a n i h hi]
  simp

theorem undo_wf (l : List (Nat × Nat × List Byte)) (m : Mem) (h : Mem.wf m) :
    Mem.wf (l.foldl (fun m x => Mem.write m (gkey x.1 x.2.1) x.2.2) m) := by
  induction l generalizing m with
  | nil => exact h
  | cons x r ih => exact ih _ (Mem.wf_write _ _ _ h)

theorem State.visible_wf (s : State) (h : Mem.wf s.store.gddr) : Mem.wf s.visible := undo_wf _ _ h

theorem gkey_add (r a b i : Nat) : gkey r (a + b) + i = gkey r (a + (b + i)) := by
  unfold gkey
  omega

theorem range_split {α : Type} (f : Nat → α) (m n : Nat) (h : m ≤ n) :
    (List.range n).map f = (List.range m).map f ++ (List.range (n - m)).map (fun i => f (m + i)) := by
  obtain ⟨k, rfl⟩ := Nat.exists_eq_add_of_le h
  rw [List.range_add, List.map_append, List.map_map, Nat.add_sub_cancel_left]
  rfl

/-- The pieces of a run read one after the other are the run, each byte in the half of its frame. -/
theorem pieces_read (m : Mem) (hm : Mem.wf m) (g : Nat → Nat) (r b fuel off n : Nat) (h : n = 0 ∨ n + off % 2048 ≤ 2048 * fuel) :
    (pieces fuel off n).flatMap (fun p => Mem.read m (gkey r (g p.1 * b + p.2.1)) p.2.2)
      = (List.range n).map (fun i => Mem.get m (gkey r (g ((off + i) / 2048) * b + (off + i)))) := by
  induction fuel generalizing off n with
  | zero =>
    have : n = 0 := by omega
    subst this
    rfl
  | succ k ih =>
    unfold pieces
    split
    · rename_i h0
      subst h0
      rfl
    · rename_i h0
      generalize hm' : min n (2048 - off % 2048) = c
      have hc : c ≤ n ∧ c + off % 2048 ≤ 2048 ∧ (c = n ∨ c + off % 2048 = 2048) := by omega
      simp only [List.flatMap_cons]
      rw [ih (off + c) (n - c) (by omega), Mem.read_map m _ _ hm]
      refine Eq.trans ?_ (range_split _ c n hc.1).symm
      refine (congrArg (· ++ _) ?_).trans (congrArg (_ ++ ·) ?_)
      · apply List.map_congr_left
        intro i hi
        have hi := List.mem_range.mp hi
        rw [show (off + i) / 2048 = off / 2048 by omega]
        exact congrArg _ (gkey_add ..)
      · apply List.map_congr_left
        intro i _
        rw [Nat.add_assoc]

/-- A read of a region is its bytes. -/
theorem State.regRead_map (s : State) (a : Bool) (r off n : Nat) (h : Mem.wf s.store.gddr) :
    s.regRead a r off n = (List.range n).map (fun i => s.byteAt a r (off + i)) := by
  unfold State.regRead State.byteAt
  split
  · rw [piecesOf, pieces_read _ h (fun f => if a then s.attemptHalf r f else s.committedHalf r f) r (s.bankBytes r) _ _ _ (Or.inr (by omega))]
  · split
    · rw [Mem.read_map _ _ _ h]
      simp only [gkey, Nat.add_assoc]
    · rw [Mem.read_map _ _ _ (s.visible_wf h)]
      simp only [gkey, Nat.add_assoc]

/-! ### Single bytes of a memory -/

/-- What a byte reads as after a write. -/
theorem Mem.get_write (m : Mem) (a : Nat) (bs : List Byte) (k : Nat) :
    Mem.get (Mem.write m a bs) k = if a ≤ k ∧ k < a + bs.length then bs.getD (k - a) 0 else Mem.get m k := by
  split
  · rename_i h
    obtain ⟨i, rfl⟩ := Nat.exists_eq_add_of_le h.1
    rw [Mem.get_write_in m a bs i (by omega), Nat.add_sub_cancel_left, List.getD_eq_getElem?_getD, List.getElem?_eq_getElem (by omega)]
    rfl
  · exact Mem.get_write_out _ _ _ _ (by omega)

/-- Two memories in which a byte reads the same still agree on it after the same writes. -/
theorem undo_get (l : List (Nat × Nat × List Byte)) (m n : Mem) (k : Nat) (h : Mem.get m k = Mem.get n k) :
    Mem.get (l.foldl (fun m x => Mem.write m (gkey x.1 x.2.1) x.2.2) m) k
      = Mem.get (l.foldl (fun m x => Mem.write m (gkey x.1 x.2.1) x.2.2) n) k := by
  induction l generalizing m n with
  | nil => exact h
  | cons x r ih =>
    refine ih _ _ ?_
    rw [Mem.get_write, Mem.get_write, h]

/-! ### Writes to the regions -/

/-- What a write to the regions may change: the devices' bytes, the frames written, what writes in place have covered, and marks. -/
def State.devsOf (s t : State) : Prop :=
  t = { s with store := { s.store with gddr := t.store.gddr },
               mem := { s.mem with poison := t.mem.poison, written := t.mem.written, old := t.mem.old } }

theorem State.devsOf_refl (s : State) : s.devsOf s := rfl

theorem State.devsOf_trans {s t u : State} (h : s.devsOf t) (k : t.devsOf u) : s.devsOf u := by
  unfold State.devsOf at *
  rw [h] at k
  exact k

theorem State.rawWrite_devs (s : State) (r off : Nat) (bs : List Byte) : s.devsOf (s.rawWrite r off bs) := rfl

theorem State.frameWrite_devs (s : State) (r f off : Nat) (bs : List Byte) : s.devsOf (s.frameWrite r f off bs) := by
  unfold State.frameWrite
  by_cases h : s.mem.written.contains (fkey r f) = true
  · simp only [h, if_true]
    rfl
  · simp only [h]
    rfl

theorem State.framesWrite_devs (s : State) (r : Nat) (ps : List (Nat × Nat × Nat)) (bs : List Byte) :
    s.devsOf (s.framesWrite r ps bs) := by
  induction ps generalizing s bs with
  | nil => exact s.devsOf_refl
  | cons p rest ih => exact State.devsOf_trans (s.frameWrite_devs _ _ _ _) (ih _ _)

theorem State.regWrite_devs (s : State) (r off : Nat) (bs : List Byte) : s.devsOf (s.regWrite r off bs) := by
  unfold State.regWrite
  split
  · exact s.framesWrite_devs ..
  · unfold State.keepOld
    split <;> rfl

theorem State.devsOf_regions {s t : State} (h : s.devsOf t) : t.mem.regions = s.mem.regions ∧ t.mem.half1 = s.mem.half1 := by
  unfold State.devsOf at h
  rw [h]
  exact ⟨rfl, rfl⟩

theorem State.bankBytes_frames (s : State) (r : Nat) : s.bankBytes r % 2048 = 0 := by
  unfold State.bankBytes State.regionBytes
  cases s.region r with
  | none => rfl
  | some x => simp only [Option.map_some, Option.getD_some]; omega

/-- Where two byte keys of regions of at most 2^40 bytes are the same, region and place are. -/
theorem gkey_inj {r x r' x' : Nat} (h : gkey r x = gkey r' x') (hx : x < 2 ^ 40) (hx' : x' < 2 ^ 40) : r = r' ∧ x = x' := by
  unfold gkey at h
  omega

theorem State.committedHalf_bit (s : State) (r f : Nat) : s.committedHalf r f = 0 ∨ s.committedHalf r f = 1 := by
  unfold State.committedHalf
  split <;> simp

theorem State.attemptHalf_bit (s : State) (r f : Nat) : s.attemptHalf r f = 0 ∨ s.attemptHalf r f = 1 := by
  have := s.committedHalf_bit r f
  unfold State.attemptHalf
  split <;> omega

/-- The bytes after a frame's write, by key. -/
theorem State.frameWrite_get (s : State) (hm : Mem.wf s.store.gddr) (r f off : Nat) (bs : List Byte) (k : Nat) :
    Mem.get (s.frameWrite r f off bs).store.gddr k =
      let h := s.committedHalf r f
      let b := s.bankBytes r
      if gkey r ((1 - h) * b + off) ≤ k ∧ k < gkey r ((1 - h) * b + off) + bs.length then
        bs.getD (k - gkey r ((1 - h) * b + off)) 0
      else if s.mem.written.contains (fkey r f) = false ∧ gkey r ((1 - h) * b + 2048 * f) ≤ k ∧ k < gkey r ((1 - h) * b + 2048 * f) + 2048 then
        Mem.get s.store.gddr (gkey r (h * b + 2048 * f) + (k - gkey r ((1 - h) * b + 2048 * f)))
      else Mem.get s.store.gddr k := by
  unfold State.frameWrite
  by_cases hw : s.mem.written.contains (fkey r f) = true
  · simp only [hw, if_true, State.rawWrite]
    rw [Mem.get_write]
    simp
  · have hw' : s.mem.written.contains (fkey r f) = false := by simpa using hw
    simp only [hw', State.rawWrite, Bool.false_eq_true, if_false]
    rw [Mem.get_write, Mem.get_write]
    simp only [Mem.read_length, true_and]
    split
    · rfl
    · split
      · rename_i h2
        obtain ⟨i, hi⟩ := Nat.exists_eq_add_of_le h2.1
        rw [hi, Nat.add_sub_cancel_left, List.getD_eq_getElem?_getD, List.getElem?_eq_getElem (by simp; omega),
          Mem.read_get _ _ _ _ hm (by omega)]
        rfl
      · rfl

theorem State.frameWrite_written (s : State) (r f off : Nat) (bs : List Byte) (k : Nat) :
    (s.frameWrite r f off bs).mem.written.contains k = (k == fkey r f || s.mem.written.contains k) := by
  unfold State.frameWrite
  by_cases hw : s.mem.written.contains (fkey r f) = true
  · simp only [hw, if_true, State.rawWrite]
    by_cases hk : k = fkey r f
    · subst hk
      simpa using hw
    · simp [hk]
  · have hw' : s.mem.written.contains (fkey r f) = false := by simpa using hw
    simp only [hw', State.rawWrite, Bool.false_eq_true, if_false, List.contains_cons]

theorem State.frameWrite_old (s : State) (r f off : Nat) (bs : List Byte) : (s.frameWrite r f off bs).mem.old = s.mem.old := by
  unfold State.frameWrite
  by_cases hw : s.mem.written.contains (fkey r f) = true
  · simp only [hw, if_true, State.rawWrite]
  · have hw' : s.mem.written.contains (fkey r f) = false := by simpa using hw
    simp only [hw', State.rawWrite, Bool.false_eq_true, if_false]

/-- Where a region's bytes lie and what kind it is stays. -/
theorem State.devs_same {s t : State} (h : s.devsOf t) (r f : Nat) :
    t.regionKind r = s.regionKind r ∧ t.regionBytes r = s.regionBytes r ∧ t.bankBytes r = s.bankBytes r
      ∧ t.committedHalf r f = s.committedHalf r f := by
  have := State.devsOf_regions h
  unfold State.regionKind State.bankBytes State.regionBytes State.region State.committedHalf
  rw [this.1, this.2]
  exact ⟨rfl, rfl, rfl, rfl⟩

theorem State.viewBytes_le (s : State) (r : Nat) : s.viewBytes r ≤ s.regionBytes r := by
  unfold State.viewBytes State.bankBytes
  split <;> omega

/-- One frame's write: the bytes written, with every other byte of every region as before. -/
theorem State.frameWrite_byte (s : State) (hm : Mem.wf s.store.gddr) (r f off : Nat) (bs : List Byte)
    (hp : pairKind (s.regionKind r) = true) (hr : s.regionBytes r ≤ 2 ^ 40) (hb : 2048 * f + 2048 ≤ s.bankBytes r) (h1 : 2048 * f ≤ off)
    (h2 : off + bs.length ≤ 2048 * f + 2048) (r' x : Nat) (hr' : s.regionBytes r' ≤ 2 ^ 40) (hx : x < s.viewBytes r') :
    (s.frameWrite r f off bs).byteAt true r' x
        = (if r' = r ∧ off ≤ x ∧ x < off + bs.length then bs.getD (x - off) 0 else s.byteAt true r' x)
      ∧ (s.frameWrite r f off bs).byteAt false r' x = s.byteAt false r' x := by
  have hd := s.frameWrite_devs r f off bs
  have hs := State.devs_same hd r' (x / 2048)
  have hbb : 2 * s.bankBytes r ≤ s.regionBytes r := by unfold State.bankBytes; omega
  have hbf := s.bankBytes_frames r
  have hv := s.viewBytes_le r'
  unfold State.byteAt
  rw [hs.1, hs.2.2.1, hs.2.2.2]
  by_cases hp' : pairKind (s.regionKind r') = true
  · have hbb' : 2 * s.bankBytes r' ≤ s.regionBytes r' := by unfold State.bankBytes; omega
    have hxb : x < s.bankBytes r' := by simpa [State.viewBytes, hp'] using hx
    simp only [hp', if_true, Bool.false_eq_true, if_false]
    have ha : (s.frameWrite r f off bs).attemptHalf r' (x / 2048)
        = if r' = r ∧ x / 2048 = f then 1 - s.committedHalf r f else s.attemptHalf r' (x / 2048) := by
      unfold State.attemptHalf
      rw [hs.2.2.2, s.frameWrite_written]
      by_cases hk : r' = r ∧ x / 2048 = f
      · rw [if_pos hk, hk.1, hk.2]
        simp
      · rw [if_neg hk]
        have : (fkey r' (x / 2048) == fkey r f) = false := by
          rw [beq_eq_false_iff_ne]
          unfold fkey
          intro he
          apply hk
          omega
        rw [this, Bool.false_or]
    have hc := s.committedHalf_bit r f
    have hc' := s.committedHalf_bit r' (x / 2048)
    have hA := s.attemptHalf_bit r' (x / 2048)
    have hAt : s.mem.written.contains (fkey r f) = false → s.attemptHalf r f = s.committedHalf r f := by
      intro h
      unfold State.attemptHalf
      rw [h]
      rfl
    have hAt' : s.mem.written.contains (fkey r f) = true → s.attemptHalf r f = 1 - s.committedHalf r f := by
      intro h
      unfold State.attemptHalf
      rw [h]
      rfl
    by_cases hrr : r' = r
    · subst hrr
      by_cases hf : x / 2048 = f
      · rw [ha, if_pos ⟨rfl, hf⟩, hf, s.frameWrite_get hm, s.frameWrite_get hm]
        cases hw : s.mem.written.contains (fkey r' f) with
        | false =>
          rw [hAt hw]
          rcases hc with hc | hc <;> simp only [hc, gkey, Nat.sub_zero, Nat.sub_self, Nat.zero_mul, Nat.one_mul, Nat.zero_add, true_and] <;> constructor
          all_goals first
            | (by_cases hi : off ≤ x ∧ x < off + bs.length
               · rw [if_pos (by omega), if_pos hi]; exact congrArg (fun i => bs.getD i 0) (by omega)
               · rw [if_neg (by omega), if_pos (by omega), if_neg hi]; exact congrArg (Mem.get _) (by omega))
            | (rw [if_neg (by omega), if_neg (by omega)])
        | true =>
          rw [hAt' hw]
          rcases hc with hc | hc <;> simp only [hc, gkey, Nat.sub_zero, Nat.sub_self, Nat.zero_mul, Nat.one_mul, Nat.zero_add, true_and, false_and, Bool.true_eq_false, if_false] <;> constructor
          all_goals first
            | (by_cases hi : off ≤ x ∧ x < off + bs.length
               · rw [if_pos (by omega), if_pos hi]; exact congrArg (fun i => bs.getD i 0) (by omega)
               · rw [if_neg (by omega), if_neg hi])
            | (rw [if_neg (by omega)])
      · rw [ha, if_neg (fun h => hf h.2), s.frameWrite_get hm, s.frameWrite_get hm, if_neg (c := r' = r' ∧ off ≤ x ∧ x < off + bs.length) (by omega)]
        rcases hc with hc | hc <;> rcases hA with hA | hA <;> rcases hc' with hc' | hc' <;>
          simp only [hc, hA, hc', gkey, Nat.sub_zero, Nat.sub_self, Nat.zero_mul, Nat.one_mul, Nat.zero_add] <;>
          constructor <;> rw [if_neg (by omega), if_neg (by omega)]
    · rw [ha, if_neg (fun h => hrr h.1), s.frameWrite_get hm, s.frameWrite_get hm, if_neg (c := r' = r ∧ off ≤ x ∧ x < off + bs.length) (fun h => hrr h.1)]
      have hk (a c n : Nat) (ha : a + n ≤ 2 ^ 40) (hc : c < 2 ^ 40) : ¬(gkey r a ≤ gkey r' c ∧ gkey r' c < gkey r a + n) := by
        unfold gkey
        omega
      have h1b : (1 - s.committedHalf r f) * s.bankBytes r ≤ s.bankBytes r := by
        rcases hc with hc | hc <;> simp [hc]
      have hAb : s.attemptHalf r' (x / 2048) * s.bankBytes r' ≤ s.bankBytes r' := by
        rcases hA with hA | hA <;> simp [hA]
      have hcb : s.committedHalf r' (x / 2048) * s.bankBytes r' ≤ s.bankBytes r' := by
        rcases hc' with hc' | hc' <;> simp [hc']
      constructor <;> simp only [] <;>
        rw [if_neg (hk _ _ _ (by omega) (by omega)), if_neg (fun h => hk _ _ _ (by omega) (by omega) h.2)]
  · have hrr : r' ≠ r := fun h => hp' (h ▸ hp)
    have hxb : x < s.regionBytes r' := by simpa [State.viewBytes, hp'] using hx
    have hk (a n : Nat) (ha : a + n ≤ 2 ^ 40) : ¬(gkey r a ≤ gkey r' x ∧ gkey r' x < gkey r a + n) := by
      unfold gkey
      omega
    have h1b : (1 - s.committedHalf r f) * s.bankBytes r ≤ s.bankBytes r := by
      rcases s.committedHalf_bit r f with hc | hc <;> simp [hc]
    have hg : Mem.get (s.frameWrite r f off bs).store.gddr (gkey r' x) = Mem.get s.store.gddr (gkey r' x) := by
      rw [s.frameWrite_get hm]
      simp only []
      rw [if_neg (hk _ _ (by omega)), if_neg (fun h => hk _ _ (by omega) h.2)]
    have hvis : Mem.get (s.frameWrite r f off bs).visible (gkey r' x) = Mem.get s.visible (gkey r' x) := by
      unfold State.visible
      rw [s.frameWrite_old]
      exact undo_get _ _ _ _ hg
    simp [hp', hrr, hg, hvis]

theorem State.frameWrite_wf (s : State) (hm : Mem.wf s.store.gddr) (r f off : Nat) (bs : List Byte) :
    Mem.wf (s.frameWrite r f off bs).store.gddr := by
  unfold State.frameWrite
  by_cases hw : s.mem.written.contains (fkey r f) = true
  · simp only [hw, if_true, State.rawWrite]
    exact Mem.wf_write _ _ _ hm
  · have hw' : s.mem.written.contains (fkey r f) = false := by simpa using hw
    simp only [hw', State.rawWrite, Bool.false_eq_true, if_false]
    exact Mem.wf_write _ _ _ (Mem.wf_write _ _ _ hm)

/-- What reads at an offset of a region give after bytes were written in a region. -/
def State.wroteAt (s t : State) (r off : Nat) (bs : List Byte) (r' x : Nat) : Prop :=
  t.byteAt true r' x = (if r' = r ∧ off ≤ x ∧ x < off + bs.length then bs.getD (x - off) 0 else s.byteAt true r' x)
    ∧ t.byteAt false r' x = s.byteAt false r' x

/-- A write to a bank pair. -/
theorem State.framesWrite_byte (s : State) (hm : Mem.wf s.store.gddr) (r fuel off : Nat) (bs : List Byte)
    (hp : pairKind (s.regionKind r) = true) (hr : s.regionBytes r ≤ 2 ^ 40) (hb : off + bs.length ≤ s.bankBytes r)
    (h : bs.length = 0 ∨ bs.length + off % 2048 ≤ 2048 * fuel) (r' x : Nat) (hr' : s.regionBytes r' ≤ 2 ^ 40) (hx : x < s.viewBytes r') :
    s.wroteAt (s.framesWrite r (pieces fuel off bs.length) bs) r off bs r' x := by
  induction fuel generalizing s off bs with
  | zero =>
    have : bs = [] := List.length_eq_zero_iff.mp (by omega)
    subst this
    exact ⟨by rw [if_neg (by simp)]; rfl, rfl⟩
  | succ k ih =>
    unfold pieces
    split
    · rename_i h0
      have : bs = [] := List.length_eq_zero_iff.mp h0
      subst this
      exact ⟨by rw [if_neg (by simp)]; rfl, rfl⟩
    · rename_i h0
      generalize hm' : min bs.length (2048 - off % 2048) = c
      have hc : c ≤ bs.length ∧ c + off % 2048 ≤ 2048 ∧ (c = bs.length ∨ c + off % 2048 = 2048) := by omega
      have hbf := s.bankBytes_frames r
      have hl : (bs.take c).length = c := by simp; omega
      have hd := s.frameWrite_devs r (off / 2048) off (bs.take c)
      have hs := State.devs_same hd
      have h1 := s.frameWrite_byte hm r (off / 2048) off (bs.take c) hp hr (by omega) (by omega) (by omega) r' x hr' hx
      have h2 := ih (s.frameWrite r (off / 2048) off (bs.take c)) (s.frameWrite_wf hm ..) (off + c) (bs.drop c)
        (by rw [(hs r 0).1]; exact hp) (by rw [(hs r 0).2.1]; exact hr) (by rw [(hs r 0).2.2.1, List.length_drop]; omega)
        (by rw [List.length_drop]; omega) (by rw [(hs r' 0).2.1]; exact hr')
        (by unfold State.viewBytes at hx ⊢; rw [(hs r' 0).1, (hs r' 0).2.1, (hs r' 0).2.2.1]; exact hx)
      rw [List.length_drop] at h2
      refine ⟨?_, h2.2.trans h1.2⟩
      simp only [State.framesWrite]
      rw [h2.1, h1.1, hl, List.length_drop]
      by_cases hrr : r' = r
      · simp only [hrr, true_and]
        by_cases hx1 : off + c ≤ x ∧ x < off + c + (bs.length - c)
        · rw [if_pos hx1, if_pos (by omega)]
          simp only [List.getD_eq_getElem?_getD, List.getElem?_drop]
          exact congrArg (fun i => (bs[i]?).getD 0) (by omega)
        · rw [if_neg hx1]
          by_cases hx2 : off ≤ x ∧ x < off + c
          · rw [if_pos hx2, if_pos (by omega)]
            simp only [List.getD_eq_getElem?_getD]
            rw [List.getElem?_take_of_lt (by omega)]
          · rw [if_neg hx2, if_neg (by omega)]
      · simp only [hrr, false_and, if_false]

theorem State.regWrite_place (s : State) (r off : Nat) (bs : List Byte) (hp : pairKind (s.regionKind r) = false) :
    (s.regWrite r off bs).store.gddr = Mem.write s.store.gddr (gkey r off) bs
      ∧ (s.regWrite r off bs).mem.written = s.mem.written
      ∧ (s.regWrite r off bs).mem.old = (if openKind (s.regionKind r) then
          (r, off, Mem.read s.store.gddr (gkey r off) bs.length) :: s.mem.old else s.mem.old) := by
  unfold State.regWrite State.keepOld
  simp only [hp, Bool.false_eq_true, if_false]
  split <;> exact ⟨rfl, rfl, rfl⟩

/-- A write to a region within what the attempt sees of it: what others see of a bank pair or of a region written in place stays (R205,
R257). -/
theorem State.regWrite_byte (s : State) (hm : Mem.wf s.store.gddr) (r off : Nat) (bs : List Byte) (hr : s.regionBytes r ≤ 2 ^ 40)
    (hb : bs.length = 0 ∨ off + bs.length ≤ s.viewBytes r) (r' x : Nat) (hr' : s.regionBytes r' ≤ 2 ^ 40) (hx : x < s.viewBytes r') :
    (s.regWrite r off bs).byteAt true r' x
        = (if r' = r ∧ off ≤ x ∧ x < off + bs.length then bs.getD (x - off) 0 else s.byteAt true r' x)
      ∧ (pairKind (s.regionKind r') = true ∨ openKind (s.regionKind r') = true →
        (s.regWrite r off bs).byteAt false r' x = s.byteAt false r' x) := by
  by_cases hp : pairKind (s.regionKind r) = true
  · unfold State.regWrite
    rw [if_pos hp]
    rcases hb with hb | hb
    · have : bs = [] := List.length_eq_zero_iff.mp hb
      subst this
      exact ⟨by rw [if_neg (by simp)]; rfl, fun _ => rfl⟩
    · have h := s.framesWrite_byte hm r (bs.length / 2048 + 2) off bs hp hr (by simpa [State.viewBytes, hp] using hb) (Or.inr (by omega)) r' x
        hr' hx
      exact ⟨h.1, fun _ => h.2⟩
  · have hp' : pairKind (s.regionKind r) = false := by simpa using hp
    have ht := s.regWrite_place r off bs hp'
    have hs := State.devs_same (s.regWrite_devs r off bs) r' (x / 2048)
    have hv := s.viewBytes_le r
    have hv' := s.viewBytes_le r'
    have hbb : 2 * s.bankBytes r' ≤ s.regionBytes r' := by unfold State.bankBytes; omega
    have hA : (s.regWrite r off bs).attemptHalf r' (x / 2048) = s.attemptHalf r' (x / 2048) := by
      unfold State.attemptHalf
      rw [hs.2.2.2, ht.2.1]
    have hother (k : Nat) (hk : k < 2 ^ 40) (h : r' ≠ r) :
        Mem.get (s.regWrite r off bs).store.gddr (gkey r' k) = Mem.get s.store.gddr (gkey r' k) := by
      rw [ht.1, Mem.get_write, if_neg]
      unfold gkey
      omega
    unfold State.byteAt
    rw [hs.1, hs.2.2.1, hs.2.2.2, hA]
    by_cases hq : pairKind (s.regionKind r') = true
    · have hrr : r' ≠ r := fun h => hp (h ▸ hq)
      have hxb : x < s.bankBytes r' := by simpa [State.viewBytes, hq] using hx
      have hAb : s.attemptHalf r' (x / 2048) * s.bankBytes r' ≤ s.bankBytes r' := by
        rcases s.attemptHalf_bit r' (x / 2048) with h | h <;> simp [h]
      have hcb : s.committedHalf r' (x / 2048) * s.bankBytes r' ≤ s.bankBytes r' := by
        rcases s.committedHalf_bit r' (x / 2048) with h | h <;> simp [h]
      simp only [hq, if_true, Bool.false_eq_true, if_false, hrr, false_and]
      exact ⟨hother _ (by omega) hrr, fun _ => hother _ (by omega) hrr⟩
    · have hq' : pairKind (s.regionKind r') = false := by simpa using hq
      have hxb : x < s.regionBytes r' := by simpa [State.viewBytes, hq] using hx
      simp only [hq', Bool.false_eq_true, if_false, Bool.true_or, if_true, false_or, Bool.false_or]
      constructor
      · rw [ht.1, Mem.get_write]
        by_cases hi : r' = r ∧ off ≤ x ∧ x < off + bs.length
        · rw [if_pos hi, if_pos (by unfold gkey; omega)]
          exact congrArg (fun i => bs.getD i 0) (by unfold gkey; omega)
        · rw [if_neg hi, if_neg (by unfold gkey; omega)]
      · intro ho
        simp only [ho, Bool.not_true, Bool.false_eq_true, if_false]
        unfold State.visible
        rw [ht.2.2]
        by_cases hor : openKind (s.regionKind r) = true
        · rw [if_pos hor, List.foldl_cons]
          refine undo_get _ _ _ _ ?_
          rw [ht.1, Mem.get_write, Mem.get_write, Mem.read_length]
          by_cases hi : gkey r off ≤ gkey r' x ∧ gkey r' x < gkey r off + bs.length
          · obtain ⟨i, hi'⟩ := Nat.exists_eq_add_of_le hi.1
            rw [if_pos hi, hi', Nat.add_sub_cancel_left, List.getD_eq_getElem?_getD, List.getElem?_eq_getElem (by simp; omega),
              Mem.read_get _ _ _ _ hm (by omega)]
            rfl
          · rw [if_neg hi, if_neg hi]
        · rw [if_neg hor]
          refine undo_get _ _ _ _ (hother x (by omega) ?_)
          intro h
          exact hor (h ▸ ho)

theorem State.framesWrite_wf (s : State) (hm : Mem.wf s.store.gddr) (r : Nat) (ps : List (Nat × Nat × Nat)) (bs : List Byte) :
    Mem.wf (s.framesWrite r ps bs).store.gddr := by
  induction ps generalizing s bs with
  | nil => exact hm
  | cons p rest ih => exact ih _ (s.frameWrite_wf hm ..) _

theorem State.regWrite_wf (s : State) (hm : Mem.wf s.store.gddr) (r off : Nat) (bs : List Byte) :
    Mem.wf (s.regWrite r off bs).store.gddr := by
  by_cases hp : pairKind (s.regionKind r) = true
  · unfold State.regWrite
    rw [if_pos hp]
    exact s.framesWrite_wf hm ..
  · rw [(s.regWrite_place r off bs (by simpa using hp)).1]
    exact Mem.wf_write _ _ _ hm

/-- Bytes written to a region read back as the attempt sees them. -/
theorem State.regWrite_read (s : State) (hm : Mem.wf s.store.gddr) (r off : Nat) (bs : List Byte) (hr : s.regionBytes r ≤ 2 ^ 40)
    (hb : bs.length = 0 ∨ off + bs.length ≤ s.viewBytes r) : (s.regWrite r off bs).regRead true r off bs.length = bs := by
  rw [State.regRead_map _ _ _ _ _ (s.regWrite_wf hm r off bs)]
  apply List.ext_getElem (by simp)
  intro i h1 h2
  have hi : i < bs.length := h2
  simp only [List.getElem_map, List.getElem_range]
  rw [(s.regWrite_byte hm r off bs hr hb r (off + i) hr (by omega)).1, if_pos ⟨rfl, by omega, by omega⟩, Nat.add_sub_cancel_left,
    List.getD_eq_getElem?_getD, List.getElem?_eq_getElem hi]
  rfl

/-! ### Writes through an operand -/

theorem State.roomOf_region (s : State) (o : Opnd) (h : o.mem = true) : s.roomOf o = s.viewBytes o.region - o.addr := by
  unfold State.roomOf State.viewBytes
  rw [if_pos h]

/-- A write through an operand changes only its bytes. -/
theorem State.opWrite_onlyAt (s : State) (hm : Mem.wf s.store.gddr) (core : Nat) (o : Opnd) (bs : List Byte) :
    s.onlyAt (s.opWrite core o bs) core [(o, bs.length)] := by
  intro hfit
  have hfit := hfit (o, bs.length) (by simp)
  simp only [List.mem_singleton, forall_eq]
  unfold State.opWrite
  by_cases hmem : o.mem = true
  · rw [if_pos hmem]
    have hd := s.regWrite_devs o.region o.addr bs
    have hst : (s.regWrite o.region o.addr bs).store = { s.store with gddr := (s.regWrite o.region o.addr bs).store.gddr } :=
      congrArg State.store hd
    have hf := hfit hmem
    rw [s.roomOf_region o hmem] at hf
    refine ⟨by rw [hst], fun x _ => by rw [hst], fun x _ => by rw [hst], fun r x hr hx => ?_⟩
    rw [s.roomOf_region _ rfl] at hx
    have hb := s.regWrite_byte hm o.region o.addr bs hf.1 (by omega) r x hr (by simpa [regionAt] using hx)
    have hwf := s.regWrite_wf hm o.region o.addr bs
    rw [State.regRead_map _ _ _ _ _ hwf, State.regRead_map _ _ _ _ _ hm, State.regRead_map _ _ _ _ _ hwf, State.regRead_map _ _ _ _ _ hm]
    refine ⟨fun hc => ?_, fun hk => ?_⟩
    · simp only [List.range_one, List.map_cons, List.map_nil, Nat.add_zero]
      rw [hb.1, if_neg]
      rintro ⟨rfl, h1, h2⟩
      have := hc hmem rfl
      omega
    · simp only [List.range_one, List.map_cons, List.map_nil, Nat.add_zero]
      rw [hb.2 hk]
  · have hmem' : o.mem = false := by simpa using hmem
    rw [if_neg hmem]
    unfold State.coreWrite
    split
    · rename_i h
      refine ⟨rfl, fun x hx => ?_, fun _ _ => rfl, fun r x _ _ => ⟨fun _ => rfl, fun _ => rfl⟩⟩
      have := hx hmem' h
      exact Mem.get_write_out _ _ _ _ this
    · rename_i h
      refine ⟨rfl, fun _ _ => rfl, fun x hx => ?_, fun r x _ _ => ⟨fun _ => rfl, fun _ => rfl⟩⟩
      have := hx hmem' (by omega)
      exact Mem.get_write_out _ _ _ _ this

/-- A write through an operand reads back. -/
theorem State.opWrite_read (s : State) (hm : Mem.wf s.store.gddr) (core : Nat) (o : Opnd) (bs : List Byte) (h : s.fits o bs.length) :
    (s.opWrite core o bs).opRead core o bs.length = bs := by
  unfold State.opWrite State.opRead
  by_cases hmem : o.mem = true
  · have hf := h hmem
    rw [s.roomOf_region o hmem] at hf
    rw [if_pos hmem, if_pos hmem]
    exact s.regWrite_read hm _ _ _ hf.1 (by omega)
  · rw [if_neg hmem, if_neg hmem]
    unfold State.coreWrite State.coreRead
    split <;> exact Mem.read_write _ _ _

/-- What `onlyAt` says of a state rests on its memories alone. -/
theorem State.onlyAt_congr {s t u : State} {core : Nat} {l : List (Opnd × Nat)} (h : s.onlyAt t core l) (hs : u.store = t.store)
    (hr : u.mem.regions = t.mem.regions) (hh : u.mem.half1 = t.mem.half1) (hw : u.mem.written = t.mem.written)
    (ho : u.mem.old = t.mem.old) : s.onlyAt u core l := by
  intro hf
  have h := h hf
  have hread (a : Bool) (r off : Nat) : u.regRead a r off 1 = t.regRead a r off 1 := by
    unfold State.regRead State.attemptHalf State.committedHalf State.bankBytes State.regionKind State.regionBytes State.region State.visible
    rw [hs, hr, hh, hw, ho]
  simp only [hread, hs]
  exact h

/-- A step that touches no memory. -/
theorem State.onlyAt_refl (s : State) (core : Nat) (l : List (Opnd × Nat)) : s.onlyAt s core l :=
  fun _ => ⟨rfl, fun _ _ => rfl, fun _ _ => rfl, fun _ _ _ _ => ⟨fun _ => rfl, fun _ => rfl⟩⟩

/-- One write after another. -/
theorem State.onlyAt_trans {s t u : State} {core : Nat} {l m : List (Opnd × Nat)} (h : s.onlyAt t core l)
    (hr : t.mem.regions = s.mem.regions) (k : t.onlyAt u core m) : s.onlyAt u core (l ++ m) := by
  intro hf
  have hreg (r : Nat) : t.regionBytes r = s.regionBytes r ∧ t.regionKind r = s.regionKind r ∧ t.bankBytes r = s.bankBytes r := by
    unfold State.bankBytes State.regionBytes State.regionKind State.region
    rw [hr]
    exact ⟨rfl, rfl, rfl⟩
  have hroom (o : Opnd) : t.roomOf o = s.roomOf o := by
    unfold State.roomOf
    rw [(hreg o.region).1, (hreg o.region).2.1, (hreg o.region).2.2]
  have h := h (fun e he => hf e (by simp [he]))
  have k := k (fun e he => by
    have := hf e (by simp [he])
    unfold State.fits at this ⊢
    rw [(hreg _).1, hroom]
    exact this)
  refine ⟨k.1.trans h.1, fun x hx => ?_, fun x hx => ?_, fun r off h1 h2 => ?_⟩
  · exact (k.2.1 x (fun e he => hx e (by simp [he]))).trans (h.2.1 x (fun e he => hx e (by simp [he])))
  · exact (k.2.2.1 x (fun e he => hx e (by simp [he]))).trans (h.2.2.1 x (fun e he => hx e (by simp [he])))
  · have a := h.2.2.2 r off h1 h2
    have b := k.2.2.2 r off (by rw [(hreg r).1]; exact h1) (by rw [hroom]; exact h2)
    refine ⟨fun hx => (b.1 (fun e he => hx e (by simp [he]))).trans (a.1 (fun e he => hx e (by simp [he]))), fun hk => ?_⟩
    exact (b.2 (by rw [(hreg r).2.1]; exact hk)).trans (a.2 hk)

end Sys2Proof.Machine
end

