-- ==== Sys2Proof/WellFormed.lean ====
section
/-! DEFINITION. Which commands the module's environment can send: the units they name exist and their words have the sizes the
spec gives them. -/

namespace Sys2Proof

/-- A ticket has eleven parameter words, a rail below 64 and list entries below 2^64 (R344, R349). -/
def Ticket.wf (t : Ticket) : Bool :=
  t.p.length == 11 && decide (t.rail < 64) && t.segs.all (fun g => decide (g.addr < 2 ^ 64))

/-- A descriptor has sixteen words (R241). -/
def Desc.wf (d : Desc) : Bool :=
  d.w.length == 16

/-- A logical core (R22). -/
def coreOk (c : Nat) : Bool := decide (c < 128)

/-- A bank of a core (R22). -/
def bankOk (b : Nat) : Bool := decide (b < 4)

/-- An array of the device (R22). -/
def arrayOk (a : Nat) : Bool := decide (a < 2048)

/-- A link port (R288). -/
def portOk (p : Nat) : Bool := decide (p < 6)

/-- A GDDR7 device of the module (R315). -/
def memDevOk (d : Nat) : Bool := decide (d < 24)

/-- A cluster, or L for all that is written per cluster (R22). -/
def clusterOk (c : Nat) : Bool := decide (c < 16)

/-- A device number of a domain: below 2^10 (R25, R291). -/
def devOk (d : Nat) : Bool := decide (d < 1024)

/-- A region number (R320). -/
def regionOk (r : Nat) : Bool := decide (r < 64)

/-- A packet's header fields have the widths of R272. -/
def Packet.wf (p : Packet) : Bool :=
  decide (p.desc < 2 ^ 22) && decide (p.phase < 4) && decide (p.mode < 16) && devOk p.src && decide (p.chunk < 1024)
    && decide (p.unit < 2 ^ 32)

/-- An adder lane of a port, the spare among them (R282). -/
def adderLaneOk (l : Nat) : Bool := decide (l < 513)

/-- What a residue checker reports names adder lanes (R282, R283). -/
def ResidueObs.wf (o : ResidueObs) : Bool :=
  adderLaneOk o.lane && o.others.all (fun x => adderLaneOk x.1)

/-- A packet on the links names devices, a virtual channel, a generation and a port that exist (R25, R261, R300). -/
def LinkPkt.wf (p : LinkPkt) : Bool :=
  devOk p.src && devOk p.dst && decide (p.vc < 16) && decide (p.gen < 2) && p.inPort.all portOk && p.via.all (fun k => decide (k < 3))

/-- Whether the units a command names exist and its words have their sizes. -/
def Instr.wf (i : Instr) : Bool :=
  match i with
  | .identify t | .createRail t | .deleteRail t | .createPass t | .deletePass t | .status t | .memWrite t | .memRead t _
  | .regionQuery t | .regionFree t | .recipeLoad t | .recipeUnload t | .recipeStart t | .recipeStop t | .stepRun t
  | .invoke t | .ckptSave t | .ckptRestore t | .shadowCfg t _ | .shadowRestore t _ | .calRun t | .sctRead t | .testEnter t
  | .testLeave t _ | .directedTest t _ | .eventRead t | .historyRead t | .ratioRead t | .telemetryRead t | .setWakeTol t
  | .idleEnter t | .idleExit t _ | .powerLimit t | .powerQuery t | .domainSet t | .groupDefine t | .groupDelete t
  | .beatSet t | .domainJoin t | .linkQuery t | .secQuery t | .certRead t | .measure t | .ticketBadOpcode _ t => t.wf
  | .railTail n _ | .passHead n _ | .completionWrite n | .passTimer n => decide (n < 64)
  | .ticketFetch n r =>
    decide (n < 64) && (match r with
      | some ts => ts.all (fun w => w.length == 16)
      | none => true)
  | .tgGo d _ | .tgStop d _ | .tgRunDone d _ _ | .memTempSample d _ => memDevOk d
  | .linkKey _ p _ k _ => portOk p && k.length == 32
  | .cablePresentChange p _ | .portRetrain p | .portTrainingDone p _ | .laneDrop p _ | .laneRetrain p _ _
  | .linkResendRequest p _ | .sealTagFail p _ | .retryBlockAcknowledgement p _ _ => portOk p
  | .retryBlockFail p _ l _ _ _ => portOk p && l.all portOk
  | .creditReturn p vc _ => portOk p && decide (vc < 16)
  | .collPacket p vc k o => portOk p && decide (vc < 16) && k.wf && o.all ResidueObs.wf
  | .packetRoute k => k.wf
  | .amp d _ | .dmp d _ | .diag d _ | .ewise d _ | .reduce d _ | .softmax d _ | .norm d _ | .deriv d _ | .softmaxBwd d _
  | .normBwd d _ | .lossXent d _ | .gather d _ | .scatter d _ | .scatterAdd d _ | .convert d _ | .quantise d _ | .push d _
  | .pop d _ | .move d _ | .transpose d _ | .gatherMem d _ | .expand d _ | .allreduce d _ | .reduceScatter d _
  | .allgather d _ | .broadcast d _ | .sendrecv d _ | .update d _ | .awrite d _ | .compare d _ | .digestTensor d _
  | .digestExchange d _ _ _ | .fence d _ | .commit d _ _ | .nop d _ => d.wf
  | .popPrefetch c _ _ | .stashWriteback c _ _ => clusterOk c
  | .scrubStep c b p _ _ => coreOk c && bankOk b && decide (p < 130)
  | .scrubLate c b _ | .scrubAgeLimit c b | .calBankRun c b _ => coreOk c && bankOk b
  | .arrayReplace a | .checksumWindow a | .tasting a => arrayOk a
  | .patrolScrub r _ _ _ => regionOk r
  | .frameRepair r _ src _ => regionOk r && devOk src
  | .localise c _ | .coreSpare c _ _ _ | .coreWatchdog c => coreOk c
  | .deviceLost d _ => devOk d
  | .replicaDrop d l => devOk d && l.all devOk
  | .railPowerGoodTimeout r => decide (r < 10)
  | .domainRetry d _ _ => decide (d < 36)
  | .mboxEnSet | .mboxDisable | .mboxReset | .registerWrite _ _ _ | .rcCounterRead _ _ | .lowWordRead _ _
  | .badAccess _ _ _ _ | .anaRowlimWrite _ | .anaCtlWrite _ | .calCtlWrite _ | .calCmdGo _ | .memPatrolCfgWrite _
  | .regRead _ | .regWrite _ _ | .lock _ _ | .powerOn | .powerOff | .mgmtPowerLimit _ | .ownerSet _ _ | .recipeKey _ _ _
  | .recClear _ | .exportData _ _ | .classClear _ _ _ | .debugUnlock _ _ | .mctpControl _ | .mctpUnsupportedType _
  | .pldmBase _ | .pldmSensorRead _ | .pldmUnsupportedType _ | .pldmFirmwareUpdate _ | .activateFirmware _
  | .spdmGetCertificate | .spdmChallenge _ | .spdmGetMeasurements _ | .spdmKeyExchange _ | .alwaysOnPowerUp _ _
  | .inputBelow34V _ | .mainRailEnable _ | .startupStep _ | .selfHeatTimeout | .firmwareBoot _ _ | .bootWatchdog
  | .sysctlWatchdog | .pwrWarn _ | .braceLeave _ _ _ | .pwrUvReset _ | .pwrOvw _ | .ovWarnClear _ | .pwrOvShut _
  | .ovRestart _ | .thermShutdown _ _ | .modReset | .modResetRelease | .perstAssert | .perstRelease _ _
  | .functionLevelReset | .bar4Access _ _ _ _ | .e2eResendTimeout _ | .routeTableReceive _ _ _ _
  | .tickMessage _ _ | .beatTick _ | .epochFenceStall | .flywheelTick _ | .masterChange | .windowClose _ | .beatReport _
  | .stretchLimit | .slotStart _ | .sequencerWaitRelease _ | .collComplete _ | .replayStart | .replayLimit
  | .boundaryApply | .dieTempSample _ _ _ _ | .coolantSample _ _ | .evacClear | .shadowTraffic _ | .recordWrite
  | .pageFlush _ | .operatingHourTick | .endToEndAcknowledgement _ | .highWordRead _ _ => true

end Sys2Proof
end

