-- ==== Sys2Proof/Tests/Slice0.lean ====
section
/-! SUPPORT. The model's own tests: ill-formed commands are refused by the well-formedness checks, and for every statement's hypotheses
a concrete state and operands that meet them. -/

namespace Sys2Proof.Tests

-- One theorem at a time: each kernel evaluation in flight holds a thread's whole stack.
set_option Elab.async false

open Sys2Proof Sys2Proof.Machine

/-! ### Small states and operands -/

/-- Rail 0 and pass 0, with nothing in flight. -/
def rail0 : Rail := { base := 0x10000, log2 := 4, pass := 0, prio := 3, head := 0, tail := 1, err := false, inflight := [] }
def pass0 : Pass :=
  { base := 0x20000, log2 := 4, vec := 1, cnt := 1, time := 0, head := 0, tail := 0, phase := true, used := 0, waiting := [],
    since := 0, timer := false }

/-- A module that is READY, with the admin pair running, and with both firmware copies of version 1. -/
def ready : State :=
  { State.reset with
    pwr := { Pwr.reset with aon := true, pwrgood := true, dom := 0xFFFFFFFFF }
    hif := { Hif.reset with state := .ready, ready := true, mboxEn := true, rails := [(0, rail0)], passes := [(0, pass0)] }
    sec := { Sec.reset with copyA := { svn := 1, build := 1, valid := true, hash := [] },
                            copyB := { svn := 1, build := 1, valid := true, hash := [] },
                            rollback := 1 } }

/-- READY with a change of one part. -/
def readyHif (f : Hif → Hif) : State := { ready with hif := f ready.hif }
def readyPwr (f : Pwr → Pwr) : State := { ready with pwr := f ready.pwr }
def readySec (f : Sec → Sec) : State := { ready with sec := f ready.sec }
def readyStp (f : Stp → Stp) : State := { ready with stp := f ready.stp }
def readyEvt (f : Recorder → Recorder) : State := { ready with evt := f ready.evt }
def readyMem (f : MemSys → MemSys) : State := { ready with mem := f ready.mem }
def readyFlt (f : Flt → Flt) : State := { ready with flt := f ready.flt }

/-- A ticket of rail 0 with its parameter words and length, and a buffer of zeros. -/
def ticket (p : List Word) (len : Word) : Ticket :=
  { rail := 0, slot := 0, tag := 7, fence := false, quiet := false, sgl := false, rsvd := 0, addr := 0x40000, len := len, p := p, buf := .ok [],
    segs := [] }

/-- A recipe's head and a recipe with nothing in its tables. -/
def head0 (isRun : Bool) : RHead :=
  { isRun := isRun, legacy := false, jobId := 1, coreMask := 0, seed := 0, base := 0, beatUs := 200, gapPct := 10, replayMax := 2,
    fenceLimit := 1, splitReserve := 0, stkHigh := 128, stkHard := 200, stkHead := 1, beats := 4, decay := 0, keyId := 0 }
def recipe0 (isRun : Bool) : Recipe :=
  { head := head0 isRun, size := 0, tensors := [], regions := [], layers := [], segs := [], slots := [], descs := [], budgets := [],
    hash := [], layout := [] }

/-- READY with recipe 0 loaded, and RUNNING with it. -/
def loaded (r : Recipe) : State := { ready with rcp := { Rcp.reset with slots := [(0, r)] } }
def running (r : Recipe) : State :=
  { loaded r with rcp := { (loaded r).rcp with state := .running, handle := 0, nextStep := 1 },
                  hif := { ready.hif with state := .running } }

/-- All that makes the module take a ticket at once, as one check. -/
def fits (s : State) (op : Half) (k : Ticket) (n a : Nat) : Bool :=
  decide (k.rsvd = 0 ∧ (k.p.drop n).all (fun x => x == 0) = true ∧ k.addr.toNat % alignOf a = 0 ∧ k.sgl = false)
  && decide (s.hif.mboxEn = true ∧ s.hif.state ≠ .boot ∧ s.hif.waitq = [] ∧ s.hif.deleting = [] ∧ s.hif.seqBusy = none
      ∧ s.stp.active = false ∧ s.stp.boundary = false)
  && (match Tab.find s.hif.rails k.rail with
      | none => false
      | some r => decide (r.inflight = []) && (Tab.find s.hif.passes r.pass).isSome)
  && decide ((s.hif.state = .lost ∨ s.hif.state = .fault → s.stp.saved = none ∧ s.runningRecipe = none)
      ∧ (s.hif.state = .fault → op.toNat / 256 = 1 ∨ op.toNat / 256 = 7)
      ∧ (s.hif.state = .idle → ((opEntry op).map (fun e => e.2.2)).getD false = false ∨ op = 0x0802 ∨ op = 0x0803)
      ∧ (s.sbm.lockPower = true → op ≠ 0x0802 ∧ op ≠ 0x0803 ∧ op ≠ 0x0804) ∧ (s.sbm.lockSecurity = true → op ≠ 0x0A03))

theorem fits_free {s : State} {op : Half} {k : Ticket} {n a : Nat} (h : fits s op k n a = true) : MailboxFree s op k := by
  unfold fits at h
  simp only [Bool.and_eq_true, decide_eq_true_eq] at h
  obtain ⟨⟨⟨-, h2⟩, h3⟩, -⟩ := h
  refine ⟨h2.1, h2.2.1, ?_, h2.2.2.1, h2.2.2.2.1, h2.2.2.2.2.1, h2.2.2.2.2.2⟩
  revert h3
  split
  · intro h; cases h
  · rename_i r hr
    intro h
    simp only [Bool.and_eq_true, decide_eq_true_eq] at h
    exact ⟨r, hr, Or.inl h.1, h.2⟩

theorem fits_ok {s : State} {op : Half} {k : Ticket} {n a : Nat} (h : fits s op k n a = true) : TicketOk s op k n a := by
  have hf := fits_free h
  unfold fits at h
  simp only [Bool.and_eq_true, decide_eq_true_eq] at h
  obtain ⟨⟨⟨h1, -⟩, -⟩, h4⟩ := h
  exact ⟨⟨h1.1, fun x hx => by simpa using List.all_eq_true.mp h1.2.1 x hx, h1.2.2.1, fun hs => by rw [h1.2.2.2] at hs; cases hs⟩, hf, ⟨h4.1, h4.2.1, h4.2.2.1, h4.2.2.2.1, h4.2.2.2.2⟩⟩

/-! ### Ill-formed commands are refused, one for each check -/

theorem test_wf_ticket : (Instr.status (ticket [] 0)).wf = false
    ∧ (Instr.status { ticket (List.replicate 11 0) 0 with rail := 64 }).wf = false
    ∧ (Instr.status { ticket (List.replicate 11 0) 0 with segs := [{ addr := 2 ^ 64, len := 0, rsvd := 0 }] }).wf = false
    ∧ (Instr.status (ticket (List.replicate 11 0) 0)).wf = true := by decide +kernel

theorem test_wf_units : (Instr.railTail 64 0).wf = false ∧ (Instr.ticketFetch 64 none).wf = false
    ∧ (Instr.ticketFetch 0 (some [[]])).wf = false ∧ (Instr.tgGo 24 0).wf = false ∧ (Instr.portRetrain 6).wf = false
    ∧ (Instr.linkKey true 0 true [] 0).wf = false ∧ (Instr.linkKey true 6 true (List.replicate 32 0) 0).wf = false
    ∧ (Instr.popPrefetch 16 0 calm).wf = false ∧ (Instr.coreWatchdog 128).wf = false ∧ (Instr.scrubLate 128 0 0).wf = false
    ∧ (Instr.scrubLate 0 4 0).wf = false ∧ (Instr.scrubStep 0 0 130 [] 0).wf = false ∧ (Instr.arrayReplace 2048).wf = false
    ∧ (Instr.patrolScrub 64 0 { ce := [], ue := [] } false).wf = false ∧ (Instr.deviceLost 1024 none).wf = false ∧ (Instr.replicaDrop 0 [1024]).wf = false
    ∧ (Instr.railPowerGoodTimeout 10).wf = false ∧ (Instr.domainRetry 36 true asWritten).wf = false := by decide +kernel

theorem test_wf_descriptor : (Instr.nop { num := 0, w := [] } calm).wf = false
    ∧ (Instr.nop { num := 0, w := List.replicate 16 0 } calm).wf = true := by decide +kernel

/-! ### Witnesses: tickets -/

/-- Eleven parameter words, the first given. -/
def words (l : List Word) : List Word := l ++ List.replicate (11 - l.length) 0

/-- A ticket for a READY module. -/
def tk (l : List Word) (len : Word) : Ticket := ticket (words l) len

theorem test_hyps_query : TicketOk ready 0x0106 (tk [] 0) 0 0 ∧ (TicketOk ready 0x0203 (tk [63] 0) 1 0 ∧ par (tk [63] 0) 0 ≤ 63)
    ∧ TicketOk ready 0x0805 (tk [] 0) 0 0 ∧ TicketOk ready 0x0906 (tk [] 0) 0 0 ∧ TicketOk ready 0x0A01 (tk [] 0) 0 0 :=
  ⟨fits_ok (by decide +kernel), ⟨fits_ok (by decide +kernel), by decide +kernel⟩, fits_ok (by decide +kernel), fits_ok (by decide +kernel), fits_ok (by decide +kernel)⟩

theorem test_hyps_pages_fixed : (tk [] 4096).buf = .ok [] ∧ (TicketOk ready 0x0101 (tk [] 4096) 0 1 ∧ 4096 ≤ bufLen (tk [] 4096))
    ∧ (TicketOk ready 0x0602 (tk [] 0x8000) 0 1 ∧ ready.sctBytes.length ≤ bufLen (tk [] 0x8000))
    ∧ (TicketOk ready 0x0704 (tk [] 4096) 0 1 ∧ ready.telemetryPage.length ≤ bufLen (tk [] 4096))
    ∧ TicketOk ready 0x0A02 (tk [] 4096) 0 1 ∧ TicketOk ready 0x0A03 (tk [] 4096) 0 1 :=
  ⟨rfl, ⟨fits_ok (by decide +kernel), by decide +kernel⟩, ⟨fits_ok (by decide +kernel), by decide +kernel⟩, ⟨fits_ok (by decide +kernel), by decide +kernel⟩, fits_ok (by decide +kernel),
   fits_ok (by decide +kernel)⟩

theorem test_hyps_pages_named : (TicketOk ready 0x0702 (tk [1, 127, 1] 32) 3 1 ∧ par (tk [1, 127, 1] 32) 1 < unitCount 1
      ∧ par (tk [1, 127, 1] 32) 1 + par (tk [1, 127, 1] 32) 2 ≤ unitCount 1
      ∧ (wordBytes ((List.range 1).flatMap (fun i => ready.histWords 1 (127 + i)))).length ≤ bufLen (tk [1, 127, 1] 32))
    ∧ (TicketOk ready 0x0703 (tk [65535, 1] 4096) 2 1 ∧ par (tk [65535, 1] 4096) 0 ≤ 65535
      ∧ par (tk [65535, 1] 4096) 0 + par (tk [65535, 1] 4096) 1 ≤ 65536
      ∧ ((List.range 1).flatMap (fun i => ready.ring (65535 + i))).length ≤ bufLen (tk [65535, 1] 4096)
      ∧ ∀ n, (((ready.admits 0x0703 (tk [65535, 1] 4096)).draw 1).lookRings n ((List.range 1).map (65535 + ·)) { ce := [], ue := [] }).2 = false)
    ∧ (TicketOk ready 0x0701 (tk [1, 0, 1] 64) 3 1 ∧ par (tk [1, 0, 1] 64) 0 ≤ 1 ∧ 64 * par (tk [1, 0, 1] 64) 2 ≤ 64
      ∧ (wordBytes ((ready.recordsFrom 1 0 1).flatMap Record.words)).length ≤ 64) :=
  ⟨⟨fits_ok (by decide +kernel), by decide +kernel, by decide +kernel, by decide +kernel⟩, ⟨fits_ok (by decide +kernel), by decide +kernel, by decide +kernel, by decide +kernel, fun _ => rfl⟩,
   ⟨fits_ok (by decide +kernel), by decide +kernel, by decide +kernel, by decide +kernel⟩⟩

/-- A recipe loaded and stopped, which checkpoints take. -/
def stopped : State := loaded (recipe0 false)

theorem leBytes_len (n v : Nat) : (leBytes n v).length = n := by
  induction n generalizing v with
  | zero => rfl
  | succ n ih => simp [leBytes, ih]

/-- A head of n bytes and what follows it. -/
theorem head_parts (l c : List Byte) (n m : Nat) (hc : c.length = m) :
    let h := (l ++ List.replicate n (0 : Byte)).take n
    (h ++ c).length = n + m ∧ (h ++ c).take n = h ∧ ((h ++ c).drop n).take m = c := by
  intro h
  have hl : h.length = n := by
    show ((l ++ List.replicate n (0 : Byte)).take n).length = n
    rw [List.length_take, List.length_append, List.length_replicate]
    omega
  refine ⟨by rw [List.length_append, hl, hc], ?_, ?_⟩
  · rw [List.take_append_of_le_length (by omega), List.take_of_length_le (by omega)]
  · rw [List.drop_append_of_le_length (by omega), List.drop_of_length_le (by omega), List.nil_append,
      List.take_of_length_le (by omega)]

/-- The head of an image is 4,096 bytes long. -/
theorem ckptHead_length (s : State) (r : Recipe) : (s.ckptHead r).length = 4096 :=
  (head_parts _ _ 4092 4 (leBytes_len _ _)).1

theorem test_hyps_checkpoint : TicketOk stopped 0x0501 (tk [] 4096) 0 1 ∧ stopped.ckptRecipe = some (recipe0 false)
    ∧ stopped.imageLen (recipe0 false) ≤ bufLen (tk [] 4096) ∧ stopped.ckptPoison (recipe0 false) = []
    ∧ (stopped.ckptHead (recipe0 false) ++ ckptKinds.flatMap (stopped.ckptPart (recipe0 false))).length ≤ bufLen (tk [] 4096) := by
  refine ⟨fits_ok (by decide +kernel), by decide +kernel, by decide +kernel, by decide +kernel, ?_⟩
  rw [List.length_append, ckptHead_length]
  decide +kernel

theorem test_hyps_rails : (TicketOk ready 0x0102 (tk [63, 16, 0, 3] 0) 4 2 ∧ par (tk [63, 16, 0, 3] 0) 0 ≤ 63
      ∧ Tab.find ready.hif.passes 0 ≠ none ∧ Tab.find ready.hif.rails 63 = none)
    ∧ (TicketOk (readyHif fun h => { h with rails := [(0, rail0), (63, rail0)] }) 0x0103 (tk [63] 0) 1 0
      ∧ Tab.find (readyHif fun h => { h with rails := [(0, rail0), (63, rail0)] }).hif.rails 63 = some rail0 ∧ rail0.inflight = [])
    ∧ (TicketOk ready 0x0104 (tk [63, 16, 64, 0, 1000] 0) 5 2 ∧ Tab.find ready.hif.passes 63 = none)
    ∧ (TicketOk (readyHif fun h => { h with passes := [(0, pass0), (63, pass0)] }) 0x0105 (tk [63] 0) 1 0
      ∧ Tab.find (readyHif fun h => { h with passes := [(0, pass0), (63, pass0)] }).hif.passes 63 = some pass0
      ∧ ∀ e ∈ ready.hif.rails, e.2.pass ≠ 63) :=
  ⟨⟨fits_ok (by decide +kernel), by decide +kernel, by decide +kernel, by decide +kernel⟩, ⟨fits_ok (by decide +kernel), by decide +kernel, rfl⟩, ⟨fits_ok (by decide +kernel), by decide +kernel⟩,
   ⟨fits_ok (by decide +kernel), by decide +kernel, by decide +kernel⟩⟩

/-- A region of one frame, kind SCRATCH. -/
def region0 : Region := { kind := 0, index := 0, spread := 2, size := 1, place := 0, base := [(0, 0)], frames := 1 }
def withRegion : State := readyMem fun m => { m with regions := [(62, region0)] }

theorem test_hyps_memory_tickets : (TicketOk withRegion 0x0201 (tk [62, 0, 0] 64) 3 1
      ∧ withRegion.spanBad (tk [62, 0, 0] 64) (bufLen (tk [62, 0, 0] 64)) = none ∧ withRegion.named 62 = false)
    ∧ (TicketOk withRegion 0x0202 (tk [62, 0, 0] 64) 3 1 ∧ withRegion.viewPoison 62 0 64 = [])
    ∧ (TicketOk withRegion 0x0204 (tk [62] 0) 1 0 ∧ (withRegion.region 62).isSome = true
      ∧ ∀ x ∈ withRegion.rcp.slots, ∀ e ∈ x.2.regions, e.region ≠ 62) :=
  ⟨⟨fits_ok (by decide +kernel), by decide +kernel, by decide +kernel⟩, ⟨fits_ok (by decide +kernel), by decide +kernel⟩, ⟨fits_ok (by decide +kernel), by decide +kernel, by decide +kernel⟩⟩

theorem test_hyps_recipe_tickets : (TicketOk ready 0x0301 (tk [] 0) 0 1 ∧ bufLen (tk [] 0) = leAt [] 8 4)
    ∧ (TicketOk stopped 0x0302 (tk [0] 0) 1 0 ∧ (stopped.recipe 0).isSome = true ∧ stopped.runningRecipe = none)
    ∧ (TicketOk stopped 0x0303 (tk [0, 1] 0) 2 0 ∧ stopped.recipe 0 = some (recipe0 false) ∧ stopped.runningRecipe = none
      ∧ stopped.cannotStart = false ∧ stopped.placedOnLost (recipe0 false) = false ∧ (recipe0 false).head.beatUs = stopped.lnk.period
      ∧ stopped.reportNs ≤ (recipe0 false).head.beatUs * (recipe0 false).head.gapPct * 10)
    ∧ (TicketOk (running (recipe0 false)) 0x0303 (tk [0, 1] 0) 2 0 ∧ (running (recipe0 false)).cannotStart = false
      ∧ (running (recipe0 false)).placedOnLost (recipe0 false) = false
      ∧ (running (recipe0 false)).reportNs ≤ (recipe0 false).head.beatUs * (recipe0 false).head.gapPct * 10
      ∧ (running (recipe0 false)).runningRecipe.isSome = true)
    ∧ (TicketOk (running (recipe0 false)) 0x0304 (tk [] 0) 0 0 ∧ (running (recipe0 false)).runningRecipe.isSome = true) :=
  ⟨⟨fits_ok (by decide +kernel), by decide +kernel⟩, ⟨fits_ok (by decide +kernel), by decide +kernel, by decide +kernel⟩,
   ⟨fits_ok (by decide +kernel), by decide +kernel, by decide +kernel, by decide +kernel, by decide +kernel, by decide +kernel, by decide +kernel⟩,
   ⟨fits_ok (by decide +kernel), by decide +kernel, by decide +kernel, by decide +kernel, by decide +kernel⟩,
   fits_ok (by decide +kernel), by decide +kernel⟩

theorem test_hyps_step_tickets : (TicketOk (running (recipe0 false)) 0x0401 (tk [] 0) 0 0
      ∧ (running (recipe0 false)).cur.head.isRun = false ∧ (running (recipe0 false)).rcp.state = .running
      ∧ (running (recipe0 false)).runningRecipe.isSome = true)
    ∧ (TicketOk (running (recipe0 true)) 0x0402 (tk [] 0) 0 0 ∧ (running (recipe0 true)).cur.head.isRun = true
      ∧ (running (recipe0 true)).rcp.state = .running ∧ (running (recipe0 true)).runningRecipe.isSome = true) :=
  ⟨⟨fits_ok (by decide +kernel), by decide +kernel, by decide +kernel, by decide +kernel⟩,
   ⟨fits_ok (by decide +kernel), by decide +kernel, by decide +kernel, by decide +kernel⟩⟩

/-- A shadow of device 1 with digest 0. -/
def shadow1 : ShadowImage :=
  { dev := 1, step := 4, epoch := 5, hi := [], comp := [], mom := [], est := [], err := [], logs := [], digest := 0, base := 0 }

/-- The image that a checkpoint of the stopped recipe writes, and the ticket that brings it back. -/
def image0 : List Byte := stopped.ckptHead (recipe0 false)
def restore0 : Ticket := { tk [] 4096 with buf := .ok image0 }

/-- A checkpoint's own head has no flaw. -/
theorem headFlaw_own (s : State) (r : Recipe) : s.headFlaw r (s.ckptHead r) = none := by
  have hc : headField (s.ckptHead r) 0xFFC 4 = leBytes 4 (crc32 ((s.ckptHead r).take 0xFFC)).toNat := by
    unfold State.ckptHead headField
    dsimp only
    rw [(head_parts _ _ 4092 4 (leBytes_len 4 _)).2.1, (head_parts _ _ 4092 4 (leBytes_len 4 _)).2.2]
  unfold State.headFlaw
  rw [if_neg (by rw [hc]; exact fun h => h rfl)]
  simp

theorem test_hyps_restore_image : TicketOk stopped 0x0502 restore0 0 1 ∧ stopped.ckptRecipe = some (recipe0 false)
    ∧ stopped.imageLen (recipe0 false) = 4096 ∧ (image0 ++ List.replicate (4096 - image0.length) 0).take 4096 = image0
    ∧ stopped.headFlaw (recipe0 false) image0 = none
    ∧ headField image0 0x10 8
        = leBytes 8 (sumDigest ((stopped.admits 0x0502 restore0).imageDigests (recipe0 false) (image0.drop 4096))).toNat := by
  refine ⟨fits_ok (by decide +kernel), by decide +kernel, by decide +kernel, ?_, headFlaw_own _ _, by decide +kernel⟩
  have h : image0.length = 4096 := ckptHead_length _ _
  rw [h, Nat.sub_self, List.replicate_zero, List.append_nil, List.take_of_length_le (by omega)]

theorem test_hyps_restore_shadow : (TicketOk ready 0x0503 (tk [1023, 1] 0) 2 0 ∧ par (tk [1023, 1] 0) 0 ≤ 1023)
    ∧ (TicketOk stopped 0x0504 (tk [1] 0) 1 0 ∧ stopped.ckptRecipe = some (recipe0 false) ∧ stopped.hif.state = .ready
      ∧ stopped.runningRecipe = none ∧ par (tk [1] 0) 0 ≤ 1023 ∧ ((stopped.admits 0x0504 (tk [1] 0)).takeShadow (recipe0 false) shadow1).upd.digest = shadow1.digest) :=
  ⟨⟨fits_ok (by decide +kernel), by decide +kernel⟩,
   ⟨fits_ok (by decide +kernel), by decide +kernel, by decide +kernel, by decide +kernel, by decide +kernel, by decide +kernel⟩⟩

/-- The module in TEST, and in IDLE at level 2. -/
def testing : State := readyHif fun h => { h with state := .test }
def idle2 : State := { readyPwr fun p => { p with idle := 2, wakeTol := 2000000 } with hif := { ready.hif with state := .idle } }

theorem test_hyps_test_tickets : TicketOk ready 0x0601 (tk [0xFF] 0) 1 0 ∧ TicketOk ready 0x0603 (tk [] 0) 0 0
    ∧ TicketOk testing 0x0604 (tk [] 0) 0 0 ∧ (TicketOk testing 0x0605 (tk [1, 127] 0) 2 0 ∧ 127 < unitCount 1) :=
  ⟨fits_ok (by decide +kernel), fits_ok (by decide +kernel), fits_ok (by decide +kernel), fits_ok (by decide +kernel), by decide +kernel⟩

theorem test_hyps_idle : (TicketOk ready 0x0801 (tk [100] 0) 1 0 ∧ ready.hif.state ≠ .idle)
    ∧ (TicketOk idle2 0x0801 (tk [0] 0) 1 0 ∧ idle2.hif.state = .idle ∧ 0 < idleLatency idle2.pwr.idle)
    ∧ (TicketOk (readyPwr fun p => { p with wakeTol := 0xFFFFFFFF }) 0x0802 (tk [5] 0) 1 0
      ∧ idleFor 5 (readyPwr fun p => { p with wakeTol := 0xFFFFFFFF }).pwr.wakeTol.toNat ≠ 0)
    ∧ TicketOk idle2 0x0803 (tk [] 0) 0 0
    ∧ (TicketOk ready 0x0804 (tk [1200] 0) 1 0 ∧ ready.pwr.mgmtLimit = false ∧ par (tk [1200] 0) 0 ≤ 1200) :=
  ⟨⟨fits_ok (by decide +kernel), by decide +kernel⟩, ⟨fits_ok (by decide +kernel), by decide +kernel, by decide +kernel⟩, ⟨fits_ok (by decide +kernel), by decide +kernel⟩, fits_ok (by decide +kernel),
   fits_ok (by decide +kernel), by decide +kernel, by decide +kernel⟩

/-- A group's list of devices 0 and 1 on VC 15, as GROUP_DEFINE reads it. -/
def group0 : Ticket := { tk [] 24 with buf := .ok (wordBytes [1, 15, 2, 0, 0, 1]) }
/-- A lost module that may join its domain again. -/
def lost0 : State := readyHif fun h => { h with state := .lost }

theorem test_hyps_domain : (TicketOk ready 0x0901 (tk [2, 2, 2, 1, 1, 1, 0, 0xFFFF] 0) 8 0
      ∧ domainBad (tk [2, 2, 2, 1, 1, 1, 0, 0xFFFF] 0) = none ∧ ready.runningRecipe = none)
    ∧ (TicketOk ready 0x0902 group0 0 1 ∧ 16 + 4 * (listWord (wordBytes [1, 15, 2, 0, 0, 1]) 2).toNat ≤ bufLen group0
      ∧ (ready.groupFrom (wordBytes [1, 15, 2, 0, 0, 1])).isSome = true)
    ∧ (TicketOk { ready with rcp := { Rcp.reset with groups := [(1, { vc := 2, members := [] })] } } 0x0903 (tk [1] 0) 1 0
      ∧ (Tab.find (applyGroups [(1, { vc := 2, members := [] })] []) 1).isSome = true)
    ∧ (TicketOk ready 0x0904 (tk [1000] 0) 1 0 ∧ ready.runningRecipe = none)
    ∧ (TicketOk lost0 0x0905 (tk [] 0) 0 0 ∧ lost0.hif.state = .lost ∧ lost0.mem.evac = false ∧ lost0.pwr.therm ≠ 4
      ∧ lost0.flt.degraded = false) :=
  ⟨⟨fits_ok (by decide +kernel), by decide +kernel, by decide +kernel⟩, ⟨fits_ok (by decide +kernel), by decide +kernel, by decide +kernel⟩,
   ⟨fits_ok (by decide +kernel), by decide +kernel⟩, ⟨fits_ok (by decide +kernel), by decide +kernel⟩,
   ⟨fits_ok (by decide +kernel), by decide +kernel, by decide +kernel, by decide +kernel, by decide +kernel⟩⟩

theorem test_hyps_end : (MailboxFree ready 0x0FFF (tk [] 0) ∧ opEntry 0x0FFF = none)
    ∧ (MailboxFree (readyHif fun h => { h with state := .fault }) 0x0204 (tk [] 0) ∧ (opEntry 0x0204).isSome = true
      ∧ ready.stp.saved = none ∧ ready.runningRecipe = none)
    ∧ (MailboxFree { ready with sbm := { Sbm.reset with lockPower := true } } 0x0804 (tk [] 0))
    ∧ (MailboxFree { ready with sbm := { Sbm.reset with lockSecurity := true } } 0x0A03 (tk [] 0))
    ∧ (MailboxFree ready 0x0106 (tk [1] 0) ∧ opEntry 0x0106 = some (0, 0, false) ∧ ready.stateAllows 0x0106 = true
      ∧ ready.denies 0x0106 = false ∧ ((plain 0x0106 (tk [1] 0)).flaw (0, 0, false)).isSome = true)
    ∧ (Tab.find ready.hif.rails (tk [] 0).rail = some rail0 ∧ Tab.find ready.hif.passes rail0.pass = some pass0) :=
  ⟨⟨fits_free (n := 0) (a := 0) (by decide +kernel), by decide +kernel⟩,
   ⟨⟨rfl, by decide +kernel, ⟨rail0, rfl, Or.inl rfl, rfl⟩, rfl, rfl, rfl, rfl, rfl⟩, by decide +kernel, by decide +kernel, by decide +kernel⟩,
   ⟨rfl, by decide +kernel, ⟨rail0, rfl, Or.inl rfl, rfl⟩, rfl, rfl, rfl, rfl, rfl⟩,
   ⟨rfl, by decide +kernel, ⟨rail0, rfl, Or.inl rfl, rfl⟩, rfl, rfl, rfl, rfl, rfl⟩,
   ⟨⟨rfl, by decide +kernel, ⟨rail0, rfl, Or.inl rfl, rfl⟩, rfl, rfl, rfl, rfl, rfl⟩, by decide +kernel, by decide +kernel, by decide +kernel, by decide +kernel⟩, rfl, rfl⟩

/-! ### Witnesses: the mailbox and the registers -/

theorem test_hyps_doorbells : (Tab.find ready.hif.rails 0 = some rail0 ∧ ready.mboxRuns = true ∧ rail0.err = false
      ∧ fld 15 15 0 ≠ rail0.tail ∧ fld 15 15 0 < 2 ^ rail0.log2 ∧ rail0.held + (15 + 16 - rail0.tail) % 16 < 16)
    ∧ (fld 16 15 0 ≠ rail0.tail ∧ 2 ^ rail0.log2 ≤ fld 16 15 0)
    ∧ (Tab.find ready.hif.passes 0 = some pass0 ∧ fld 0 15 0 < 2 ^ pass0.log2 ∧ (0 + 16 - pass0.head) % 16 ≤ pass0.used)
    ∧ (pass0.used < (1 + 16 - pass0.head) % 16)
    ∧ (Tab.find ready.hif.rails 63 = none ∧ Tab.find ready.hif.passes 63 = none)
    ∧ (readyHif fun h => { h with mboxEn := false }).mboxRuns = false := by decide +kernel

theorem test_hyps_fetch : (readyHif fun h => { h with turns := [0] }).mboxRuns = true
    ∧ (readyHif fun h => { h with turns := [0] }).fetchTurn = some 0
    ∧ Tab.find (readyHif fun h => { h with turns := [0] }).hif.rails 0 = some rail0 := by decide +kernel

/-- A completion that waits, and a pass that holds it. -/
def done0 : Completion := { rail := 0, head := 1, tag := 7, status := 0, res := [], quiet := false }
def pass1 : Pass := { pass0 with waiting := [done0], timer := true }
def waiting1 : State := readyHif fun h => { h with passes := [(0, pass1), (1, { pass1 with used := 16 })] }

theorem test_hyps_completions : (waiting1.mboxRuns = true ∧ Tab.find waiting1.hif.passes 0 = some pass1 ∧ pass1.waiting = [done0]
      ∧ pass1.used < 2 ^ pass1.log2 ∧ pass1.timer = true)
    ∧ (Tab.find waiting1.hif.passes 1 = some { pass1 with used := 16 } ∧ 2 ^ pass1.log2 ≤ 16) := by decide +kernel

theorem test_hyps_mailbox : State.reset.hif.mboxEn = false ∧ ready.hif.mboxEn = true := by decide +kernel

theorem test_hyps_host : ready.hostUp = true ∧ counterAt cCalRun = true ∧ (counterAt cBadAcc || cBadAcc == cBadAcc) = true
    ∧ (1 ≠ 4 ∨ 0 % 4 ≠ 0) ∧ ready.pwr.aon = true ∧ ready.pwr.pwrgood = true := by decide +kernel

/-- The latches taken. -/
def latched : State := readyHif fun h => { h with hostLatch := [(0x010, 5)], mgmtLatch := [(0x498, 5)] }

theorem test_hyps_wide : (wideAt .host 0x010 = true ∧ Tab.find ready.hif.hostLatch 0x010 = none
      ∧ Tab.find latched.hif.hostLatch 0x010 = some 5 ∧ latched.hostUp = true)
    ∧ (wideAt .mgmt 0x498 = true ∧ Tab.find ready.hif.mgmtLatch 0x498 = none ∧ Tab.find latched.hif.mgmtLatch 0x498 = some 5
      ∧ latched.pwr.aon = true ∧ latched.pwr.pwrgood = true) := by decide +kernel

theorem test_hyps_register_writes : ready.hostUp = true ∧ ready.hif.mboxEn = true
    ∧ ((readyHif fun h => { h with mboxEn := false }).hif.mboxEn = false ∧ (readyHif fun h => { h with mboxEn := false }).hostUp = true)
    ∧ (ready.sbm.lockPower ≠ (1 : Word).getLsbD 0) := by decide +kernel

theorem test_hyps_control_registers : testing.hif.state = .test ∧ ready.hif.state ≠ .test ∧ ready.isAbsent 127 = false
    ∧ fld 0x7F 7 0 = 127 ∧ 0x80 ≤ fld 0x80 7 0 := by decide +kernel

/-- A window open on region 62, with no recipe running, and with one running that names the region as a kind. -/
def windowed : State :=
  { readyHif fun h => { h with wins := [(0, { en := true, region := 62, baseMib := 0 })] } with mem := withRegion.mem }
def naming (kind : Nat) : State :=
  { windowed with
    mem := { withRegion.mem with regions := [(62, { region0 with kind := kind })] }
    rcp := (running { recipe0 false with regions := [{ kind := kind, index := 0, spread := 2, region := 62, size := 1 }] }).rcp }

theorem test_hyps_windows : (windowed.hostUp = true ∧ windowed.winSpan 1048572 4 = some (62, 1048572) ∧ windowed.named 62 = false
      ∧ windowed.viewPoison 62 1048572 4 = [])
    ∧ (windowed.winSpan 1048576 4 = none ∧ windowed.winSpan 1073741824 4 = none)
    ∧ ((naming 2).winSpan 0 4 = some (62, 0) ∧ (naming 2).named 62 = true ∧ shutKind ((naming 2).regionKind 62) = true)
    ∧ ((naming 3).winSpan 0 4 = some (62, 0) ∧ (naming 3).named 62 = true ∧ shutKind ((naming 3).regionKind 62) = false
      ∧ (naming 3).viewPoison 62 0 4 = []) := by
  decide +kernel

/-- The main rails off, the always-on domain up. -/
def railsOff : State := readyPwr fun p => { p with pwrgood := false }

theorem test_hyps_reads : (ready.hostUp = true ∧ counterAt cCalRun = true)
    ∧ (ready.pwr.aon = true ∧ ready.pwr.pwrgood = true ∧ listed 0x034 = true ∧ isMsix 0x034 = false ∧ wideAt .mgmt 0x030 = false)
    ∧ (railsOff.pwr.aon = true ∧ railsOff.pwr.pwrgood = false ∧ 0x034 % 4 = 0 ∧ 0x034 ≠ 0x4004 ∧ 0x034 ≠ 0x5000)
    ∧ (2 % 4 ≠ 0 ∧ 2 ≠ 0x4004 ∧ 0x3FFFC % 4 = 0 ∧ listed 0x3FFFC = false) := by decide +kernel

/-! ### Witnesses: power, start-up, management -/

theorem test_hyps_always_on : State.reset.pwr.aon = false ∧ ready.pwr.aon = true ∧ 33999 < 34000 := by decide +kernel

theorem test_hyps_rails_up : railsOff.mayStartRails = true ∧ (43000 ≤ 43000 ∧ 58000 ≤ 58000) ∧ 42999 < 43000 ∧ 58000 < 58001
    ∧ (9 < 10 ∧ 9 ≠ 1) ∧ ready.pwr.pwrgood = true ∧ 15 < 16 ∧ (20 ≤ 25 ∧ 25 ≤ 25)
    ∧ (25 < 26 ∧ ready.pwr.startStep = 0 ∧ ready.hostStill ∧ ready.stp.saved = none ∧ ready.runningRecipe = none)
    ∧ (ready.pwr.dom.getLsbD 15 = true)
    ∧ ((16 ≤ 19 ∧ 19 < 20) ∧ (readyPwr fun p => { p with startStep := 5 }).pwr.startStep ≠ 0
      ∧ (readyPwr fun p => { p with startStep := 5 }).pwr.pwrgood = true) := by decide +kernel

/-- In the brace state, warned of over-voltage, and waiting for it to pass. -/
def braced : State := readyPwr fun p => { p with braced := true }
def ovWarned : State := readyPwr fun p => { p with supply := .ovWarn }
def ovWaits (latch : Bool) : State := readyPwr fun p => { p with pwrgood := false, ovWait := true, ovLatch := latch }

theorem test_hyps_supply : (ready.pwr.pwrgood = true ∧ ready.pwr.braced = false ∧ braced.pwr.pwrgood = true ∧ braced.pwr.braced = true)
    ∧ (ready.pwr.aon = true ∧ ready.pwr.supply ≠ .ovWarn ∧ ovWarned.pwr.supply = .ovWarn)
    ∧ ((ovWaits false).pwr.ovWait = true ∧ (ovWaits false).pwr.ovLatch = false
      ∧ State.mayStartRails { ovWaits false with pwr := { (ovWaits false).pwr with ovWait := false } } = true)
    ∧ ((ovWaits true).pwr.ovWait = true ∧ (ovWaits true).pwr.ovLatch = true) := by decide +kernel

theorem test_hyps_shutdowns : ready.pwr.pwrgood = true ∧ ready.pwr.aon = true ∧ 37999 < 38000 ∧ 62000 < 62001
    ∧ thermLimit .die ≤ 1150 ∧ thermLimit .memory ≤ 1080 ∧ thermLimit .outlet ≤ 750 ∧ thermLimit .stage ≤ 1300 := by decide +kernel

/-- At start-up step n; with a bad copy B besides; with a bad copy A. -/
def starting (n : Nat) : State := readyPwr fun p => { p with startStep := n }
def badB : State := { starting 6 with sec := { ready.sec with copyB := { svn := 1, build := 1, valid := false, hash := [] }, wdCount := 2 } }

theorem test_hyps_boot : ((starting 5).pwr.startStep = 5 ∧ (starting 5).pwr.braced = false
      ∧ (starting 5).copyPasses (starting 5).sec.fwB true = true ∧ (starting 5).copyPasses (starting 5).sec.fwB false = false
      ∧ (starting 5).copyPasses true true = true ∧ (starting 5).copyPasses true false = false)
    ∧ (6 ≤ (starting 6).pwr.startStep ∧ (starting 6).sec.bootGood = false ∧ (starting 6).sec.wdCount < 2)
    ∧ ((readySec fun x => { x with wdCount := 2 }).sec.failover = false
      ∧ (readySec fun x => { x with wdCount := 2 }).copyPasses true true = true
      ∧ 2 ≤ (readySec fun x => { x with wdCount := 2 }).sec.wdCount)
    ∧ (6 ≤ badB.pwr.startStep ∧ badB.sec.bootGood = false ∧ 2 ≤ badB.sec.wdCount ∧ badB.copyPasses true true = false)
    ∧ (ready.pwr.pwrgood = true ∧ (ready.flt.wdHours.filter (fun h => decide (ready.evt.hours - h < 65536))).length < 2)
    ∧ (2 ≤ ((readyFlt fun f => { f with wdHours := [0, 0] }).flt.wdHours.filter (fun h => decide (ready.evt.hours - h < 65536))).length
      ∧ ready.hif.state ≠ .fault ∧ ready.hif.waitq = [] ∧ ready.hif.deleting = [] ∧ ready.hif.seqBusy = none ∧ ready.stp.saved = none) := by
  decide +kernel

/-- What a start-up finds when all is well. -/
def allWell : StartObs :=
  { fwOk := true, selfOk := true, coreMapOk := true, nvmOk := true, secOk := true, nvm := asWritten, rates := [4, 3], dtFail := [], cals := [],
    temp := 5 }

theorem test_hyps_start_up : braced.pwr.braced = true
    ∧ ((starting 6).pwr.braced = false ∧ (starting 6).pwr.startStep = 6 ∧ allWell.selfOk = true ∧ allWell.coreMapOk = true ∧ allWell.nvmOk = true
      ∧ allWell.secOk = true)
    ∧ ({ allWell with nvmOk := false }.nvmOk = false ∧ (starting 6).hif.waitq = [] ∧ (starting 6).sec.failover = false
      ∧ (starting 6).copyPasses (!(starting 6).sec.fwB) true = true ∧ badB.copyPasses (!badB.sec.fwB) true = false
      ∧ (starting 6).hif.deleting = []
      ∧ (starting 6).hif.seqBusy = none ∧ (starting 6).stp.saved = none)
    ∧ ((starting 7).pwr.startStep = 7 ∧ [0].foldl min 4 = 0 ∧ allWell.rates.foldl min 4 ≠ 0)
    ∧ ((starting 8).pwr.startStep = 8 ∧ (starting 9).pwr.startStep = 9 ∧ allWell.temp = 5 ∧ (starting 9).flt.moving = [])
    ∧ (starting 10).pwr.startStep = 10
    ∧ ({ starting 11 with hif := { ready.hif with state := .boot } }.hif.state = .boot ∧ (starting 11).pwr.startStep = 11) := by
  decide +kernel

theorem test_hyps_resets : ready.pwr.modReset = false ∧ ready.pwr.pwrgood = true ∧ ready.hif.mboxEn = true ∧ ready.hostUp = true
    ∧ (running (recipe0 false)).rcp.state = .running := by decide +kernel

/-- With an owner root and a session; sealed. -/
def session : State := { readySec fun x => { x with owner := some [], keys := [(0, [1])] } with sbm := { Sbm.reset with session := true } }

theorem test_hyps_secured : ready.pwr.aon = true ∧ ready.sbm.session = false ∧ ready.pwr.pwrgood = true ∧ railsOff.pwr.pwrgood = false
    ∧ session.sec.owner.isSome = true := by decide +kernel

theorem test_hyps_management : ready.pwr.aon = true ∧ ready.pwr.pwrgood = true
    ∧ ((readyPwr fun p => { p with modReset := true }).pwr.modReset = true ∧ ready.pwr.modReset = false ∧ ready.pwr.startFail = none)
    ∧ (43000 ≤ (readyPwr fun p => { p with vin := 58000 }).pwr.vin.toNat ∧ (readyPwr fun p => { p with vin := 58000 }).pwr.vin.toNat ≤ 58000)
    ∧ ready.pwr.vin.toNat < 43000 ∧ (450 ≤ (1200 : Word).toNat ∧ (1200 : Word).toNat ≤ 1200) ∧ (449 : Word).toNat < 450 := by
  decide +kernel

/-- A session in which recipe 0, of slot 0, runs. -/
def keyed : State := { session with rcp := (running (recipe0 false)).rcp }

theorem test_hyps_keys : (ready.sec.owner = none ∧ session.sbm.session = true)
    ∧ (keyed.hostStill ∧ keyed.runningRecipe = some (recipe0 false) ∧ (recipe0 false).head.keyId = 0 ∧ keyed.recipe 0 = some (recipe0 false)
      ∧ (recipe0 false).head.keyId ≠ 3)
    ∧ ({ session with rcp := (loaded (recipe0 false)).rcp }.recipe 0 = some (recipe0 false)
      ∧ { session with rcp := (loaded (recipe0 false)).rcp }.runningRecipe = none)
    ∧ (List.replicate 32 (0 : Byte)).length = 32
    ∧ (session.sec.debug = 1 ∧ { session with sec := { session.sec with debug := 2 } }.sec.debug ≠ 1 ∧ session.hostStill) := by
  decide +kernel

/-- A unit history with a RETIRED and a TRANSIENT entry. -/
def hist (cls unit : Nat) (st : UnitState) : UnitHist :=
  { cls := cls, unit := unit, ce := 3, err := 1, first := 0, last := 0, prev := 0, state := st, dtFail := false, lastEvent := 0xB001, phys := 0 }
def storied : State := { session with flt := { Flt.reset with hist := [hist 1 0 .transient, hist 1 1 .retired] } }

theorem test_hyps_histories : (session.pwr.aon = true ∧ session.pwr.pwrgood = true ∧ session.sbm.session = true)
    ∧ (session.evt.queue = [] ∧ session.evt.page.length < 63)
    ∧ (1 < unitCount 1 ∧ storied.hist? 1 1 = some (hist 1 1 .retired) ∧ storied.hist? 1 0 = some (hist 1 0 .transient)
      ∧ storied.hist? 1 2 = none) := by decide +kernel

theorem test_hyps_export_end : session.exportBytes.length + 1 ≠ 0
    ∧ session.exportBytes.length ≤ 4096 * (session.exportBytes.length + 1) :=
  ⟨by omega, by omega⟩

theorem test_hyps_mctp_pldm : ready.pwr.aon = true ∧ ready.pwr.pwrgood = true ∧ railsOff.pwr.aon = true ∧ railsOff.pwr.pwrgood = false
    ∧ ready.sensor 1 = some (0, false) ∧ railsOff.sensor 0x50 = some (8, true) ∧ ready.sensor 0x50 = some (8, true)
    ∧ ready.sensor 0x51 = none ∧ (0x7F ≠ 0x00 ∧ 0x7F ≠ 0x01 ∧ 0x7F ≠ 0x05 ∧ 0x7F ≠ 0x06 ∧ 0x7F ≠ 0x7E) := by decide +kernel

/-- An image received, and one verified. -/
def imaged : State := { readyPwr fun p => { p with vin := 43000 } with sbm := { Sbm.reset with fwImage := [1] } }
def verified : State := { imaged with sbm := { imaged.sbm with fwDone := some (true, 1, 1) } }

theorem test_hyps_firmware : (imaged.pwr.aon = true ∧ imaged.pwr.pwrgood = true ∧ imaged.sbm.fwImage ≠ [] ∧ ready.sbm.fwImage = [])
    ∧ ((0 : Half).toNat < imaged.sec.rollback.toNat ∧ imaged.sec.rollback.toNat ≤ (1 : Half).toNat)
    ∧ (imaged.sbm.fwDone = none ∧ verified.sbm.fwDone = some (true, 1, 1) ∧ verified.sec.rollback.toNat ≤ (1 : Half).toNat)
    ∧ (43000 ≤ verified.pwr.vin.toNat ∧ verified.pwr.vin.toNat ≤ 58000 ∧ verified.pwr.ovLatch = false
      ∧ verified.pwr.thermLatch = false ∧ verified.pwr.offLatch = false ∧ verified.pwr.ovWait = false
      ∧ verified.pwr.modReset = false) := by decide +kernel

theorem test_hyps_spdm : ready.pwr.aon = true ∧ ready.pwr.pwrgood = true ∧ ready.sec.owner = none ∧ session.sec.owner.isSome = true
    ∧ session.pwr.pwrgood = true ∧ railsOff.pwr.pwrgood = false := by decide +kernel

/-! ### Witnesses: links and the beat -/

/-- A domain of 2 × 2 × 2 with this device at 0, and port 5 as given. -/
def domain8 (x : Port) : State :=
  { ready with lnk := { Lnk.reset with dimX := 2, dimY := 2, dimZ := 2, domain := true, ports := [(5, x)] } }
def cabled (st : PortState) : Port := { Port.blank with state := st, cable := true, lanes := 0x3F }
def trained (lanes : BitVec 6) (partnerSealed : Bool) (st : PortState) : TrainObs :=
  { lanes := lanes, partner := some ((domain8 (cabled st)).partnerOf 5), pport := 4, delay := 30, partnerSealed := partnerSealed }

/-- A domain of one plane, in which port 5 has nobody to speak to. -/
def flat : State := { domain8 (cabled .disabled) with lnk := { (domain8 (cabled .disabled)).lnk with dimZ := 1 } }

theorem test_hyps_ports : (5 < 6 ∧ (domain8 Port.blank).dimSize 2 ≠ 1 ∧ ((domain8 Port.blank).port 5).works = false
      ∧ ((domain8 Port.blank).port 5).state ≠ .down)
    ∧ (((domain8 (cabled .miswired)).port 5).state = .miswired ∧ ((domain8 (cabled .miswired)).port 5).cable = true)
    ∧ (((domain8 (cabled .down)).port 5).state = .down ∧ (domain8 (cabled .down)).stuckDown 5 = false)
    ∧ (((domain8 { cabled .down with sealDown := true }).port 5).state = .down
      ∧ (domain8 { cabled .down with sealDown := true }).stuckDown 5 = true
      ∧ (domain8 { cabled .down with sealDown := true }).dimSize 2 ≠ 1)
    ∧ ((ready.port 5).cable = false ∧ ready.lnk.domain = false)
    ∧ ((flat.port 5).cable = true ∧ flat.lnk.domain = true ∧ flat.dimSize (5 / 2) = 1) := by decide +kernel

theorem test_hyps_training : ((domain8 (cabled .training)).rightPartner 5 { trained 0x3F false .training with partner := none } = false)
    ∧ ((domain8 (cabled .training)).rightPartner 5 (trained 0x3F true .training) = true
      ∧ (domain8 (cabled .training)).sec.rsealed.getLsbD 5 ≠ (trained 0x3F true .training).partnerSealed)
    ∧ ((domain8 (cabled .training)).sec.rsealed.getLsbD 5 = (trained 0x0F false .training).partnerSealed
      ∧ popCount 6 ((trained 0x0F false .training).lanes &&& ~~~((domain8 (cabled .training)).lanePerm 5)).toNat = 4)
    ∧ ((domain8 { cabled .down with wasDown := true }).rightPartner 5 (trained 0x1F false .down) = true
      ∧ popCount 6 ((trained 0x1F false .down).lanes &&& ~~~((domain8 { cabled .down with wasDown := true }).lanePerm 5)).toNat = 5
      ∧ ((domain8 { cabled .down with wasDown := true }).port 5).wasDown = true
      ∧ (domain8 { cabled .down with wasDown := true }).sec.rsealed.getLsbD 5 = (trained 0x1F false .down).partnerSealed
      ∧ (domain8 { cabled .down with wasDown := true }).stuckDown 5 = false)
    ∧ (((domain8 (cabled .training)).port 5).cable = true ∧ ((domain8 (cabled .training)).port 5).wasDown = false
      ∧ (domain8 (cabled .training)).stuckDown 5 = false ∧ (domain8 (cabled .training)).dimSize 2 ≠ 1) := by decide +kernel

theorem test_hyps_lanes : ((domain8 (cabled .up)).port 5).lanes.getLsbD 5 = true ∧ ((domain8 (cabled .up)).port 5).works = true
    ∧ (((domain8 { cabled .up with lanes := 0x1F }).port 5).lanes.getLsbD 5 = false
      ∧ ((domain8 { cabled .up with lanes := 0x1F }).lanePerm 5).getLsbD 5 = false
      ∧ ((domain8 { cabled .up with lanes := 0x1F }).histOf uLane 35).state = .clean)
    ∧ 3 ≤ Tab.get ((domain8 { cabled .up with laneFails := [(5, 3)] }).port 5).laneFails 5 0
    ∧ Tab.get ((domain8 { cabled .up with laneFails := [(5, 2)] }).port 5).laneFails 5 0 < 3
    ∧ (crc32 [1] ≠ 0 ∧ crc32 [] = 0) := by decide +kernel

/-- A packet for device 128 + 16 + 1, and one that waits for its acknowledgement. -/
def packet8 (vc : Nat) : LinkPkt :=
  { src := 0, dst := 145, vc := vc, gen := 0, id := 9, data := List.replicate 64 0, inPort := none, via := none, second := false }
def routing : State := { domain8 (cabled .up) with lnk := { (domain8 (cabled .up)).lnk with ports := [(0, cabled .up)], unacked := [(9, packet8 1)] } }

theorem test_hyps_routing : (Tab.find routing.lnk.routes routing.lnk.gen = none ∧ (packet8 1).inPort = none
      ∧ coordOf 145 0 ≠ coordOf routing.device 0 ∧ ∀ j, j < 0 → coordOf 145 j = coordOf routing.device j)
    ∧ (coordOf 128 2 ≠ coordOf routing.device 2 ∧ coordOf 128 0 = coordOf routing.device 0 ∧ coordOf 128 1 = coordOf routing.device 1)
    ∧ ((routing.port 0).works = true ∧ routing.partnerOf 0 ∉ routing.lnk.dead ∧ (routing.port 2).works = false)
    ∧ Tab.find routing.lnk.unacked 9 = some (packet8 1)
    ∧ ({ packet8 1 with inPort := some 5, dst := routing.device }.inPort = some 5
      ∧ { packet8 1 with inPort := some 5, dst := routing.device }.dst = routing.device) := by decide +kernel

/-- A retry block; sealed ports with a failure less than the third, and at the third. -/
def block0 (seq : Nat) : Block := { seq := seq, crc := 0, data := [] }
def sealedPort (n : Nat) : State :=
  { domain8 { cabled .up with sealFails := n, sent := [block0 7, block0 8, block0 9] } with
    sec := { ready.sec with rsealed := 0x20, linkKeys := [(10, { key := [], beat := 0, active := true })] } }

theorem test_hyps_link_state : (((sealedPort 0).port 5).sent = [block0 7] ++ block0 8 :: [block0 9] ∧ (∀ c ∈ [block0 7], c.seq ≠ (block0 8).seq)
      ∧ (block0 8).seq < 4096)
    ∧ ((∀ b ∈ ((sealedPort 0).port 5).sent, b.seq ≠ 4095 % 4096) ∧ (sealedPort 0).lnk.routed = [])
    ∧ (1 < 2 ∧ 1 ≠ (sealedPort 0).lnk.gen ∧ 0 = (sealedPort 0).lnk.gen)
    ∧ ((sealedPort 1).sec.rsealed.getLsbD 5 = true ∧ ((sealedPort 1).port 5).sealFails < 2 ∧ 2 ≤ ((sealedPort 2).port 5).sealFails)
    ∧ ready.sec.rsealed.getLsbD 5 = false := by decide +kernel

/-- A message, and a device that has received it; a master with reports; a step in progress that a ticket waits for. -/
def message (commit : Bool) (causes fails : List Nat) : TickMsg :=
  { beat := 2 ^ 48 - 1, k := 2, commit := commit, causes := causes, origins := [], fails := fails, drops := [], preds := [], hold := true, gen := 0,
    lost := [], recov := [] }
def received (m : Option TickMsg) : State :=
  { domain8 (cabled .up) with lnk := { (domain8 (cabled .up)).lnk with master := 1, tickRx := m } }
def runTicket : WaitTicket := plain 0x0401 (tk [] 0)
def stepped (m : TickMsg) : State :=
  { received (some m) with
    rcp := (running (recipe0 false)).rcp
    hif := { ready.hif with state := .running, seqBusy := some runTicket }
    stp := { Stp.reset with active := true, begun := true, step := 1, commitReady := true } }

theorem test_hyps_ticks : (ready.ticks = false ∧ (received none).lnk.master ≠ (received none).device ∧ (received none).lnk.tickRx = none)
    ∧ ((received (some (message false [] []))).ticks = true ∧ (received (some (message false [] []))).leaving = false
      ∧ (received (some (message false [] []))).hostStill ∧ (message false [] []).lost = [] ∧ (received (some (message false [] []))).stp.active = false)
    ∧ ((received none).ticks = true ∧ (received none).leaving = false ∧ (received none).lnk.domain = true) := by decide +kernel

theorem test_hyps_tick_received : (received (some (message false [] []))).tickOf (message false [] []) :=
  Or.inr ⟨by decide +kernel, rfl⟩

theorem test_hyps_step_decided : (stepped (message true [] [])).tickOf (message true [] [])
    ∧ ((stepped (message true [] [])).ticks = true ∧ (stepped (message true [] [])).stepping runTicket
      ∧ (stepped (message true [] [])).leaving = false ∧ (stepped (message true [] [])).train = true
      ∧ (stepped (message true [] [])).stp.commitReady = true)
    ∧ ((stepped (message false [10, 4] [])).stepping runTicket ∧ (message false [10, 4] []).causes ≠ [])
    ∧ ((stepped (message false [] [3])).stepping runTicket ∧ (message false [] [3]).fails ≠ []) :=
  ⟨Or.inr ⟨by decide +kernel, rfl⟩, by decide +kernel, by decide +kernel, by decide +kernel⟩

/-- A window open at the master of the domain, with a report merged and 64 stretched beats behind it. -/
def report0 : Report :=
  { devs := [0], ready := true, causes := [], origins := [], fails := [], drops := [], k := 8, compares := [], hold := false, lost := [],
    downs := [], restored := [] }
def mastering : State :=
  { domain8 (cabled .up) with lnk := { (domain8 (cabled .up)).lnk with windowOpen := true, merged := some report0, stretchRun := 64,
                                                                         missed := 2, standby := none } }

/-- A device whose master is its neighbour at port 1. -/
def leaf : State := received none

theorem test_hyps_windows_close : ready.lnk.windowOpen = false ∧ mastering.lnk.windowOpen = true ∧ ready.lnk.merged = none
    ∧ (mastering.lnk.merged = some report0 ∧ mastering.lnk.master = mastering.device ∧ 64 ≤ mastering.lnk.stretchRun ∧ 0 < report0.k)
    ∧ (leaf.lnk.windowOpen = false ∧ leaf.lnk.merged = none ∧ leaf.parentPort = some 1
      ∧ { leaf with lnk := { leaf.lnk with merged := some report0 } }.parentPort = some 1)
    ∧ ready.lnk.missed < 2 ∧ 2 ≤ mastering.lnk.missed
    ∧ mastering.liveDevs.find? (fun x => x != mastering.lnk.master) = some 1 := by decide +kernel

/-- Slots of a running recipe, the second with a predicate, the third of the split reserve. -/
def slot0 (kind : Nat) (p : Bool) : Slot :=
  { kind := kind, predEn := p, predPol := true, pred := 0, beat := 0, start := 0, budget := 10, mb := 0xFFFF }
def slotted : State :=
  { running { recipe0 false with slots := [slot0 0 false, slot0 0 true, slot0 8 false] } with
    stp := { Stp.reset with active := true, begun := true, step := 1 }
    hif := { ready.hif with state := .running, seqBusy := some runTicket } }
def replaying (n : Nat) : State := { slotted with stp := { slotted.stp with replayDue := some 4, attempt := n } }
def fenced (n : Nat) : State :=
  { slotted with stp := { slotted.stp with fenceWait := true, fenceBeats := n }, lnk := { slotted.lnk with windowOpen := true } }
def saved0 : Saved := { stk := [], tags := [], pendMb := [], mbRan := [], drops := [], live := [1], slotEpoch := [] }

theorem test_hyps_slots : (slotted.cur.slots[0]? = some (slot0 0 false) ∧ slotted.slotDue 0 (slot0 0 false) = true
      ∧ slotted.predStops (slot0 0 false) = false ∧ slotted.reserveIdle (slot0 0 false) = false)
    ∧ (slotted.slotDue 1 (slot0 0 true) = true ∧ slotted.predStops (slot0 0 true) = true)
    ∧ (slotted.slotDue 2 (slot0 8 false) = true ∧ slotted.predStops (slot0 8 false) = false
      ∧ slotted.reserveIdle (slot0 8 false) = true)
    ∧ (slotted.slotDue 0 { slot0 0 false with beat := 1 } = false) ∧ slotted.cur.slots[3]? = none := by decide +kernel

theorem test_hyps_replays : ((replaying 2).stp.replayDue = some 4 ∧ (replaying 2).mayReplay = true
      ∧ (replaying 2).stp.attempt ≤ (replaying 2).cur.head.replayMax
      ∧ { replaying 2 with stp := { (replaying 2).stp with saved := some saved0 } }.mayReplay = true)
    ∧ ({ replaying 2 with stp := { (replaying 2).stp with held := true } }.mayReplay = false)
    ∧ ((replaying 3).cur.head.replayMax < (replaying 3).stp.attempt ∧ (replaying 3).stp.active = true
      ∧ (replaying 3).hif.seqBusy = some runTicket ∧ runTicket.op = 0x0401 ∧ (replaying 3).hif.waitq = []
      ∧ (replaying 3).hif.deleting = [] ∧ (replaying 3).hif.state ≠ .lost ∧ (replaying 3).hif.state ≠ .fault)
    ∧ slotted.stp.replayDue = none
    ∧ ((fenced 1).stp.fenceWait = true ∧ (fenced 1).cur.head.fenceLimit ≤ (fenced 1).stp.fenceBeats ∧ (fenced 1).stp.active = true
      ∧ (fenced 1).lnk.windowOpen = true)
    ∧ (slotted.stp.fenceWait = false ∧ (fenced 0).stp.fenceBeats < (fenced 0).cur.head.fenceLimit) := by decide +kernel

/-- A recipe that stops, and one that makes way for another. -/
def stopping : State :=
  { running (recipe0 false) with rcp := { (running (recipe0 false)).rcp with state := .stopping, unloadAtStop := true } }
def makesWay : State :=
  { running (recipe0 false) with
    rcp := { (running (recipe0 false)).rcp with state := .stopping, startNext := some (0, 5) }
    hif := { ready.hif with state := .running, seqBusy := some (plain 0x0303 (tk [0, 5] 0)) } }

/-- A step accepted that has not begun. -/
def accepted : State := { slotted with stp := { slotted.stp with begun := false } }

theorem test_hyps_boundary : (slotted.stp.active = true ∧ slotted.stp.begun = true)
    ∧ (accepted.stp.active = true ∧ accepted.stp.begun = false ∧ accepted.hif.waitq = [] ∧ accepted.hif.state ≠ .lost
      ∧ accepted.hif.state ≠ .fault ∧ accepted.flt.lostNext = false)
    ∧ (stopping.stp.active = false ∧ stopping.hostStill ∧ stopping.rcp.startNext = none ∧ stopping.flt.lostNext = false
      ∧ stopping.rcp.state = .stopping ∧ stopping.hif.state = .running)
    ∧ (makesWay.stp.active = false ∧ makesWay.rcp.startNext = some (0, 5) ∧ makesWay.rcp.state = .stopping
      ∧ makesWay.hif.seqBusy = some (plain 0x0303 (tk [0, 5] 0)) ∧ makesWay.hif.waitq = [] ∧ makesWay.hif.deleting = []
      ∧ makesWay.flt.lostNext = false)
    ∧ ((readyFlt fun f => { f with lostNext := true }).hostStill ∧ (readyFlt fun f => { f with lostNext := true }).rcp.startNext = none
      ∧ (readyFlt fun f => { f with lostNext := true }).flt.lostNext = true
      ∧ (readyFlt fun f => { f with lostNext := true }).hif.state ≠ .boot) := by decide +kernel

/-! ### Witnesses: descriptors, the Stockpot, collectives -/

/-- A descriptor of an opcode with some words set; it waits for no move. -/
def desc (num op : Nat) (l : List (Nat × Word)) : Desc :=
  { num := num, w := (l.foldl (fun (w : List Word) e => w.set e.1 e.2) (List.replicate 15 0 ++ [0xFFFFFFFF])).set 0 (BitVec.ofNat 32 (op * 2 ^ 24)) }

/-- A step in progress of a recipe with some descriptors in one slot, which has started, and a Stockpot region for cluster 0. -/
def stocked (ds : List Desc) : State :=
  { running { recipe0 false with descs := ds, slots := [slot0 0 false],
                                 regions := [{ kind := 1, index := 0, spread := 0, region := 5, size := 1 }] } with
    stp := { Stp.reset with active := true, begun := true, step := 1, slotsOn := [0] }
    mem := { MemSys.reset with regions := [(5, { region0 with kind := 1 })] } }

/-- The opcodes that take effect when their turn comes. -/
def allOps : List Nat :=
  [0x00, 0x10, 0x20, 0x21, 0x30, 0x31, 0x32, 0x33, 0x34, 0x35, 0x36, 0x37, 0x38, 0x39, 0x3A, 0x40, 0x41, 0x50, 0x51, 0x60, 0x61, 0x62,
   0x63, 0x70, 0x71, 0x72, 0x73, 0x74, 0x80, 0x90, 0xA0, 0xB0, 0xB1, 0xC0, 0xC1]

theorem test_hyps_descriptors :
    (∀ op ∈ allOps, (stocked [desc 0 op []]).takes (desc 0 op []) ∧ Desc.opcode (desc 0 op []) = op)
    ∧ (∀ op ∈ allOps, (stocked [desc 0 op [(15, 7)]]).runs (desc 0 op [(15, 7)]) = true
      ∧ (stocked [desc 0 op [(15, 7)]]).mustWait (desc 0 op [(15, 7)]) = true)
    ∧ (stocked []).runs (desc 0 0x20 []) = false := by decide +kernel

theorem test_hyps_results : (Desc.opD (desc 0 0x20 [])).mem = false ∧ (Desc.opD (desc 0 0x20 [])).addr < localBytes
    ∧ isEwiseFn (Desc.f (desc 0 0x30 []) 13 7 0) = true
    ∧ (Desc.f (desc 0 0x31 [(13, 0x33)]) 13 7 0 = 0x33 ∧ (stocked [desc 0 0x31 [(13, 0x33)]]).takes (desc 0 0x31 [(13, 0x33)]))
    ∧ (Desc.f (desc 0 0x34 [(13, 0x26)]) 13 7 0 = 0x26 ∧ (stocked [desc 0 0x34 [(13, 0x26)]]).takes (desc 0 0x34 [(13, 0x26)])) := by
  decide +kernel

/-- The frame statement's other conditions: no codeword is marked, and an UPDATE of no masters has a layer. -/
def update0 : Desc := desc 0 0x80 []
def layer0 : Layer :=
  { segment := 0, frozen := false, trainable := true, masters := 0, first := 0, clipk := 0, rhi := 0, rlo := 0 }
def layered : State :=
  { stocked [update0] with rcp := (running { (stocked [update0]).cur with
      layers := [layer0] }).rcp }

theorem test_hyps_frames : (stocked []).mem.poison = [] ∧ (stocked []).gatherSpoilt (desc 0 0x62 []) 0 0 [] = false
    ∧ (isW fW2U = true ∧ convOk fT32 fT16 = true ∧ isQ8 fT16 = false ∧ isW fT16 = false)
    ∧ (layered.takes update0 ∧ layered.flt.shadowCfg = none ∧ layered.layerOf update0 = some layer0
      ∧ (((layered.accountExts (layered.costExts update0)).updateRun update0 layer0).run fx0).1.outs.any (·.bad) = false) := by decide +kernel

theorem test_hyps_memories (ds : List Desc) : (stocked ds).memOk ∧ ∀ n, (stocked ds).fits (Desc.opD (desc 0 0x20 [])) n :=
  have h : Mem.wf [] := by decide +kernel
  ⟨⟨h, h, h, h, fun _ h => (nomatch h), fun _ h => (nomatch h)⟩, fun _ h => (nomatch h)⟩

/-- A push of one unit of layer 0, micro-batch 2, and the pop that takes it back. -/
def push0 : Desc := desc 0 0x50 [(10, 0x01000004), (11, 1), (12, 2)]
def pop0 : Desc := desc 1 0x51 [(10, 0x01000004), (11, 1), (12, 2)]
def stash0 : State := stocked [push0, pop0]
def pushed : State := ((stash0.accountExts (stash0.costExts push0)).pushOp push0 false).finish push0.num

theorem test_hyps_push : stash0.takes push0 ∧ Desc.opcode push0 = 0x50 ∧ stash0.kindOf push0 ≠ 9
    ∧ stash0.recomputable (Desc.layer push0) = false
    ∧ (stash0.stkOf 0).top + ((stash0.accountExts (stash0.costExts push0)).pushBytes push0 false).length
        - ((stash0.stkOf 0).frames.head?.map (·.start)).getD (stash0.stkOf 0).top ≤ stash0.stkSize 0
    ∧ (stash0.stkOf 0).low ≤ (stash0.stkOf 0).top ∧ (stash0.stkOf 0).frameOf (pMb push0) = none := by decide +kernel

theorem test_hyps_pop : (Desc.opcode pop0 = 0x51 ∧ Desc.home push0 / 8 = 0 ∧ Desc.home pop0 / 8 = 0 ∧ pMb pop0 = pMb push0
      ∧ Desc.layer pop0 = Desc.layer push0 ∧ pKind pop0 = pKind push0 ∧ pSlot pop0 = pSlot push0 ∧ pUnits pop0 = pUnits push0)
    ∧ pushed.takes pop0 ∧ (Desc.opD pop0).mem = false ∧ (Desc.opD pop0).addr < localBytes := by decide +kernel

/-- A collective among four devices on VC 15, which runs here as the member given, and a packet of it. -/
def allreduce0 : Desc := desc 0 0x70 [(10, 15), (11, 1), (12, 1024)]
def coll (me : Nat) (failed : Bool) : CollS :=
  { vc := 15, desc := allreduce0, me := me, group := { vc := 15, members := [(0, 0, 1), (1, 0, 1), (17, 0, 1), (16, 0, 1)] }, crc := 0,
    partials := [], doneUnits := [], ovf := [], amax := [], failed := failed, bad := false, flaws := [] }
def collecting (me : Nat) (failed : Bool) : State :=
  { stocked [allreduce0] with coll := { running := [coll me failed], queue := [], early := [], resends := [] } }
def unitOf (phase chunk num : Nat) (beat : Word) : Packet :=
  { desc := num, phase := phase, mode := 0, legacy := false, arcB := false, src := 1, chunk := chunk, unit := 0, jobId := 1, beat := beat,
    payRes := 0, agreeCrc := 0, payload := List.replicate 1024 0 }

/-- A checker's report that another lane's return contradicts as well. -/
def flaw0 : ResidueObs := { lane := 3, elem := 0, x := 0x3F800000, y := 0x3F800000, norm := false, got := 1, pred := 2, others := [] }

theorem test_hyps_collectives : ((stocked [allreduce0]).collOn (cVc allreduce0) = none
      ∧ Tab.find (stocked [allreduce0]).rcp.groups 1 = none ∧ bindsColl allreduce0 { vc := 14, members := [] } = false ∧ (stocked [allreduce0]).stp.active = true
      ∧ (stocked [allreduce0]).afterClose = false)
    ∧ ((unitOf 1 0 0 9).beat ≠ wd (collecting 0 false).lnk.beat)
    ∧ ((unitOf 1 0 0 0).beat = wd (collecting 0 false).lnk.beat ∧ (unitOf 1 0 0 0).jobId = (collecting 0 false).cur.head.jobId
      ∧ { unitOf 1 0 0 0 with jobId := 2 }.jobId ≠ (collecting 0 false).cur.head.jobId)
    ∧ ((stocked [allreduce0]).collOn 15 = none ∧ (stocked [allreduce0]).beatColl 15 (unitOf 1 0 0 0).desc = some allreduce0
      ∧ (stocked [allreduce0]).willRun allreduce0 = true ∧ allreduce0.num ∉ (stocked [allreduce0]).stp.done) := by decide +kernel

theorem test_hyps_packets : ((collecting 0 false).collOn 15 = some (coll 0 false) ∧ (coll 0 false).desc.num = (unitOf 1 4 0 0).desc
      ∧ (collecting 0 false).malformed (coll 0 false) (unitOf 1 4 0 0) = some 5)
    ∧ ((collecting 0 false).malformed (coll 0 false) (unitOf 1 0 0 0) = none ∧ cKind allreduce0 = .allreduce
      ∧ cMode allreduce0 = 0 ∧ (Desc.opD allreduce0).fmt = fT32 ∧ (Desc.opD allreduce0).mem = false
      ∧ (unitOf 1 0 0 0).payload.length = 1024 ∧ (Desc.opD allreduce0).addr + 4 * cIndex allreduce0 4 0 0 < localBytes)
    ∧ ((collecting 3 false).malformed (coll 3 false) (unitOf 0 0 0 0) = none
      ∧ roleOf (coll 3 false).n 3 (cOwner allreduce0 0) = .hop false false)
    ∧ ((collecting 0 false).malformed (coll 0 false) (unitOf 0 0 0 0) = none ∧ cReduces allreduce0 = true
      ∧ roleOf (coll 0 false).n 0 (cOwner allreduce0 0) = .owner ∧ 0 < arcA (coll 0 false).n ∧ 0 < arcB (coll 0 false).n
      ∧ (coll 0 false).partialsOf 0 0 = [] ∧ (0, 0) ∉ (coll 0 false).doneUnits)
    ∧ (disagrees flaw0 = true ∧ (collecting 0 false).conclude 5 flaw0 = .operand ∧ (coll 0 false).flawsOf (0, 0, false) < 2
      ∧ 2 ≤ { coll 0 false with flaws := [((0, 0, false), 2)] }.flawsOf (0, 0, false)) := by decide +kernel

theorem test_hyps_coll_complete : (stocked []).collOn 15 = none ∧ (coll 0 false).complete = false
    ∧ ((collecting 0 true).collOn 15 = some (coll 0 true) ∧ (coll 0 true).complete = true ∧ cAgreed allreduce0 = false
      ∧ (collecting 0 true).coll.queue = [])
    ∧ ({ collecting 0 false with lnk := { Lnk.reset with windowOpen := true } }.lnk.windowOpen = true
      ∧ (collecting 0 false).coll.running.any (fun x => !x.failed) = true) := by decide +kernel

theorem test_hyps_stockpot_traffic : ready.stkRegion 15 = none ∧ (stocked []).stkRegion 0 = some 5 ∧ (stocked []).regionKind 5 = 1
    ∧ ((stocked []).stkOf 0).low ≤ ((stocked []).stkOf 0).top ∧ (stocked []).writebackLen 0 2048 ≤ (stocked []).stkSize 0
    ∧ ((stocked []).stkPoison 5 (wrapRuns ((stocked []).stkSize 0) 0 0) = [] ∧ { calm with storeUe := some 0 }.storeUe.isSome = true)
    ∧ (pushed.stkRegion 0 = some 5 ∧ (pushed.stkOf 0).low ≤ (pushed.stkOf 0).top) := by decide +kernel

/-- A packet's bytes hold its fields (R272). -/
theorem test_packet_layout : packetOf (packetBytes { unitOf 1 3 5 9 with payload := [7] }) = { unitOf 1 3 5 9 with payload := [7] } := by
  decide +kernel

/-! ### Witnesses: arrays, temperatures, memory, recovery, the recorder, the whole -/

/-- Core 127's bank 3 at a position of its pass; an array with a change. -/
def passing (n : Nat) : State := ready.setCore 127 { CoreS.blank with pass := [0, 0, 0, n] }
def arrayed (f : ArrayS → ArrayS) : State := ready.setArray 2047 (f (ready.array 2047))

/-- A core whose product fires. -/
def firing127 : State :=
  { stocked [desc 0 0x10 [(1, 0x7F000000)]] with lnk := { Lnk.reset with windowOpen := true } }

/-- A read of the first cell of row group 7 at position 3, k away from its level, then one that is exact. -/
def rowAt (s : State) (k : Int) : RowRead :=
  { pos := 3, group := 7, reads := [[(0, 192 * (s.trueLevels 2047 (scrubRow (s.array 2047) 128 7)).getD 0 0 + k)], []] }

/-- A step in progress whose core 127 is at a position of a pass. -/
def stepScrub : State :=
  { passing 128 with rcp := slotted.rcp, stp := slotted.stp }

theorem test_hyps_scrub : ((passing 128).mayScrub 127 = true ∧ (passing 128).scrubTurn 127 3 128 = true ∧ (passing 128).scrubTurn 127 3 9 = false
      ∧ firing127.mayScrub 127 = false)
    ∧ ((passing 129).mayScrub 127 = true ∧ (passing 129).scrubTurn 127 3 129 = true ∧ averagesFor 100 = some 40 ∧ averagesFor 256 = none
      ∧ ((passing 129).core 127).noisyCal.getLsbD 3 = false ∧ ready.isAbsent 127 = false)
    ∧ ((ready.setCore 127 { CoreS.blank with pass := [0, 0, 0, 129], noisyCal := 8 }).scrubTurn 127 3 129 = true
      ∧ ((ready.setCore 127 { CoreS.blank with pass := [0, 0, 0, 129], noisyCal := 8 }).core 127).noisyCal.getLsbD 3 = true)
    ∧ (stepScrub.mayScrub 127 = true ∧ stepScrub.scrubTurn 127 3 128 = true ∧ stepScrub.train = true ∧ stepScrub.stp.active = true
      ∧ stepScrub.stp.begun = true ∧ (passing 128).mem.poison = [] ∧ stepScrub.afterClose = false) := by decide +kernel

/-- What a read of a row finds: a cell out of its guard band, and one that reads another level. -/
def rowOut (s : State) (f : RowRead) (i : Nat) : Bool :=
  (f.reads.getD i []).any (fun p => decide (p.1 < 520) && outOfGuard 6 24 ((s.trueLevels 2047 (scrubRow (s.array 2047) 128 7)).getD p.1 0) p.2)
def rowWrong (s : State) (f : RowRead) : Bool :=
  (f.reads.getD 0 []).any (fun p => decide (p.1 < 520) && wrongLevel 6 24 ((s.trueLevels 2047 (scrubRow (s.array 2047) 128 7)).getD p.1 0) p.2)

theorem test_hyps_scrub_rows : (rowOut (passing 128) (rowAt (passing 128) 96) 0 = false)
    ∧ (rowOut (passing 128) (rowAt (passing 128) 97) 0 = true ∧ rowWrong (passing 128) (rowAt (passing 128) 97) = false
      ∧ rowOut (passing 128) (rowAt (passing 128) 97) 1 = false)
    ∧ (rowOut stepScrub (rowAt stepScrub 193) 0 = true ∧ rowWrong stepScrub (rowAt stepScrub 193) = true)
    ∧ ((passing 128).array 2047).fmt = 6
    ∧ (passing 128).sourceRow 2047 (scrubRow ((passing 128).array 2047) 128 7) = some (testPattern, [0, 0, 0, 0]) := by decide +kernel

/-- A complete checksum window, and one whose rms is beyond the margin. -/
def win0 (sq : Int) : ChkWin := { n := 65536, sum := 0, sq := sq, mean := 16, rms := 16 }

theorem test_hyps_checksum : ((arrayed id).array 2047).chkDone = []
    ∧ (((arrayed fun x => { x with chkDone := [win0 0] }).array 2047).chkDone = win0 0 :: []
      ∧ ((arrayed fun x => { x with chkDone := [win0 0] }).array 2047).baseline = none)
    ∧ ((arrayed fun x => { x with chkDone := [win0 0], baseline := some (0, 0) }).array 2047).baseline = some (0, 0)
    ∧ (win0 (256 * 262144)).fails (0, 0) = false ∧ (win0 (256 * 262144 + 1)).fails (0, 0) = true := by decide +kernel

/-- A vector captured for array 2047 whose first 128 rows fire in plane 0, and the array with all of their first cells at +3: a sum of 384,
which no conversion can give. -/
def captured0 (n : Nat) : Captured :=
  { acts := List.replicate n 1, side := [], step := 1, epoch := 0, sgn := false, rows := 128, masked := [], limit := 128, bsplit := 0,
    fields := [] }
def tasting0 (n k : Nat) : State :=
  let s := slotted.setArray 2047 { slotted.array 2047 with captured := some (captured0 n), tasteFails := k }
  { s with ana := { s.ana with cells := (List.range 128).map (fun r => (1040 * 2047 + r, [3])) } }

theorem test_hyps_tasting : ((arrayed id).array 2047).captured = none
    ∧ ((tasting0 0 0).array 2047).captured = some (captured0 0) ∧ (tasting0 0 0).mayServe 127 = true ∧ (tasting0 0 0).imageAwake 127 = true
    ∧ (tasting0 0 0).tastingTurn 2047 = true ∧ tastePasses ((tasting0 0 0).tasteErrs 2047 (captured0 0)).1 = true
    ∧ { tasting0 0 0 with cal := { Cal.reset with due := [127] } }.tastingTurn 2047 = false
    ∧ firing127.mayServe 127 = false
    ∧ ((tasting0 128 0).mayServe 127 = true ∧ (tasting0 128 0).tastingTurn 2047 = true ∧ ((tasting0 128 0).array 2047).tasteFails = 0
      ∧ (tasting0 128 0).stp.step = (captured0 128).step ∧ (tasting0 128 0).train = true ∧ (tasting0 128 0).stp.active = true
      ∧ (tasting0 128 0).stp.begun = true ∧ (tasting0 128 0).imageAwake 127 = true ∧ (tasting0 128 0).afterClose = false)
    ∧ ((tasting0 128 1).tastingTurn 2047 = true ∧ ((tasting0 128 1).array 2047).tasteFails ≠ 0
      ∧ ((tasting0 128 1).histOf uArray 2047).state = .clean) := by decide +kernel

/-- The tasting that fails, whatever the converters give. -/
theorem test_hyps_tasting_fails (k : Nat) (hk : k < 2) :
    tastePasses ((tasting0 128 k).tasteErrs 2047 (captured0 128)).1 = false := by
  have hp : ∀ k, k < 2 → (planVec ((tasting0 128 k).tasteCfg (captured0 128)) (captured0 128).acts).passes
      = [{ plane := 0, group := 0, half := 0, lane := 0, rows := List.range 128 }] := by decide +kernel
  have hc : ∀ k, k < 2 → levelSums 520 ((tasting0 128 k).cellLevels 2047) (List.range 128) = [384] := by decide +kernel
  have he : ∀ k, k < 2 → levelSums 520 ((List.range dataRows).map (fun r => (tasting0 128 k).trueLevels 2047
      (((tasting0 128 k).array 2047).physRow r))) (List.range 128) = [384] := by decide +kernel
  have hr : ∀ y : Int, tastePasses [[limit255 y - 384]] = false := by
    intro y
    have h : 4 ≤ (limit255 y - 384).natAbs := by
      unfold limit255
      omega
    unfold tastePasses
    simp only [List.all_cons, List.all_nil, Bool.and_true]
    rw [decide_eq_false (by omega : ¬ (limit255 y - 384).natAbs < 4), Bool.and_false]
  unfold State.tasteErrs
  simp only [hp k hk, List.foldl_cons, List.foldl_nil, List.nil_append]
  unfold LaneAcc.reads
  simp only [State.convArray, hc k hk, he k hk]
  exact hr _

/-- Core 127 due for calibration, with some banks done and a converter found before. -/
def conv0 (k : Int) : ConvTest := { pos := 3, group := 7, col := 519, sums := testPoints.map (fun x => max (-4080) (min 4080 (16 * x + k))) }
def due0 (done : BitVec 4) : State :=
  { ready.setCore 127 { CoreS.blank with banksDone := done } with cal := { Cal.reset with due := [127] } }
def dueAgain : State :=
  (due0 0).setCore 127 { CoreS.blank with failedOnce := [convUnit 127 (conv0 0)] }
def cal0 (rext : Nat) (conv : List ConvTest) : CalObs :=
  { rext := [200000, rext], conv := conv, temp := 40, gain := 0, figs := [{ gainErr := 0, offset := 0, detBound := 0x101, noise := 0 }] }

theorem test_hyps_calibration : (ready.calTurn 127 3 = false ∧ firing127.mayServe 127 = false)
    ∧ ((due0 0).mayServe 127 = true ∧ (due0 0).calTurn 127 0 = true ∧ ((due0 0).core 127).banksDone = 0)
    ∧ (rextBad (cal0 189999 []) = some 1 ∧ rextBad (cal0 210001 []) = some 1 ∧ rextBad (cal0 190000 []) = none ∧ rextBad (cal0 210000 []) = none)
    ∧ ((due0 0).convBad 127 (cal0 200000 [conv0 128]) = [] ∧ setBit4 ((due0 0).core 127).banksDone 0 ≠ 0xF)
    ∧ ((due0 7).calTurn 127 3 = true ∧ setBit4 ((due0 7).core 127).banksDone 3 = 0xF ∧ (due0 7).hostStill)
    ∧ ((cal0 0 []).figs[0]? = some { gainErr := 0, offset := 0, detBound := 0x101, noise := 0 }
      ∧ figOk { gainErr := 0, offset := 0, detBound := 0x101, noise := 0 } = false
      ∧ ((due0 0).array (16 * 127)).status ≠ 2)
    ∧ ((due0 0).convBad 127 (cal0 200000 [conv0 129]) = [(conv0 129, 0)] ∧ convUnit 127 (conv0 129) ∉ ((due0 0).core 127).failedOnce)
    ∧ (dueAgain.convBad 127 (cal0 200000 [conv0 129]) = [(conv0 129, 0)] ∧ dueAgain.calTurn 127 0 = true ∧ dueAgain.mayServe 127 = true
      ∧ convUnit 127 (conv0 129) ∈ (dueAgain.core 127).failedOnce
      ∧ (dueAgain.histOf uConv (convUnit 127 (conv0 129))).state = .clean) := by decide +kernel

/-- Array 2047 SHORT: with its bank's others in service, with none of them but a spare core, and with neither. -/
def short : State := arrayed fun x => { x with status := 2 }

/-- It with no spare core left on its die; and with a choice that ARRAY_SHORT told, array 2046 being in service. -/
def spareless (s : State) : State := { s with flt := { s.flt with usedPhys := [132, 133, 134, 135] } }
def planned (c : Nat × Nat) : State :=
  (short.setArray 2046 { ArrayS.blank with status := 0 }).setArray 2047 { short.array 2047 with plan := some c }

theorem test_hyps_replace : (ready.array 0).unplaced = false ∧ slotted.mayReplace = false ∧ ((short.array 2047).unplaced = true
      ∧ (short.array 2047).moved = none ∧ (short.array 2047).lost = false ∧ short.mayReplace = true)
    ∧ ((short.setArray 2046 { ArrayS.blank with status := 0 }).freeArray 2047 = some 2046
      ∧ (short.setArray 2046 { ArrayS.blank with status := 0 }).choiceNow 2047 = (1, 2046))
    ∧ (short.freeArray 2047 = none ∧ short.spareFor (2047 / 16) = true ∧ short.choiceNow 2047 = (2, 0))
    ∧ ((spareless short).freeArray 2047 = none ∧ (spareless short).spareFor (2047 / 16) = false ∧ (spareless short).choiceNow 2047 = (3, 0))
    ∧ (((planned (1, 2046)).array 2047).plan = some (1, 2046) ∧ (planned (1, 2046)).canTake 2047 2046 = true)
    ∧ (((planned (2, 0)).array 2047).plan = some (2, 0) ∧ (spareless (planned (2, 0))).spareFor (2047 / 16) = false
      ∧ (planned (2, 0)).spareFor (2047 / 16) = true)
    ∧ ({ short with rcp := (running (recipe0 false)).rcp }.mayReplace = true
      ∧ { short with rcp := (running (recipe0 false)).rcp }.rcp.state = .running) := by decide +kernel

theorem test_hyps_temperatures : (dieLevel 2 1000 = 3 ∧ dieLevel 3 1080 = 4 ∧ ready.pwr.pwrgood = true ∧ ready.pwr.sticky.getLsbD 0 = false ∧ [25][0 / 8]? = some 25)
    ∧ (ready.hif.state ≠ .boot ∧ ready.isAbsent 0 = false ∧ ready.cal.trig < ((25 : Int) - (ready.core 0).tempCal).natAbs)
    ∧ ((650 : Int) ≤ 650 ∧ ready.pwr.outlet < 650) ∧ (23 < 24 ∧ (Tab.get ready.mem.temps 23 (0, 0)).1 < 4 ∧ (1020 : Int) ≤ 1020)
    ∧ (∀ e ∈ ready.mem.temps, e.2.2 < 950)
    ∧ (∃ e ∈ (readyMem fun m => { m with temps := [(0, (2, 950))] }).mem.temps, 950 ≤ e.2.2) := by decide +kernel

/-- A MASTERS region, and a replica group that reads it. -/
def replica0 : State :=
  { running { recipe0 false with descs := [desc 0 0xB1 [(11, 1)]] } with
    mem := { MemSys.reset with regions := [(0, { region0 with kind := 3 })] }
    stp := { Stp.reset with active := true, begun := true, step := 1 } }
def replica1 (members : List (Nat × Nat × Nat)) : State :=
  { replica0 with rcp := { replica0.rcp with groups := [(1, { vc := 4, members := members })] }, lnk := { Lnk.reset with dead := [2] } }

/-- A marked word in its first frame. -/
def marked0 : State := { replica1 [(0, 0, 1), (1, 0, 1), (2, 0, 1)] with mem := { replica0.mem with poison := [(0, 1)] } }

theorem test_hyps_patrol : (ready.region 63 = none ∧ (replica0.region 0).isSome = true ∧ replica0.framePoison 0 0 = []
      ∧ replica0.passStarts 0 0 = true ∧ replica0.passStarts 0 1 = false ∧ replica0.mayPatrol 0 1 = true
      ∧ (withRegion.region 62).isSome = true ∧ withRegion.framePoison 62 0 = [] ∧ withRegion.mayPatrol 62 0 = true
      ∧ replica0.mayPatrol 0 0 = true ∧ replica0.mayPatrol 0 (2 ^ 30) = false)
    ∧ (pairKind (ready.regionKind 63) = false ∧ replica0.repairer = none)
    ∧ (pairKind ((replica1 [(1, 0, 1)]).regionKind 0) = true ∧ (replica1 [(1, 0, 1)]).repairer = some 1 ∧ (replica1 []).poisonIn 0 0 2048 = [])
    ∧ ((marked0.committedHalf 0 0 * marked0.bankBytes 0 + 2048 * 0 = 0) ∧ marked0.poisonIn 0 0 2048 ≠ [] ∧ marked0.repairer = some 1
      ∧ pairKind (marked0.regionKind 0) = true ∧ marked0.stp.active = true ∧ marked0.afterClose = false)
    ∧ (testing.hif.state = .test
      ∧ ({ testing with mem := { testing.mem with tg := [(23, { TrafficGen.blank with go := true })] } }.tgen 23).go = true) := by
  decide +kernel

/-- Core 127 under suspicion, and to be moved. -/
def suspected : State := readyFlt fun f => { f with localising := true, suspects := [127] }
def moving0 : State := readyFlt fun f => { f with moving := [127] }
def loc0 (wrong : List WrongOut) : LocObs :=
  { suspect := wrong, test := [], dga := none, copy := none }

/-- The update of the suspect that failed; the majority's digests that agree with the exact one, and that do not. -/
def run0 : LocRun := { core := 127, desc := update0, first := 0, x := 0, operands := [[0, 0, 0, 0, 0]], exact := [[0, 0]], row := [] }
def located (d : DWord) : State :=
  { suspected with flt := { suspected.flt with locRuns := [run0], locRef := List.replicate 128 d } }

theorem test_hyps_localise : ready.flt.localising = false ∧ suspected.mayLocalise = true
    ∧ { slotted with lnk := { slotted.lnk with windowOpen := true } }.mayLocalise = false ∧ (suspected.flt.localising = true ∧ suspected.flt.suspects.head? = some 127)
    ∧ suspected.testCore 127 = some 132
    ∧ { suspected with flt := { suspected.flt with usedPhys := [64, 65, 66, 67, 132, 133, 134, 135] },
                       rcp := (running { recipe0 false with head := { head0 false with coreMask := BitVec.allOnes 128 } }).rcp }.testCore
        127 = none := by
  decide +kernel

theorem test_hyps_localised : (located 0).mayLocalise = true ∧ (located 0).flt.localising = true ∧ (located 0).flt.suspects.head? = some 127
    ∧ ((located 0).flt.locRuns.filter (fun r => r.core == 127) = [run0] ∧ locDigest [run0] (loc0 []).test = ((located 0).flt.locRef.getD 127 0).toNat)
    ∧ locDigest [run0] (loc0 []).test ≠ ((located 1).flt.locRef.getD 127 0).toNat
    ∧ (locDiff [run0] (loc0 [{ desc := 0, elem := 0, out := [1, 0] }]) = some (run0, 0) ∧ (loc0 []).copy = none)
    ∧ locDiff [run0] (loc0 []) = none := by decide +kernel

theorem test_hyps_spares : 127 ∉ ready.flt.moving ∧ (127 ∈ moving0.flt.moving ∧ moving0.stp.active = false ∧ moving0.hostStill)
    ∧ (moving0.moveTargets 127).find? (fun p => !([132] : List Nat).contains p) = some 133
    ∧ (moving0.moveTargets 127).find? (fun p => !([132, 133, 134, 135] : List Nat).contains p) = none := by decide +kernel

/-- A shadow held for device 3. -/
def shadowMsg (size : Nat) : ShadowMsg :=
  { dev := 3, n := 4, size := size, step := 8, epoch := 8, full := true, hi := [1], comp := [], mom := [], est := [], err := [], grad := [],
    digest := 0, base := 0 }
def shadowOf3 : Shadow := { Shadow.fresh (shadowMsg 1) with valid := true }
def holder : State := { stepped (message true [] []) with flt := { Flt.reset with shadow := some shadowOf3 } }

/-- The leader has chosen drop-out for device 2. -/
def dropping (s : State) : State := { s with flt := { s.flt with recov := [(2, .dropOut)] } }

theorem test_hyps_lost : (2 ∈ (replica1 []).lnk.dead ∧ 0 ∉ ready.lnk.dead ∧ 0 = ready.device ∧ ready.hostStill)
    ∧ (3 ∉ holder.lnk.dead ∧ 3 ≠ holder.device ∧ holder.lnk.master ≠ holder.device ∧ holder.stp.active = true ∧ holder.stp.begun = true
      ∧ holder.holdsShadow 3 = true ∧ holder.mayRenew = false)
    ∧ (mastering.mayRenew = true ∧ 3 ≠ mastering.device ∧ mastering.lnk.master = mastering.device ∧ 3 ∉ mastering.lnk.dead)
    ∧ (Tab.find (replica1 []).flt.recov 2 = none)
    ∧ (3 ∉ (replica1 [(0, 0, 1), (3, 0, 1)]).lnk.dead ∧ (replica1 [(0, 0, 1), (3, 0, 1)]).dropsOut 3 = true ∧ holder.dropsOut 3 = false)
    ∧ (Tab.find (dropping (replica1 [(0, 0, 1), (2, 0, 1)])).flt.recov 2 = some .dropOut
      ∧ 0 ∉ [3].foldl addOnce ((dropping (replica1 [(0, 0, 1), (2, 0, 1)])).replicaOf 2 [2])
      ∧ (dropping (replica1 [(0, 0, 1), (2, 0, 1)])).device = 0)
    ∧ holder.flt.shadow = some shadowOf3 ∧ shadowOf3.dev = 3
    ∧ ready.shadowFits (shadowMsg 1) = false := by decide +kernel

/-- No table of the master's names a device. -/
theorem test_hyps_lost_table (g : Nat) : 3 ∉ (mastering.tableOf g).dead := by
  rw [show (mastering.tableOf g).dead = [] from rfl]
  exact List.not_mem_nil

/-- A device with a SHADOW region. -/
def sheltering (x : Option Shadow) : State :=
  { readyMem fun m => { m with regions := [(0, { region0 with kind := 0xB })] } with flt := { Flt.reset with shadow := x } }

theorem test_hyps_shadow : ((sheltering none).shadowFits (shadowMsg 1) = true ∧ (sheltering none).flt.shadow = none)
    ∧ ((sheltering (some shadowOf3)).flt.shadow = some shadowOf3 ∧ shadowOf3.dev = (shadowMsg 1).dev ∧ shadowOf3.size = (shadowMsg 1).size)
    ∧ (shadowOf3.size ≠ (shadowMsg 2).size ∧ (sheltering (some shadowOf3)).shadowFits (shadowMsg 2) = true)
    ∧ shadowOf3.dev ≠ { shadowMsg 1 with dev := 4 }.dev ∧ (sheltering none).ownRegion 0xB = some 0 := by decide +kernel

/-- A parallel group that holds this device and the lost one, beside a replica group. -/
def parallel : State :=
  { replica1 [(1, 0, 1), (2, 0, 1)] with
    rcp := { replica0.rcp with groups := [(1, { vc := 4, members := [(1, 0, 1), (2, 0, 1)] }), (2, { vc := 5, members := [(0, 0, 1), (2, 0, 1)] })] }
    stp := Stp.reset }

theorem test_hyps_dropped_with_it : Tab.find (dropping parallel).flt.recov 2 = some .dropOut ∧ parallel.device ∈ [3].foldl addOnce (parallel.replicaOf 3 [2])
    ∧ parallel.stp.active = false ∧ parallel.runningRecipe.isSome = true := by decide +kernel

/-- Records queued: an INFO one, and an ALARM one with a full page ahead of it. -/
def record (prio : Nat) : Record :=
  { seq := 0, code := 0x3001, prio := prio, storm := false, relay := false, device := 0, hours := 0, srcSeq := 0, pcycle := 0, beat := 0,
    payload := [] }
def queued (prio : Nat) : State := readyEvt fun e => { e with queue := [record prio] }

theorem test_hyps_recorder : ready.evt.queue = [] ∧ railsOff.pwr.pwrgood = false
    ∧ ((queued 3).evt.queue = [record 3] ∧ (queued 3).pwr.pwrgood = true ∧ (queued 3).evt.firstFull = false
      ∧ (queued 3).evt.first.length < 4095 ∧ (record 3).prio ≠ 0 ∧ (queued 3).evt.aonBuf = [] ∧ ready.hostStill ∧ (queued 3).evt.page.length < 63)
    ∧ ((record 0).prio = 0 ∧ (readyEvt fun e => { e with firstFull := true }).evt.firstFull = true)
    ∧ (readyEvt fun e => { e with page := [record 3] }).evt.page = [] ++ [record 3] := by decide +kernel

theorem test_hyps_step : { ready with pending := [.pageFlush true] }.pending = .pageFlush true :: [] ∧ ready.pending = [] := by decide +kernel

/-- A step that answers a next state, for the statements about every step. -/
theorem test_hyps_every_step : step { ready with pending := [.operatingHourTick] }
      = .next { ready with evt := { ready.evt with hours := 256, savedHours := 256 } }
    ∧ ready.memOk ∧ ready.evt.savedHours = ready.evt.hours ∧ (readySec fun x => { x with debug := 2 }).sec.debug = 2 :=
  ⟨rfl, ⟨by decide +kernel, by decide +kernel, by decide +kernel, by decide +kernel, (fun e he => by cases he), fun v hv => by cases hv⟩,
   rfl, rfl⟩

end Sys2Proof.Tests
end

section
/-! The register file (R11 to R14, R337, R338): which offsets are counters and 64-bit registers, and what one read or write by a master
does. -/

namespace Sys2Proof.Machine

/-! ### Offsets -/

theorem slotAt_iff (off base stride n : Nat) :
    slotAt off base stride n = true ↔ base ≤ off ∧ off < base + stride * n ∧ (off - base) % stride = 0 := by
  simp [slotAt, and_assoc]

/-- Where the low words of the 64-bit registers stand. -/
theorem lowWordAt_iff (off : Nat) :
    lowWordAt off = true ↔ off = 0x10 ∨ off = 0x20 ∨ off = 0x498
      ∨ (0x2200 ≤ off ∧ off < 0x2400 ∧ off % 8 = 0) ∨ off = 0x3048 ∨ off = 0x5060 := by
  simp only [lowWordAt, Bool.or_eq_true, beq_iff_eq, slotAt_iff]
  omega

theorem wideAt_iff (m : Master) (off : Nat) : wideAt m off = true ↔ lowWordAt off = true ∧ (m = .mgmt → 0x400 ≤ off) := by
  cases m <;> simp [wideAt]

/-- A counter is a word of a shared block. -/
theorem counterAt_place (off : Nat) (h : counterAt off = true) :
    off % 4 = 0 ∧ 0x400 ≤ off ∧ listed off = true ∧ isMsix off = false ∧ lowWordAt off = false ∧ lowWordAt (off - 4) = false := by
  simp only [counterAt, Bool.or_eq_true, slotAt_iff] at h
  refine ⟨by omega, by omega, ?_, ?_, ?_, ?_⟩
  · simp only [listed, blocks, List.any_cons, List.any_nil, Bool.or_eq_true, Bool.and_eq_true, decide_eq_true_eq]
    omega
  · simp only [isMsix, decide_eq_false_iff_not]
    omega
  · rw [Bool.eq_false_iff, ne_eq, lowWordAt_iff]
    omega
  · rw [Bool.eq_false_iff, ne_eq, lowWordAt_iff]
    omega

/-- A 64-bit register's words are aligned, and its high word is the low word of none. -/
theorem wideAt_words {m : Master} {off : Nat} (h : wideAt m off = true) : off % 4 = 0 ∧ wideAt m (off + 4) = false := by
  rw [Bool.eq_false_iff, ne_eq]
  simp only [wideAt_iff, lowWordAt_iff] at h ⊢
  omega

/-- The management port's 64-bit registers stand in the shared blocks, both words. -/
theorem wideAt_mgmt_place {off x : Nat} (h : wideAt .mgmt off = true) (hx : x = off ∨ x = off + 4) :
    x % 4 = 0 ∧ 0x400 ≤ x ∧ listed x = true ∧ isMsix x = false := by
  simp only [wideAt_iff, lowWordAt_iff, forall_const] at h
  refine ⟨by omega, by omega, ?_, ?_⟩
  · simp only [listed, blocks, List.any_cons, List.any_nil, Bool.or_eq_true, Bool.and_eq_true, decide_eq_true_eq]
    omega
  · simp only [isMsix, decide_eq_false_iff_not]
    omega

theorem wideAt_of_lowWordAt {m : Master} {off : Nat} (h : lowWordAt off = false) : wideAt m off = false := by
  simp [wideAt, h]

/-- A counter that the host reads is no half of a 64-bit register. -/
theorem hostCounter_place {off : Nat} (h : (counterAt off || off == cBadAcc) = true) :
    off % 4 = 0 ∧ lowWordAt off = false ∧ lowWordAt (off - 4) = false := by
  rcases Bool.or_eq_true_iff.mp h with h | h
  · obtain ⟨hw, -, -, -, hl, hh⟩ := counterAt_place off h
    exact ⟨hw, hl, hh⟩
  · rw [beq_iff_eq.mp h]
    decide

/-! ### The value of a register -/

theorem State.regVal_counter (s : State) (m : Master) {off : Nat} (h : counterAt off = true) : s.regVal m off = s.ctrGet off := by
  have hp := (counterAt_place off h).2.1
  simp [State.regVal, State.sharedReg, h, Nat.not_lt.mpr hp]

theorem State.regVal_hostCounter (s : State) {off : Nat} (h : (counterAt off || off == cBadAcc) = true) :
    s.regVal .host off = s.ctrGet off := by
  rcases Bool.or_eq_true_iff.mp h with h | h
  · exact s.regVal_counter .host h
  · rw [beq_iff_eq.mp h]
    rfl

/-! ### Latches (R14) -/

theorem State.setLatches_host (s : State) (l : Tab Word) :
    s.setLatches .host l = { s with hif := { s.hif with hostLatch := l } } := rfl

theorem State.setLatches_mgmt (s : State) (l : Tab Word) :
    s.setLatches .mgmt l = { s with hif := { s.hif with mgmtLatch := l } } := rfl

@[simp] theorem State.setLatches_latches (s : State) (m : Master) : s.setLatches m (s.latches m) = s := by
  cases m <;> rfl

/-- A low word read latches its high word. -/
theorem State.readReg_low (s : State) {m : Master} {off : Nat} (h : wideAt m off = true) :
    s.readReg m off = (s.regVal m off, s.setLatches m (Tab.put (s.latches m) off (s.regVal m (off + 4)))) := by
  simp [State.readReg, h]

/-- A high word read takes what was latched. -/
theorem State.readReg_latched (s : State) {m : Master} {off : Nat} {v : Word} (h : wideAt m off = true)
    (hv : Tab.find (s.latches m) off = some v) :
    s.readReg m (off + 4) = (v, s.setLatches m (Tab.del (s.latches m) off)) := by
  simp [State.readReg, (wideAt_words h).2, h, hv]

/-- A high word read without a latched value is the current one. -/
theorem State.readReg_current (s : State) {m : Master} {off : Nat} (h : wideAt m off = true)
    (hv : Tab.find (s.latches m) off = none) : s.readReg m (off + 4) = (s.regVal m (off + 4), s) := by
  simp [State.readReg, (wideAt_words h).2, h, hv]

/-- What a word that is no high word reads as. -/
theorem State.readReg_value (s : State) {m : Master} {off : Nat} (h : wideAt m (off - 4) = false) :
    (s.readReg m off).1 = s.regVal m off := by
  unfold State.readReg
  split
  · rfl
  · simp [h]

/-- A word of no 64-bit register is read as it stands. -/
theorem State.readReg_plain (s : State) {m : Master} {off : Nat} (h : wideAt m off = false) (hh : wideAt m (off - 4) = false) :
    s.readReg m off = (s.regVal m off, s) := by
  simp [State.readReg, h, hh]

/-- A read changes at most the latches of its master. -/
theorem State.readReg_state (s : State) (m : Master) (off : Nat) : ∃ l, (s.readReg m off).2 = s.setLatches m l := by
  have hs : ∃ l, s = s.setLatches m l := ⟨s.latches m, (s.setLatches_latches m).symm⟩
  unfold State.readReg
  split
  · exact ⟨_, rfl⟩
  · split
    · split
      · exact ⟨_, rfl⟩
      · exact hs
    · exact hs

/-! ### What the commands run -/

theorem exec_lowWordRead (m : Master) (off : Nat) (s : State) : exec (.lowWordRead m off) s = .next (s.readBy m off) := rfl
theorem exec_highWordRead (m : Master) (off : Nat) (s : State) : exec (.highWordRead m off) s = .next (s.readBy m off) := rfl
theorem exec_rcCounterRead (off add : Nat) (s : State) : exec (.rcCounterRead off add) s = .next (s.hostReadAt off add) := rfl
theorem exec_regRead (off : Nat) (s : State) : exec (.regRead off) s = .next (s.mgmtRead off) := rfl
theorem exec_regWrite (off : Nat) (v : Word) (s : State) : exec (.regWrite off v) s = .next (s.mgmtWrite off v) := rfl
theorem exec_badAccess (m : Master) (write : Bool) (off size : Nat) (s : State) :
    exec (.badAccess m write off size) s = .next (s.badAccess m write off size) := rfl

/-! ### Reads by the host -/

theorem State.hostReadAt_word (s : State) {off : Nat} (add : Nat) (hu : s.hostUp = true) (hw : off % 4 = 0) :
    s.hostReadAt off add = s.hostRead off add := by
  simp [State.hostReadAt, hu, hw]

@[simp] theorem State.hostRead_hif (s : State) (off add : Nat) :
    (s.hostRead off add).hif = { (s.readReg .host off).2.hif with readData := [(s.readReg .host off).1], poisoned := false } := by
  unfold State.hostRead
  dsimp only
  split <;> rfl

/-- A counter read by the host is cleared, and keeps what is added meanwhile. -/
theorem State.hostRead_counter (s : State) {off : Nat} (add : Nat) (h : (counterAt off || off == cBadAcc) = true) :
    s.hostRead off add = { s.hostData [s.ctrGet off] with ctr := Tab.put s.ctr off (satAdd 0 add) } := by
  obtain ⟨-, hl, hh⟩ := hostCounter_place h
  simp only [State.hostRead, s.readReg_plain (wideAt_of_lowWordAt hl) (wideAt_of_lowWordAt hh), s.regVal_hostCounter h, h, if_true]
  rfl

theorem satAdd_zero_left (n : Nat) : satAdd 0 n = BitVec.ofNat 32 (min 0xFFFFFFFF n) := by
  simp [satAdd]

/-- A counter set, and every other as it was. -/
theorem State.ctrGet_put {s t : State} {off : Nat} {v : Word} (h : t.ctr = Tab.put s.ctr off v) :
    t.ctrGet off = v ∧ ∀ o, o ≠ off → t.ctrGet o = s.ctrGet o := by
  unfold State.ctrGet
  rw [h]
  exact ⟨Tab.get_put_same _ _ _ _, fun o ho => Tab.get_put_other _ _ _ _ _ ho⟩

/-! ### Reads by the management port -/

/-- A register that the port serves: the value with status 0; besides the latches and the answer, the SBM_ counters alone change. -/
theorem State.mgmtRead_served (s : State) {off : Nat} (ha : s.pwr.aon = true) (hs : s.pwr.pwrgood = true ∨ aonReg off = true)
    (hw : off % 4 = 0) (hl : listed off = true) (hx : isMsix off = false) :
    ∃ c, s.mgmtRead off = { (s.readReg .mgmt off).2.rsp 0 [(s.readReg .mgmt off).1] with ctr := c }
      ∧ (off ≠ 0x00C → off ≠ 0x010 → c = s.ctr) := by
  have hb : (!s.pwr.pwrgood && !aonReg off) = false := by
    rcases hs with h | h <;> simp [h]
  obtain ⟨l, hr⟩ := s.readReg_state .mgmt off
  have hc : ((s.readReg .mgmt off).2.rsp 0 [(s.readReg .mgmt off).1]).ctr = s.ctr := by
    rw [hr]
    rfl
  simp only [State.mgmtRead, ha, hb, hw, hl, hx, Bool.not_true, Bool.false_eq_true, if_false, ne_eq, not_true_eq_false]
  split
  · exact ⟨_, rfl, fun h => absurd ‹_› h⟩
  · split
    · exact ⟨_, rfl, fun _ h => absurd ‹_› h⟩
    · exact ⟨s.ctr, by rw [← hc], fun _ _ => rfl⟩

/-- With the main rails off the port is busy but for PWR_STICKY and EVT_ALARM. -/
theorem State.mgmtRead_busy (s : State) {off : Nat} (ha : s.pwr.aon = true) (hp : s.pwr.pwrgood = false) (hn : aonReg off = false) :
    s.mgmtRead off = s.rsp 3 [] := by
  simp [State.mgmtRead, ha, hp, hn]

theorem aonReg_iff (off : Nat) : aonReg off = true ↔ off = 0x4004 ∨ off = 0x5000 := by
  simp [aonReg]

end Sys2Proof.Machine
end

section
/-! R13 and R14: 64-bit registers read by two masters, and accesses of another size or alignment. -/

namespace Sys2Proof.Machine

/-- The host's part of R14. -/
theorem State.host_reads_wide (s : State) {off : Nat} (hu : s.hostUp = true) (h : wideAt .host off = true) :
    (∃ t, exec (.lowWordRead .host off) s = .next t ∧ t.hif.readData = [s.regVal .host off]
        ∧ Tab.find t.hif.hostLatch off = some (s.regVal .host (off + 4)) ∧ t.hif.mgmtLatch = s.hif.mgmtLatch)
      ∧ (∀ v, Tab.find s.hif.hostLatch off = some v → ∃ t, exec (.highWordRead .host (off + 4)) s = .next t
        ∧ t.hif.readData = [v] ∧ Tab.find t.hif.hostLatch off = none ∧ t.hif.mgmtLatch = s.hif.mgmtLatch)
      ∧ (Tab.find s.hif.hostLatch off = none → ∃ t, exec (.highWordRead .host (off + 4)) s = .next t
        ∧ t.hif.readData = [s.regVal .host (off + 4)] ∧ t.hif.hostLatch = s.hif.hostLatch ∧ t.hif.mgmtLatch = s.hif.mgmtLatch) := by
  have hw := (wideAt_words h).1
  have low : exec (.lowWordRead .host off) s = .next (s.hostRead off 0) := by
    rw [exec_lowWordRead, State.readBy, s.hostReadAt_word 0 hu hw]
  have high : exec (.highWordRead .host (off + 4)) s = .next (s.hostRead (off + 4) 0) := by
    rw [exec_highWordRead, State.readBy, s.hostReadAt_word 0 hu (by omega)]
  refine ⟨⟨_, low, ?_⟩, fun v hv => ⟨_, high, ?_⟩, fun hv => ⟨_, high, ?_⟩⟩
  · simp [s.readReg_low h, State.setLatches_host, State.latches]
  · simp [s.readReg_latched (v := v) h hv, State.setLatches_host, State.latches, Tab.find_del]
  · simp [s.readReg_current h hv]

/-- The management port's part of R14. -/
theorem State.mgmt_reads_wide (s : State) {off : Nat} (ha : s.pwr.aon = true) (hp : s.pwr.pwrgood = true) (h : wideAt .mgmt off = true) :
    (∃ t, exec (.lowWordRead .mgmt off) s = .next t ∧ t.sbm.rspData = [s.regVal .mgmt off]
        ∧ Tab.find t.hif.mgmtLatch off = some (s.regVal .mgmt (off + 4)) ∧ t.hif.hostLatch = s.hif.hostLatch)
      ∧ (∀ v, Tab.find s.hif.mgmtLatch off = some v → ∃ t, exec (.highWordRead .mgmt (off + 4)) s = .next t
        ∧ t.sbm.rspData = [v] ∧ Tab.find t.hif.mgmtLatch off = none ∧ t.hif.hostLatch = s.hif.hostLatch)
      ∧ (Tab.find s.hif.mgmtLatch off = none → ∃ t, exec (.highWordRead .mgmt (off + 4)) s = .next t
        ∧ t.sbm.rspData = [s.regVal .mgmt (off + 4)] ∧ t.hif.mgmtLatch = s.hif.mgmtLatch ∧ t.hif.hostLatch = s.hif.hostLatch) := by
  have read (x : Nat) (hx : x = off ∨ x = off + 4) :
      ∃ c, s.mgmtRead x = { (s.readReg .mgmt x).2.rsp 0 [(s.readReg .mgmt x).1] with ctr := c } := by
    obtain ⟨hw, -, hl, hm⟩ := wideAt_mgmt_place h hx
    obtain ⟨c, hc, -⟩ := s.mgmtRead_served ha (Or.inl hp) hw hl hm
    exact ⟨c, hc⟩
  obtain ⟨c, low⟩ := read off (Or.inl rfl)
  obtain ⟨d, high⟩ := read (off + 4) (Or.inr rfl)
  simp only [exec_lowWordRead, exec_highWordRead, State.readBy, low, high]
  refine ⟨⟨_, rfl, ?_⟩, fun v hv => ⟨_, rfl, ?_⟩, fun hv => ⟨_, rfl, ?_⟩⟩
  · simp [s.readReg_low h, State.setLatches_mgmt, State.latches, State.rsp]
  · simp [s.readReg_latched (v := v) h hv, State.setLatches_mgmt, State.latches, State.rsp, Tab.find_del]
  · simp [s.readReg_current h hv, State.rsp]

/-- Settles O17: each master's low-word read latches in its own latches, from which its next high-word read takes the value. -/
theorem wideRegistersReadWhole : Obligations.WideRegistersReadWhole := by
  unfold Obligations.WideRegistersReadWhole
  exact fun s off => ⟨fun hu h => s.host_reads_wide hu h, fun ha hp h => s.mgmt_reads_wide ha hp h⟩

/-! ### Accesses that no register serves (R13, R337, R435) -/

theorem odd_of {off size : Nat} (h : size ≠ 4 ∨ off % 4 ≠ 0) : (size != 4 || off % 4 != 0) = true := by
  simpa using h

/-- One event counted: its counter by one more, every other as it was, and nothing else changed. -/
theorem State.counts_one (s : State) (off : Nat) :
    (s.count off 1).ctrGet off = satAdd (s.ctrGet off) 1 ∧ (∀ o, o ≠ off → (s.count off 1).ctrGet o = s.ctrGet o)
      ∧ s.count off 1 = { s with ctr := (s.count off 1).ctr } := by
  refine ⟨by simp [State.ctrGet_count], fun o ho => by simp [State.ctrGet_count, ho], rfl⟩

theorem State.badAccess_host_odd (s : State) (write : Bool) {off size : Nat} (hu : s.hostUp = true) (h : size ≠ 4 ∨ off % 4 ≠ 0) :
    s.badAccess .host write off size = if write then s.count cBadAcc 1 else (s.count cBadAcc 1).hostData [0xFFFFFFFF] := by
  unfold State.badAccess
  simp only [hu, odd_of h, Bool.not_true, Bool.false_eq_true, if_false, if_true]

theorem State.badAccess_mgmt_odd (s : State) (write : Bool) {off size : Nat} (ha : s.pwr.aon = true) (hp : s.pwr.pwrgood = true)
    (h : size ≠ 4 ∨ off % 4 ≠ 0) :
    s.badAccess .mgmt write off size = (s.count cSbmBadAcc 1).rsp 1 (if write then [] else [0xFFFFFFFF]) := by
  unfold State.badAccess
  simp only [ha, hp, odd_of h, Bool.not_true, Bool.false_and, Bool.false_eq_true, if_false, if_true]
  rfl

theorem State.badAccess_mgmt_busy (s : State) (write : Bool) {off : Nat} (size : Nat) (ha : s.pwr.aon = true) (hp : s.pwr.pwrgood = false)
    (hn : aonReg off = false) : s.badAccess .mgmt write off size = s.rsp 3 [] := by
  unfold State.badAccess
  simp [ha, hp, hn]

theorem State.badAccess_host_unlisted (s : State) (write : Bool) {off : Nat} (hu : s.hostUp = true) (hw : off % 4 = 0)
    (hl : listed off = false) : s.badAccess .host write off 4 = if write then s.count cBadAcc 1 else s.hostData [0] := by
  unfold State.badAccess
  simp [hu, hw, hl]

/-- Settles O18: the refused access is counted for its master, and its read answers ones. -/
theorem oddAccessesAreRefusedAndCounted : Obligations.OddAccessesAreRefusedAndCounted := by
  unfold Obligations.OddAccessesAreRefusedAndCounted
  intro s off size h
  refine ⟨fun hu => ?_, fun ha hp write => ?_⟩
  · obtain ⟨hc, ho, hs⟩ := s.counts_one cBadAcc
    simp only [exec_badAccess, s.badAccess_host_odd _ hu h]
    exact ⟨⟨_, rfl, rfl, hc, ho, congrArg (State.hostData · _) hs⟩, ⟨_, rfl, hc, ho, hs⟩⟩
  · obtain ⟨hc, ho, hs⟩ := s.counts_one cSbmBadAcc
    simp only [exec_badAccess, s.badAccess_mgmt_odd write ha hp h]
    exact ⟨_, rfl, rfl, hc, ho, congrArg (State.rsp · _ _) hs⟩

end Sys2Proof.Machine
end

section
/-! What a read answers, port by port (R11, R337, R338, R412, R413, R435). -/

namespace Sys2Proof.Machine

/-- A counter read by the host with nothing added meanwhile. -/
theorem State.host_clears_counter (s : State) {off : Nat} (hu : s.hostUp = true) (h : (counterAt off || off == cBadAcc) = true) :
    ∃ t, exec (.rcCounterRead off 0) s = .next t
      ∧ t.hif.readData = [s.ctrGet off] ∧ t.hif.poisoned = false ∧ t.ctrGet off = 0 ∧ (∀ o, o ≠ off → t.ctrGet o = s.ctrGet o)
      ∧ t = { s with ctr := t.ctr, hif := { s.hif with readData := t.hif.readData, poisoned := t.hif.poisoned } } := by
  rw [exec_rcCounterRead, s.hostReadAt_word 0 hu (hostCounter_place h).1, s.hostRead_counter 0 h, satAdd_zero]
  obtain ⟨hc, ho⟩ := State.ctrGet_put (s := s) (t := { s.hostData [s.ctrGet off] with ctr := Tab.put s.ctr off 0 }) rfl
  exact ⟨_, rfl, rfl, rfl, hc, ho, rfl⟩

/-- A counter that the host shares is answered to the management port and kept. -/
theorem State.mgmt_keeps_counter (s : State) {off : Nat} (ha : s.pwr.aon = true) (hp : s.pwr.pwrgood = true) (h : counterAt off = true) :
    exec (.regRead off) s = .next { s with sbm := { s.sbm with rspStatus := 0, rspData := [s.ctrGet off], rspBytes := [] } } := by
  obtain ⟨hw, hb, hl, hx, hlow, hhigh⟩ := counterAt_place off h
  obtain ⟨c, hc, hk⟩ := s.mgmtRead_served ha (Or.inl hp) hw hl hx
  rw [exec_regRead, hc, hk (by omega) (by omega), s.readReg_plain (wideAt_of_lowWordAt hlow) (wideAt_of_lowWordAt hhigh),
    s.regVal_counter .mgmt h]
  rfl

/-- A listed register read by the management port with the main rails on. -/
theorem State.mgmt_reads_register (s : State) {off : Nat} (ha : s.pwr.aon = true) (hp : s.pwr.pwrgood = true) (hw : off % 4 = 0)
    (hl : listed off = true) (hx : isMsix off = false) : ∃ t, exec (.regRead off) s = .next t
      ∧ t.sbm.rspStatus = 0 ∧ (wideAt .mgmt (off - 4) = false → t.sbm.rspData = [s.regVal .mgmt off])
      ∧ t.hif.hostLatch = s.hif.hostLatch ∧ (off ≠ 0x00C → off ≠ 0x010 → t.ctr = s.ctr)
      ∧ t = { s with ctr := t.ctr, hif := { s.hif with mgmtLatch := t.hif.mgmtLatch }, sbm := t.sbm } := by
  obtain ⟨c, hc, hk⟩ := s.mgmtRead_served ha (Or.inl hp) hw hl hx
  obtain ⟨l, hr⟩ := s.readReg_state .mgmt off
  have hv := s.readReg_value (m := .mgmt) (off := off)
  rw [exec_regRead, hc, hr, State.setLatches_mgmt]
  exact ⟨_, rfl, rfl, fun h => congrArg ([·]) (hv h), rfl, hk, rfl⟩

/-- The port's own counters are cleared by its reads. -/
theorem State.mgmt_clears_sbm (s : State) (ha : s.pwr.aon = true) (hp : s.pwr.pwrgood = true) :
    ∀ x ∈ [(0x00C, cSbmDrop), (0x010, cSbmBadAcc)], ∃ t, exec (.regRead x.1) s = .next t
      ∧ t.sbm.rspStatus = 0 ∧ t.sbm.rspData = [s.ctrGet x.2] ∧ t.ctrGet x.2 = 0 ∧ (∀ o, o ≠ x.2 → t.ctrGet o = s.ctrGet o) := by
  have cleared (off c : Nat) (h : s.mgmtRead off = { s.rsp 0 [s.ctrGet c] with ctr := Tab.put s.ctr c 0 }) :
      ∃ t, exec (.regRead off) s = .next t ∧ t.sbm.rspStatus = 0 ∧ t.sbm.rspData = [s.ctrGet c] ∧ t.ctrGet c = 0
        ∧ (∀ o, o ≠ c → t.ctrGet o = s.ctrGet o) := by
    obtain ⟨hc, ho⟩ := State.ctrGet_put (s := s) (t := { s.rsp 0 [s.ctrGet c] with ctr := Tab.put s.ctr c 0 }) rfl
    rw [exec_regRead, h]
    exact ⟨_, rfl, rfl, rfl, hc, ho⟩
  simp only [List.forall_mem_cons, List.not_mem_nil, false_imp_iff, implies_true, and_true]
  refine ⟨cleared _ _ ?_, cleared _ _ ?_⟩ <;>
  · simp only [State.mgmtRead, ha, hp]
    rfl

/-- What the management port is served with the main rails off (R412). -/
theorem State.mgmt_reads_aon (s : State) (ha : s.pwr.aon = true) {off : Nat} (hs : off = 0x4004 ∨ off = 0x5000) :
    exec (.regRead off) s = .next (s.rsp 0 [s.regVal .mgmt off]) := by
  have h : aonReg off = true := (aonReg_iff off).mpr hs
  obtain ⟨c, hc, hk⟩ := s.mgmtRead_served ha (Or.inr h) (off := off) (by omega) (by rcases hs with rfl | rfl <;> decide)
    (by rcases hs with rfl | rfl <;> decide)
  have hlow : lowWordAt off = false ∧ lowWordAt (off - 4) = false := by rcases hs with rfl | rfl <;> decide
  rw [exec_regRead, hc, hk (by omega) (by omega), s.readReg_plain (wideAt_of_lowWordAt hlow.1) (wideAt_of_lowWordAt hlow.2)]
  rfl

theorem aonReg_other {off : Nat} (h1 : off ≠ 0x4004) (h2 : off ≠ 0x5000) : aonReg off = false := by
  simp [aonReg, h1, h2]

/-- Settles O22: each port's reads by the register file's laws, and each refusal by the answer its port gives. -/
theorem readsAnswerTheirPort : Obligations.ReadsAnswerTheirPort := by
  unfold Obligations.ReadsAnswerTheirPort
  intro s off
  refine ⟨fun hu h => s.host_clears_counter hu h, fun ha hp h => s.mgmt_keeps_counter ha hp h, fun ha hw => ⟨?_, ?_, ?_, ?_⟩,
    fun ha write size => ⟨fun hp hw => ?_, fun hp h1 h2 => ?_⟩, fun hu hw hl => ?_⟩
  · exact fun hp hl hx => s.mgmt_reads_register ha hp hw hl hx
  · exact fun hp => s.mgmt_clears_sbm ha hp
  · intro hp h1 h2
    rw [exec_regRead, s.mgmtRead_busy ha hp (aonReg_other h1 h2)]
    rfl
  · exact fun _ => ⟨s.mgmt_reads_aon ha (Or.inl rfl), s.mgmt_reads_aon ha (Or.inr rfl)⟩
  · rw [exec_badAccess, s.badAccess_mgmt_odd write ha hp (Or.inr hw)]
    exact ⟨_, rfl, rfl, (s.counts_one cSbmBadAcc).1⟩
  · rw [exec_badAccess, s.badAccess_mgmt_busy write size ha hp (aonReg_other h1 h2)]
    rfl
  · simp only [exec_badAccess, s.badAccess_host_unlisted _ hu hw hl]
    exact ⟨rfl, rfl⟩

end Sys2Proof.Machine
end

section
/-! Register writes (R11, R12, R339 to R341, R414, R435): what a write keeps of its value, and what hardware sets in the same cycle. -/

namespace Sys2Proof.Machine

/-! ### Bits that hardware sets (R12) -/

/-- A bit of a register with one more bit set. -/
theorem getLsbD_or_bit {n j : Nat} (x : BitVec n) (i : Nat) (hj : j < n) :
    (x ||| BitVec.ofNat n (2 ^ i)).getLsbD j = (x.getLsbD j || decide (i = j)) := by
  rw [BitVec.getLsbD_or, BitVec.getLsbD_ofNat, Nat.testBit_two_pow]
  simp [hj]

theorem State.setIrq_irqStat (s : State) (i : Nat) : (s.setIrq i).hif.irqStat = s.hif.irqStat ||| BitVec.ofNat 4 (2 ^ i) := by
  unfold State.setIrq
  dsimp only
  split <;> rfl

theorem State.setIrq_bit (s : State) (i : Nat) {j : Nat} (hj : j < 4) :
    (s.setIrq i).hif.irqStat.getLsbD j = (s.hif.irqStat.getLsbD j || decide (i = j)) := by
  rw [State.setIrq_irqStat, getLsbD_or_bit _ _ hj]

theorem State.setSticky_bit (s : State) (i : Nat) {j : Nat} (hj : j < 10) :
    (s.setSticky i).pwr.sticky.getLsbD j = (s.pwr.sticky.getLsbD j || decide (i = j)) := by
  unfold State.setSticky
  split
  · rename_i h
    by_cases hj : i = j
    · subst hj
      rw [h, Bool.true_or]
    · simp [hj]
  · rw [State.alert_pwr]
    exact getLsbD_or_bit _ _ hj

theorem State.setAlarm_bit (s : State) (i : Nat) {j : Nat} (hj : j < 14) :
    (s.setAlarm i).evt.alarm.getLsbD j = (s.evt.alarm.getLsbD j || decide (i = j)) := by
  unfold State.setAlarm
  split
  · rename_i h
    by_cases hj : i = j
    · subst hj
      rw [h, Bool.true_or]
    · simp [hj]
  · rw [State.alert_evt]
    exact getLsbD_or_bit _ _ hj

/-- Where each set event of a register's write sets its own bit, the events of a list set theirs and no other. -/
theorem State.hwSets_bit {n : Nat} {reg : State → BitVec n} {set : State → Nat → State} {has : Nat → Prop} [DecidablePred has]
    {off : Nat} {hw : Word} {i : Nat} (hi : has i)
    (one : ∀ t j, t.hwSets off hw [j] = if hw.getLsbD j = true ∧ has j then set t j else t)
    (bit : ∀ t j, (reg (set t j)).getLsbD i = ((reg t).getLsbD i || decide (j = i))) (l : List Nat) (s : State) :
    (reg (s.hwSets off hw l)).getLsbD i = ((reg s).getLsbD i || (hw.getLsbD i && decide (i ∈ l))) := by
  induction l generalizing s with
  | nil => simp [State.hwSets]
  | cons j r ih =>
    have step : s.hwSets off hw (j :: r) = (s.hwSets off hw [j]).hwSets off hw r := rfl
    rw [step, ih, one]
    by_cases hj : j = i
    · subst hj
      cases hw.getLsbD j <;> simp [hi, bit]
    · have hset : (reg (if hw.getLsbD j = true ∧ has j then set s j else s)).getLsbD i = (reg s).getLsbD i := by
        split
        · simp [bit, hj]
        · rfl
      simp [hset, Ne.symm hj]

theorem State.hwSets_irq (s : State) (hw : Word) (j : Nat) :
    s.hwSets 0x030 hw [j] = if hw.getLsbD j = true ∧ j < 4 then s.setIrq j else s := by
  cases hb : hw.getLsbD j <;> simp [State.hwSets, hb]

theorem State.hwSets_sticky (s : State) (hw : Word) (j : Nat) :
    s.hwSets 0x4004 hw [j] = if hw.getLsbD j = true ∧ j < 10 then s.setSticky j else s := by
  cases hb : hw.getLsbD j <;> simp [State.hwSets, hb]

theorem State.hwSets_alarm (s : State) (hw : Word) (j : Nat) :
    s.hwSets 0x5000 hw [j] = if hw.getLsbD j = true ∧ 0 < j ∧ j < 14 then s.setAlarm j else s := by
  cases hb : hw.getLsbD j <;> simp [State.hwSets, hb]

/-- A write without a set event in its cycle. -/
theorem State.hwSets_zero (s : State) (off : Nat) (l : List Nat) : s.hwSets off 0 l = s := by
  induction l with
  | nil => rfl
  | cons i r ih => simpa [State.hwSets] using ih

/-! ### Writes by the host -/

theorem exec_registerWrite (off : Nat) (v hw : Word) (s : State) (hu : s.hostUp = true) :
    exec (.registerWrite off v hw) s = .next ((s.hwSets off hw (List.range 14)).hostWrite off
      (v &&& ~~~(if off = 0x030 ∨ off = 0x4004 ∨ off = 0x5000 then hw else 0))) := by
  change Host.Outcome.next (if s.hostUp then _ else s) = _
  rw [if_pos hu]

/-- A write to a write-1-to-clear register spares what hardware sets in its cycle. -/
theorem exec_registerWrite_w1c {off : Nat} (v hw : Word) (s : State) (hu : s.hostUp = true)
    (h : off = 0x030 ∨ off = 0x4004 ∨ off = 0x5000) :
    exec (.registerWrite off v hw) s = .next ((s.hwSets off hw (List.range 14)).hostWrite off (v &&& ~~~hw)) := by
  rw [exec_registerWrite _ _ _ _ hu, if_pos h]

/-- A write in whose cycle hardware sets nothing. -/
theorem exec_registerWrite_alone (off : Nat) (v : Word) (s : State) (hu : s.hostUp = true) :
    exec (.registerWrite off v 0) s = .next (s.hostWrite off v) := by
  rw [exec_registerWrite _ _ _ _ hu, s.hwSets_zero, ite_self, show ~~~(0 : Word) = BitVec.allOnes 32 from rfl, BitVec.and_allOnes]

theorem State.hostWrite_hif (s : State) {off : Nat} (v : Word) (hw : off % 4 = 0) (h : off < 0x400) : s.hostWrite off v = s.hifWrite off v := by
  have hl : listed off = true := by
    simp [listed, blocks]
    omega
  simp [State.hostWrite, hw, hl, h]

theorem State.hostWrite_shared (s : State) {off : Nat} (v : Word) (hw : off % 4 = 0) (hl : listed off = true) (h : 0x400 ≤ off)
    (hx : isMsix off = false) : s.hostWrite off v = s.sharedWrite off v := by
  simp [State.hostWrite, hw, hl, Nat.not_lt.mpr h, hx]

/-- A bit of a write-1-to-clear register after a write that spares what hardware set in its cycle. -/
theorem getLsbD_cleared {n i : Nat} (x : BitVec n) (v hw : Word) (a : Bool) (hi : i < n) (hn : n ≤ 32)
    (hx : x.getLsbD i = (a || hw.getLsbD i)) :
    (x &&& ~~~((v &&& ~~~hw).setWidth n)).getLsbD i = (hw.getLsbD i || (a && !v.getLsbD i)) := by
  have h32 : i < 32 := by omega
  simp only [BitVec.getLsbD_and, BitVec.getLsbD_not, BitVec.getLsbD_setWidth, hi, h32, decide_true, Bool.true_and, hx]
  cases hw.getLsbD i <;> cases a <;> simp

/-- A write to HIF_IRQ_STAT. -/
theorem State.write_irqStat (s : State) (v hw : Word) (hu : s.hostUp = true) : ∃ t, exec (.registerWrite 0x030 v hw) s = .next t
    ∧ ∀ i, i < 4 → t.hif.irqStat.getLsbD i = (hw.getLsbD i || (s.hif.irqStat.getLsbD i && !v.getLsbD i)) := by
  rw [exec_registerWrite_w1c _ _ _ hu (by decide), State.hostWrite_hif _ _ rfl (by decide)]
  refine ⟨_, rfl, fun i hi => getLsbD_cleared _ _ _ _ hi (by decide) ?_⟩
  rw [State.hwSets_bit (reg := (·.hif.irqStat)) (has := (· < 4)) hi (State.hwSets_irq · hw) (fun t j => t.setIrq_bit j hi)]
  simp [show i < 14 by omega]

/-- A write to PWR_STICKY. -/
theorem State.write_sticky (s : State) (v hw : Word) (hu : s.hostUp = true) : ∃ t, exec (.registerWrite 0x4004 v hw) s = .next t
    ∧ ∀ i, i < 10 → t.pwr.sticky.getLsbD i = (hw.getLsbD i || (s.pwr.sticky.getLsbD i && !v.getLsbD i)) := by
  rw [exec_registerWrite_w1c _ _ _ hu (by decide), State.hostWrite_shared _ _ rfl rfl (by decide) rfl]
  refine ⟨_, rfl, fun i hi => getLsbD_cleared _ _ _ _ hi (by decide) ?_⟩
  rw [State.hwSets_bit (reg := (·.pwr.sticky)) (has := (· < 10)) hi (State.hwSets_sticky · hw) (fun t j => t.setSticky_bit j hi)]
  simp [show i < 14 by omega]

/-- A write to EVT_ALARM. -/
theorem State.write_alarm (s : State) (v hw : Word) (hu : s.hostUp = true) : ∃ t, exec (.registerWrite 0x5000 v hw) s = .next t
    ∧ ∀ i, 0 < i → i < 14 → t.evt.alarm.getLsbD i = (hw.getLsbD i || (s.evt.alarm.getLsbD i && !v.getLsbD i)) := by
  rw [exec_registerWrite_w1c _ _ _ hu (by decide), State.hostWrite_shared _ _ rfl rfl (by decide) rfl]
  refine ⟨_, rfl, fun i h0 hi => getLsbD_cleared _ _ _ _ hi (by decide) ?_⟩
  rw [State.hwSets_bit (reg := (·.evt.alarm)) (has := fun j => 0 < j ∧ j < 14) ⟨h0, hi⟩ (State.hwSets_alarm · hw) (fun t j => t.setAlarm_bit j hi)]
  simp [hi]

/-- Settles O16: the set events of the cycle are put in before the write, which spares their bits, and a counter read gives the old value
and leaves the update. -/
theorem collisionsLoseNoEvent : Obligations.CollisionsLoseNoEvent := by
  unfold Obligations.CollisionsLoseNoEvent
  refine fun s hu => ⟨fun v hw => s.write_irqStat v hw hu, fun v hw => s.write_sticky v hw hu, fun v hw => s.write_alarm v hw hu,
    fun off add h => ?_⟩
  rw [exec_rcCounterRead, s.hostReadAt_word add hu (hostCounter_place h).1, s.hostRead_counter add h]
  refine ⟨_, rfl, rfl, ?_⟩
  rw [← satAdd_zero_left]
  exact (State.ctrGet_put rfl).1

/-! ### What writes keep -/

/-- An admin-ring register written while the mailbox is enabled. -/
theorem State.hifWrite_admin_enabled (s : State) (v : Word) (he : s.hif.mboxEn = true) {off : Nat}
    (h : off ∈ [0x010, 0x014, 0x018, 0x020, 0x024, 0x028]) : s.hifWrite off v = s := by
  simp only [List.mem_cons, List.not_mem_nil, or_false] at h
  rcases h with rfl | rfl | rfl | rfl | rfl | rfl <;> simp [State.hifWrite, he, slotAt]

/-- A word of a BAR4 window's registers. -/
theorem State.hifWrite_window (s : State) (v : Word) {n i : Nat} (hn : n < 4) (hi : i < 4) :
    s.hifWrite (0x100 + 16 * n + 4 * i) v = s.writeWin n i v := by
  have hs : slotAt (0x100 + 16 * n + 4 * i) 0x100 4 16 = true := by
    rw [slotAt_iff]
    omega
  unfold State.hifWrite
  rw [if_neg (by omega), if_neg (by omega), if_neg (by omega), if_pos hs]
  congr 1 <;> omega

theorem State.mgmtWrite_lock (s : State) (v : Word) (ha : s.pwr.aon = true) (hp : s.pwr.pwrgood = true) :
    s.mgmtWrite 0x004 v = (s.setLocks (v.getLsbD 0) (v.getLsbD 1)).rsp 0 [] := by
  simp [State.mgmtWrite, ha, hp, listed, blocks, isMsix]

theorem State.mgmtWrite_alertMask (s : State) (v : Word) (ha : s.pwr.aon = true) (hp : s.pwr.pwrgood = true) :
    s.mgmtWrite 0x008 v = ({ s with sbm := { s.sbm with alertMask := v &&& 0x00FFFFFE } }).rsp 0 [] := by
  simp [State.mgmtWrite, ha, hp, listed, blocks, isMsix]

theorem State.mgmtWrite_shared (s : State) {off : Nat} (v : Word) (ha : s.pwr.aon = true) (hp : s.pwr.pwrgood = true) (hw : off % 4 = 0)
    (hl : listed off = true) (h : 0x400 ≤ off) (hx : isMsix off = false) : s.mgmtWrite off v = (s.sharedWrite off v).rsp 0 [] := by
  simp [State.mgmtWrite, ha, hp, hw, hl, hx, Nat.not_lt.mpr h, show off ≠ 4 by omega, show off ≠ 8 by omega]

/-- A change of the locks shows in SB_CHANGE. -/
theorem State.setLocks_spec (s : State) (p q : Bool) : (s.setLocks p q).sbm.lockPower = p ∧ (s.setLocks p q).sbm.lockSecurity = q
    ∧ (s.sbm.lockPower ≠ p ∨ s.sbm.lockSecurity ≠ q → (s.setLocks p q).hif.irqStat = s.hif.irqStat ||| 8) := by
  unfold State.setLocks
  split
  · rename_i h
    exact ⟨h.1, h.2, fun hn => absurd h (not_and_or.mpr hn)⟩
  · rw [State.setIrq_sbm, State.setIrq_irqStat]
    exact ⟨rfl, rfl, fun _ => rfl⟩

/-- Settles O19: each register by the branch of its offset. -/
theorem registerWritesAreKept : Obligations.RegisterWritesAreKept := by
  unfold Obligations.RegisterWritesAreKept
  intro s v
  refine ⟨fun hu => ?_, fun ha hp => ⟨?_, ?_, ?_⟩⟩
  · have hif (off : Nat) (hw : off % 4 = 0) (h : off < 0x400) : exec (.registerWrite off v 0) s = .next (s.hifWrite off v) := by
      rw [exec_registerWrite_alone _ _ _ hu, s.hostWrite_hif v hw h]
    have shared (off : Nat) (hw : off % 4 = 0) (hl : listed off = true) (h : 0x400 ≤ off) (hx : isMsix off = false) :
        exec (.registerWrite off v 0) s = .next (s.sharedWrite off v) := by
      rw [exec_registerWrite_alone _ _ _ hu, s.hostWrite_shared v hw hl h hx]
    refine ⟨hif _ rfl (by decide), shared _ rfl rfl (by decide) rfl, shared _ rfl rfl (by decide) rfl, shared _ rfl rfl (by decide) rfl,
      fun n hn => ⟨?_, ?_⟩, fun he => ⟨?_, ?_⟩, fun he off h => ?_⟩
    · rw [hif _ (by omega) (by omega)]
      exact congrArg _ (s.hifWrite_window v (i := 0) hn (by decide))
    · rw [hif _ (by omega) (by omega), show 0x104 + 16 * n = 0x100 + 16 * n + 4 * 1 by omega, s.hifWrite_window v hn (by decide)]
      rfl
    · rw [hif _ rfl (by decide)]
      simp [State.hifWrite, he, slotAt, clampLog2]
    · rw [hif _ rfl (by decide)]
      simp [State.hifWrite, he, slotAt, clampLog2]
    · have hoff : off % 4 = 0 ∧ off < 0x400 := by
        simp only [List.mem_cons, List.not_mem_nil, or_false] at h
        omega
      rw [hif _ hoff.1 hoff.2, s.hifWrite_admin_enabled v he h]
  · rw [exec_regWrite, s.mgmtWrite_alertMask v ha hp]
    rfl
  · rw [exec_regWrite, s.mgmtWrite_shared v ha hp rfl rfl (by decide) rfl]
    rfl
  · rw [exec_regWrite, s.mgmtWrite_lock v ha hp]
    obtain ⟨h1, h2, h3⟩ := s.setLocks_spec (v.getLsbD 0) (v.getLsbD 1)
    exact ⟨_, rfl, h1, h2, rfl, h3⟩

end Sys2Proof.Machine
end

section
/-! The recorder (R5, R381, R411, R416 to R421): what an event leaves as it was, a record's way into the two areas, and the device's
entry into FAULT where NVM refuses a page. -/

namespace Sys2Proof.Machine

/-! ### What an event leaves as it was -/

/-- The numbering and the areas of the recorder are those of another state of it. -/
structure Recorder.SameLog (e f : Recorder) : Prop where
  seq : f.seq = e.seq
  first : f.first = e.first
  firstFull : f.firstFull = e.firstFull
  page : f.page = e.page
  circ : f.circ = e.circ

theorem Recorder.SameLog.refl (e : Recorder) : e.SameLog e := ⟨rfl, rfl, rfl, rfl, rfl⟩

theorem Recorder.SameLog.trans {e f g : Recorder} (h : e.SameLog f) (k : f.SameLog g) : e.SameLog g :=
  ⟨k.seq.trans h.seq, k.first.trans h.first, k.firstFull.trans h.firstFull, k.page.trans h.page, k.circ.trans h.circ⟩

/-- What the host interface holds besides its interrupt bits and vector requests is unchanged. -/
def Hif.OnlySignals (h g : Hif) : Prop :=
  g = { h with irqStat := g.irqStat, vecReq := g.vecReq }

theorem Hif.OnlySignals.refl (h : Hif) : h.OnlySignals h := rfl

theorem Hif.OnlySignals.trans {h g k : Hif} (a : h.OnlySignals g) (b : g.OnlySignals k) : h.OnlySignals k := by
  unfold Hif.OnlySignals at *
  rw [a] at b
  exact b

theorem State.setIrq_signals (s : State) (i : Nat) : s.hif.OnlySignals (s.setIrq i).hif := by
  unfold State.setIrq
  dsimp only
  split <;> rfl

theorem State.alert_signals (s : State) (m : Nat) : s.hif.OnlySignals (s.alert m).hif := by
  refine (s.setIrq_signals 0).trans ?_
  unfold State.alert
  dsimp only
  split <;> rfl

theorem State.setAlarm_signals (s : State) (c : Nat) : s.hif.OnlySignals (s.setAlarm c).hif := by
  unfold State.setAlarm
  split
  · exact .refl _
  · exact State.alert_signals _ _

theorem State.setAlarm_sameLog (s : State) (c : Nat) : s.evt.SameLog (s.setAlarm c).evt := by
  unfold State.setAlarm
  split
  · exact .refl _
  · rw [State.alert_evt]
    exact ⟨rfl, rfl, rfl, rfl, rfl⟩

theorem Recorder.take_sameLog (e : Recorder) (r : Record) (unit : Nat) : e.SameLog (e.take r unit) := by
  unfold Recorder.take
  dsimp only
  split <;> exact ⟨rfl, rfl, rfl, rfl, rfl⟩

theorem Recorder.takeAon_sameLog (e : Recorder) (r : Record) : e.SameLog (e.takeAon r) := by
  unfold Recorder.takeAon
  split <;> exact ⟨rfl, rfl, rfl, rfl, rfl⟩

/-- A state that differs from another by events alone, as far as the written records, the tickets and the fault manager go. -/
structure State.EventsOnly (s t : State) : Prop where
  log : s.evt.SameLog t.evt
  hif : s.hif.OnlySignals t.hif
  flt : t.flt = s.flt

theorem State.EventsOnly.trans {s t u : State} (h : s.EventsOnly t) (k : t.EventsOnly u) : s.EventsOnly u :=
  ⟨h.log.trans k.log, h.hif.trans k.hif, k.flt.trans h.flt⟩

/-- A change elsewhere in the state. -/
theorem State.EventsOnly.of_eq {s t : State} (he : t.evt = s.evt) (hh : t.hif = s.hif) (hf : t.flt = s.flt) : s.EventsOnly t :=
  ⟨he ▸ .refl _, hh ▸ .refl _, hf⟩

theorem State.record_events (s : State) (r : Record) (unit : Nat) : s.EventsOnly (s.record r unit) := by
  refine ⟨?_, ?_, s.record_flt r unit⟩
  · have h1 : s.evt.SameLog (if prioOf r.code = 0 then s.setAlarm (r.code / 4096) else s).evt := by
      split
      · exact s.setAlarm_sameLog _
      · exact .refl _
    unfold State.record
    dsimp only
    split
    · have h2 := h1.trans (Recorder.take_sameLog _ r unit)
      split <;> simpa using h2
    · split
      · exact h1.trans (Recorder.takeAon_sameLog _ r)
      · exact h1
  · have h1 : s.hif.OnlySignals (if prioOf r.code = 0 then s.setAlarm (r.code / 4096) else s).hif := by
      split
      · exact s.setAlarm_signals _
      · exact .refl _
    unfold State.record
    dsimp only
    split
    · split <;> simpa using h1
    · split <;> exact h1

theorem State.raise_events (s : State) (code : Nat) (l : List Word) : s.EventsOnly (s.raise code l) :=
  s.record_events _ _

/-- An event below ALARM leaves the host interface alone. -/
theorem State.raise_hif (s : State) (code : Nat) (l : List Word) (h : prioOf code ≠ 0) : (s.raise code l).hif = s.hif := by
  change (s.record (s.mkRecord code l) 0).hif = s.hif
  have hc : (s.mkRecord code l).code = code := rfl
  unfold State.record
  simp only [hc, h, if_false]
  split
  · split <;> simp
  · split <;> rfl

/-! ### Entry into FAULT (R381) -/

theorem State.noteHigh_events (s : State) (c : Nat) : s.EventsOnly (s.noteHigh c) := by
  have set (k : Stk) : s.EventsOnly (s.setStk c k) := .of_eq rfl rfl rfl
  unfold State.noteHigh
  dsimp only
  split
  · split
    · exact .of_eq rfl rfl rfl
    · exact (set _).trans (State.raise_events _ _ _)
  · split
    · exact set _
    · exact .of_eq rfl rfl rfl

theorem State.rewindStk_events (s : State) (saved : Tab Stk) (l : List Nat) : s.EventsOnly (s.rewindStk saved l) := by
  induction l generalizing s with
  | nil => exact .of_eq rfl rfl rfl
  | cons c r ih =>
    have set (k : Stk) : s.EventsOnly (s.setStk c k) := .of_eq rfl rfl rfl
    exact ((set _).trans (State.noteHigh_events _ c)).trans (ih _)

theorem State.rewind_events (s : State) : s.EventsOnly s.rewind := by
  unfold State.rewind
  split
  · exact .of_eq rfl rfl rfl
  · refine .trans ?_ (State.rewindStk_events _ _ _)
    exact .of_eq rfl rfl rfl

/-- What an attempt did is discarded with no other trace than events. -/
theorem State.discard_events (s : State) : s.EventsOnly s.discard := by
  have banks : s.EventsOnly s.dropBanks := .of_eq rfl rfl rfl
  exact (banks.trans (State.rewind_events _)).trans (.of_eq rfl rfl rfl)

theorem State.endAttempt_events (s : State) : s.EventsOnly s.endAttempt := by
  unfold State.endAttempt
  split
  · exact .trans (State.discard_events _) (.of_eq rfl rfl rfl)
  · exact .of_eq rfl rfl rfl

theorem State.endAttempt_inactive (s : State) : s.endAttempt.stp.active = false := by
  unfold State.endAttempt
  split
  · rfl
  · rename_i h
    exact (Bool.or_eq_false_iff.mp (Bool.eq_false_iff.mpr h)).1

/-- No ticket of the mailbox waits, runs or is being deleted. -/
structure Hif.Idle (h : Hif) : Prop where
  waits : h.waitq = []
  deletes : h.deleting = []
  runs : h.seqBusy = none

theorem Hif.OnlySignals.idle {h g : Hif} (a : h.OnlySignals g) (i : h.Idle) : g.Idle := by
  rw [a]
  exact ⟨i.waits, i.deletes, i.runs⟩

/-- With no ticket to end, the loss of the device ends the attempt and its recipe. -/
theorem State.endLost_idle (s : State) (hs : s.hif.state = .fault) (hi : s.hif.Idle) :
    ∃ x, s.endLost = { s.endAttempt with rcp := x } := by
  obtain ⟨hw, -, hb⟩ := s.endAttempt_events.hif.idle hi
  have running (x : Rcp) : State.endRunning { s.endAttempt with rcp := x } = { s.endAttempt with rcp := x } := by
    simp only [State.endRunning, hb]
  unfold State.endLost
  simp only [hs, or_true, if_true]
  split
  · rw [running]
    simp only [hw]
    exact ⟨_, rfl⟩
  · exact ⟨_, running _⟩

/-- With no ticket to go on, only the attempt and the recipe of a device in FAULT end. -/
theorem State.drain_idle (s : State) (hs : s.hif.state = .fault) (hi : s.hif.Idle) : ∃ x, s.drain = { s.endAttempt with rcp := x } := by
  obtain ⟨x, hx⟩ := s.endLost_idle hs hi
  obtain ⟨hw, hd, hb⟩ := s.endAttempt_events.hif.idle hi
  refine ⟨x, ?_⟩
  unfold State.drain
  rw [hx]
  simp only [hb]
  exact State.drainN_quiet _ _ hw hd

theorem State.setState_state (s : State) (d : DevState) : (s.setState d).hif.state = d := by
  unfold State.setState
  split
  · assumption
  · rw [State.setIrq_signals]

/-- A change of STATE leaves the mailbox's tickets. -/
theorem State.setState_idle (s : State) (d : DevState) (hi : s.hif.Idle) : (s.setState d).hif.Idle := by
  unfold State.setState
  split
  · exact hi
  · exact (State.setIrq_signals _ _).idle ⟨hi.waits, hi.deletes, hi.runs⟩

/-- FAULT entered with an idle mailbox: the work ends, and the records written stay as they are. -/
theorem State.fault_drained (s : State) (hi : s.hif.Idle) : ∃ t, ((s.raise 0xB00A []).setState .fault).drain = t
    ∧ t.hif.state = .fault ∧ t.flt = s.flt ∧ t.stp.active = false ∧ t.evt.page = s.evt.page ∧ t.evt.circ = s.evt.circ := by
  have hev := s.raise_events 0xB00A []
  generalize hu : (s.raise 0xB00A []).setState .fault = u
  have hstate : u.hif.state = .fault := hu ▸ State.setState_state _ _
  have hlog : u.evt = (s.raise 0xB00A []).evt := by rw [← hu, State.setState_evt]
  have hflt : u.flt = s.flt := by rw [← hu, State.setState_flt, hev.flt]
  obtain ⟨x, hx⟩ := u.drain_idle hstate (hu ▸ State.setState_idle _ _ (hev.hif.idle hi))
  obtain ⟨log, hif, flt⟩ := u.endAttempt_events
  have hst : u.endAttempt.hif.state = .fault := by
    rw [hif]
    exact hstate
  exact ⟨_, hx, hst, flt.trans hflt, u.endAttempt_inactive, log.page.trans (hlog ▸ hev.log.page), log.circ.trans (hlog ▸ hev.log.circ)⟩

/-- NVM refuses a write of a device whose mailbox is idle and that has not failed yet. -/
theorem State.nvmRefuses_spec (s : State) (hs : s.hif.state ≠ .fault) (hi : s.hif.Idle) : ∃ t, s.nvmRefuses = t ∧ t.hif.state = .fault
    ∧ t.flt.fatal = true ∧ t.stp.active = false ∧ t.evt.page = s.evt.page ∧ t.evt.circ = s.evt.circ := by
  obtain ⟨t, ht, hst, hflt, hact, hpage, hcirc⟩ := State.fault_drained
    { s with flt := { s.flt with fatal := true }, stp := { s.stp with active := false, halted := true },
             pwr := { s.pwr with startStep := 0 } } hi
  refine ⟨t, ?_, hst, ?_, hact, hpage, hcirc⟩
  · unfold State.nvmRefuses
    rw [if_neg hs]
    exact ht
  · rw [hflt]

/-! ### The areas of the recorder (R416 to R418) -/

/-- The last record put in the circulating area is in its slot. -/
theorem Recorder.flushPage_last {e : Recorder} {a : List Record} {r : Record} (h : e.page = a ++ [r]) :
    Tab.find e.flushPage.circ (r.seq % 65536) = some r := by
  simp [Recorder.flushPage, h, List.foldl_append]

/-- Slots that the page's records do not take stay as they are. -/
theorem find_putRecords_other (l : List Record) (c : Tab Record) (k : Nat) (h : ∀ r ∈ l, r.seq % 65536 ≠ k) :
    Tab.find (l.foldl (fun t r => Tab.put t (r.seq % 65536) r) c) k = Tab.find c k := by
  induction l generalizing c with
  | nil => rfl
  | cons r l ih =>
    rw [List.foldl_cons, ih _ fun x hx => h x (List.mem_cons_of_mem _ hx),
      Tab.find_put_other _ _ _ _ (h r List.mem_cons_self).symm]

/-- The first area, the numbering and the queue after a record is put. -/
theorem Recorder.put_first (e : Recorder) (r : Record) : (e.put r).seq = (e.seq + 1) % 2 ^ 32 ∧ (e.put r).queue = e.queue
    ∧ (e.put r).first = (if e.firstFull = false ∧ e.first.length < 4096 then e.first ++ [{ r with seq := e.seq }] else e.first)
    ∧ (e.put r).firstFull = (e.firstFull || decide (4096 ≤ e.first.length + 1)) := by
  unfold Recorder.put
  dsimp only
  split <;> refine ⟨rfl, rfl, ?_, rfl⟩ <;> simp [Recorder.flushPage]

/-- A record below ALARM waits in a page that has room. -/
theorem Recorder.put_page (e : Recorder) (r : Record) (hp : r.prio ≠ 0) (hl : e.page.length < 63) :
    (e.put r).page = e.page ++ [{ r with seq := e.seq }] ∧ (e.put r).circ = e.circ := by
  have hc : ¬(r.prio = 0 ∨ 64 ≤ (e.page ++ [{ r with seq := e.seq }]).length) := by simpa [hp] using hl
  unfold Recorder.put
  dsimp only
  rw [if_neg hc]
  exact ⟨rfl, rfl⟩

/-- An ALARM record, or one that fills the page, goes to the circulating area with the page. -/
theorem Recorder.put_flushes (e : Recorder) (r : Record) (h : r.prio = 0 ∨ 63 ≤ e.page.length) :
    (e.put r).page = [] ∧ Tab.find (e.put r).circ (e.seq % 65536) = some { r with seq := e.seq } := by
  have hc : r.prio = 0 ∨ 64 ≤ (e.page ++ [{ r with seq := e.seq }]).length := by simpa using h
  unfold Recorder.put
  dsimp only
  rw [if_pos hc]
  exact ⟨rfl, Recorder.flushPage_last (r := { r with seq := e.seq }) rfl⟩

/-- A record written: the recorder's areas are those of the record put, an ALARM record is in the port's message as well, and events show
in the counters alone, and only when the first area fills. -/
theorem State.writeRecord_spec (s : State) (r : Record) : ∃ t, s.writeRecord r = t ∧ (s.evt.put r).SameLog t.evt
    ∧ t.sbm = (if r.prio = 0 then { s.sbm with pem := s.sbm.pem ++ [{ r with seq := s.evt.seq }] } else s.sbm)
    ∧ t.store = s.store ∧ t.hif = s.hif
    ∧ ((s.evt.put r).firstFull = false → t.evt = s.evt.put r ∧ t.ctr = s.ctr) := by
  have kept : ∃ u : State, u.evt = s.evt.put r ∧ u.store = s.store ∧ u.hif = s.hif ∧ u.ctr = s.ctr
      ∧ u.sbm = (if r.prio = 0 then { s.sbm with pem := s.sbm.pem ++ [{ r with seq := s.evt.seq }] } else s.sbm)
      ∧ s.writeRecord r = if u.evt.firstFull && !s.evt.firstFull then u.raise 0xD002 [] else u := by
    by_cases hp : r.prio = 0
    · exact ⟨{ s with evt := s.evt.put r, sbm := { s.sbm with pem := s.sbm.pem ++ [{ r with seq := s.evt.seq }] } }, rfl, rfl, rfl, rfl,
        by rw [if_pos hp], by simp only [State.writeRecord, hp, if_true]⟩
    · exact ⟨{ s with evt := s.evt.put r }, rfl, rfl, rfl, rfl, by rw [if_neg hp], by simp only [State.writeRecord, hp, if_false]⟩
  obtain ⟨u, he, hst, hh, hc, hs, hw⟩ := kept
  refine ⟨_, hw, ?_⟩
  rw [← he]
  split
  · refine ⟨(u.raise_events _ _).log, by rw [State.raise_sbm, hs], by rw [State.raise_store, hst],
      by rw [u.raise_hif _ _ (by decide), hh], fun hn => ?_⟩
    rename_i fills
    simp [hn] at fills
  · exact ⟨.refl _, hs, hst, hh, fun _ => ⟨rfl, hc⟩⟩

/-- The oldest record of the queue written. -/
theorem State.takes_oldest (s : State) {r : Record} {rest : List Record} (hq : s.evt.queue = r :: rest) (hp : s.pwr.pwrgood = true)
    (ha : s.evt.aonBuf = []) : exec .recordWrite s = .next (({ s with evt := { s.evt with queue := rest } }).writeRecord r) := by
  change execRecordWrite s = _
  unfold execRecordWrite
  simp [hq, hp, ha]

theorem State.takes_none (s : State) (h : s.evt.queue = [] ∨ s.pwr.pwrgood = false ∨ s.evt.aonBuf ≠ []) : exec .recordWrite s = .next s := by
  change execRecordWrite s = _
  unfold execRecordWrite
  rcases h with h | h | h
  · simp [h]
  · cases s.evt.queue <;> simp [h]
  · cases s.evt.queue <;> simp [h]

theorem exec_pageFlush (taken : Bool) (s : State) (hp : s.pwr.pwrgood = true) :
    exec (.pageFlush taken) s = .next (if taken then { s with evt := s.evt.flushPage } else s.nvmRefuses) := by
  change execPageFlush taken s = _
  cases taken <;> simp [execPageFlush, hp]

/-- Settles O56: by what one record written does to the areas, and what a page flush does with each answer of NVM. -/
theorem recordsAreKeptInOrder : Obligations.RecordsAreKeptInOrder := by
  unfold Obligations.RecordsAreKeptInOrder
  intro s
  refine ⟨s.takes_none, fun r rest hq hp ha => ?_, fun hp => ⟨fun b => ?_, ?_⟩, fun hp => ?_, fun hp hstill => ?_, fun hp => ?_⟩
  · obtain ⟨t, ht, log, hsbm, hstore, hhif, hquiet⟩ := State.writeRecord_spec { s with evt := { s.evt with queue := rest } } r
    obtain ⟨hseq, hqueue, hfirst, hfull⟩ := Recorder.put_first { s.evt with queue := rest } r
    refine ⟨t, (s.takes_oldest hq hp ha).trans (congrArg _ ht), log.seq.trans hseq, fun h1 h2 => ?_, fun h => ?_, fun h1 h2 => ?_,
      fun h1 h2 => ?_, fun h => ?_, fun h => ?_, hstore, hhif⟩
    · rw [log.first, hfirst, if_pos ⟨h1, h2⟩]
    · rw [log.first, hfirst, if_neg]
      rintro ⟨h1, h2⟩
      rcases h with h | h
      · exact absurd (h.symm.trans h1) (by decide)
      · exact absurd h2 (Nat.not_lt.mpr h)
    · have hnot : (Recorder.put { s.evt with queue := rest } r).firstFull = false := by
        rw [hfull]
        simp only [h2, Bool.false_or, decide_eq_false_iff_not]
        omega
      obtain ⟨he, hc⟩ := hquiet hnot
      exact ⟨he ▸ hnot, he ▸ hqueue, hc⟩
    · obtain ⟨hpage, hcirc⟩ := Recorder.put_page { s.evt with queue := rest } r h1 h2
      exact ⟨log.page.trans hpage, log.circ.trans hcirc, by rw [hsbm, if_neg h1]⟩
    · obtain ⟨hpage, hcirc⟩ := Recorder.put_flushes { s.evt with queue := rest } r h
      exact ⟨log.page.trans hpage, log.circ ▸ hcirc⟩
    · rw [hsbm, if_pos h]
  · change execPageFlush b s = _
    simp [execPageFlush, hp]
  · change execOperatingHourTick s = _
    simp [execOperatingHourTick, hp]
  · change execOperatingHourTick s = _
    simp [execOperatingHourTick, hp]
  · obtain ⟨hw, hd, hb, -, hf⟩ := hstill
    obtain ⟨t, ht, hspec⟩ := s.nvmRefuses_spec hf ⟨hw, hd, hb⟩
    exact ⟨t, (exec_pageFlush false s hp).trans (congrArg _ ht), hspec⟩
  · exact ⟨_, exec_pageFlush true s hp, rfl, fun _ _ h => Recorder.flushPage_last h, find_putRecords_other _ _, rfl⟩

end Sys2Proof.Machine
end

section
/-! Packets on their way through the links (R291, R295, R298 to R300): what sending, routing and new tables leave as it was. -/

namespace Sys2Proof.Machine

/-! ### What packets on their way leave as it was -/

/-- Packets and routing tables have moved, and nothing else: of the links the ports' buffers, the packets, the tables and what routes must
avoid, with the dropped packets counted; every port is in the state it was in. -/
structure State.Traffic (s t : State) : Prop where
  only : t = { s with ctr := t.ctr, lnk := { s.lnk with
    ports := t.lnk.ports, routed := t.lnk.routed, out := t.lnk.out, acked := t.lnk.acked, unacked := t.lnk.unacked,
    downs := t.lnk.downs, routes := t.lnk.routes, genNext := t.lnk.genNext, tables := t.lnk.tables } }
  ctr : ∀ o, o ≠ cRouteDrop → t.ctrGet o = s.ctrGet o
  port : ∀ p, (t.port p).state = (s.port p).state

theorem State.Traffic.refl (s : State) : s.Traffic s := ⟨rfl, fun _ _ => rfl, fun _ => rfl⟩

/-- Queues and tables changed. -/
theorem State.Traffic.queues {s t : State} (only : t = { s with lnk := { s.lnk with
    routed := t.lnk.routed, out := t.lnk.out, acked := t.lnk.acked, unacked := t.lnk.unacked,
    downs := t.lnk.downs, routes := t.lnk.routes, genNext := t.lnk.genNext, tables := t.lnk.tables } }) : s.Traffic t := by
  have ports : t.lnk.ports = s.lnk.ports := by rw [only]
  have ctr : t.ctr = s.ctr := by rw [only]
  refine ⟨?_, fun o _ => ?_, fun p => ?_⟩
  · rw [ctr, ports]
    exact only
  · rw [only]
    rfl
  · unfold State.port
    rw [ports]

theorem State.Traffic.trans {s t u : State} (h : s.Traffic t) (k : t.Traffic u) : s.Traffic u := by
  refine ⟨?_, fun o ho => (k.ctr o ho).trans (h.ctr o ho), fun p => (k.port p).trans (h.port p)⟩
  have hk := k.only
  rw [h.only] at hk
  exact hk

@[simp] theorem State.port_setPort (s : State) (p q : Nat) (x : Port) : (s.setPort p x).port q = if q = p then x else s.port q := by
  unfold State.setPort State.port
  by_cases h : q = p
  · subst h; simp
  · simp [h, Tab.get_put_other]

/-- A port with the same state put in its place. -/
theorem State.setPort_traffic (s : State) (p : Nat) {x : Port} (h : x.state = (s.port p).state) : s.Traffic (s.setPort p x) := by
  refine ⟨rfl, fun _ _ => rfl, fun q => ?_⟩
  rw [State.port_setPort]
  split
  · simp_all
  · rfl

theorem State.rxFree_traffic (s : State) (port : Option Nat) (vc n : Nat) : s.Traffic (s.rxFree port vc n) := by
  cases port with
  | none => exact .refl s
  | some q => exact s.setPort_traffic q rfl

theorem State.dropPacket_traffic (s : State) (p : LinkPkt) : s.Traffic (s.dropPacket p) := by
  refine (s.rxFree_traffic p.inPort p.vc p.data.length).trans ⟨rfl, fun o ho => ?_, fun _ => rfl⟩
  unfold State.dropPacket
  simp [State.ctrGet_count, ho]

theorem State.dropPackets_traffic (s : State) (l : List (LinkPkt × Nat)) : s.Traffic (s.dropPackets l) := by
  induction l generalizing s with
  | nil => exact .refl s
  | cons k r ih => exact (s.dropPacket_traffic k.1).trans (ih _)

theorem State.dropWaiting_traffic (s : State) (port : Nat) : s.Traffic (s.dropWaiting port) := by
  refine .trans ?_ (State.dropPackets_traffic _ _)
  exact .queues rfl

@[simp] theorem Port.cutBlocks_state (n : Nat) (x : Port) : (Port.cutBlocks n x).state = x.state := by
  induction n generalizing x with
  | zero => rfl
  | succ n ih =>
    unfold Port.cutBlocks
    split
    · rfl
    · exact ih _

@[simp] theorem Port.sealUnits_state (n : Nat) (key : List Byte) (port : Nat) (x : Port) : (Port.sealUnits n key port x).state = x.state := by
  induction n generalizing x with
  | zero => rfl
  | succ n ih =>
    unfold Port.sealUnits
    split
    · rfl
    · exact ih _

@[simp] theorem State.fillBlocks_state (s : State) (port : Nat) (x : Port) (data : List Byte) : (s.fillBlocks port x data).state = x.state := by
  unfold State.fillBlocks
  dsimp only
  split <;> simp

theorem State.sendOut_traffic (s : State) (k : LinkPkt × Nat) : s.Traffic (s.sendOut k) := by
  unfold State.sendOut
  extract_lets x src p y s1
  have h : s.Traffic s1 := s.setPort_traffic k.2 (s.fillBlocks_state k.2 y p.data)
  refine (h.trans ?_).trans (State.rxFree_traffic _ _ _ _)
  exact .queues rfl

theorem State.pumpFor_traffic (s : State) (n port : Nat) : s.Traffic (s.pumpFor n port) := by
  induction n generalizing s with
  | zero => exact .refl s
  | succ n ih =>
    unfold State.pumpFor
    split
    · exact .refl s
    · exact (s.sendOut_traffic _).trans (ih _)

theorem State.enqueue_traffic (s : State) (p : LinkPkt) (port : Nat) : s.Traffic (s.enqueue p port) := by
  refine .trans ?_ (State.pumpFor_traffic _ _ _)
  exact .queues rfl

theorem State.routeBy_traffic (s : State) (r : Route) (p : LinkPkt) : s.Traffic (s.routeBy r p) := by
  unfold State.routeBy
  split
  · exact s.dropPacket_traffic p
  · split
    · exact s.dropPacket_traffic p
    · exact s.enqueue_traffic _ _

theorem State.deliver_traffic (s : State) (p : LinkPkt) : s.Traffic (s.deliver p) := by
  have h := s.rxFree_traffic p.inPort p.vc p.data.length
  unfold State.deliver
  dsimp only
  split
  · refine h.trans ?_
    exact .queues rfl
  · exact h

/-- A packet routed moves packets alone. -/
theorem State.route_traffic (s : State) (p : LinkPkt) : s.Traffic (s.route p) := by
  unfold State.route
  split
  · exact s.deliver_traffic p
  · split
    · split
      · exact s.routeBy_traffic _ p
      · exact s.dropPacket_traffic p
    · exact s.routeBy_traffic _ p

theorem State.keep_traffic (s : State) (p : LinkPkt) : s.Traffic (s.keep p) := by
  unfold State.keep
  split
  · exact .queues rfl
  · exact .refl s

theorem State.sendVc0_traffic (s : State) (port : Nat) (bs : List Byte) : s.Traffic (s.sendVc0 port bs) := by
  unfold State.sendVc0
  split
  · exact s.enqueue_traffic _ _
  · exact .refl s

theorem State.sendTable_traffic (s : State) (r : Route) (gen beat : Nat) (l : List Nat) : s.Traffic (s.sendTable r gen beat l) := by
  induction l generalizing s with
  | nil => exact .refl s
  | cons d l ih => exact ((s.keep_traffic _).trans (State.route_traffic _ _)).trans (ih _)

/-- A new table sent moves packets alone. -/
theorem State.rebuild_traffic (s : State) : s.Traffic s.rebuild := by
  unfold State.rebuild
  extract_lets r now
  split
  · exact .refl s
  · refine .trans ?_ (State.sendTable_traffic _ _ _ _ _)
    exact .queues rfl

theorem State.noteDowns_traffic (s : State) : s.Traffic s.noteDowns := by
  refine .trans ?_ (State.rebuild_traffic _)
  exact .queues rfl

theorem State.sendBulk_traffic (s : State) (dst vc id : Nat) (bs : List Byte) : s.Traffic (s.sendBulk dst vc id bs) := by
  unfold State.sendBulk
  generalize (piecesBy 2048 bs).zipIdx = l
  induction l generalizing s with
  | nil => exact .refl s
  | cons x l ih => exact ((s.keep_traffic _).trans (State.route_traffic _ _)).trans (ih _)

/-- What the background asks for over VC1 moves packets alone. -/
theorem State.askFrames_traffic (s : State) : s.Traffic s.askFrames := by
  unfold State.askFrames
  split
  · exact .refl s
  · rename_i m _
    generalize s.badFrames = l
    clear * -
    induction l generalizing s with
    | nil => exact .refl s
    | cons x l ih => exact (s.sendBulk_traffic _ _ _ _).trans (ih _)

theorem State.Traffic.hif {s t : State} (h : s.Traffic t) : t.hif = s.hif := by rw [h.only]
theorem State.Traffic.stp {s t : State} (h : s.Traffic t) : t.stp = s.stp := by rw [h.only]
theorem State.Traffic.coll {s t : State} (h : s.Traffic t) : t.coll = s.coll := by rw [h.only]
theorem State.Traffic.pwr {s t : State} (h : s.Traffic t) : t.pwr = s.pwr := by rw [h.only]

end Sys2Proof.Machine
end

section
/-! What an event leaves as it was, as one relation between states: the log, the counters of the recorder, the interrupt bits and the
messages of the management port are all that it changes (R415 to R425); and what a cause of replay changes (R215). -/

namespace Sys2Proof.Machine

/-- Events have been logged, and nothing else has happened. -/
structure State.Logged (s t : State) : Prop where
  only : t = { s with ctr := t.ctr, hif := t.hif, sbm := t.sbm, evt := t.evt }
  ctr : ∀ o, o ≠ cRecCoal → o ≠ cRecDrop → t.ctrGet o = s.ctrGet o
  hif : s.hif.OnlySignals t.hif

theorem State.Logged.refl (s : State) : s.Logged s := ⟨rfl, fun _ _ _ => rfl, .refl _⟩

theorem State.Logged.trans {s t u : State} (h : s.Logged t) (k : t.Logged u) : s.Logged u := by
  refine ⟨?_, fun o h1 h2 => (k.ctr o h1 h2).trans (h.ctr o h1 h2), h.hif.trans k.hif⟩
  have hk := k.only
  rw [h.only] at hk
  exact hk

/-- A change of the log alone. -/
theorem State.Logged.log {s t : State} (h : t = { s with sbm := t.sbm, evt := t.evt }) : s.Logged t := by
  have hctr : t.ctr = s.ctr := by rw [h]
  have hhif : t.hif = s.hif := by rw [h]
  refine ⟨?_, fun o _ _ => ?_, hhif ▸ .refl _⟩
  · rw [hctr, hhif]
    exact h
  · unfold State.ctrGet
    rw [hctr]

theorem State.Logged.pwr {s t : State} (h : s.Logged t) : t.pwr = s.pwr := by rw [h.only]
theorem State.Logged.lnk {s t : State} (h : s.Logged t) : t.lnk = s.lnk := by rw [h.only]
theorem State.Logged.rcp {s t : State} (h : s.Logged t) : t.rcp = s.rcp := by rw [h.only]
theorem State.Logged.stp {s t : State} (h : s.Logged t) : t.stp = s.stp := by rw [h.only]
theorem State.Logged.coll {s t : State} (h : s.Logged t) : t.coll = s.coll := by rw [h.only]
theorem State.Logged.flt {s t : State} (h : s.Logged t) : t.flt = s.flt := by rw [h.only]

/-- The alarm bit of a class set changes the log and the interrupt bits alone. -/
theorem State.setAlarm_only (s : State) (c : Nat) :
    s.setAlarm c = { s with hif := (s.setAlarm c).hif, evt := (s.setAlarm c).evt } := by
  unfold State.setAlarm State.alert State.setIrq State.msi
  dsimp only
  split
  · rfl
  · split <;> split <;> rfl

theorem State.record_logged (s : State) (r : Record) (unit : Nat) : s.Logged (s.record r unit) := by
  refine ⟨?_, fun o h1 h2 => s.ctrGet_record r unit o h1 h2, (s.record_events r unit).hif⟩
  have h : ∃ h e, (if prioOf r.code = 0 then s.setAlarm (r.code / 4096) else s) = { s with hif := h, evt := e } := by
    split
    · exact ⟨_, _, s.setAlarm_only _⟩
    · exact ⟨s.hif, s.evt, rfl⟩
  obtain ⟨h, e, he⟩ := h
  unfold State.record State.count
  dsimp only
  rw [he]
  split
  · split <;> rfl
  · split <;> rfl

theorem State.raiseU_logged (s : State) (code unit : Nat) (l : List Word) : s.Logged (s.raiseU code unit l) :=
  s.record_logged _ _

theorem State.raise_logged (s : State) (code : Nat) (l : List Word) : s.Logged (s.raise code l) :=
  s.record_logged _ _

theorem State.writeRecord_logged (s : State) (r : Record) : s.Logged (s.writeRecord r) := by
  unfold State.writeRecord
  extract_lets s1 sbm s2
  have h : s.Logged s2 := by
    refine .log ?_
    unfold s2
    split <;> rfl
  split
  · exact h.trans (State.raise_logged _ _ _)
  · exact h

theorem State.writeRecords_logged (s : State) (l : List Record) : s.Logged (s.writeRecords l) := by
  induction l generalizing s with
  | nil => exact .refl s
  | cons r l ih => exact (s.writeRecord_logged r).trans (ih _)

theorem State.logStorm_logged (s : State) : s.Logged s.logStorm := by
  unfold State.logStorm
  dsimp only
  split
  · exact .log rfl
  · split
    · refine .trans (t := { s with evt := s.evt.newBeat true }) (.log rfl) ⟨rfl, fun o _ h => ?_, .refl _⟩
      rw [State.ctrGet_count, if_neg h]
    · exact .log rfl

/-- The close of a beat's log. -/
theorem State.endBeatLog_logged (s : State) : s.Logged s.endBeatLog :=
  (s.writeRecords_logged _).trans (State.logStorm_logged _)

/-- An event counted beside the recorder's own. -/
theorem State.count_other (s : State) {off o : Nat} (n : Nat) (h : o ≠ off) : (s.count off n).ctrGet o = s.ctrGet o := by
  rw [State.ctrGet_count, if_neg h]

/-! ### Causes -/

/-- A cause changes the causes of the attempt, or those kept for the next one. -/
theorem State.cause_only (s : State) (c : Nat) : ∃ l cs os, s.cause c =
    { s with lnk := { s.lnk with late := l }, stp := { s.stp with causes := cs, origins := os } } := by
  unfold State.cause State.causeAt State.keepLate
  split
  · split
    · exact ⟨s.lnk.late, s.stp.causes, s.stp.origins, rfl⟩
    · exact ⟨_, s.stp.causes, s.stp.origins, rfl⟩
  · split
    · exact ⟨s.lnk.late, _, _, rfl⟩
    · exact ⟨s.lnk.late, s.stp.causes, s.stp.origins, rfl⟩

/-- A cause raised in an attempt before its beat's window closes is one of the attempt's. -/
theorem State.mem_cause (s : State) (c : Nat) (ha : s.stp.active = true) (hc : s.afterClose = false) : c ∈ (s.cause c).stp.causes := by
  unfold State.cause State.causeAt
  rw [if_neg (by simp [ha, hc])]
  split
  · exact List.mem_cons_self
  · simp_all

/-! ### Numbers put among those of a list once -/

theorem mem_addOnce {l : List Nat} {n x : Nat} : x ∈ addOnce l n ↔ x ∈ l ∨ x = n := by
  unfold addOnce
  split
  · rename_i h
    have hn : n ∈ l := by simpa using h
    exact ⟨Or.inl, fun hx => hx.elim id (fun e => e ▸ hn)⟩
  · simp

theorem mem_foldl_addOnce {a b : List Nat} {x : Nat} : x ∈ b.foldl addOnce a ↔ x ∈ a ∨ x ∈ b := by
  induction b generalizing a with
  | nil => simp
  | cons n b ih =>
    rw [List.foldl_cons, ih, mem_addOnce, List.mem_cons, or_assoc]

end Sys2Proof.Machine
end

section
/-! What an error charged to a unit leaves as it was, and what its entry of the history then holds (R361 to R365). -/

namespace Sys2Proof.Machine

/-! ### The history -/

/-- Where some entry is the one looked for, and every such entry has been replaced, the new one is found. -/
theorem find?_map_replaced {α : Type} {p : α → Bool} {e : α} (he : p e = true) (l : List α) (h : l.any p = true) :
    (l.map (fun x => if p x then e else x)).find? p = some e := by
  induction l with
  | nil => simp at h
  | cons x l ih =>
    rw [List.map_cons, List.find?_cons]
    by_cases hx : p x = true
    · rw [if_pos hx, he]
    · rw [if_neg hx, Bool.eq_false_iff.mpr hx]
      refine ih ?_
      rwa [List.any_cons, Bool.eq_false_iff.mpr hx, Bool.false_or] at h

theorem putHist_unpooled (l : List UnitHist) (e : UnitHist) (h : pooled e.cls = false) :
    ∃ k, putHist l e = some k ∧ k.find? (fun x => x.cls == e.cls && x.unit == e.unit) = some e := by
  unfold putHist
  split
  · rename_i hany
    exact ⟨_, rfl, find?_map_replaced (by simp) l hany⟩
  · rename_i hany
    have hnone : l.find? (fun x => x.cls == e.cls && x.unit == e.unit) = none := by
      rw [List.find?_eq_none]
      intro x hx hm
      exact hany (List.any_eq_true.mpr ⟨x, hx, hm⟩)
    refine ⟨l ++ [e], by simp [h], ?_⟩
    simp [List.find?_append, hnone]

/-- An entry of a class that the pool does not hold is always written. -/
theorem State.hist?_setHist (s : State) (e : UnitHist) (h : pooled e.cls = false) : (s.setHist e).hist? e.cls e.unit = some e := by
  obtain ⟨k, hk, hfind⟩ := putHist_unpooled s.flt.hist e h
  unfold State.setHist
  rw [hk]
  exact hfind

theorem State.histOf_unit (s : State) (cls unit : Nat) : (s.histOf cls unit).cls = cls ∧ (s.histOf cls unit).unit = unit := by
  have h : ((s.hist? cls unit).getD (s.freshHist cls unit)).cls = cls ∧ ((s.hist? cls unit).getD (s.freshHist cls unit)).unit = unit := by
    cases hf : s.hist? cls unit with
    | none => exact ⟨rfl, rfl⟩
    | some e => simpa using List.find?_some hf
  unfold State.histOf
  dsimp only
  split <;> exact h

/-- The history of a unit does not change with the rest of the state. -/
theorem State.hist?_congr {s t : State} (h : t.flt.hist = s.flt.hist) (cls unit : Nat) : t.hist? cls unit = s.hist? cls unit := by
  unfold State.hist?
  rw [h]

/-! ### What a charge leaves as it was -/

/-- The counters that the charge of an error and its event may change. -/
def chargeCtrs : List Nat := [cRecCoal, cRecDrop, cPerm, cTrans, cHistLost]

/-- Errors have been charged, and nothing else has happened but that their events were logged, arrays of PERMANENT units are QUARANTINED,
and the device may have to leave. -/
structure State.Charged (s t : State) : Prop where
  only : t = { s with ctr := t.ctr, hif := t.hif, sbm := t.sbm, evt := t.evt, ana := { s.ana with arrays := t.ana.arrays },
                      flt := { s.flt with hist := t.flt.hist, lostNext := t.flt.lostNext, lostTick := t.flt.lostTick } }
  ctr : ∀ o, o ∉ chargeCtrs → t.ctrGet o = s.ctrGet o
  hif : s.hif.OnlySignals t.hif

theorem State.Charged.refl (s : State) : s.Charged s := ⟨rfl, fun _ _ => rfl, .refl _⟩

theorem State.Charged.trans {s t u : State} (h : s.Charged t) (k : t.Charged u) : s.Charged u := by
  refine ⟨?_, fun o ho => (k.ctr o ho).trans (h.ctr o ho), h.hif.trans k.hif⟩
  have hk := k.only
  rw [h.only] at hk
  exact hk

theorem State.Logged.charged {s t : State} (h : s.Logged t) : s.Charged t := by
  have hana : t.ana = s.ana := by rw [h.only]
  have hflt : t.flt = s.flt := h.flt
  refine ⟨?_, fun o ho => h.ctr o (fun e => ho (by simp [e, chargeCtrs])) (fun e => ho (by simp [e, chargeCtrs])), h.hif⟩
  rw [hana, hflt]
  exact h.only

theorem State.Charged.stp {s t : State} (h : s.Charged t) : t.stp = s.stp := by rw [h.only]
theorem State.Charged.lnk {s t : State} (h : s.Charged t) : t.lnk = s.lnk := by rw [h.only]
theorem State.Charged.pwr {s t : State} (h : s.Charged t) : t.pwr = s.pwr := by rw [h.only]
theorem State.Charged.mem {s t : State} (h : s.Charged t) : t.mem = s.mem := by rw [h.only]
theorem State.Charged.store {s t : State} (h : s.Charged t) : t.store = s.store := by rw [h.only]
theorem State.Charged.free {s t : State} (h : s.Charged t) : t.free = s.free := by rw [h.only]

/-- One event counted where charges are. -/
theorem State.count_charged (s : State) {off : Nat} (n : Nat) (h : off ∈ chargeCtrs) : s.Charged (s.count off n) := by
  refine ⟨?_, fun o ho => s.count_other n (fun e => ho (e ▸ h)), by rw [State.count_hif]; exact .refl _⟩
  unfold State.count
  split <;> rfl

theorem State.setHist_charged (s : State) (e : UnitHist) : s.Charged (s.setHist e) := by
  unfold State.setHist
  split
  · exact ⟨rfl, fun _ _ => rfl, .refl _⟩
  · exact s.count_charged 1 (by decide)

theorem State.setArray_charged (s : State) (a : Nat) (x : ArrayS) : s.Charged (s.setArray a x) :=
  ⟨rfl, fun _ _ => rfl, .refl _⟩

/-- An error charged to a unit: the entry written, its events and counts, and what is done with the unit once it is PERMANENT. -/
theorem State.chargeErr_cases (s : State) (cls unit code : Nat) (dt : Bool) : ∃ u, s.Charged u
    ∧ u.flt.hist = (s.setHist (UnitHist.withError (s.histOf cls unit) s.hour256 code dt)).flt.hist
    ∧ (s.chargeErr cls unit code dt = u ∨ s.chargeErr cls unit code dt = u.permanent cls unit) := by
  generalize he : UnitHist.withError (s.histOf cls unit) s.hour256 code dt = e
  have hset := s.setHist_charged e
  unfold State.chargeErr
  simp only [he]
  split
  · refine ⟨_, (hset.trans (State.count_charged _ 1 (by decide))).trans (State.raiseU_logged _ _ _ _).charged, ?_, Or.inr rfl⟩
    rw [State.raiseU_flt, State.count_flt]
  · split
    · exact ⟨_, hset.trans (State.count_charged _ 1 (by decide)), by rw [State.count_flt], Or.inl rfl⟩
    · exact ⟨_, hset, rfl, Or.inl rfl⟩

/-- The entry that a charge leaves, of a class that the pool does not hold. -/
theorem State.charged_entry (s u : State) {cls unit code : Nat} {dt : Bool} (h : pooled cls = false)
    (hu : u.flt.hist = (s.setHist (UnitHist.withError (s.histOf cls unit) s.hour256 code dt)).flt.hist) :
    u.hist? cls unit = some (UnitHist.withError (s.histOf cls unit) s.hour256 code dt) := by
  obtain ⟨hc, hn⟩ := s.histOf_unit cls unit
  have hset := s.hist?_setHist (UnitHist.withError (s.histOf cls unit) s.hour256 code dt) (by
    change pooled (s.histOf cls unit).cls = false
    rw [hc]
    exact h)
  rw [State.hist?_congr hu]
  change (s.setHist _).hist? (s.histOf cls unit).cls (s.histOf cls unit).unit = _ at hset
  rwa [hc, hn] at hset

/-- A device of GDDR7 that is PERMANENT makes this device leave at the next step boundary, and no more (R365). -/
theorem State.chargeErr_gddr (s : State) (dev code : Nat) (dt : Bool) : s.Charged (s.chargeErr uGddr dev code dt) := by
  obtain ⟨u, hu, -, h | h⟩ := s.chargeErr_cases uGddr dev code dt
  · rw [h]
    exact hu
  · rw [h]
    exact hu.trans ⟨rfl, fun _ _ => rfl, .refl _⟩

/-- An array that is PERMANENT is QUARANTINED (R365). -/
theorem State.chargeErr_array (s : State) (a code : Nat) (dt : Bool) : s.Charged (s.chargeErr uArray a code dt) := by
  obtain ⟨u, hu, -, h | h⟩ := s.chargeErr_cases uArray a code dt
  · rw [h]
    exact hu
  · rw [h]
    exact hu.trans (State.setArray_charged _ _ _)

/-! ### Codewords of GDDR7 (R323) -/

/-- A corrected codeword: counted, and its device's count of corrected events with it. -/
theorem State.memCe_one (s : State) (r off : Nat) : ∃ u, s.memCe [(r, off)] = u ∧ u.ctrGet cMemCe = satAdd (s.ctrGet cMemCe) 1
    ∧ u.ctrGet cPatrolFix = s.ctrGet cPatrolFix ∧ u.store = s.store ∧ u.mem = s.mem := by
  generalize hv : s.count cMemCe 1 = v
  have hset := v.setHist_charged { v.histOf uGddr (s.deviceOf r off) with
    ce := min 0xFFFFFFFF ((v.histOf uGddr (s.deviceOf r off)).ce + 1) }
  have hu : s.memCe [(r, off)] = v.setHist { v.histOf uGddr (s.deviceOf r off) with
      ce := min 0xFFFFFFFF ((v.histOf uGddr (s.deviceOf r off)).ce + 1) } := by
    change (s.count cMemCe 1).chargeCe uGddr (s.deviceOf r off) 1 = _
    rw [hv]
    rfl
  refine ⟨_, hu, ?_, ?_, ?_, ?_⟩
  · rw [hset.ctr _ (by decide), ← hv, State.ctrGet_count, if_pos rfl]
  · rw [hset.ctr _ (by decide), ← hv, s.count_other 1 (by decide)]
  · rw [hset.store, ← hv, State.count_store]
  · rw [hset.mem, ← hv, State.count_mem]

theorem State.bankLoss_charged (s : State) (r off : Nat) : s.Charged (s.bankLoss r off) := by
  unfold State.bankLoss
  split
  · exact ⟨rfl, fun _ _ => rfl, .refl _⟩
  · exact .refl s

/-- What one uncorrectable codeword does: it is marked and counted, and its device charged. -/
theorem State.memUe_cons (s : State) (reader core : Nat) (x : Nat × Nat) (l : List (Nat × Nat)) : ∃ u,
    s.memUe reader core (x :: l) = u.memUe reader core l
    ∧ State.Charged (State.count { s with mem := { s.mem with
        poison := if s.mem.poison.contains (x.1, x.2 / 32) then s.mem.poison else (x.1, x.2 / 32) :: s.mem.poison } } cMemUe 1) u :=
  ⟨_, rfl, ((State.raiseU_logged _ _ _ _).charged.trans (State.chargeErr_gddr _ _ _ _)).trans (State.bankLoss_charged _ _ _)⟩

/-- One uncorrectable codeword read. -/
theorem State.memUe_one (s : State) (reader core r off : Nat) : ∃ u, s.memUe reader core [(r, off)] = u
    ∧ u.ctrGet cMemUe = satAdd (s.ctrGet cMemUe) 1 ∧ u.ctrGet cPatrolFix = s.ctrGet cPatrolFix ∧ u.store = s.store
    ∧ (r, off / 32) ∈ u.mem.poison := by
  obtain ⟨u, hu, hc⟩ := s.memUe_cons reader core (r, off) []
  refine ⟨u, hu, ?_, ?_, by rw [hc.store, State.count_store], ?_⟩
  · rw [hc.ctr _ (by decide), State.ctrGet_count, if_pos rfl]
    rfl
  · rw [hc.ctr _ (by decide), State.count_other _ 1 (by decide)]
    rfl
  · rw [hc.mem, State.count_mem]
    dsimp only
    split
    · simp_all
    · exact List.mem_cons_self

end Sys2Proof.Machine
end

section
/-! The tickets of group 0x09 (R25, R262, R302, R355): the domain, its groups and its beat. -/

namespace Sys2Proof.Machine

/-! ### Ports that train again -/

theorem State.startTraining_hif (s : State) (p : Nat) : (s.startTraining p).hif = s.hif := by
  have put (x : Port) : (s.putPort p x).noteDowns.hif = s.hif := by rw [(State.noteDowns_traffic _).hif, State.putPort_hif]
  unfold State.startTraining
  dsimp only
  split
  · rw [(State.noteDowns_traffic _).hif, (State.dropWaiting_traffic _ _).hif, State.putPort_hif]
  · split
    · rfl
    · split
      · exact put _
      · exact put _

theorem State.retrainPorts_hif (s : State) (l : List Nat) : (s.retrainPorts l).hif = s.hif := by
  induction l generalizing s with
  | nil => rfl
  | cons p l ih =>
    unfold State.retrainPorts
    rw [ih]
    split
    · rfl
    · rw [State.startTraining_hif, State.putPort_hif]

/-! ### Tickets of group 0x09 -/

/-- A ticket that a free mailbox admits is alone in it. -/
theorem MailboxFree.idle_admits {s : State} {op : Half} {k : Ticket} (h : MailboxFree s op k) : (s.admits op k).hif.Idle := by
  obtain ⟨rs, hrs⟩ := s.admits_eq op k
  rw [hrs]
  exact ⟨h.waits, h.deletes, h.alone⟩

/-- A ticket with nothing beside it whose own effect is a change of the state and a completion. -/
theorem State.submit_plain {s u : State} {op : Half} {k : Ticket} {n a st : Nat} {q : Bool} {res : List Word}
    (h : TicketOk s op k n a) (he : opEntry op = some (n, a, q))
    (hu : (s.admits op k).runTicket (plain op k) = u.complete (plain op k) st res) (hi : u.hif.Idle) :
    s.submit (plain op k) = u.post op k st res :=
  State.submit_ends (plain op k) rfl rfl h he hu hi.runs hi.waits hi.deletes

theorem exec_domainSet (k : Ticket) (s : State) : exec (.domainSet k) s = .next (s.submit (plain 0x0901 k)) := rfl

/-- The change that DOMAIN_SET makes, before the ports train again. -/
def State.inDomainOf (s : State) (k : Ticket) : State :=
  { s with
    lnk := { s.lnk with dimX := par k 0, dimY := par k 1, dimZ := par k 2, cx := par k 3, cy := par k 4, cz := par k 5,
                        domain := true, master := par k 6, standby := if par k 7 = 0xFFFF then none else some (par k 7),
                        beat := 0, flywheel := false, missed := 0, tickRx := none, merged := none, forwarded := [],
                        reported := [], windowOpen := false, stretch := 0, stretchRun := 0, gen := 0, routes := [], genNext := none,
                        dead := [], downs := [], late := [], silent := [] },
    flt := { s.flt with recov := [], restored := [] },
    pwr := { s.pwr with tickDriven := false } }

theorem State.okT_eq (u : State) (w : WaitTicket) (res : List Word) : u.okT w res = u.complete w 0 res := rfl

theorem State.tkDomainSet_ok (u : State) (w : WaitTicket) (hb : domainBad w.t = none) (hr : u.runningRecipe = none) :
    u.tkDomainSet w = ((u.inDomainOf w.t).retrainPorts (List.range 6)).complete w 0 [] := by
  unfold State.tkDomainSet
  rw [hb]
  simp only [hr, Option.isSome_none, Bool.false_eq_true, if_false, State.okT_eq]
  rfl

theorem State.tkGroupDefine_ok (u : State) (w : WaitTicket) {bs : List Byte} {g : Nat × Group} (hb : bufBytes w.t (bufLen w.t) = some bs)
    (hl : 16 + 4 * (listWord bs 2).toNat ≤ bufLen w.t) (hg : u.groupFrom bs = some g) :
    u.tkGroupDefine w = ({ u with rcp := { u.rcp with pending := u.rcp.pending ++ [(g.1, some g.2)] } }).complete w 0 [] := by
  unfold State.tkGroupDefine
  rw [hb]
  dsimp only
  rw [if_neg (by omega), hg]
  rfl

theorem State.tkGroupDelete_ok (u : State) (w : WaitTicket)
    (hg : (Tab.find (applyGroups u.rcp.groups u.rcp.pending) (par w.t 0)).isSome = true) :
    u.tkGroupDelete w = ({ u with rcp := { u.rcp with pending := u.rcp.pending ++ [(par w.t 0, none)] } }).complete w 0 [] := by
  unfold State.tkGroupDelete
  rw [← Option.not_isSome, hg]
  rfl

theorem State.tkBeatSet_ok (u : State) (w : WaitTicket) (h1 : 50 ≤ par w.t 0) (h2 : par w.t 0 ≤ 1000) (hr : u.runningRecipe = none) :
    u.tkBeatSet w = ({ u with lnk := { u.lnk with period := par w.t 0 } }).complete w 0 [] := by
  unfold State.tkBeatSet
  rw [if_neg (by omega), hr]
  rfl

theorem State.tkDomainJoin_ok (u : State) (w : WaitTicket) (hs : u.hif.state = .lost) (he : u.mem.evac = false) (ht : u.pwr.therm ≠ 4)
    (hd : u.flt.degraded = false) :
    u.tkDomainJoin w = (({ u with lnk := { u.lnk with dead := u.lnk.dead.filter (fun d => d != u.device) },
                                  flt := { u.flt with lostNext := false, lostTick := false } }).setState .ready).complete w 0 [] := by
  unfold State.tkDomainJoin
  rw [if_neg (by simp [hs, he, ht, hd])]
  rfl

/-- Admitting a ticket leaves all but the rails. -/
theorem State.admits_same (s : State) (op : Half) (k : Ticket) : (s.admits op k).lnk = s.lnk ∧ (s.admits op k).rcp = s.rcp
    ∧ (s.admits op k).flt = s.flt ∧ (s.admits op k).pwr = s.pwr ∧ (s.admits op k).mem = s.mem
    ∧ (s.admits op k).hif.state = s.hif.state := by
  obtain ⟨rs, hrs⟩ := s.admits_eq op k
  rw [hrs]
  exact ⟨rfl, rfl, rfl, rfl, rfl, rfl⟩

theorem State.runningRecipe_congr {s u : State} (h : u.rcp = s.rcp) : u.runningRecipe = s.runningRecipe := by
  unfold State.runningRecipe State.recipe
  rw [h]

theorem State.groupFrom_congr {s u : State} (hr : u.rcp = s.rcp) (hl : u.lnk = s.lnk) (bs : List Byte) : u.groupFrom bs = s.groupFrom bs := by
  unfold State.groupFrom State.device
  rw [hr, hl]

/-- Settles O10: each ticket's own effect leaves the mailbox idle, and ends in a completion. -/
theorem domainTicketsTakeEffect : Obligations.DomainTicketsTakeEffect := by
  unfold Obligations.DomainTicketsTakeEffect
  intro s k
  refine ⟨fun h hb hr => ?_, fun b g h hbuf hl hg => ?_, fun h hg => ?_, fun h h1 h2 hr => ?_, fun h hs he ht hd => ?_⟩
  · have hi := h.free.idle_admits
    obtain ⟨hlnk, hrcp, hflt, hpwr, -⟩ := s.admits_same 0x0901 k
    rw [exec_domainSet, State.submit_plain (q := true) h rfl
      (State.tkDomainSet_ok _ (plain 0x0901 k) hb ((State.runningRecipe_congr hrcp).trans hr)) (by rw [State.retrainPorts_hif]; exact hi)]
    unfold State.inDomainOf
    rw [hlnk, hflt, hpwr]
    rfl
  · have hi := h.free.idle_admits
    obtain ⟨hlnk, hrcp, -⟩ := s.admits_same 0x0902 k
    rw [← hrcp]
    exact congrArg _ (State.submit_plain (q := true) h rfl
      (State.tkGroupDefine_ok _ (plain 0x0902 k) (by simp only [bufBytes, plain, hbuf]) hl ((State.groupFrom_congr hrcp hlnk _).trans hg)) hi)
  · have hi := h.free.idle_admits
    obtain ⟨-, hrcp, -⟩ := s.admits_same 0x0903 k
    rw [← hrcp] at hg ⊢
    exact congrArg _ (State.submit_plain (q := true) h rfl (State.tkGroupDelete_ok _ (plain 0x0903 k) hg) hi)
  · have hi := h.free.idle_admits
    obtain ⟨hlnk, hrcp, -⟩ := s.admits_same 0x0904 k
    rw [← hlnk]
    exact congrArg _ (State.submit_plain (q := true) h rfl
      (State.tkBeatSet_ok _ (plain 0x0904 k) h1 h2 ((State.runningRecipe_congr hrcp).trans hr)) hi)
  · have hi := h.free.idle_admits
    obtain ⟨hlnk, -, hflt, hpwr, hmem, hst⟩ := s.admits_same 0x0905 k
    have hdev : s.device = (s.admits 0x0905 k).device := by
      unfold State.device
      rw [hlnk]
    rw [hdev, ← hlnk, ← hflt]
    exact congrArg _ (State.submit_plain (q := true) h rfl
      (State.tkDomainJoin_ok _ (plain 0x0905 k) (hst.trans hs) (hmem ▸ he) (hpwr ▸ ht) (hflt ▸ hd)) (State.setState_idle _ _ hi))

end Sys2Proof.Machine
end

section
/-! Rails and domains (R396 to R398): a domain lost while the device is LOST already. -/

namespace Sys2Proof.Machine

/-- A device that is LOST with READY still asserted, its rails up and its start-up over: no history of the module leads here, but the
statement speaks of every state. -/
def lostButReady : State :=
  { State.reset with
    hif := { Hif.reset with state := .lost, ready := true },
    pwr := { Pwr.reset with aon := true, pwrgood := true } }

/-- The second failure of domain 16, the fabric of die 0 (R397), leaves READY asserted: STATE does not change, and READY changes with it
alone. -/
theorem lostButReady_stays_ready :
    ∃ t, exec (.domainRetry 16 false asWritten) lostButReady = .next t ∧ t.hif.ready = true :=
  ⟨_, rfl, by decide⟩

/-- Refutes O24: its last clause says that READY is false after a second failure of a domain whose loss makes the device LOST. Its
hypotheses leave out FAULT but not LOST, and READY changes only where STATE does: of a device that is LOST already, READY stays as it
stood, which no hypothesis of the clause says. -/
theorem not_railsAndDomainsComeUp : ¬ Obligations.RailsAndDomainsComeUp := by
  unfold Obligations.RailsAndDomainsComeUp
  intro h
  obtain ⟨-, hdom⟩ := h lostButReady 0
  obtain ⟨-, -, -, -, hlost⟩ := hdom 16 asWritten (by decide) rfl
  obtain ⟨t, ht, -, -, hready⟩ := hlost (Or.inl (by decide)) rfl (by decide) rfl rfl rfl rfl rfl
  obtain ⟨u, hu, hstays⟩ := lostButReady_stays_ready
  rw [hu] at ht
  cases ht
  exact absurd (hstays.symm.trans hready) (by decide)

end Sys2Proof.Machine
end

section
/-! Windows, reports and the master (R29, R284, R304, R306, R307, R309). -/

namespace Sys2Proof.Machine

/-! ### Reports merged -/

theorem mem_union {a b : List Nat} {x : Nat} : x ∈ union a b ↔ x ∈ a ∨ x ∈ b :=
  mem_foldl_addOnce

/-- A report added to what is merged holds its own devices and causes and those merged before. -/
theorem State.addReport_spec (s : State) (r : Report) : ∃ m, s.addReport r = { s with lnk := { s.lnk with merged := some m } }
    ∧ (∀ d ∈ r.devs, d ∈ m.devs) ∧ (∀ c ∈ r.causes, c ∈ m.causes)
    ∧ ∀ q, s.lnk.merged = some q → (∀ d ∈ q.devs, d ∈ m.devs) ∧ (∀ c ∈ q.causes, c ∈ m.causes) := by
  unfold State.addReport
  cases hq : s.lnk.merged with
  | none => exact ⟨r, rfl, fun _ h => h, fun _ h => h, fun _ h => absurd h (by simp)⟩
  | some q =>
    refine ⟨Report.merge q r, rfl, fun d h => mem_union.mpr (Or.inr h), fun c h => mem_union.mpr (Or.inr h), fun p hp => ?_⟩
    cases hp
    exact ⟨fun d h => mem_union.mpr (Or.inl h), fun c h => mem_union.mpr (Or.inl h)⟩

/-! ### Reports sent up the tree -/

theorem State.hopsTo_merged (s : State) (x : Option Report) (r : Route) (fuel dev dst : Nat) (via : Option Nat) :
    State.hopsTo { s with lnk := { s.lnk with merged := x } } r fuel dev dst via = s.hopsTo r fuel dev dst via := by
  induction fuel generalizing dev via with
  | zero => rfl
  | succ n ih =>
    unfold State.hopsTo
    split
    · rfl
    · have hr : (State.seenFrom { s with lnk := { s.lnk with merged := x } } dev).routeOf r dst via
          = (s.seenFrom dev).routeOf r dst via := rfl
      rw [hr]
      split
      · rfl
      · rw [ih]
        rfl

/-- The way to the parent does not depend on what is merged. -/
theorem State.parentPort_merged (s : State) (x : Option Report) :
    State.parentPort { s with lnk := { s.lnk with merged := x } } = s.parentPort := by
  unfold State.parentPort State.fromMasterTo
  rw [State.hopsTo_merged]
  rfl

theorem State.sendReport_open (s : State) (h : s.lnk.windowOpen = true) : s.sendReport = s := by
  unfold State.sendReport
  rw [if_pos h]

/-- With the window closed, what is merged is noted and goes to the parent. -/
theorem State.sendReport_up (s : State) {r : Report} {p : Nat} (hw : s.lnk.windowOpen = false) (hr : s.lnk.merged = some r)
    (hp : s.parentPort = some p) :
    State.Traffic { s with lnk := { s.lnk with reported := s.lnk.reported ++ [(p, r)] } } s.sendReport := by
  unfold State.sendReport
  rw [hw, hr, hp]
  exact State.sendVc0_traffic _ _ _

/-- Whatever is sent up, only what has been reported and the packets change. -/
theorem State.sendReport_traffic (s : State) :
    ∃ l, State.Traffic { s with lnk := { s.lnk with reported := l } } s.sendReport := by
  unfold State.sendReport
  split
  · exact ⟨s.lnk.reported, .refl s⟩
  · split
    · exact ⟨_, State.sendVc0_traffic _ _ _⟩
    · exact ⟨s.lnk.reported, .refl s⟩

/-- BEAT_REPORT where nothing has been merged. -/
theorem State.addReport_first (s : State) (r : Report) (h : s.lnk.merged = none) :
    s.addReport r = { s with lnk := { s.lnk with merged := some r } } := by
  unfold State.addReport
  rw [h]

/-- BEAT_REPORT where a report has been merged. -/
theorem State.addReport_next (s : State) (r : Report) {q : Report} (h : s.lnk.merged = some q) :
    s.addReport r = { s with lnk := { s.lnk with merged := some (Report.merge q r) } } := by
  unfold State.addReport
  rw [h]

/-- A report with the window closed goes up. -/
theorem State.report_goes_up (s : State) (m : Report) {p : Nat} (hw : s.lnk.windowOpen = false) (hp : s.parentPort = some p) :
    State.Traffic { s with lnk := { s.lnk with merged := some m, reported := s.lnk.reported ++ [(p, m)] } }
      (State.sendReport { s with lnk := { s.lnk with merged := some m } }) :=
  State.sendReport_up { s with lnk := { s.lnk with merged := some m } } hw rfl ((s.parentPort_merged _).trans hp)

/-! ### Work still running -/

/-- What a close discards of the work still running. -/
structure State.Overrun (s t : State) : Prop where
  overrun : t.ctrGet cOverrun = satAdd (s.ctrGet cOverrun) 1
  coll : t.coll.running = []
  waiting : t.stp.waiting = []
  cause : s.stp.active = true → 1 ∈ t.stp.causes

/-- Work still running is discarded and counted, and a cause of replay; the window and what is merged stay as they are. -/
theorem State.overrun_spec (s : State) (o : WinObs) (hw : s.lnk.windowOpen = true) (h : o.busy ≠ [] ∨ o.linkResend = true) :
    s.Overrun (s.overrun o) ∧ ∃ l, (s.overrun o).lnk = { s.lnk with late := l } := by
  have hc : (o.busy.isEmpty && !o.linkResend) = false := by
    rcases h with h | h <;> simp [h]
  have hlog := s.raise_logged 0x6001 (s.overrunWords o)
  generalize hu : (s.raise 0x6001 (s.overrunWords o)).count cOverrun 1 = u
  have hlnk : u.lnk = s.lnk := by rw [← hu, State.count_lnk, hlog.lnk]
  have hstp : u.stp = s.stp := by rw [← hu, State.count_stp, hlog.stp]
  have hafter : u.afterClose = false := by
    unfold State.afterClose
    rw [hlnk, hw]
    simp
  have ht : s.overrun o = (u.cause 1).dropWork := by
    unfold State.overrun
    rw [hc, hu]
    rfl
  obtain ⟨l, cs, os, hcause⟩ := u.cause_only 1
  rw [ht]
  refine ⟨⟨?_, rfl, rfl, fun ha => u.mem_cause 1 (hstp ▸ ha) hafter⟩, l, ?_⟩
  · change (u.cause 1).ctrGet cOverrun = _
    unfold State.ctrGet
    rw [State.cause_ctr, ← hu]
    change ((s.raise 0x6001 (s.overrunWords o)).count cOverrun 1).ctrGet cOverrun = _
    rw [State.ctrGet_count, if_pos rfl, hlog.ctr _ (by decide) (by decide)]
    rfl
  · change (u.cause 1).lnk = _
    rw [hcause, hlnk]

/-- A close with nothing left running. -/
theorem State.overrun_none (s : State) (o : WinObs) (hb : o.busy = []) (hl : o.linkResend = false) : s.overrun o = s := by
  unfold State.overrun
  simp [hb, hl]

/-! ### The close of a window -/

/-- The device's report names it and the cause of an overrun. -/
theorem State.report_spec (s : State) (o : WinObs) : s.device ∈ (s.report o).devs ∧ (1 ∈ s.stp.causes → 1 ∈ (s.report o).causes) := by
  refine ⟨List.mem_singleton.mpr rfl, fun h => ?_⟩
  change 1 ∈ s.openCauses
  unfold State.openCauses
  split
  · exact h
  · simpa using h

/-- A window closed after the work still running has been discarded: the device's report is merged, and the counters, the collectives and
the attempt are as the discard left them. -/
theorem State.windowClose_spec (s : State) (o : WinObs) (hw : s.lnk.windowOpen = true) (u : State)
    (hu : s.overrun (s.stillRunning o) = u) (hm : u.lnk.merged = s.lnk.merged) (hdev : u.device = s.device) :
    ∃ t r, exec (.windowClose o) s = .next t ∧ t.lnk.windowOpen = false ∧ t.lnk.merged = some r ∧ s.device ∈ r.devs
      ∧ (∀ q, s.lnk.merged = some q → (∀ d ∈ q.devs, d ∈ r.devs) ∧ (∀ c ∈ q.causes, c ∈ r.causes))
      ∧ t.ctrGet cOverrun = u.ctrGet cOverrun ∧ t.coll = u.coll ∧ t.stp = { u.stp with compares := [] }
      ∧ (1 ∈ u.stp.causes → 1 ∈ r.causes) := by
  have hlog := u.endBeatLog_logged
  generalize hv : u.endBeatLog = v at hlog
  obtain ⟨r, hadd, hdevs, hcauses, hold⟩ := State.addReport_spec
    { v with lnk := { v.lnk with windowOpen := false }, pwr := { v.pwr with stretchReq := dutyStretch v.pwr.lowDuty } } (v.report o)
  obtain ⟨hself, hone⟩ := v.report_spec o
  generalize hx : ({ v with
    lnk := { v.lnk with windowOpen := false, merged := some r }, pwr := { v.pwr with stretchReq := dutyStretch v.pwr.lowDuty },
    stp := { v.stp with compares := [] } } : State) = x
  have hexec : exec (.windowClose o) s = .next x.sendReport.askFrames := by
    change execWindowClose o s = _
    unfold execWindowClose
    simp only [hw, Bool.not_true, Bool.false_eq_true, if_false, hu, hv, hadd, ← hx]
  obtain ⟨l, hsend⟩ := x.sendReport_traffic
  have hend := hsend.trans (State.askFrames_traffic _)
  have hvdev : v.device = s.device := by
    rw [← hdev]
    unfold State.device
    rw [hlog.lnk]
  refine ⟨_, r, hexec, ?_, ?_, hdevs _ (hvdev ▸ hself), fun q hq => hold q (by rw [← hq, ← hm, ← hlog.lnk]), ?_, ?_, ?_, fun h => ?_⟩
  · rw [hend.only, ← hx]
  · rw [hend.only, ← hx]
  · rw [hend.ctr _ (by decide), ← hlog.ctr _ (by decide) (by decide), ← hx]
    rfl
  · rw [hend.coll, ← hlog.coll, ← hx]
  · rw [hend.stp, ← hlog.stp, ← hx]
  · exact hcauses _ (hone (by rw [hlog.stp]; exact h))

/-- WINDOW_CLOSE with the window open. -/
theorem State.windowClose_reports (s : State) (o : WinObs) (hw : s.lnk.windowOpen = true) :
    ∃ t r, exec (.windowClose o) s = .next t ∧ t.lnk.windowOpen = false ∧ t.lnk.merged = some r ∧ s.device ∈ r.devs
      ∧ (∀ q, s.lnk.merged = some q → (∀ d ∈ q.devs, d ∈ r.devs) ∧ (∀ c ∈ q.causes, c ∈ r.causes))
      ∧ (o.busy = [] → (s.stillRunning o).linkResend = false → t.ctrGet cOverrun = s.ctrGet cOverrun ∧ t.stp.causes = s.stp.causes)
      ∧ (o.busy ≠ [] ∨ (s.stillRunning o).linkResend = true → t.ctrGet cOverrun = satAdd (s.ctrGet cOverrun) 1
        ∧ t.coll.running = [] ∧ t.stp.waiting = [] ∧ (s.stp.active = true → 1 ∈ t.stp.causes ∧ 1 ∈ r.causes)) := by
  by_cases hrun : o.busy ≠ [] ∨ (s.stillRunning o).linkResend = true
  · obtain ⟨hover, l, hl⟩ := s.overrun_spec (s.stillRunning o) hw hrun
    obtain ⟨t, r, he, h1, h2, h3, h4, hctr, hcoll, hstp, hone⟩ := s.windowClose_spec o hw _ rfl (by rw [hl]) (by
      unfold State.device
      rw [hl])
    refine ⟨t, r, he, h1, h2, h3, h4, fun hb hk => ?_, fun _ => ?_⟩
    · rcases hrun with h | h
      · exact absurd hb h
      · exact absurd (hk.symm.trans h) (by decide)
    · refine ⟨hctr.trans hover.overrun, hcoll ▸ hover.coll, by rw [hstp]; exact hover.waiting, fun ha => ⟨?_, hone (hover.cause ha)⟩⟩
      rw [hstp]
      exact hover.cause ha
  · obtain ⟨hb, hk⟩ := not_or.mp hrun
    have hnone := s.overrun_none (s.stillRunning o) (not_not.mp hb) (Bool.eq_false_iff.mpr hk)
    obtain ⟨t, r, he, h1, h2, h3, h4, hctr, -, hstp, -⟩ := s.windowClose_spec o hw s hnone rfl rfl
    exact ⟨t, r, he, h1, h2, h3, h4, fun _ _ => ⟨hctr, by rw [hstp]⟩, fun h => absurd h hrun⟩

/-! ### Stretch and the master -/

/-- The master that takes over sends a new table, which leaves the master, the standby and the missed ticks as they are. -/
theorem State.rebuild_master (s : State) (l : List Word) : ((s.rebuild).raise 0x6008 l).lnk.master = s.lnk.master
    ∧ ((s.rebuild).raise 0x6008 l).lnk.standby = s.lnk.standby ∧ ((s.rebuild).raise 0x6008 l).lnk.missed = s.lnk.missed := by
  rw [(State.raise_logged _ _ _).lnk, (s.rebuild_traffic).only]
  exact ⟨rfl, rfl, rfl⟩

/-- MASTER_CHANGE after two missed ticks. -/
theorem exec_masterChange (s : State) (h : 2 ≤ s.lnk.missed) : ∃ t, exec .masterChange s = .next t ∧ t.lnk.missed = 0
    ∧ t.lnk.standby = none ∧ t.lnk.master = (match s.lnk.standby with
      | some d => d
      | none => (s.liveDevs.find? (fun d => d != s.lnk.master)).getD s.lnk.master) := by
  change ∃ t, execMasterChange s = .next t ∧ _
  unfold execMasterChange
  rw [if_neg (Nat.not_lt.mpr h)]
  extract_lets n lnk s1
  refine ⟨_, rfl, ?_⟩
  split
  · obtain ⟨hm, hs, hmiss⟩ := s1.rebuild_master []
    exact ⟨hmiss, hs, hm⟩
  · exact ⟨rfl, rfl, rfl⟩

/-- Settles O42: the close by what it discards and reports, the reports by what they merge, and the master's own commands by their cases. -/
theorem windowsCloseAndReport : Obligations.WindowsCloseAndReport := by
  unfold Obligations.WindowsCloseAndReport
  intro s
  refine ⟨fun o hw => ?_, fun o hw => s.windowClose_reports o hw, fun r hm hw => ?_, fun r p hm hw hp => ?_, fun r q hm => ?_,
    fun r hm hdev hrun hk => ?_, fun h => ?_, fun h => ?_, fun h => ?_⟩
  · change execWindowClose o s = _
    unfold execWindowClose
    rw [hw]
    rfl
  · change Host.Outcome.next (s.addReport r).sendReport = _
    rw [s.addReport_first r hm]
    exact congrArg Host.Outcome.next (State.sendReport_open _ hw)
  · change ∃ t, Host.Outcome.next (s.addReport r).sendReport = .next t ∧ _
    rw [s.addReport_first r hm]
    have hup := s.report_goes_up r hw hp
    refine ⟨_, rfl, ?_, ?_, ?_⟩
    · rw [hup.only]
    · rw [hup.only]
    · rw [hup.stp]
  · change ∃ t m, Host.Outcome.next (s.addReport r).sendReport = .next t ∧ _
    rw [s.addReport_next r hm]
    obtain ⟨l, hsend⟩ := State.sendReport_traffic { s with lnk := { s.lnk with merged := some (Report.merge q r) } }
    refine ⟨_, Report.merge q r, rfl, by rw [hsend.only], by rw [hsend.stp], fun hw => State.sendReport_open _ hw, fun p hw hp => ?_,
      rfl, rfl, rfl, fun _ => mem_union, fun _ => mem_union, fun _ => mem_union, fun _ => mem_union⟩
    rw [(s.report_goes_up (Report.merge q r) hw hp).only]
  · refine ⟨State.raise { s with lnk := { s.lnk with merged := some { r with k := 0 } } } 0x6006 [], ?_, (State.raise_logged _ _ _).lnk⟩
    change execStretchLimit s = _
    unfold execStretchLimit
    simp only [hm, if_pos (And.intro hdev (And.intro hrun hk))]
  · change execStretchLimit s = _
    unfold execStretchLimit
    split
    · rfl
    · rename_i r hm
      rw [if_neg]
      rintro ⟨hdev, hrun, -⟩
      rcases h with h | h | h
      · omega
      · rw [h] at hm
        cases hm
      · exact h hdev
  · change execMasterChange s = _
    unfold execMasterChange
    rw [if_pos h]
  · obtain ⟨t, he, hmiss, hstand, hmaster⟩ := exec_masterChange s h
    refine ⟨t, he, hmiss, hstand, fun d hd => ?_, fun d hd hfind => ?_⟩
    · rw [hmaster, hd]
    · rw [hmaster, hd, hfind]
      rfl

end Sys2Proof.Machine
end

section
/-! Patrol, frame repair and the traffic generators (R28, R323, R324, R328, R335, R368). -/

namespace Sys2Proof.Machine

/-! ### Patrol (R323, R324) -/

/-- The period that the first frame of a pass brings in force (R332). -/
def State.patrolPass (s : State) (region frame : Nat) : State :=
  if s.passStarts region frame then { s with mem := { s.mem with patrol := s.mem.patrolNew } } else s

theorem State.patrolPass_store (s : State) (r f : Nat) : (s.patrolPass r f).store = s.store := by
  unfold State.patrolPass
  split <;> rfl

theorem State.patrolPass_ctrGet (s : State) (r f o : Nat) : (s.patrolPass r f).ctrGet o = s.ctrGet o := by
  unfold State.patrolPass
  split <;> rfl

theorem State.patrolPass_mem (s : State) (r f : Nat) :
    (s.patrolPass r f).mem.regions = s.mem.regions ∧ (s.patrolPass r f).mem.poison = s.mem.poison := by
  unfold State.patrolPass
  split <;> exact ⟨rfl, rfl⟩

/-- PATROL_SCRUB of a frame that patrol may not read, or of no region. -/
theorem exec_patrolScrub_stays (s : State) (r f : Nat) (g : MemObs) (lost : Bool)
    (h : (s.region r = none ∧ r < 64) ∨ ((s.region r).isSome = true ∧ s.mayPatrol r f = false)) :
    exec (.patrolScrub r f g lost) s = .next s := by
  change execPatrolScrub r f g lost s = _
  unfold execPatrolScrub
  rcases h with ⟨hr, hlt⟩ | ⟨hr, hm⟩
  · rw [hr]
    exact if_neg (Nat.not_le.mpr hlt)
  · obtain ⟨x, hx⟩ := Option.isSome_iff_exists.mp hr
    rw [hx]
    dsimp only
    rw [hm]
    rfl

/-- PATROL_SCRUB of a frame in which no codeword was marked. -/
theorem exec_patrolScrub_reads (s : State) (r f : Nat) (g : MemObs) (lost : Bool) (hr : (s.region r).isSome = true)
    (hm : s.mayPatrol r f = true) (hp : s.framePoison r f = []) : exec (.patrolScrub r f g lost) s = .next
      (if g.ce.isEmpty || !g.ue.isEmpty || lost then ((s.patrolPass r f).memCe g.ce).memUe rdBackground 0xFF g.ue
       else (((s.patrolPass r f).memCe g.ce).memUe rdBackground 0xFF g.ue).count cPatrolFix 1) := by
  obtain ⟨x, hx⟩ := Option.isSome_iff_exists.mp hr
  change execPatrolScrub r f g lost s = _
  unfold execPatrolScrub
  rw [hx]
  dsimp only
  rw [hm, hp]
  simp only [List.filter_nil, List.append_nil]
  rfl

/-- A frame in which nothing is found. -/
theorem exec_patrolScrub_clean (s : State) (r f : Nat) (lost : Bool) (hr : (s.region r).isSome = true) (hm : s.mayPatrol r f = true)
    (hp : s.framePoison r f = []) : exec (.patrolScrub r f { ce := [], ue := [] } lost) s = .next (s.patrolPass r f) :=
  exec_patrolScrub_reads s r f _ lost hr hm hp

/-- A frame with one corrected codeword. -/
theorem exec_patrolScrub_corrected (s : State) (r f o : Nat) (lost : Bool) (hr : (s.region r).isSome = true) (hm : s.mayPatrol r f = true)
    (hp : s.framePoison r f = []) : ∃ t, exec (.patrolScrub r f { ce := [(r, o)], ue := [] } lost) s = .next t
      ∧ t.ctrGet cPatrolFix = (if lost then s.ctrGet cPatrolFix else satAdd (s.ctrGet cPatrolFix) 1)
      ∧ t.ctrGet cMemCe = satAdd (s.ctrGet cMemCe) 1
      ∧ t.store = s.store ∧ t.mem.regions = s.mem.regions ∧ t.mem.poison = s.mem.poison := by
  obtain ⟨u, hu, hce, hfix, hstore, hmem⟩ := (s.patrolPass r f).memCe_one r o
  obtain ⟨hreg, hpoi⟩ := s.patrolPass_mem r f
  rw [s.patrolPass_ctrGet] at hce hfix
  rw [s.patrolPass_store] at hstore
  rw [← hmem] at hreg hpoi
  rw [exec_patrolScrub_reads s r f _ lost hr hm hp, hu]
  cases lost with
  | true => exact ⟨u, rfl, hfix, hce, hstore, hreg, hpoi⟩
  | false =>
    refine ⟨u.count cPatrolFix 1, rfl, ?_, ?_, ?_, ?_, ?_⟩
    · rw [State.ctrGet_count, if_pos rfl, hfix]
      rfl
    · rw [u.count_other 1 (by decide), hce]
    · rw [State.count_store, hstore]
    · rw [State.count_mem, hreg]
    · rw [State.count_mem, hpoi]

/-- A frame with one uncorrectable codeword. -/
theorem exec_patrolScrub_marked (s : State) (r f o : Nat) (lost : Bool) (hr : (s.region r).isSome = true) (hm : s.mayPatrol r f = true)
    (hp : s.framePoison r f = []) : ∃ t, exec (.patrolScrub r f { ce := [], ue := [(r, o)] } lost) s = .next t
      ∧ t.ctrGet cMemUe = satAdd (s.ctrGet cMemUe) 1 ∧ (r, o / 32) ∈ t.mem.poison ∧ t.store = s.store
      ∧ t.ctrGet cPatrolFix = s.ctrGet cPatrolFix := by
  obtain ⟨u, hu, hue, hfix, hstore, hpoi⟩ := (s.patrolPass r f).memUe_one rdBackground 0xFF r o
  rw [s.patrolPass_ctrGet] at hue hfix
  rw [s.patrolPass_store] at hstore
  refine ⟨u, ?_, hue, hpoi, hstore, hfix⟩
  rw [exec_patrolScrub_reads s r f _ lost hr hm hp, ← hu]
  rfl

/-! ### A frame repaired from a replica (R368) -/

theorem State.count_only (s : State) (off n : Nat) : s.count off n = { s with ctr := (s.count off n).ctr } := by
  unfold State.count
  split <;> rfl

/-- An access changes the counters alone. -/
theorem State.account_only (s : State) (r off n : Nat) (write : Bool) :
    s.account r off n write = { s with ctr := (s.account r off n write).ctr } := by
  unfold State.account
  dsimp only
  generalize shortFrames (((s.region r).map (·.spread)).getD 3) off n = k
  have h := (s.count cMemShort k).count_only cMemRmw (if write then k else 0)
  generalize ((s.count cMemShort k).count cMemRmw (if write then k else 0)).ctr = c at h ⊢
  rw [h, s.count_only cMemShort k]

theorem fld_at_top (k : Nat) (w : Word) (hk : k < 16) : fld (at_ k 28 ||| (w &&& 0x0FFFFFFF)) 31 28 = k := by
  have h : (w &&& 0x0FFFFFFF).toNat < 2 ^ 28 := by
    rw [BitVec.toNat_and]
    exact Nat.lt_of_le_of_lt Nat.and_le_right (by decide)
  unfold fld at_
  have hk' : k * 2 ^ 28 < 2 ^ 32 := by omega
  rw [BitVec.toNat_or, BitVec.toNat_ofNat, Nat.mod_eq_of_lt hk', Nat.mul_comm, ← Nat.two_pow_add_eq_or_of_lt h, Nat.mul_add_div (by decide),
    Nat.div_eq_of_lt h]
  omega

/-- The last recovery noted changes no more than that and the free values. -/
theorem State.recovered_only (s : State) (kind : Nat) :
    ∃ w n, s.recovered kind = { s with flt := { s.flt with lastRecov := at_ kind 28 ||| (w &&& 0x0FFFFFFF) }, free := n } :=
  ⟨_, _, rfl⟩

/-- FRAME_REPAIR of a marked frame of a committed bank by the member that repairs it. -/
theorem exec_frameRepair_holds (s : State) (r f src off : Nat) (data : List Byte) (hr : r < 64)
    (hoff : s.committedHalf r f * s.bankBytes r + 2048 * f = off) (hk : pairKind (s.regionKind r) = true) (hs : s.repairer = some src)
    (hp : s.poisonIn r off 2048 ≠ []) : ∃ t, exec (.frameRepair r f src data) s = .next t
      ∧ t.store.gddr = Mem.write s.store.gddr (gkey r off) (data.take 2048)
      ∧ t.mem.poison = clearPoison s.mem.poison r off (data.take 2048).length
      ∧ (s.stp.active = true → s.afterClose = false → 0xA ∈ t.stp.causes) ∧ fld t.flt.lastRecov 31 28 = 4 := by
  generalize ha : (s.rawWrite r off (data.take 2048)).account r off (data.take 2048).length true = a
  have honly := State.account_only (s.rawWrite r off (data.take 2048)) r off (data.take 2048).length true
  rw [ha] at honly
  have hlog := a.raiseU_logged 0xB009 0 []
  generalize hu : a.raiseU 0xB009 0 [] = u at hlog
  have hexec : exec (.frameRepair r f src data) s = .next ((u.cause 0xA).recovered 4) := by
    change execFrameRepair r f src data s = _
    unfold execFrameRepair
    have hpe : (s.poisonIn r off 2048).isEmpty = false := by simpa using hp
    rw [if_neg (Nat.not_le.mpr hr), hoff, hk, hs, hpe]
    simp only [beq_self_eq_true, Bool.not_false, Bool.and_self, if_true, ha, hu]
  obtain ⟨w, n, hrec⟩ := (u.cause 0xA).recovered_only 4
  refine ⟨_, hexec, ?_, ?_, fun hact hafter => ?_, ?_⟩
  · rw [hrec]
    change (u.cause 0xA).store.gddr = _
    rw [State.cause_store, hlog.only, honly]
    rfl
  · rw [hrec]
    change (u.cause 0xA).mem.poison = _
    rw [State.cause_mem, hlog.only, honly]
    rfl
  · rw [hrec]
    refine u.mem_cause 0xA ?_ ?_
    · rw [hlog.stp, honly]
      exact hact
    · unfold State.afterClose
      rw [hlog.pwr, hlog.lnk, honly]
      exact hafter
  · rw [hrec]
    exact fld_at_top 4 w (by decide)

/-- FRAME_REPAIR of a frame that is not marked, not a bank pair's, or not sent by the member that repairs. -/
theorem exec_frameRepair_stays (s : State) (r f src : Nat) (data : List Byte) (hr : r < 64)
    (h : pairKind (s.regionKind r) = false ∨ s.repairer ≠ some src
      ∨ s.poisonIn r (s.committedHalf r f * s.bankBytes r + 2048 * f) 2048 = []) : exec (.frameRepair r f src data) s = .next s := by
  change execFrameRepair r f src data s = _
  unfold execFrameRepair
  rw [if_neg (Nat.not_le.mpr hr), if_neg]
  rcases h with h | h | h <;> simp [h]

/-! ### Traffic generators (R335) -/

@[simp] theorem State.tgen_setTgen (s : State) (dev d : Nat) (x : TrafficGen) :
    (s.setTgen dev x).tgen d = if d = dev then x else s.tgen d := by
  unfold State.setTgen State.tgen
  by_cases h : d = dev
  · subst h
    simp
  · simp [h, Tab.get_put_other]

/-- A field below a bit that is set keeps its value. -/
theorem fld_or_bit (v : Word) {hi lo n : Nat} (hl : lo ≤ hi) (hn : hi < n) (h32 : n < 32) :
    fld (v ||| BitVec.ofNat 32 (2 ^ n)) hi lo = fld v hi lo := by
  have hp : 2 ^ n < 2 ^ 32 := Nat.pow_lt_pow_right (by decide) h32
  unfold fld
  rw [BitVec.toNat_or, BitVec.toNat_ofNat, Nat.mod_eq_of_lt hp]
  refine Nat.eq_of_testBit_eq fun i => ?_
  simp only [Nat.testBit_mod_two_pow, Nat.testBit_div_two_pow, Nat.testBit_or, Nat.testBit_two_pow]
  by_cases hi' : i < hi - lo + 1
  · rw [decide_eq_false (by omega : ¬n = i + lo), Bool.or_false]
  · simp [hi']

/-- A write to MEM_TG_CTL in TEST. -/
theorem State.tgWrite_test (s : State) (dev : Nat) (v : Word) (h : s.hif.state = .test) : s.tgWrite dev v =
    s.setTgen dev { s.tgen dev with go := (s.tgen dev).go || v.getLsbD 31,
                                    stop := (s.tgen dev).stop || (((s.tgen dev).go || v.getLsbD 31) && v.getLsbD 30),
                                    raw := v.getLsbD 5, dir := fld v 4 3, pattern := fld v 2 0 } := by
  unfold State.tgWrite
  rw [if_pos h]

theorem State.tgRuns_ctr (s : State) (r : Nat) (x : TrafficGen) (l : List (Nat × Nat)) : (s.tgRuns r x l).ctr = s.ctr := by
  induction l generalizing s with
  | nil => rfl
  | cons y l ih =>
    unfold State.tgRuns
    rw [ih]
    split <;> rfl

theorem State.tgFill_ctr (s : State) (dev n : Nat) (x : TrafficGen) (l : Tab Region) : (s.tgFill dev n x l).ctr = s.ctr := by
  induction l generalizing s with
  | nil => rfl
  | cons e l ih =>
    unfold State.tgFill
    rw [ih]
    split
    · rfl
    · exact State.tgRuns_ctr _ _ _ _

theorem State.tgRecipes_ctr (s : State) (dev n : Nat) : (s.tgRecipes dev n).ctr = s.ctr := by
  unfold State.tgRecipes
  split
  · rfl
  · split <;> rfl

/-- A run ends: the generator stops with its first mismatch, and a run without errors changes no counter. -/
theorem exec_tgRunDone_ends (s : State) (dev errors : Nat) (first : Word) (hd : dev < 24) (hgo : (s.tgen dev).go = true) :
    ∃ t, exec (.tgRunDone dev errors first) s = .next t ∧ (t.tgen dev).go = false ∧ (t.tgen dev).stop = false
      ∧ (t.tgen dev).first = (if errors = 0 then 0xFFFFFFFF else first) ∧ (errors = 0 → t.ctr = s.ctr) := by
  generalize hx : ({ s.tgen dev with go := false, stop := false, first := if errors = 0 then 0xFFFFFFFF else first } : TrafficGen) = x
  have run : ∃ u : State, u.ctr = s.ctr ∧ exec (.tgRunDone dev errors first) s = .next (if errors = 0 then (u.setTgen dev x).count (cTgErr dev) errors
      else ((u.setTgen dev x).count (cTgErr dev) errors).dtFailure uGddr dev) := by
    change ∃ u : State, _ ∧ execTgRunDone dev errors first s = _
    unfold execTgRunDone
    simp only [if_neg (Nat.not_le.mpr hd), hgo, hx, Bool.not_true, Bool.false_eq_true, if_false]
    refine ⟨_, ?_, rfl⟩
    split
    · rfl
    · rw [State.tgRecipes_ctr]
      exact State.tgFill_ctr _ _ _ _ _
  obtain ⟨u, hu, he⟩ := run
  rw [he]
  have hcount : ((u.setTgen dev x).count (cTgErr dev) errors).mem = (u.setTgen dev x).mem := State.count_mem _ _ _
  have hgen (t : State) (h : t.mem = (u.setTgen dev x).mem) : t.tgen dev = x := by
    unfold State.tgen
    rw [h]
    change (u.setTgen dev x).tgen dev = x
    simp
  split
  · rename_i h0
    refine ⟨_, rfl, ?_⟩
    rw [hgen _ hcount, ← hx]
    refine ⟨rfl, rfl, if_pos h0, fun _ => ?_⟩
    rw [h0]
    exact hu
  · rename_i h0
    refine ⟨_, rfl, ?_⟩
    unfold State.dtFailure
    rw [hgen _ ((State.chargeErr_gddr _ _ _ _).mem.trans hcount), ← hx]
    exact ⟨rfl, rfl, if_neg h0, fun h => absurd h h0⟩

/-- Settles O53: patrol by what it finds, the repair by the bytes it writes, and the generators by their one write and the end of a run. -/
theorem memoryIsPatrolledRepairedAndTested : Obligations.MemoryIsPatrolledRepairedAndTested := by
  unfold Obligations.MemoryIsPatrolledRepairedAndTested
  intro s
  refine ⟨fun r f => ⟨fun g lost h => exec_patrolScrub_stays s r f g lost h, fun hr hm => ⟨fun hp => ⟨fun lost hs => ?_, fun lost hs => ?_,
    fun o lost => exec_patrolScrub_corrected s r f o lost hr hm hp⟩, fun o lost hp => exec_patrolScrub_marked s r f o lost hr hm hp⟩,
    fun src data hr => ⟨exec_frameRepair_stays s r f src data hr, fun hk hs hp => ?_⟩⟩, fun dev v hd ht => ⟨?_, fun hgo => ?_,
    fun hgo errors first => exec_tgRunDone_ends s dev errors first hd hgo⟩⟩
  · rw [exec_patrolScrub_clean s r f lost hr hm hp]
    unfold State.patrolPass
    rw [if_neg (by rw [hs]; decide)]
  · rw [exec_patrolScrub_clean s r f lost hr hm hp]
    unfold State.patrolPass
    rw [if_pos hs]
  · obtain ⟨t, he, hmem, hpoi, hcause, hrec⟩ := exec_frameRepair_holds s r f src _ data hr rfl hk hs hp
    refine ⟨t, he, ?_, fun k hout => ?_, hpoi, hcause, hrec⟩
    · rw [hmem, Mem.read_write]
    · rw [hmem, Mem.get_write_out _ _ _ _ hout]
  · have he : exec (.tgGo dev v) s = .next (s.tgWrite dev (v ||| BitVec.ofNat 32 (2 ^ 31))) := if_neg (Nat.not_le.mpr hd)
    rw [s.tgWrite_test dev _ ht] at he
    refine ⟨_, he, ?_⟩
    rw [State.tgen_setTgen, if_pos rfl]
    refine ⟨?_, by rw [getLsbD_or_bit v 31 (by decide)]; simp, fld_or_bit v (by decide) (by decide) (by decide),
      fld_or_bit v (by decide) (by decide) (by decide), rfl, fun d h => by rw [State.tgen_setTgen, if_neg h]⟩
    rw [getLsbD_or_bit v 31 (by decide)]
    simp
  · have he : exec (.tgStop dev v) s = .next (s.tgWrite dev (v ||| BitVec.ofNat 32 (2 ^ 30))) := if_neg (Nat.not_le.mpr hd)
    rw [s.tgWrite_test dev _ ht] at he
    refine ⟨_, he, ?_⟩
    rw [State.tgen_setTgen, if_pos rfl, getLsbD_or_bit v 30 (by decide), hgo]
    exact ⟨rfl, by simp, fun d h => by rw [State.tgen_setTgen, if_neg h]⟩

end Sys2Proof.Machine
end

section
/-! What localisation, a core's watchdog and the end of a core without a spare leave (R24, R359, R372 to R374). -/

namespace Sys2Proof.Machine

/-! ### Errors charged to a core -/

/-- A core that waits to be moved, and the cause that withholds the attempt, leave the history and the other faults. -/
theorem State.moveCore_flt (s : State) (core : Nat) : (s.moveCore core).flt = { s.flt with moving := (s.moveCore core).flt.moving } := by
  obtain ⟨l, cs, os, h⟩ := (s.queueMove core).cause_only 0xA
  unfold State.moveCore
  rw [h]
  rfl

/-- An error charged to a CORE or DGA: its entry, and what stays. A PERMANENT one waits to be moved. -/
theorem State.chargeErr_core (s : State) {cls unit code : Nat} {dt : Bool} (hcls : cls = uCore ∨ cls = uDga) :
    ∃ t e, s.chargeErr cls unit code dt = t ∧ t.hist? cls unit = some e ∧ e.last = s.hour256 ∧ e.lastEvent = code
      ∧ e.err = min 0xFFFFFFFF ((s.histOf cls unit).err + 1)
      ∧ t.flt = { s.flt with hist := t.flt.hist, lostNext := t.flt.lostNext, lostTick := t.flt.lostTick, moving := t.flt.moving }
      ∧ t.ctrGet cLocalise = s.ctrGet cLocalise ∧ t.free = s.free ∧ t.stp.active = s.stp.active ∧ t.afterClose = s.afterClose := by
  obtain ⟨u, hu, hist, hcase⟩ := s.chargeErr_cases cls unit code dt
  have hpool : pooled cls = false := by rcases hcls with h | h <;> rw [h] <;> rfl
  have hentry := s.charged_entry u hpool hist
  have hclose : u.afterClose = s.afterClose := by
    unfold State.afterClose
    rw [hu.pwr, hu.lnk]
  have hctr := hu.ctr cLocalise (by decide)
  have hactive : u.stp.active = s.stp.active := by rw [hu.stp]
  have hflt : u.flt = { s.flt with hist := u.flt.hist, lostNext := u.flt.lostNext, lostTick := u.flt.lostTick } := by rw [hu.only]
  have hmov : u.flt.moving = s.flt.moving := by rw [hflt]
  rcases hcase with h | h
  · refine ⟨u, _, h, hentry, rfl, rfl, rfl, ?_, hctr, hu.free, hactive, hclose⟩
    rw [hmov]
    exact hflt
  · obtain ⟨core, hcore⟩ : ∃ core, u.permanent cls unit = u.moveCore core := by
      rcases hcls with h | h <;> rw [h]
      exacts [⟨_, rfl⟩, ⟨_, rfl⟩]
    have hmove := u.moveCore_flt core
    obtain ⟨l, cs, os, hcause⟩ := (u.queueMove core).cause_only 0xA
    have hc : u.moveCore core = _ := hcause
    have hhist : (u.moveCore core).flt.hist = u.flt.hist := by rw [hmove]
    refine ⟨_, _, h.trans hcore, (State.hist?_congr hhist _ _).trans hentry, rfl, rfl, rfl, ?_, ?_, ?_, ?_, ?_⟩
    · rw [hmove, hflt]
    · rw [hc]
      exact hctr
    · rw [hc]
      exact hu.free
    · rw [hc]
      exact hactive
    · rw [hc]
      exact hclose

/-! ### Localisation -/

/-- A suspect is done with: it leaves the list, and the last one ends the localisation. -/
theorem State.endSuspect_spec (s : State) (core : Nat) :
    let rest := s.flt.suspects.filter (fun c => c != core)
    ∃ t, s.endSuspect core = t ∧ t.flt.suspects = rest ∧ t.flt.localising = (!rest.isEmpty)
      ∧ t.ctrGet cLocalise = satAdd (s.ctrGet cLocalise) (if rest.isEmpty then 1 else 0)
      ∧ t.flt.hist = s.flt.hist ∧ t.flt.patterns = s.flt.patterns := by
  intro rest
  refine ⟨_, rfl, ?_⟩
  unfold State.endSuspect
  extract_lets f s1 left g s2
  have hs1 : ∃ m w, s1 = { s with flt := { s.flt with coreMap := m, swapped := w } } := by
    unfold s1
    split
    · exact ⟨s.flt.coreMap, s.flt.swapped, rfl⟩
    · split
      · exact ⟨s.flt.coreMap, s.flt.swapped, rfl⟩
      · exact ⟨_, _, rfl⟩
  obtain ⟨m, w, hs1⟩ := hs1
  have hleft : left = rest := by
    unfold left rest
    rw [hs1]
  have hctr : s2.ctrGet cLocalise = s.ctrGet cLocalise := by
    change s1.ctrGet cLocalise = _
    rw [hs1]
    rfl
  have hkeep : s2.flt.hist = s.flt.hist ∧ s2.flt.patterns = s.flt.patterns := by
    change s1.flt.hist = _ ∧ s1.flt.patterns = _
    rw [hs1]
    exact ⟨rfl, rfl⟩
  rw [← hleft]
  by_cases hr : left.isEmpty = true
  · rw [if_pos hr, if_pos hr, State.count_flt, State.ctrGet_count, if_pos rfl, hctr]
    exact ⟨rfl, rfl, rfl, hkeep⟩
  · rw [if_neg hr, if_neg hr, satAdd_zero]
    exact ⟨rfl, rfl, hctr, hkeep⟩

/-- What LOCALISE does out of turn. -/
theorem exec_localise_stays (s : State) (core : Nat) (o : LocObs) (hc : core < 128)
    (h : s.mayLocalise = false ∨ s.flt.localising = false ∨ s.flt.suspects.head? ≠ some core) : exec (.localise core o) s = .next s := by
  change execLocalise core o s = _
  unfold execLocalise
  rw [if_neg (by omega), if_pos (by rcases h with h | h | h <;> simp [h])]

/-- What LOCALISE does for the suspect in turn. -/
theorem exec_localise_runs (s : State) (core : Nat) (o : LocObs) (hc : core < 128) (hm : s.mayLocalise = true)
    (hl : s.flt.localising = true) (hh : s.flt.suspects.head? = some core) :
    exec (.localise core o) s = .next ((s.localised core o).endSuspect core) := by
  change execLocalise core o s = _
  unfold execLocalise
  rw [if_neg (by omega), if_neg (by simp [hm, hl, hh])]

/-- Without a test core, or where the test core's digest is not the majority's, LOCALISE_FAIL is all. -/
theorem State.localised_fails (s : State) (core : Nat) (o : LocObs) (h : s.testCore core = none
      ∨ locDigest (s.flt.locRuns.filter (fun r => r.core == core)) o.test ≠ (s.flt.locRef.getD core 0).toNat) :
    s.localised core o = s.localiseFail := by
  unfold State.localised
  dsimp only
  rcases h with h | h
  · rw [if_pos (by rw [h]; rfl)]
  · split
    · rfl
    · split
      · rw [if_neg (by simpa using h)]
      · rw [if_neg (by simpa using h)]

/-- Where the outputs differ and the test core's digest is the majority's, the fault lies in the suspect. -/
theorem State.localised_names (s : State) (core : Nat) (o : LocObs) (x : LocRun × Nat) (ht : s.testCore core ≠ none)
    (hg : locDigest (s.flt.locRuns.filter (fun r => r.core == core)) o.test = (s.flt.locRef.getD core 0).toNat)
    (hd : locDiff (s.flt.locRuns.filter (fun r => r.core == core)) o = some x) (hcopy : o.copy = none) :
    s.localised core o = s.localiseNames core o x := by
  unfold State.localised
  dsimp only
  rw [if_neg (by rwa [Option.isNone_iff_eq_none]), hd]
  dsimp only
  rw [if_pos (by simpa using hg)]
  unfold State.localiseCopies
  rw [hcopy]

/-- Where the outputs agree with the majority, the error is charged to the CORE alone. -/
theorem State.localised_agrees (s : State) (core : Nat) (o : LocObs) (ht : s.testCore core ≠ none)
    (hg : locDigest (s.flt.locRuns.filter (fun r => r.core == core)) o.test = (s.flt.locRef.getD core 0).toNat)
    (hd : locDiff (s.flt.locRuns.filter (fun r => r.core == core)) o = none) :
    s.localised core o = s.chargeErr uCore core 0xB001 false := by
  unfold State.localised
  dsimp only
  rw [if_neg (by rwa [Option.isNone_iff_eq_none]), hd]
  dsimp only
  rw [if_pos (by simpa using hg)]

/-- A pattern captured is the last one kept, and nothing else of the faults changes. -/
theorem State.capture_spec (s : State) (p : Pattern) : ∃ l, (s.capture p).flt = { s.flt with patterns := l ++ [p] }
    ∧ (s.capture p).ctrGet cLocalise = s.ctrGet cLocalise := by
  unfold State.capture
  extract_lets l retired l'
  have h := State.raise_logged { s with flt := { s.flt with patterns := l' ++ [p] } } 0xB007 []
  exact ⟨l', h.flt, h.ctr _ (by decide) (by decide)⟩

/-- The fault of a suspect: the entry of the unit named, and its pattern. -/
theorem State.localiseNames_spec (s : State) (core : Nat) (o : LocObs) (x : LocRun × Nat) :
    let u := match o.dga with
      | none => (uCore, core)
      | some g => (uDga, 2 * core + g % 2)
    ∃ t e, s.localiseNames core o x = t ∧ t.flt.suspects = s.flt.suspects ∧ t.ctrGet cLocalise = s.ctrGet cLocalise
      ∧ t.hist? u.1 u.2 = some e ∧ e.lastEvent = 0xB001 ∧ e.err = min 0xFFFFFFFF ((s.histOf u.1 u.2).err + 1)
      ∧ t.flt.patterns.getLast? = some (x.1.pattern x.2 o u.1 u.2 s.hour256) := by
  intro u
  have hu : u.1 = uCore ∨ u.1 = uDga := by
    unfold u
    split
    exacts [Or.inl rfl, Or.inr rfl]
  have hnames : s.localiseNames core o x = (s.chargeErr u.1 u.2 0xB001 false).capture (x.1.pattern x.2 o u.1 u.2 s.hour256) := by
    unfold State.localiseNames u
    cases o.dga <;> rfl
  obtain ⟨t, e, ht, hentry, -, hev, herr, hflt, hctr, -⟩ := s.chargeErr_core (unit := u.2) (code := 0xB001) (dt := false) hu
  obtain ⟨l, hcap, hcctr⟩ := t.capture_spec (x.1.pattern x.2 o u.1 u.2 s.hour256)
  rw [hnames, ht]
  refine ⟨_, e, rfl, ?_, hcctr.trans hctr, ?_, hev, herr, ?_⟩
  · rw [hcap, hflt]
  · rw [← hentry]
    exact State.hist?_congr (by rw [hcap]) _ _
  · rw [hcap]
    exact List.getLast?_concat

/-! ### Watchdogs (R359) -/

/-- CORE_WATCHDOG: an error of the core, and a cause of replay. -/
theorem exec_coreWatchdog (s : State) (core : Nat) (hc : core < 128) : ∃ t e, exec (.coreWatchdog core) s = .next t
    ∧ t.hist? uCore core = some e ∧ e.last = s.hour256 ∧ e.err = min 0xFFFFFFFF ((s.histOf uCore core).err + 1) ∧ t.free = s.free + 1
    ∧ (s.stp.active = true → s.afterClose = false → 0xA ∈ t.stp.causes) := by
  obtain ⟨u, e, hu, hentry, hlast, -, herr, -, -, hfree, hact, hclose⟩ := (s.draw 1).chargeErr_core (unit := core)
    (code := (Config.freeWord s.free).toNat % 65536) (dt := false) (Or.inl rfl)
  obtain ⟨l, cs, os, hcause⟩ := u.cause_only 0xA
  refine ⟨u.cause 0xA, e, ?_, ?_, hlast, herr, ?_, fun ha hw => ?_⟩
  · rw [← hu]
    change execCoreWatchdog core s = _
    unfold execCoreWatchdog
    rw [if_neg (by omega)]
  · rw [← hentry]
    exact State.hist?_congr (by rw [hcause]) _ _
  · rw [hcause]
    exact hfree
  · exact u.mem_cause 0xA (hact.trans ha) (hclose.trans hw)

/-! ### Cores out of service (R24, R374) -/

/-- A physical core out of service: it is among those used, and of the rest only the history and its count of lost entries change. -/
theorem State.retirePhys_only (s : State) (p : Nat) (e : UnitHist) : s.retirePhys p e = { s with
    ctr := (s.retirePhys p e).ctr
    flt := { s.flt with usedPhys := addOnce s.flt.usedPhys p, hist := (s.retirePhys p e).flt.hist } }
    ∧ (s.retirePhys p e).ctrGet cRecovery = s.ctrGet cRecovery := by
  unfold State.retirePhys State.setHist
  dsimp only
  split
  · exact ⟨rfl, rfl⟩
  · refine ⟨?_, State.count_other _ 1 (by decide)⟩
    generalize hv : ({ s with flt := { s.flt with usedPhys := addOnce s.flt.usedPhys p } } : State) = v
    have h := v.count_only cHistLost 1
    generalize v.count cHistLost 1 = w at h ⊢
    rw [h, ← hv]

/-- Spares out of service, and nothing else but the history and its count of lost entries. -/
theorem State.retireSpares_only (s : State) (l : List Nat) : ∃ c used hist,
    s.retireSpares l = { s with ctr := c, flt := { s.flt with usedPhys := used, hist := hist } }
    ∧ (∀ q ∈ s.flt.usedPhys, q ∈ used) ∧ (s.retireSpares l).ctrGet cRecovery = s.ctrGet cRecovery := by
  induction l generalizing s with
  | nil => exact ⟨s.ctr, s.flt.usedPhys, s.flt.hist, rfl, fun _ h => h, rfl⟩
  | cons p l ih =>
    obtain ⟨hp, hctr⟩ := s.retirePhys_only p { s.freshHist uRetired p with dtFail := true }
    obtain ⟨c, used, hist, h, hused, hc⟩ := ih (s.retirePhys p { s.freshHist uRetired p with dtFail := true })
    refine ⟨c, used, hist, ?_, fun q hq => hused q ?_, hc.trans hctr⟩
    · change (s.retirePhys p _).retireSpares l = _
      rw [h, hp]
    · rw [hp]
      exact mem_addOnce.mpr (Or.inl hq)

/-- A core that becomes absent. -/
theorem State.makeAbsent_spec (s : State) (core : Nat) : ∃ t e, s.makeAbsent core 0 = t ∧ core ∈ t.flt.absent ∧ core ∉ t.flt.moving
    ∧ t.flt.degraded = true ∧ (∀ q ∈ s.flt.usedPhys, q ∈ t.flt.usedPhys) ∧ core ∉ t.cal.due ∧ t.hist? uCore core = some e
    ∧ e.state = .permanent ∧ e.phys = 0x3FF ∧ t.flt.lostNext = true ∧ (s.rcp.state = .running → t.rcp.state = .stopping) := by
  unfold State.makeAbsent
  extract_lets e gone c f s1
  have hcls : e.cls = uCore ∧ e.unit = core := s.histOf_unit uCore core
  have hset := s1.setHist_charged { e with state := .permanent, phys := 0x3FF, lastEvent := if 0 = 0 then e.lastEvent else 0 }
  have hentry := s1.hist?_setHist { e with state := .permanent, phys := 0x3FF, lastEvent := if 0 = 0 then e.lastEvent else 0 } (by
    change pooled e.cls = false
    rw [hcls.1]
    rfl)
  generalize s1.setHist { e with state := .permanent, phys := 0x3FF, lastEvent := if 0 = 0 then e.lastEvent else 0 } = v at hset hentry
  change v.hist? e.cls e.unit = _ at hentry
  rw [hcls.1, hcls.2] at hentry
  have hflt : v.flt = { s1.flt with hist := v.flt.hist, lostNext := v.flt.lostNext, lostTick := v.flt.lostTick } := by rw [hset.only]
  have hcal : v.cal = s1.cal := by rw [hset.only]
  have hrcp : v.rcp = s.rcp := by rw [hset.only]
  refine ⟨_, _, rfl, ?_, ?_, rfl, fun q hq => ?_, ?_, hentry, rfl, rfl, rfl, fun hrun => ?_⟩
  · change core ∈ v.flt.absent
    rw [hflt]
    exact mem_addOnce.mpr (Or.inr rfl)
  · change core ∉ v.flt.moving
    rw [hflt]
    simp [s1]
  · change q ∈ v.flt.usedPhys
    rw [hflt]
    exact mem_foldl_addOnce.mpr (Or.inl hq)
  · change core ∉ v.cal.due
    rw [hcal]
    simp [s1]
  · change (if v.rcp.state = .running then RunState.stopping else v.rcp.state) = _
    rw [hrcp, if_pos hrun]

end Sys2Proof.Machine
end

section
/-! What the move of a core to a spare leaves: the work on its new arrays, its calibration from REXT, and the entries (R139, R374). -/

namespace Sys2Proof.Machine

/-! ### Work that leaves the tickets and the places of the cores -/

/-- Background work has been done: of the mailbox no more than signals has changed, of the faults no more than the history and whether the
device has to leave, and no recovery has been counted. -/
structure State.Serviced (s t : State) : Prop where
  hif : s.hif.OnlySignals t.hif
  flt : t.flt = { s.flt with hist := t.flt.hist, lostNext := t.flt.lostNext, lostTick := t.flt.lostTick }
  recovery : t.ctrGet cRecovery = s.ctrGet cRecovery

theorem State.Serviced.refl (s : State) : s.Serviced s := ⟨.refl _, rfl, rfl⟩

theorem State.Serviced.trans {s t u : State} (h : s.Serviced t) (k : t.Serviced u) : s.Serviced u := by
  refine ⟨h.hif.trans k.hif, ?_, k.recovery.trans h.recovery⟩
  have hk := k.flt
  rw [h.flt] at hk
  exact hk

/-- A change of what this relation does not speak of. -/
theorem State.Serviced.of_eq {s t : State} (hif : t.hif = s.hif) (flt : t.flt = s.flt) (ctr : t.ctr = s.ctr) : s.Serviced t := by
  refine ⟨hif ▸ .refl _, by rw [flt], ?_⟩
  unfold State.ctrGet
  rw [ctr]

/-- Such work on arrays, which leaves the cores' own state and the calibration as well. -/
structure State.ArrayWork (s t : State) : Prop extends s.Serviced t where
  cores : t.ana.cores = s.ana.cores
  cal : t.cal = s.cal

theorem State.ArrayWork.refl (s : State) : s.ArrayWork s := ⟨.refl s, rfl, rfl⟩

theorem State.ArrayWork.trans {s t u : State} (h : s.ArrayWork t) (k : t.ArrayWork u) : s.ArrayWork u :=
  ⟨h.toServiced.trans k.toServiced, k.cores.trans h.cores, k.cal.trans h.cal⟩

theorem State.ArrayWork.core {s t : State} (h : s.ArrayWork t) (c : Nat) : t.core c = s.core c := by
  unfold State.core
  rw [h.cores]

theorem State.ArrayWork.foldl {α : Type} {f : State → α → State} (hf : ∀ (t : State) a, t.ArrayWork (f t a)) (l : List α) (s : State) :
    s.ArrayWork (l.foldl f s) := by
  induction l generalizing s with
  | nil => exact .refl s
  | cons a l ih => exact (hf s a).trans (ih _)

theorem State.Charged.arrayWork {s t : State} (h : s.Charged t) : s.ArrayWork t :=
  ⟨⟨h.hif, by rw [h.only], h.ctr _ (by decide)⟩, by rw [h.only], by rw [h.only]⟩

theorem State.count_arrayWork (s : State) {off : Nat} (n : Nat) (h : cRecovery ≠ off) : s.ArrayWork (s.count off n) :=
  ⟨⟨by rw [State.count_hif]; exact .refl _, by rw [State.count_flt], s.count_other n h⟩, by rw [State.count_ana], by rw [State.count_cal]⟩

theorem State.setArray_arrayWork (s : State) (a : Nat) (x : ArrayS) : s.ArrayWork (s.setArray a x) :=
  (s.setArray_charged a x).arrayWork

/-! ### Checksum windows and figures of an array (R108, R119, R120) -/

theorem State.checksumFails_arrayWork (s : State) (a : Nat) (w : ChkWin) : s.ArrayWork (s.checksumFails a w) := by
  unfold State.checksumFails
  refine .trans ?_ (State.chargeErr_array _ _ _ _).arrayWork
  refine .trans ?_ (State.setArray_arrayWork _ _ _)
  exact (s.count_arrayWork 1 (by decide)).trans (State.raiseU_logged _ _ _ _).charged.arrayWork

theorem State.judgeWindow_arrayWork (s : State) (a : Nat) : s.ArrayWork (s.judgeWindow a) := by
  have hcount : s.ArrayWork (s.count cChkWin 1) := s.count_arrayWork 1 (by decide)
  unfold State.judgeWindow
  dsimp only
  split
  · exact .refl s
  · split
    · exact hcount.trans (State.setArray_arrayWork _ _ _)
    · split
      · exact (hcount.trans (State.setArray_arrayWork _ _ _)).trans (State.checksumFails_arrayWork _ _ _)
      · exact hcount.trans (State.setArray_arrayWork _ _ _)

theorem State.judgeWindows_arrayWork (s : State) (a n : Nat) : s.ArrayWork (s.judgeWindows a n) := by
  induction n generalizing s with
  | zero => exact .refl s
  | succ n ih => exact (s.judgeWindow_arrayWork a).trans (ih _)

theorem State.arrayCalibrated_arrayWork (s : State) (epoch : Word) (temp : Int) (a : Nat) (fig : ArrFig) :
    s.ArrayWork (s.arrayCalibrated epoch temp a fig) := by
  have h := s.judgeWindows_arrayWork a (s.array a).chkDone.length
  unfold State.arrayCalibrated
  dsimp only
  split
  · exact (h.trans (State.setArray_arrayWork _ _ _)).trans (State.setArray_arrayWork _ _ _)
  · exact h.trans (State.setArray_arrayWork _ _ _)

theorem State.bankCalibrated_arrayWork (s : State) (epoch : Word) (temp : Int) (l : List (Nat × ArrFig)) :
    s.ArrayWork (s.bankCalibrated epoch temp l) := by
  induction l generalizing s with
  | nil => exact .refl s
  | cons x l ih => exact (s.arrayCalibrated_arrayWork epoch temp x.1 x.2).trans (ih _)

/-! ### Arrays written (R85, R374) -/

theorem State.memUe_arrayWork (s : State) (reader core : Nat) (l : List (Nat × Nat)) : s.ArrayWork (s.memUe reader core l) := by
  induction l generalizing s with
  | nil => exact .refl s
  | cons x l ih =>
    obtain ⟨u, hu, hc⟩ := s.memUe_cons reader core x l
    rw [hu]
    refine .trans ?_ (ih u)
    refine .trans ?_ hc.arrayWork
    refine .trans ?_ (State.count_arrayWork _ 1 (by decide))
    exact ⟨⟨.refl _, rfl, rfl⟩, rfl, rfl⟩

theorem State.imageLook_arrayWork (s : State) (r off n : Nat) : s.ArrayWork (s.imageLook r off n).1 := by
  have h : s.ArrayWork (s.account r off n false) :=
    (s.count_arrayWork _ (by decide)).trans (State.count_arrayWork _ _ (by decide))
  exact h.trans (State.memUe_arrayWork _ _ _ _)

theorem State.putRow_arrayWork (s : State) (a row : Nat) (cells : List (BitVec 2)) (rem : List Int) :
    s.ArrayWork (s.putRow a row cells rem) :=
  ⟨⟨.refl _, rfl, rfl⟩, rfl, rfl⟩

theorem State.putRows_arrayWork (s : State) (a f row : Nat) (rows : List (List Nat)) : s.ArrayWork (s.putRows a f row rows) := by
  induction rows generalizing s row with
  | nil => exact .refl s
  | cons r rows ih =>
    exact (State.ArrayWork.foldl (fun t p => t.putRow_arrayWork a p _ _) _ s).trans (ih _ _)

theorem State.putSpares_arrayWork (s : State) (a : Nat) (ns : List Nat) : s.ArrayWork (s.putSpares a ns) := by
  induction ns generalizing s with
  | nil => exact .refl s
  | cons n ns ih =>
    unfold State.putSpares
    refine .trans ?_ (ih _)
    split
    · exact s.putRow_arrayWork _ _ _ _
    · exact .refl s

theorem State.putScales_arrayWork (s : State) (a block : Nat) (rows : List (List Half)) : s.ArrayWork (s.putScales a block rows) := by
  induction rows generalizing s block with
  | nil => exact .refl s
  | cons r rows ih =>
    unfold State.putScales
    refine .trans ?_ (ih _ _)
    exact ⟨⟨.refl _, rfl, rfl⟩, rfl, rfl⟩

theorem State.program_arrayWork (s : State) (a : Nat) (p : Prog) (src : RowSrc) : s.ArrayWork (s.program a p src) := by
  unfold State.program
  dsimp only
  refine .trans ?_ (State.count_arrayWork _ _ (by decide))
  refine .trans ?_ (State.setArray_arrayWork _ _ _)
  refine .trans ?_ (State.putScales_arrayWork _ _ _ _)
  split
  · exact (s.putRows_arrayWork _ _ _ _).trans (State.putSpares_arrayWork _ _ _)
  · exact s.putRows_arrayWork _ _ _ _

theorem State.programFrom_arrayWork (s : State) (a : Nat) (x : RowSrc) : s.ArrayWork (s.programFrom a x) := by
  unfold State.programFrom
  dsimp only
  have h : s.ArrayWork ((s.imageLook x.region x.addr (imageBytes x.fmt)).1.imageLook x.sregion x.saddr planeBytes).1 :=
    (s.imageLook_arrayWork _ _ _).trans (State.imageLook_arrayWork _ _ _ _)
  split
  · exact h
  · exact h.trans (State.program_arrayWork _ _ _ _)

theorem State.programAll_arrayWork (s : State) (a : Nat) (l : List RowSrc) : s.ArrayWork (s.programAll a l) := by
  induction l with
  | nil => exact .refl s
  | cons x l ih => exact ih.trans (State.programFrom_arrayWork _ _ _)

theorem State.writeNew_arrayWork (s : State) (l : List Nat) : s.ArrayWork (s.writeNew l) := by
  induction l generalizing s with
  | nil => exact .refl s
  | cons a l ih =>
    unfold State.writeNew
    refine .trans ?_ (ih _)
    split
    · exact .refl s
    · exact s.programAll_arrayWork _ _

theorem State.loseArray_arrayWork (s : State) (a : Nat) : s.ArrayWork (s.loseArray a) :=
  ⟨⟨.refl _, rfl, rfl⟩, rfl, rfl⟩

theorem State.newSct_arrayWork (s : State) (t : Tab (List Word)) : s.ArrayWork (s.newSct t) := by
  unfold State.newSct
  refine .trans ?_ (State.raise_logged _ _ _).charged.arrayWork
  exact ⟨⟨.refl _, rfl, rfl⟩, rfl, rfl⟩

/-! ### A whole run of a core (R140 to R143, R374) -/

@[simp] theorem State.core_setCore (s : State) (c : Nat) (x : CoreS) : (s.setCore c x).core c = x :=
  Tab.get_put_same _ _ _ _

theorem State.setCore_serviced (s : State) (c : Nat) (x : CoreS) : s.Serviced (s.setCore c x) := .of_eq rfl rfl rfl

theorem setBit4_getLsbD (m : BitVec 4) (b : Nat) (hb : b < 4) : (setBit4 m b).getLsbD b = true := by
  unfold setBit4
  interval_cases b <;> simp

/-- A bank that passes. -/
theorem State.bankPasses_spec (s : State) (core b : Nat) (o : CalObs) :
    s.Serviced (s.bankPasses core b o) ∧ ((s.bankPasses core b o).core core).banksDone = setBit4 (s.core core).banksDone b := by
  unfold State.bankPasses
  extract_lets e c s1 k
  have h : ({ s with cal := { s.cal with epochCnt := e, valsNext := newVals core o.conv s.cal.valsNext } } : State).ArrayWork s1 :=
    State.bankCalibrated_arrayWork _ _ _ _
  have hs : s.Serviced s1 := by
    refine .trans ?_ h.toServiced
    exact .of_eq rfl rfl rfl
  refine ⟨hs.trans (State.setCore_serviced _ _ _), ?_⟩
  rw [State.core_setCore]
  change setBit4 (s1.core core).banksDone b = _
  rw [h.core]
  rfl

/-- A bank's part of a run with REXT and the converters within their limits passes. -/
theorem State.calBank_spec (s : State) (core b : Nat) (o : CalObs) (hconv : o.conv = []) (hrext : rextBad o = none) :
    s.Serviced (s.calBank core b o) ∧ ((s.calBank core b o).core core).banksDone = setBit4 (s.core core).banksDone b := by
  have hok (u : State) : u.calConv core b o = u.bankPasses core b o := by
    unfold State.calConv State.convBad
    rw [hconv]
    rfl
  have hpass (c : Cal) : s.Serviced (({ s with cal := c } : State).bankPasses core b o)
      ∧ ((({ s with cal := c } : State).bankPasses core b o).core core).banksDone = setBit4 (s.core core).banksDone b := by
    obtain ⟨hs, hdone⟩ := State.bankPasses_spec { s with cal := c } core b o
    refine ⟨.trans ?_ hs, hdone⟩
    exact .of_eq rfl rfl rfl
  unfold State.calBank
  dsimp only
  rw [hrext]
  dsimp only
  rw [hok, hok]
  split
  · exact hpass _
  · exact hpass _

/-- The banks of a run of which the environment reports nothing all pass. -/
theorem State.calRunBanks_spec (s : State) (core : Nat) (temp : Int) (l : List Nat) (hl : ∀ b ∈ l, b < 4) :
    s.Serviced (s.calRunBanks core temp [] l)
      ∧ ((s.calRunBanks core temp [] l).core core).banksDone = l.foldl setBit4 (s.core core).banksDone := by
  induction l generalizing s with
  | nil => exact ⟨.refl s, rfl⟩
  | cons b l ih =>
    obtain ⟨hs, hbank⟩ := s.calBank_spec core b (s.freeObs temp) rfl rfl
    have hgo : s.calRunBanks core temp [] (b :: l) = ((s.calBank core b (s.freeObs temp)).draw 16).calRunBanks core temp [] l := by
      refine if_pos ?_
      change ((s.calBank core b (s.freeObs temp)).core core).banksDone.getLsbD b = true
      rw [hbank]
      exact setBit4_getLsbD _ b (hl b List.mem_cons_self)
    obtain ⟨ht, hdone⟩ := ih ((s.calBank core b (s.freeObs temp)).draw 16) (fun c hc => hl c (List.mem_cons_of_mem _ hc))
    rw [hgo]
    refine ⟨hs.trans (.trans ?_ ht), hdone.trans ?_⟩
    · exact .of_eq rfl rfl rfl
    change l.foldl setBit4 ((s.calBank core b (s.freeObs temp)).core core).banksDone = _
    rw [hbank]
    rfl

/-- The end of a run. -/
theorem State.calEnd_spec (s : State) (core : Nat) (temp : Int) : ∃ t, s.calEnd core temp = t ∧ s.Serviced t
    ∧ (t.core core).tempCal = temp ∧ (t.core core).banksDone = 0 ∧ core ∉ t.cal.due := by
  unfold State.calEnd
  extract_lets c g s1 k s2
  have hlog := (s2.writeBlock core).raiseU_logged 0xC001 (uCore * 2 ^ 22 + core) [wd core, wd 0xF, s.cal.epochCnt]
  have h : (s2.writeBlock core).ArrayWork _ := hlog.charged.arrayWork.trans (State.count_arrayWork _ 1 (off := cCalRun) (by decide))
  have hcore : (s2.writeBlock core).core core = s1.core core := rfl
  refine ⟨_, rfl, ⟨h.hif, h.flt, h.recovery⟩, ?_, ?_, ?_⟩
  · rw [h.core, hcore, State.core_setCore]
  · rw [h.core, hcore, State.core_setCore]
  · rw [h.cal]
    change core ∉ s1.cal.due.filter (fun k => k != core)
    simp

/-- A whole run of which the environment reports nothing leaves the core calibrated at its temperature. -/
theorem State.calWhole_spec (s : State) (core : Nat) (temp : Int) : ∃ t, s.calWhole core temp [] = t ∧ s.Serviced t
    ∧ (t.core core).tempCal = temp ∧ (t.core core).banksDone = 0 ∧ core ∉ t.cal.due := by
  unfold State.calWhole
  extract_lets c s1 s2
  obtain ⟨hrun, hdone⟩ := s1.calRunBanks_spec core temp (List.range 4) (fun b hb => List.mem_range.mp hb)
  have hall : (s2.core core).banksDone = 0xF := by
    rw [hdone, State.core_setCore]
    exact (by decide : (List.range 4).foldl setBit4 0 = 0xF)
  rw [if_pos hall]
  obtain ⟨t, ht, hs, hspec⟩ := s2.calEnd_spec core temp
  exact ⟨t, ht, ((s.setCore_serviced _ _).trans hrun).trans hs, hspec⟩

/-! ### The move (R374) -/

/-- With no ticket in the mailbox and the device in service, nothing waits. -/
theorem State.drain_still (s : State) (h : s.hostStill) : s.drain = s := by
  obtain ⟨hw, hd, hb, hlost, hfault⟩ := h
  have hend : s.endLost = s := if_neg (by simp [hlost, hfault])
  unfold State.drain
  rw [hend]
  simp only [hb]
  exact State.drainN_quiet _ _ hw hd

theorem Hif.OnlySignals.still {s t : State} (a : s.hif.OnlySignals t.hif) (h : s.hostStill) : t.hostStill := by
  unfold State.hostStill at h ⊢
  rw [a]
  exact h

/-- The arrays of a core moved: lost, calibrated at the core's temperature, and written again. -/
theorem State.newArrays_spec (s : State) (core : Nat) (hh : s.hostStill) : ∃ t, s.newArrays core [] = t ∧ s.Serviced t
    ∧ (t.core core).tempCal = (s.core core).temp ∧ (t.core core).banksDone = 0 ∧ core ∉ t.cal.due := by
  unfold State.newArrays
  extract_lets l s1 c s2
  have h1 : s.ArrayWork s1 := .foldl (fun t a => (t.loseArray_arrayWork a).trans (State.setArray_arrayWork _ _ _)) l s
  have htemp : (s2.core core).temp = (s.core core).temp := by
    rw [State.core_setCore, h1.core]
  obtain ⟨u, hu, hrun, hcal, hbanks, hdue⟩ := s2.calWhole_spec core (s2.core core).temp
  have h2 : s.Serviced u := (h1.toServiced.trans (s1.setCore_serviced _ _)).trans hrun
  have h3 : u.ArrayWork (u.publishCore core) := u.newSct_arrayWork _
  have hquiet : (u.publishCore core).drain = u.publishCore core :=
    State.drain_still _ ((h2.trans h3.toServiced).hif.still hh)
  have h4 := h3.trans (State.writeNew_arrayWork (u.publishCore core) l)
  rw [hu, hquiet]
  refine ⟨_, rfl, h2.trans h4.toServiced, ?_, ?_, ?_⟩
  · rw [h4.core, hcal, htemp]
  · rw [h4.core, hbanks]
  · rw [h4.cal]
    exact hdue

/-- The move of a core to a spare: where it is, what is out of service, and the new core calibrated. -/
theorem State.movedTo_spec (s : State) (core old p us : Nat) (hh : s.hostStill) : ∃ t, s.movedTo core old p us [] = t
    ∧ Tab.find t.flt.coreMap core = some p ∧ core ∉ t.flt.moving ∧ old ∈ t.flt.usedPhys ∧ (∀ q ∈ s.flt.usedPhys, q ∈ t.flt.usedPhys)
    ∧ Tab.find t.flt.swapped core = none ∧ (t.core core).tempCal = (s.core core).temp ∧ (t.core core).banksDone = 0
    ∧ core ∉ t.cal.due ∧ t.flt.absent = s.flt.absent ∧ t.ctrGet cRecovery = satAdd (s.ctrGet cRecovery) 1 := by
  unfold State.movedTo
  extract_lets s1 mine f s2 e s3 s4 g
  obtain ⟨honly, hctr⟩ := s.retirePhys_only old (s.histOf uCore core)
  have h2 : s2.hif = s.hif ∧ s2.ana = s.ana := by
    change s1.hif = _ ∧ s1.ana = _
    unfold s1
    rw [honly]
    exact ⟨rfl, rfl⟩
  have hset := (s2.setHist_charged { s2.freshHist uCore core with phys := p }).arrayWork
  have hstill : (s2.setHist { s2.freshHist uCore core with phys := p }).hostStill := by
    refine hset.hif.still ?_
    unfold State.hostStill
    rw [h2.1]
    exact hh
  obtain ⟨u, hu, hnew, hcal, hbanks, hdue⟩ := State.newArrays_spec _ core hstill
  have hs3 : s3 = u := hu
  have hpub : u.ArrayWork ((u.raiseU 0xB003 (uCore * 2 ^ 22 + core) []).publish) :=
    (u.raiseU_logged _ _ _).charged.arrayWork.trans (State.newSct_arrayWork _ _)
  generalize hv : (u.raiseU 0xB003 (uCore * 2 ^ 22 + core) []).publish = v at hpub
  have hs4 : s4 = v.count cRecovery 1 := by
    unfold s4
    rw [hs3, hv]
  have hwork := (hset.toServiced.trans hnew).trans hpub.toServiced
  have hused : s1.flt.usedPhys = addOnce s.flt.usedPhys old := by
    unfold s1
    rw [honly]
  have habsent : s1.flt.absent = s.flt.absent := by
    unfold s1
    rw [honly]
  have hcore : s2.core core = s.core core := by
    unfold State.core
    rw [h2.2]
  have hflt : s4.flt = { s2.flt with hist := v.flt.hist, lostNext := v.flt.lostNext, lostTick := v.flt.lostTick } := by
    rw [hs4, State.count_flt]
    exact hwork.flt
  have hana : s4.core core = u.core core := by
    rw [← hpub.core core, hs4]
    unfold State.core
    rw [State.count_ana]
  clear_value s4
  refine ⟨_, rfl, ?_, ?_, ?_, fun q hq => ?_, ?_, ?_, ?_, ?_, ?_, ?_⟩
  · change Tab.find s4.flt.coreMap core = _
    rw [hflt]
    exact Tab.find_put_same _ _ _
  · change core ∉ s4.flt.moving
    rw [hflt]
    simp [s2]
  · change old ∈ s4.flt.usedPhys
    rw [hflt]
    change old ∈ s1.flt.usedPhys
    rw [hused]
    exact mem_addOnce.mpr (Or.inr rfl)
  · change q ∈ s4.flt.usedPhys
    rw [hflt]
    change q ∈ s1.flt.usedPhys
    rw [hused]
    exact mem_addOnce.mpr (Or.inl hq)
  · change Tab.find s4.flt.swapped core = none
    rw [hflt]
    change Tab.find (Tab.del s1.flt.swapped core) core = none
    rw [Tab.find_del, if_pos rfl]
  · change (s4.core core).tempCal = _
    rw [hana, hcal, hset.core, hcore]
  · change (s4.core core).banksDone = _
    rw [hana, hbanks]
  · change core ∉ s4.cal.due
    rw [hs4, State.count_cal, hpub.cal]
    exact hdue
  · change s4.flt.absent = _
    rw [hflt]
    exact habsent
  · change s4.ctrGet cRecovery = _
    rw [hs4, State.ctrGet_count, if_pos rfl, hwork.recovery]
    exact congrArg (fun n => satAdd n 1) hctr

/-- CORE_SPARE of a core that is not to move, or while an attempt runs. -/
theorem exec_coreSpare_stays (s : State) (core us : Nat) (failing : List Nat) (cals : List (Nat × CalObs)) (hc : core < 128)
    (h : core ∉ s.flt.moving ∨ (s.stp.active = true ∧ s.stp.begun = true ∧ s.stp.halted = false)) :
    exec (.coreSpare core failing us cals) s = .next s := by
  change execCoreSpare core failing us cals s = _
  unfold execCoreSpare
  rw [if_neg (by omega), if_pos]
  rcases h with h | ⟨h1, h2, h3⟩
  · simp [h]
  · simp [h1, h2, h3]

/-- CORE_SPARE of a core for which a spare passes its tests. -/
theorem exec_coreSpare_moves (s : State) (core us p : Nat) (failing : List Nat) (hc : core < 128) (hm : core ∈ s.flt.moving)
    (ha : s.stp.active = false) (hp : (s.moveTargets core).find? (fun p => !failing.contains p) = some p) (hh : s.hostStill) :
    ∃ t, exec (.coreSpare core failing us []) s = .next t ∧ Tab.find t.flt.coreMap core = some p ∧ core ∉ t.flt.moving
      ∧ Tab.get s.flt.swapped core (s.phys core) ∈ t.flt.usedPhys ∧ (∀ q ∈ s.flt.usedPhys, q ∈ t.flt.usedPhys)
      ∧ Tab.find t.flt.swapped core = none ∧ (t.core core).tempCal = (s.core core).temp ∧ (t.core core).banksDone = 0
      ∧ core ∉ t.cal.due ∧ t.flt.absent = s.flt.absent ∧ t.ctrGet cRecovery = satAdd (s.ctrGet cRecovery) 1 := by
  obtain ⟨c, used, hist, honly, hused, hctr⟩ :=
    s.retireSpares_only ((s.moveTargets core).takeWhile (fun p => failing.contains p))
  obtain ⟨t, ht, hmap, hmov, hold, hkeep, hswap, htemp, hbanks, hdue, habsent, hrec⟩ :=
    State.movedTo_spec (s.retireSpares ((s.moveTargets core).takeWhile (fun p => failing.contains p))) core
      (Tab.get s.flt.swapped core (s.phys core)) p us (by rw [honly]; exact hh)
  refine ⟨t, ?_, hmap, hmov, hold, fun q hq => hkeep q ?_, hswap, ?_, hbanks, hdue, ?_, ?_⟩
  · change execCoreSpare core failing us [] s = _
    unfold execCoreSpare
    rw [if_neg (by omega), if_neg (by simp [hm, ha]), ← ht]
    dsimp only
    rw [hp]
  · rw [honly]
    exact hused q hq
  · rw [htemp, honly]
    rfl
  · rw [habsent, honly]
  · rw [hrec, hctr]

/-- CORE_SPARE of a core for which no spare is left. -/
theorem exec_coreSpare_absent (s : State) (core us : Nat) (failing : List Nat) (cals : List (Nat × CalObs)) (hc : core < 128)
    (hm : core ∈ s.flt.moving) (ha : s.stp.active = false)
    (hp : (s.moveTargets core).find? (fun p => !failing.contains p) = none) :
    ∃ t e, exec (.coreSpare core failing us cals) s = .next t ∧ core ∈ t.flt.absent ∧ core ∉ t.flt.moving ∧ t.flt.degraded = true
      ∧ Tab.get s.flt.swapped core (s.phys core) ∈ t.flt.usedPhys ∧ core ∉ t.cal.due ∧ t.hist? uCore core = some e
      ∧ e.state = .permanent ∧ e.phys = 0x3FF ∧ t.flt.lostNext = true ∧ (s.rcp.state = .running → t.rcp.state = .stopping) := by
  obtain ⟨c, used, hist, honly, -, -⟩ :=
    s.retireSpares_only ((s.moveTargets core).takeWhile (fun p => failing.contains p))
  generalize hs1 : s.retireSpares ((s.moveTargets core).takeWhile (fun p => failing.contains p)) = s1 at honly
  obtain ⟨hret, -⟩ := s1.retirePhys_only (Tab.get s.flt.swapped core (s.phys core)) (s1.histOf uCore core)
  generalize hs2 : s1.retirePhys (Tab.get s.flt.swapped core (s.phys core)) (s1.histOf uCore core) = s2 at hret
  obtain ⟨t, e, ht, habsent, hmov, hdeg, hused, hdue, hentry, hstate, hphys, hlost, hrcp⟩ :=
    State.makeAbsent_spec { s2 with flt := { s2.flt with swapped := Tab.del s2.flt.swapped core } } core
  have hrun : s2.rcp = s.rcp := by rw [hret, honly]
  refine ⟨t, e, ?_, habsent, hmov, hdeg, hused _ ?_, hdue, hentry, hstate, hphys, hlost, fun h => hrcp ?_⟩
  · change execCoreSpare core failing us cals s = _
    unfold execCoreSpare
    rw [if_neg (by omega), if_neg (by simp [hm, ha]), ← ht, ← hs2, ← hs1]
    dsimp only
    rw [hp]
  · change _ ∈ s2.flt.usedPhys
    rw [hret]
    exact mem_addOnce.mpr (Or.inr rfl)
  · change s2.rcp.state = _
    rw [hrun, h]

/-! ### O54 -/

/-- Settles O54: a suspect's localisation is its verdict followed by its removal from the list, and a move is the retirement of the failed
spares and the old core, the new core's run from REXT, and its entries, none of which touches what the statement reads after it. -/
theorem faultyCoresAreFoundAndMoved : Obligations.FaultyCoresAreFoundAndMoved := by
  unfold Obligations.FaultyCoresAreFoundAndMoved
  intro s core hc
  refine ⟨fun o => ⟨exec_localise_stays s core o hc, fun hm hl hh => ?_⟩, fun failing us => ⟨fun h cals =>
    exec_coreSpare_stays s core us failing cals hc h, fun hm ha => ⟨fun p hp hh => exec_coreSpare_moves s core us p failing hc hm ha hp hh,
      fun hp cals => exec_coreSpare_absent s core us failing cals hc hm ha hp⟩⟩, exec_coreWatchdog s core hc⟩
  have hexec := exec_localise_runs s core o hc hm hl hh
  refine ⟨fun hfail => ?_, fun x ht hg hd hcopy => ?_, fun ht hg hd => ?_⟩
  · have hlog := s.raise_logged 0xB008 []
    rw [s.localised_fails core o hfail] at hexec
    obtain ⟨t, htEnd, hsus, hloc, hctr, hhist, hpat⟩ := s.localiseFail.endSuspect_spec core
    have hflt : s.localiseFail.flt = s.flt := hlog.flt
    have hcount : s.localiseFail.ctrGet cLocalise = s.ctrGet cLocalise := hlog.ctr _ (by decide) (by decide)
    rw [hflt] at hsus hloc hctr hhist hpat
    rw [hcount] at hctr
    exact ⟨t, htEnd ▸ hexec, ⟨hsus, hloc, hctr⟩, hhist, hpat⟩
  · rw [s.localised_names core o x ht hg hd hcopy] at hexec
    obtain ⟨v, e, hv, hvsus, hvctr, hentry, hev, herr, hlast⟩ := s.localiseNames_spec core o x
    rw [hv] at hexec
    obtain ⟨t, htEnd, hsus, hloc, hctr, hhist, hpat⟩ := v.endSuspect_spec core
    rw [hvsus] at hsus hloc hctr
    rw [hvctr] at hctr
    exact ⟨t, e, htEnd ▸ hexec, ⟨hsus, hloc, hctr⟩, (State.hist?_congr hhist _ _).trans hentry, hev, herr, hpat ▸ hlast⟩
  · rw [s.localised_agrees core o ht hg hd] at hexec
    obtain ⟨v, e, hv, hentry, -, hev, herr, hvflt, hvctr, -⟩ :=
      s.chargeErr_core (unit := core) (code := 0xB001) (dt := false) (Or.inl rfl)
    rw [hv] at hexec
    obtain ⟨t, htEnd, hsus, hloc, hctr, hhist, hpat⟩ := v.endSuspect_spec core
    have hvsus : v.flt.suspects = s.flt.suspects := by rw [hvflt]
    have hvpat : v.flt.patterns = s.flt.patterns := by rw [hvflt]
    rw [hvsus] at hsus hloc hctr
    rw [hvctr] at hctr
    exact ⟨t, e, htEnd ▸ hexec, ⟨hsus, hloc, hctr⟩, (State.hist?_congr hhist _ _).trans hentry, hev, herr, hpat.trans hvpat⟩

end Sys2Proof.Machine
end

section
/-! The state right after reset (R91 to R93, R225, R312, R339, R407, R416, R431, R441). -/

namespace Sys2Proof.Machine

/-- The main rails are down at reset, so that no output is driven (R440, R441). -/
theorem reset_mainDrives : State.reset.mainDrives = false := rfl

/-- Settles O58: every value is the one that reset names; a core or port that has no entry yet is blank. -/
theorem resetLeavesTheModuleStarting : Obligations.ResetLeavesTheModuleStarting := by
  unfold Obligations.ResetLeavesTheModuleStarting
  have hcore (c : Nat) : State.reset.core c = CoreS.blank := rfl
  have hport (p : Nat) : State.reset.port p = Port.blank := rfl
  have hready : State.reset.pinReady = .hiZ := by simp [State.pinReady, reset_mainDrives, triState]
  have hgood : State.reset.pinPwrgood = .hiZ := by simp [State.pinPwrgood, reset_mainDrives, triState]
  have htick : State.reset.pinTickOut = .hiZ := by simp [State.pinTickOut, reset_mainDrives]
  refine ⟨⟨rfl, reset_memOk, rfl⟩, ⟨rfl, rfl, rfl, rfl, rfl⟩, ⟨rfl, rfl, rfl, rfl, rfl, rfl⟩, ⟨rfl, rfl, rfl, rfl, rfl⟩,
    ⟨rfl, rfl, rfl, rfl, rfl, rfl⟩, ⟨rfl, rfl, rfl, rfl, rfl⟩, ⟨rfl, rfl, rfl, rfl, rfl, rfl⟩,
    ⟨hready, hgood, rfl, rfl, rfl, rfl, htick⟩, fun c _ => ?_, fun p _ => ?_⟩
  · rw [hcore]
    exact ⟨rfl, rfl⟩
  · rw [hport]
    rfl

end Sys2Proof.Machine
end

section
/-! The control registers that commands write (R91, R92, R152, R153, R332). -/

namespace Sys2Proof.Machine

/-! ### Fields held within a range -/

/-- A value held between two ends lies between them. -/
theorem clamp_bounds {lo hi : Nat} (v : Nat) (h : lo ≤ hi) : lo ≤ max lo (min hi v) ∧ max lo (min hi v) ≤ hi :=
  ⟨Nat.le_max_left _ _, Nat.max_le.mpr ⟨h, Nat.min_le_left _ _⟩⟩

theorem fld_byte_lt (v : Word) : fld v 7 0 < 256 := Nat.mod_lt _ (by decide)

/-! ### Calibration by command (R142, R153) -/

theorem State.mem_namedCores (s : State) {k c : Nat} : c ∈ s.namedCores k ↔ c < 128 ∧ (k = 0xFF ∨ k = c) ∧ s.isAbsent c = false := by
  simp [State.namedCores]

/-- A core made due by a command, if it is present. -/
theorem State.makeDue_calm (s : State) (c : Nat) : s.makeDue c false =
    { s with cal := { s.cal with due := if s.isAbsent c then s.cal.due else addOnce s.cal.due c } } := by
  unfold State.makeDue
  split <;> rfl

/-- A command changes of the calibration only which cores are due and which are asked for, and both hold every core of the command that is
present beside those that they held. -/
theorem State.calCommand_spec (s : State) (l : List Nat) : ∃ due go, s.calCommand l = { s with cal := { s.cal with due := due, goCores := go } }
    ∧ ∀ c, (c ∈ go ↔ c ∈ s.cal.goCores ∨ c ∈ l) ∧ (c ∈ due ↔ c ∈ s.cal.due ∨ c ∈ l ∧ s.isAbsent c = false) := by
  induction l generalizing s with
  | nil => exact ⟨s.cal.due, s.cal.goCores, rfl, by simp⟩
  | cons d l ih =>
    obtain ⟨due, go, h, hmem⟩ := ih { s.makeDue d false with
      cal := { (s.makeDue d false).cal with goCores := addOnce (s.makeDue d false).cal.goCores d } }
    rw [s.makeDue_calm d] at h hmem
    refine ⟨due, go, ?_, fun c => ?_⟩
    · rw [← h, ← s.makeDue_calm d]
      rfl
    · obtain ⟨hgo, hdue⟩ := hmem c
      refine ⟨?_, ?_⟩
      · rw [hgo, mem_addOnce, List.mem_cons, or_assoc]
      · rw [hdue]
        change c ∈ (if s.isAbsent d then s.cal.due else addOnce s.cal.due d) ∨ c ∈ l ∧ s.isAbsent c = false ↔ _
        by_cases hcd : c = d
        · subst hcd
          cases ha : s.isAbsent c <;> simp [mem_addOnce]
        · cases s.isAbsent d <;> simp [mem_addOnce, hcd]

/-- The core that CAL_CMD keeps of a written value: 0xFF for every value that names no core (R153). -/
def calNamed (v : Word) : Nat :=
  if 0x80 ≤ fld v 7 0 then 0xFF else fld v 7 0

/-- A write to CAL_CMD with GO. -/
theorem State.writeCalCmd_go (s : State) {v : Word} (h : v.getLsbD 31 = true) : s.writeCalCmd v =
    State.calCommand { s with cal := { s.cal with cmdCore := BitVec.ofNat 8 (calNamed v) } } (s.namedCores (calNamed v)) :=
  if_pos h

/-- CAL_CMD_GO: the core that the register keeps, and the cores that the command names. -/
theorem exec_calCmdGo (v : Word) (s : State) : ∃ t, exec (.calCmdGo v) s = .next t ∧ t.cal.cmdCore = BitVec.ofNat 8 (calNamed v)
    ∧ ∀ c, c < 128 → (calNamed v = 0xFF ∨ calNamed v = c) → s.isAbsent c = false → c ∈ t.cal.goCores ∧ c ∈ t.cal.due := by
  have hbit : (0x80000000 : Word) = BitVec.ofNat 32 (2 ^ 31) := by decide
  have hgo : (v ||| 0x80000000).getLsbD 31 = true := by
    rw [hbit, getLsbD_or_bit v 31 (by decide)]
    simp
  have hcore : calNamed (v ||| 0x80000000) = calNamed v := by
    unfold calNamed
    rw [hbit, fld_or_bit v (by decide) (by decide) (by decide)]
  have hexec : exec (.calCmdGo v) s = .next (s.writeCalCmd (v ||| 0x80000000)) := rfl
  rw [State.writeCalCmd_go s hgo, hcore] at hexec
  obtain ⟨due, go, h, hmem⟩ := State.calCommand_spec { s with cal := { s.cal with cmdCore := BitVec.ofNat 8 (calNamed v) } }
    (s.namedCores (calNamed v))
  refine ⟨_, hexec, by rw [h], fun c hc hk ha => ?_⟩
  have hnamed : c ∈ s.namedCores (calNamed v) := s.mem_namedCores.mpr ⟨hc, hk, ha⟩
  obtain ⟨hmemGo, hmemDue⟩ := hmem c
  rw [h]
  exact ⟨hmemGo.mpr (Or.inr hnamed), hmemDue.mpr (Or.inr ⟨hnamed, ha⟩)⟩

/-! ### O20 -/

/-- Settles O20: each register keeps its field held between its ends, and CAL_CMD asks for the cores that it names. -/
theorem controlRegistersHoldTheirRanges : Obligations.ControlRegistersHoldTheirRanges := by
  unfold Obligations.ControlRegistersHoldTheirRanges
  intro s v
  obtain ⟨hw1lo, hw1hi⟩ := clamp_bounds (lo := 0x40) (hi := 0x80) (fld v 23 16) (by decide)
  obtain ⟨hw3lo, hw3hi⟩ := clamp_bounds (lo := 0x40) (hi := 0x7F) (fld v 15 8) (by decide)
  obtain ⟨hw2lo, hw2hi⟩ := clamp_bounds (lo := 0x40) (hi := 0x55) (fld v 7 0) (by decide)
  have hpatrol : max 1 (fld v 7 0) ≤ 255 := Nat.max_le.mpr ⟨by decide, Nat.le_of_lt_succ (fld_byte_lt v)⟩
  refine ⟨⟨_, rfl, rfl, hw1lo, hw1hi, hw3lo, hw3hi, hw2lo, hw2hi⟩, fun htest => ?_, fun hother => ?_,
    ⟨_, rfl, rfl, clamp_bounds (fld v 7 0) (by decide)⟩, exec_calCmdGo v s, ⟨_, rfl, rfl, Nat.le_max_left _ _, hpatrol⟩⟩
  · exact congrArg Host.Outcome.next (if_pos htest)
  · exact congrArg Host.Outcome.next (if_neg hother)

end Sys2Proof.Machine
end

section
/-! What a tick decides of the beat, the row limits, the power and the step (R91, R302, R303, R391, R399), as a view of the state, and the
operations that leave it as it was. -/

namespace Sys2Proof.Machine

/-! ### The view -/

/-- What a tick decides, and the mailbox and the reasons to leave the domain on which it depends. -/
structure TickView where
  beat : Nat
  windowOpen : Bool
  flywheel : Bool
  missed : Nat
  stretch : Nat
  tickRx : Option TickMsg
  merged : Option Report
  limits : Nat × Nat × Nat
  newLimits : Nat × Nat × Nat
  pd : Nat
  powerLimit : Word
  pin : Word
  ticksOut : Nat
  tickDriven : Bool
  stp : Stp
  upd : Upd
  leaving : Bool
  state : DevState
  seqBusy : Option WaitTicket
  waitq : List WaitTicket
  deleting : List WaitTicket
  holds : Word
  stretches : Word

/-- The view of a state; row limits in the order W1, W3, W2. -/
def State.tickView (s : State) : TickView :=
  { beat := s.lnk.beat, windowOpen := s.lnk.windowOpen, flywheel := s.lnk.flywheel, missed := s.lnk.missed, stretch := s.lnk.stretch,
    tickRx := s.lnk.tickRx, merged := s.lnk.merged, limits := (s.ana.w1lim, s.ana.w3lim, s.ana.w2lim),
    newLimits := (s.ana.w1new, s.ana.w3new, s.ana.w2new), pd := s.pwr.pd, powerLimit := s.pwr.limit, pin := s.pwr.pin,
    ticksOut := s.pwr.ticksOut, tickDriven := s.pwr.tickDriven, stp := s.stp, upd := s.upd, leaving := s.leaving, state := s.hif.state,
    seqBusy := s.hif.seqBusy, waitq := s.hif.waitq, deleting := s.hif.deleting, holds := s.ctrGet cHold, stretches := s.ctrGet cStretch }

/-- A device that no ticket, no step in progress and no loss keeps from an ordinary tick. -/
structure TickView.Quiet (v : TickView) : Prop where
  inactive : v.stp.active = false
  stays : v.leaving = false
  waits : v.waitq = []
  deletes : v.deleting = []
  runs : v.seqBusy = none
  state : v.state ≠ .lost ∧ v.state ≠ .fault

theorem TickView.Quiet.still {s : State} (h : s.tickView.Quiet) : s.hostStill :=
  ⟨h.waits, h.deletes, h.runs, h.state⟩

theorem TickView.Quiet.of_still {s : State} (h : s.hostStill) (ha : s.stp.active = false) (hl : s.leaving = false) :
    s.tickView.Quiet := by
  obtain ⟨hwaits, hdeletes, hruns, hstate⟩ := h
  exact ⟨ha, hl, hwaits, hdeletes, hruns, hstate⟩

/-! ### Operations that leave the view -/

/-- Signals, counters and whatever else the view does not show. -/
theorem State.tickView_congr {s t : State} (lnk : t.lnk = s.lnk) (ana : t.ana = s.ana) (pwr : t.pwr = s.pwr) (stp : t.stp = s.stp)
    (upd : t.upd = s.upd) (mem : t.mem = s.mem) (flt : t.flt = s.flt) (hif : s.hif.OnlySignals t.hif)
    (holds : t.ctrGet cHold = s.ctrGet cHold) (stretches : t.ctrGet cStretch = s.ctrGet cStretch) : t.tickView = s.tickView := by
  unfold State.tickView State.leaving
  rw [lnk, ana, pwr, stp, upd, mem, flt, hif, holds, stretches]

theorem State.Logged.tickView {s t : State} (h : s.Logged t) : t.tickView = s.tickView :=
  State.tickView_congr h.lnk (by rw [h.only]) h.pwr h.stp (by rw [h.only]) (by rw [h.only]) h.flt h.hif (h.ctr _ (by decide) (by decide))
    (h.ctr _ (by decide) (by decide))

theorem State.Traffic.tickView {s t : State} (h : s.Traffic t) : t.tickView = s.tickView := by
  have holds := h.ctr cHold (by decide)
  have stretches := h.ctr cStretch (by decide)
  unfold State.tickView State.leaving
  rw [holds, stretches, h.only]

theorem State.count_tickView (s : State) {off : Nat} (n : Nat) (h : off ∉ [cHold, cStretch]) : (s.count off n).tickView = s.tickView := by
  have hne : cHold ≠ off ∧ cStretch ≠ off := by simpa [eq_comm] using h
  exact State.tickView_congr (by simp) (by simp) (by simp) (by simp) (by simp) (by simp) (by simp) (by simpa using .refl _)
    (s.count_other n hne.1) (s.count_other n hne.2)

theorem State.count_hold_tickView (s : State) (n : Nat) :
    (s.count cHold n).tickView = { s.tickView with holds := satAdd s.tickView.holds n } := by
  have holds : (s.count cHold n).ctrGet cHold = satAdd (s.ctrGet cHold) n := by rw [State.ctrGet_count, if_pos rfl]
  have stretches : (s.count cHold n).ctrGet cStretch = s.ctrGet cStretch := s.count_other n (by decide)
  unfold State.tickView
  rw [holds, stretches, s.count_only cHold n]
  rfl

theorem State.count_stretch_tickView (s : State) (n : Nat) :
    (s.count cStretch n).tickView = { s.tickView with stretches := satAdd s.tickView.stretches n } := by
  have holds : (s.count cStretch n).ctrGet cHold = s.ctrGet cHold := s.count_other n (by decide)
  have stretches : (s.count cStretch n).ctrGet cStretch = satAdd (s.ctrGet cStretch) n := by rw [State.ctrGet_count, if_pos rfl]
  unfold State.tickView
  rw [holds, stretches, s.count_only cStretch n]
  rfl

theorem State.setSticky_tickView (s : State) (i : Nat) : (s.setSticky i).tickView = s.tickView := by
  unfold State.setSticky
  split
  · rfl
  · have hctr (o : Nat) (t : State) (m : Nat) : (t.alert m).ctrGet o = t.ctrGet o := by simp [State.ctrGet]
    exact (State.tickView_congr (by simp) (by simp) (by simp) (by simp) (by simp) (by simp) (by simp) (State.alert_signals _ _)
      (hctr _ _ _) (hctr _ _ _)).trans rfl

theorem State.putShadow_tickView (s : State) (off : Nat) (bs : List Byte) : (s.putShadow off bs).tickView = s.tickView := by
  unfold State.putShadow State.account
  split
  · rfl
  · rw [State.count_tickView _ _ (by decide), State.count_tickView _ _ (by decide)]
    rfl

/-- With no sequenced ticket running, a ticket completes by its posting, which changes its rail and its pass alone. -/
theorem State.complete_tickView (s : State) (w : WaitTicket) (st : Nat) (res : List Word) (h : s.hif.seqBusy = none) :
    (s.complete w st res).tickView = s.tickView := by
  rw [s.complete_post w st res h]
  unfold State.post
  split
  · rfl
  · dsimp only
    split <;> rfl

/-- Packets move whatever has been forwarded. -/
theorem State.Traffic.forwarding {s t : State} (h : s.Traffic t) (l : List (Nat × TickMsg)) :
    State.Traffic { s with lnk := { s.lnk with forwarded := l } } { t with lnk := { t.lnk with forwarded := l } } :=
  ⟨congrArg (fun x : State => { x with lnk := { x.lnk with forwarded := l } }) h.only, h.ctr, h.port⟩

/-- A tick message goes out: the packets and what has been forwarded change. -/
theorem State.sendTick_traffic (s : State) (m : TickMsg) (l : List Nat) :
    State.Traffic { s with lnk := { s.lnk with forwarded := s.lnk.forwarded ++ l.map (fun p => (p, m)) } } (s.sendTick m l) := by
  induction l generalizing s with
  | nil => simpa [State.sendTick] using State.Traffic.refl s
  | cons p l ih =>
    have hsend := State.sendVc0_traffic { s with lnk := { s.lnk with forwarded := s.lnk.forwarded ++ [(p, m)] } } p (TickMsg.bytes m)
    have hnext := ih (State.sendVc0 { s with lnk := { s.lnk with forwarded := s.lnk.forwarded ++ [(p, m)] } } p (TickMsg.bytes m))
    have hfwd : (State.sendVc0 { s with lnk := { s.lnk with forwarded := s.lnk.forwarded ++ [(p, m)] } } p (TickMsg.bytes m)).lnk.forwarded
        = s.lnk.forwarded ++ [(p, m)] := by
      rw [hsend.only]
    rw [hfwd, List.append_assoc] at hnext
    exact (hsend.forwarding _).trans hnext

theorem State.sendTick_tickView (s : State) (m : TickMsg) (l : List Nat) : (s.sendTick m l).tickView = s.tickView :=
  (s.sendTick_traffic m l).tickView.trans rfl

end Sys2Proof.Machine
end

section
/-! The tick (R91, R302, R303, R305, R306, R391, R399): what each of its parts does to the view. -/

namespace Sys2Proof.Machine

/-! ### The beat that a message opens -/

theorem State.takeReport_tickView (s : State) : s.takeReport.tickView = s.tickView := by
  unfold State.takeReport
  split <;> rfl

theorem State.dropEarly_tickView (s : State) : s.dropEarly.tickView = s.tickView := by
  unfold State.dropEarly
  split
  · rfl
  · exact (State.count_tickView _ _ (by decide)).trans rfl

/-- What a message's beat begins with (R302, R305, R306). -/
def TickView.opened (v : TickView) (m : TickMsg) (fly : Bool) : TickView :=
  { v with beat := m.beat % 2 ^ 48, windowOpen := true, stretch := m.k % 16, flywheel := fly, missed := if fly then v.missed + 1 else 0,
           tickRx := none, merged := none, tickDriven := true, stretches := satAdd v.stretches (if m.k = 0 then 0 else 1) }

/-- A stretched beat is logged and counted (R307). -/
theorem State.countStretch_tickView (s : State) (k : Nat) :
    (if 0 < k then (s.raise 0x6005 []).count cStretch 1 else s).tickView =
      { s.tickView with stretches := satAdd s.tickView.stretches (if k = 0 then 0 else 1) } := by
  by_cases hk : k = 0
  · rw [if_neg (by omega), if_pos hk, satAdd_zero]
  · rw [if_pos (Nat.pos_of_ne_zero hk), if_neg hk, State.count_stretch_tickView, (s.raise_logged 0x6005 []).tickView]

theorem State.newBeat_tickView (s : State) (m : TickMsg) (fly : Bool) : (s.newBeat m fly).tickView = s.tickView.opened m fly := by
  unfold State.newBeat
  extract_lets s0 s1 lnk pwr s2 s3
  have h0 : s0.tickView = s.tickView := (State.dropEarly_tickView _).trans s.takeReport_tickView
  have h1 : s1.tickView = s.tickView := by
    rw [← h0]
    unfold s1
    split
    · exact s0.endBeatLog_logged.tickView
    · rfl
  have h2 : s2.tickView = { s1.tickView with
      beat := m.beat % 2 ^ 48, windowOpen := true, stretch := m.k % 16, flywheel := fly, missed := if fly then s1.tickView.missed + 1 else 0,
      tickRx := none, merged := none, tickDriven := true } := rfl
  have h3 : s3.tickView = s2.tickView := by
    unfold s3
    split
    · exact s2.sendTick_tickView m _
    · rfl
  rw [s3.countStretch_tickView m.k, h3, h2, h1]
  rfl

/-! ### The step, the shadow and the lost devices -/

theorem State.tickStep_inactive (s : State) (m : TickMsg) (fly : Bool) (closing : Nat) (h : s.stp.active = false) :
    s.tickStep m fly closing = s := by
  unfold State.tickStep
  rw [if_pos (by simp [h])]

theorem State.takeShared_inactive (s : State) (m : TickMsg) (h : s.stp.active = false) : s.takeShared m = s := by
  unfold State.takeShared
  rw [if_pos (by simp [h])]

theorem State.takeLate_inactive (s : State) (h : s.stp.active = false) : s.takeLate = s := by
  unfold State.takeLate
  rw [if_neg (by simp [h])]

theorem State.shadowTick_tickView (s : State) (commit : Bool) : (s.shadowTick commit).tickView = s.tickView := by
  unfold State.shadowTick
  dsimp only
  split
  · rfl
  · split
    · exact (State.putShadow_tickView _ _ _).trans rfl
    · rfl

theorem State.tickRestored_tickView (s : State) (l : List (Nat × Recov)) : (s.tickRestored l).tickView = s.tickView := by
  induction l generalizing s with
  | nil => rfl
  | cons x l ih =>
    unfold State.tickRestored
    dsimp only
    rw [ih]
    split
    · split <;> rfl
    · rfl

theorem State.tickLeave_stays (s : State) (h : s.leaving = false) : s.tickLeave = s := by
  unfold State.tickLeave
  rw [if_neg (by simp [h])]

/-! ### Settings, power, routes and ports -/

/-- New row limits are in force (R91). -/
theorem State.tickArrays_tickView (s : State) : s.tickArrays.tickView = { s.tickView with limits := s.tickView.newLimits } := rfl

/-- P_D and the measured power are in force (R399, R409). -/
theorem State.tickDuty_tickView (s : State) (pavg : Nat) (closed : Bool) : (s.tickDuty pavg closed).tickView =
    { s.tickView with pd := nextPd s.tickView.pd s.tickView.powerLimit.toNat pavg, pin := wd pavg } := by
  unfold State.tickDuty
  extract_lets s1 pd pwr s2 s3
  have h1 : s1.tickView = s.tickView := by
    unfold s1
    split
    · exact s.count_tickView 1 (by decide)
    · rfl
  have h2 : s2.tickView = { s1.tickView with pd := pd, pin := wd pavg } := rfl
  have h3 : s3.tickView = s2.tickView := by
    unfold s3
    split
    · exact (State.setSticky_tickView _ _).trans (s2.raise_logged _ _).tickView
    · rfl
  have hduty : s3.dutyTick.tickView = s3.tickView := rfl
  rw [hduty, h3, h2, h1]
  rfl

theorem State.tickRoutes_tickView (s : State) (gen : Nat) : (s.tickRoutes gen).tickView = s.tickView := by
  unfold State.tickRoutes
  split
  · rfl
  · split
    · exact (State.raise_logged _ _ _).tickView.trans rfl
    · rfl

theorem State.tickKeys_tickView (s : State) : s.tickKeys.tickView = s.tickView := rfl

theorem State.putPort_tickView (s : State) (p : Nat) (x : Port) : (s.putPort p x).tickView = s.tickView := rfl

theorem State.portDown_tickView (s : State) (p : Nat) : (s.portDown p).tickView = s.tickView := by
  unfold State.portDown State.takeDown
  rw [(State.raiseU_logged _ _ _ _).tickView, (State.noteDowns_traffic _).tickView, (State.dropWaiting_traffic _ _).tickView,
    State.putPort_tickView]

theorem State.tickPorts_tickView (s : State) (l : List Nat) : (s.tickPorts l).tickView = s.tickView := by
  induction l generalizing s with
  | nil => rfl
  | cons p l ih =>
    unfold State.tickPorts State.tickPort
    dsimp only
    rw [ih]
    split
    · exact (State.portDown_tickView _ _).trans rfl
    · split <;> rfl

/-! ### The schedule, the beats counted and the tickets -/

/-- Without a step in progress the beat that opens is held, which is counted, or is not (R391). -/
theorem State.openBeat_inactive (s : State) (hold : Bool) (h : s.stp.active = false) :
    s.openBeat hold = State.count { s with stp := { s.stp with held := hold } } cHold (if hold then 1 else 0) := by
  unfold State.openBeat
  cases hold
  · simp only [h, Bool.not_false, Bool.true_or, Bool.false_eq_true, if_false, if_true]
    rfl
  · rfl

theorem State.openBeat_tickView (s : State) (hold : Bool) (h : s.stp.active = false) : (s.openBeat hold).tickView =
    { s.tickView with stp := { s.tickView.stp with held := hold }, holds := satAdd s.tickView.holds (if hold then 1 else 0) } := by
  rw [s.openBeat_inactive hold h, State.count_hold_tickView]
  rfl

theorem State.countTasteBeat_tickView (s : State) : s.countTasteBeat.tickView = s.tickView := by
  unfold State.countTasteBeat State.countTaste
  split
  · rfl
  · split <;> rfl

theorem State.endLimits_tickView (s : State) (st : Nat) (l : List WaitTicket) (h : s.hif.seqBusy = none) :
    (s.endLimits st l).tickView = s.tickView := by
  induction l generalizing s with
  | nil => rfl
  | cons w l ih =>
    have hview := State.complete_tickView { s with hif := { s.hif with limits := s.hif.limits.erase w } } w st [] h
    unfold State.endLimits
    rw [ih _ ((congrArg TickView.seqBusy hview).trans h), hview]
    rfl

theorem State.tickRestore_idle (s : State) (h : s.hif.seqBusy = none) : s.tickRestore = s := by
  unfold State.tickRestore
  rw [h]

/-! ### The whole tick -/

/-- What an ordinary tick leaves of a view. -/
def TickView.ticked (v : TickView) (m : TickMsg) (pavg : Nat) (fly : Bool) : TickView :=
  { v.opened m fly with
    limits := v.newLimits, pd := nextPd v.pd v.powerLimit.toNat pavg, pin := wd pavg, ticksOut := v.ticksOut + 1,
    stp := { v.stp with held := m.hold }, holds := satAdd v.holds (if m.hold then 1 else 0) }

/-- A tick of a quiet device whose message reports no device lost. -/
theorem State.tick_tickView (s : State) (m : TickMsg) (pavg : Nat) (fly : Bool) (hq : s.tickView.Quiet) (hl : m.lost = []) :
    (s.tick m pavg fly).tickView = s.tickView.ticked m pavg fly := by
  obtain ⟨hact, hstays, hwaits, hdeletes, hruns, hstate⟩ := hq
  unfold State.tick
  extract_lets closing s0 s1 s2 s3 s4 s5 pwr s6
  have h0 : s0.tickView = s.tickView.opened m fly := s.newBeat_tickView m fly
  clear_value s0
  have h1 : s1.tickView = s0.tickView := by
    have a0 : s0.stp.active = false := (congrArg (fun v => v.stp.active) h0).trans hact
    have hshadow := s0.shadowTick_tickView m.commit
    have ashadow : (s0.shadowTick m.commit).stp.active = false := (congrArg (fun v => v.stp.active) hshadow).trans a0
    unfold s1
    rw [State.tickRestored_tickView, hl, s0.tickStep_inactive m fly closing a0, State.takeShared_inactive _ m ashadow]
    exact hshadow
  clear_value s1
  have h2 : s2.tickView = { s1.tickView with
      limits := s1.tickView.newLimits, pd := nextPd s1.tickView.pd s1.tickView.powerLimit.toNat pavg, pin := wd pavg } := by
    unfold s2
    rw [State.tickKeys_tickView, (State.rebuild_traffic _).tickView, State.tickRoutes_tickView, State.tickDuty_tickView,
      State.tickArrays_tickView]
  clear_value s2
  have h3 : s3.tickView = s2.tickView := by
    have hports := s2.tickPorts_tickView (List.range 6)
    have lports : (s2.tickPorts (List.range 6)).leaving = false := by
      refine (congrArg TickView.leaving hports).trans ?_
      rw [h2, h1, h0]
      exact hstays
    unfold s3
    rw [State.tickLeave_stays _ lports, hports]
  clear_value s3
  have a3 : s3.stp.active = false := by
    refine (congrArg (fun v => v.stp.active) h3).trans ?_
    rw [h2, h1, h0]
    exact hact
  have h4 : s4.tickView = { s3.tickView with
      stp := { s3.tickView.stp with held := m.hold }, holds := satAdd s3.tickView.holds (if m.hold then 1 else 0) } := by
    have hopen := s3.openBeat_tickView m.hold a3
    unfold s4
    rw [State.takeLate_inactive _ ((congrArg (fun v => v.stp.active) hopen).trans a3), hopen]
  clear_value s4
  have h5 : s5.tickView = s4.tickView := by
    unfold s5
    split
    · exact s4.countTasteBeat_tickView
    · rfl
  clear_value s5
  have h6 : s6.tickView = s.tickView.ticked m pavg fly := by
    have hout : s6.tickView = { s5.tickView with ticksOut := s5.tickView.ticksOut + 1 } := rfl
    rw [hout, h5, h4, h3, h2, h1, h0]
    rfl
  clear_value s6
  have hend := (s6.endLimits_tickView stSuccess s6.hif.limits ((congrArg TickView.seqBusy h6).trans hruns)).trans h6
  have hquiet : (s6.endLimits stSuccess s6.hif.limits).tickView.Quiet := by
    rw [hend]
    exact ⟨hact, hstays, hwaits, hdeletes, hruns, hstate⟩
  rw [State.tickRestore_idle _ hquiet.runs, State.drain_still _ hquiet.still, hend]

/-! ### O41 -/

theorem exec_beatTick_ticks (s : State) (m : TickMsg) (pavg : Nat) (ht : s.ticks = true) (hm : s.tickOf m) :
    exec (.beatTick pavg) s = .next (s.tick m pavg false) := by
  change execBeatTick pavg s = _
  unfold execBeatTick
  rw [ht]
  rcases hm with ⟨hdev, hown⟩ | ⟨hdev, hrx⟩
  · simp [hdev, hown]
  · simp [hdev, hrx]

theorem exec_flywheelTick_ticks (s : State) (pavg : Nat) (ht : s.ticks = true) (hrx : s.lnk.tickRx = none) (hdev : s.lnk.master ≠ s.device) :
    exec (.flywheelTick pavg) s = .next (((s.tick s.bareTick pavg true).raise 0x6007 []).cause 0xA) := by
  change execFlywheelTick pavg s = _
  unfold execFlywheelTick
  simp [ht, hrx, hdev]

/-- TICK_MESSAGE: the message is kept and sent on, and packets move. -/
theorem exec_tickMessage_kept (s : State) (m : TickMsg) (skew : Int) (hd : s.lnk.domain = true) (hdev : s.lnk.master ≠ s.device) :
    ∃ t, exec (.tickMessage m skew) s = .next t ∧ State.Traffic { s with lnk := { s.lnk with
      tickRx := some m, skew := BitVec.ofInt 16 skew, forwarded := s.lnk.forwarded ++ s.treePorts.map (fun p => (p, m)) } } t := by
  refine ⟨_, if_pos (by simp [hd, hdev]), ?_⟩
  exact State.sendTick_traffic { s with lnk := { s.lnk with tickRx := some m, skew := BitVec.ofInt 16 skew } } m s.treePorts

/-- Settles O41: the view after the tick of a quiet device, with the flywheel's event and cause after it. -/
theorem ticksOpenBeats : Obligations.TicksOpenBeats := by
  unfold Obligations.TicksOpenBeats
  intro s pavg
  refine ⟨fun ht => ⟨?_, ?_⟩, fun hdev hrx => ?_, fun m ht hm hh ha hl hlost => ?_, fun ht hrx hdev hh ha hl => ?_, fun m skew hd hdev => ?_,
    fun m skew h => ?_⟩
  · exact if_pos (by simp [ht])
  · exact if_pos (by simp [ht])
  · change execBeatTick pavg s = _
    unfold execBeatTick
    rw [if_neg hdev, hrx]
    exact ite_self _
  · have hv := s.tick_tickView m pavg false (TickView.Quiet.of_still hh ha hl) hlost
    refine ⟨_, exec_beatTick_ticks s m pavg ht hm, ?_⟩
    generalize s.tick m pavg false = t at hv
    obtain ⟨hw1, hw3, hw2⟩ : t.ana.w1lim = s.ana.w1new ∧ t.ana.w3lim = s.ana.w3new ∧ t.ana.w2lim = s.ana.w2new := by
      simpa [State.tickView, TickView.ticked] using congrArg TickView.limits hv
    exact ⟨congrArg TickView.beat hv, congrArg TickView.windowOpen hv, congrArg TickView.flywheel hv, congrArg TickView.missed hv,
      congrArg TickView.stretch hv, congrArg TickView.tickRx hv, congrArg TickView.merged hv, hw1, hw3, hw2, congrArg TickView.pd hv,
      congrArg TickView.pin hv, congrArg TickView.ticksOut hv, congrArg TickView.tickDriven hv, congrArg (fun v => v.stp.held) hv,
      congrArg TickView.upd hv, congrArg TickView.holds hv, congrArg TickView.stretches hv⟩
  · have hv := ((s.tick s.bareTick pavg true).raise_logged 0x6007 []).tickView.trans
      (s.tick_tickView s.bareTick pavg true (TickView.Quiet.of_still hh ha hl) rfl)
    refine ⟨_, exec_flywheelTick_ticks s pavg ht hrx hdev, ?_⟩
    generalize (s.tick s.bareTick pavg true).raise 0x6007 [] = u at hv
    obtain ⟨late, causes, origins, hcause⟩ := u.cause_only 0xA
    rw [hcause]
    exact ⟨(congrArg TickView.beat hv).trans (Nat.mod_mod _ _), congrArg TickView.flywheel hv, congrArg TickView.missed hv,
      congrArg TickView.windowOpen hv, congrArg TickView.upd hv, congrArg TickView.pd hv, congrArg TickView.pin hv⟩
  · obtain ⟨t, he, htraffic⟩ := exec_tickMessage_kept s m skew hd hdev
    refine ⟨t, he, ?_⟩
    rw [htraffic.only]
    exact ⟨rfl, rfl, rfl, rfl, rfl, rfl, rfl⟩
  · exact if_neg (by rcases h with h | h <;> simp [h])

end Sys2Proof.Machine
end

section
/-! Temperature samples and the comparators' trips (R117, R129, R142, R325 to R327, R393, R402 to R404). -/

namespace Sys2Proof.Machine

/-! ### Units that other units' changes leave -/

theorem State.array_setArray (s : State) (a b : Nat) (x : ArrayS) : (s.setArray a x).array b = if b = a then x else s.array b := by
  unfold State.array State.setArray Tab.get
  rw [Tab.find_put]
  split <;> rfl

theorem State.core_setCore_other (s : State) {c k : Nat} (x : CoreS) (h : k ≠ c) : (s.setCore c x).core k = s.core k :=
  Tab.get_put_other _ _ _ _ _ h

/-- A core made due: it joins those that are, unless it is absent. -/
theorem State.makeDue_spec (s : State) (core : Nat) (urgent : Bool) : ∃ d u,
    s.makeDue core urgent = { s with cal := { s.cal with due := d, urgent := u } } ∧ (∀ k ∈ s.cal.due, k ∈ d)
      ∧ (s.isAbsent core = false → core ∈ d ∧ (urgent = true → core ∈ u)) := by
  unfold State.makeDue
  split
  · rename_i h
    exact ⟨s.cal.due, s.cal.urgent, rfl, fun _ hk => hk, fun hc => absurd h (by simp [hc])⟩
  · refine ⟨_, _, rfl, fun k hk => mem_addOnce.mpr (Or.inl hk), fun _ => ⟨mem_addOnce.mpr (Or.inr rfl), fun hu => ?_⟩⟩
    rw [if_pos hu]
    exact mem_addOnce.mpr (Or.inr rfl)

/-! ### Sticky bits -/

/-- Events have been logged and sticky bits set, and nothing else has happened. -/
structure State.Warned (s t : State) : Prop where
  only : t = { s with ctr := t.ctr, hif := t.hif, sbm := t.sbm, evt := t.evt, pwr := { s.pwr with sticky := t.pwr.sticky } }
  hif : s.hif.OnlySignals t.hif
  sticky : ∀ i, s.pwr.sticky.getLsbD i = true → t.pwr.sticky.getLsbD i = true

theorem State.Warned.refl (s : State) : s.Warned s := ⟨rfl, .refl _, fun _ h => h⟩

theorem State.Warned.trans {s t u : State} (h : s.Warned t) (k : t.Warned u) : s.Warned u := by
  refine ⟨?_, h.hif.trans k.hif, fun i hi => k.sticky i (h.sticky i hi)⟩
  have hk := k.only
  rw [h.only] at hk
  exact hk

theorem State.Logged.warned {s t : State} (h : s.Logged t) : s.Warned t := by
  have hp := h.pwr
  refine ⟨?_, h.hif, fun i hi => by rw [hp]; exact hi⟩
  rw [hp]
  exact h.only

theorem State.alert_only (s : State) (m : Nat) : s.alert m = { s with hif := (s.alert m).hif } := by
  unfold State.alert State.setIrq State.msi
  dsimp only
  split <;> split <;> rfl

theorem State.setSticky_warned (s : State) (i : Nat) : s.Warned (s.setSticky i) := by
  have hbit (j : Nat) (hj : s.pwr.sticky.getLsbD j = true) : (s.setSticky i).pwr.sticky.getLsbD j = true := by
    rw [s.setSticky_bit i (BitVec.lt_of_getLsbD hj), hj, Bool.true_or]
  refine ⟨?_, ?_, hbit⟩
  · unfold State.setSticky
    split
    · rfl
    · rw [State.alert_only]
  · unfold State.setSticky
    split
    · exact .refl _
    · exact State.alert_signals _ _

theorem State.setSticky_sets (s : State) {i : Nat} (hi : i < 10) : (s.setSticky i).pwr.sticky.getLsbD i = true := by
  rw [s.setSticky_bit i hi]
  simp

/-- The levels entered: HOT_WARN and CRITICAL leave their sticky bits. -/
theorem State.levelEvents_spec (s : State) (old new : Nat) : s.Warned (s.levelEvents old new)
    ∧ (old < 3 → 3 ≤ new → (s.levelEvents old new).pwr.sticky.getLsbD 3 = true)
    ∧ (old < 4 → 4 ≤ new → (s.levelEvents old new).pwr.sticky.getLsbD 4 = true) := by
  unfold State.levelEvents
  extract_lets s1 s2
  have h1 : s.Warned s1 := by
    unfold s1
    split
    · exact (s.raise_logged _ _).warned
    · exact .refl s
  have h2 : s1.Warned s2 ∧ (old < 3 → 3 ≤ new → s2.pwr.sticky.getLsbD 3 = true) := by
    unfold s2
    split
    · exact ⟨(s1.raise_logged _ _).warned.trans (State.setSticky_warned _ _), fun _ _ => State.setSticky_sets _ (by decide)⟩
    · rename_i hno
      exact ⟨.refl s1, fun ho hn => absurd ⟨ho, hn⟩ hno⟩
  have h3 : s2.Warned ((s2.raise 0x2005 []).setSticky 4) := (s2.raise_logged _ _).warned.trans (State.setSticky_warned _ _)
  split
  · exact ⟨(h1.trans h2.1).trans h3, fun ho hn => h3.sticky 3 (h2.2 ho hn), fun _ _ => State.setSticky_sets _ (by decide)⟩
  · rename_i hno
    exact ⟨h1.trans h2.1, h2.2, fun ho hn => absurd ⟨ho, hn⟩ hno⟩

/-! ### The comparators (R403) -/

theorem State.closeLog_logged (s : State) : s.Logged s.closeLog := by
  unfold State.closeLog
  have hopen : s.Logged (if s.evt.aonBuf.isEmpty then s else s.openLog) := by
    split
    · exact .refl s
    · exact .trans (.log rfl) (State.writeRecords_logged _ _)
  refine (hopen.trans (State.endBeatLog_logged _)).trans ?_
  exact .trans (.log rfl) (State.writeRecords_logged _ _)

/-- The main rails go off. -/
theorem State.railsOff_pwr (s : State) (h : s.pwr.pwrgood = true) : s.railsOff.pwr = s.pwr.off := by
  unfold State.railsOff
  simp only [h, Bool.not_true, Bool.false_eq_true, if_false]
  rw [s.closeLog_logged.pwr]

/-- A comparator below its limit, or with the rails off. -/
theorem State.thermTrip_stays (s : State) (src : ThermSource) (temp : Int) (h : s.pwr.pwrgood = false ∨ temp < thermLimit src) :
    s.thermTrip src temp = s := by
  unfold State.thermTrip
  rcases h with h | h <;> simp [h]

/-- A comparator at its limit takes the rails off, and the shutdown latches. -/
theorem State.thermTrip_trips (s : State) (src : ThermSource) (temp : Int) (hp : s.pwr.pwrgood = true) (ht : thermLimit src ≤ temp) :
    (s.thermTrip src temp).pwr.pwrgood = false ∧ (s.thermTrip src temp).pwr.thermLatch = true
      ∧ (s.thermTrip src temp).pwr.sticky.getLsbD 8 = true := by
  generalize hu : ({ s with pwr := { s.pwr with thermLatch := true } } : State).railsOff = u
  have hoff : u.pwr = Pwr.off { s.pwr with thermLatch := true } := by
    rw [← hu]
    exact State.railsOff_pwr { s with pwr := { s.pwr with thermLatch := true } } hp
  have htrip : s.thermTrip src temp = (u.setSticky 8).raise 0x2006 [] := by
    unfold State.thermTrip
    rw [if_neg (by simp [hp, ht]), hu]
  have hpwr : (u.setSticky 8).pwr = { u.pwr with sticky := (u.setSticky 8).pwr.sticky } := by
    rw [(u.setSticky_warned 8).only]
  rw [htrip, State.raise_pwr]
  refine ⟨?_, ?_, u.setSticky_sets (by decide)⟩
  · rw [hpwr, hoff]
    rfl
  · rw [hpwr, hoff]
    rfl

/-! ### The cores of a sampled cluster (R129, R142) -/

/-- Cores have been sampled, and nothing else has happened but that events were logged and cores have fallen due. -/
structure State.CoresSampled (s t : State) : Prop where
  only : t = { s with ctr := t.ctr, hif := t.hif, sbm := t.sbm, evt := t.evt, ana := { s.ana with cores := t.ana.cores },
                      cal := { s.cal with due := t.cal.due, urgent := t.cal.urgent } }
  hif : s.hif.OnlySignals t.hif
  due : ∀ k ∈ s.cal.due, k ∈ t.cal.due

theorem State.CoresSampled.refl (s : State) : s.CoresSampled s := ⟨rfl, .refl _, fun _ h => h⟩

theorem State.CoresSampled.trans {s t u : State} (h : s.CoresSampled t) (k : t.CoresSampled u) : s.CoresSampled u := by
  refine ⟨?_, h.hif.trans k.hif, fun c hc => k.due c (h.due c hc)⟩
  have hk := k.only
  rw [h.only] at hk
  exact hk

theorem State.Logged.coresSampled {s t : State} (h : s.Logged t) : s.CoresSampled t := by
  have hcal : t.cal = s.cal := by rw [h.only]
  have hana : t.ana = s.ana := by rw [h.only]
  refine ⟨?_, h.hif, fun k hk => by rw [hcal]; exact hk⟩
  rw [hcal, hana]
  exact h.only

theorem State.setCore_coresSampled (s : State) (c : Nat) (x : CoreS) : s.CoresSampled (s.setCore c x) :=
  ⟨rfl, .refl _, fun _ h => h⟩

theorem State.makeDue_coresSampled (s : State) (c : Nat) (urgent : Bool) : s.CoresSampled (s.makeDue c urgent) := by
  obtain ⟨d, u, h, hdue, -⟩ := s.makeDue_spec c urgent
  rw [h]
  exact ⟨rfl, .refl _, hdue⟩

theorem State.CoresSampled.state {s t : State} (h : s.CoresSampled t) : t.hif.state = s.hif.state := by rw [h.hif]

theorem State.CoresSampled.isAbsent {s t : State} (h : s.CoresSampled t) (k : Nat) : t.isAbsent k = s.isAbsent k := by
  unfold State.isAbsent
  rw [h.only]

theorem State.CoresSampled.trig {s t : State} (h : s.CoresSampled t) : t.cal.trig = s.cal.trig := by rw [h.only]

/-- Of a core whose sensor reads x: its temperature and band, and that it is due where x is beyond the trigger. -/
structure State.CoreReads (s t : State) (k : Nat) (x : Int) : Prop where
  temp : (t.core k).temp = x
  band : (t.core k).band = bandFor (s.core k).band x
  due : s.hif.state ≠ .boot → s.isAbsent k = false → s.cal.trig < (x - (s.core k).tempCal).natAbs → k ∈ t.cal.due

/-- One core sampled. -/
theorem State.coreTemp_spec (s : State) (core : Nat) (x : Int) : s.CoresSampled (s.coreTemp core x)
    ∧ s.CoreReads (s.coreTemp core x) core x ∧ ∀ j, j ≠ core → (s.coreTemp core x).core j = s.core j := by
  unfold State.coreTemp
  extract_lets c s1 off s2
  have hset : s.CoresSampled s1 := s.setCore_coresSampled core _
  have hcore : s1.core core = { c with temp := x, band := bandFor c.band x } := s.core_setCore core _
  have hothers (j : Nat) (hj : j ≠ core) : s1.core j = s.core j := s.core_setCore_other _ hj
  split
  · rename_i hout
    refine ⟨hset, ⟨by rw [hcore], by rw [hcore], fun hboot habs _ => ?_⟩, hothers⟩
    rcases hout with h | h
    · exact absurd h hboot
    · simp [habs] at h
  -- the core falls due where it is beyond the trigger
  obtain ⟨d, u, hmade, -, hdue⟩ := s1.makeDue_spec core false
  have hs2 : s1.CoresSampled s2 := by
    unfold s2
    split
    · exact s1.makeDue_coresSampled _ _
    · exact .refl s1
  have hana : s2.ana = s1.ana := by
    unfold s2
    split
    · rw [hmade]
    · rfl
  have hin : s.isAbsent core = false → s.cal.trig < off → core ∈ s2.cal.due := by
    intro habs htrig
    unfold s2
    rw [if_pos htrig, hmade]
    exact (hdue habs).1
  have hcore2 (j : Nat) : s2.core j = s1.core j := by
    unfold State.core
    rw [hana]
  split
  · -- CAL_LAG
    generalize hs3 : s2.raiseU 0xC003 (uCore * 2 ^ 22 + core) [wd core, sWord c.tempCal, sWord x] = s3
    have hlog : s2.Logged s3 := hs3 ▸ s2.raiseU_logged _ _ _
    have hset4 := s3.setCore_coresSampled core { s2.core core with lagNext := true }
    generalize hs4 : s3.setCore core { s2.core core with lagNext := true } = s4 at hset4
    have hlag := s4.makeDue_coresSampled core true
    obtain ⟨d', u', hmade', -, -⟩ := s4.makeDue_spec core true
    have hself : (s4.makeDue core true).core core = { s2.core core with lagNext := true } := by
      rw [hmade', ← hs4]
      exact s3.core_setCore core _
    have hmid := hlog.coresSampled.trans (hset4.trans hlag)
    refine ⟨(hset.trans hs2).trans hmid, ⟨?_, ?_, fun _ habs htrig => hmid.due core (hin habs htrig)⟩, fun j hj => ?_⟩
    · rw [hself, hcore2, hcore]
    · rw [hself, hcore2, hcore]
    · have hj4 : (s4.makeDue core true).core j = s3.core j := by
        rw [hmade', ← hs4]
        exact s3.core_setCore_other _ hj
      have hj3 : s3.core j = s2.core j := by
        unfold State.core
        rw [hlog.only]
      rw [hj4, hj3, hcore2, hothers j hj]
  · refine ⟨hset.trans hs2, ⟨?_, ?_, fun _ habs htrig => hin habs htrig⟩, fun j hj => ?_⟩
    · rw [hcore2, hcore]
    · rw [hcore2, hcore]
    · rw [hcore2, hothers j hj]

/-- A core whose cluster's sensor is sampled, or left alone where none is. -/
def State.sampleCore (s : State) (c : Nat) (clusters : List Int) : State :=
  match clusters[c / 8]? with
  | some t => s.coreTemp c t
  | none => s

theorem State.coreTemps_cons (s : State) (c : Nat) (l : List Nat) (clusters : List Int) :
    s.coreTemps (c :: l) clusters = (s.sampleCore c clusters).coreTemps l clusters := rfl

theorem State.sampleCore_spec (s : State) (c : Nat) (cl : List Int) : s.CoresSampled (s.sampleCore c cl)
    ∧ (∀ x, cl[c / 8]? = some x → s.CoreReads (s.sampleCore c cl) c x)
    ∧ ∀ j, (j ≠ c ∨ cl[j / 8]? = none) → (s.sampleCore c cl).core j = s.core j := by
  unfold State.sampleCore
  cases hx : cl[c / 8]? with
  | none => exact ⟨.refl s, by simp, fun _ _ => rfl⟩
  | some x =>
    obtain ⟨hs, hreads, hothers⟩ := s.coreTemp_spec c x
    refine ⟨hs, fun y hy => Option.some.inj hy ▸ hreads, fun j hj => hothers j ?_⟩
    rcases hj with h | h
    · exact h
    · rintro rfl
      rw [hx] at h
      exact nomatch h

/-- The cores of a list sampled, each once. -/
theorem State.coreTemps_spec (s : State) (l : List Nat) (cl : List Int) (hl : l.Nodup) : s.CoresSampled (s.coreTemps l cl)
    ∧ (∀ k x, k ∈ l → cl[k / 8]? = some x → s.CoreReads (s.coreTemps l cl) k x)
    ∧ ∀ j, (j ∉ l ∨ cl[j / 8]? = none) → (s.coreTemps l cl).core j = s.core j := by
  induction l generalizing s with
  | nil => exact ⟨.refl s, by simp, fun _ _ => rfl⟩
  | cons c l ih =>
    obtain ⟨hc, hl⟩ := List.nodup_cons.mp hl
    obtain ⟨hone, hread, hkeep⟩ := s.sampleCore_spec c cl
    obtain ⟨hrest, hreads, hkeeps⟩ := ih (s.sampleCore c cl) hl
    rw [State.coreTemps_cons]
    refine ⟨hone.trans hrest, fun k x hk hx => ?_, fun j hj => ?_⟩
    · rcases List.mem_cons.mp hk with rfl | hk
      · have h := hread x hx
        have hsame := hkeeps k (Or.inl hc)
        exact ⟨by rw [hsame, h.temp], by rw [hsame, h.band], fun h1 h2 h3 => hrest.due k (h.due h1 h2 h3)⟩
      · have hne : k ≠ c := fun h => hc (h ▸ hk)
        have hsame := hkeep k (Or.inl hne)
        have h := hreads k x hk hx
        refine ⟨h.temp, by rw [h.band, hsame], fun h1 h2 h3 => h.due ?_ ?_ ?_⟩
        · rwa [hone.state]
        · rwa [hone.isAbsent]
        · rwa [hone.trig, hsame]
    · have h1 : j ≠ c ∨ cl[j / 8]? = none := hj.imp (fun h e => h (e ▸ List.mem_cons_self)) id
      have h2 : j ∉ l ∨ cl[j / 8]? = none := hj.imp (fun h e => h (List.mem_cons_of_mem _ e)) id
      rw [hkeeps j h2, hkeep j h1]

/-! ### A sample of the dies (R402) -/

/-- What a sample of the dies leaves, apart from a comparator's trip. -/
theorem State.dieTemps_spec (s : State) (cd0 cd1 iod : Int) (cl : List Int) :
    let hot := max cd0 cd1
    let lvl := dieLevel s.pwr.therm hot
    ∃ t, s.dieTemps cd0 cd1 iod cl = t ∧ t.pwr.pwrgood = s.pwr.pwrgood
      ∧ t.pwr.cd0 = cd0 ∧ t.pwr.cd1 = cd1 ∧ t.pwr.iod = iod ∧ t.pwr.therm = lvl
      ∧ t.pwr.ceil = (if 1000 ≤ hot then max 2 (s.pwr.ceil - 1) else s.pwr.ceil)
      ∧ (t.ana.coldRef = true ↔ cd0 < 0 ∨ cd1 < 0) ∧ (t.ana.hotRef = true ↔ 2 ≤ lvl)
      ∧ t.pwr.duty ≤ s.pwr.duty ∧ t.pwr.duty ≤ t.pwr.ceil
      ∧ (s.pwr.therm < 3 → 3 ≤ lvl → t.pwr.sticky.getLsbD 3 = true) ∧ (s.pwr.therm < 4 → lvl = 4 → t.pwr.sticky.getLsbD 4 = true)
      ∧ (∀ i, s.pwr.sticky.getLsbD i = true → t.pwr.sticky.getLsbD i = true)
      ∧ (∀ k x, k < 128 → cl[k / 8]? = some x → s.CoreReads t k x)
      ∧ (∀ k, cl[k / 8]? = none → t.core k = s.core k) ∧ t.store = s.store ∧ t.flt = s.flt := by
  intro hot lvl
  unfold State.dieTemps
  extract_lets ceil p a s1
  obtain ⟨hwarn, h3, h4⟩ := s1.levelEvents_spec s.pwr.therm lvl
  generalize s1.levelEvents s.pwr.therm lvl = s2 at hwarn h3 h4
  obtain ⟨hsamp, hreads, hkeep⟩ := s2.coreTemps_spec (List.range 128) cl List.nodup_range
  generalize s2.coreTemps (List.range 128) cl = s3 at hsamp hreads hkeep
  generalize ht : s3.dutyFall = t
  have hpwr : s3.pwr = { s1.pwr with sticky := s2.pwr.sticky } := by
    rw [hsamp.only, hwarn.only]
  have hana : t.ana = { s1.ana with cores := s3.ana.cores } := by
    rw [← ht]
    change s3.ana = _
    rw [hsamp.only, hwarn.only]
  have hcores (k : Nat) : s2.core k = s.core k := by
    unfold State.core
    rw [hwarn.only]
  have hfall : t.pwr = { s1.pwr with
      sticky := s2.pwr.sticky, duty := min s.pwr.duty s3.dutyNow, lowDuty := min s.pwr.lowDuty (min s.pwr.duty s3.dutyNow) } := by
    rw [← ht]
    unfold State.dutyFall
    dsimp only
    rw [hpwr]
  have hnow : s3.dutyNow ≤ ceil := by
    unfold State.dutyNow
    rw [hpwr]
    exact (Nat.min_le_left _ _).trans (Nat.min_le_right _ _)
  refine ⟨t, rfl, by rw [hfall], by rw [hfall], by rw [hfall], by rw [hfall], by rw [hfall], by rw [hfall],
    ?_, ?_, ?_, ?_, ?_, ?_, ?_, ?_, ?_, ?_, ?_⟩
  · rw [hana]
    simp [s1]
  · rw [hana]
    simp [s1]
  · rw [hfall]
    exact Nat.min_le_left _ _
  · rw [hfall]
    exact (Nat.min_le_right _ _).trans hnow
  · rw [hfall]
    exact h3
  · rw [hfall]
    exact fun ho hl => h4 ho (Nat.le_of_eq hl.symm)
  · rw [hfall]
    exact fun i hi => hwarn.sticky i hi
  · intro k x hk hx
    have h := hreads k x (List.mem_range.mpr hk) hx
    rw [← ht]
    refine ⟨h.temp, h.band.trans (by rw [hcores]), fun hboot habs htrig => h.due ?_ ?_ ?_⟩
    · rw [hwarn.hif]
      exact hboot
    · rw [hwarn.only]
      exact habs
    · rw [hcores, hwarn.only]
      exact htrig
  · intro k hk
    rw [← ht]
    exact (hkeep k (Or.inr hk)).trans (hcores k)
  · rw [← ht]
    change s3.store = _
    rw [hsamp.only, hwarn.only]
  · rw [← ht]
    change s3.flt = _
    rw [hsamp.only, hwarn.only]

/-! ### A sample of the coolant (R404) -/

theorem State.coolant_spec (s : State) (inlet outlet : Int) :
    State.Warned { s with pwr := { s.pwr with inlet := inlet, outlet := outlet } } (s.coolant inlet outlet)
      ∧ (650 ≤ outlet → s.pwr.outlet < 650 → (s.coolant inlet outlet).pwr.sticky.getLsbD 5 = true) := by
  unfold State.coolant
  extract_lets p s1
  split
  · exact ⟨(s1.raise_logged _ _).warned.trans (State.setSticky_warned _ _), fun _ _ => State.setSticky_sets _ (by decide)⟩
  · rename_i hno
    exact ⟨.refl s1, fun ho hn => absurd ⟨ho, hn⟩ hno⟩

/-! ### A sample of a memory device (R325, R327) -/

/-- CRITICAL is entered at 102 °C and no lower. -/
theorem memLevel_critical {old : Nat} {t : Int} (h : old < 4) : memLevel old t = 4 ↔ 1020 ≤ t := by
  unfold memLevel memReached
  split_ifs <;> omega

theorem State.memHot_logged (s : State) (dev old new lvl : Nat) (t : Int) : s.Logged (s.memHot dev old new lvl t) := by
  unfold State.memHot
  split
  · exact s.raiseU_logged _ _ _
  · exact .refl s

theorem State.memTempSample_spec (s : State) (dev : Nat) (temp : Int) :
    let old := (Tab.get s.mem.temps dev (0, 0)).1
    ∃ t, s.memTempSample dev temp = t ∧ t.pwr = s.pwr ∧ t.mem.temps = Tab.put s.mem.temps dev (memLevel old temp, temp)
      ∧ (old < 4 → 1020 ≤ temp → t.mem.evac = true ∧ dev ∈ t.mem.hot ∧ t.evt.alarm.getLsbD 2 = true)
      ∧ (temp < 1020 ∨ 4 ≤ old → t.mem.evac = s.mem.evac ∧ t.mem.hot = s.mem.hot) := by
  intro old
  unfold State.memTempSample
  extract_lets new m1 s1 s2 m2
  have hlog : s1.Logged s2 := (s1.memHot_logged ..).trans (State.memHot_logged ..)
  have hpwr : s2.pwr = s.pwr := hlog.pwr
  have hmem : s2.mem = s1.mem := by rw [hlog.only]
  refine ⟨_, rfl, ?_⟩
  split
  · rename_i h
    have hcrit := (memLevel_critical h.1).mp h.2
    rw [State.raise_pwr, State.raise_mem]
    refine ⟨hpwr, congrArg MemSys.temps hmem, fun _ _ => ⟨rfl, mem_addOnce.mpr (Or.inr rfl), ?_⟩, fun hno => by omega⟩
    exact State.raiseU_alarm _ 0x2002 0 [] (by decide) (by decide)
  · rename_i h
    rw [hmem]
    exact ⟨hpwr, rfl, fun ho hc => absurd ⟨ho, (memLevel_critical ho).mpr hc⟩ h, fun _ => ⟨rfl, rfl⟩⟩

/-! ### O52 -/

theorem exec_dieTempSample (s : State) (cd0 cd1 iod : Int) (cl : List Int) : exec (.dieTempSample cd0 cd1 iod cl) s
    = .next ((s.dieTemps cd0 cd1 iod cl).thermTrip .die (max (max cd0 cd1) iod)) := rfl

theorem exec_coolantSample (s : State) (inlet outlet : Int) : exec (.coolantSample inlet outlet) s
    = .next ((s.coolant inlet outlet).thermTrip .outlet outlet) := rfl

theorem exec_memTempSample (s : State) (dev : Nat) (temp : Int) (h : dev < 24) : exec (.memTempSample dev temp) s
    = .next ((s.memTempSample dev temp).thermTrip .memory temp) :=
  if_neg (Nat.not_le.mpr h)

theorem exec_evacClear (s : State) : exec .evacClear s = if s.mem.temps.all (fun e => decide (e.2.2 < 950)) then
    .next { s with mem := { s.mem with evac := false, hot := [] } } else .next s := rfl

/-- Settles O52: each sample by what it leaves in the state, and then by what its comparator does at its limit. -/
theorem temperaturesActAtOnce : Obligations.TemperaturesActAtOnce := by
  unfold Obligations.TemperaturesActAtOnce
  intro s
  refine ⟨fun cd0 cd1 iod cl => ⟨fun hp ht => ?_, fun h => ?_⟩,
    fun inlet outlet => ⟨fun hp ht => ?_, fun h => ⟨fun hw => ?_, fun ho hn => ?_⟩⟩,
    fun dev temp hdev => ⟨fun hp ht => ?_, fun h => ?_⟩, fun h => ?_, fun ⟨e, he, hhot⟩ => ?_⟩
  · obtain ⟨t, hsample, hgood, -⟩ := s.dieTemps_spec cd0 cd1 iod cl
    rw [exec_dieTempSample, hsample]
    exact ⟨_, rfl, t.thermTrip_trips .die _ (hgood.trans hp) ht⟩
  · obtain ⟨t, hsample, hgood, h0, h1, h2, htherm, hceil, hcold, hhot, hduty, hdceil, h3, h4, hsticky, hreads, hkeep, hstore, hflt⟩ :=
      s.dieTemps_spec cd0 cd1 iod cl
    rw [exec_dieTempSample, hsample, t.thermTrip_stays .die _ (h.imp (fun h => hgood.trans h) id)]
    refine ⟨t, rfl, h0, h1, h2, htherm, hceil, hcold, hhot, hduty, hdceil, h3, h4, hsticky, fun k x hk hx => ?_, hkeep, hstore, hflt⟩
    obtain ⟨htemp, hband, hdue⟩ := hreads k x hk hx
    exact ⟨htemp, hband, hdue⟩
  · obtain ⟨hw, -⟩ := s.coolant_spec inlet outlet
    obtain ⟨hoff, hlatch, -⟩ := State.thermTrip_trips (s.coolant inlet outlet) .outlet outlet (by rw [hw.only]; exact hp) ht
    exact ⟨_, exec_coolantSample .., hoff, hlatch⟩
  · have hc : s.coolant inlet outlet = { s with pwr := { s.pwr with inlet := inlet, outlet := outlet } } := if_neg (by omega)
    rw [exec_coolantSample, State.thermTrip_stays _ .outlet _ (h.imp (fun h => by rw [hc]; exact h) id), hc]
  · obtain ⟨hw, hbit⟩ := s.coolant_spec inlet outlet
    refine ⟨s.coolant inlet outlet, ?_, by rw [hw.only], by rw [hw.only], hbit ho hn⟩
    rw [exec_coolantSample, State.thermTrip_stays _ .outlet _ (h.imp (fun h => by rw [hw.only]; exact h) id)]
  · obtain ⟨t, hsample, hpwr, -⟩ := s.memTempSample_spec dev temp
    obtain ⟨hoff, hlatch, -⟩ := t.thermTrip_trips .memory temp (by rw [hpwr]; exact hp) ht
    rw [exec_memTempSample s dev temp hdev, hsample]
    exact ⟨_, rfl, hoff, hlatch⟩
  · obtain ⟨t, hsample, hpwr, htemps, hcrit, hcool⟩ := s.memTempSample_spec dev temp
    rw [exec_memTempSample s dev temp hdev, hsample, t.thermTrip_stays .memory _ (h.imp (fun h => by rw [hpwr]; exact h) id)]
    refine ⟨t, rfl, by rw [htemps, Tab.get_put_same], fun j hj => ?_, hcrit, hcool⟩
    rw [htemps, Tab.find_put_other _ _ _ _ hj]
  · rw [exec_evacClear, if_pos (by simpa [List.all_eq_true] using h)]
  · rw [exec_evacClear, if_neg]
    rw [List.all_eq_true]
    intro hall
    have := hall e he
    simp only [decide_eq_true_eq] at this
    omega

end Sys2Proof.Machine
end

section
/-! The step boundary (R24, R125, R254, R262, R350, R353, R358, R365): what waits for it, the ports that come back at it, the recipe that
ends or makes way at it, and the tickets that then go on. -/

namespace Sys2Proof.Machine

/-! ### Tickets that end -/

/-- A completion posted changes the rails and the passes alone. -/
theorem State.post_only (s : State) (op : Half) (k : Ticket) (st : Nat) (res : List Word) :
    ∃ rs ps, s.post op k st res = { s with hif := { s.hif with rails := rs, passes := ps } } := by
  unfold State.post
  split
  · exact ⟨s.hif.rails, s.hif.passes, rfl⟩
  · dsimp only
    split
    · exact ⟨_, s.hif.passes, rfl⟩
    · exact ⟨_, _, rfl⟩

/-- Tickets have ended, and nothing has changed but the mailbox: no ticket more waits, and the device's STATE is as it was. -/
structure State.Ended (s t : State) : Prop where
  only : t = { s with hif := t.hif }
  waits : t.hif.waitq = s.hif.waitq
  state : t.hif.state = s.hif.state

theorem State.Ended.refl (s : State) : s.Ended s := ⟨rfl, rfl, rfl⟩

theorem State.Ended.trans {s t u : State} (h : s.Ended t) (k : t.Ended u) : s.Ended u := by
  refine ⟨?_, k.waits.trans h.waits, k.state.trans h.state⟩
  have hk := k.only
  rw [h.only] at hk
  exact hk

theorem State.complete_ended (s : State) (w : WaitTicket) (st : Nat) (res : List Word) : s.Ended (s.complete w st res)
    ∧ (s.complete w st res).hif.deleting = s.hif.deleting ∧ (s.hif.seqBusy = some w → (s.complete w st res).hif.seqBusy = none) := by
  obtain ⟨rs, ps, h⟩ := s.post_only w.op w.t st res
  unfold State.complete
  rw [h]
  dsimp only
  split
  · exact ⟨⟨rfl, rfl, rfl⟩, rfl, fun _ => rfl⟩
  · rename_i hbusy
    exact ⟨⟨rfl, rfl, rfl⟩, rfl, fun hw => absurd hw hbusy⟩

theorem State.finishDeletes_ended (s : State) (l : List WaitTicket) : s.Ended (s.finishDeletes l) := by
  induction l generalizing s with
  | nil => exact .refl s
  | cons w l ih =>
    unfold State.finishDeletes
    split
    · have herase : s.Ended { s with hif := { s.hif with deleting := s.hif.deleting.erase w } } := ⟨rfl, rfl, rfl⟩
      have hdone := (State.complete_ended { s with hif := { s.hif with deleting := s.hif.deleting.erase w } } w stSuccess []).1
      refine (herase.trans (hdone.trans ?_)).trans (ih _)
      exact ⟨rfl, rfl, rfl⟩
    · exact ih s

/-- With no ticket waiting and the device in service, tickets that have run end, and no more. -/
theorem State.drain_ended (s : State) (hw : s.hif.waitq = []) (hl : s.hif.state ≠ .lost) (hf : s.hif.state ≠ .fault) : s.Ended s.drain := by
  have quiet (u : State) (n : Nat) (h : u.hif.waitq = []) : u.Ended (u.drainN n) := by
    cases n with
    | zero => exact .refl u
    | succ n =>
      have hdel := u.finishDeletes_ended u.hif.deleting
      have hnone : (u.finishDeletes u.hif.deleting).hif.waitq = [] := hdel.waits.trans h
      unfold State.drainN
      dsimp only
      rw [hnone, State.startable_nil]
      exact hdel
  have hlost : s.endLost = s := if_neg (by simp [hl, hf])
  unfold State.drain
  rw [hlost]
  dsimp only
  split
  · exact quiet s _ hw
  · rename_i w _
    split
    · have hdone := (s.complete_ended w stSuccess []).1
      exact hdone.trans (quiet _ _ (hdone.waits.trans hw))
    · exact quiet s _ hw

/-- With no ticket to end, the loss of the device ends the attempt and its recipe. -/
theorem State.drain_lost (s : State) (hs : s.hif.state = .lost) (hi : s.hif.Idle) : ∃ x, s.drain = { s.endAttempt with rcp := x } := by
  obtain ⟨hw, hd, hb⟩ := s.endAttempt_events.hif.idle hi
  have running (x : Rcp) : State.endRunning { s.endAttempt with rcp := x } = { s.endAttempt with rcp := x } := by
    simp only [State.endRunning, hb]
  have hend : ∃ x, s.endLost = { s.endAttempt with rcp := x } := by
    unfold State.endLost
    rw [if_pos (Or.inl hs)]
    dsimp only
    split
    · rw [running]
      dsimp only
      rw [hw]
      exact ⟨_, rfl⟩
    · exact ⟨_, running _⟩
  obtain ⟨x, hx⟩ := hend
  refine ⟨x, ?_⟩
  unfold State.drain
  rw [hx]
  simp only [hb]
  exact State.drainN_quiet _ _ hw hd

/-! ### What a boundary puts in force -/

/-- Ports come back: the links and their power domains change, and packets on their way with them. -/
theorem State.portsBack_only (s : State) (l : List Nat) :
    ∃ c k p, s.portsBack l = { s with ctr := c, lnk := k, pwr := p } := by
  induction l generalizing s with
  | nil => exact ⟨s.ctr, s.lnk, s.pwr, rfl⟩
  | cons p l ih =>
    have hone : ∃ c k w, s.portBack p = { s with ctr := c, lnk := k, pwr := w } := by
      unfold State.portBack
      dsimp only
      split
      · rw [(State.noteDowns_traffic _).only]
        exact ⟨_, _, _, rfl⟩
      · exact ⟨s.ctr, _, _, rfl⟩
    obtain ⟨c, k, w, hone⟩ := hone
    obtain ⟨c', k', w', hrest⟩ := ih (s.portBack p)
    refine ⟨c', k', w', ?_⟩
    change (s.portBack p).portsBack l = _
    rw [hrest, hone]

/-- What is put in force before the recipe is looked at: groups, ports, spare banks and the tasting interval. -/
def State.passBoundary (s : State) : State :=
  ((s.takeGroups).portsBack (List.range 6)).takeSpares

theorem State.passBoundary_only (s : State) : ∃ c k p, s.passBoundary = { s with
    ctr := c, lnk := k, pwr := p, stp := { s.stp with boundary := false }
    rcp := { s.rcp with groups := applyGroups s.rcp.groups s.rcp.pending, pending := [] }
    flt := { s.flt with spareBanks := s.flt.spareBanks ++ s.flt.bankNext, bankNext := [] }
    ana := { s.ana with interval := s.ana.intervalNew } } := by
  obtain ⟨c, k, p, h⟩ := s.takeGroups.portsBack_only (List.range 6)
  refine ⟨c, k, p, ?_⟩
  unfold State.passBoundary
  rw [h]
  rfl

/-! ### The recipe at a boundary -/

theorem State.stopHere_active (s : State) (h : s.stp.active = true) : s.stopHere = s := by
  unfold State.stopHere
  rw [if_pos h]

/-- With no ticket waiting or running, a recipe that was asked to stop is over, and another goes on. -/
theorem State.stopHere_still (s : State) (ha : s.stp.active = false) (hn : s.rcp.startNext = none) (hw : s.hif.waitq = [])
    (hb : s.hif.seqBusy = none) : s.stopHere = if s.rcp.state = .stopping then s.endRecipe else s := by
  have hrelease : s.endRecipe.release 0x0304 = s.endRecipe := by
    unfold State.release
    change (match s.hif.seqBusy with | some w => _ | none => _) = _
    rw [hb]
  have habort (u : State) (hu : u.hif.waitq = []) : u.abortList u.hif.waitq = u := by
    rw [hu]
    rfl
  unfold State.stopHere
  rw [if_neg (by simp [ha]), hn]
  dsimp only
  rw [hrelease, habort s.endRecipe hw, habort s hw]
  simp only [ite_self]

/-- A recipe that makes way for another. -/
theorem State.stopHere_next (s : State) {h first : Nat} (ha : s.stp.active = false) (hn : s.rcp.startNext = some (h, first))
    (hr : s.rcp.state = .running ∨ s.rcp.state = .stopping) : s.stopHere = (s.endRecipe.startRecipe h first).release 0x0303 := by
  unfold State.stopHere
  rw [if_neg (by simp [ha]), hn]
  rcases hr with hr | hr <;> simp [hr]

/-- The STATE in which a device stands after a boundary (R350). -/
def State.settled (s : State) : DevState :=
  if s.hif.state = .running then (if s.rcp.state = .running ∨ s.rcp.state = .stopping then .running else .ready) else s.hif.state

theorem State.settleRun_eq (s : State) : s.settleRun = s.setState s.settled := by
  unfold State.settleRun State.settled
  split
  · unfold State.settle
    cases s.rcp.state <;> simp
  · unfold State.setState
    rw [if_pos rfl]

theorem State.settled_serves (s : State) (hl : s.hif.state ≠ .lost) (hf : s.hif.state ≠ .fault) :
    s.settled ≠ .lost ∧ s.settled ≠ .fault := by
  unfold State.settled
  split_ifs
  · exact ⟨by decide, by decide⟩
  · exact ⟨by decide, by decide⟩
  · exact ⟨hl, hf⟩

theorem State.settled_started (s : State) (hb : s.hif.state ≠ .boot) : s.settled ≠ .boot := by
  unfold State.settled
  split_ifs
  · decide
  · decide
  · exact hb

theorem State.setState_interval (s : State) (d : DevState) : (s.setState d).ana.interval = s.ana.interval := by
  unfold State.setState
  split
  · rfl
  · rw [State.setIrq_ana]

theorem State.setState_ready (s : State) (d : DevState) (h : s.hif.state ≠ d) : (s.setState d).hif.ready = d.isReady := by
  unfold State.setState
  rw [if_neg h, State.setIrq_signals]

/-- What a change of STATE leaves of the tickets. -/
theorem State.setState_tickets (s : State) (d : DevState) : (s.setState d).hif.waitq = s.hif.waitq
    ∧ (s.setState d).hif.deleting = s.hif.deleting ∧ (s.setState d).hif.seqBusy = s.hif.seqBusy := by
  unfold State.setState
  split
  · exact ⟨rfl, rfl, rfl⟩
  · rw [State.setIrq_signals]
    exact ⟨rfl, rfl, rfl⟩

/-- A recipe that starts is the one that runs, with no step in progress. -/
theorem State.startRecipe_spec (s : State) (h first : Nat) :
    let t := s.startRecipe h first
    t.flt = s.flt ∧ t.stp.active = false ∧ t.hif.state = .running
    ∧ (t.rcp.state = .running ∧ t.rcp.handle = h ∧ t.rcp.nextStep = first ∧ t.rcp.startNext = none)
    ∧ t.hif.waitq = s.hif.waitq ∧ t.hif.deleting = s.hif.deleting ∧ t.hif.seqBusy = s.hif.seqBusy := by
  intro t
  unfold t State.startRecipe
  obtain ⟨hw, hd, hb⟩ := State.setState_tickets (State.pruneLive { s with
    rcp := { s.rcp with state := .running, handle := h, nextStep := first, startNext := none, unloadAtStop := false }
    stp := { Stp.reset with boundary := s.stp.boundary, held := s.stp.held }
    stk := []
    lnk := { s.lnk with late := [] }
    ana := { s.ana with tasteBeats := 0 } }) .running
  rw [State.setState_flt, State.setState_stp, State.setState_rcp, State.setState_state, hw, hd, hb]
  exact ⟨rfl, rfl, rfl, ⟨rfl, rfl, rfl, rfl⟩, rfl, rfl, rfl⟩

theorem State.takeLost_stays (s : State) (h : s.flt.lostNext = false) : s.takeLost = s := by
  unfold State.takeLost
  simp [h]

/-- A device that was to be treated as lost from the boundary on is. -/
theorem State.takeLost_leaves (s : State) (h : s.flt.lostNext = true) (hb : s.hif.state ≠ .boot) (hf : s.hif.state ≠ .fault) :
    s.takeLost =
      ({ s with flt := { s.flt with lostNext := false }, stp := { s.stp with active := false, halted := true } } : State).setState .lost := by
  unfold State.takeLost
  rw [if_pos (by simp [h, hb])]
  unfold State.lose
  exact if_neg hf

/-- A boundary's work, by its parts. -/
theorem State.atBoundary_eq (s : State) : s.atBoundary = (s.passBoundary.stopHere.setState s.passBoundary.stopHere.settled).takeLost := by
  unfold State.atBoundary
  rw [State.settleRun_eq]
  rfl

/-! ### The step that begins at a boundary -/

theorem State.beginStep_inactive (s : State) (h : s.stp.active = false) : s.beginStep = s := by
  unfold State.beginStep
  simp [h]

theorem State.fenceCheck_spec (s : State) : s.fenceCheck.rcp = s.rcp ∧ s.fenceCheck.stp.active = s.stp.active := by
  unfold State.fenceCheck
  split
  · exact ⟨rfl, rfl⟩
  · extract_lets x s1
    have h1 : s1.rcp = s.rcp ∧ s1.stp.active = s.stp.active := by
      unfold s1
      split
      · rw [State.count_rcp, State.count_stp]
        exact ⟨rfl, rfl⟩
      · exact ⟨rfl, rfl⟩
    split
    · split
      · exact h1
      · rw [State.raise_rcp, State.raise_stp]
        exact h1
    · exact h1

/-- A step accepted begins, or waits: in either case it is the one in progress, of the same recipe. -/
theorem State.beginStep_spec (s : State) : s.beginStep.stp.active = s.stp.active ∧ s.beginStep.rcp.state = s.rcp.state
    ∧ s.beginStep.rcp.handle = s.rcp.handle := by
  unfold State.beginStep
  split
  · extract_lets s1 x s2 y
    obtain ⟨hr, ha⟩ := State.fenceCheck_spec { s2 with stp := { s2.stp with beat := s2.beatFrom s2.cur.head.beats 0 } }
    rw [hr, ha]
    exact ⟨rfl, rfl, rfl⟩
  · exact ⟨rfl, rfl, rfl⟩

theorem State.fail_active (s : State) (c : Nat) : (s.fail c).stp.active = s.stp.active := by
  unfold State.fail State.keepLate
  split
  · split <;> rfl
  · split <;> rfl

theorem State.causeAt_active (s : State) (c : Nat) (t : Stamp) : (s.causeAt c t).stp.active = s.stp.active := by
  unfold State.causeAt State.keepLate
  split
  · split <;> rfl
  · split <;> rfl

theorem State.giveCauses_spec (s : State) (l : List (Bool × Nat × Stamp)) :
    (s.giveCauses l).stp.active = s.stp.active ∧ (s.giveCauses l).rcp = s.rcp := by
  induction l generalizing s with
  | nil => exact ⟨rfl, rfl⟩
  | cons c l ih =>
    unfold State.giveCauses
    obtain ⟨ha, hr⟩ := ih (if c.1 then s.fail c.2.1 else s.causeAt c.2.1 c.2.2)
    rw [ha, hr]
    split
    · exact ⟨s.fail_active _, s.fail_rcp _⟩
    · exact ⟨s.causeAt_active _ _, s.causeAt_rcp _ _⟩

theorem State.takeLate_spec (s : State) : s.takeLate.stp.active = s.stp.active ∧ s.takeLate.rcp = s.rcp := by
  unfold State.takeLate
  split
  · exact State.giveCauses_spec _ _
  · exact ⟨rfl, rfl⟩

/-! ### O45 -/

theorem exec_boundaryApply_stays (s : State) (ha : s.stp.active = true) (hb : s.stp.begun = true) : exec .boundaryApply s = .next s :=
  if_pos (by rw [ha, hb]; rfl)

theorem exec_boundaryApply (s : State) (h : s.stp.active = false ∨ s.stp.begun = false) :
    exec .boundaryApply s = .next (s.atBoundary.drain.beginStep).takeLate :=
  if_neg (by rcases h with h | h <;> simp [h])

/-- Where no step is in progress after the boundary and nothing waits, its work is all. -/
theorem exec_boundaryApply_still (s : State) (ha : s.stp.active = false) (hb : s.atBoundary.stp.active = false)
    (hh : s.atBoundary.hostStill) : exec .boundaryApply s = .next s.atBoundary := by
  rw [exec_boundaryApply s (Or.inl ha), s.atBoundary.drain_still hh, s.atBoundary.beginStep_inactive hb, s.atBoundary.takeLate_inactive hb]

/-- A step that has been accepted is not cut off by a boundary. -/
theorem exec_boundaryApply_accepted (s : State) (ha : s.stp.active = true) (hb : s.stp.begun = false) (hw : s.hif.waitq = [])
    (hl : s.hif.state ≠ .lost) (hf : s.hif.state ≠ .fault) (hn : s.flt.lostNext = false) :
    ∃ t, exec .boundaryApply s = .next t ∧ t.rcp.state = s.rcp.state ∧ t.rcp.handle = s.rcp.handle ∧ t.stp.active = true := by
  obtain ⟨c, k, p, hpass⟩ := s.passBoundary_only
  generalize hu : s.passBoundary = u at hpass
  have hstop : u.stopHere = u := u.stopHere_active (by rw [hpass]; exact ha)
  have hserves := u.settled_serves (by rw [hpass]; exact hl) (by rw [hpass]; exact hf)
  have hat : s.atBoundary = u.setState u.settled := by
    rw [s.atBoundary_eq, hu, hstop]
    refine State.takeLost_stays _ ?_
    rw [State.setState_flt, hpass]
    exact hn
  have hexec := exec_boundaryApply s (Or.inr hb)
  rw [hat] at hexec
  have hidle : (u.setState u.settled).hif.waitq = [] := by
    rw [(u.setState_tickets _).1, hpass]
    exact hw
  have hdrain := (u.setState u.settled).drain_ended hidle (by rw [State.setState_state]; exact hserves.1)
    (by rw [State.setState_state]; exact hserves.2)
  generalize (u.setState u.settled).drain = v at hdrain hexec
  have hv : v.rcp = u.rcp ∧ v.stp = u.stp := by
    rw [hdrain.only]
    exact ⟨u.setState_rcp _, u.setState_stp _⟩
  have hkept : v.rcp.state = s.rcp.state ∧ v.rcp.handle = s.rcp.handle ∧ v.stp.active = true := by
    rw [hv.1, hv.2, hpass]
    exact ⟨rfl, rfl, ha⟩
  obtain ⟨hstate, hhandle, hactive⟩ := hkept
  obtain ⟨hact, hst, hh⟩ := v.beginStep_spec
  obtain ⟨hact', hrcp⟩ := v.beginStep.takeLate_spec
  refine ⟨_, hexec, ?_, ?_, ?_⟩
  · rw [hrcp, hst, hstate]
  · rw [hrcp, hh, hhandle]
  · rw [hact', hact, hactive]

/-- What a boundary puts in force with no step in progress, and the recipe that it ends. -/
theorem exec_boundaryApply_applies (s : State) (ha : s.stp.active = false) (hh : s.hostStill) (hs : s.rcp.startNext = none)
    (hn : s.flt.lostNext = false) :
    ∃ t, exec .boundaryApply s = .next t ∧ t.rcp.groups = applyGroups s.rcp.groups s.rcp.pending ∧ t.rcp.pending = []
      ∧ t.flt.spareBanks = s.flt.spareBanks ++ s.flt.bankNext ∧ t.flt.bankNext = [] ∧ t.ana.interval = s.ana.intervalNew
      ∧ t.stp.boundary = false ∧ (s.rcp.state = .stopping → t.rcp.state = .idle) ∧ (s.rcp.state ≠ .stopping → t.rcp.state = s.rcp.state)
      ∧ (s.rcp.state = .stopping → s.rcp.unloadAtStop = true → t.recipe s.rcp.handle = none)
      ∧ (s.hif.state = .running → s.rcp.state = .stopping → t.hif.state = .ready) := by
  obtain ⟨hw, hd, hb, hl, hf⟩ := hh
  obtain ⟨c, k, p, hpass⟩ := s.passBoundary_only
  generalize hu : s.passBoundary = u at hpass
  have hstop : u.stopHere = if u.rcp.state = .stopping then u.endRecipe else u := by
    subst hpass
    exact State.stopHere_still _ ha hs hw hb
  generalize hx : u.stopHere = x at hstop
  have hsame : x.stp = u.stp ∧ x.flt = u.flt ∧ x.hif = u.hif ∧ x.ana = u.ana ∧ x.rcp.groups = u.rcp.groups
      ∧ x.rcp.pending = u.rcp.pending := by
    rw [hstop]
    split <;> exact ⟨rfl, rfl, rfl, rfl, rfl, rfl⟩
  obtain ⟨hstp, hflt, hhif, hana, hgroups, hpending⟩ := hsame
  have hserves := x.settled_serves (by rw [hhif, hpass]; exact hl) (by rw [hhif, hpass]; exact hf)
  have hat : s.atBoundary = x.setState x.settled := by
    rw [s.atBoundary_eq, hu, hx]
    refine State.takeLost_stays _ ?_
    rw [State.setState_flt, hflt, hpass]
    exact hn
  have hidle : (x.setState x.settled).hif.Idle := by
    refine x.setState_idle _ ?_
    rw [hhif, hpass]
    exact ⟨hw, hd, hb⟩
  have hstate := x.setState_state x.settled
  have hstill : (x.setState x.settled).hostStill :=
    ⟨hidle.waits, hidle.deletes, hidle.runs, by rw [hstate]; exact hserves.1, by rw [hstate]; exact hserves.2⟩
  have hexec : exec .boundaryApply s = .next s.atBoundary := by
    refine exec_boundaryApply_still s ha ?_ ?_
    · rw [hat, State.setState_stp, hstp, hpass]
      exact ha
    · rw [hat]
      exact hstill
  refine ⟨_, hexec, ?_⟩
  unfold State.recipe
  rw [hat, State.setState_rcp, State.setState_flt, State.setState_stp, State.setState_interval, hstate, hstp, hflt, hana, hgroups, hpending]
  have hstopping : u.rcp.state = s.rcp.state := by rw [hpass]
  rw [hstopping] at hstop
  refine ⟨by rw [hpass], by rw [hpass], by rw [hpass], by rw [hpass], by rw [hpass], by rw [hpass], ?_, ?_, ?_, ?_⟩
  · intro h
    rw [hstop, if_pos h]
    rfl
  · intro h
    rw [hstop, if_neg h, hstopping]
  · intro h hunload
    rw [hstop, if_pos h]
    have hslots : u.endRecipe.rcp.slots = Tab.del s.rcp.slots s.rcp.handle := by
      rw [hpass]
      exact if_pos hunload
    rw [hslots, Tab.find_del, if_pos rfl]
  · intro hrun h
    unfold State.settled
    rw [hhif, hpass, hstop, if_pos h, if_pos hrun]
    rfl

/-- Another recipe starts at the boundary at which one makes way for it (R254). -/
theorem exec_boundaryApply_takesOver (s : State) {h first : Nat} {w : WaitTicket} (ha : s.stp.active = false)
    (hs : s.rcp.startNext = some (h, first)) (hr : s.rcp.state = .running ∨ s.rcp.state = .stopping) (hb : s.hif.seqBusy = some w)
    (hop : w.op = 0x0303) (hw : s.hif.waitq = []) (hd : s.hif.deleting = []) (hn : s.flt.lostNext = false) :
    ∃ t, exec .boundaryApply s = .next t ∧ t.rcp.state = .running ∧ t.rcp.handle = h
      ∧ t.rcp.nextStep = first ∧ t.rcp.startNext = none ∧ t.hif.seqBusy = none ∧ t.hif.state = .running := by
  obtain ⟨c, k, p, hpass⟩ := s.passBoundary_only
  generalize hu : s.passBoundary = u at hpass
  have hstop : u.stopHere = (u.endRecipe.startRecipe h first).release 0x0303 := by
    subst hpass
    exact State.stopHere_next _ ha hs hr
  obtain ⟨hflt, hact, hstate, ⟨hrun, hhandle, hfirst, hnone⟩, hwait, hdel, hbusy⟩ := u.endRecipe.startRecipe_spec h first
  generalize hy : u.endRecipe.startRecipe h first = y at *
  have hhif : u.endRecipe.hif = s.hif := by rw [hpass]; rfl
  have hlost : y.flt.lostNext = false := by
    rw [hflt, hpass]
    exact hn
  rw [hhif] at hwait hdel hbusy
  obtain ⟨hend, hkept, hdone⟩ := y.complete_ended w stSuccess []
  have hrelease : y.release 0x0303 = y.complete w stSuccess [] := by
    unfold State.release
    rw [hbusy, hb]
    exact if_pos hop
  rw [hrelease] at hstop
  generalize hx : y.complete w stSuccess [] = x at *
  have hidle : x.hif.Idle := ⟨by rw [hend.waits, hwait, hw], by rw [hkept, hdel, hd], hdone (by rw [hbusy, hb])⟩
  have hsame : x.rcp = y.rcp ∧ x.flt = y.flt ∧ x.stp = y.stp := by
    rw [hend.only]
    exact ⟨rfl, rfl, rfl⟩
  obtain ⟨hrcp, hxflt, hstp⟩ := hsame
  have hsettled : x.settled = .running := by
    unfold State.settled
    rw [hend.state, hstate, hrcp, hrun]
    rfl
  have hat : s.atBoundary = x.setState .running := by
    rw [s.atBoundary_eq, hu, hstop, hsettled]
    refine State.takeLost_stays _ ?_
    rw [State.setState_flt, hxflt, hlost]
  have hstill := (x.setState_idle .running hidle)
  have hnow := x.setState_state .running
  have hexec : exec .boundaryApply s = .next s.atBoundary := by
    refine exec_boundaryApply_still s ha ?_ ?_
    · rw [hat, State.setState_stp, hstp, hact]
    · rw [hat]
      exact ⟨hstill.waits, hstill.deletes, hstill.runs, by rw [hnow]; decide, by rw [hnow]; decide⟩
  refine ⟨_, hexec, ?_⟩
  rw [hat, State.setState_rcp, hrcp]
  exact ⟨hrun, hhandle, hfirst, hnone, hstill.runs, hnow⟩

/-- A device that was to be treated as lost from the boundary on is lost there (R365). -/
theorem exec_boundaryApply_leaves (s : State) (ha : s.stp.active = false) (hh : s.hostStill) (hs : s.rcp.startNext = none)
    (hn : s.flt.lostNext = true) (hboot : s.hif.state ≠ .boot) :
    ∃ t, exec .boundaryApply s = .next t ∧ t.hif.state = .lost ∧ t.flt.lostNext = false ∧ t.hif.ready = false := by
  obtain ⟨hw, hd, hb, hl, hf⟩ := hh
  obtain ⟨c, k, p, hpass⟩ := s.passBoundary_only
  generalize hu : s.passBoundary = u at hpass
  have hstop : u.stopHere = if u.rcp.state = .stopping then u.endRecipe else u := by
    subst hpass
    exact State.stopHere_still _ ha hs hw hb
  generalize hx : u.stopHere = x at hstop
  have hsame : x.flt.lostNext = true ∧ x.hif = s.hif := by
    rw [hstop, hpass]
    split <;> exact ⟨hn, rfl⟩
  obtain ⟨hflt, hhif⟩ := hsame
  have hserves := x.settled_serves (by rw [hhif]; exact hl) (by rw [hhif]; exact hf)
  have hstarted := x.settled_started (by rw [hhif]; exact hboot)
  have hidle : (x.setState x.settled).hif.Idle := by
    refine x.setState_idle _ ?_
    rw [hhif]
    exact ⟨hw, hd, hb⟩
  have hat := State.takeLost_leaves (x.setState x.settled) (by rw [State.setState_flt]; exact hflt)
    (by rw [State.setState_state]; exact hstarted) (by rw [State.setState_state]; exact hserves.2)
  rw [← hx, ← hu, ← s.atBoundary_eq, hu, hx] at hat
  have hserved : (x.setState x.settled).hif.state ≠ .lost := by
    rw [State.setState_state]
    exact hserves.1
  generalize x.setState x.settled = y at hat hidle hserved
  have hexec := exec_boundaryApply s (Or.inl ha)
  generalize s.atBoundary = z at hat hexec
  have hlost : z.hif.state = .lost := by rw [hat, State.setState_state]
  have hready : z.hif.ready = false := by
    rw [hat]
    exact State.setState_ready _ _ hserved
  have hnext : z.flt.lostNext = false := by rw [hat, State.setState_flt]
  obtain ⟨r, hdrain⟩ := z.drain_lost hlost (by rw [hat]; exact State.setState_idle _ _ hidle)
  have hends := z.endAttempt_events
  have hinactive := z.endAttempt_inactive
  have hkept : z.drain.stp.active = false ∧ z.drain.hif = z.endAttempt.hif ∧ z.drain.flt = z.endAttempt.flt := by
    rw [hdrain]
    exact ⟨hinactive, rfl, rfl⟩
  obtain ⟨hact, hhif', hflt'⟩ := hkept
  rw [State.beginStep_inactive _ hact, State.takeLate_inactive _ hact] at hexec
  refine ⟨_, hexec, ?_⟩
  rw [hhif', hflt', hends.hif, hends.flt]
  exact ⟨hlost, hnext, hready⟩

/-- Settles O45: a boundary's work by its parts (`State.atBoundary_eq`), case by case of the step, the recipe and the device. -/
theorem boundariesApplyWhatWaits : Obligations.BoundariesApplyWhatWaits := by
  unfold Obligations.BoundariesApplyWhatWaits
  intro s
  refine ⟨exec_boundaryApply_stays s, exec_boundaryApply_accepted s, exec_boundaryApply_applies s, ?_, exec_boundaryApply_leaves s⟩
  intro h first w ha hs hr hb hop hw hd _ _ hn
  exact exec_boundaryApply_takesOver s ha hs hr hb hop hw hd hn

end Sys2Proof.Machine
end

section
/-! Errors charged to units and the background work that repairs arrays: what they do to one array, and what they leave as it was (R24, R136
to R139, R323, R363 to R365). -/

namespace Sys2Proof.Machine

/-! ### One array -/

theorem State.array_congr {s t : State} (h : t.ana.arrays = s.ana.arrays) (a : Nat) : t.array a = s.array a := by
  unfold State.array
  rw [h]

theorem State.quarantine_array (s : State) (a b : Nat) :
    (s.quarantine a).array b = if b = a then { s.array a with status := 3, refNext := true } else s.array b :=
  s.array_setArray a b _

/-- Of several arrays QUARANTINED, each is; no other changes. -/
theorem State.quarantineAll_array (s : State) (l : List Nat) (b : Nat) :
    (s.quarantineAll l).array b = if b ∈ l then { s.array b with status := 3, refNext := true } else s.array b := by
  induction l generalizing s with
  | nil => simp [State.quarantineAll]
  | cons a l ih =>
    unfold State.quarantineAll
    rw [ih, s.quarantine_array a b]
    by_cases hb : b = a
    · subst hb
      simp
    · simp [hb]

theorem State.quarantineAll_only (s : State) (l : List Nat) :
    s.quarantineAll l = { s with ana := { s.ana with arrays := (s.quarantineAll l).ana.arrays } } := by
  induction l generalizing s with
  | nil => rfl
  | cons a l ih =>
    unfold State.quarantineAll
    rw [ih]
    rfl

theorem State.quarantineAll_core (s : State) (l : List Nat) (c : Nat) : (s.quarantineAll l).core c = s.core c := by
  rw [s.quarantineAll_only l]
  rfl

/-! ### Errors charged (R363 to R365) -/

theorem State.record_hours (s : State) (r : Record) (unit : Nat) : (s.record r unit).evt.hours = s.evt.hours := by
  have halarm (c : Nat) : (s.setAlarm c).evt.hours = s.evt.hours := by
    unfold State.setAlarm
    split
    · rfl
    · rw [State.alert_evt]
  have htake (e : Recorder) : (e.take r unit).hours = e.hours := by
    unfold Recorder.take
    dsimp only
    split <;> rfl
  have haon (e : Recorder) : (e.takeAon r).hours = e.hours := by
    unfold Recorder.takeAon
    split <;> rfl
  have hset : (if prioOf r.code = 0 then s.setAlarm (r.code / 4096) else s).evt.hours = s.evt.hours := by
    split
    · exact halarm _
    · rfl
  unfold State.record
  extract_lets code s1 s2
  split
  · have h2 : s2.evt.hours = s.evt.hours := (htake _).trans hset
    split <;> simp [h2]
  · split
    · exact (haon _).trans hset
    · exact hset

theorem State.raiseU_hour256 (s : State) (code unit : Nat) (l : List Word) : (s.raiseU code unit l).hour256 = s.hour256 :=
  congrArg (· / 256) (s.record_hours _ _)

/-- The entry of a unit other than a core depends on the history alone. -/
theorem State.histOf_congr {s t : State} (h : t.flt.hist = s.flt.hist) {cls : Nat} (hc : cls ≠ uCore) (unit : Nat) :
    t.histOf cls unit = s.histOf cls unit := by
  unfold State.histOf State.freshHist
  rw [State.hist?_congr h]
  simp only [hc, if_false]

/-- A failed directed test makes a unit PERMANENT that was not out of service (R364). -/
theorem UnitHist.withError_failed (e : UnitHist) (h code : Nat) (he : e.state = .clean ∨ e.state = .transient) :
    (e.withError h code true).state = .permanent ∧ (e.withError h code true).dtFail = true := by
  unfold UnitHist.withError nowPermanent
  rcases he with he | he <;> simp [he]

/-- An error charged to a unit: the entry written and the event logged, then what is done with the unit once it is PERMANENT. -/
theorem State.chargeErr_spec (s : State) (cls unit code : Nat) (dt : Bool) :
    let e := UnitHist.withError (s.histOf cls unit) s.hour256 code dt
    ∃ u, s.Charged u ∧ u.ana = s.ana ∧ u.flt.hist = (s.setHist e).flt.hist
      ∧ s.chargeErr cls unit code dt = 
        if e.state = .permanent ∧ (s.histOf cls unit).state ≠ .permanent then u.permanent cls unit else u := by
  intro e
  have hset := s.setHist_charged e
  have hana : (s.setHist e).ana = s.ana := by
    unfold State.setHist
    split
    · rfl
    · rw [State.count_ana]
  unfold State.chargeErr
  change ∃ u, _ ∧ _ ∧ _ ∧ (if e.state = .permanent ∧ _ then _ else _) = _
  split
  · refine ⟨_, (hset.trans (State.count_charged _ 1 (by decide))).trans (State.raiseU_logged _ _ _ _).charged, ?_, ?_, rfl⟩
    · rw [State.raiseU_ana, State.count_ana, hana]
    · rw [State.raiseU_flt, State.count_flt]
  · refine ⟨if e.state = .transient then (s.setHist e).count cTrans 1 else s.setHist e, ?_, ?_, ?_, rfl⟩
    · split
      · exact hset.trans (State.count_charged _ 1 (by decide))
      · exact hset
    · split
      · rw [State.count_ana, hana]
      · exact hana
    · split
      · rw [State.count_flt]
      · rfl

/-- What an error charged to an array does to the arrays: at most, it is QUARANTINED. -/
theorem State.chargeErr_array_only (s : State) (a code : Nat) (dt : Bool) :
    (∀ b, b ≠ a → (s.chargeErr uArray a code dt).array b = s.array b)
    ∧ ((s.chargeErr uArray a code dt).array a = s.array a
      ∨ (s.chargeErr uArray a code dt).array a = { s.array a with status := 3, refNext := true }) := by
  obtain ⟨u, -, hana, -, h⟩ := s.chargeErr_spec uArray a code dt
  have hu (b : Nat) : u.array b = s.array b := State.array_congr (by rw [hana]) b
  rw [h]
  split
  · have hq (b : Nat) : (u.permanent uArray a).array b = _ := u.quarantine_array a b
    refine ⟨fun b hb => ?_, Or.inr ?_⟩
    · rw [hq, if_neg hb, hu]
    · rw [hq, if_pos rfl, hu]
  · exact ⟨fun b _ => hu b, Or.inl (hu a)⟩

/-- A directed test that a unit fails, which was not out of service. -/
theorem State.chargeErr_failed (s : State) (cls unit code : Nat)
    (h : (s.histOf cls unit).state = .clean ∨ (s.histOf cls unit).state = .transient) : ∃ u, s.Charged u ∧ u.ana = s.ana
    ∧ u.flt.hist = (s.setHist (UnitHist.withError (s.histOf cls unit) s.hour256 code true)).flt.hist
    ∧ s.chargeErr cls unit code true = u.permanent cls unit := by
  obtain ⟨u, hu, hana, hist, hcase⟩ := s.chargeErr_spec cls unit code true
  refine ⟨u, hu, hana, hist, ?_⟩
  rw [hcase, if_pos]
  refine ⟨(UnitHist.withError_failed _ _ _ h).1, ?_⟩
  rcases h with h | h <;> rw [h] <;> decide

/-- The entry of an array to which an error is charged. -/
theorem State.chargeErr_array_entry (s : State) (a code : Nat) (dt : Bool) :
    (s.chargeErr uArray a code dt).hist? uArray a = some (UnitHist.withError (s.histOf uArray a) s.hour256 code dt) := by
  obtain ⟨u, -, -, hist, h⟩ := s.chargeErr_spec uArray a code dt
  have hentry := s.charged_entry u (cls := uArray) rfl hist
  rw [h]
  split
  · rw [← hentry]
    exact State.hist?_congr rfl _ _
  · exact hentry

/-! ### Background work on arrays -/

/-- The counters that it may change. -/
def tendedCtrs : List Nat := chargeCtrs ++ [cMemUe, cMemShort, cMemRmw, cRowRemap, cRowRetire, cNan, cChkWin, cChkFail]

/-- Arrays have been written, measured or found at fault by background work: what they hold and their history has changed, and marked
codewords met; no step, no recipe and no link has. -/
structure State.Tended (s t : State) : Prop where
  only : t = { s with
    ctr := t.ctr, hif := t.hif, sbm := t.sbm, evt := t.evt
    ana := { s.ana with arrays := t.ana.arrays, cells := t.ana.cells, scales := t.ana.scales, rem := t.ana.rem }
    cal := { s.cal with remap := t.cal.remap }
    mem := { s.mem with poison := t.mem.poison }
    flt := { s.flt with hist := t.flt.hist, lostNext := t.flt.lostNext, lostTick := t.flt.lostTick } }
  ctr : ∀ o, o ∉ tendedCtrs → t.ctrGet o = s.ctrGet o
  hif : s.hif.OnlySignals t.hif

theorem State.Tended.refl (s : State) : s.Tended s := ⟨rfl, fun _ _ => rfl, .refl _⟩

theorem State.Tended.trans {s t u : State} (h : s.Tended t) (k : t.Tended u) : s.Tended u := by
  refine ⟨?_, fun o ho => (k.ctr o ho).trans (h.ctr o ho), h.hif.trans k.hif⟩
  have hk := k.only
  rw [h.only] at hk
  exact hk

theorem State.Charged.tended {s t : State} (h : s.Charged t) : s.Tended t := by
  have hcal : t.cal = s.cal := by rw [h.only]
  have hmem := h.mem
  have hana : t.ana = { s.ana with arrays := t.ana.arrays } := by rw [h.only]
  have hcells : t.ana.cells = s.ana.cells := by rw [hana]
  have hscales : t.ana.scales = s.ana.scales := by rw [hana]
  have hrem : t.ana.rem = s.ana.rem := by rw [hana]
  refine ⟨?_, fun o ho => h.ctr o (fun hc => ho (List.mem_append_left _ hc)), h.hif⟩
  rw [hcal, hmem, hcells, hscales, hrem]
  exact h.only

theorem State.Logged.tended {s t : State} (h : s.Logged t) : s.Tended t := h.charged.tended

theorem State.Tended.stp {s t : State} (h : s.Tended t) : t.stp = s.stp := by rw [h.only]
theorem State.Tended.rcp {s t : State} (h : s.Tended t) : t.rcp = s.rcp := by rw [h.only]
theorem State.Tended.sct {s t : State} (h : s.Tended t) : t.ana.sctEpoch = s.ana.sctEpoch := by rw [h.only]

theorem State.Tended.core {s t : State} (h : s.Tended t) (c : Nat) : t.core c = s.core c := by
  unfold State.core
  rw [h.only]

theorem State.Tended.afterClose {s t : State} (h : s.Tended t) : t.afterClose = s.afterClose := by
  unfold State.afterClose
  rw [h.only]

theorem State.count_tended (s : State) {off : Nat} (n : Nat) (h : off ∈ tendedCtrs) : s.Tended (s.count off n) := by
  refine ⟨?_, fun o ho => s.count_other n (fun e => ho (e ▸ h)), by rw [State.count_hif]; exact .refl _⟩
  unfold State.count
  split <;> rfl

theorem State.setArray_tended (s : State) (a : Nat) (x : ArrayS) : s.Tended (s.setArray a x) := (s.setArray_charged a x).tended

theorem State.putRow_tended (s : State) (a row : Nat) (cells : List (BitVec 2)) (rem : List Int) : s.Tended (s.putRow a row cells rem) :=
  ⟨rfl, fun _ _ => rfl, .refl _⟩

theorem State.Tended.foldl {α : Type} {f : State → α → State} (hf : ∀ (t : State) a, t.Tended (f t a)) (l : List α) (s : State) :
    s.Tended (l.foldl f s) := by
  induction l generalizing s with
  | nil => exact .refl s
  | cons a l ih => exact (hf s a).trans (ih _)

/-! ### Reads of the image, and rows and arrays written from it (R85, R132, R323) -/

theorem State.memUe_tended (s : State) (reader core : Nat) (l : List (Nat × Nat)) : s.Tended (s.memUe reader core l) := by
  induction l generalizing s with
  | nil => exact .refl s
  | cons x l ih =>
    obtain ⟨u, hu, hc⟩ := s.memUe_cons reader core x l
    rw [hu]
    refine .trans ?_ (ih u)
    refine .trans ?_ hc.tended
    refine .trans ?_ (State.count_tended _ 1 (by decide))
    exact ⟨rfl, fun _ _ => rfl, .refl _⟩

theorem State.account_tended (s : State) (r off n : Nat) (write : Bool) : s.Tended (s.account r off n write) :=
  (s.count_tended _ (by decide)).trans (State.count_tended _ _ (by decide))

theorem State.imageLook_tended (s : State) (r off n : Nat) : s.Tended (s.imageLook r off n).1 :=
  (s.account_tended r off n false).trans (State.memUe_tended _ _ _ _)

theorem State.rewriteRow_tended (s : State) (a row : Nat) : s.Tended (s.rewriteRow a row) := by
  unfold State.rewriteRow
  split
  · exact .refl s
  · split
    · exact s.putRow_tended _ _ _ _
    · dsimp only
      split
      · exact (s.imageLook_tended _ _ _).trans (State.putRow_tended _ _ _ _ _)
      · exact s.imageLook_tended _ _ _

theorem State.putRows_tended (s : State) (a f row : Nat) (rows : List (List Nat)) : s.Tended (s.putRows a f row rows) := by
  induction rows generalizing s row with
  | nil => exact .refl s
  | cons r rows ih => exact (State.Tended.foldl (fun t p => t.putRow_tended a p _ _) _ s).trans (ih _ _)

theorem State.putSpares_tended (s : State) (a : Nat) (ns : List Nat) : s.Tended (s.putSpares a ns) := by
  induction ns generalizing s with
  | nil => exact .refl s
  | cons n ns ih =>
    unfold State.putSpares
    refine .trans ?_ (ih _)
    split
    · exact s.putRow_tended _ _ _ _
    · exact .refl s

theorem State.putScales_tended (s : State) (a block : Nat) (rows : List (List Half)) : s.Tended (s.putScales a block rows) := by
  induction rows generalizing s block with
  | nil => exact .refl s
  | cons r rows ih =>
    unfold State.putScales
    refine .trans ?_ (ih _ _)
    exact ⟨rfl, fun _ _ => rfl, .refl _⟩

theorem State.program_tended (s : State) (a : Nat) (p : Prog) (src : RowSrc) : s.Tended (s.program a p src) := by
  unfold State.program
  dsimp only
  refine .trans ?_ (State.count_tended _ _ (by decide))
  refine .trans ?_ (State.setArray_tended _ _ _)
  refine .trans ?_ (State.putScales_tended _ _ _ _)
  split
  · exact (s.putRows_tended _ _ _ _).trans (State.putSpares_tended _ _ _)
  · exact s.putRows_tended _ _ _ _

theorem State.programFrom_tended (s : State) (a : Nat) (x : RowSrc) : s.Tended (s.programFrom a x) := by
  unfold State.programFrom
  dsimp only
  have h : s.Tended ((s.imageLook x.region x.addr (imageBytes x.fmt)).1.imageLook x.sregion x.saddr planeBytes).1 :=
    (s.imageLook_tended _ _ _).trans (State.imageLook_tended _ _ _ _)
  split
  · exact h
  · exact h.trans (State.program_tended _ _ _ _)

theorem State.programAll_tended (s : State) (a : Nat) (l : List RowSrc) : s.Tended (s.programAll a l) := by
  induction l with
  | nil => exact .refl s
  | cons x l ih => exact ih.trans (State.programFrom_tended _ _ _)

/-! ### Rows that fail (R136 to R139) -/

theorem State.setSpare_tended (s : State) (a n : Nat) (e : Spare) : s.Tended (s.setSpare a n e) :=
  (s.setArray_tended a _).trans ⟨rfl, fun _ _ => rfl, .refl _⟩

theorem State.takeSpare_tended (s : State) (a row n : Nat) : s.Tended (s.takeSpare a row n) :=
  (s.setSpare_tended a n _).trans (State.rewriteRow_tended _ _ _)

theorem State.arrayShort_tended (s : State) (a : Nat) : s.Tended (s.arrayShort a) :=
  (s.raiseU_logged _ _ _).tended.trans (State.setArray_tended _ _ _)

/-- A row that is PERMANENT is no more than recorded. -/
theorem State.chargeErr_row (s : State) (u code : Nat) (dt : Bool) : s.Tended (s.chargeErr uRow u code dt) := by
  obtain ⟨v, hv, -, h | h⟩ := s.chargeErr_cases uRow u code dt
  · rw [h]
    exact hv.tended
  · rw [h]
    exact hv.tended

theorem State.rowFails_tended (s : State) (a phys : Nat) (wrong : Bool) : s.Tended (s.rowFails a phys wrong) := by
  unfold State.rowFails
  extract_lets x n e s1
  have hretire : s.Tended s1 := (s.setSpare_tended _ _ _).trans (State.count_tended _ 1 (by decide))
  split
  · split
    · refine .trans ?_ (State.chargeErr_row _ _ _ _)
      refine .trans ?_ (State.count_tended _ 1 (by decide))
      exact (s.takeSpare_tended _ _ _).trans (State.raiseU_logged _ _ _ _).tended
    · exact (s.arrayShort_tended a).trans (State.chargeErr_row _ _ _ _)
  · split
    · exact .refl s
    · split
      · split
        · refine (hretire.trans ?_).trans (State.chargeErr_row _ _ _ _)
          exact (s1.takeSpare_tended _ _ _).trans (State.raiseU_logged _ _ _ _).tended
        · exact (hretire.trans (s1.arrayShort_tended a)).trans (State.chargeErr_row _ _ _ _)
      · exact (hretire.trans (s1.raiseU_logged _ _ _).tended).trans (State.chargeErr_row _ _ _ _)

end Sys2Proof.Machine
end

section
/-! The level scrub, the checksum windows and tasting (R108, R109, R113, R114, R130 to R135, R147, R323). -/

namespace Sys2Proof.Machine

/-! ### A row that a scrub step reads (R130, R132) -/

/-- The array that a read of a scrub step is of. -/
def scrubArray (core bank : Nat) (f : RowRead) : Nat := 16 * core + 4 * bank + f.pos % 4

/-- The physical row that it reads. -/
def State.scrubPhys (s : State) (core bank pos : Nat) (f : RowRead) : Nat :=
  scrubRow (s.array (scrubArray core bank f)) pos (f.group % 8)

/-- Whether some cell of the row's i-th reading was outside its guard band. -/
def State.scrubOut (s : State) (core bank pos : Nat) (f : RowRead) (i : Nat) : Bool :=
  let a := scrubArray core bank f
  let ls := s.trueLevels a (s.scrubPhys core bank pos f)
  (f.reads.getD i []).any (fun p => decide (p.1 < 520) && outOfGuard (s.array a).fmt ((s.core core).m.getD bank 24) (ls.getD p.1 0) p.2)

/-- Whether some cell had read another level at first. -/
def State.scrubWrong (s : State) (core bank pos : Nat) (f : RowRead) : Bool :=
  let a := scrubArray core bank f
  let ls := s.trueLevels a (s.scrubPhys core bank pos f)
  (f.reads.getD 0 []).any (fun p => decide (p.1 < 520) && wrongLevel (s.array a).fmt ((s.core core).m.getD bank 24) (ls.getD p.1 0) p.2)

/-- The row written from its source, and counted once. -/
def State.scrubFixes (s : State) (core bank pos : Nat) (f : RowRead) : State :=
  (s.count cScrubFix 1).rewriteRow (scrubArray core bank f) (s.scrubPhys core bank pos f)

/-- A row read by a scrub step, by what was found. -/
theorem State.scrubFind_eq (s : State) (core bank pos : Nat) (f : RowRead) : s.scrubFind core bank pos f =
    if !s.scrubOut core bank pos f 0 then s
    else if s.scrubWrong core bank pos f || !(List.range 4).any (fun i => !s.scrubOut core bank pos f (i + 1)) then
      let t := (s.scrubFixes core bank pos f).rowFails (scrubArray core bank f) (s.scrubPhys core bank pos f) (s.scrubWrong core bank pos f)
      if s.scrubWrong core bank pos f && s.train && s.stp.active && s.stp.begun then t.cause 6 else t
    else s.scrubFixes core bank pos f := by
  have hfirst : f.reads.headD [] = f.reads.getD 0 [] := by cases f.reads <;> rfl
  unfold State.scrubFind
  rw [hfirst]
  rfl

theorem State.scrubFind_inside (s : State) {core bank pos : Nat} {f : RowRead} (h : s.scrubOut core bank pos f 0 = false) :
    s.scrubFind core bank pos f = s := by
  rw [s.scrubFind_eq]
  exact if_pos (by rw [h]; rfl)

theorem State.scrubFind_fixed (s : State) {core bank pos : Nat} {f : RowRead} (h : s.scrubOut core bank pos f 0 = true)
    (hw : s.scrubWrong core bank pos f = false) (hk : ∃ i, i < 4 ∧ s.scrubOut core bank pos f (i + 1) = false) :
    s.scrubFind core bank pos f = s.scrubFixes core bank pos f := by
  obtain ⟨i, hi, hout⟩ := hk
  have hkept : (List.range 4).any (fun i => !s.scrubOut core bank pos f (i + 1)) = true :=
    List.any_eq_true.mpr ⟨i, List.mem_range.mpr hi, by rw [hout]; rfl⟩
  rw [s.scrubFind_eq, h, hw, hkept]
  rfl

theorem State.scrubFind_wrong (s : State) {core bank pos : Nat} {f : RowRead} (h : s.scrubOut core bank pos f 0 = true)
    (hw : s.scrubWrong core bank pos f = true) (ht : s.train = true) (ha : s.stp.active = true) (hb : s.stp.begun = true) :
    s.scrubFind core bank pos f =
      ((s.scrubFixes core bank pos f).rowFails (scrubArray core bank f) (s.scrubPhys core bank pos f) true).cause 6 := by
  rw [s.scrubFind_eq, h, hw, ht, ha, hb]
  rfl

/-- With no codeword of the image uncorrectable, a row takes what its source gives it, and the log stays as it was. -/
theorem State.rewriteRow_clean (s : State) (a row : Nat) (hp : s.mem.poison = []) : ∃ c cells rem,
    s.rewriteRow a row = { s with ctr := c, ana := { s.ana with cells := cells, rem := rem } }
      ∧ ∀ v, s.sourceRow a row = some v → (s.rewriteRow a row).cellRow a row = v.1 := by
  have hput (u : State) (v : List (BitVec 2) × List Int) : (u.putRow a row v.1 v.2).cellRow a row = v.1 := by
    unfold State.cellRow State.putRow
    rw [Tab.find_put_same]
  have hlook (r off n : Nat) : s.imageLook r off n = (s.account r off n false, true) := by
    unfold State.imageLook State.poisonIn
    rw [hp]
    rfl
  unfold State.rewriteRow
  cases hsrc : s.sourceRow a row with
  | none => exact ⟨s.ctr, s.ana.cells, s.ana.rem, rfl, fun v hv => by cases hv⟩
  | some v =>
    cases s.rowSrc a row with
    | none =>
      refine ⟨s.ctr, _, _, rfl, fun w hw => ?_⟩
      cases hw
      exact hput s v
    | some q =>
      dsimp only
      rw [hlook, s.account_only]
      refine ⟨_, _, _, rfl, fun w hw => ?_⟩
      cases hw
      exact hput _ v

theorem State.scrubFixes_tended (s : State) (core bank pos : Nat) (f : RowRead) :
    State.Tended (s.count cScrubFix 1) (s.scrubFixes core bank pos f) := State.rewriteRow_tended _ _ _

theorem State.scrubFixes_counted (s : State) (core bank pos : Nat) (f : RowRead) :
    (s.scrubFixes core bank pos f).ctrGet cScrubFix = satAdd (s.ctrGet cScrubFix) 1 := by
  rw [(s.scrubFixes_tended core bank pos f).ctr _ (by decide), State.ctrGet_count, if_pos rfl]

/-- A row written again from its source, where no codeword of that is uncorrectable. -/
theorem State.scrubFixes_clean (s : State) (core bank pos : Nat) (f : RowRead) (hp : s.mem.poison = []) :
    let t := s.scrubFixes core bank pos f
    t.flt = s.flt ∧ t.stp = s.stp ∧ t.evt = s.evt ∧ t.ana.cores = s.ana.cores
      ∧ ∀ v, s.sourceRow (scrubArray core bank f) (s.scrubPhys core bank pos f) = some v →
        t.cellRow (scrubArray core bank f) (s.scrubPhys core bank pos f) = v.1 := by
  intro t
  obtain ⟨c, cells, rem, ht, hcells⟩ := (s.count cScrubFix 1).rewriteRow_clean (scrubArray core bank f) (s.scrubPhys core bank pos f)
    (by rw [State.count_mem]; exact hp)
  have hsource : (s.count cScrubFix 1).sourceRow (scrubArray core bank f) (s.scrubPhys core bank pos f)
      = s.sourceRow (scrubArray core bank f) (s.scrubPhys core bank pos f) := by
    rw [s.count_only]
    rfl
  rw [hsource] at hcells
  change t = _ at ht
  have hcount := s.count_only cScrubFix 1
  refine ⟨?_, ?_, ?_, ?_, hcells⟩
  · rw [ht, hcount]
  · rw [ht, hcount]
  · rw [ht, hcount]
  · rw [ht, hcount]

/-! ### The end of a pass (R131, R135) -/

theorem State.setAverages_some (s : State) {core bank sigma m : Nat} (h : averagesFor sigma = some m) : s.setAverages core bank sigma =
    s.setCore core { s.core core with
      m := (s.core core).m.set bank m, noisy := clearBit4 (s.core core).noisy bank
      noisyCal := clearBit4 (s.core core).noisyCal bank } := by
  unfold State.setAverages
  rw [h]

/-- A bank too noisy for the first time makes its core due for calibration. -/
theorem State.setAverages_due (s : State) {core bank sigma : Nat} (h : averagesFor sigma = none)
    (hn : (s.core core).noisyCal.getLsbD bank = false) : s.setAverages core bank sigma =
    (s.setCore core { s.core core with
      m := (s.core core).m.set bank 230, noisy := setBit4 (s.core core).noisy bank }).makeDue core false := by
  unfold State.setAverages
  rw [h]
  exact if_neg (by rw [hn]; decide)

/-- A bank too noisy after its calibration loses its arrays. -/
theorem State.setAverages_gone (s : State) {core bank sigma : Nat} (h : averagesFor sigma = none)
    (hn : (s.core core).noisyCal.getLsbD bank = true) : s.setAverages core bank sigma =
    (s.setCore core { s.core core with
      m := (s.core core).m.set bank 230, noisy := clearBit4 (s.core core).noisy bank, noisyCal := clearBit4 (s.core core).noisyCal bank
    }).quarantineAll (bankArrays core bank) := by
  unfold State.setAverages
  rw [h]
  exact if_pos hn

theorem mem_bankArrays (core bank i : Nat) (hi : i < 4) : 16 * core + 4 * bank + i ∈ bankArrays core bank :=
  List.mem_map.mpr ⟨i, List.mem_range.mpr hi, rfl⟩

/-- What the averages of a pass leave of the core, and of the counters. -/
theorem State.setAverages_core (s : State) (core bank sigma : Nat) : (s.setAverages core bank sigma).ctr = s.ctr
    ∧ ∃ n k, (s.setAverages core bank sigma).core core =
      { s.core core with m := (s.core core).m.set bank ((averagesFor sigma).getD 230), noisy := n, noisyCal := k } := by
  cases h : averagesFor sigma with
  | some m =>
    rw [s.setAverages_some h]
    exact ⟨rfl, _, _, State.core_setCore _ _ _⟩
  | none =>
    cases hn : (s.core core).noisyCal.getLsbD bank with
    | false =>
      obtain ⟨d, u, hdue, -⟩ := (s.setCore core { s.core core with
        m := (s.core core).m.set bank 230, noisy := setBit4 (s.core core).noisy bank }).makeDue_spec core false
      rw [s.setAverages_due h hn, hdue]
      exact ⟨rfl, _, _, State.core_setCore _ _ _⟩
    | true =>
      rw [s.setAverages_gone h hn, State.quarantineAll_core, State.core_setCore]
      exact ⟨by rw [State.quarantineAll_only]; rfl, _, _, rfl⟩

/-- The end of a pass, before its averages. -/
def State.passEnds (s : State) (core bank : Nat) : State :=
  (s.count cScrubPass 1).setCore core { s.core core with
    scrubbed := true, pass := (s.core core).pass.set bank 0, late := clearBit4 (s.core core).late bank
    ageNext := clearBit4 (s.core core).ageNext bank }

theorem State.scrubPass_eq (s : State) (core bank sigma : Nat) :
    s.scrubPass core bank sigma = (s.passEnds core bank).setAverages core bank sigma :=
  rfl

theorem State.passEnds_spec (s : State) (core bank : Nat) : (s.passEnds core bank).ctrGet cScrubPass = satAdd (s.ctrGet cScrubPass) 1
    ∧ (s.passEnds core bank).cal = s.cal ∧ (s.passEnds core bank).ana.arrays = s.ana.arrays ∧ (s.passEnds core bank).flt = s.flt
    ∧ (s.passEnds core bank).core core = { s.core core with
        scrubbed := true, pass := (s.core core).pass.set bank 0, late := clearBit4 (s.core core).late bank
        ageNext := clearBit4 (s.core core).ageNext bank } := by
  unfold State.passEnds
  refine ⟨?_, State.count_cal _ _ _, ?_, State.count_flt _ _ _, State.core_setCore _ _ _⟩
  · have h := s.ctrGet_count cScrubPass 1 cScrubPass
    rw [if_pos rfl] at h
    exact h
  · change (s.count cScrubPass 1).ana.arrays = s.ana.arrays
    rw [State.count_ana]

/-- The end of a pass: counted, its bank no longer late, and M for the next one or what its noise asks for. -/
theorem State.scrubPass_spec (s : State) (core bank sigma : Nat) (hb : bank < 4) :
    let c := s.core core
    let t := s.scrubPass core bank sigma
    t.ctrGet cScrubPass = satAdd (s.ctrGet cScrubPass) 1 ∧ (t.core core).scrubbed = true
    ∧ (t.core core).pass = c.pass.set bank 0 ∧ (t.core core).late = clearBit4 c.late bank ∧ (t.core core).ageNext = clearBit4 c.ageNext bank
    ∧ (∀ m, averagesFor sigma = some m → (t.core core).m = c.m.set bank m ∧ t.cal = s.cal ∧ t.ana.arrays = s.ana.arrays)
    ∧ (averagesFor sigma = none → (t.core core).m = c.m.set bank 230
      ∧ (c.noisyCal.getLsbD bank = false → (t.core core).noisy.getLsbD bank = true ∧ (s.isAbsent core = false → core ∈ t.cal.due))
      ∧ (c.noisyCal.getLsbD bank = true → ∀ i, i < 4 → (t.array (16 * core + 4 * bank + i)).status = 3
        ∧ (t.array (16 * core + 4 * bank + i)).refNext = true)) := by
  intro c t
  obtain ⟨hcount, hcal, harrays, hflt, hcore⟩ := s.passEnds_spec core bank
  have ht : t = (s.passEnds core bank).setAverages core bank sigma := s.scrubPass_eq core bank sigma
  clear_value t
  generalize s.passEnds core bank = u at hcount hcal harrays hflt hcore ht
  obtain ⟨hctr, n, k, hafter⟩ := u.setAverages_core core bank sigma
  have hget : t.ctrGet cScrubPass = satAdd (s.ctrGet cScrubPass) 1 := by
    rw [← hcount, ht]
    unfold State.ctrGet
    rw [hctr]
  have hm : (t.core core).m = c.m.set bank ((averagesFor sigma).getD 230) := by rw [ht, hafter, hcore]
  refine ⟨hget, ?_, ?_, ?_, ?_, fun m hsome => ⟨?_, ?_, ?_⟩, fun hnone => ⟨?_, fun hn => ⟨?_, fun habs => ?_⟩, fun hn i hi => ?_⟩⟩
  · rw [ht, hafter, hcore]
  · rw [ht, hafter, hcore]
  · rw [ht, hafter, hcore]
  · rw [ht, hafter, hcore]
  · rw [hm, hsome]
    rfl
  · rw [ht, u.setAverages_some hsome, ← hcal]
    rfl
  · rw [ht, u.setAverages_some hsome, ← harrays]
    rfl
  · rw [hm, hnone]
    rfl
  · obtain ⟨d, x, hdue, -⟩ := State.makeDue_spec (u.setCore core { u.core core with
      m := (u.core core).m.set bank 230, noisy := setBit4 (u.core core).noisy bank }) core false
    rw [ht, u.setAverages_due hnone (by rw [hcore]; exact hn), hdue]
    change ((u.setCore core _).core core).noisy.getLsbD bank = true
    rw [State.core_setCore]
    exact setBit4_getLsbD _ bank hb
  · obtain ⟨d, x, hdue, -, hin⟩ := State.makeDue_spec (u.setCore core { u.core core with
      m := (u.core core).m.set bank 230, noisy := setBit4 (u.core core).noisy bank }) core false
    rw [ht, u.setAverages_due hnone (by rw [hcore]; exact hn), hdue]
    refine (hin ?_).1
    change u.flt.absent.contains core = false
    rw [hflt]
    exact habs
  · rw [ht, u.setAverages_gone hnone (by rw [hcore]; exact hn), State.quarantineAll_array, if_pos (mem_bankArrays core bank i hi)]
    exact ⟨rfl, rfl⟩

/-! ### A step of the scrub (R134, R135, R147) -/

theorem exec_scrubStep (s : State) {core bank pos sigma : Nat} (finds : List RowRead) (hc : core < 128) (hb : bank < 4) (hp : pos < 130) :
    exec (.scrubStep core bank pos finds sigma) s =
      if s.mayScrub core && s.scrubTurn core bank pos then .next (s.scrubStep core bank pos finds sigma) else .next s :=
  if_neg (by omega)

theorem exec_scrubStep_turn (s : State) {core bank pos sigma : Nat} (finds : List RowRead) (hc : core < 128) (hb : bank < 4)
    (hp : pos < 130) (hm : s.mayScrub core = true) (ht : s.scrubTurn core bank pos = true) :
    exec (.scrubStep core bank pos finds sigma) s = .next (s.scrubStep core bank pos finds sigma) := by
  rw [exec_scrubStep s finds hc hb hp, hm, ht]
  rfl

theorem exec_scrubStep_stays (s : State) {core bank pos sigma : Nat} (finds : List RowRead) (hc : core < 128) (hb : bank < 4)
    (hp : pos < 130) (h : s.mayScrub core = false ∨ s.scrubTurn core bank pos = false) : exec (.scrubStep core bank pos finds sigma) s = .next s := by
  rw [exec_scrubStep s finds hc hb hp]
  refine if_neg ?_
  rcases h with h | h <;> simp [h]

/-- The next position of a pass. -/
def State.scrubOn (s : State) (core bank pos : Nat) : State :=
  s.setCore core { s.core core with pass := (s.core core).pass.set bank (pos + 1) }

theorem State.scrubStep_none (s : State) {core bank pos sigma : Nat} (hp : pos < 129) :
    s.scrubStep core bank pos [] sigma = s.scrubOn core bank pos :=
  if_neg (by omega)

theorem State.scrubStep_one (s : State) {core bank pos sigma : Nat} (f : RowRead) (hp : pos < 129) :
    s.scrubStep core bank pos [f] sigma = (s.scrubFind core bank pos f).scrubOn core bank pos :=
  if_neg (by omega)

theorem State.scrubStep_last (s : State) {core bank pos sigma : Nat} (hp : pos = 129) :
    s.scrubStep core bank pos [] sigma = s.scrubPass core bank sigma := by
  unfold State.scrubStep
  exact if_pos hp

/-! ### A bank that is late (R135) -/

/-- SCRUB_LATE: counted, and told. -/
theorem exec_scrubLate (s : State) {core bank : Nat} (age : Nat) (hc : core < 128) (hb : bank < 4) :
    ∃ t, exec (.scrubLate core bank age) s = .next t ∧ t.ctrGet cScrubLate = satAdd (s.ctrGet cScrubLate) 1
      ∧ t.core core = { s.core core with late := setBit4 (s.core core).late bank } ∧ (∀ j, j ≠ core → t.core j = s.core j)
      ∧ t.ana.arrays = s.ana.arrays := by
  have hlog := s.raiseU_logged 0x300A (uCore * 2 ^ 22 + core) [wd core, wd bank, wd age, wd (scrubMs (s.core core).band)]
  generalize hu : s.raiseU 0x300A (uCore * 2 ^ 22 + core) [wd core, wd bank, wd age, wd (scrubMs (s.core core).band)] = u at hlog
  have hana : (u.count cScrubLate 1).ana = s.ana := by rw [State.count_ana, hlog.only]
  have hexec : exec (.scrubLate core bank age) s =
      .next ((u.count cScrubLate 1).setCore core { s.core core with late := setBit4 (s.core core).late bank }) := by
    rw [← hu]
    exact if_neg (by omega)
  refine ⟨_, hexec, ?_, State.core_setCore _ _ _, fun j hj => ?_, ?_⟩
  · have hctr := u.ctrGet_count cScrubLate 1 cScrubLate
    rw [if_pos rfl, hlog.ctr _ (by decide) (by decide)] at hctr
    exact hctr
  · rw [State.core_setCore_other _ _ hj]
    unfold State.core
    rw [hana]
  · change (u.count cScrubLate 1).ana.arrays = s.ana.arrays
    rw [hana]

theorem exec_scrubAgeLimit (s : State) {core bank : Nat} (hc : core < 128) (hb : bank < 4) : exec (.scrubAgeLimit core bank) s
    = .next (s.setCore core { s.core core with ageNext := setBit4 (s.core core).ageNext bank }) :=
  if_neg (by omega)

/-! ### Checksum windows (R108, R109) -/

theorem exec_checksumWindow (s : State) {a : Nat} (ha : a < 2048) : exec (.checksumWindow a) s = .next (s.judgeWindow a) :=
  if_neg (by omega)

theorem State.judgeWindow_nil (s : State) {a : Nat} (h : (s.array a).chkDone = []) : s.judgeWindow a = s := by
  unfold State.judgeWindow
  dsimp only
  rw [h]

/-- The first window after a calibration. -/
theorem State.judgeWindow_first (s : State) {a : Nat} {w : ChkWin} {l : List ChkWin} (h : (s.array a).chkDone = w :: l)
    (hb : (s.array a).baseline = none) :
    s.judgeWindow a = (s.count cChkWin 1).setArray a { s.array a with chkDone := l, baseline := some (w.sum, w.sq) } := by
  unfold State.judgeWindow
  dsimp only
  rw [h, hb]

theorem State.judgeWindow_cons (s : State) {a : Nat} {w : ChkWin} {l : List ChkWin} {b : Int × Int} (h : (s.array a).chkDone = w :: l)
    (hb : (s.array a).baseline = some b) : s.judgeWindow a =
    if w.fails b then ((s.count cChkWin 1).setArray a { s.array a with chkDone := l }).checksumFails a w
    else (s.count cChkWin 1).setArray a { s.array a with chkDone := l } := by
  unfold State.judgeWindow
  dsimp only
  rw [h, hb]

/-- A window that fails: the array tasted ahead of its turn, and charged. -/
theorem State.checksumFails_spec (s : State) (a : Nat) (w : ChkWin) :
    let t := s.checksumFails a w
    t.ctrGet cChkWin = s.ctrGet cChkWin ∧ t.ctrGet cChkFail = satAdd (s.ctrGet cChkFail) 1 ∧ (∀ b, b ≠ a → t.array b = s.array b)
    ∧ (∃ st r, t.array a = { s.array a with tasteDue := true, tasteAhead := true, status := st, refNext := r }
      ∧ (st = (s.array a).status ∨ st = 3))
    ∧ ∃ e, t.hist? uArray a = some e ∧ e.lastEvent = 0x3005 ∧ e.last = s.hour256 := by
  intro t
  have hlog := (s.count cChkFail 1).raiseU_logged 0x3005 (uArray * 2 ^ 22 + a) [wd a, sWord w.mu, wd w.sigma]
  have hhour : ((s.count cChkFail 1).raiseU 0x3005 (uArray * 2 ^ 22 + a) [wd a, sWord w.mu, wd w.sigma]).hour256 = s.hour256 := by
    rw [State.raiseU_hour256, s.count_only]
    rfl
  have ht : t = State.chargeErr _ uArray a 0x3005 false := rfl
  clear_value t
  generalize (s.count cChkFail 1).raiseU 0x3005 (uArray * 2 ^ 22 + a) [wd a, sWord w.mu, wd w.sigma] = u at hlog hhour ht
  have harr (b : Nat) : u.array b = s.array b := by
    refine State.array_congr ?_ b
    rw [hlog.only, State.count_ana]
  generalize hv : u.setArray a { u.array a with tasteDue := true, tasteAhead := true } = v at ht
  have hva (b : Nat) : v.array b = if b = a then { s.array a with tasteDue := true, tasteAhead := true } else s.array b := by
    rw [← hv, State.array_setArray, harr, harr]
  have hvc (o : Nat) (h1 : o ≠ cRecCoal) (h2 : o ≠ cRecDrop) : v.ctrGet o = (s.count cChkFail 1).ctrGet o := by
    rw [← hv]
    exact hlog.ctr o h1 h2
  have hcharge := v.chargeErr_array a 0x3005 false
  obtain ⟨hother, hsame⟩ := v.chargeErr_array_only a 0x3005 false
  rw [← ht] at hcharge hother hsame
  refine ⟨?_, ?_, fun b hb => ?_, ?_, ?_⟩
  · rw [hcharge.ctr _ (by decide), hvc _ (by decide) (by decide), State.count_other _ 1 (by decide)]
  · rw [hcharge.ctr _ (by decide), hvc _ (by decide) (by decide), State.ctrGet_count, if_pos rfl]
  · rw [hother b hb, hva, if_neg hb]
  · rw [hva, if_pos rfl] at hsame
    rcases hsame with h | h
    · exact ⟨_, _, h, Or.inl rfl⟩
    · exact ⟨_, _, h, Or.inr rfl⟩
  · refine ⟨_, ht ▸ v.chargeErr_array_entry a 0x3005 false, rfl, ?_⟩
    change v.hour256 = _
    rw [← hhour, ← hv]
    rfl

/-! ### Tasting (R113, R114) -/

/-- A captured vector fired: counted, and its conversions' windows kept. -/
def State.fired (s : State) (a : Nat) (c : Captured) : State :=
  ((s.count cTaste 1).keepWindows [(a, (s.tasteErrs a c).2)]).draw (8 * 16 * 4 * 520)

theorem State.fired_spec (s : State) (a : Nat) (c : Captured) :
    let r := s.tasteErrs a c
    (∃ x n, s.fired a c = { s with ctr := (s.count cTaste 1).ctr, ana := { s.ana with arrays := x }, free := n })
    ∧ (s.fired a c).array a = { s.array a with chk := r.2.win, chkDone := (s.array a).chkDone ++ r.2.full } := by
  intro r
  have harr : (s.count cTaste 1).array a = s.array a := State.array_congr (by rw [State.count_ana]) a
  have hfired : s.fired a c = ((s.count cTaste 1).setArray a { s.array a with
      chk := r.2.win, chkDone := (s.array a).chkDone ++ r.2.full }).draw (8 * 16 * 4 * 520) := by
    rw [← harr]
    rfl
  have hcount := s.count_only cTaste 1
  generalize s.count cTaste 1 = u at hfired hcount
  rw [hfired]
  refine ⟨?_, ?_⟩
  · rw [hcount]
    exact ⟨_, _, rfl⟩
  · change (u.setArray a _).array a = _
    rw [State.array_setArray, if_pos rfl]

theorem State.fired_counts (s : State) (a : Nat) (c : Captured) (o : Nat) : (s.fired a c).ctrGet o = (s.count cTaste 1).ctrGet o := by
  obtain ⟨⟨x, n, h⟩, -⟩ := s.fired_spec a c
  rw [h]
  rfl

theorem State.tasting_eq (s : State) (a : Nat) (c : Captured) : s.tasting a c = if tastePasses (s.tasteErrs a c).1 then
    (s.fired a c).setArray a { (s.fired a c).array a with captured := none, tasteFails := 0, tasteAhead := false }
    else (s.fired a c).tasteFails a c := rfl

/-- A failed tasting: counted and told, a cause of replay in the step that it sampled; then its first or second consequence. -/
theorem State.tasteFails_eq (s : State) (a : Nat) (c : Captured) : ∃ v : State, v.ana = s.ana ∧ v.flt = s.flt ∧ v.cal = s.cal
    ∧ v.ctrGet cTasteFail = satAdd (s.ctrGet cTasteFail) 1
    ∧ (s.train = true → s.stp.active = true → s.stp.begun = true → s.stp.step = c.step → s.afterClose = false → 5 ∈ v.stp.causes)
    ∧ s.tasteFails a c = if (s.array a).tasteFails = 0 then
        ((v.setArray a { s.array a with tasteFails := 1 }).chargeErr uArray a 0x3006 false).makeDue (a / 16) true
      else ((v.setArray a { s.array a with tasteFails := 0, captured := none, tasteAhead := false }).capture (s.tastePattern a c)).chargeErr
        uArray a 0x3006 true := by
  unfold State.tasteFails
  extract_lets x openStep closing s1 s2
  have hlog : State.Logged (s.count cTasteFail 1) s1 := State.raiseU_logged _ _ _ _
  have hcount := s.ctrGet_count cTasteFail 1 cTasteFail
  rw [if_pos rfl, ← hlog.ctr _ (by decide) (by decide)] at hcount
  have hstp : s1.stp = s.stp := by rw [hlog.stp, State.count_stp]
  have hclose : s1.afterClose = s.afterClose := by
    unfold State.afterClose
    rw [hlog.pwr, hlog.lnk, State.count_pwr, State.count_lnk]
  obtain ⟨l, cs, os, hcause⟩ := s1.cause_only 5
  refine ⟨s2, ?_, ?_, ?_, ?_, ?_, rfl⟩
  · have h1 : s1.ana = s.ana := by rw [hlog.only, State.count_ana]
    unfold s2
    split
    · rw [hcause, h1]
    · exact h1
  · have h1 : s1.flt = s.flt := by rw [hlog.flt, State.count_flt]
    unfold s2
    split
    · rw [hcause, h1]
    · exact h1
  · have h1 : s1.cal = s.cal := by rw [hlog.only, State.count_cal]
    unfold s2
    split
    · rw [hcause, h1]
    · exact h1
  · rw [← hcount]
    unfold s2
    split
    · rw [hcause]
      rfl
    · rfl
  · intro ht ha hb hs hc
    have hopen : openStep = true := by
      unfold openStep
      simp [ht, ha, hb, hs]
    unfold s2
    rw [if_pos hopen]
    exact s1.mem_cause 5 (by rw [hstp]; exact ha) (by rw [hclose]; exact hc)

/-- A first failed tasting makes the array's core due, and keeps the vector for the second. -/
theorem State.tasteFails_first (s : State) (a : Nat) (c : Captured) (h : (s.array a).tasteFails = 0) :
    let t := s.tasteFails a c
    t.ctrGet cTasteFail = satAdd (s.ctrGet cTasteFail) 1 ∧ (t.array a).tasteFails = 1 ∧ (t.array a).captured = (s.array a).captured
    ∧ (s.isAbsent (a / 16) = false → a / 16 ∈ t.cal.due ∧ a / 16 ∈ t.cal.urgent)
    ∧ (s.train = true → s.stp.active = true → s.stp.begun = true → s.stp.step = c.step → s.afterClose = false → 5 ∈ t.stp.causes) := by
  intro t
  obtain ⟨v, hana, hflt, hcal, hctr, hcause, heq⟩ := s.tasteFails_eq a c
  rw [if_pos h] at heq
  change t = _ at heq
  generalize hw : v.setArray a { s.array a with tasteFails := 1 } = w at heq
  have hcharge := w.chargeErr_array a 0x3006 false
  have hwa : w.array a = { s.array a with tasteFails := 1 } := by rw [← hw, State.array_setArray, if_pos rfl]
  have hone := (w.chargeErr_array_only a 0x3006 false).2
  generalize w.chargeErr uArray a 0x3006 false = y at heq hcharge hone
  obtain ⟨d, u, hdue, -, hin⟩ := y.makeDue_spec (a / 16) true
  rw [hdue] at heq
  have harr : (t.array a).tasteFails = 1 ∧ (t.array a).captured = (s.array a).captured := by
    have hty : t.array a = y.array a := State.array_congr (by rw [heq]) a
    rw [hty]
    rw [hwa] at hone
    rcases hone with hone | hone <;> rw [hone] <;> exact ⟨rfl, rfl⟩
  refine ⟨?_, harr.1, harr.2, fun habs => ?_, fun ht ha hb hs hc => ?_⟩
  · rw [heq, ← hctr]
    change y.ctrGet cTasteFail = _
    rw [hcharge.ctr _ (by decide), ← hw]
    rfl
  · have hy : y.isAbsent (a / 16) = false := by
      unfold State.isAbsent
      rw [hcharge.only, ← hw]
      change v.flt.absent.contains (a / 16) = false
      rw [hflt]
      exact habs
    rw [heq]
    exact ⟨(hin hy).1, (hin hy).2 rfl⟩
  · rw [heq]
    change 5 ∈ y.stp.causes
    rw [hcharge.stp, ← hw]
    exact hcause ht ha hb hs hc

/-- A second failed tasting takes the array out of service. -/
theorem State.tasteFails_second (s : State) (a : Nat) (c : Captured) (h : (s.array a).tasteFails ≠ 0)
    (hs : (s.histOf uArray a).state = .clean ∨ (s.histOf uArray a).state = .transient) :
    let t := s.tasteFails a c
    (t.array a).status = 3 ∧ (t.array a).refNext = true ∧ (t.array a).captured = none ∧ (t.array a).tasteFails = 0
    ∧ ∃ e, t.hist? uArray a = some e ∧ e.state = .permanent ∧ e.dtFail = true := by
  intro t
  obtain ⟨v, hana, hflt, -, -, -, heq⟩ := s.tasteFails_eq a c
  rw [if_neg h] at heq
  change t = _ at heq
  generalize hx : v.setArray a { s.array a with tasteFails := 0, captured := none, tasteAhead := false } = x at heq
  obtain ⟨l, hcap, -⟩ := x.capture_spec (s.tastePattern a c)
  generalize hw : x.capture (s.tastePattern a c) = w at heq
  have hwa : w.array a = { s.array a with tasteFails := 0, captured := none, tasteAhead := false } := by
    have harr : w.ana = x.ana := by
      rw [← hw]
      unfold State.capture
      rw [State.raise_ana]
    rw [State.array_congr (congrArg Ana.arrays harr), ← hx, State.array_setArray, if_pos rfl]
  have hhist : w.histOf uArray a = s.histOf uArray a := by
    refine State.histOf_congr ?_ (by decide) a
    rw [← hw, hcap, ← hx]
    change v.flt.hist = _
    rw [hflt]
  rw [← hhist] at hs
  obtain ⟨u, -, huana, -, hperm⟩ := w.chargeErr_failed uArray a 0x3006 hs
  have hta : t.array a = { w.array a with status := 3, refNext := true } := by
    rw [heq, hperm]
    change (u.quarantine a).array a = _
    rw [State.quarantine_array, if_pos rfl, State.array_congr (congrArg Ana.arrays huana) a]
  rw [hta, hwa]
  have hentry := w.chargeErr_array_entry a 0x3006 true
  rw [← heq] at hentry
  obtain ⟨hst, hdt⟩ := UnitHist.withError_failed (w.histOf uArray a) w.hour256 0x3006 hs
  exact ⟨rfl, rfl, rfl, rfl, _, hentry, hst, hdt⟩

theorem exec_tasting_stays (s : State) {a : Nat} (ha : a < 2048) (h : (s.array a).captured = none ∨ s.mayServe (a / 16) = false
    ∨ s.imageAwake (a / 16) = false ∨ s.tastingTurn a = false) : exec (.tasting a) s = .next s := by
  change execTasting a s = _
  unfold execTasting
  rw [if_neg (by omega)]
  split
  · rfl
  · rename_i c hc
    refine if_neg ?_
    rcases h with h | h | h | h
    · rw [h] at hc
      cases hc
    all_goals simp [h]

theorem exec_tasting (s : State) {a : Nat} {c : Captured} (ha : a < 2048) (hc : (s.array a).captured = some c)
    (hm : s.mayServe (a / 16) = true) (hi : s.imageAwake (a / 16) = true) (ht : s.tastingTurn a = true) :
    exec (.tasting a) s = .next (s.tasting a c) := by
  change execTasting a s = _
  unfold execTasting
  rw [if_neg (by omega), hc]
  exact if_pos (by simp [hm, hi, ht])

/-! ### O50 -/

/-- A position of a pass at which nothing is found outside. -/
theorem exec_scrubStep_inside (s : State) {core bank pos sigma : Nat} {f : RowRead} (hc : core < 128) (hb : bank < 4) (hp : pos < 129)
    (hm : s.mayScrub core = true) (ht : s.scrubTurn core bank pos = true) (hout : s.scrubOut core bank pos f 0 = false) :
    exec (.scrubStep core bank pos [f] sigma) s = .next (s.scrubOn core bank pos) := by
  rw [exec_scrubStep_turn s [f] hc hb (by omega) hm ht, s.scrubStep_one f hp, s.scrubFind_inside hout]

/-- A position at which a row is written from its source. -/
theorem exec_scrubStep_fixes (s : State) {core bank pos sigma : Nat} {f : RowRead} (hc : core < 128) (hb : bank < 4) (hp : pos < 129)
    (hm : s.mayScrub core = true) (ht : s.scrubTurn core bank pos = true) (hout : s.scrubOut core bank pos f 0 = true)
    (hw : s.scrubWrong core bank pos f = false) (hpoison : s.mem.poison = [])
    (hk : ∃ i, i < 4 ∧ s.scrubOut core bank pos f (i + 1) = false) :
    ∃ t, exec (.scrubStep core bank pos [f] sigma) s = .next t ∧ t.ctrGet cScrubFix = satAdd (s.ctrGet cScrubFix) 1
      ∧ t.flt = s.flt ∧ t.stp = s.stp ∧ t.evt = s.evt
      ∧ ∀ v, s.sourceRow (scrubArray core bank f) (s.scrubPhys core bank pos f) = some v →
        t.cellRow (scrubArray core bank f) (s.scrubPhys core bank pos f) = v.1 := by
  obtain ⟨hflt, hstp, hevt, -, hcells⟩ := s.scrubFixes_clean core bank pos f hpoison
  refine ⟨_, exec_scrubStep_turn s [f] hc hb (by omega) hm ht, ?_⟩
  rw [s.scrubStep_one f hp, s.scrubFind_fixed hout hw hk]
  exact ⟨s.scrubFixes_counted core bank pos f, hflt, hstp, hevt, hcells⟩

/-- A position at which a row read another level in a step in progress. -/
theorem exec_scrubStep_replays (s : State) {core bank pos sigma : Nat} {f : RowRead} (hc : core < 128) (hb : bank < 4) (hp : pos < 129)
    (hm : s.mayScrub core = true) (ht : s.scrubTurn core bank pos = true) (hout : s.scrubOut core bank pos f 0 = true)
    (hw : s.scrubWrong core bank pos f = true) (htrain : s.train = true) (ha : s.stp.active = true) (hbegun : s.stp.begun = true)
    (hclose : s.afterClose = false) : ∃ t, exec (.scrubStep core bank pos [f] sigma) s = .next t
      ∧ t.ctrGet cScrubFix = satAdd (s.ctrGet cScrubFix) 1 ∧ 6 ∈ t.stp.causes := by
  have hfix : State.Tended (s.count cScrubFix 1) (s.scrubFixes core bank pos f) := s.scrubFixes_tended core bank pos f
  have hfail := State.rowFails_tended (s.scrubFixes core bank pos f) (scrubArray core bank f) (s.scrubPhys core bank pos f) true
  have hcount := hfail.ctr cScrubFix (by decide)
  rw [s.scrubFixes_counted] at hcount
  have hfind := s.scrubFind_wrong hout hw htrain ha hbegun
  have hall := hfix.trans hfail
  generalize (s.scrubFixes core bank pos f).rowFails (scrubArray core bank f) (s.scrubPhys core bank pos f) true = u at hcount hfind hall
  obtain ⟨l, cs, os, hcause⟩ := u.cause_only 6
  have hactive : u.stp.active = true := by
    rw [hall.stp, State.count_stp]
    exact ha
  have hopen : u.afterClose = false := by
    rw [hall.afterClose, s.count_only]
    exact hclose
  refine ⟨_, exec_scrubStep_turn s [f] hc hb (by omega) hm ht, ?_, ?_⟩
  · rw [s.scrubStep_one f hp, hfind, hcause]
    exact hcount
  · rw [s.scrubStep_one f hp, hfind]
    exact u.mem_cause 6 hactive hopen

/-- A complete window judged against a baseline. -/
theorem exec_checksumWindow_fails (s : State) {a : Nat} {w : ChkWin} {l : List ChkWin} {b : Int × Int} (ha : a < 2048)
    (h : (s.array a).chkDone = w :: l) (hb : (s.array a).baseline = some b) (hf : w.fails b = true) :
    ∃ t, exec (.checksumWindow a) s = .next t ∧ t.ctrGet cChkWin = satAdd (s.ctrGet cChkWin) 1
      ∧ t.ctrGet cChkFail = satAdd (s.ctrGet cChkFail) 1 ∧ (t.array a).tasteDue = true ∧ (t.array a).tasteAhead = true
      ∧ (t.array a).baseline = some b ∧ (t.array a).chkDone = l
      ∧ ∃ e, t.hist? uArray a = some e ∧ e.lastEvent = 0x3005 ∧ e.last = s.hour256 := by
  refine ⟨_, exec_checksumWindow s ha, ?_⟩
  rw [s.judgeWindow_cons h hb, if_pos hf]
  generalize hu : (s.count cChkWin 1).setArray a { s.array a with chkDone := l } = u
  have hctr (o : Nat) : u.ctrGet o = (s.count cChkWin 1).ctrGet o := by
    rw [← hu]
    rfl
  have hua : u.array a = { s.array a with chkDone := l } := by rw [← hu, State.array_setArray, if_pos rfl]
  have hhour : u.hour256 = s.hour256 := by
    rw [← hu, s.count_only]
    rfl
  obtain ⟨hwin, hfail, -, ⟨st, r, harr, -⟩, hentry⟩ := u.checksumFails_spec a w
  rw [hhour] at hentry
  rw [hwin, hfail, hctr, hctr, State.ctrGet_count, State.count_other _ 1 (by decide), if_pos rfl, harr, hua]
  exact ⟨rfl, rfl, rfl, rfl, hb, rfl, hentry⟩

/-- A tasting that passes. -/
theorem exec_tasting_passes (s : State) {a : Nat} {c : Captured} (ha : a < 2048) (hc : (s.array a).captured = some c)
    (hm : s.mayServe (a / 16) = true) (hi : s.imageAwake (a / 16) = true) (ht : s.tastingTurn a = true)
    (hp : tastePasses (s.tasteErrs a c).1 = true) : ∃ t, exec (.tasting a) s = .next t ∧ t.ctrGet cTaste = satAdd (s.ctrGet cTaste) 1
      ∧ t.array a = { s.array a with
        captured := none, tasteFails := 0, tasteAhead := false, chk := (s.tasteErrs a c).2.win
        chkDone := (s.array a).chkDone ++ (s.tasteErrs a c).2.full } := by
  obtain ⟨-, harr⟩ := s.fired_spec a c
  have hctr := s.fired_counts a c cTaste
  rw [State.ctrGet_count, if_pos rfl] at hctr
  refine ⟨_, exec_tasting s ha hc hm hi ht, ?_⟩
  rw [s.tasting_eq, if_pos hp, State.array_setArray, if_pos rfl, harr]
  exact ⟨hctr, rfl⟩

/-- A first tasting that fails. -/
theorem exec_tasting_fails (s : State) {a : Nat} {c : Captured} (ha : a < 2048) (hc : (s.array a).captured = some c)
    (hm : s.mayServe (a / 16) = true) (hi : s.imageAwake (a / 16) = true) (ht : s.tastingTurn a = true)
    (hp : tastePasses (s.tasteErrs a c).1 = false) (hz : (s.array a).tasteFails = 0) : ∃ t, exec (.tasting a) s = .next t
      ∧ t.ctrGet cTasteFail = satAdd (s.ctrGet cTasteFail) 1 ∧ (t.array a).tasteFails = 1 ∧ (t.array a).captured = some c
      ∧ (s.isAbsent (a / 16) = false → a / 16 ∈ t.cal.due ∧ a / 16 ∈ t.cal.urgent)
      ∧ (s.train = true → s.stp.active = true → s.stp.begun = true → s.stp.step = c.step → s.afterClose = false → 5 ∈ t.stp.causes) := by
  obtain ⟨⟨x, n, hfired⟩, harr⟩ := s.fired_spec a c
  have hctr := s.fired_counts a c cTasteFail
  rw [State.count_other _ 1 (by decide)] at hctr
  refine ⟨_, exec_tasting s ha hc hm hi ht, ?_⟩
  rw [s.tasting_eq, if_neg (by rw [hp]; decide)]
  obtain ⟨hcount, hone, hkept, hdue, hcause⟩ := (s.fired a c).tasteFails_first a c (by rw [harr]; exact hz)
  have hsame : (s.fired a c).isAbsent (a / 16) = s.isAbsent (a / 16) ∧ (s.fired a c).train = s.train ∧ (s.fired a c).stp = s.stp
      ∧ (s.fired a c).afterClose = s.afterClose := by
    rw [hfired]
    exact ⟨rfl, rfl, rfl, rfl⟩
  obtain ⟨habs, htrain, hstp, hclose⟩ := hsame
  rw [habs] at hdue
  rw [htrain, hstp, hclose] at hcause
  rw [hcount, hctr, hkept, harr]
  exact ⟨rfl, hone, hc, hdue, hcause⟩

/-- A second tasting that fails. -/
theorem exec_tasting_ends (s : State) {a : Nat} {c : Captured} (ha : a < 2048) (hc : (s.array a).captured = some c)
    (hm : s.mayServe (a / 16) = true) (hi : s.imageAwake (a / 16) = true) (ht : s.tastingTurn a = true)
    (hp : tastePasses (s.tasteErrs a c).1 = false) (hz : (s.array a).tasteFails ≠ 0)
    (hs : (s.histOf uArray a).state = .clean ∨ (s.histOf uArray a).state = .transient) : ∃ t, exec (.tasting a) s = .next t
      ∧ (t.array a).status = 3 ∧ (t.array a).refNext = true ∧ (t.array a).captured = none ∧ (t.array a).tasteFails = 0
      ∧ ∃ e, t.hist? uArray a = some e ∧ e.state = .permanent ∧ e.dtFail = true := by
  obtain ⟨⟨x, n, hfired⟩, harr⟩ := s.fired_spec a c
  have hhist : (s.fired a c).histOf uArray a = s.histOf uArray a := State.histOf_congr (by rw [hfired]) (by decide) a
  rw [← hhist] at hs
  refine ⟨_, exec_tasting s ha hc hm hi ht, ?_⟩
  rw [s.tasting_eq, if_neg (by rw [hp]; decide)]
  exact (s.fired a c).tasteFails_second a c (by rw [harr]; exact hz) hs

/-- Settles O50: each command by what it finds. -/
theorem arraysAreScrubbedAndTasted : Obligations.ArraysAreScrubbedAndTasted := by
  unfold Obligations.ArraysAreScrubbedAndTasted
  intro s
  refine ⟨fun core bank pos sigma reads hc hb hp => ⟨exec_scrubStep_stays s reads hc hb hp,
      fun hm ht => ⟨fun h => ?_, fun h => ?_, fun f h => ?_⟩, fun age => exec_scrubLate s age hc hb, exec_scrubAgeLimit s hc hb⟩,
    fun a ha => ⟨fun h => ?_, fun w l h => ⟨fun hb => ?_, fun b hb => ?_⟩⟩,
    fun a ha => ⟨exec_tasting_stays s ha, fun c hc hm hi ht => ⟨exec_tasting_passes s ha hc hm hi ht, exec_tasting_fails s ha hc hm hi ht,
      exec_tasting_ends s ha hc hm hi ht⟩⟩⟩
  · rw [exec_scrubStep_turn s [] hc hb hp hm ht, s.scrubStep_none h]
    rfl
  · refine ⟨_, exec_scrubStep_turn s [] hc hb hp hm ht, ?_⟩
    rw [s.scrubStep_last h]
    exact s.scrubPass_spec core bank sigma hb
  · exact ⟨exec_scrubStep_inside s hc hb h hm ht, fun hout hw hpoison hk => exec_scrubStep_fixes s hc hb h hm ht hout hw hpoison hk,
      exec_scrubStep_replays s hc hb h hm ht⟩
  · rw [exec_checksumWindow s ha, s.judgeWindow_nil h]
  · rw [exec_checksumWindow s ha, s.judgeWindow_first h hb]
  · refine ⟨fun hf => ?_, exec_checksumWindow_fails s ha h hb⟩
    rw [exec_checksumWindow s ha, s.judgeWindow_cons h hb, if_neg (by rw [hf]; decide)]

end Sys2Proof.Machine
end

section
/-! The banks of a calibration run, and the blocks that lose their arrays (R115, R118 to R120, R139 to R143, R147, R155). -/

namespace Sys2Proof.Machine

/-! ### Runs that fail (R143) -/

/-- A run's failure: told, and counted. -/
theorem State.calFail_spec (s : State) (unit : Nat) (l : List Word) : (s.calFail unit l).ctrGet cCalFail = satAdd (s.ctrGet cCalFail) 1
    ∧ ∃ c h b e, s.calFail unit l = { s with ctr := c, hif := h, sbm := b, evt := e } := by
  have hlog := s.raiseU_logged 0xC002 unit l
  unfold State.calFail
  refine ⟨?_, ?_⟩
  · rw [State.ctrGet_count, if_pos rfl, hlog.ctr _ (by decide) (by decide)]
  · rw [State.count_only, hlog.only]
    exact ⟨_, _, _, _, rfl⟩

/-- A core whose run has failed is no longer busy with it, and stays due. -/
theorem State.calStays_spec (s : State) (core : Nat) : ∃ d u, s.calStays core = { s with cal := { s.cal with
    busy := s.cal.busy.filter (fun k => k != core), due := d, urgent := u } } ∧ ∀ k ∈ s.cal.due, k ∈ d := by
  obtain ⟨d, u, h, hdue, -⟩ := State.makeDue_spec { s with cal := { s.cal with busy := s.cal.busy.filter (fun k => k != core) } } core true
  exact ⟨d, u, h, hdue⟩

theorem not_mem_filter_ne (l : List Nat) (n : Nat) : n ∉ l.filter (fun k => k != n) := by simp

/-- A converter that is PERMANENT takes the four arrays of its position out of service, and no more. -/
theorem State.chargeErr_conv (s : State) (u code : Nat) (dt : Bool) : s.Charged (s.chargeErr uConv u code dt) := by
  obtain ⟨v, hv, -, h | h⟩ := s.chargeErr_cases uConv u code dt
  · rw [h]
    exact hv
  · rw [h]
    refine hv.trans ?_
    change v.Charged (v.quarantineAll _)
    rw [State.quarantineAll_only]
    exact ⟨rfl, fun _ _ => rfl, .refl _⟩

/-- The arrays that a CONVERTER unit serves: those of its core and position. -/
theorem convUnit_arrays (core : Nat) (f : ConvTest) :
    convUnit core f / 16640 = core ∧ convUnit core f % 16640 / 4160 = f.pos % 4 := by
  unfold convUnit
  omega

/-- Whether a converter was found beyond a limit before in the core's calibration. -/
def State.foundBefore (s : State) (core : Nat) (f : ConvTest) : Bool := (s.core core).failedOnce.contains (convUnit core f)

theorem State.foundBefore_iff (s : State) (core : Nat) (f : ConvTest) :
    s.foundBefore core f = true ↔ convUnit core f ∈ (s.core core).failedOnce := by
  unfold State.foundBefore
  simp

/-- A converter found beyond a limit: told, counted and charged. -/
def State.convTold (s : State) (core : Nat) (x : ConvTest × Nat) : State :=
  s.calFail (uConv * 2 ^ 22 + convUnit core x.1) [wd 1, wd core, wd (convUnit core x.1), wd (x.2 + 256 * b2n (s.foundBefore core x.1))]

def State.convCharged (s : State) (core : Nat) (x : ConvTest × Nat) : State :=
  (s.convTold core x).chargeErr uConv (convUnit core x.1) 0xC002 (s.foundBefore core x.1)

theorem State.convFail_eq (s : State) (core : Nat) (x : ConvTest × Nat) :
    s.convFail core x = if s.foundBefore core x.1 then s.convCharged core x else (s.convCharged core x).setCore core
      { (s.convCharged core x).core core with failedOnce := ((s.convCharged core x).core core).failedOnce ++ [convUnit core x.1] } := rfl

theorem State.convCharged_spec (s : State) (core : Nat) (x : ConvTest × Nat) :
    (s.convCharged core x).ctrGet cCalFail = satAdd (s.ctrGet cCalFail) 1 ∧ (s.convCharged core x).cal = s.cal
    ∧ (s.convCharged core x).core core = s.core core := by
  have hcharge := (s.convTold core x).chargeErr_conv (convUnit core x.1) 0xC002 (s.foundBefore core x.1)
  obtain ⟨hcount, c, h, b, e, htold⟩ : (s.convTold core x).ctrGet cCalFail = _ ∧ ∃ c h b e, s.convTold core x = _ := s.calFail_spec _ _
  refine ⟨(hcharge.ctr _ (by decide)).trans hcount, ?_, ?_⟩
  · unfold State.convCharged
    rw [hcharge.only, htold]
  · unfold State.convCharged
    rw [hcharge.tended.core, htold]
    rfl

/-- What a converter that a bank's run finds beyond a limit leaves: the failure counted, and the core's banks and turn. -/
theorem State.convFail_spec (s : State) (core : Nat) (x : ConvTest × Nat) :
    (s.convFail core x).ctrGet cCalFail = satAdd (s.ctrGet cCalFail) 1 ∧ (s.convFail core x).cal = s.cal
    ∧ ((s.convFail core x).core core).banksDone = (s.core core).banksDone
    ∧ (convUnit core x.1 ∉ (s.core core).failedOnce → convUnit core x.1 ∈ ((s.convFail core x).core core).failedOnce) := by
  obtain ⟨hcount, hcal, hcore⟩ := s.convCharged_spec core x
  rw [s.convFail_eq]
  split
  · rename_i hfound
    refine ⟨hcount, hcal, by rw [hcore], fun hn => absurd ?_ hn⟩
    exact (s.foundBefore_iff core x.1).mp hfound
  · refine ⟨hcount, hcal, ?_, fun _ => ?_⟩
    · rw [State.core_setCore, hcore]
    · rw [State.core_setCore]
      simp

/-- The second time a converter is found so, the arrays of its position are out of service. -/
theorem State.convFail_again (s : State) (core : Nat) (x : ConvTest × Nat) (hm : convUnit core x.1 ∈ (s.core core).failedOnce)
    (hs : (s.histOf uConv (convUnit core x.1)).state = .clean ∨ (s.histOf uConv (convUnit core x.1)).state = .transient) (b : Nat)
    (hb : b < 4) : ((s.convFail core x).array (16 * core + 4 * b + x.1.pos % 4)).status = 3
      ∧ ((s.convFail core x).array (16 * core + 4 * b + x.1.pos % 4)).refNext = true := by
  have hfound := (s.foundBefore_iff core x.1).mpr hm
  obtain ⟨-, c, h, d, e, htold⟩ : (s.convTold core x).ctrGet cCalFail = _ ∧ ∃ c h b e, s.convTold core x = _ := s.calFail_spec _ _
  have hhist : (s.convTold core x).histOf uConv (convUnit core x.1) = s.histOf uConv (convUnit core x.1) :=
    State.histOf_congr (by rw [htold]) (by decide) _
  rw [← hhist] at hs
  obtain ⟨w, -, -, -, hperm⟩ := (s.convTold core x).chargeErr_failed uConv (convUnit core x.1) 0xC002 hs
  obtain ⟨hunit, hpos⟩ := convUnit_arrays core x.1
  have hgone : s.convFail core x = w.quarantineAll ((List.range 4).map (fun b => 16 * core + 4 * b + x.1.pos % 4)) := by
    rw [s.convFail_eq, if_pos hfound]
    unfold State.convCharged
    rw [hfound, hperm]
    change w.quarantineAll ((List.range 4).map (fun b => 16 * (convUnit core x.1 / 16640) + 4 * b + convUnit core x.1 % 16640 / 4160)) = _
    rw [hunit, hpos]
  rw [hgone, State.quarantineAll_array, if_pos (List.mem_map.mpr ⟨b, List.mem_range.mpr hb, rfl⟩)]
  exact ⟨rfl, rfl⟩

/-! ### Banks that pass (R119, R120, R141) -/

/-- An array before and after a passing bank measured it. -/
structure ArrayS.Measured (x y : ArrayS) (epoch : Word) (temp : Int) (fig : ArrFig) : Prop where
  epoch : y.calEpoch = epoch
  temp : y.tempCal = temp
  baseline : y.baseline = none
  figure : y.fig = fig
  bad : figOk fig = false → x.status ≠ 2 → y.status = 3

theorem State.judgeWindow_array (s : State) (a : Nat) : (∀ b, b ≠ a → (s.judgeWindow a).array b = s.array b)
    ∧ (((s.judgeWindow a).array a).status = (s.array a).status ∨ ((s.judgeWindow a).array a).status = 3) := by
  have hcount (b : Nat) : (s.count cChkWin 1).array b = s.array b := State.array_congr (by rw [State.count_ana]) b
  have hkept (x : ArrayS) (hx : x.status = (s.array a).status) : (∀ b, b ≠ a → ((s.count cChkWin 1).setArray a x).array b = s.array b)
      ∧ (((s.count cChkWin 1).setArray a x).array a).status = (s.array a).status := by
    refine ⟨fun b hb => ?_, ?_⟩
    · rw [State.array_setArray, if_neg hb, hcount]
    · rw [State.array_setArray, if_pos rfl, hx]
  cases hdone : (s.array a).chkDone with
  | nil =>
    rw [s.judgeWindow_nil hdone]
    exact ⟨fun _ _ => rfl, Or.inl rfl⟩
  | cons w l =>
    cases hb : (s.array a).baseline with
    | none =>
      rw [s.judgeWindow_first hdone hb]
      obtain ⟨hother, hsame⟩ := hkept { s.array a with chkDone := l, baseline := some (w.sum, w.sq) } rfl
      exact ⟨hother, Or.inl hsame⟩
    | some b =>
      rw [s.judgeWindow_cons hdone hb]
      obtain ⟨hother, hsame⟩ := hkept { s.array a with chkDone := l } rfl
      split
      · obtain ⟨-, -, hfail, ⟨st, r, harr, hst⟩, -⟩ :=
          ((s.count cChkWin 1).setArray a { s.array a with chkDone := l }).checksumFails_spec a w
        refine ⟨fun b hb => (hfail b hb).trans (hother b hb), ?_⟩
        rw [harr, ← hsame]
        exact hst
      · exact ⟨hother, Or.inl hsame⟩

theorem State.judgeWindows_array (s : State) (a n : Nat) : (∀ b, b ≠ a → (s.judgeWindows a n).array b = s.array b)
    ∧ (((s.judgeWindows a n).array a).status = (s.array a).status ∨ ((s.judgeWindows a n).array a).status = 3) := by
  induction n generalizing s with
  | zero => exact ⟨fun _ _ => rfl, Or.inl rfl⟩
  | succ n ih =>
    obtain ⟨hother, hone⟩ := s.judgeWindow_array a
    obtain ⟨hother', hone'⟩ := ih (s.judgeWindow a)
    refine ⟨fun b hb => (hother' b hb).trans (hother b hb), ?_⟩
    rcases hone' with h | h
    · rw [← h] at hone
      exact hone
    · exact Or.inr h

theorem State.judgeWindow_tended (s : State) (a : Nat) : s.Tended (s.judgeWindow a) := by
  have hset (x : ArrayS) : s.Tended ((s.count cChkWin 1).setArray a x) :=
    (s.count_tended 1 (by decide)).trans (State.setArray_tended _ _ _)
  have hfail (u : State) (w : ChkWin) : u.Tended (u.checksumFails a w) := by
    unfold State.checksumFails
    refine .trans ?_ (State.chargeErr_array _ _ _ _).tended
    refine .trans ?_ (State.setArray_tended _ _ _)
    exact (u.count_tended 1 (by decide)).trans (State.raiseU_logged _ _ _ _).tended
  cases hdone : (s.array a).chkDone with
  | nil =>
    rw [s.judgeWindow_nil hdone]
    exact .refl s
  | cons w l =>
    cases hb : (s.array a).baseline with
    | none =>
      rw [s.judgeWindow_first hdone hb]
      exact hset _
    | some b =>
      rw [s.judgeWindow_cons hdone hb]
      split
      · exact (hset _).trans (hfail _ w)
      · exact hset _

theorem State.judgeWindows_tended (s : State) (a n : Nat) : s.Tended (s.judgeWindows a n) := by
  induction n generalizing s with
  | zero => exact .refl s
  | succ n ih => exact (s.judgeWindow_tended a).trans (ih _)

/-- A measured array that is QUARANTINED, or whose first measurement grades it, keeps what was measured. -/
theorem ArrayS.regrade_measured (x : ArrayS) : x.regrade = { x with status := x.regrade.status } := by
  unfold ArrayS.regrade
  split <;> rfl

/-- The figures that a passing bank leaves in one array; the others stay. -/
theorem State.arrayCalibrated_spec (s : State) (epoch : Word) (temp : Int) (a : Nat) (fig : ArrFig) :
    s.Tended (s.arrayCalibrated epoch temp a fig) ∧ (∀ b, b ≠ a → (s.arrayCalibrated epoch temp a fig).array b = s.array b)
    ∧ (s.array a).Measured ((s.arrayCalibrated epoch temp a fig).array a) epoch temp fig := by
  have hwork := s.judgeWindows_tended a (s.array a).chkDone.length
  obtain ⟨hother, hstatus⟩ := s.judgeWindows_array a (s.array a).chkDone.length
  unfold State.arrayCalibrated
  extract_lets s1 x
  split
  · refine ⟨(hwork.trans (s1.setArray_tended a x)).trans (State.setArray_tended _ _ _), fun b hb => ?_, ?_⟩
    · rw [State.quarantine_array, if_neg hb, State.array_setArray, if_neg hb]
      exact hother b hb
    · rw [State.quarantine_array, if_pos rfl, State.array_setArray, if_pos rfl]
      exact ⟨rfl, rfl, rfl, rfl, fun _ _ => rfl⟩
  · rename_i hfit
    refine ⟨hwork.trans (s1.setArray_tended a _), fun b hb => ?_, ?_⟩
    · rw [State.array_setArray, if_neg hb]
      exact hother b hb
    · rw [State.array_setArray, if_pos rfl]
      have hbad : figOk fig = false → (s.array a).status ≠ 2 →
          (if x.status = 4 then ArrayS.regrade { x with status := 0 } else x).status = 3 := by
        intro hf hs
        refine absurd ?_ hfit
        have hx : x.status ≠ 2 := by
          change (s1.array a).status ≠ 2
          rcases hstatus with h | h <;> rw [h]
          · exact hs
          · decide
        simp [hf, hx]
      split
      · rename_i h4
        rw [if_pos h4] at hbad
        refine ⟨?_, ?_, ?_, ?_, hbad⟩
        all_goals rw [ArrayS.regrade_measured]
        all_goals rfl
      · rename_i h4
        rw [if_neg h4] at hbad
        exact ⟨rfl, rfl, rfl, rfl, hbad⟩

/-- The figures that a passing bank leaves in its arrays. -/
theorem State.bankCalibrated_spec (s : State) (epoch : Word) (temp : Int) (l : List (Nat × ArrFig)) (hl : (l.map (·.1)).Nodup) :
    s.Tended (s.bankCalibrated epoch temp l) ∧ (∀ b, b ∉ l.map (·.1) → (s.bankCalibrated epoch temp l).array b = s.array b)
    ∧ ∀ p ∈ l, (s.array p.1).Measured ((s.bankCalibrated epoch temp l).array p.1) epoch temp p.2 := by
  induction l generalizing s with
  | nil => exact ⟨.refl s, fun _ _ => rfl, fun p hp => by cases hp⟩
  | cons x l ih =>
    rw [List.map_cons, List.nodup_cons] at hl
    obtain ⟨hwork, hother, hone⟩ := s.arrayCalibrated_spec epoch temp x.1 x.2
    obtain ⟨hwork', hother', hrest⟩ := ih (s.arrayCalibrated epoch temp x.1 x.2) hl.2
    unfold State.bankCalibrated
    refine ⟨hwork.trans hwork', fun b hb => ?_, fun p hp => ?_⟩
    · rw [List.map_cons, List.mem_cons, not_or] at hb
      rw [hother' b hb.2, hother b hb.1]
    · rcases List.mem_cons.mp hp with rfl | hp
      · rw [hother' _ hl.1]
        exact hone
      · have hne : p.1 ≠ x.1 := fun e => hl.1 (e ▸ List.mem_map.mpr ⟨p, hp, rfl⟩)
        rw [← hother p.1 hne]
        exact hrest p hp

/-- The figures of a bank, array by array. -/
theorem bankFigs_eq (core bank : Nat) (figs : List ArrFig) : bankFigs core bank figs = (List.range 4).map (fun i =>
    (16 * core + 4 * bank + i, figs.getD i { gainErr := 0, offset := 0, detBound := 0, noise := 0 })) := rfl

theorem bankFigs_nodup (core bank : Nat) (figs : List ArrFig) : ((bankFigs core bank figs).map (·.1)).Nodup := by
  rw [bankFigs_eq, List.map_map]
  exact List.Nodup.map (fun i j h => Nat.add_left_cancel h) List.nodup_range

/-- What a bank's part of a run leaves in the bank's arrays. -/
def State.BankMeasured (s t : State) (core bank : Nat) (o : CalObs) : Prop := ∀ i, i < 4 →
  (t.array (16 * core + 4 * bank + i)).calEpoch = s.cal.epochCnt + 1
  ∧ (t.array (16 * core + 4 * bank + i)).tempCal = o.temp ∧ (t.array (16 * core + 4 * bank + i)).baseline = none
  ∧ ∀ f, o.figs[i]? = some f → (t.array (16 * core + 4 * bank + i)).fig = f
    ∧ (figOk f = false → (s.array (16 * core + 4 * bank + i)).status ≠ 2 → (t.array (16 * core + 4 * bank + i)).status = 3)

/-- The figures of a bank's part of a run, with its epoch, in its four arrays. -/
theorem State.bankCalibrated_measures (s : State) (core bank : Nat) (o : CalObs) (c : Cal) : ∃ t,
    ({ s with cal := c } : State).bankCalibrated (s.cal.epochCnt + 1) o.temp (bankFigs core bank o.figs) = t
    ∧ State.Tended { s with cal := c } t ∧ s.BankMeasured t core bank o := by
  obtain ⟨hwork, -, hmeasured⟩ := State.bankCalibrated_spec { s with cal := c } (s.cal.epochCnt + 1) o.temp (bankFigs core bank o.figs)
    (bankFigs_nodup core bank o.figs)
  refine ⟨_, rfl, hwork, fun i hi => ?_⟩
  have hone := hmeasured (16 * core + 4 * bank + i, o.figs.getD i { gainErr := 0, offset := 0, detBound := 0, noise := 0 }) (by
    rw [bankFigs_eq]
    exact List.mem_map.mpr ⟨i, List.mem_range.mpr hi, rfl⟩)
  refine ⟨hone.epoch, hone.temp, hone.baseline, fun f hf => ?_⟩
  have hfig : o.figs.getD i { gainErr := 0, offset := 0, detBound := 0, noise := 0 } = f := by
    rw [List.getD_eq_getElem?_getD, hf]
    rfl
  rw [hfig] at hone
  exact ⟨hone.figure, hone.bad⟩

/-- A bank that passes: its figures and the next epoch, and the bank is done. -/
theorem State.bankPasses_measures (s : State) (core bank : Nat) (o : CalObs) : ∃ t, s.bankPasses core bank o = t
    ∧ s.BankMeasured t core bank o ∧ (t.core core).banksDone = setBit4 (s.core core).banksDone bank
    ∧ (t.core core).tempCal = (s.core core).tempCal ∧ t.cal.epochCnt = s.cal.epochCnt + 1 ∧ t.cal.due = s.cal.due ∧ t.cal.busy = s.cal.busy
    ∧ t.cal.rextFault = s.cal.rextFault ∧ t.cal.uCur = s.cal.uCur ∧ t.ctrGet cCalRun = s.ctrGet cCalRun
    ∧ t.ana.sctEpoch = s.ana.sctEpoch ∧ s.hif.OnlySignals t.hif := by
  obtain ⟨u, hu, hwork, hmeasured⟩ := s.bankCalibrated_measures core bank o
    { s.cal with epochCnt := s.cal.epochCnt + 1, valsNext := newVals core o.conv s.cal.valsNext }
  have hcal : u.cal.epochCnt = s.cal.epochCnt + 1 ∧ u.cal.due = s.cal.due ∧ u.cal.busy = s.cal.busy ∧ u.cal.rextFault = s.cal.rextFault
      ∧ u.cal.uCur = s.cal.uCur := by
    rw [hwork.only]
    exact ⟨rfl, rfl, rfl, rfl, rfl⟩
  obtain ⟨hepoch, hdue, hbusy, hfault, hcur⟩ := hcal
  have hcore : u.core core = s.core core := hwork.core core
  unfold State.bankPasses
  dsimp only
  rw [hu, hcore]
  refine ⟨_, rfl, hmeasured, ?_, ?_, hepoch, hdue, hbusy, hfault, hcur, hwork.ctr cCalRun (by decide), hwork.sct, hwork.hif⟩
  · rw [State.core_setCore]
  · rw [State.core_setCore]

/-- A publication changes the table and its epoch, and is told. -/
theorem State.newSct_spec (s : State) (l : Tab (List Word)) : (∀ o, o ∉ chargeCtrs → (s.newSct l).ctrGet o = s.ctrGet o)
    ∧ s.hif.OnlySignals (s.newSct l).hif ∧ ∃ c h b e, s.newSct l = { s with
      ctr := c, hif := h, sbm := b, evt := e, ana := { s.ana with sct := l, sctEpoch := s.ana.sctEpoch + 1 } } := by
  have h := State.raise_logged { s with ana := { s.ana with sct := l, sctEpoch := s.ana.sctEpoch + 1 } } 0x3007 []
  unfold State.newSct
  exact ⟨h.charged.ctr, h.hif, _, _, _, _, h.only⟩

/-- A run complete: the core is no longer due or busy. -/
theorem State.calEnd_leaves (s : State) (core : Nat) (temp : Int) : ∃ t, s.calEnd core temp = t
    ∧ core ∉ t.cal.due ∧ core ∉ t.cal.busy ∧ (t.core core).tempCal = temp ∧ (t.core core).banksDone = 0 ∧ (t.core core).failedOnce = []
    ∧ t.ctrGet cCalRun = satAdd (s.ctrGet cCalRun) 1 ∧ t.ana.sctEpoch = s.ana.sctEpoch ∧ t.ana.arrays = s.ana.arrays
    ∧ s.hif.OnlySignals t.hif := by
  unfold State.calEnd
  extract_lets c g s1 k s2
  have hlog := (s2.writeBlock core).raiseU_logged 0xC001 (uCore * 2 ^ 22 + core) [wd core, wd 0xF, s.cal.epochCnt]
  generalize (s2.writeBlock core).raiseU 0xC001 (uCore * 2 ^ 22 + core) [wd core, wd 0xF, s.cal.epochCnt] = u at hlog
  have hctr := u.ctrGet_count cCalRun 1 cCalRun
  rw [if_pos rfl, hlog.ctr _ (by decide) (by decide)] at hctr
  have hana : (u.count cCalRun 1).ana = s1.ana := by
    rw [State.count_ana, hlog.only]
    rfl
  have hcal : (u.count cCalRun 1).cal = (s2.writeBlock core).cal := by rw [State.count_cal, hlog.only]
  have hcore : (u.count cCalRun 1).core core = s1.core core := by
    unfold State.core
    rw [hana]
  refine ⟨_, rfl, ?_, ?_, ?_, ?_, ?_, hctr, ?_, ?_, ?_⟩
  · rw [hcal]
    exact not_mem_filter_ne _ core
  · rw [hcal]
    exact not_mem_filter_ne _ core
  · rw [hcore, State.core_setCore]
  · rw [hcore, State.core_setCore]
  · rw [hcore, State.core_setCore]
  · rw [hana]
    rfl
  · rw [hana]
    rfl
  · rw [State.count_hif]
    exact hlog.hif

/-- The end of a core's run in service: its entries of the table are published as well. -/
theorem State.calDone_spec (s : State) (core : Nat) (temp : Int) (hh : s.hostStill) : ∃ t, s.calDone core temp = t
    ∧ core ∉ t.cal.due ∧ core ∉ t.cal.busy ∧ (t.core core).tempCal = temp ∧ (t.core core).banksDone = 0 ∧ (t.core core).failedOnce = []
    ∧ t.ctrGet cCalRun = satAdd (s.ctrGet cCalRun) 1 ∧ t.ana.sctEpoch = s.ana.sctEpoch + 1 ∧ t.ana.arrays = s.ana.arrays := by
  obtain ⟨u, hu, hdue, hbusy, htemp, hbanks, hfailed, hctr, hsct, harr, hhif⟩ := s.calEnd_leaves core temp
  unfold State.calDone
  rw [hu]
  obtain ⟨hpctr, hphif, c, h, b, e, hpub⟩ : (∀ o, o ∉ chargeCtrs → (u.publishCore core).ctrGet o = u.ctrGet o)
    ∧ u.hif.OnlySignals (u.publishCore core).hif ∧ ∃ c h b e, u.publishCore core = _ := u.newSct_spec _
  rw [State.drain_still _ ((hhif.trans hphif).still hh)]
  have hcore : (u.publishCore core).core core = u.core core := by
    rw [hpub]
    rfl
  refine ⟨_, rfl, ?_, ?_, ?_, ?_, ?_, ?_, ?_, ?_⟩
  · rw [hpub]
    exact hdue
  · rw [hpub]
    exact hbusy
  · rw [hcore, htemp]
  · rw [hcore, hbanks]
  · rw [hcore, hfailed]
  · rw [hpctr _ (by decide), hctr]
  · rw [hpub]
    exact congrArg (· + 1) hsct
  · rw [hpub]
    exact harr

/-! ### One bank's part of a run (R140, R147) -/

/-- The core whose turn it is is due, and the bank is not done. -/
theorem State.calTurn_spec (s : State) {core bank : Nat} (h : s.calTurn core bank = true) (hb : bank < 4) :
    core ∈ s.cal.due ∧ (s.core core).banksDone ≠ 0xF := by
  unfold State.calTurn at h
  simp only [Bool.and_eq_true, List.contains_iff_mem, beq_iff_eq] at h
  obtain ⟨⟨⟨⟨hdue, -⟩, -⟩, -⟩, hnext⟩ := h
  refine ⟨hdue, fun hall => ?_⟩
  have hopen := List.find?_some hnext
  rw [hall] at hopen
  interval_cases bank <;> simp at hopen

theorem State.calFinish_open (s : State) {core : Nat} (o : CalObs) (h : (s.core core).banksDone ≠ 0xF) : s.calFinish core o = s := if_neg h

theorem exec_calBankRun (s : State) {core bank : Nat} (o : CalObs) (hc : core < 128) (hb : bank < 4) (hm : s.mayServe core = true)
    (ht : s.calTurn core bank = true) : exec (.calBankRun core bank o) s = .next ((s.calBank core bank o).calFinish core o) := by
  change execCalBankRun core bank o s = _
  unfold execCalBankRun
  rw [if_neg (by omega), hm, ht]
  rfl

theorem exec_calBankRun_stays (s : State) {core bank : Nat} (o : CalObs) (hc : core < 128) (hb : bank < 4)
    (h : s.mayServe core = false ∨ s.calTurn core bank = false) : exec (.calBankRun core bank o) s = .next s := by
  change execCalBankRun core bank o s = _
  unfold execCalBankRun
  rw [if_neg (by omega)]
  refine if_neg ?_
  rcases h with h | h <;> simp [h]

/-- A REXT fault: kept, told and counted; the run ends with the core due. -/
theorem State.rextFails_spec (s : State) (core die : Nat) (o : CalObs) (hdue : core ∈ s.cal.due) :
    let t := s.rextFails core die o
    t.cal.rextFault = true ∧ t.cal.rext = s.cal.rext ∧ core ∈ t.cal.due ∧ core ∉ t.cal.busy ∧ t.ana = s.ana
    ∧ t.ctrGet cCalFail = satAdd (s.ctrGet cCalFail) 1 := by
  unfold State.rextFails
  extract_lets x s1 t
  obtain ⟨hcount, c, h, b, e, honly⟩ := s1.calFail_spec 0 [wd 2, wd 0xFF, wd die, wd (o.rext.getD die 0)]
  have ht : t = (s1.calFail 0 [wd 2, wd 0xFF, wd die, wd (o.rext.getD die 0)]).calStays core := rfl
  clear_value t
  generalize s1.calFail 0 [wd 2, wd 0xFF, wd die, wd (o.rext.getD die 0)] = w at hcount honly ht
  have hw : w.cal = s1.cal ∧ w.ana = s.ana := by
    rw [honly]
    exact ⟨rfl, rfl⟩
  obtain ⟨hcal, hana⟩ := hw
  obtain ⟨due, u, hstays, hkeep⟩ := w.calStays_spec core
  rw [ht, hstays]
  have hfault : w.cal.rextFault = true := by rw [hcal]
  have hrext : w.cal.rext = s.cal.rext := by rw [hcal]
  refine ⟨hfault, hrext, hkeep core ?_, not_mem_filter_ne _ core, hana, hcount⟩
  rw [hcal]
  exact hdue

/-- A REXT out of range ends the run. -/
theorem State.calBank_rext (s : State) {core bank d : Nat} {o : CalObs} (hz : (s.core core).banksDone = 0) (hr : rextBad o = some d)
    (hdue : core ∈ s.cal.due) : ∃ t, s.calBank core bank o = t ∧ t.cal.rextFault = true
    ∧ t.cal.rext = wd (o.rext.getD (o.rext.length - 1) 0) ∧ core ∈ t.cal.due ∧ core ∉ t.cal.busy ∧ t.ana = s.ana
    ∧ t.ctrGet cCalFail = satAdd (s.ctrGet cCalFail) 1 := by
  unfold State.calBank
  extract_lets s1
  rw [if_pos hz, hr]
  exact ⟨_, rfl, State.rextFails_spec _ core d o hdue⟩

/-- A run that goes on: REXT measured at its first bank, then the bank's converters. -/
theorem State.calBank_goes (s : State) {core bank : Nat} {o : CalObs} (h : (s.core core).banksDone ≠ 0 ∨ rextBad o = none) : ∃ k : Cal,
    s.calBank core bank o = ({ s with cal := k } : State).calConv core bank o ∧ k.due = s.cal.due ∧ core ∈ k.busy
    ∧ k.epochCnt = s.cal.epochCnt ∧ ((s.core core).banksDone = 0 → k.rextFault = false ∧ k.uCur = o.rext) := by
  unfold State.calBank
  extract_lets s1
  split
  · rename_i hz
    rw [h.resolve_left (fun hn => hn hz)]
    exact ⟨_, rfl, rfl, mem_addOnce.mpr (Or.inr rfl), rfl, fun _ => ⟨rfl, rfl⟩⟩
  · rename_i hz
    exact ⟨_, rfl, rfl, mem_addOnce.mpr (Or.inr rfl), rfl, fun h0 => absurd h0 hz⟩

/-- A bank whose converters are within their limits. -/
theorem State.calBank_passes (s : State) {core bank : Nat} {o : CalObs} (h : (s.core core).banksDone ≠ 0 ∨ rextBad o = none)
    (hbad : s.convBad core o = []) : ∃ t, s.calBank core bank o = t
    ∧ s.BankMeasured t core bank o ∧ (t.core core).banksDone = setBit4 (s.core core).banksDone bank
    ∧ (t.core core).tempCal = (s.core core).tempCal ∧ t.cal.epochCnt = s.cal.epochCnt + 1 ∧ t.cal.due = s.cal.due ∧ core ∈ t.cal.busy
    ∧ ((s.core core).banksDone = 0 → t.cal.rextFault = false ∧ t.cal.uCur = o.rext) ∧ t.ctrGet cCalRun = s.ctrGet cCalRun
    ∧ t.ana.sctEpoch = s.ana.sctEpoch ∧ s.hif.OnlySignals t.hif := by
  obtain ⟨k, hbank, hdue, hbusy, hepoch, hrext⟩ := s.calBank_goes (bank := bank) h
  have hconv : ({ s with cal := k } : State).calConv core bank o = ({ s with cal := k } : State).bankPasses core bank o := by
    unfold State.calConv
    change (if (s.convBad core o).isEmpty then _ else _) = _
    rw [hbad]
    rfl
  obtain ⟨t, ht, hmeasured, hdone, htemp, hcount, htdue, htbusy, hfault, hcur, hctr, hsct, hhif⟩ :=
    State.bankPasses_measures { s with cal := k } core bank o
  rw [hbank, hconv, ht]
  refine ⟨t, rfl, fun i hi => ?_, hdone, htemp, ?_, htdue.trans hdue, ?_, fun hz => ?_, hctr, hsct, hhif⟩
  · rw [← hepoch]
    exact hmeasured i hi
  · rw [hcount, ← hepoch]
  · rw [htbusy]
    exact hbusy
  · rw [hfault, hcur]
    exact hrext hz

/-- A bank with one converter beyond a limit. -/
theorem State.calBank_conv (s : State) {core bank : Nat} {o : CalObs} {f : ConvTest × Nat}
    (h : (s.core core).banksDone ≠ 0 ∨ rextBad o = none) (hbad : s.convBad core o = [f]) (hdue : core ∈ s.cal.due) :
    ∃ t v, s.calBank core bank o = t ∧ v = ({ s with cal := v.cal } : State) ∧ core ∈ t.cal.due ∧ core ∉ t.cal.busy
      ∧ t.ctrGet cCalFail = satAdd (s.ctrGet cCalFail) 1 ∧ (t.core core).banksDone = (s.core core).banksDone
      ∧ t.ana = (v.convFail core f).ana := by
  obtain ⟨k, hbank, hkdue, -, -, -⟩ := s.calBank_goes (bank := bank) h
  generalize hv : ({ s with cal := k } : State) = v at hbank
  have hconv : v.calConv core bank o = (v.convFail core f).calStays core := by
    have hvbad : v.convBad core o = [f] := by
      rw [← hv]
      exact hbad
    unfold State.calConv
    rw [hvbad]
    rfl
  obtain ⟨hcount, hcal, hbanks, -⟩ := v.convFail_spec core f
  obtain ⟨d, u, hstays, hkeep⟩ := (v.convFail core f).calStays_spec core
  rw [hbank, hconv]
  refine ⟨_, v, rfl, ?_, ?_, ?_, ?_, ?_, ?_⟩
  · rw [← hv]
  · rw [hstays]
    refine hkeep core ?_
    rw [hcal, ← hv]
    change core ∈ k.due
    rw [hkdue]
    exact hdue
  · rw [hstays]
    exact not_mem_filter_ne _ core
  · rw [hstays]
    change (v.convFail core f).ctrGet cCalFail = _
    rw [hcount, ← hv]
    rfl
  · rw [hstays]
    change ((v.convFail core f).core core).banksDone = _
    rw [hbanks, ← hv]
    rfl
  · rw [hstays]

/-! ### Blocks placed again (R139) -/

theorem Tab.find_mapValues {α β : Type} (t : Tab α) (g : α → β) (k : Nat) :
    Tab.find (t.map (fun e => (e.1, g e.2))) k = (Tab.find t k).map g := by
  induction t with
  | nil => rfl
  | cons e t ih =>
    obtain ⟨j, v⟩ := e
    rw [List.map_cons]
    unfold Tab.find
    split
    · rfl
    · exact ih

/-- An array whose block stood in array a, which then stands in b. -/
def ArrayS.follow (a b : Nat) (x : ArrayS) : ArrayS := if x.moved == some a then { x with moved := some b } else x

theorem ArrayS.follow_same {a b : Nat} {x : ArrayS} (h : x.moved = some b) : x.follow a b = x := by
  unfold ArrayS.follow
  split
  · rw [← h]
  · rfl

theorem State.moveArray_spec (s : State) (a b : Nat) : s.Tended (s.moveArray a b) ∧ (s.moveArray a b).array a =
    { s.array a with holds := false, moved := some b, pendSrc := [], refOn := false, refNext := false } := by
  unfold State.moveArray
  extract_lets x s1 y s2 s3
  have hwork : s.Tended s3 := ((s.programAll_tended b _).trans (s1.setArray_tended b _)).trans (s2.setArray_tended a _)
  have hfind : Tab.find s3.ana.arrays a =
      some { x with holds := false, moved := some b, pendSrc := [], refOn := false, refNext := false } :=
    Tab.find_put_same _ _ _
  refine ⟨hwork.trans ⟨rfl, fun _ _ => rfl, .refl _⟩, ?_⟩
  change Tab.get (s3.ana.arrays.map (fun e => (e.1, ArrayS.follow a b e.2))) a ArrayS.blank = _
  unfold Tab.get
  rw [Tab.find_mapValues, hfind]
  exact ArrayS.follow_same rfl

theorem exec_arrayReplace_stays (s : State) {a : Nat} (ha : a < 2048) (h : (s.array a).unplaced = false ∨ (s.array a).moved.isSome = true
    ∨ (s.array a).lost = true ∨ s.mayReplace = false) : exec (.arrayReplace a) s = .next s := by
  change execArrayReplace a s = _
  unfold execArrayReplace
  rw [if_neg (by omega)]
  refine if_pos ?_
  rcases h with h | h | h | h <;> simp [h]

theorem exec_arrayReplace (s : State) {a : Nat} (ha : a < 2048) (hu : (s.array a).unplaced = true) (hm : (s.array a).moved = none)
    (hl : (s.array a).lost = false) (hr : s.mayReplace = true) : exec (.arrayReplace a) s = .next (s.replace a) := by
  change execArrayReplace a s = _
  unfold execArrayReplace
  rw [if_neg (by omega)]
  refine if_neg ?_
  simp [hu, hm, hl, hr]

/-- The array whose plan a re-placement takes. -/
def State.unplanned (s : State) (a : Nat) : State := s.setArray a { s.array a with plan := none }

/-- Choice 1: an array of the same bank. -/
theorem State.replace_moves (s : State) {a b : Nat} (h : s.choiceNow a = (1, b)) :
    s.replace a = ((s.unplanned a).moveArray a b).publish := by
  unfold State.replace
  rw [h]
  rfl

/-- Choice 2: a spare core. -/
theorem State.replace_spares (s : State) {a b : Nat} (h : s.choiceNow a = (2, b)) : s.replace a = (s.unplanned a).queueMove (a / 16) := by
  unfold State.replace
  rw [h]
  rfl

/-- Choice 3: none. -/
theorem State.replace_loses (s : State) {a b : Nat} (h : s.choiceNow a = (3, b)) : s.replace a =
    ((s.unplanned a).setArray a { (s.unplanned a).array a with lost := true, holds := false }).degrade := by
  unfold State.replace
  rw [h]
  rfl

theorem State.unplanned_array (s : State) (a b : Nat) :
    (s.unplanned a).array b = if b = a then { s.array a with plan := none } else s.array b :=
  s.array_setArray a b _

theorem State.replace_moves_spec (s : State) {a b : Nat} (h : s.choiceNow a = (1, b)) :
    let t := s.replace a
    (t.array a).moved = some b ∧ (t.array a).holds = false ∧ (t.array a).refOn = false ∧ (t.array a).plan = none
    ∧ t.ana.sctEpoch = s.ana.sctEpoch + 1 ∧ t.stp = s.stp ∧ t.rcp = s.rcp := by
  intro t
  obtain ⟨hwork, harr⟩ := (s.unplanned a).moveArray_spec a b
  have ht : t = State.publish _ := s.replace_moves h
  clear_value t
  generalize (s.unplanned a).moveArray a b = u at hwork harr ht
  obtain ⟨-, -, c, hf, bs, e, hpub⟩ : _ ∧ _ ∧ ∃ c h b e, u.publish = _ := u.newSct_spec _
  have hta : t.array a = u.array a := by
    rw [ht, hpub]
    rfl
  rw [hta, harr, s.unplanned_array, if_pos rfl]
  refine ⟨rfl, rfl, rfl, rfl, ?_, ?_, ?_⟩
  · rw [ht, hpub]
    exact congrArg (· + 1) hwork.sct
  · rw [ht, hpub]
    exact hwork.stp
  · rw [ht, hpub]
    exact hwork.rcp

theorem State.replace_spares_spec (s : State) {a b : Nat} (h : s.choiceNow a = (2, b)) :
    let t := s.replace a
    a / 16 ∈ t.flt.moving ∧ (t.array a).plan = none ∧ (∀ j, j ≠ a → t.array j = s.array j) ∧ t.stp = s.stp ∧ t.rcp = s.rcp := by
  intro t
  have ht : t = (s.unplanned a).queueMove (a / 16) := s.replace_spares h
  have harr (j : Nat) : t.array j = (s.unplanned a).array j := by
    rw [ht]
    rfl
  refine ⟨?_, ?_, fun j hj => ?_, by rw [ht]; rfl, by rw [ht]; rfl⟩
  · rw [ht]
    change a / 16 ∈ (addOnce s.flt.moving (a / 16))
    exact mem_addOnce.mpr (Or.inr rfl)
  · rw [harr, s.unplanned_array, if_pos rfl]
  · rw [harr, s.unplanned_array, if_neg hj]

theorem State.replace_loses_spec (s : State) {a b : Nat} (h : s.choiceNow a = (3, b)) :
    let t := s.replace a
    (t.array a).lost = true ∧ (t.array a).holds = false ∧ t.flt.degraded = true ∧ t.flt.lostNext = true
    ∧ t.ana.sctEpoch = s.ana.sctEpoch ∧ (s.rcp.state = .running → t.rcp.state = .stopping) := by
  intro t
  have ht : t = State.degrade _ := s.replace_loses h
  clear_value t
  have harr : t.array a = { (s.unplanned a).array a with lost := true, holds := false } := by
    rw [ht]
    change ((s.unplanned a).setArray a _).array a = _
    rw [State.array_setArray, if_pos rfl]
  rw [harr, ht]
  exact ⟨rfl, rfl, rfl, rfl, rfl, fun hr => if_pos hr⟩

/-! ### The choice (R139) -/

theorem State.choiceNow_none (s : State) {a : Nat} (h : (s.array a).plan = none) : s.choiceNow a = s.choiceFor a := by
  unfold State.choiceNow
  rw [h]

theorem State.choiceFor_array (s : State) {a b : Nat} (h : s.freeArray a = some b) : s.choiceFor a = (1, b) := by
  unfold State.choiceFor
  rw [h]

theorem State.choiceFor_core (s : State) {a : Nat} (h : s.freeArray a = none) :
    s.choiceFor a = (if s.spareFor (a / 16) then 2 else 3, 0) := by
  unfold State.choiceFor
  rw [h]

theorem State.choiceNow_array (s : State) {a b : Nat} (h : (s.array a).plan = some (1, b)) (hc : s.canTake a b = true) :
    s.choiceNow a = (1, b) := by
  unfold State.choiceNow
  rw [h]
  exact if_pos hc

theorem State.choiceNow_core (s : State) {a b : Nat} (h : (s.array a).plan = some (2, b)) (hc : s.spareFor (a / 16) = true) :
    s.choiceNow a = (2, b) := by
  unfold State.choiceNow
  rw [h]
  exact if_pos hc

/-! ### O51 -/

/-- A bank's part of a run that finds REXT out of range. -/
theorem exec_calBankRun_rext (s : State) {core bank d : Nat} {o : CalObs} (hc : core < 128) (hb : bank < 4) (hm : s.mayServe core = true)
    (ht : s.calTurn core bank = true) (hz : (s.core core).banksDone = 0) (hr : rextBad o = some d) :
    ∃ t, exec (.calBankRun core bank o) s = .next t ∧ t.cal.rextFault = true
      ∧ t.cal.rext = wd (o.rext.getD (o.rext.length - 1) 0) ∧ core ∈ t.cal.due ∧ core ∉ t.cal.busy ∧ (t.core core).banksDone = 0
      ∧ t.ctrGet cCalFail = satAdd (s.ctrGet cCalFail) 1 ∧ t.ana.arrays = s.ana.arrays := by
  obtain ⟨t, hbank, hfault, hrext, hdue, hbusy, hana, hctr⟩ := s.calBank_rext (bank := bank) hz hr (s.calTurn_spec ht hb).1
  have hbanks : (t.core core).banksDone = 0 := by
    unfold State.core
    rw [hana]
    exact hz
  refine ⟨t, ?_, hfault, hrext, hdue, hbusy, hbanks, hctr, by rw [hana]⟩
  rw [exec_calBankRun s o hc hb hm ht, hbank, t.calFinish_open o (by rw [hbanks]; decide)]

/-- A bank that passes, of which the run is not the last. -/
theorem exec_calBankRun_passes (s : State) {core bank : Nat} {o : CalObs} (hc : core < 128) (hb : bank < 4) (hm : s.mayServe core = true)
    (ht : s.calTurn core bank = true) (hr : (s.core core).banksDone ≠ 0 ∨ rextBad o = none) (hbad : s.convBad core o = [])
    (hdone : setBit4 (s.core core).banksDone bank ≠ 0xF) : ∃ t, exec (.calBankRun core bank o) s = .next t
      ∧ ((s.core core).banksDone = 0 → t.cal.rextFault = false ∧ t.cal.uCur = o.rext)
      ∧ t.cal.epochCnt = s.cal.epochCnt + 1 ∧ (t.core core).banksDone = setBit4 (s.core core).banksDone bank
      ∧ (t.core core).tempCal = (s.core core).tempCal ∧ t.cal.due = s.cal.due ∧ core ∈ t.cal.busy ∧ s.BankMeasured t core bank o := by
  obtain ⟨t, hbank, hmeasured, hbanks, htemp, hepoch, hdue, hbusy, hrext, -⟩ := s.calBank_passes (bank := bank) hr hbad
  refine ⟨t, ?_, hrext, hepoch, hbanks, htemp, hdue, hbusy, hmeasured⟩
  rw [exec_calBankRun s o hc hb hm ht, hbank, t.calFinish_open o (by rw [hbanks]; exact hdone)]

/-- The last bank of a run, which passes. -/
theorem exec_calBankRun_ends (s : State) {core bank : Nat} {o : CalObs} (hc : core < 128) (hb : bank < 4) (hm : s.mayServe core = true)
    (ht : s.calTurn core bank = true) (hr : (s.core core).banksDone ≠ 0 ∨ rextBad o = none) (hbad : s.convBad core o = [])
    (hdone : setBit4 (s.core core).banksDone bank = 0xF) (hh : s.hostStill) : ∃ t, exec (.calBankRun core bank o) s = .next t
      ∧ core ∉ t.cal.due ∧ core ∉ t.cal.busy ∧ (t.core core).tempCal = o.temp ∧ (t.core core).banksDone = 0
      ∧ (t.core core).failedOnce = [] ∧ t.ctrGet cCalRun = satAdd (s.ctrGet cCalRun) 1 ∧ t.ana.sctEpoch = s.ana.sctEpoch + 1
      ∧ s.BankMeasured t core bank o := by
  obtain ⟨u, hbank, hmeasured, hbanks, -, -, -, -, -, hctr, hsct, hhif⟩ := s.calBank_passes (bank := bank) hr hbad
  obtain ⟨t, hend, hdue, hbusy, htemp, hzero, hfailed, hrun, hpub, harr⟩ := u.calDone_spec core o.temp (hhif.still hh)
  have hfinish : u.calFinish core o = t := by
    rw [← hend]
    exact if_pos (hbanks.trans hdone)
  have hexec := exec_calBankRun s o hc hb hm ht
  rw [hbank, hfinish] at hexec
  refine ⟨t, hexec, hdue, hbusy, htemp, hzero, hfailed, by rw [hrun, hctr], by rw [hpub, hsct], fun i hi => ?_⟩
  rw [State.array_congr harr]
  exact hmeasured i hi

/-- A converter beyond a limit for the first time. -/
theorem exec_calBankRun_found (s : State) {core bank : Nat} {o : CalObs} {f : ConvTest × Nat} (hc : core < 128) (hb : bank < 4)
    (hm : s.mayServe core = true) (ht : s.calTurn core bank = true) (hr : (s.core core).banksDone ≠ 0 ∨ rextBad o = none)
    (hbad : s.convBad core o = [f]) (hf : convUnit core f.1 ∉ (s.core core).failedOnce) :
    ∃ t, exec (.calBankRun core bank o) s = .next t ∧ core ∈ t.cal.due ∧ core ∉ t.cal.busy
      ∧ convUnit core f.1 ∈ (t.core core).failedOnce ∧ t.ctrGet cCalFail = satAdd (s.ctrGet cCalFail) 1 := by
  obtain ⟨hin, hopen⟩ := s.calTurn_spec ht hb
  obtain ⟨t, v, hbank, hv, hdue, hbusy, hctr, hbanks, hana⟩ := s.calBank_conv (bank := bank) hr hbad hin
  refine ⟨t, ?_, hdue, hbusy, ?_, hctr⟩
  · rw [exec_calBankRun s o hc hb hm ht, hbank, t.calFinish_open o (by rw [hbanks]; exact hopen)]
  · have hcore : t.core core = (v.convFail core f).core core := by
      unfold State.core
      rw [hana]
    obtain ⟨-, -, -, hadds⟩ := v.convFail_spec core f
    rw [hcore]
    refine hadds ?_
    rw [hv]
    exact hf

/-- A converter beyond a limit for the second time. -/
theorem exec_calBankRun_gone (s : State) {core bank : Nat} {o : CalObs} {f : ConvTest × Nat} (hc : core < 128) (hb : bank < 4)
    (hm : s.mayServe core = true) (ht : s.calTurn core bank = true) (hr : (s.core core).banksDone ≠ 0 ∨ rextBad o = none)
    (hbad : s.convBad core o = [f]) (hf : convUnit core f.1 ∈ (s.core core).failedOnce)
    (hs : (s.histOf uConv (convUnit core f.1)).state = .clean ∨ (s.histOf uConv (convUnit core f.1)).state = .transient) :
    ∃ t, exec (.calBankRun core bank o) s = .next t ∧ core ∈ t.cal.due ∧ t.ctrGet cCalFail = satAdd (s.ctrGet cCalFail) 1
      ∧ ∀ b, b < 4 → (t.array (16 * core + 4 * b + f.1.pos % 4)).status = 3
        ∧ (t.array (16 * core + 4 * b + f.1.pos % 4)).refNext = true := by
  obtain ⟨hin, hopen⟩ := s.calTurn_spec ht hb
  obtain ⟨t, v, hbank, hv, hdue, -, hctr, hbanks, hana⟩ := s.calBank_conv (bank := bank) hr hbad hin
  refine ⟨t, ?_, hdue, hctr, fun b hb4 => ?_⟩
  · rw [exec_calBankRun s o hc hb hm ht, hbank, t.calFinish_open o (by rw [hbanks]; exact hopen)]
  · rw [State.array_congr (congrArg Ana.arrays hana)]
    refine v.convFail_again core f ?_ ?_ b hb4
    · rw [hv]
      exact hf
    · rw [hv]
      exact hs

/-- Settles O51: a bank's part of a run by what it measures, and a re-placement by the choice that is there. -/
theorem arraysAreCalibratedAndReplaced : Obligations.ArraysAreCalibratedAndReplaced := by
  unfold Obligations.ArraysAreCalibratedAndReplaced
  intro s
  refine ⟨fun core bank o hc hb => ⟨exec_calBankRun_stays s o hc hb, fun hm ht => ⟨fun d => exec_calBankRun_rext s hc hb hm ht,
      fun hr => ⟨fun hbad => ⟨exec_calBankRun_passes s hc hb hm ht hr hbad, exec_calBankRun_ends s hc hb hm ht hr hbad⟩,
        fun f hbad => ⟨exec_calBankRun_found s hc hb hm ht hr hbad, exec_calBankRun_gone s hc hb hm ht hr hbad⟩⟩⟩⟩,
    fun a ha => ⟨exec_arrayReplace_stays s ha, fun hu hm hl hr => ⟨fun b h => ?_, fun b h => ?_, fun b h => ?_⟩,
      fun hp => ⟨fun b h => ?_, fun h hc => ?_, fun h hc => ?_⟩, fun b => s.choiceNow_array, fun b => s.choiceNow_core⟩⟩
  · exact ⟨_, exec_arrayReplace s ha hu hm hl hr, s.replace_moves_spec h⟩
  · exact ⟨_, exec_arrayReplace s ha hu hm hl hr, s.replace_spares_spec h⟩
  · exact ⟨_, exec_arrayReplace s ha hu hm hl hr, s.replace_loses_spec h⟩
  · rw [s.choiceNow_none hp, s.choiceFor_array h]
  · rw [s.choiceNow_none hp, s.choiceFor_core h, hc]
    rfl
  · rw [s.choiceNow_none hp, s.choiceFor_core h, hc]
    rfl

end Sys2Proof.Machine
end

section
/-! Calibration and test tickets (R142, R153, R350, R355, R366): an error charged to a unit leaves the mailbox's tickets, and so each of
these tickets ends in its own completion. -/

namespace Sys2Proof.Machine

/-! ### Errors and the mailbox's tickets -/

theorem State.moveCore_hif (s : State) (core : Nat) : (s.moveCore core).hif = s.hif := by
  unfold State.moveCore
  rw [State.cause_hif]
  rfl

theorem State.lose_idle (s : State) (hi : s.hif.Idle) : s.lose.hif.Idle := by
  unfold State.lose
  dsimp only
  split
  · exact hi
  · exact State.setState_idle _ _ hi

/-- What is done with a PERMANENT unit leaves the tickets, even where the device becomes LOST (R365). -/
theorem State.permanent_idle (s : State) (cls unit : Nat) (hi : s.hif.Idle) : (s.permanent cls unit).hif.Idle := by
  have moved (core : Nat) : (s.moveCore core).hif.Idle := by rw [State.moveCore_hif]; exact hi
  unfold State.permanent
  split
  · exact moved _
  split
  · exact moved _
  split
  · exact hi
  split
  · rw [State.quarantineAll_only]; exact hi
  split
  · split
    · split
      · exact moved _
      · exact s.lose_idle hi
    · exact hi
  split
  · exact hi
  split <;> exact hi

theorem State.chargeErr_idle (s : State) (cls unit code : Nat) (dt : Bool) (hi : s.hif.Idle) : (s.chargeErr cls unit code dt).hif.Idle := by
  obtain ⟨u, hu, -, h | h⟩ := s.chargeErr_cases cls unit code dt
  · rw [h]
    exact hu.hif.idle hi
  · rw [h]
    exact u.permanent_idle cls unit (hu.hif.idle hi)

theorem State.portDown_idle (s : State) (p : Nat) (hi : s.hif.Idle) : (s.portDown p).hif.Idle := by
  have hdown : (s.takeDown p (s.port p)).hif = s.hif := by
    unfold State.takeDown
    rw [(State.noteDowns_traffic _).hif, (State.dropWaiting_traffic _ _).hif, State.putPort_hif]
  exact (State.raiseU_logged _ _ _ _).hif.idle (by rw [hdown]; exact hi)

theorem State.laneOut_idle (s : State) (port lane : Nat) (hi : s.hif.Idle) : (s.laneOut port lane).hif.Idle := by
  unfold State.laneOut
  dsimp only
  split
  · exact hi
  · split
    · exact State.portDown_idle _ _ hi
    · exact hi

/-- A unit that fails a directed test leaves the tickets. -/
theorem State.testFailure_idle (s : State) (cls unit : Nat) (hi : s.hif.Idle) : (s.testFailure cls unit).hif.Idle := by
  unfold State.testFailure
  split
  · exact (s.rowFails_tended _ _ _).hif.idle hi
  · split
    · exact State.laneOut_idle _ _ _ (s.chargeErr_idle _ _ _ _ hi)
    · exact s.chargeErr_idle _ _ _ _ hi

theorem State.testFailures_idle (s : State) (l : List (Nat × Nat)) (hi : s.hif.Idle) : (s.testFailures l).hif.Idle := by
  induction l generalizing s with
  | nil => exact hi
  | cons x l ih => exact ih _ (s.testFailure_idle x.1 x.2 hi)

theorem State.publish_idle (s : State) (hi : s.hif.Idle) : s.publish.hif.Idle := by
  obtain ⟨-, hhif, -⟩ := s.newSct_spec ((List.range 2048).map (fun a => (a, s.sctEntry a)))
  exact hhif.idle hi

theorem State.calCommand_hif (s : State) (l : List Nat) : (s.calCommand l).hif = s.hif := by
  obtain ⟨due, go, h, -⟩ := s.calCommand_spec l
  rw [h]

/-! ### The tickets' own effects -/

theorem State.namedCores_congr {s u : State} (h : u.flt = s.flt) (v : Nat) : u.namedCores v = s.namedCores v := by
  unfold State.namedCores State.isAbsent
  rw [h]

theorem State.tkCalRun_ok (u : State) (w : WaitTicket) (hc : par w.t 0 ≤ 127 ∨ par w.t 0 = 0xFF) :
    let v := u.calCommand (u.namedCores (par w.t 0))
    u.tkCalRun w = if v.calEnded w then v.complete w 0 [] else v.busy w := by
  unfold State.tkCalRun
  rw [if_neg (by omega)]
  rfl

theorem State.tkTestEnter_ok (u : State) (w : WaitTicket) (hs : u.hif.state = .ready) :
    u.tkTestEnter w = (u.setState .test).complete w 0 [] :=
  if_pos hs

theorem State.tkTestLeave_ok (u : State) (w : WaitTicket) (hs : u.hif.state = .test) :
    u.tkTestLeave w = (((u.testFailures w.fails).publish).setState .ready).complete w 0 [] :=
  if_neg (by simp [hs])

theorem State.tkDirectedTest_ok (u : State) (w : WaitTicket) (hs : u.hif.state = .test) (hu : par w.t 1 < unitCount (par w.t 0)) :
    u.tkDirectedTest w = if w.ok then u.complete w 0 [0] else (u.testFailure (par w.t 0) (par w.t 1)).complete w 0 [1] := by
  unfold State.tkDirectedTest
  rw [if_neg (by simp [hs]), if_neg (by omega), if_neg (by omega)]
  rfl

/-! ### O8 -/

/-- CAL_RUN completes where every core that it names has run, and stays in flight where one has not. -/
theorem exec_calRun {s : State} {k : Ticket} (h : TicketOk s 0x0601 k 1 0) (hc : par k 0 ≤ 127 ∨ par k 0 = 0xFF) :
    let u := (s.admits 0x0601 k).calCommand (s.namedCores (par k 0))
    exec (.calRun k) s = .next (if u.calEnded (plain 0x0601 k) then u.post 0x0601 k 0 [] else u.busy (plain 0x0601 k)) := by
  intro u
  obtain ⟨-, -, hflt, -⟩ := s.admits_same 0x0601 k
  have hrun : (s.admits 0x0601 k).runTicket (plain 0x0601 k) =
      if u.calEnded (plain 0x0601 k) then u.complete (plain 0x0601 k) 0 [] else u.busy (plain 0x0601 k) := by
    unfold u
    rw [← State.namedCores_congr hflt]
    exact State.tkCalRun_ok _ (plain 0x0601 k) hc
  have hi : u.hif.Idle := by
    rw [State.calCommand_hif]
    exact h.free.idle_admits
  have hexec : exec (.calRun k) s = .next (s.submit (plain 0x0601 k)) := rfl
  rw [hexec]
  split
  · rename_i hend
    rw [State.submit_plain (q := true) h rfl (hrun.trans (if_pos hend)) hi]
  · rename_i hend
    rw [State.submit_runs_on (q := true) (plain 0x0601 k) rfl rfl h rfl (hrun.trans (if_neg hend)) hi.waits hi.deletes]

/-- Settles O8: each ticket's own effect leaves the mailbox idle, and ends in its completion; CAL_RUN alone may stay in flight. -/
theorem testTicketsRun : Obligations.TestTicketsRun := by
  unfold Obligations.TestTicketsRun
  intro s k
  refine ⟨fun h hc => exec_calRun h hc, fun h hs => ?_, fun fails h hs => ?_, fun h hs hu => ?_⟩
  · have hi := h.free.idle_admits
    obtain ⟨-, -, -, -, -, hst⟩ := s.admits_same 0x0603 k
    exact congrArg _ (State.submit_plain (q := true) h rfl (State.tkTestEnter_ok _ _ (hst.trans hs)) (State.setState_idle _ _ hi))
  · obtain ⟨-, -, -, -, -, hst⟩ := s.admits_same 0x0604 k
    obtain ⟨hw, hd, hb⟩ := State.setState_idle _ .ready (State.publish_idle _ (State.testFailures_idle _ fails h.free.idle_admits))
    exact congrArg _ (State.submit_ends (q := true) { plain 0x0604 k with fails := fails } rfl rfl h rfl
      (State.tkTestLeave_ok _ _ (hst.trans hs)) hb hw hd)
  · have hi := h.free.idle_admits
    obtain ⟨-, -, -, -, -, hst⟩ := s.admits_same 0x0605 k
    have hrun (ok : Bool) := State.tkDirectedTest_ok (s.admits 0x0605 k) { plain 0x0605 k with ok := ok } (hst.trans hs) hu
    refine ⟨?_, ?_⟩
    · exact congrArg _ (State.submit_ends (q := true) { plain 0x0605 k with ok := true } rfl rfl h rfl (hrun true)
        hi.runs hi.waits hi.deletes)
    · obtain ⟨hw, hd, hb⟩ := State.testFailure_idle _ (par k 0) (par k 1) hi
      exact congrArg _ (State.submit_ends (q := true) { plain 0x0605 k with ok := false } rfl rfl h rfl (hrun false) hb hw hd)

end Sys2Proof.Machine
end

section
/-! Start-up (R146, R316, R381, R427, R428, R448, R449): what each of its steps leaves, step by step to READY. -/

namespace Sys2Proof.Machine

/-! ### The step in progress -/

/-- A brace holds every step (R392). -/
theorem exec_startupStep_braced {s : State} (o : StartObs) (h : s.pwr.braced = true) : exec (.startupStep o) s = .next s :=
  if_pos h

/-- Without a brace the step in progress completes. -/
theorem exec_startupStep {s : State} (o : StartObs) (hb : s.pwr.braced = false) :
    (s.pwr.startStep = 6 → exec (.startupStep o) s = .next (s.stepUtensel o))
    ∧ (s.pwr.startStep = 7 → exec (.startupStep o) s = .next (s.stepMemory o))
    ∧ (s.pwr.startStep = 8 → exec (.startupStep o) s = .next (s.stepTests o))
    ∧ (s.pwr.startStep = 9 → exec (.startupStep o) s = .next (s.stepCal o))
    ∧ (s.pwr.startStep = 10 → exec (.startupStep o) s = .next s.stepGood)
    ∧ (s.pwr.startStep = 11 → exec (.startupStep o) s = .next s.stepReady) := by
  have hexec : exec (.startupStep o) s = execStartupStep o s := rfl
  rw [hexec]
  unfold execStartupStep
  rw [if_neg (by simp [hb])]
  refine ⟨?_, ?_, ?_, ?_, ?_, ?_⟩ <;> (intro h; rw [h]; rfl)

/-! ### A copy that fails, and start-up that stops (R427, R449) -/

theorem State.stopStart_pwr (s : State) (step cause : Nat) :
    (s.stopStart step cause).pwr = { s.pwr with startFail := some (step, cause), startStep := 0 } :=
  State.raise_pwr _ _ _

theorem State.copyPasses_congr {s t : State} (h : t.sec = s.sec) (b ok : Bool) : t.copyPasses b ok = s.copyPasses b ok := by
  unfold State.copyPasses
  rw [h]

/-- The other copy, not yet tried, passes and boots. -/
theorem State.copyFails_other {s : State} (hf : s.sec.failover = false) (hc : s.copyPasses (!s.sec.fwB) true = true) :
    s.copyFails.sec.fwB = !s.sec.fwB ∧ s.copyFails.sec.failover = true ∧ s.copyFails.pwr.startStep = 6 := by
  have h : s.copyFails = s.failOver := if_pos (by simp [hf, hc])
  rw [h]
  unfold State.failOver
  simp

/-- No other copy is left, and start-up stops. -/
theorem State.copyFails_stops {s : State} (h : s.sec.failover = true ∨ s.copyPasses (!s.sec.fwB) true = false) :
    s.copyFails = s.stopStart 5 1 :=
  if_neg (by rcases h with h | h <;> simp [h])

/-! ### Step 6 (R146, R381, R427) -/

theorem State.openLog_logged (s : State) : s.Logged s.openLog :=
  .trans (t := { s with evt := { s.evt.flushPage with aonBuf := [], aonLost := 0 } }) (.log rfl) (State.writeRecords_logged _ _)

theorem State.openLog_sec (s : State) : s.openLog.sec = s.sec := by rw [s.openLog_logged.only]

/-- A device whose mailbox is idle enters FAULT. -/
theorem State.enterFault_spec {s : State} (hi : s.hif.Idle) : s.enterFault.hif.state = .fault ∧ s.enterFault.flt.fatal = true := by
  obtain ⟨t, ht, hstate, hflt, -⟩ := State.fault_drained
    { s with flt := { s.flt with fatal := true }, stp := { s.stp with active := false, halted := true },
             pwr := { s.pwr with startStep := 0 } } hi
  have h : s.enterFault = t := ht
  rw [h, hflt]
  exact ⟨hstate, rfl⟩

theorem State.stepUtensel_passes {s : State} {o : StartObs} (hself : o.selfOk = true) (hmap : o.coreMapOk = true)
    (hnvm : o.nvmOk = true) (hsec : o.secOk = true) : (s.stepUtensel o).pwr.startStep = 7 := by
  unfold State.stepUtensel
  simp [hself, hmap, hnvm, hsec]

/-- A failed core map, NVM or security root. -/
theorem State.stepUtensel_fatal {s : State} {o : StartObs} (hself : o.selfOk = true)
    (h : o.coreMapOk = false ∨ o.nvmOk = false ∨ o.secOk = false) (hi : s.hif.Idle) :
    (s.stepUtensel o).hif.state = .fault ∧ (s.stepUtensel o).flt.fatal = true := by
  have hfails : s.stepUtensel o = s.openLog.enterFault := by
    unfold State.stepUtensel
    rw [if_neg (by simp [hself]), if_pos]
    rcases h with h | h | h <;> simp [h]
  rw [hfails]
  exact State.enterFault_spec (s.openLog_logged.hif.idle hi)

/-- A copy whose own check does not complete, with the other one to boot. -/
theorem State.stepUtensel_other {s : State} {o : StartObs} (hself : o.selfOk = false) (hf : s.sec.failover = false)
    (hc : s.copyPasses (!s.sec.fwB) true = true) : (s.stepUtensel o).sec.fwB = !s.sec.fwB
    ∧ (s.stepUtensel o).sec.failover = true ∧ (s.stepUtensel o).pwr.startStep = 6 := by
  have hfails : s.stepUtensel o = s.openLog.copyFails := if_pos (by simp [hself])
  have hsec := s.openLog_sec
  rw [hfails, ← hsec]
  exact State.copyFails_other (by rw [hsec, hf]) (by rw [State.copyPasses_congr hsec, hsec, hc])

/-- A copy whose own check does not complete, with no other one to boot. -/
theorem State.stepUtensel_stops {s : State} {o : StartObs} (hself : o.selfOk = false)
    (h : s.sec.failover = true ∨ s.copyPasses (!s.sec.fwB) true = false) :
    (s.stepUtensel o).pwr.startFail = some (5, 1) ∧ (s.stepUtensel o).pwr.startStep = 0 := by
  have hfails : s.stepUtensel o = s.openLog.copyFails := if_pos (by simp [hself])
  have hsec := s.openLog_sec
  rw [hfails, State.copyFails_stops (by rw [State.copyPasses_congr hsec, hsec]; exact h), State.stopStart_pwr]
  exact ⟨rfl, rfl⟩

/-! ### Step 7 (R316) -/

theorem State.stepMemory_stops {s : State} {o : StartObs} (h : o.rates.foldl min 4 = 0) :
    (s.stepMemory o).pwr.startFail = some (7, 2) := by
  unfold State.stepMemory
  dsimp only
  rw [if_pos h, State.stopStart_pwr]

/-- Memory that trains runs at the rate that every device passed, and nothing in it survives. -/
theorem State.stepMemory_trains {s : State} {o : StartObs} (h : o.rates.foldl min 4 ≠ 0) : (s.stepMemory o).pwr.startStep = 8
    ∧ (s.stepMemory o).mem.rate = o.rates.foldl min 4 ∧ ∀ a, Mem.get (s.stepMemory o).store.gddr a = 0 := by
  unfold State.stepMemory
  dsimp only
  rw [if_neg h]
  exact ⟨rfl, rfl, fun _ => rfl⟩

/-! ### Step 9 (R140, R449) -/

theorem State.stepCal_cold {s : State} {o : StartObs} (h : o.temp < 5) : s.stepCal o = s :=
  if_pos (by simp [h])

theorem State.stepCal_warm {s : State} {o : StartObs} (h : 5 ≤ o.temp) (hm : s.flt.moving = []) : (s.stepCal o).pwr.startStep = 10 := by
  unfold State.stepCal
  rw [if_neg (by simpa [hm] using h)]

/-- 120 s at step 9 below 5 °C stop start-up. -/
theorem exec_selfHeatTimeout {s : State} (h : s.pwr.startStep = 9) : exec .selfHeatTimeout s = .next (s.stopStart 9 4) :=
  if_pos h

/-! ### Step 10 (R118, R428) -/

theorem State.publish_sec (s : State) : s.publish.sec = s.sec :=
  State.raise_sec _ _ _

/-- The boot declared good, with the rollback counter at the security version that booted or beyond. -/
theorem State.stepGood_spec (s : State) : s.stepGood.pwr.startStep = 11 ∧ s.stepGood.sec.bootGood = true
    ∧ s.stepGood.sec.rollback.toNat = max s.sec.rollback.toNat s.fwCopy.svn.toNat := by
  refine ⟨rfl, rfl, ?_⟩
  have hcopy : s.publish.fwCopy = s.fwCopy := by
    unfold State.fwCopy
    rw [s.publish_sec]
  unfold State.stepGood
  dsimp only
  rw [hcopy, s.publish_sec]
  split <;> omega

/-! ### Step 11 (R350, R440) -/

/-- A device that boots becomes READY, and its idle mailbox has nothing to go on with. -/
theorem State.readied_spec {u : State} (hboot : u.hif.state = .boot) (hi : u.hif.Idle) : ((u.setState .ready).drain).hif.state = .ready
    ∧ ((u.setState .ready).drain).hif.ready = true ∧ ((u.setState .ready).drain).pwr = u.pwr := by
  have hstate : (u.setState .ready).hif.state = .ready := u.setState_state .ready
  obtain ⟨hw, hd, hb⟩ := u.setState_idle .ready hi
  rw [State.drain_still _ ⟨hw, hd, hb, by simp [hstate], by simp [hstate]⟩]
  refine ⟨hstate, ?_, u.setState_pwr .ready⟩
  rw [u.setState_ready .ready (by simp [hboot])]
  rfl

theorem State.stepReady_spec {s : State} (hboot : s.hif.state = .boot) (hi : s.hif.Idle) :
    s.stepReady.hif.state = .ready ∧ s.stepReady.hif.ready = true ∧ s.stepReady.pwr.startStep = 0 := by
  have hready : ∃ u : State, s.stepReady = (u.setState .ready).drain ∧ u.hif = s.hif ∧ u.pwr.startStep = 0 := ⟨_, rfl, rfl, rfl⟩
  obtain ⟨u, hu, hhif, hstep⟩ := hready
  obtain ⟨hstate, hrdy, hpwr⟩ := State.readied_spec (u := u) (by rw [hhif, hboot]) (by rw [hhif]; exact hi)
  rw [hu, hpwr]
  exact ⟨hstate, hrdy, hstep⟩

/-! ### O28 -/

/-- Settles O28: each step by the lemma that says what it leaves. -/
theorem startUpGoesStepByStep : Obligations.StartUpGoesStepByStep := by
  unfold Obligations.StartUpGoesStepByStep
  intro s o
  refine ⟨exec_startupStep_braced o, fun hb => ?_, fun h9 => ?_⟩
  · obtain ⟨step6, step7, step8, step9, step10, step11⟩ := exec_startupStep o hb
    refine ⟨fun h6 hself hmap hnvm hsec => ?_, fun h6 hself h hw hd hq _ => ?_, fun h6 hself => ⟨fun hf hc => ?_, fun h => ?_⟩,
      fun h7 => ⟨fun h => ?_, fun h => ?_⟩, step8, fun h9 hcold => ?_, fun h9 hwarm hm => ?_, fun h10 => ?_,
      fun h11 hboot hw hd hq => ?_⟩
    · exact ⟨_, step6 h6, State.stepUtensel_passes hself hmap hnvm hsec⟩
    · exact ⟨_, step6 h6, State.stepUtensel_fatal hself h ⟨hw, hd, hq⟩⟩
    · exact ⟨_, step6 h6, State.stepUtensel_other hself hf hc⟩
    · exact ⟨_, step6 h6, State.stepUtensel_stops hself h⟩
    · exact ⟨_, step7 h7, State.stepMemory_stops h⟩
    · exact ⟨_, step7 h7, State.stepMemory_trains h⟩
    · rw [step9 h9, State.stepCal_cold hcold]
    · exact ⟨_, step9 h9, State.stepCal_warm hwarm hm⟩
    · exact ⟨_, step10 h10, s.stepGood_spec⟩
    · exact ⟨_, step11 h11, State.stepReady_spec hboot ⟨hw, hd, hq⟩⟩
  · exact ⟨_, exec_selfHeatTimeout h9, by rw [State.stopStart_pwr], by rw [State.stopStart_pwr]⟩

end Sys2Proof.Machine
end

section
/-! How a descriptor runs (R172, R184, R239, R244, R263): what the sequencer keeps from running or holds back changes nothing else, and the
run of one that the state takes with nothing to report is its own effect and its end. -/

namespace Sys2Proof.Machine

/-! ### What keeps a descriptor from running -/

/-- A command that the sequencer governs as that of a descriptor of an opcode: it changes nothing where the descriptor has another opcode
or does not run, and holds the descriptor back where it has to wait. -/
structure State.Sequenced (s : State) (d : Desc) (c : Nat × Instr) : Prop where
  stays : Desc.opcode d ≠ c.1 ∨ s.runs d = false → exec c.2 s = .next s
  waits : Desc.opcode d = c.1 → s.runs d = true → s.mustWait d = true → exec c.2 s = .next (s.hold d.num)

theorem State.runDesc_stays {s : State} {d : Desc} {op : Nat} (e : Env) (body : State → State)
    (h : Desc.opcode d ≠ op ∨ s.runs d = false) : s.runDesc op d e body = s := by
  unfold State.runDesc
  rw [if_pos (by simpa using h)]

theorem State.runDesc_waits {s : State} {d : Desc} {op : Nat} (e : Env) (body : State → State) (ho : Desc.opcode d = op)
    (hr : s.runs d = true) (hw : s.mustWait d = true) : s.runDesc op d e body = s.hold d.num := by
  unfold State.runDesc
  rw [if_neg (by simp [ho, hr]), if_pos hw]

theorem State.collective_stays {s : State} {d : Desc} {op : Nat} (e : Env)
    (h : Desc.opcode d ≠ op ∨ s.runs d = false) : s.collective op d e = s := by
  unfold State.collective
  rw [if_pos (by simpa using h)]

theorem State.collective_waits {s : State} {d : Desc} {op : Nat} (e : Env) (ho : Desc.opcode d = op)
    (hr : s.runs d = true) (hw : s.mustWait d = true) : s.collective op d e = s.hold d.num := by
  unfold State.collective
  rw [if_neg (by simp [ho, hr]), if_pos hw]

/-- A descriptor's command that is its run. -/
theorem State.Sequenced.of_runDesc {s : State} {d : Desc} {op : Nat} {c : Instr} (e : Env) (body : State → State)
    (h : exec c s = .next (s.runDesc op d e body)) : s.Sequenced d (op, c) where
  stays hs := by rw [h, State.runDesc_stays e body hs]
  waits ho hr hw := by rw [h, State.runDesc_waits e body ho hr hw]

theorem State.Sequenced.of_collective {s : State} {d : Desc} {op : Nat} {c : Instr} (e : Env)
    (h : exec c s = .next (s.collective op d e)) : s.Sequenced d (op, c) where
  stays hs := by rw [h, State.collective_stays e hs]
  waits ho hr hw := by rw [h, State.collective_waits e ho hr hw]

theorem exec_update (d : Desc) (e : Env) (s : State) : exec (.update d e) s =
    .next (let t := s.runDesc 0x80 d e (fun t => t.updateOp d)
      if t.stp.done.contains d.num && !s.stp.done.contains d.num && t.updatesDone then t.sendShadow else t) := rfl

/-- No shadow traffic leaves with an UPDATE that has not completed just now. -/
theorem State.Sequenced.update (s : State) (d : Desc) (e : Env) : s.Sequenced d (0x80, .update d e) where
  stays hs := by
    rw [exec_update, State.runDesc_stays e _ hs]
    simp
  waits ho hr hw := by
    rw [exec_update, State.runDesc_waits e _ ho hr hw]
    simp [State.hold]

theorem State.hold_spec (s : State) (n : Nat) : n ∈ (s.hold n).stp.waiting
    ∧ s.hold n = { s with stp := { s.stp with waiting := (s.hold n).stp.waiting } } ∧ ∀ m ∈ s.stp.waiting, m ∈ (s.hold n).stp.waiting := by
  refine ⟨?_, rfl, fun m hm => ?_⟩ <;> unfold State.hold <;> dsimp only <;> split <;> simp_all

/-! ### A run with nothing to report -/

/-- The frame costs that a descriptor has at its start are all that its memories leave with nothing to report (R318). -/
def State.costed (s : State) (d : Desc) : State := s.accountExts (s.costExts d)

/-- No uncorrectable codeword has been met. -/
theorem State.meetUe_nil (s : State) (core : Nat) : s.meetUe core [] = s := by
  unfold State.meetUe
  exact if_neg (by simp)

theorem State.envFx_calm (s : State) (d : Desc) : s.envFx d calm [] = s.costed d := by
  unfold State.envFx
  dsimp only
  rw [State.meetUe_nil]
  rfl

theorem State.runDesc_takes {s : State} {d : Desc} {op : Nat} (body : State → State) (h : s.takes d) (ho : Desc.opcode d = op) :
    s.runDesc op d calm body = (body (s.costed d)).finish d.num := by
  obtain ⟨hr, hw, hp⟩ := h
  unfold State.runDesc
  rw [if_neg (by simp [ho, hr]), if_neg (by simp [hw]), hp]
  simp [calm, ← State.envFx_calm]

theorem State.collective_takes {s : State} {d : Desc} {op : Nat} (h : s.takes d) (ho : Desc.opcode d = op) :
    s.collective op d calm = (s.costed d).startColl d false [] := by
  obtain ⟨hr, hw, hp⟩ := h
  unfold State.collective
  rw [if_neg (by simp [ho, hr]), if_neg (by simp [hw]), hp]
  simp [calm, ← State.envFx_calm]

theorem State.accountExts_only (s : State) (l : List Ext) : s.accountExts l = { s with ctr := (s.accountExts l).ctr } := by
  induction l generalizing s with
  | nil => rfl
  | cons x l ih =>
    unfold State.accountExts
    split
    · rw [ih, s.account_only]
    · exact ih s

theorem State.costed_only (s : State) (d : Desc) : s.costed d = { s with ctr := (s.costed d).ctr } := s.accountExts_only _

/-- A command that is the run of a descriptor the state takes gives the descriptor's own effect and its end. -/
theorem exec_takes {s t : State} {d : Desc} {op : Nat} {c : Instr} {body : State → State} (h : s.takes d)
    (hc : exec c s = .next (s.runDesc op d calm body)) (hb : body (s.costed d) = t) (ho : Desc.opcode d = op) :
    exec c s = .next (t.finish d.num) := by
  rw [hc, State.runDesc_takes body h ho, hb]

/-- With nothing to report a PUSH reads no uncorrectable word. -/
theorem State.pushOp_calm (s : State) (d : Desc) :
    (s.costed d).pushOp d (!s.train && calm.storeUe.isSome) = (s.costed d).pushOp d false := by
  rw [show calm.storeUe.isSome = false from rfl, Bool.and_false]

theorem State.count_zero (s : State) (off : Nat) : s.count off 0 = s := rfl

theorem State.mem_finish_done (s : State) (n : Nat) : n ∈ (s.finish n).stp.done := by
  unfold State.finish
  extract_lets s1
  by_cases h : n ∈ s1.stp.done <;> simp [h]

/-- An UPDATE that the state takes completes, so that the shadow traffic leaves with it where it is the step's last (R378). -/
theorem exec_update_takes {s : State} {d : Desc} (h : s.takes d) (ho : Desc.opcode d = 0x80) :
    exec (.update d calm) s = .next (let t := ((s.costed d).updateOp d).finish d.num
      if t.updatesDone then t.sendShadow else t) := by
  have hnew : d.num ∉ s.stp.done := by
    have hr := h.1
    unfold State.runs at hr
    simp_all
  rw [exec_update, State.runDesc_takes _ h ho]
  simp [hnew, State.mem_finish_done]

/-- The fields of a state that say whether a descriptor runs and waits, of one that a message has left. -/
theorem State.sendShadow_only (s : State) : ∃ c l m, s.sendShadow =
    { s with ctr := c, lnk := l, stp := { s.stp with shadowSent := m } } := by
  unfold State.sendShadow
  split
  · exact ⟨s.ctr, s.lnk, s.stp.shadowSent, rfl⟩
  · split
    · exact ⟨s.ctr, s.lnk, s.stp.shadowSent, rfl⟩
    · dsimp only
      rw [(State.sendBulk_traffic _ _ _ _ _).only]
      exact ⟨_, _, _, rfl⟩

theorem State.sendShadow_turn (s : State) (d : Desc) : s.sendShadow.runs d = s.runs d ∧ s.sendShadow.mustWait d = s.mustWait d := by
  obtain ⟨c, l, m, h⟩ := s.sendShadow_only
  rw [h]
  exact ⟨rfl, rfl⟩

theorem exec_fence (s : State) (d : Desc) (e : Env) : exec (.fence d e) s =
    .next (s.runWhen 0xC0 d (s.fenceMet d) (fun t => t.noteLate e.late (Desc.slot d))) := rfl

theorem exec_commit (s : State) (d : Desc) (e : Env) (x : Bool) : exec (.commit d e x) s =
    .next (let t := if Desc.opcode d == 0xC1 && s.runs d && !s.mustWait d then s.sendShadow else s
      t.runWhen 0xC1 d (s.shadowDone x) (fun t => (t.noteLate e.late (Desc.slot d)).commitOp)) := rfl

/-- A descriptor of no engine whose turn has come takes its effect when it is ready, and waits until then (R244). -/
theorem State.runWhen_turn {s : State} {d : Desc} {op : Nat} (ready : Bool) (body : State → State) (ho : Desc.opcode d = op)
    (hr : s.runs d = true) (hw : s.mustWait d = false) :
    s.runWhen op d ready body = if ready then (body s).finish d.num else s.hold d.num := by
  unfold State.runWhen
  rw [if_neg (by simp [ho, hr])]
  cases ready <;> simp [hw]

theorem State.noteLate_onTime (s : State) (slot : Nat) : s.noteLate calm.late slot = s := rfl

theorem exec_fence_takes {s : State} {d : Desc} (h : s.takes d) (ho : Desc.opcode d = 0xC0) :
    exec (.fence d calm) s = .next (if s.fenceMet d then s.finish d.num else s.hold d.num) := by
  obtain ⟨hr, hw, -⟩ := h
  rw [exec_fence, State.runWhen_turn _ _ ho hr hw, State.noteLate_onTime]

theorem exec_commit_takes {s : State} {d : Desc} (h : s.takes d) (ho : Desc.opcode d = 0xC1) (x : Bool) :
    exec (.commit d calm x) s =
      .next (if s.shadowDone x then s.sendShadow.commitOp.finish d.num else s.sendShadow.hold d.num) := by
  obtain ⟨hr, hw, -⟩ := h
  obtain ⟨hr', hw'⟩ := s.sendShadow_turn d
  rw [exec_commit]
  simp only [ho, hr, hw, beq_self_eq_true, Bool.not_false, Bool.and_self, if_true]
  rw [State.runWhen_turn _ _ ho (hr'.trans hr) (hw'.trans hw), State.noteLate_onTime]

/-- A collective that the state takes begins on its channel, or waits behind the one there (R263). -/
theorem exec_collective_takes {s : State} {d : Desc} {op : Nat} {c : Instr} (h : s.takes d)
    (hc : exec c s = .next (s.collective op d calm)) (ho : Desc.opcode d = op) :
    (s.collOn (cVc d) = none → exec c s = .next ((s.costed d).beginColl d false []))
    ∧ ((s.collOn (cVc d)).isSome = true → exec c s = .next { s.costed d with
        coll := { s.coll with queue := s.coll.queue ++ [{ desc := d, bad := false, adds := [] }] } }) := by
  rw [hc, State.collective_takes h ho]
  have hcoll : (s.costed d).coll = s.coll := by rw [s.costed_only]
  have hon : (s.costed d).collOn (cVc d) = s.collOn (cVc d) := by
    unfold State.collOn
    rw [hcoll]
  unfold State.startColl
  rw [hon]
  refine ⟨fun hn => ?_, fun hs => ?_⟩
  · rw [if_neg (by simp [hn])]
  · rw [if_pos hs, hcoll]

/-! ### O46 -/

/-- Settles O46: what is held back by the rules of `State.Sequenced`, what the state takes by the run with nothing to report. -/
theorem descriptorsTakeTheirEffect : Obligations.DescriptorsTakeTheirEffect := by
  unfold Obligations.DescriptorsTakeTheirEffect
  intro s d
  refine ⟨fun e peers copy c hc => ?_, fun ht => ?_⟩
  · have hseq : s.Sequenced d c := by
      revert c
      refine List.forall_iff_forall_mem.mp ?_
      exact ⟨.of_runDesc e _ rfl, .of_runDesc e _ rfl, .of_runDesc e _ rfl, .of_runDesc e _ rfl, .of_runDesc e _ rfl, .of_runDesc e _ rfl,
        .of_runDesc e _ rfl, .of_runDesc e _ rfl, .of_runDesc e _ rfl, .of_runDesc e _ rfl, .of_runDesc e _ rfl, .of_runDesc e _ rfl,
        .of_runDesc e _ rfl, .of_runDesc e _ rfl, .of_runDesc e _ rfl, .of_runDesc e _ rfl, .of_runDesc e _ rfl, .of_runDesc e _ rfl,
        .of_runDesc e _ rfl, .of_runDesc e _ rfl, .of_runDesc e _ rfl, .of_runDesc e _ rfl, .of_runDesc e _ rfl,
        .of_collective e rfl, .of_collective e rfl, .of_collective e rfl, .of_collective e rfl, .of_collective e rfl,
        .update s d e, .of_runDesc e _ rfl, .of_runDesc e _ rfl, .of_runDesc e _ rfl, .of_runDesc e _ rfl⟩
    exact ⟨hseq.stays, fun ho hr hw => ⟨_, hseq.waits ho hr hw, s.hold_spec d.num⟩⟩
  · dsimp only
    refine ⟨⟨exec_takes ht rfl rfl, exec_takes ht rfl rfl, exec_takes ht rfl rfl, exec_takes ht rfl rfl, exec_takes ht rfl rfl, exec_takes ht rfl rfl,
        exec_takes ht rfl rfl, exec_takes ht rfl rfl, exec_takes ht rfl rfl, exec_takes ht rfl rfl, exec_takes ht rfl rfl, exec_takes ht rfl rfl⟩,
      ⟨exec_takes ht rfl rfl, exec_takes ht rfl rfl, exec_takes ht rfl rfl, exec_takes ht rfl rfl, exec_takes ht rfl rfl,
        exec_takes ht rfl (State.pushOp_calm s d), exec_takes ht rfl (State.count_zero _ _), exec_takes ht rfl rfl, exec_takes ht rfl rfl, exec_takes ht rfl rfl, exec_takes ht rfl rfl,
        exec_update_takes ht, exec_takes ht rfl rfl, exec_takes ht rfl rfl, exec_takes ht rfl rfl, fun ho _ _ => exec_takes ht rfl rfl ho⟩,
      ?_, exec_fence_takes ht, exec_commit_takes ht⟩
    simp only [List.forall_mem_cons, List.not_mem_nil, false_imp_iff, implies_true, and_true]
    exact ⟨exec_collective_takes ht rfl, exec_collective_takes ht rfl, exec_collective_takes ht rfl, exec_collective_takes ht rfl,
      exec_collective_takes ht rfl⟩

end Sys2Proof.Machine
end

section
/-! What the numeric events of a descriptor, its end, the write of its results and its failure leave as they were (R64 to R66, R172, R173, R184,
R198, R256). -/

namespace Sys2Proof.Machine

/-- Numeric events have been counted and raised, and nothing else has happened: the step in progress keeps which of them were raised. -/
def State.Noted (s t : State) : Prop :=
  t = { s with ctr := t.ctr, hif := t.hif, sbm := t.sbm, evt := t.evt, stp := { s.stp with raised := t.stp.raised } }

theorem State.Noted.refl (s : State) : s.Noted s := rfl

theorem State.Noted.trans {s t u : State} (h : s.Noted t) (k : t.Noted u) : s.Noted u := by
  unfold State.Noted at *
  rw [h] at k
  exact k

theorem State.Logged.noted {s t : State} (h : s.Logged t) : s.Noted t := by
  have hk := h.only
  unfold State.Noted
  rw [hk]

theorem State.count_noted (s : State) (off n : Nat) : s.Noted (s.count off n) := by
  unfold State.Noted
  rw [s.count_only]

theorem State.raiseOnce_noted (s : State) (code key unit : Nat) (l : List Word) : s.Noted (s.raiseOnce code key unit l) := by
  unfold State.raiseOnce
  split
  · exact .refl s
  · exact .trans (t := { s with stp := { s.stp with raised := (code, key) :: s.stp.raised } }) rfl (State.raiseU_logged _ _ _ _).noted

theorem State.applyCounts_noted (s : State) (f : NumFx) : s.Noted (s.applyCounts f) := by
  unfold State.applyCounts
  exact (((((((s.count_noted _ _).trans (State.count_noted _ _ _)).trans (State.count_noted _ _ _)).trans (State.count_noted _ _ _)).trans
    (State.count_noted _ _ _)).trans (State.count_noted _ _ _)).trans (State.count_noted _ _ _)).trans (State.count_noted _ _ _)

theorem State.applyFx_noted (s : State) (f : NumFx) (desc : Nat) : s.Noted (s.applyFx f desc) := by
  unfold State.applyFx
  dsimp only
  split
  · exact (s.applyCounts_noted f).trans (State.raiseOnce_noted _ _ _ _ _)
  · exact s.applyCounts_noted f

theorem State.Noted.store {s t : State} (h : s.Noted t) : t.store = s.store := by rw [h]
theorem State.Noted.coll {s t : State} (h : s.Noted t) : t.coll = s.coll := by rw [h]

/-! ### The end of a descriptor -/

/-- A descriptor has ended, or passed over: what the micro-batches still need and the live epochs have changed, and what has run. -/
def State.Passed (s t : State) : Prop :=
  t = { s with mem := { s.mem with live := t.mem.live }, stp := { s.stp with
    pendMb := t.stp.pendMb, mbRan := t.stp.mbRan, done := t.stp.done, waiting := t.stp.waiting } }

theorem State.Passed.refl (s : State) : s.Passed s := rfl

theorem State.Passed.trans {s t u : State} (h : s.Passed t) (k : t.Passed u) : s.Passed u := by
  unfold State.Passed at *
  rw [h] at k
  exact k

theorem State.drainMb_passed (s : State) (i : Nat) : s.Passed (s.drainMb i) := by
  unfold State.drainMb
  split <;> rfl

theorem State.passMb_passed (s : State) (d : Desc) : s.Passed (s.passMb d) := by
  unfold State.passMb
  split
  · exact .refl s
  · split
    · refine .trans ?_ (State.drainMb_passed _ _)
      exact rfl
    · exact .refl s

theorem State.finish_passed (s : State) (n : Nat) : s.Passed (s.finish n) := by
  unfold State.finish
  extract_lets s1
  have h : s.Passed s1 := by
    unfold s1
    split
    · exact s.passMb_passed _
    · exact .refl s
  exact h.trans rfl

theorem State.Passed.store {s t : State} (h : s.Passed t) : t.store = s.store := by rw [h]

/-! ### Results written -/

/-- Results have been written and their events noted: the stores, the regions' bytes and marks, the free values taken, and the log change. -/
def State.Put (s t : State) : Prop :=
  t = { s with ctr := t.ctr, hif := t.hif, sbm := t.sbm, evt := t.evt, store := t.store, free := t.free
               mem := { s.mem with poison := t.mem.poison, written := t.mem.written, old := t.mem.old }
               stp := { s.stp with raised := t.stp.raised } }

theorem State.Put.refl (s : State) : s.Put s := rfl

theorem State.Put.trans {s t u : State} (h : s.Put t) (k : t.Put u) : s.Put u := by
  unfold State.Put at *
  rw [h] at k
  exact k

theorem State.Put.coll {s t : State} (h : s.Put t) : t.coll = s.coll := by rw [h]

theorem State.Noted.put {s t : State} (h : s.Noted t) : s.Put t := by
  unfold State.Put
  rw [h]

theorem State.opWrite_put (s : State) (core : Nat) (o : Opnd) (bs : List Byte) : s.Put (s.opWrite core o bs) := by
  unfold State.opWrite State.coreWrite
  split
  · have h := s.regWrite_devs o.region o.addr bs
    unfold State.devsOf at h
    unfold State.Put
    rw [h]
  · split <;> rfl

theorem State.writeFx_put (s : State) (d : Desc) (core : Nat) (o : Opnd) (r : List Byte × NumFx) : s.Put (s.writeFx d core o r) :=
  (s.opWrite_put _ _ _).trans (State.applyFx_noted _ _ _).put

theorem State.nanFill_put (s : State) (core : Nat) (l : List Ext) : s.Put (s.nanFill core l) := by
  induction l generalizing s with
  | nil => exact .refl s
  | cons x r ih =>
    refine .trans ?_ (ih _)
    split
    · exact (s.opWrite_put core x.op (nanBytes s.free x.fmt x.n)).trans rfl
    · exact .refl s

theorem State.nanOut_put (s : State) (d : Desc) (l : List Ext) : s.Put (s.nanOut d l) := by
  have hfill := s.nanFill_put (Desc.home d) l
  unfold State.nanOut
  dsimp only
  split
  · exact hfill.trans (State.raiseOnce_noted _ _ _ _ _).put
  · exact hfill

/-! ### Failing causes -/

/-- A failing cause changes the failing causes of the attempt, or those kept for the next one. -/
theorem State.fail_only (s : State) (c : Nat) : ∃ l fs, s.fail c =
    { s with lnk := { s.lnk with late := l }, stp := { s.stp with fails := fs } } := by
  unfold State.fail State.keepLate
  split
  · split
    · exact ⟨s.lnk.late, s.stp.fails, rfl⟩
    · exact ⟨_, s.stp.fails, rfl⟩
  · split
    · exact ⟨s.lnk.late, _, rfl⟩
    · exact ⟨s.lnk.late, s.stp.fails, rfl⟩

/-- A failing cause raised in an attempt before its beat's window closes is one of the attempt's. -/
theorem State.mem_fail (s : State) (c : Nat) (ha : s.stp.active = true) (hc : s.afterClose = false) : c ∈ (s.fail c).stp.fails := by
  unfold State.fail
  rw [if_neg (by simp [ha, hc])]
  split
  · exact List.mem_cons_self
  · simp_all

end Sys2Proof.Machine
end

section
/-! QUANTISE's outlier parts (R98, R99, R248), which follow one another wherever they come to lie: a second part that the end of the local
store separates from the first. -/

namespace Sys2Proof.Machine

theorem State.correct_store (s : State) (md : FMode) (g : Nat) (init a : Word) : (s.correct md g init a).store = s.store := by
  unfold State.correct
  exact (State.count_noted _ _ _).store

theorem State.notePart_store (s : State) (p : PartInfo) : (s.notePart p).store = s.store := rfl

theorem State.accountExts_store (s : State) (l : List Ext) : (s.accountExts l).store = s.store := by rw [s.accountExts_only]

theorem State.corrects_store (s : State) (md : FMode) (l : List (Nat × Word)) : (s.corrects md l).store = s.store := by
  induction l generalizing s with
  | nil => rfl
  | cons g r ih =>
    unfold State.corrects
    rw [ih, State.correct_store]

/-- What follows the last write of an array changes no memory. -/
theorem State.partEnd_store (s : State) (l : List Ext) (p : PartInfo) (b : Bool) (md : FMode) (o : List (Nat × Word)) (c : Nat) :
    (if b then (((s.accountExts l).notePart p).corrects md o).cause c else (s.accountExts l).notePart p).store = s.store := by
  rw [apply_ite State.store, State.cause_store, State.corrects_store, ite_self, State.notePart_store, State.accountExts_store]

/-- An array of a QUANTISE without flagged channels writes its outlier part last of all, and the next part starts where it ends. -/
theorem State.quantArray_part (s : State) (d : Desc) (q : QCfg) (cols : List (List Word)) (n part : Nat) (f : NumFx) (hq : q.chans = []) :
    ∃ (t : State) (kept : List OutEnt) (ov : Bool) (g : NumFx),
      (s.quantArray d q cols n part).run f = ((t, part + (Machine.partBytes [] kept).length, ov), g)
      ∧ kept.length ≤ s.cur.budgets.getD (qArray0 d + n) 8192
      ∧ ∃ u : State, t.store = (u.opWrite (Desc.home d) { Desc.opD d with addr := part } (Machine.partBytes [] kept)).store := by
  obtain ⟨_, _, _, _, _, _, _, _, chans, _, _, _⟩ := q
  cases hq
  refine ⟨_, _, _, _, rfl, ?_, ?_⟩
  · simp [List.length_mergeSort]
  · exact ⟨_, State.partEnd_store ..⟩

theorem partBytes_empty_length : (Machine.partBytes [] []).length = 128 := by decide +kernel

/-- The first byte of an outlier part without channel rows is that of their number. -/
theorem partBytes_head (kept : List OutEnt) : ∃ bs, Machine.partBytes [] kept = 0 :: bs := ⟨_, rfl⟩

/-- Of two arrays, the first of which keeps no entry, the second one's part starts 128 bytes after the first one's. -/
theorem State.quantArrays_two (s : State) (d : Desc) (q : QCfg) (cols : List (List Word)) (part : Nat) (ov : Bool) (f : NumFx)
    (hq : q.chans = []) (hb : s.cur.budgets.getD (qArray0 d) 8192 = 0) :
    ∃ (u : State) (kept : List OutEnt), ((s.quantArrays d q cols (List.range 2) part ov).run f).1.1.store
      = (u.opWrite (Desc.home d) { Desc.opD d with addr := part + 128 } (Machine.partBytes [] kept)).store := by
  obtain ⟨t, kept, ov1, g, hrun, hlen, -⟩ := s.quantArray_part d q cols 0 part f hq
  rw [Nat.add_zero, hb, Nat.le_zero, List.length_eq_zero_iff] at hlen
  rw [hlen, partBytes_empty_length] at hrun
  obtain ⟨t', kept', ov2, g', hrun', -, u, hstore⟩ := t.quantArray_part d q cols 1 (part + 128) g hq
  refine ⟨u, kept', ?_⟩
  rw [← hstore]
  show ((s.quantArray d q cols 0 part >>= fun x => x.1.quantArray d q cols 1 x.2.1 >>= fun y => pure (y.1, ov || x.2.2 || y.2.2)).run f).1.1.store = _
  rw [StateT.run_bind, hrun]
  show ((t.quantArray d q cols 1 (part + 128) >>= fun y => pure (y.1, ov || ov1 || y.2.2)).run g).1.1.store = _
  rw [StateT.run_bind, hrun']
  rfl

theorem State.noteSlot_store (s : State) (o : Opnd) : (s.noteSlot o).store = s.store := by
  unfold State.noteSlot
  split <;> rfl

/-- What follows the arrays of a QUANTISE changes no memory. -/
theorem State.quantEnd_store (s : State) (f : NumFx) (n : Nat) (b : Bool) (d : Desc) (k : Nat) (o : Opnd) :
    State.store ((if b then (s.applyFx f n).scaleOvf d k else s.applyFx f n).noteSlot o) = s.store := by
  rw [State.noteSlot_store, apply_ite State.store]
  unfold State.scaleOvf
  rw [(State.raiseOnce_noted _ _ _ _ _).store, ite_self, (s.applyFx_noted f n).store]

/-- A QUANTISE writes no memory but by its arrays. -/
theorem State.quantiseOp_store (s : State) (d : Desc) (hw : isW (Desc.opD d).fmt = true) :
    ∃ r : List (List Word) × NumFx, (s.quantiseOp d).store = ((s.quantArrays d (s.qCfg d) r.1
      (List.range (min (qNarr d) (cdiv (qK d) 1024 * cdiv (qCols d) 512))) (qOutl d) false).run r.2).1.1.store := by
  unfold State.quantiseOp
  rw [if_pos hw]
  exact ⟨(_, _), State.quantEnd_store ..⟩

/-- What the second of two arrays leaves in the memories when the outlier part of the first keeps nothing. -/
theorem State.quantiseOp_two (s : State) (d : Desc) (hw : isW (Desc.opD d).fmt = true) (hc : qNchan d = 0)
    (hn : min (qNarr d) (cdiv (qK d) 1024 * cdiv (qCols d) 512) = 2) (hb : s.cur.budgets.getD (qArray0 d) 8192 = 0) :
    ∃ (u : State) (kept : List OutEnt), (s.quantiseOp d).store
      = (u.opWrite (Desc.home d) { Desc.opD d with addr := qOutl d + 128 } (Machine.partBytes [] kept)).store := by
  obtain ⟨⟨cols, f⟩, h⟩ := s.quantiseOp_store d hw
  rw [h, hn]
  refine State.quantArrays_two _ d _ _ _ _ _ ?_ hb
  show s.channels _ _ (qNchan d) = []
  rw [hc]
  rfl

/-! ### O47 -/

/-- A QUANTISE of two arrays, of 513 columns of one master each, into the local store of core 0, with the first outlier part 64 bytes below
its end. -/
def quantise2 : Desc :=
  { num := 0, w := [0x41000000, 0, 0, 0x600000, 0, 0, 0x100000, 0, 0, 0, 1, 0x2010000, 0, 2, 0x2FFFC0, 0xFFFFFFFF] }

/-- A step in progress of a recipe with that QUANTISE, whose slot has started and whose array 0 may keep no outlier; the first byte of the
first cluster store is 1. -/
def quantising : State :=
  { State.reset with
    rcp := { Rcp.reset with state := .running, slots := [(0, { Recipe.none with
      slots := [{ kind := 0, predEn := false, predPol := false, pred := 0, beat := 0, start := 0, budget := 10, mb := 0xFFFF }]
      descs := [quantise2], budgets := [0] })] }
    stp := { Stp.reset with active := true, begun := true, step := 1, slotsOn := [0] }
    store := { State.reset.store with cstore := [(0, 1)] } }

theorem quantising_memOk : quantising.memOk :=
  ⟨Mem.wf_nil, by decide +kernel, Mem.wf_nil, Mem.wf_nil, headsOk_nil, fun _ h => by cases h⟩

theorem quantising_takes : quantising.takes quantise2 := by decide +kernel

/-- Without regions for estimates and spills a QUANTISE's bytes stand at its operands and its outlier parts. -/
theorem State.mem_quantPlaces {s : State} {d : Desc} (h6 : s.regionOfKind 6 = none) (h7 : s.regionOfKind 7 = none) {e : Opnd × Nat}
    (he : e ∈ s.quantPlaces d) : e.1 = Desc.opD d ∨ e.1 = Desc.opB d ∨ e.1 = { Desc.opD d with addr := qOutl d } := by
  unfold State.quantPlaces at he
  rw [h6, h7] at he
  simp only [Option.toList_none, List.map_nil, List.append_nil, List.mem_cons, List.not_mem_nil, or_false] at he
  rcases he with rfl | rfl | rfl
  · exact .inl rfl
  · exact .inr (.inl rfl)
  · exact .inr (.inr rfl)

/-- The places of that QUANTISE all lie in the local store. -/
theorem quantising_places : ∀ e ∈ (quantising.costed quantise2).quantPlaces quantise2, e.1.mem = false ∧ e.1.addr < localBytes := by
  intro e he
  rw [State.costed_only] at he
  rcases State.mem_quantPlaces rfl rfl he with h | h | h <;> rw [h] <;> decide +kernel

/-- Its second outlier part begins past the end of the local store, at the first byte of the cluster store. -/
theorem quantising_second : Mem.get ((quantising.costed quantise2).quantiseOp quantise2).store.cstore 0 = 0 := by
  have hb : (quantising.costed quantise2).cur.budgets.getD (qArray0 quantise2) 8192 = 0 := by
    rw [State.costed_only]
    rfl
  obtain ⟨u, kept, h⟩ := State.quantiseOp_two _ quantise2 (by decide +kernel) (by decide +kernel) (by decide +kernel) hb
  obtain ⟨bs, hbs⟩ := partBytes_head kept
  rw [h, hbs]
  have hplace : Desc.home quantise2 = 0 ∧ (Desc.opD quantise2).mem = false ∧ qOutl quantise2 + 128 = localBytes + 64
    ∧ localBytes + 64 - clusterBase = 0 := by decide +kernel
  obtain ⟨hcore, hmem, haddr, hfirst⟩ := hplace
  unfold State.opWrite State.coreWrite
  dsimp only
  rw [hcore, haddr, if_neg (by simp [hmem]), if_neg (by omega)]
  dsimp only
  rw [hfirst, Mem.get_write, if_pos (by simp)]
  rfl

/-- Refutes O47: the second outlier part of a QUANTISE whose first one lies at the end of the local store goes into the cluster store, of
which the statement's places, one run for all parts, say nothing. -/
theorem not_resultsStayInTheirDestination : ¬ Obligations.ResultsStayInTheirDestination := by
  unfold Obligations.ResultsStayInTheirDestination
  intro hall
  obtain ⟨-, -, -, hq, -⟩ := hall quantising quantise2 quantising_memOk quantising_takes
  obtain ⟨t, hexec, -, -, -, -, -, honly⟩ := hq (by decide +kernel)
  have hrun := exec_takes (c := .quantise quantise2 calm) (body := fun u => u.quantiseOp quantise2) quantising_takes rfl rfl rfl
  rw [← Host.Outcome.next.inj (hrun.symm.trans hexec)] at honly
  obtain ⟨-, -, hcluster, -⟩ := honly (fun e he hm => by rw [(quantising_places e he).1] at hm; cases hm)
  have hbyte := hcluster 0 (fun e he _ ha => absurd (quantising_places e he).2 (by omega))
  rw [(State.finish_passed _ _).store, quantising_second] at hbyte
  exact absurd hbyte (by decide +kernel)

end Sys2Proof.Machine
end

section
/-! The sequencer's slots (R172, R191, R193, R236 to R242): what the start or the skip of a slot does to which slots have started and which were
skipped. -/

namespace Sys2Proof.Machine

/-! ### The slots that have started -/

/-- No slot has started or been skipped. -/
structure State.SlotsAs (s t : State) : Prop where
  on : t.stp.slotsOn = s.stp.slotsOn
  skipped : t.stp.skipped = s.stp.skipped

theorem State.SlotsAs.refl (s : State) : s.SlotsAs s := ⟨rfl, rfl⟩

theorem State.SlotsAs.trans {s t u : State} (h : s.SlotsAs t) (k : t.SlotsAs u) : s.SlotsAs u :=
  ⟨k.on.trans h.on, k.skipped.trans h.skipped⟩

theorem State.SlotsAs.of_stp {s t : State} (h : t.stp = s.stp) : s.SlotsAs t := by
  constructor <;> rw [h]

theorem State.Passed.slots {s t : State} (h : s.Passed t) : s.SlotsAs t := by
  unfold State.Passed at h
  constructor <;> rw [h]

theorem State.Passed.ctr {s t : State} (h : s.Passed t) : t.ctr = s.ctr := by rw [h]

theorem State.Put.slots {s t : State} (h : s.Put t) : s.SlotsAs t := by
  unfold State.Put at h
  constructor <;> rw [h]

theorem State.fail_slots (s : State) (c : Nat) : s.SlotsAs (s.fail c) := by
  obtain ⟨l, fs, h⟩ := s.fail_only c
  constructor <;> rw [h]

theorem State.descFault_slots (s : State) (d : Desc) (cause : Nat) : s.SlotsAs (s.descFault d cause) := by
  unfold State.descFault
  extract_lets s1 x s2
  have hraise : s.SlotsAs (s.raise 0x9102 [wd d.num, wd cause]) := .of_stp (State.raise_stp ..)
  have h2 : s.SlotsAs s2 := (hraise.trans (State.nanOut_put _ d _).slots).trans ⟨rfl, rfl⟩
  split
  · exact h2.trans (State.fail_slots _ _)
  · exact h2

/-! ### A slot's start -/

theorem State.startDesc_slots (s : State) (d : Desc) : s.SlotsAs (s.startDesc d) := by
  unfold State.startDesc
  split
  · exact (s.finish_passed _).slots
  split
  · exact .refl s
  split
  · split
    · exact (s.descFault_slots _ _).trans (State.finish_passed _ _).slots
    · split
      · exact .of_stp rfl
      · exact .refl s
  split
  · exact .of_stp rfl
  · exact .refl s

theorem State.startDescs_slots (s : State) (l : List Desc) : s.SlotsAs (s.startDescs l) := by
  induction l generalizing s with
  | nil => exact .refl s
  | cons d r ih => exact (s.startDesc_slots d).trans (ih _)

theorem State.tagMb_slots (s : State) (n : Nat) (x : Slot) : s.SlotsAs (s.tagMb n x) := by
  unfold State.tagMb
  split <;> exact ⟨rfl, rfl⟩

theorem State.openEpoch_stp (s : State) (x : Slot) : (s.openEpoch x).stp = s.stp ∧ (s.openEpoch x).ctr = s.ctr := by
  unfold State.openEpoch
  split <;> exact ⟨rfl, rfl⟩

theorem State.passAll_passed (s : State) (l : List Desc) : s.Passed (s.passAll l) := by
  induction l generalizing s with
  | nil => exact .refl s
  | cons d r ih => exact (s.passMb_passed d).trans (ih _)

theorem State.drainAll_passed (s : State) (l : List Nat) : s.Passed (s.drainAll l) := by
  induction l generalizing s with
  | nil => exact .refl s
  | cons i r ih => exact (s.drainMb_passed i).trans (ih _)

theorem State.skipSlot_spec (s : State) (n : Nat) : (s.skipSlot n).stp.skipped = n :: s.stp.skipped
    ∧ (s.skipSlot n).stp.slotsOn = s.stp.slotsOn ∧ (s.skipSlot n).ctr = s.ctr := by
  have h := s.passAll_passed (s.cur.descs.filter (fun d => Desc.slot d == n))
  exact ⟨congrArg (n :: ·) h.slots.skipped, h.slots.on, h.ctr⟩

theorem execSlotStart_none {s : State} {n : Nat} (h : s.cur.slots[n]? = none) : exec (.slotStart n) s = .next s := by
  change execSlotStart n s = _
  unfold execSlotStart
  rw [h]

theorem execSlotStart_some {s : State} {n : Nat} {x : Slot} (h : s.cur.slots[n]? = some x) : exec (.slotStart n) s
    = .next (if s.slotDue n x then (s.startSlot n x).drainAll ((s.startSlot n x).stp.pendMb.map (·.1)) else s) := by
  change execSlotStart n s = _
  unfold execSlotStart
  rw [h]
  dsimp only
  split <;> rfl

/-- A slot that its predicate stops is skipped, and counted (R242). -/
theorem State.startSlot_stopped {s : State} (n : Nat) {x : Slot} (hp : s.predStops x = true) :
    (s.startSlot n x).stp.skipped = n :: s.stp.skipped ∧ (s.startSlot n x).stp.slotsOn = s.stp.slotsOn
      ∧ (s.startSlot n x).ctrGet cPredSkip = satAdd (s.ctrGet cPredSkip) 1 := by
  unfold State.startSlot
  dsimp only
  rw [if_pos hp, State.count_stp, State.ctrGet_count, if_pos rfl]
  obtain ⟨hskip, hon, hctr⟩ := (s.openEpoch x).skipSlot_spec n
  obtain ⟨hstp, hctr0⟩ := s.openEpoch_stp x
  unfold State.ctrGet
  rw [hskip, hon, hctr, hctr0, hstp]
  exact ⟨rfl, rfl, rfl⟩

/-- A slot of the split reserve in which no half runs is skipped, and not counted (R193, R237). -/
theorem State.startSlot_idle {s : State} (n : Nat) {x : Slot} (hp : s.predStops x = false) (hr : s.reserveIdle x = true) :
    (s.startSlot n x).stp.skipped = n :: s.stp.skipped ∧ (s.startSlot n x).stp.slotsOn = s.stp.slotsOn
      ∧ (s.startSlot n x).ctr = s.ctr := by
  unfold State.startSlot
  dsimp only
  rw [if_neg (by simp [hp]), if_pos hr]
  obtain ⟨hskip, hon, hctr⟩ := (s.openEpoch x).skipSlot_spec n
  obtain ⟨hstp, hctr0⟩ := s.openEpoch_stp x
  rw [hskip, hon, hctr, hctr0, hstp]
  exact ⟨rfl, rfl, rfl⟩

theorem State.startSlot_starts {s : State} (n : Nat) {x : Slot} (hp : s.predStops x = false) (hr : s.reserveIdle x = false) :
    (s.startSlot n x).stp.slotsOn = n :: s.stp.slotsOn ∧ (s.startSlot n x).stp.skipped = s.stp.skipped := by
  unfold State.startSlot
  extract_lets s0 y s1 s2
  rw [if_neg (by simp [hp]), if_neg (by simp [hr])]
  have h : s1.SlotsAs (s2.startDescs (s2.cur.descs.filter (fun d => Desc.slot d == n))) :=
    (s1.tagMb_slots n x).trans (State.startDescs_slots _ _)
  obtain ⟨hstp, -⟩ := s.openEpoch_stp x
  rw [h.on, h.skipped, show s1.stp = { s0.stp with slotsOn := n :: s0.stp.slotsOn } from rfl, hstp]
  exact ⟨rfl, rfl⟩

/-- A slot whose turn has come (R199, R239). -/
theorem exec_slotStart_due {s : State} {n : Nat} {x : Slot} (hx : s.cur.slots[n]? = some x) (hd : s.slotDue n x = true) :
    ∃ t, exec (.slotStart n) s = .next t ∧ (s.startSlot n x).SlotsAs t ∧ t.ctr = (s.startSlot n x).ctr := by
  have h := (s.startSlot n x).drainAll_passed ((s.startSlot n x).stp.pendMb.map (·.1))
  exact ⟨_, by rw [execSlotStart_some hx, if_pos hd], h.slots, h.ctr⟩

end Sys2Proof.Machine
end

section
/-! Replays (R189, R198, R214 to R217, R374): what a discarded attempt puts back, what the next one starts from, and the end of a step that has
used up its attempts; and the fence that has waited its limit (R199, R200). -/

namespace Sys2Proof.Machine

/-! ### Counters that an operation leaves alone -/

theorem State.ctrGet_of_ctr {s t : State} (h : t.ctr = s.ctr) (o : Nat) : t.ctrGet o = s.ctrGet o := by
  unfold State.ctrGet
  rw [h]

theorem State.ctrGet_account (s : State) (r off n : Nat) (write : Bool) (o : Nat) (h1 : o ≠ cMemShort) (h2 : o ≠ cMemRmw) :
    (s.account r off n write).ctrGet o = s.ctrGet o := by
  unfold State.account
  rw [State.count_other _ _ h2, State.count_other _ _ h1]

/-! ### Stockpots put back -/

/-- STASH_HIGH noted changes the log and whether it stands raised, no frame and no byte of a head. -/
theorem State.noteHigh_spec (s : State) (c : Nat) :
    (s.noteHigh c = { s with ctr := (s.noteHigh c).ctr, hif := (s.noteHigh c).hif, sbm := (s.noteHigh c).sbm, evt := (s.noteHigh c).evt,
                             stk := (s.noteHigh c).stk })
    ∧ (∀ o, o ≠ cRecCoal → o ≠ cRecDrop → (s.noteHigh c).ctrGet o = s.ctrGet o)
    ∧ ∀ k, ((s.noteHigh c).stkOf k).frames = (s.stkOf k).frames ∧ ((s.noteHigh c).stkOf k).head = (s.stkOf k).head := by
  have hset (b : Bool) (k : Nat) : ((s.setStk c { s.stkOf c with high := b }).stkOf k).frames = (s.stkOf k).frames
      ∧ ((s.setStk c { s.stkOf c with high := b }).stkOf k).head = (s.stkOf k).head := by
    by_cases h : k = c
    · subst h
      simp [State.stkOf, State.setStk]
    · simp [State.stkOf, State.setStk, Tab.get_put_other _ _ _ _ _ h]
  unfold State.noteHigh
  dsimp only
  split
  · split
    · exact ⟨rfl, fun _ _ _ => rfl, fun _ => ⟨rfl, rfl⟩⟩
    · have hlog := (s.setStk c { s.stkOf c with high := true }).raise_logged 0x8001 []
      refine ⟨?_, fun o h1 h2 => hlog.ctr o h1 h2, fun k => ?_⟩
      · rw [hlog.only]
        rfl
      · have hstk : (State.raise (s.setStk c { s.stkOf c with high := true }) 0x8001 []).stk = _ := State.raise_stk ..
        unfold State.stkOf at *
        rw [hstk]
        exact hset true k
  · split
    · exact ⟨rfl, fun _ _ _ => rfl, hset false⟩
    · exact ⟨rfl, fun _ _ _ => rfl, fun _ => ⟨rfl, rfl⟩⟩

/-- Stockpots have been put back, with what STASH_HIGH logs. -/
structure State.Rewound (s t : State) : Prop where
  only : t = { s with ctr := t.ctr, hif := t.hif, sbm := t.sbm, evt := t.evt, stk := t.stk }
  ctr : ∀ o, o ≠ cRecCoal → o ≠ cRecDrop → t.ctrGet o = s.ctrGet o

theorem State.Rewound.refl (s : State) : s.Rewound s := ⟨rfl, fun _ _ _ => rfl⟩

theorem State.Rewound.trans {s t u : State} (h : s.Rewound t) (k : t.Rewound u) : s.Rewound u := by
  refine ⟨?_, fun o h1 h2 => (k.ctr o h1 h2).trans (h.ctr o h1 h2)⟩
  have hk := k.only
  rw [h.only] at hk
  exact hk

theorem State.rewindStk_rewound (s : State) (saved : Tab Stk) (l : List Nat) : s.Rewound (s.rewindStk saved l) := by
  induction l generalizing s with
  | nil => exact .refl s
  | cons c r ih =>
    refine .trans ?_ (ih _)
    obtain ⟨honly, hctr, -⟩ := (s.setStk c { Tab.get saved c Stk.empty with high := (s.stkOf c).high }).noteHigh_spec c
    exact .trans (t := s.setStk c { Tab.get saved c Stk.empty with high := (s.stkOf c).high }) ⟨rfl, fun _ _ _ => rfl⟩ ⟨honly, hctr⟩

/-- What a Stockpot holds of a saved one. -/
abbrev Stk.holds (k v : Stk) : Prop := k.frames = v.frames ∧ k.head = v.head

/-- Those put back hold what was saved, the others what they held. -/
theorem State.rewindStk_holds (s : State) (saved : Tab Stk) (l : List Nat) (k : Nat)
    (h : k ∈ l ∨ (s.stkOf k).holds (Tab.get saved k Stk.empty)) : ((s.rewindStk saved l).stkOf k).holds (Tab.get saved k Stk.empty) := by
  induction l generalizing s with
  | nil => exact h.resolve_left List.not_mem_nil
  | cons c r ih =>
    refine ih _ ?_
    obtain ⟨-, -, hk⟩ := (s.setStk c { Tab.get saved c Stk.empty with high := (s.stkOf c).high }).noteHigh_spec c
    obtain ⟨hframes, hhead⟩ := hk k
    by_cases hc : k = c
    · right
      subst hc
      unfold Stk.holds
      rw [hframes, hhead]
      simp [State.stkOf, State.setStk]
    · refine h.imp (fun hm => (List.mem_cons.mp hm).resolve_left hc) (fun hs => ?_)
      unfold Stk.holds
      rw [hframes, hhead]
      simpa [State.stkOf, State.setStk, Tab.get_put_other _ _ _ _ _ hc] using hs

theorem Tab.find_eq_none {α : Type} {t : Tab α} {k : Nat} (h : k ∉ t.map (fun (e : Nat × α) => e.1)) : Tab.find t k = none := by
  cases hf : Tab.find t k with
  | none => rfl
  | some v => exact absurd (List.mem_map_of_mem (f := fun (e : Nat × α) => e.1) (Tab.find_mem t k v hf)) h

/-- What an attempt saved, put back but for the Stockpots. -/
def State.unwound (s : State) (v : Saved) : State :=
  { s with mem := { s.mem with live := v.live, slotEpoch := v.slotEpoch },
           stp := { s.stp with tags := v.tags, pendMb := v.pendMb, mbRan := v.mbRan, drops := v.drops } }

theorem State.rewind_none {s : State} (h : s.stp.saved = none) : s.rewind = s := by
  unfold State.rewind
  rw [h]

theorem State.rewind_some {s : State} {v : Saved} (h : s.stp.saved = some v) : s.rewind = (s.unwound v).rewindStk v.stk
    (s.stk.map (fun (e : Nat × Stk) => e.1) ++ (v.stk.map (fun (e : Nat × Stk) => e.1)).filter (fun c => (Tab.find s.stk c).isNone)) := by
  unfold State.rewind
  rw [h]
  rfl

/-- An attempt put back: the micro-batches' bookkeeping, the live epochs and the Stockpots change, and the log. -/
structure State.PutBack (s t : State) : Prop where
  only : ∃ tags pend ran drops, t = { s with ctr := t.ctr, hif := t.hif, sbm := t.sbm, evt := t.evt, stk := t.stk, mem := t.mem, stp := { s.stp with
    tags := tags, pendMb := pend, mbRan := ran, drops := drops } }
  ctr : ∀ o, o ≠ cRecCoal → o ≠ cRecDrop → t.ctrGet o = s.ctrGet o

theorem State.rewind_putBack (s : State) : s.PutBack s.rewind := by
  cases h : s.stp.saved with
  | none =>
    rw [State.rewind_none h]
    exact ⟨⟨_, _, _, _, rfl⟩, fun _ _ _ => rfl⟩
  | some v =>
    rw [State.rewind_some h]
    obtain ⟨honly, hctr⟩ := (s.unwound v).rewindStk_rewound v.stk (s.stk.map (fun (e : Nat × Stk) => e.1)
      ++ (v.stk.map (fun (e : Nat × Stk) => e.1)).filter (fun c => (Tab.find s.stk c).isNone))
    refine ⟨⟨v.tags, v.pendMb, v.mbRan, v.drops, ?_⟩, hctr⟩
    rw [honly]
    rfl

/-- The live epochs and the Stockpots are those that the attempt saved. -/
theorem State.rewind_saved {s : State} {v : Saved} (h : s.stp.saved = some v) :
    s.rewind.mem.live = v.live ∧ ∀ k, (s.rewind.stkOf k).holds (Tab.get v.stk k Stk.empty) := by
  rw [State.rewind_some h]
  refine ⟨by rw [((s.unwound v).rewindStk_rewound _ _).only]; rfl, fun k => State.rewindStk_holds _ _ _ k ?_⟩
  by_cases hs : k ∈ s.stk.map (fun (e : Nat × Stk) => e.1)
  · exact .inl (List.mem_append_left _ hs)
  have hnone := Tab.find_eq_none hs
  by_cases hv : k ∈ v.stk.map (fun (e : Nat × Stk) => e.1)
  · exact .inl (List.mem_append_right _ (List.mem_filter.mpr ⟨hv, by rw [hnone]; rfl⟩))
  · right
    have hk : (s.unwound v).stkOf k = Stk.empty := by
      change Tab.get s.stk k Stk.empty = _
      unfold Tab.get
      rw [hnone]
      rfl
    unfold Tab.get
    rw [hk, Tab.find_eq_none hv]
    exact ⟨rfl, rfl⟩

/-- What a discarded attempt leaves: no work in flight, the committed state, and what the attempt saved. -/
theorem State.discard_spec (s : State) : s.discard.upd = s.upd ∧ s.discard.coll = Coll.reset
    ∧ (s.discard.stp.step = s.stp.step ∧ s.discard.stp.lastCause = s.stp.lastCause)
    ∧ (∀ o, o ≠ cRecCoal → o ≠ cRecDrop → s.discard.ctrGet o = s.ctrGet o)
    ∧ ∀ v, s.stp.saved = some v → s.discard.mem.live = v.live ∧ ∀ k, (s.discard.stkOf k).holds (Tab.get v.stk k Stk.empty) := by
  obtain ⟨⟨tags, pend, ran, drops, honly⟩, hctr⟩ := s.dropBanks.rewind_putBack
  have hstp : s.discard.stp = { s.dropBanks.rewind.stp with waiting := [] } := rfl
  have hupd : s.discard.upd = s.dropBanks.rewind.upd := rfl
  refine ⟨?_, rfl, ?_, fun o h1 h2 => (hctr o h1 h2).trans rfl, fun v hv => ?_⟩
  · rw [hupd, honly]
    rfl
  · rw [hstp, honly]
    exact ⟨rfl, rfl⟩
  · exact State.rewind_saved (s := s.dropBanks) hv

/-! ### The next attempt -/

/-- Records of estimates have been written: bytes of the regions and the counts of their frames. -/
structure State.Estimated (s t : State) : Prop where
  only : t = { s with ctr := t.ctr, store := { s.store with gddr := t.store.gddr }, mem := { s.mem with
    poison := t.mem.poison, written := t.mem.written, old := t.mem.old } }
  ctr : ∀ o, o ≠ cMemShort → o ≠ cMemRmw → t.ctrGet o = s.ctrGet o

theorem State.Estimated.refl (s : State) : s.Estimated s := ⟨rfl, fun _ _ _ => rfl⟩

theorem State.Estimated.trans {s t u : State} (h : s.Estimated t) (k : t.Estimated u) : s.Estimated u := by
  refine ⟨?_, fun o h1 h2 => (k.ctr o h1 h2).trans (h.ctr o h1 h2)⟩
  have hk := k.only
  rw [h.only] at hk
  exact hk

theorem State.estPut_estimated (s : State) (g : Nat) (e w : Word) : s.Estimated (s.estPut g e w) := by
  unfold State.estPut
  split
  · exact .refl s
  · rename_i r _
    have hdevs := s.regWrite_devs r (8 * g) (wordBytes [e, w])
    refine ⟨?_, fun o h1 h2 => ?_⟩
    · rw [State.account_only, hdevs]
    · rw [State.ctrGet_account _ _ _ _ _ _ h1 h2]
      exact State.ctrGet_of_ctr (by rw [hdevs]) o

theorem State.putCorrections_estimated (s : State) (l : Tab (Word × Word)) : s.Estimated (s.putCorrections l) := by
  induction l generalizing s with
  | nil => exact .refl s
  | cons e r ih => exact (s.estPut_estimated _ _ _).trans (ih _)

/-- The fence has been checked: it waits or has been passed, with what that counts and logs. -/
structure State.Fenced (s t : State) : Prop where
  only : t = { s with ctr := t.ctr, hif := t.hif, sbm := t.sbm, evt := t.evt, stp := { s.stp with
    fenceWait := t.stp.fenceWait, fenceBeats := t.stp.fenceBeats, fencePassed := t.stp.fencePassed } }
  ctr : ∀ o, o ≠ cRecCoal → o ≠ cRecDrop → o ≠ cStkFence → t.ctrGet o = s.ctrGet o

theorem State.Fenced.refl (s : State) : s.Fenced s := ⟨rfl, fun _ _ _ _ => rfl⟩

theorem State.Fenced.trans {s t u : State} (h : s.Fenced t) (k : t.Fenced u) : s.Fenced u := by
  refine ⟨?_, fun o h1 h2 h3 => (k.ctr o h1 h2 h3).trans (h.ctr o h1 h2 h3)⟩
  have hk := k.only
  rw [h.only] at hk
  exact hk

theorem State.Logged.fenced {s t : State} (h : s.Logged t) : s.Fenced t := by
  refine ⟨?_, fun o h1 h2 _ => h.ctr o h1 h2⟩
  have hk := h.only
  rw [hk]

theorem State.fenceCheck_fenced (s : State) : s.Fenced s.fenceCheck := by
  unfold State.fenceCheck
  split
  · exact .refl s
  · extract_lets x s1 y
    have h1 : s.Fenced s1 := by
      unfold s1
      split
      · refine ⟨by rw [State.count_only], fun o _ _ h => ?_⟩
        rw [State.count_other _ _ h]
        rfl
      · exact .refl s
    split
    · split
      · exact h1
      · refine h1.trans (.trans (t := { s1 with stp := { s1.stp with fenceWait := true } }) ?_ (State.raise_logged _ _ _).fenced)
        exact ⟨rfl, fun _ _ _ _ => rfl⟩
    · exact h1.trans ⟨rfl, fun _ _ _ _ => rfl⟩

/-- The next attempt of the same step: it begins anew, with what the last one saved, and nothing committed has changed (R216). -/
theorem State.restart_spec (s : State) :
    (s.restart.stp.attempt = s.stp.attempt + 1 ∧ s.restart.stp.step = s.stp.step ∧ s.restart.stp.lastCause = s.stp.lastCause
      ∧ s.restart.stp.active = true ∧ s.restart.stp.begun = true ∧ s.restart.stp.halted = false ∧ s.restart.stp.causes = []
      ∧ s.restart.stp.replayDue = none ∧ s.restart.stp.done = [] ∧ s.restart.stp.slotsOn = [])
    ∧ (s.restart.upd = s.upd ∧ s.restart.coll.running = [] ∧ s.restart.ctrGet cUpdReplay = s.ctrGet cUpdReplay)
    ∧ ∀ v, s.stp.saved = some v → s.restart.mem.live = v.live ∧ ∀ k, (s.restart.stkOf k).holds (Tab.get v.stk k Stk.empty) := by
  obtain ⟨hupd, hcoll, ⟨hstep, hlast⟩, hctr, hsaved⟩ := s.discard_spec
  unfold State.restart
  extract_lets s0 x s1 y
  have hput : State.Estimated { s0 with stp := x } s1 := State.putCorrections_estimated _ _
  have hfence := State.fenceCheck_fenced { s1 with stp := { s1.stp with beat := s1.beatFrom s1.cur.head.beats 0 } }
  generalize State.fenceCheck _ = t at hfence
  have hstp : s1.stp = x := by rw [hput.only]
  have hkept : t.upd = s0.upd ∧ t.coll = s0.coll ∧ t.mem.live = s0.mem.live ∧ t.stk = s0.stk := by
    rw [hfence.only]
    dsimp only
    rw [hput.only]
    exact ⟨rfl, rfl, rfl, rfl⟩
  obtain ⟨hupd', hcoll', hlive, hstk⟩ := hkept
  refine ⟨?_, ⟨?_, ?_, ?_⟩, fun v hv => ?_⟩
  · rw [hfence.only]
    dsimp only
    rw [hstp]
    exact ⟨rfl, hstep, hlast, rfl, rfl, rfl, rfl, rfl, rfl, rfl⟩
  · rw [hupd', hupd]
  · rw [hcoll', hcoll]
    rfl
  · rw [hfence.ctr _ (by decide) (by decide) (by decide)]
    exact ((hput.ctr _ (by decide) (by decide)).trans rfl).trans (hctr _ (by decide) (by decide))
  · unfold State.stkOf
    rw [hlive, hstk]
    exact hsaved v hv

theorem State.raiseFor_logged (s : State) (o : Option Stamp) (code : Nat) (l : List Word) : s.Logged (s.raiseFor o code l) := by
  unfold State.raiseFor
  split
  · exact s.raise_logged _ _
  · exact s.record_logged _ _

theorem execReplayStart_none {s : State} (h : s.stp.replayDue = none) : exec .replayStart s = .next s := by
  change execReplayStart s = _
  unfold execReplayStart
  rw [h]

theorem execReplayStart_some {s : State} {c : Nat} (h : s.stp.replayDue = some c) : exec .replayStart s
    = if !s.mayReplay || decide (s.cur.head.replayMax < s.stp.attempt) then .next s
      else .next (let s1 := (s.raiseFor s.stp.replayFrom 0x4005 [wd c, wd s.stp.attempt]).count cUpdReplay 1
        { s1 with stp := { s1.stp with lastCause := c } }).restart := by
  change execReplayStart s = _
  unfold execReplayStart
  rw [h]

/-- A replay that may start and has attempts left is the next attempt of the same step. -/
theorem exec_replayStart_starts {s : State} {c : Nat} (hc : s.stp.replayDue = some c) (hm : s.mayReplay = true)
    (ha : s.stp.attempt ≤ s.cur.head.replayMax) : ∃ t, exec .replayStart s = .next t
      ∧ t.stp.attempt = s.stp.attempt + 1 ∧ t.stp.step = s.stp.step ∧ t.stp.lastCause = c ∧ t.stp.active = true ∧ t.stp.begun = true
      ∧ t.stp.halted = false ∧ t.stp.causes = [] ∧ t.stp.replayDue = none ∧ t.stp.done = [] ∧ t.stp.slotsOn = []
      ∧ t.upd = s.upd ∧ t.coll.running = [] ∧ t.ctrGet cUpdReplay = satAdd (s.ctrGet cUpdReplay) 1
      ∧ (∀ v, s.stp.saved = some v → t.mem.live = v.live ∧ ∀ k, (t.stkOf k).frames = (Tab.get v.stk k Stk.empty).frames
        ∧ (t.stkOf k).head = (Tab.get v.stk k Stk.empty).head) := by
  have hexec := execReplayStart_some hc
  rw [if_neg (by simp [hm, Nat.not_lt.mpr ha])] at hexec
  have hlog := s.raiseFor_logged s.stp.replayFrom 0x4005 [wd c, wd s.stp.attempt]
  generalize s.raiseFor s.stp.replayFrom 0x4005 [wd c, wd s.stp.attempt] = r at hlog hexec
  dsimp only at hexec
  have hcount := r.count_only cUpdReplay 1
  have hone : (r.count cUpdReplay 1).ctrGet cUpdReplay = satAdd (s.ctrGet cUpdReplay) 1 := by
    rw [State.ctrGet_count, if_pos rfl, hlog.ctr _ (by decide) (by decide)]
  generalize hu : r.count cUpdReplay 1 = u at hcount hone hexec
  obtain ⟨⟨hattempt, hstep, hlast, hfresh⟩, ⟨hupd, hrun, hctr⟩, hsaved⟩ := State.restart_spec { u with stp := { u.stp with lastCause := c } }
  have hsame : u.stp = s.stp ∧ u.upd = s.upd := by
    rw [hcount, hlog.only]
    exact ⟨rfl, rfl⟩
  obtain ⟨hstp, hupd0⟩ := hsame
  obtain ⟨hact, hbegun, hhalt, hcauses, hdue, hdone, hon⟩ := hfresh
  refine ⟨_, hexec, ?_, ?_, hlast, hact, hbegun, hhalt, hcauses, hdue, hdone, hon, ?_, hrun, ?_, ?_⟩
  · rw [hattempt]
    dsimp only
    rw [hstp]
  · rw [hstep]
    dsimp only
    rw [hstp]
  · rw [hupd]
    exact hupd0
  · rw [hctr]
    exact hone
  · intro v hv
    refine hsaved v ?_
    dsimp only
    rw [hstp]
    exact hv

/-! ### The end of a step that fails -/

/-- A step that fails: nothing of it is committed, its status is kept, and its recipe has failed (R217, R225). -/
theorem State.failStep_spec (s : State) (cause : Nat) : (s.failStep cause).rcp.state = .failed ∧ (s.failStep cause).stp.active = false
    ∧ (s.failStep cause).upd.epoch = s.upd.epoch ∧ (s.failStep cause).upd.stat = updStat cause s.stp.lastCause s.stp.attempt
    ∧ s.hif.OnlySignals (s.failStep cause).hif := by
  obtain ⟨hupd, -⟩ := s.discard_spec
  have hsig := s.discard_events.hif
  unfold State.failStep
  generalize s.discard = u at hupd hsig
  have hepoch : u.upd.epoch = s.upd.epoch := by rw [hupd]
  exact ⟨rfl, rfl, hepoch, rfl, hsig⟩

theorem State.settleRun_spec (s : State) : s.settleRun.rcp = s.rcp ∧ s.settleRun.stp = s.stp ∧ s.settleRun.upd = s.upd
    ∧ (s.hif.Idle → s.hif.state ≠ .lost → s.hif.state ≠ .fault → s.settleRun.hostStill) := by
  rw [State.settleRun_eq]
  refine ⟨State.setState_rcp .., State.setState_stp .., State.setState_upd .., fun hi hl hf => ?_⟩
  obtain ⟨hw, hd, hb⟩ := s.setState_idle s.settled hi
  obtain ⟨hlost, hfault⟩ := s.settled_serves hl hf
  exact ⟨hw, hd, hb, by rw [State.setState_state]; exact hlost, by rw [State.setState_state]; exact hfault⟩

/-- A step's ticket is running and the mailbox holds no other: what ends the step leaves the mailbox still. -/
structure State.Alone (s : State) (w : WaitTicket) : Prop where
  runs : s.hif.seqBusy = some w
  steps : w.op = 0x0401 ∨ w.op = 0x0402
  waits : s.hif.waitq = []
  deletes : s.hif.deleting = []
  present : s.hif.state ≠ .lost
  serves : s.hif.state ≠ .fault

theorem State.Alone.of_signals {s t : State} {w : WaitTicket} (h : s.Alone w) (k : s.hif.OnlySignals t.hif) : t.Alone w := by
  obtain ⟨hr, ho, hw, hd, hl, hf⟩ := h
  exact ⟨by rw [k]; exact hr, ho, by rw [k]; exact hw, by rw [k]; exact hd, by rw [k]; exact hl, by rw [k]; exact hf⟩

/-- The step or invocation in progress fails, and its ticket ends. -/
theorem State.tickFail_spec (s : State) (cause : Nat) {w : WaitTicket} (h : s.Alone w) :
    (s.tickFail cause).rcp.state = .failed ∧ (s.tickFail cause).stp.active = false ∧ (s.tickFail cause).upd.epoch = s.upd.epoch
    ∧ (s.tickFail cause).upd.stat = updStat cause s.stp.lastCause s.stp.attempt ∧ (s.tickFail cause).hostStill := by
  obtain ⟨hrcp, hact, hepoch, hstat, hsig⟩ := s.failStep_spec cause
  unfold State.tickFail
  generalize s.failStep cause = u at hrcp hact hepoch hstat hsig
  obtain ⟨hruns, hsteps, hwaits, hdeletes, hpresent, hserves⟩ := h.of_signals hsig
  have hend : u.endTicket stStepFailed [wd cause, wd s.stp.step] = u.complete w stStepFailed [wd cause, wd s.stp.step] := by
    unfold State.endTicket
    rw [hruns]
    exact if_pos hsteps
  rw [hend]
  obtain ⟨hended, hdel, hfree⟩ := u.complete_ended w stStepFailed [wd cause, wd s.stp.step]
  generalize u.complete w stStepFailed [wd cause, wd s.stp.step] = v at hended hdel hfree
  obtain ⟨hr, hp, hu, hstill⟩ := v.settleRun_spec
  have hsame : v.rcp = u.rcp ∧ v.stp = u.stp ∧ v.upd = u.upd := by
    rw [hended.only]
    exact ⟨rfl, rfl, rfl⟩
  obtain ⟨hr', hp', hu'⟩ := hsame
  rw [hr, hp, hu, hr', hp', hu']
  exact ⟨hrcp, hact, hepoch, hstat, hstill ⟨hended.waits.trans hwaits, hdel.trans hdeletes, hfree hruns⟩
    (hended.state ▸ hpresent) (hended.state ▸ hserves)⟩

theorem execReplayLimit_none {s : State} (h : s.stp.replayDue = none) : exec .replayLimit s = .next s := by
  change execReplayLimit s = _
  unfold execReplayLimit
  rw [h]

/-- A replay more than the recipe allows fails the step with cause 2 (R217). -/
theorem exec_replayLimit_fails {s : State} {c : Nat} {w : WaitTicket} (hc : s.stp.replayDue = some c) (hact : s.stp.active = true)
    (hlimit : s.cur.head.replayMax < s.stp.attempt) (h : s.Alone w) :
    ∃ t, exec .replayLimit s = .next t ∧ t.rcp.state = .failed ∧ t.stp.active = false ∧ t.hif.seqBusy = none
      ∧ t.upd.epoch = s.upd.epoch ∧ t.upd.stat = updStat 2 s.stp.lastCause s.stp.attempt := by
  have hexec : exec .replayLimit s = .next ((s.raiseFor s.stp.replayFrom 0x4006 [wd c]).tickFail 2).drain := by
    change execReplayLimit s = _
    unfold execReplayLimit
    rw [hc]
    exact if_pos (by simp [hact, hlimit])
  have hlog := s.raiseFor_logged s.stp.replayFrom 0x4006 [wd c]
  generalize s.raiseFor s.stp.replayFrom 0x4006 [wd c] = r at hlog hexec
  obtain ⟨hrcp, hdone, hepoch, hstat, hstill⟩ := r.tickFail_spec 2 (h.of_signals hlog.hif)
  rw [State.drain_still _ hstill] at hexec
  have hupd : r.upd = s.upd := by rw [hlog.only]
  rw [hupd] at hepoch
  rw [hlog.stp] at hstat
  obtain ⟨-, -, hfree, -, -⟩ := hstill
  exact ⟨_, hexec, hrcp, hdone, hfree, hepoch, hstat⟩

/-! ### The fence's limit -/

theorem execEpochFenceStall_waits {s : State} (h : s.stp.fenceWait = false ∨ s.stp.fenceBeats < s.cur.head.fenceLimit) :
    exec .epochFenceStall s = .next s :=
  if_neg (by rcases h with h | h <;> simp [h])

/-- A fence that has waited its limit ends the attempt with cause 9 (R200). -/
theorem exec_epochFenceStall_ends {s : State} (hw : s.stp.fenceWait = true) (hl : s.cur.head.fenceLimit ≤ s.stp.fenceBeats) :
    ∃ t, exec .epochFenceStall s = .next t ∧ t.stp.halted = true
      ∧ (s.stp.active = true → s.lnk.windowOpen = true → 9 ∈ t.stp.causes) := by
  have hexec : exec .epochFenceStall s = .next { (s.raise 0x8006 []).cause 9 with
      stp := { ((s.raise 0x8006 []).cause 9).stp with halted := true } } :=
    if_pos (by simp [hw, hl])
  refine ⟨_, hexec, rfl, fun hact hopen => ?_⟩
  have hlog := s.raise_logged 0x8006 []
  refine State.mem_cause _ 9 (by rw [hlog.stp]; exact hact) ?_
  unfold State.afterClose
  rw [hlog.pwr, hlog.lnk, hopen]
  simp

/-! ### O44 -/

/-- Settles O44: the slots by `State.startSlot`'s cases, the replay by `State.restart_spec`, the limits by what ends the attempt. -/
theorem slotsStartAndStepsReplay : Obligations.SlotsStartAndStepsReplay := by
  unfold Obligations.SlotsStartAndStepsReplay
  intro s
  refine ⟨fun n x hx => ⟨fun hd => ?_, fun hd hp => ?_, fun hd hp hr => ?_, fun hd hp hr => ?_⟩, fun n hn => execSlotStart_none hn,
    fun d => rfl, fun c hc => ⟨fun h => ?_, exec_replayStart_starts hc⟩, fun h => ⟨execReplayStart_none h, execReplayLimit_none h⟩,
    fun c w hc ha hl hb ho hw hd hp hf => exec_replayLimit_fails hc ha hl ⟨hb, ho, hw, hd, hp, hf⟩,
    exec_epochFenceStall_ends, execEpochFenceStall_waits⟩
  · rw [execSlotStart_some hx, if_neg (by simp [hd])]
  · obtain ⟨t, hexec, hslots, hctr⟩ := exec_slotStart_due hx hd
    obtain ⟨hskip, hon, hcount⟩ := State.startSlot_stopped n hp
    exact ⟨t, hexec, hslots.skipped.trans hskip, hslots.on.trans hon, (State.ctrGet_of_ctr hctr _).trans hcount⟩
  · obtain ⟨t, hexec, hslots, hctr⟩ := exec_slotStart_due hx hd
    obtain ⟨hskip, hon, hsame⟩ := State.startSlot_idle n hp hr
    exact ⟨t, hexec, hslots.skipped.trans hskip, hslots.on.trans hon, hctr.trans hsame⟩
  · obtain ⟨t, hexec, hslots, -⟩ := exec_slotStart_due hx hd
    obtain ⟨hon, hskip⟩ := State.startSlot_starts n hp hr
    exact ⟨t, hexec, hslots.on.trans hon, hslots.skipped.trans hskip⟩
  · rw [execReplayStart_some hc, if_pos (by rcases h with h | h <;> simp [h])]

end Sys2Proof.Machine
end

section
/-! Collectives on their channels (R256, R262 to R264, R274): one that no group serves, and what a collective's record is after each change of
it. -/

namespace Sys2Proof.Machine

/-! ### Faults of descriptors -/

theorem State.Passed.faulted {s t : State} (h : s.Passed t) : t.stp.faulted = s.stp.faulted ∧ t.stp.fails = s.stp.fails := by
  unfold State.Passed at h
  constructor <;> rw [h]

/-- A descriptor that faults is noted, and in training fails the step with cause 3 (R256). -/
theorem State.descFault_spec (s : State) (d : Desc) (cause : Nat) : d.num ∈ (s.descFault d cause).stp.faulted
    ∧ (s.train = true → s.stp.active = true → s.afterClose = false → 3 ∈ (s.descFault d cause).stp.fails)
    ∧ (s.train = false → (s.descFault d cause).stp.fails = s.stp.fails) := by
  unfold State.descFault
  extract_lets s1 x s2
  have hput : s.Put s1 := (State.raise_logged _ _ _).noted.put.trans (State.nanOut_put _ _ _)
  have hsame : s2.stp.active = s.stp.active ∧ s2.afterClose = s.afterClose ∧ s2.stp.fails = s.stp.fails := by
    unfold s2 x State.afterClose
    dsimp only
    rw [hput]
    exact ⟨rfl, rfl, rfl⟩
  obtain ⟨hact, hclose, hfails⟩ := hsame
  have hnoted : d.num ∈ s2.stp.faulted := List.mem_cons_self
  split
  · rename_i ht
    refine ⟨?_, fun _ ha hc => s2.mem_fail 3 (hact.trans ha) (hclose.trans hc), fun h => by rw [ht] at h; cases h⟩
    obtain ⟨l, fs, h⟩ := s2.fail_only 3
    rw [h]
    exact hnoted
  · rename_i ht
    exact ⟨hnoted, fun h => absurd h ht, fun _ => hfails⟩

/-- A collective that no group serves is a descriptor's fault, and done (R264). -/
theorem exec_collective_unserved {s : State} {d : Desc} {op : Nat} {c : Instr} (ht : s.takes d) (hfree : s.collOn (cVc d) = none)
    (hg : ∀ g, Tab.find s.rcp.groups (Desc.word d 11).toNat = some g → bindsColl d g = false)
    (hc : exec c s = .next (s.collective op d calm)) (ho : Desc.opcode d = op) :
    ∃ t, exec c s = .next t ∧ d.num ∈ t.stp.faulted ∧ d.num ∈ t.stp.done
      ∧ (s.train = true → s.stp.active = true → s.afterClose = false → 3 ∈ t.stp.fails) ∧ (s.train = false → t.stp.fails = s.stp.fails) := by
  have hbegin := (exec_collective_takes ht hc ho).1 hfree
  have hcost := s.costed_only d
  generalize s.costed d = u at hbegin hcost
  have hnone : (Tab.find u.rcp.groups (Desc.word d 11).toNat).filter (bindsColl d) = none := by
    rw [Option.filter_eq_none_iff, hcost]
    intro g hf
    rw [hg g hf]
    decide
  have hfault : u.beginColl d false [] = (u.descFault d 3).finish d.num := by
    unfold State.beginColl
    rw [hnone]
  rw [hfault] at hbegin
  obtain ⟨hnoted, htrain, hrun⟩ := u.descFault_spec d 3
  obtain ⟨hf, hs⟩ := ((u.descFault d 3).finish_passed d.num).faulted
  refine ⟨_, hbegin, by rw [hf]; exact hnoted, State.mem_finish_done _ _, ?_, ?_⟩
  · rw [hs]
    rw [hcost] at htrain ⊢
    exact htrain
  · rw [hs]
    rw [hcost] at hrun ⊢
    exact hrun

/-! ### The record of a channel's collective -/

theorem State.collOn_congr {s t : State} (h : t.coll = s.coll) (vc : Nat) : t.collOn vc = s.collOn vc := by
  unfold State.collOn
  rw [h]

theorem State.collOn_vc {s : State} {vc : Nat} {x : CollS} (h : s.collOn vc = some x) : x.vc = vc := by
  unfold State.collOn at h
  simpa using List.find?_some h

/-- What a channel's record becomes where all records change alike and keep their channels. -/
theorem find?_channel (l : List CollS) (vc : Nat) (g : CollS → CollS) (hg : ∀ z, (g z).vc = z.vc) :
    (l.map g).find? (fun z => z.vc == vc) = (l.find? (fun z => z.vc == vc)).map g := by
  rw [List.find?_map]
  congr 2
  funext z
  simp [hg]

/-- The record put in the place of a channel's is the channel's. -/
theorem State.collOn_setColl {s : State} {vc : Nat} {x y : CollS} (h : s.collOn vc = some x) (hy : y.vc = x.vc) :
    (s.setColl y).collOn vc = some y := by
  have hput := find?_channel s.coll.running vc (fun z => if z.vc == y.vc then y else z) (fun z => by split <;> simp_all)
  unfold State.collOn at h
  rw [h, Option.map_some, if_pos (by simp [hy])] at hput
  exact hput

theorem State.collOn_onColl {s : State} {vc : Nat} {x : CollS} (h : s.collOn vc = some x) (f : CollS → CollS) (hf : (f x).vc = x.vc) :
    (s.onColl vc f).collOn vc = some (f x) := by
  unfold State.onColl
  rw [h]
  exact State.collOn_setColl h hf

theorem State.onColl_only (s : State) (vc : Nat) (f : CollS → CollS) : s.onColl vc f = { s with coll := (s.onColl vc f).coll } := by
  unfold State.onColl
  split <;> rfl

/-- A unit that has been dealt with is one of those done, and those that were are. -/
theorem State.unitDone_spec {s : State} {vc : Nat} {x : CollS} (h : s.collOn vc = some x) (k : Nat × Nat) :
    ∃ y, (s.unitDone vc k).collOn vc = some y ∧ k ∈ y.doneUnits ∧ ∀ j ∈ x.doneUnits, j ∈ y.doneUnits := by
  refine ⟨_, State.collOn_onColl h _ rfl, ?_, fun j hj => ?_⟩
  · dsimp only
    split
    · simp_all
    · exact List.mem_cons_self
  · dsimp only
    split
    · exact hj
    · exact List.mem_cons_of_mem _ hj

/-- The magnitudes noted of a unit leave the units done as they were. -/
theorem State.noteBlocks_spec {s : State} {x z : CollS} (h : s.collOn x.vc = some z) (c u : Nat) (ws : List Word) (ovf : List Bool) :
    ∃ y, (s.noteBlocks x c u ws ovf).collOn x.vc = some y ∧ y.doneUnits = z.doneUnits := by
  unfold State.noteBlocks
  split
  · exact ⟨_, State.collOn_onColl h _ rfl, rfl⟩
  · exact ⟨z, h, rfl⟩

theorem State.noteBlocks_only (s : State) (x : CollS) (c u : Nat) (ws : List Word) (ovf : List Bool) :
    s.noteBlocks x c u ws ovf = { s with coll := (s.noteBlocks x c u ws ovf).coll } := by
  unfold State.noteBlocks
  split
  · exact State.onColl_only _ _ _
  · rfl

/-! ### Packets that fail their collective -/

/-- A packet that is malformed fails the step, and the collective of its channel (R274). -/
theorem State.collMalformed_spec (s : State) (vc cause src : Nat) :
    (s.stp.active = true → s.afterClose = false → 4 ∈ (s.collMalformed vc cause src).stp.fails)
    ∧ ∀ x, s.collOn vc = some x → ∃ y, (s.collMalformed vc cause src).collOn vc = some y ∧ y.failed = true := by
  unfold State.collMalformed
  extract_lets s1
  have hlog := s.raise_logged 0x7003 [wd cause, wd src]
  have hfails : s.stp.active = true → s.afterClose = false → 4 ∈ s1.stp.fails := fun ha hc =>
    State.mem_fail _ 4 (by rw [hlog.stp]; exact ha) (by unfold State.afterClose; rw [hlog.pwr, hlog.lnk]; exact hc)
  have hcoll : s1.coll = s.coll := (State.fail_coll _ _).trans hlog.coll
  have hon := State.collOn_congr hcoll vc
  split
  · rename_i hnone
    refine ⟨hfails, fun x hx => ?_⟩
    rw [← hon, hnone] at hx
    cases hx
  · rename_i z hz
    have hput := (s1.setColl { z with failed := true }).nanOut_put z.desc z.dest
    have hset := State.collOn_setColl (y := { z with failed := true }) hz rfl
    refine ⟨fun ha hc => ?_, fun x hx => ?_⟩
    · rw [hput]
      exact hfails ha hc
    · exact ⟨_, (State.collOn_congr hput.coll vc).trans hset, rfl⟩

end Sys2Proof.Machine
end

section
/-! Packets of collectives (R268, R269, R273, R274, R281 to R284): what the arrival changes, and what is done with a packet by its phase and the
member's role. -/

namespace Sys2Proof.Machine

/-! ### What a packet's arrival changes -/

/-- A packet has come in and been acknowledged. -/
def State.arrived (s : State) (port vc : Nat) (p : Packet) : State :=
  ((s.sealOk port).rxPass port vc (packetBytes p).length).ackPacket vc p

/-- Of the links alone, and of those neither the beat nor its window. -/
theorem State.arrived_only (s : State) (port vc : Nat) (p : Packet) : ∃ k : Lnk, s.arrived port vc p = { s with lnk := k }
    ∧ k.beat = s.lnk.beat ∧ k.windowOpen = s.lnk.windowOpen := by
  unfold State.arrived State.ackPacket
  split <;> exact ⟨_, rfl, rfl, rfl⟩

theorem execCollPacket_eq (s : State) {port vc : Nat} (p : Packet) (o : Option ResidueObs) (hp : port < 6) (hv : vc < 16) :
    exec (.collPacket port vc p o) s = .next ((s.arrived port vc p).packet port vc p o) :=
  if_neg (by omega)

theorem State.packet_stale {s : State} {p : Packet} (port vc : Nat) (o : Option ResidueObs) (h : p.beat ≠ wd s.lnk.beat) :
    s.packet port vc p o = s.count cStale 1 :=
  if_pos h

theorem State.packet_foreign {s : State} {p : Packet} (port vc : Nat) (o : Option ResidueObs) (h : p.beat = wd s.lnk.beat)
    (hj : p.jobId ≠ s.cur.head.jobId) : s.packet port vc p o = s.collMalformed vc 1 p.src := by
  unfold State.packet
  rw [if_neg (by simp [h]), if_pos hj]

/-- A packet for a collective of the beat that has not started waits for it. -/
theorem State.packet_early {s : State} {p : Packet} {vc : Nat} {d : Desc} (port : Nat) (o : Option ResidueObs) (h : p.beat = wd s.lnk.beat)
    (hj : p.jobId = s.cur.head.jobId) (hx : ∀ x, s.collOn vc = some x → x.desc.num ≠ p.desc) (hd : s.beatColl vc p.desc = some d)
    (hw : s.willRun d = true) (hn : d.num ∉ s.stp.done) :
    s.packet port vc p o = { s with coll := { s.coll with early := s.coll.early ++ [{ port := port, vc := vc, pkt := p, obs := o }] } } := by
  have hnone : (s.collOn vc).filter (fun x => x.desc.num == p.desc) = none := by
    rw [Option.filter_eq_none_iff]
    intro x hon
    simpa using hx x hon
  unfold State.packet
  rw [if_neg (by simp [h]), if_neg (by simp [hj]), hnone]
  dsimp only
  rw [hd]
  exact if_pos (by simp [hw, hn])

/-- One of the collective that runs on its channel. -/
theorem State.packet_own {s : State} {p : Packet} {vc : Nat} {x : CollS} (port : Nat) (o : Option ResidueObs) (h : p.beat = wd s.lnk.beat)
    (hj : p.jobId = s.cur.head.jobId) (hx : s.collOn vc = some x) (hd : x.desc.num = p.desc) :
    s.packet port vc p o = s.ownPacket port x p o := by
  unfold State.packet
  rw [if_neg (by simp [h]), if_neg (by simp [hj]), hx, Option.filter_some, if_pos (by simpa using hd)]

theorem State.ownPacket_malformed {s : State} {p : Packet} {x : CollS} {cause : Nat} (port : Nat) (o : Option ResidueObs)
    (h : s.malformed x p = some cause) : s.ownPacket port x p o = s.collMalformed x.vc cause p.src := by
  unfold State.ownPacket
  rw [h]

theorem State.ownPacket_clean {s : State} {p : Packet} {x : CollS} (port : Nat) (h : s.malformed x p = none) (hf : x.failed = false) :
    s.ownPacket port x p none = (s.gotUnit p).takePacket x p none := by
  unfold State.ownPacket
  rw [h]
  simp [hf]

/-- An OPERAND conclusion holds the unit back. -/
theorem State.ownPacket_operand {s : State} {p : Packet} {x : CollS} {r : ResidueObs} (port : Nat) (h : s.malformed x p = none)
    (hf : x.failed = false) (hd : disagrees r = true) (hc : s.conclude port r = .operand) :
    s.ownPacket port x p (some r) = (s.gotUnit p).residue x port p.chunk p.unit p.arcB r := by
  unfold State.ownPacket
  rw [h]
  rw [Option.filter_some, if_pos hd]
  simp [hf, hc]

/-! ### Gathered units -/

theorem State.handTo_traffic (s : State) (port : Nat) (p : LinkPkt) : s.Traffic (s.handTo port p) := by
  unfold State.handTo
  dsimp only
  split
  · exact (s.keep_traffic _).trans (State.enqueue_traffic _ _ _)
  · exact (s.keep_traffic _).trans (State.route_traffic _ _)

theorem State.forward_traffic (s : State) (x : CollS) (p : Packet) : s.Traffic (s.forward x p) := by
  unfold State.forward
  split
  · exact .refl s
  · split
    · exact .refl s
    · exact s.handTo_traffic _ _

theorem State.putD_put (s : State) (x : CollS) (i : Nat) (ws : List Word) : s.Put (s.putD x i ws) := by
  unfold State.putD
  dsimp only
  split
  · exact s.opWrite_put _ _ _
  split
  · exact s.writeFx_put _ _ _ _
  split
  · exact (s.writeFx_put _ _ _ _).trans (State.opWrite_put _ _ _ _)
  · exact s.writeFx_put _ _ _ _

/-- A gathered unit is one of the units done (R268). -/
theorem State.takeGather_done {s : State} {x : CollS} {vc : Nat} (p : Packet) (hx : s.collOn vc = some x)
    (hc : cKind x.desc = .sendrecv → p.chunk = 0) : ∃ y, (s.takeGather x p).collOn vc = some y
      ∧ (p.chunk, p.unit) ∈ y.doneUnits ∧ ∀ k ∈ x.doneUnits, k ∈ y.doneUnits := by
  cases State.collOn_vc hx
  unfold State.takeGather
  split
  · rename_i hk
    rw [hc hk]
    have hput := s.opWrite_put (Desc.home x.desc) ((Desc.opD x.desc).at (1024 * p.unit)) (p.payload.take (cCount x.desc x.n 0 p.unit))
    exact State.unitDone_spec ((State.collOn_congr hput.coll _).trans hx) _
  · extract_lets r s1
    have hcoll : s1.coll = s.coll :=
      ((State.putD_put _ _ _ _).coll.trans (State.applyFx_noted _ _ _).coll).trans (s.forward_traffic x p).coll
    obtain ⟨z, hz, hdone⟩ := State.noteBlocks_spec ((State.collOn_congr hcoll _).trans hx) p.chunk p.unit r.1 (ovfFlags p.payload)
    obtain ⟨y, hy, hmem, hkeep⟩ := State.unitDone_spec hz (p.chunk, p.unit)
    exact ⟨y, hy, hmem, fun k hk => hkeep k (hdone ▸ hk)⟩

theorem State.takePacket_gather (s : State) (x : CollS) {p : Packet} (fix : Option (Nat × Word)) (hp : p.phase = 1)
    (hk : cKind x.desc ≠ .reduceScatter) : s.takePacket x p fix = s.takeGather x p := by
  unfold State.takePacket
  rw [if_neg (by omega), if_pos hp, if_neg hk]

/-- A SENDRECV has one chunk. -/
theorem State.chunk_sendrecv {s : State} {x : CollS} {p : Packet} (h : s.malformed x p = none) (hk : cKind x.desc = .sendrecv) : p.chunk = 0 := by
  have hone : cChunks x.desc x.n = 1 := by
    unfold cChunks cReduces
    rw [hk]
    rfl
  unfold State.malformed at h
  rw [hone] at h
  by_contra hc
  simp only [Nat.one_le_iff_ne_zero.mpr hc, true_or, if_true] at h
  split_ifs at h

/-- The words that T32 keeps: its own NaN for any. -/
theorem keep32_run (w : Word) (f : NumFx) : ((keep32 w).run f).1 = if isNan32 w then nan32 else w := by
  unfold keep32
  split <;> rfl

theorem mapM_keep32_run (ws : List Word) (f : NumFx) : ((ws.mapM keep32).run f).1 = ws.map (fun w => if isNan32 w then nan32 else w) := by
  induction ws generalizing f with
  | nil => rfl
  | cons w r ih =>
    rw [List.mapM_cons, List.map_cons, ← keep32_run w f, ← ih ((keep32 w).run f).2]
    rfl

/-- A write to the local store of a core. -/
theorem State.opWrite_stored (s : State) (core : Nat) {o : Opnd} (bs : List Byte) (hm : o.mem = false) (ha : o.addr < localBytes) :
    s.stored (s.opWrite core o bs) (core * localBytes + o.addr) bs := by
  unfold State.opWrite State.coreWrite
  rw [if_neg (by simp [hm]), if_pos ha]
  exact ⟨Mem.read_write _ _ _, fun k hk => Mem.get_write_out _ _ _ _ hk, rfl⟩

theorem State.stored_congr {s s' t t' : State} {a : Nat} {bs : List Byte} (h : s.stored t a bs) (hs : s'.store = s.store) (ht : t'.store = t.store) :
    s'.stored t' a bs := by
  unfold State.stored
  rw [hs, ht]
  exact h

/-- Elements written to a D in T32 are T32's words of them. -/
theorem State.putD_t32 (s : State) (x : CollS) (i : Nat) (ws : List Word) (hk : cKind x.desc ≠ .reduceScatter)
    (hf : (Desc.opD x.desc).fmt = fT32) : (s.putD x i ws).store = (s.opWrite (Desc.home x.desc) ((Desc.opD x.desc).at (4 * i))
      (wordBytes (ws.map (fun w => if isNan32 w then nan32 else w)))).store := by
  unfold State.putD
  dsimp only
  rw [if_neg hk, hf, if_neg (by decide), if_neg (by decide), mapM_keep32_run]
  exact (State.applyFx_noted _ _ _).store

theorem decodeUnit_raw (legacy : Bool) (bs : List Byte) (f : NumFx) : (decodeUnit legacy 0 bs).run f = (leWords 256 bs, f) := rfl

theorem State.unitDone_store (s : State) (vc : Nat) (k : Nat × Nat) : (s.unitDone vc k).store = s.store := by
  unfold State.unitDone
  rw [State.onColl_only]

theorem State.opWrite_congr {s t : State} (h : t.store = s.store) (core : Nat) {o : Opnd} (bs : List Byte) (hm : o.mem = false) :
    (t.opWrite core o bs).store = (s.opWrite core o bs).store := by
  unfold State.opWrite State.coreWrite
  simp only [hm, Bool.false_eq_true, if_false]
  split <;> simp only [h]

/-- The elements of a gathered unit that exist stand at its place in D. -/
theorem State.takeGather_stored (s : State) (x : CollS) (p : Packet) (hk : cKind x.desc ≠ .reduceScatter) (hs : cKind x.desc ≠ .sendrecv)
    (hmode : cMode x.desc = 0) (hf : (Desc.opD x.desc).fmt = fT32) (hm : (Desc.opD x.desc).mem = false)
    (ha : (Desc.opD x.desc).addr + 4 * cIndex x.desc x.n p.chunk p.unit < localBytes) :
    s.stored (s.takeGather x p) (Desc.localAt x.desc + 4 * cIndex x.desc x.n p.chunk p.unit) (wordBytes
      (((leWords 256 p.payload).take (cCount x.desc x.n p.chunk p.unit)).map (fun w => if isNan32 w then nan32 else w))) := by
  have hplace := s.opWrite_stored (Desc.home x.desc) (o := (Desc.opD x.desc).at (4 * cIndex x.desc x.n p.chunk p.unit)) (wordBytes
    (((leWords 256 p.payload).take (cCount x.desc x.n p.chunk p.unit)).map (fun w => if isNan32 w then nan32 else w))) hm ha
  unfold Desc.localAt
  rw [Nat.add_assoc]
  refine State.stored_congr hplace rfl ?_
  unfold State.takeGather
  rw [if_neg hs, hmode, decodeUnit_raw]
  dsimp only
  rw [State.unitDone_store, State.noteBlocks_only]
  dsimp only
  unfold State.putUnit
  rw [State.putD_t32 _ _ _ _ hk hf]
  refine State.opWrite_congr ?_ _ _ hm
  rw [(State.applyFx_noted _ _ _).store, (s.forward_traffic x p).only]

/-! ### Sums passed on -/

/-- A hop of an arc that adds what came in, in a collective whose results are gathered after. -/
theorem State.takePacket_hop (s : State) {x : CollS} {p : Packet} (fix : Option (Nat × Word)) (hp : p.phase = 0)
    (hk : cKind x.desc = .allreduce) (hr : roleOf x.n x.me (cOwner x.desc p.chunk) = .hop p.arcB false) :
    s.takePacket x p fix = (s.emitFx x p.chunk p.unit ((s.hopRun x p.chunk p.unit (some p.payload) fix).run fx0)).sendUnit x (!p.arcB) 0
      p.arcB p.chunk p.unit ((s.hopRun x p.chunk p.unit (some p.payload) fix).run fx0).1.payload := by
  have hadds : cReduces x.desc = true := by
    unfold cReduces
    rw [hk]
    rfl
  unfold State.takePacket
  rw [if_pos hp, hr]
  dsimp only
  rw [if_pos (by simp [hadds])]
  unfold State.hopUnit
  rw [if_neg (by rw [hk]; decide)]

/-- What goes on in T32 is the sum of what came in and the member's own elements. -/
theorem State.hopRun_t32 (s : State) {x : CollS} (c u : Nat) (bs : List Byte) (hmode : cMode x.desc = 0) :
    ((s.hopRun x c u (some bs) none).run fx0).1.payload
      = wordBytes ((addUnits (s.collMode x) (leWords 256 bs) (s.ownUnit x c u)).run fx0).1 := by
  unfold State.hopRun State.emit
  rw [hmode]
  rfl

/-- The first partial of a unit with two arcs is held until the other's comes (R269). -/
theorem State.takePacket_partial (s : State) {x : CollS} {p : Packet} (fix : Option (Nat × Word)) (hp : p.phase = 0)
    (hc : cReduces x.desc = true) (hr : roleOf x.n x.me (cOwner x.desc p.chunk) = .owner) (hA : 0 < arcA x.n) (hB : 0 < arcB x.n)
    (hnone : x.partialsOf p.chunk p.unit = []) (hnew : (p.chunk, p.unit) ∉ x.doneUnits) :
    s.takePacket x p fix = s.setColl { x with partials := x.partials ++
      [{ chunk := p.chunk, unit := p.unit, arcB := p.arcB, payload := p.payload, fix := fix }] } := by
  unfold State.takePacket
  rw [if_pos hp, hr]
  dsimp only
  rw [if_pos hc]
  unfold State.takePartial
  rw [hnone]
  simp [hnew, hA, hB, b2n]

/-! ### OPERAND conclusions -/

theorem State.chargeCe_charged (s : State) (cls unit n : Nat) : s.Charged (s.chargeCe cls unit n) := by
  unfold State.chargeCe
  split
  · exact .refl s
  · exact s.setHist_charged _

/-- What an OPERAND conclusion logs and charges leaves the collectives and the attempt as they were (R283). -/
theorem State.residueOwn_operand (s : State) (x : CollS) {port : Nat} (u : Nat) {r : ResidueObs} (hc : s.conclude port r = .operand) :
    (s.residueOwn x port u r).coll = s.coll ∧ (s.residueOwn x port u r).ctrGet cColResend = s.ctrGet cColResend
    ∧ (s.residueOwn x port u r).stp = s.stp ∧ (s.residueOwn x port u r).afterClose = s.afterClose := by
  unfold State.residueOwn
  rw [hc]
  extract_lets y s1
  have hlog := s.raiseU_logged 0x7001 (Rerun.unit .operand port r.lane) [wd port, wd r.lane, wd Rerun.operand.code, wd x.desc.num, wd u]
  have hcharge := s1.chargeCe_charged uLane (port * 6 + (Config.freeWord s.free).toNat % 6) 1
  have hone : s1 = { s with ctr := s1.ctr, hif := s1.hif, sbm := s1.sbm, evt := s1.evt } := by
    unfold s1
    rw [State.count_only, hlog.only]
  refine ⟨?_, ?_, ?_, ?_⟩
  · rw [State.draw_coll, hcharge.only, hone]
  · refine ((State.ctrGet_of_ctr (State.draw_ctr _ _) _).trans (hcharge.ctr _ (by decide))).trans ?_
    exact (State.count_other _ 1 (by decide)).trans (hlog.ctr _ (by decide) (by decide))
  · rw [State.draw_stp, hcharge.stp, hone]
  · unfold State.afterClose
    rw [State.draw_pwr, State.draw_lnk, hcharge.pwr, hcharge.lnk, hone]

/-- A collective given up because a unit was asked for too often (R284). -/
theorem State.resendLimit_spec {s : State} {x z : CollS} {vc : Nat} (hz : s.collOn vc = some z) (hv : x.vc = vc) :
    (s.resendLimit x).collOn vc = some { z with failed := true } ∧ (∀ q ∈ (s.resendLimit x).coll.resends, q.desc ≠ x.desc.num)
    ∧ (s.stp.active = true → s.afterClose = false → 0xA ∈ (s.resendLimit x).stp.causes) := by
  have hlog := s.raise_logged 0x7004 []
  have hcoll : ((s.raise 0x7004 []).cause 0xA).coll = s.coll := (State.cause_coll _ _).trans hlog.coll
  refine ⟨?_, fun q hq => ?_, fun ha hc => ?_⟩
  · have hgive := find?_channel s.coll.running vc (fun y => if y.vc == x.vc then { y with failed := true } else y)
      (fun y => by split <;> rfl)
    unfold State.collOn at hz
    rw [hz, Option.map_some, if_pos (by simpa [hv] using List.find?_some hz)] at hgive
    unfold State.collOn State.resendLimit
    dsimp only
    rw [hcoll]
    exact hgive
  · unfold State.resendLimit at hq
    simpa using (List.mem_filter.mp hq).2
  · refine State.mem_cause (s.raise 0x7004 []) 0xA (by rw [hlog.stp]; exact ha) ?_
    unfold State.afterClose
    rw [hlog.pwr, hlog.lnk]
    exact hc

/-- A collective with one more OPERAND conclusion on a unit. -/
def CollS.flawed (x : CollS) (k : Nat × Nat × Bool) : CollS :=
  { x with flaws := (k, x.flawsOf k + 1) :: x.flaws.filter (fun f => f.1 != k) }

/-- What an OPERAND conclusion on a unit that an arc brings does. -/
theorem State.residue_operand (s : State) (x : CollS) {port : Nat} (c u : Nat) (arc : Bool) {r : ResidueObs} (hc : s.conclude port r = .operand) :
    s.residue x port c u arc r = if 2 ≤ x.flawsOf (c, u, arc) then ((s.residueOwn x port u r).setColl (x.flawed (c, u, arc))).resendLimit x
      else (((s.residueOwn x port u r).setColl (x.flawed (c, u, arc))).askUnit port x.desc.num c u arc).count cColResend 1 := by
  unfold State.residue
  rw [hc]
  rfl

/-- An OPERAND conclusion asks for the unit again, the first two times (R283). -/
theorem State.residue_asks (s : State) {x : CollS} {vc port c u : Nat} {arc : Bool} {r : ResidueObs} (hx : s.collOn vc = some x)
    (hc : s.conclude port r = .operand) (hn : x.flawsOf (c, u, arc) < 2) : ∃ y, (s.residue x port c u arc r).collOn vc = some y
      ∧ { port := port, desc := x.desc.num, chunk := c, unit := u, arcB := arc } ∈ (s.residue x port c u arc r).coll.resends
      ∧ (s.residue x port c u arc r).ctrGet cColResend = satAdd (s.ctrGet cColResend) 1
      ∧ y.doneUnits = x.doneUnits ∧ y.partials = x.partials := by
  obtain ⟨hcoll, hctr, -, -⟩ := s.residueOwn_operand x u hc
  rw [s.residue_operand x c u arc hc, if_neg (by omega)]
  generalize s.residueOwn x port u r = v at hcoll hctr
  have hon := State.collOn_setColl (y := x.flawed (c, u, arc)) ((State.collOn_congr hcoll vc).trans hx) rfl
  refine ⟨_, hon, ?_, ?_, rfl, rfl⟩
  · exact List.mem_append_right _ (List.mem_singleton_self _)
  · rw [State.ctrGet_count, if_pos rfl]
    exact congrArg (satAdd · 1) hctr

/-- The third time the collective is given up, and the step replays with cause TRANSIENT (R284). -/
theorem State.residue_givesUp (s : State) {x : CollS} {vc port c u : Nat} {arc : Bool} {r : ResidueObs} (hx : s.collOn vc = some x)
    (hc : s.conclude port r = .operand) (hn : 2 ≤ x.flawsOf (c, u, arc)) : ∃ y, (s.residue x port c u arc r).collOn vc = some y
      ∧ y.failed = true ∧ (∀ q ∈ (s.residue x port c u arc r).coll.resends, q.desc ≠ x.desc.num)
      ∧ (s.stp.active = true → s.afterClose = false → 0xA ∈ (s.residue x port c u arc r).stp.causes) := by
  obtain ⟨hcoll, -, hstp, hclose⟩ := s.residueOwn_operand x u hc
  rw [s.residue_operand x c u arc hc, if_pos hn]
  generalize s.residueOwn x port u r = v at hcoll hstp hclose
  have hon := State.collOn_setColl (y := x.flawed (c, u, arc)) ((State.collOn_congr hcoll vc).trans hx) rfl
  obtain ⟨hgone, hasks, hcause⟩ := State.resendLimit_spec hon (State.collOn_vc hx)
  exact ⟨_, hgone, rfl, hasks, fun ha hw => hcause (by rw [← hstp] at ha; exact ha) (hclose.trans hw)⟩

end Sys2Proof.Machine
end

section
/-! COLL_PACKET and COLL_COMPLETE (R263, R268, R269, R273, R274, R281 to R284): the commands, by what the packet is and what the channel
holds. -/

namespace Sys2Proof.Machine

/-! ### What an arrival leaves as it was -/

theorem State.arrived_coll (s : State) (port vc : Nat) (p : Packet) : (s.arrived port vc p).coll = s.coll := by
  obtain ⟨k, h, -⟩ := s.arrived_only port vc p
  rw [h]

theorem State.arrived_stp (s : State) (port vc : Nat) (p : Packet) : (s.arrived port vc p).stp = s.stp := by
  obtain ⟨k, h, -⟩ := s.arrived_only port vc p
  rw [h]

theorem State.arrived_store (s : State) (port vc : Nat) (p : Packet) : (s.arrived port vc p).store = s.store := by
  obtain ⟨k, h, -⟩ := s.arrived_only port vc p
  rw [h]

theorem State.arrived_ctrGet (s : State) (port vc : Nat) (p : Packet) (o : Nat) : (s.arrived port vc p).ctrGet o = s.ctrGet o := by
  obtain ⟨k, h, -⟩ := s.arrived_only port vc p
  rw [h]
  rfl

theorem State.arrived_beat (s : State) (port vc : Nat) (p : Packet) : (s.arrived port vc p).lnk.beat = s.lnk.beat := by
  obtain ⟨k, h, hb, -⟩ := s.arrived_only port vc p
  rw [h]
  exact hb

theorem State.arrived_cur (s : State) (port vc : Nat) (p : Packet) : (s.arrived port vc p).cur = s.cur := by
  obtain ⟨k, h, -⟩ := s.arrived_only port vc p
  rw [h]
  rfl

theorem State.arrived_afterClose (s : State) (port vc : Nat) (p : Packet) : (s.arrived port vc p).afterClose = s.afterClose := by
  obtain ⟨k, h, -, hw⟩ := s.arrived_only port vc p
  unfold State.afterClose
  rw [h]
  dsimp only
  rw [hw]

theorem State.arrived_collOn (s : State) (port vc : Nat) (p : Packet) (n : Nat) : (s.arrived port vc p).collOn n = s.collOn n :=
  State.collOn_congr (s.arrived_coll port vc p) n

theorem State.arrived_malformed (s : State) (port vc : Nat) (p : Packet) (x : CollS) : (s.arrived port vc p).malformed x p = s.malformed x p := by
  unfold State.malformed
  rw [s.arrived_cur]

theorem State.arrived_conclude (s : State) (port vc : Nat) (p : Packet) (r : ResidueObs) :
    (s.arrived port vc p).conclude port r = s.conclude port r := by
  obtain ⟨k, h, -⟩ := s.arrived_only port vc p
  rw [h]
  rfl

theorem State.gotUnit_only (s : State) (p : Packet) : s.gotUnit p = { s with coll := { s.coll with resends := (s.gotUnit p).coll.resends } } := rfl

/-! ### Packets that go no further -/

theorem exec_collPacket_stale {s : State} {port vc : Nat} {p : Packet} (o : Option ResidueObs) (hp : port < 6) (hv : vc < 16)
    (hb : p.beat ≠ wd s.lnk.beat) : ∃ t, exec (.collPacket port vc p o) s = .next t
      ∧ t.ctrGet cStale = satAdd (s.ctrGet cStale) 1 ∧ t = { s with ctr := t.ctr, lnk := t.lnk } := by
  refine ⟨_, execCollPacket_eq s p o hp hv, ?_, ?_⟩
  · rw [State.packet_stale _ _ _ (by rw [s.arrived_beat]; exact hb), State.ctrGet_count, if_pos rfl, s.arrived_ctrGet]
  · rw [State.packet_stale _ _ _ (by rw [s.arrived_beat]; exact hb)]
    obtain ⟨k, h, -⟩ := s.arrived_only port vc p
    rw [h, State.count_only]

/-- The step fails with cause 4, and the collective of a channel is given up. -/
abbrev State.packetFails (s : State) (vc : Nat) (t : State) : Prop :=
  (s.stp.active = true → s.afterClose = false → 4 ∈ t.stp.fails)
    ∧ ∀ x, s.collOn vc = some x → ∃ y, t.collOn vc = some y ∧ y.failed = true

theorem State.arrived_fails (s : State) (port vc : Nat) (p : Packet) (cause src : Nat) :
    s.packetFails vc ((s.arrived port vc p).collMalformed vc cause src) := by
  have h := (s.arrived port vc p).collMalformed_spec vc cause src
  rw [s.arrived_stp, s.arrived_afterClose, s.arrived_collOn] at h
  exact h

theorem exec_collPacket_foreign {s : State} {port vc : Nat} {p : Packet} (o : Option ResidueObs) (hp : port < 6) (hv : vc < 16)
    (hb : p.beat = wd s.lnk.beat) (hj : p.jobId ≠ s.cur.head.jobId) :
    ∃ t, exec (.collPacket port vc p o) s = .next t ∧ s.packetFails vc t := by
  refine ⟨_, execCollPacket_eq s p o hp hv, ?_⟩
  rw [State.packet_foreign _ _ _ (by rw [s.arrived_beat]; exact hb) (by rw [s.arrived_cur]; exact hj)]
  exact s.arrived_fails port vc p _ _

theorem exec_collPacket_early {s : State} {port vc : Nat} {p : Packet} (o : Option ResidueObs) (hp : port < 6) (hv : vc < 16)
    (hb : p.beat = wd s.lnk.beat) (hj : p.jobId = s.cur.head.jobId) {d : Desc} (hx : ∀ x, s.collOn vc = some x → x.desc.num ≠ p.desc)
    (hd : s.beatColl vc p.desc = some d) (hw : s.willRun d = true) (hn : d.num ∉ s.stp.done) :
    ∃ t, exec (.collPacket port vc p o) s = .next t ∧ t = { s with coll := t.coll, lnk := t.lnk }
      ∧ t.coll = { s.coll with early := s.coll.early ++ [{ port := port, vc := vc, pkt := p, obs := o }] } := by
  obtain ⟨k, h, hbeat, -⟩ := s.arrived_only port vc p
  have hexec := execCollPacket_eq s p o hp hv
  rw [h, State.packet_early (s := { s with lnk := k }) port o (by rw [hb, ← hbeat]) hj hx hd hw hn] at hexec
  exact ⟨_, hexec, rfl, rfl⟩

/-! ### Packets of the collective that runs -/

section
variable {s : State} {port vc : Nat} {p : Packet} {x : CollS}

theorem exec_collPacket_own (o : Option ResidueObs) (hp : port < 6) (hv : vc < 16) (hb : p.beat = wd s.lnk.beat)
    (hj : p.jobId = s.cur.head.jobId) (hx : s.collOn vc = some x) (hd : x.desc.num = p.desc) :
    exec (.collPacket port vc p o) s = .next ((s.arrived port vc p).ownPacket port x p o) := by
  rw [execCollPacket_eq s p o hp hv, State.packet_own port o (by rw [s.arrived_beat]; exact hb) (by rw [s.arrived_cur]; exact hj)
    ((s.arrived_collOn ..).trans hx) hd]

theorem exec_collPacket_malformed (o : Option ResidueObs) (hp : port < 6) (hv : vc < 16) (hb : p.beat = wd s.lnk.beat)
    (hj : p.jobId = s.cur.head.jobId) (hx : s.collOn vc = some x) (hd : x.desc.num = p.desc) {cause : Nat} (hm : s.malformed x p = some cause) :
    ∃ t, exec (.collPacket port vc p o) s = .next t ∧ s.packetFails vc t := by
  refine ⟨_, exec_collPacket_own o hp hv hb hj hx hd, ?_⟩
  rw [State.ownPacket_malformed port o ((s.arrived_malformed ..).trans hm), State.collOn_vc hx]
  exact s.arrived_fails port vc p _ _

/-- A packet is of the collective that runs on its channel, and well formed: what becomes of it is a matter of its phase and the additions. -/
structure State.Owned (s : State) (port vc : Nat) (p : Packet) (x : CollS) : Prop where
  exec_eq : ∀ o, exec (.collPacket port vc p o) s = .next ((s.arrived port vc p).ownPacket port x p o)
  on : s.collOn vc = some x
  desc : x.desc.num = p.desc
  clean : s.malformed x p = none
  runs : x.failed = false

/-- The state in which a well-formed packet is taken. -/
def State.taking (s : State) (port vc : Nat) (p : Packet) : State :=
  (s.arrived port vc p).gotUnit p

theorem State.taking_only (s : State) (port vc : Nat) (p : Packet) : ∃ k rs, s.taking port vc p = { s with
    lnk := k, coll := { s.coll with resends := rs } } := by
  obtain ⟨k, h, -⟩ := s.arrived_only port vc p
  refine ⟨k, (s.taking port vc p).coll.resends, ?_⟩
  unfold State.taking
  rw [State.gotUnit_only, h]

theorem State.taking_collOn (s : State) (port vc : Nat) (p : Packet) (n : Nat) : (s.taking port vc p).collOn n = s.collOn n :=
  s.arrived_collOn port vc p n

theorem State.Owned.takes (h : s.Owned port vc p x) :
    exec (.collPacket port vc p none) s = .next ((s.taking port vc p).takePacket x p none) := by
  rw [h.exec_eq, State.ownPacket_clean port ((s.arrived_malformed ..).trans h.clean) h.runs]
  rfl

theorem State.Owned.holdsBack (h : s.Owned port vc p x) {r : ResidueObs} (hd : disagrees r = true) (hc : s.conclude port r = .operand) :
    exec (.collPacket port vc p (some r)) s = .next ((s.taking port vc p).residue x port p.chunk p.unit p.arcB r) := by
  rw [h.exec_eq, State.ownPacket_operand port ((s.arrived_malformed ..).trans h.clean) h.runs hd ((s.arrived_conclude ..).trans hc)]
  rfl

theorem State.Owned.gathers (h : s.Owned port vc p x) (hp : p.phase = 1) (hk : cKind x.desc ≠ .reduceScatter) :
    ∃ t y, exec (.collPacket port vc p none) s = .next t
      ∧ t.collOn vc = some y ∧ (p.chunk, p.unit) ∈ y.doneUnits ∧ ∀ k ∈ x.doneUnits, k ∈ y.doneUnits := by
  obtain ⟨y, hy, hdone, hkept⟩ := (s.taking port vc p).takeGather_done p ((s.taking_collOn ..).trans h.on) (State.chunk_sendrecv h.clean)
  rw [← State.takePacket_gather _ x none hp hk] at hy
  exact ⟨_, y, h.takes, hy, hdone, hkept⟩

theorem State.Owned.writes (h : s.Owned port vc p x) (hp : p.phase = 1) (hk : cKind x.desc ≠ .reduceScatter) (hs : cKind x.desc ≠ .sendrecv)
    (hmode : cMode x.desc = 0) (hf : (Desc.opD x.desc).fmt = fT32) (hm : (Desc.opD x.desc).mem = false)
    (ha : (Desc.opD x.desc).addr + 4 * cIndex x.desc x.n p.chunk p.unit < localBytes) :
    ∃ t, exec (.collPacket port vc p none) s = .next t
      ∧ s.stored t (Desc.localAt x.desc + 4 * cIndex x.desc x.n p.chunk p.unit) (wordBytes
        (((leWords 256 p.payload).take (cCount x.desc x.n p.chunk p.unit)).map (fun w => if isNan32 w then nan32 else w))) := by
  have hstored := (s.taking port vc p).takeGather_stored x p hk hs hmode hf hm ha
  rw [← State.takePacket_gather _ x none hp hk] at hstored
  exact ⟨_, h.takes, State.stored_congr hstored (s.arrived_store port vc p).symm rfl⟩

theorem State.ownUnit_taking (s : State) (port vc : Nat) (p : Packet) (x : CollS) (c u : Nat) :
    (s.taking port vc p).ownUnit x c u = s.ownUnit x c u ∧ (s.taking port vc p).collMode x = s.collMode x := by
  obtain ⟨k, rs, h⟩ := s.taking_only port vc p
  rw [h]
  exact ⟨rfl, rfl⟩

theorem State.Owned.passesOn (h : s.Owned port vc p x) (hp : p.phase = 0) (hk : cKind x.desc = .allreduce)
    (hr : roleOf x.n x.me (cOwner x.desc p.chunk) = .hop p.arcB false) :
    exec (.collPacket port vc p none) s = .next (((s.taking port vc p).emitFx x p.chunk p.unit
      (((s.taking port vc p).hopRun x p.chunk p.unit (some p.payload) none).run fx0)).sendUnit x (!p.arcB) 0 p.arcB p.chunk p.unit
        (((s.taking port vc p).hopRun x p.chunk p.unit (some p.payload) none).run fx0).1.payload)
    ∧ (cMode x.desc = 0 → (((s.taking port vc p).hopRun x p.chunk p.unit (some p.payload) none).run fx0).1.payload
      = wordBytes ((addUnits (s.collMode x) (leWords 256 p.payload) (s.ownUnit x p.chunk p.unit)).run fx0).1) := by
  refine ⟨by rw [h.takes, State.takePacket_hop _ none hp hk hr], fun hm => ?_⟩
  obtain ⟨hown, hmode⟩ := s.ownUnit_taking port vc p x p.chunk p.unit
  rw [State.hopRun_t32 _ _ _ _ hm, hown, hmode]

theorem State.Owned.holds (h : s.Owned port vc p x) (hp : p.phase = 0) (hc : cReduces x.desc = true)
    (hr : roleOf x.n x.me (cOwner x.desc p.chunk) = .owner) (hA : 0 < arcA x.n) (hB : 0 < arcB x.n)
    (hnone : x.partialsOf p.chunk p.unit = []) (hnew : (p.chunk, p.unit) ∉ x.doneUnits) :
    ∃ t y, exec (.collPacket port vc p none) s = .next t ∧ t.collOn vc = some y ∧ y.doneUnits = x.doneUnits
      ∧ y.partials = x.partials ++ [{ chunk := p.chunk, unit := p.unit, arcB := p.arcB, payload := p.payload, fix := none }]
      ∧ t = { s with coll := t.coll, lnk := t.lnk } := by
  have hexec := h.takes
  rw [State.takePacket_partial _ none hp hc hr hA hB hnone hnew] at hexec
  refine ⟨_, _, hexec, State.collOn_setColl ((s.taking_collOn ..).trans h.on) rfl, rfl, rfl, ?_⟩
  obtain ⟨k, rs, honly⟩ := s.taking_only port vc p
  rw [honly]
  rfl

theorem State.Owned.asks (h : s.Owned port vc p x) {r : ResidueObs} (hd : disagrees r = true) (hc : s.conclude port r = .operand)
    (hn : x.flawsOf (p.chunk, p.unit, p.arcB) < 2) : ∃ t y, exec (.collPacket port vc p (some r)) s = .next t
      ∧ { port := port, desc := p.desc, chunk := p.chunk, unit := p.unit, arcB := p.arcB } ∈ t.coll.resends
      ∧ t.ctrGet cColResend = satAdd (s.ctrGet cColResend) 1 ∧ t.collOn vc = some y
      ∧ y.doneUnits = x.doneUnits ∧ y.partials = x.partials := by
  obtain ⟨y, hy, hask, hctr, hdone, hpart⟩ := State.residue_asks (s := s.taking port vc p) ((s.taking_collOn ..).trans h.on)
    ((s.arrived_conclude port vc p r).trans hc) hn
  rw [h.desc] at hask
  exact ⟨_, y, h.holdsBack hd hc, hask, hctr.trans (congrArg (satAdd · 1) (s.arrived_ctrGet port vc p _)), hy, hdone, hpart⟩

theorem State.Owned.givesUp (h : s.Owned port vc p x) {r : ResidueObs} (hd : disagrees r = true) (hc : s.conclude port r = .operand)
    (hn : 2 ≤ x.flawsOf (p.chunk, p.unit, p.arcB)) : ∃ t y, exec (.collPacket port vc p (some r)) s = .next t
      ∧ t.collOn vc = some y ∧ y.failed = true
      ∧ (∀ q ∈ t.coll.resends, q.desc ≠ p.desc) ∧ (s.stp.active = true → s.afterClose = false → 0xA ∈ t.stp.causes) := by
  obtain ⟨y, hy, hf, hask, hcause⟩ := State.residue_givesUp (s := s.taking port vc p) ((s.taking_collOn ..).trans h.on)
    ((s.arrived_conclude port vc p r).trans hc) hn
  rw [h.desc] at hask
  refine ⟨_, y, h.holdsBack hd hc, hy, hf, hask, fun ha hw => hcause ?_ ((s.arrived_afterClose port vc p).trans hw)⟩
  exact (congrArg Stp.active (s.arrived_stp port vc p)).trans ha

end

/-! ### The end of a collective (R263) -/

theorem execCollComplete_eq (s : State) {vc : Nat} (hv : vc < 16) : exec (.collComplete vc) s = .next (s.collComplete vc) :=
  if_neg (by omega)

theorem State.collComplete_none {s : State} {vc : Nat} (h : s.collOn vc = none) : s.collComplete vc = s := by
  unfold State.collComplete
  rw [h]

theorem State.collComplete_open {s : State} {vc : Nat} {x : CollS} (h : s.collOn vc = some x) (hc : x.complete = false) :
    s.collComplete vc = s := by
  unfold State.collComplete
  rw [h]
  exact if_pos (by simp [hc])

/-- A channel's collective taken off it. -/
def State.offChannel (s : State) (vc : Nat) : State :=
  { s with coll := { s.coll with running := s.coll.running.filter (fun y => y.vc != vc) } }

/-- With no descriptor waiting for its channel, a complete collective whose blocks settle nothing leaves it and is done. -/
theorem State.collComplete_ends {s : State} {vc : Nat} {x : CollS} (h : s.collOn vc = some x) (hc : x.complete = true)
    (hs : cAgreed x.desc = false ∨ x.failed = true) (hb : x.bad = false) (hq : ∀ q ∈ s.coll.queue, cVc q.desc ≠ vc) :
    s.collComplete vc = (s.offChannel vc).finish x.desc.num := by
  have hnext (u : State) (hu : u.coll.queue = s.coll.queue) : u.nextColl vc = u := by
    have hnone : u.coll.queue.find? (fun q => cVc q.desc == vc) = none := by
      rw [hu]
      simpa using hq
    unfold State.nextColl
    cases u.coll.queue.length with
    | zero => rfl
    | succ n =>
      unfold State.nextColls
      rw [hnone]
  have hsettled : (cAgreed x.desc && !x.failed) = false := by rcases hs with hs | hs <;> simp [hs]
  unfold State.collComplete
  rw [h]
  simp only [hc, hsettled, hb, Bool.not_true, Bool.false_eq_true, if_false]
  have hqueue : ((s.offChannel vc).finish x.desc.num).coll.queue = s.coll.queue := by
    rw [(s.offChannel vc).finish_passed x.desc.num]
    rfl
  exact hnext _ hqueue

theorem exec_collComplete_ends {s : State} {vc : Nat} {x : CollS} (hv : vc < 16) (h : s.collOn vc = some x) (hc : x.complete = true)
    (hs : cAgreed x.desc = false ∨ x.failed = true) (hb : x.bad = false) (hq : ∀ q ∈ s.coll.queue, cVc q.desc ≠ vc) :
    ∃ t, exec (.collComplete vc) s = .next t ∧ t.collOn vc = none ∧ x.desc.num ∈ t.stp.done
      ∧ (∀ y ∈ s.coll.running, y.vc ≠ vc → y ∈ t.coll.running) ∧ t = { s with coll := t.coll, stp := t.stp, mem := t.mem } := by
  have hpass := (s.offChannel vc).finish_passed x.desc.num
  have hcoll : ((s.offChannel vc).finish x.desc.num).coll = (s.offChannel vc).coll := by rw [hpass]
  refine ⟨_, by rw [execCollComplete_eq s hv, State.collComplete_ends h hc hs hb hq], ?_, State.mem_finish_done _ _, fun y hy hne => ?_, ?_⟩
  · rw [State.collOn_congr hcoll]
    unfold State.collOn State.offChannel
    simp
  · rw [hcoll]
    exact List.mem_filter.mpr ⟨hy, by simpa using hne⟩
  · rw [hpass]
    rfl

end Sys2Proof.Machine
end

section
/-! The traffic between the Stockpots' heads and their regions (R173, R188, R318, R323): what is fetched and written back, and what an
uncorrectable word leaves as it was. -/

namespace Sys2Proof.Machine

/-! ### Runs of memory -/

/-- A run that a write does not touch reads as before, in any form of the memory. -/
theorem Mem.read_write_beside (m : Mem) (a : Nat) (bs : List Byte) (k n : Nat) (h : k + n ≤ a ∨ a + bs.length ≤ k) :
    Mem.read (Mem.write m a bs) k n = Mem.read m k n := by
  unfold Mem.read Mem.write
  congr 1
  have hcells : (Mem.cells a bs).filter (fun c => decide (k ≤ c.1) && decide (c.1 < k + n)) = [] := by
    rw [List.filter_eq_nil_iff]
    intro c hc
    have := Mem.cells_bounds a bs c hc
    simp
    omega
  rw [List.filter_append, List.filter_append, hcells, List.append_nil, List.filter_filter, List.filter_filter]
  rcases h with h | h
  · have hhigh : m.filter (fun c => decide (k ≤ c.1) && decide (c.1 < k + n) && decide (a + bs.length ≤ c.1)) = [] :=
      List.filter_eq_nil_iff.mpr (fun c _ => by simp; omega)
    rw [hhigh, List.append_nil]
    exact List.filter_congr fun c _ => by rw [Bool.eq_iff_iff]; simp; omega
  · have hlow : m.filter (fun c => decide (k ≤ c.1) && decide (c.1 < k + n) && decide (c.1 < a)) = [] :=
      List.filter_eq_nil_iff.mpr (fun c _ => by simp; omega)
    rw [hlow, List.nil_append]
    exact List.filter_congr fun c _ => by rw [Bool.eq_iff_iff]; simp; omega

/-- A run that a memory's cut keeps reads as before. -/
theorem Mem.read_filter (m : Mem) (a n : Nat) (p : Nat × Byte → Bool) (h : ∀ c : Nat × Byte, a ≤ c.1 → c.1 < a + n → p c = true) :
    Mem.read (m.filter p) a n = Mem.read m a n := by
  unfold Mem.read
  rw [List.filter_filter]
  congr 1
  refine List.filter_congr fun c _ => ?_
  by_cases hc : a ≤ c.1 ∧ c.1 < a + n
  · simp [h c hc.1 hc.2]
  · rcases not_and_or.mp hc with hc | hc <;> simp [hc]

/-! ### Errors of the traffic -/

/-- The Stockpots and all memories are as they were. -/
structure State.StashAs (s t : State) : Prop where
  stk : t.stk = s.stk
  store : t.store = s.store

theorem State.StashAs.refl (s : State) : s.StashAs s := ⟨rfl, rfl⟩

theorem State.StashAs.trans {s t u : State} (h : s.StashAs t) (k : t.StashAs u) : s.StashAs u :=
  ⟨k.stk.trans h.stk, k.store.trans h.store⟩

theorem State.Tended.stash {s t : State} (h : s.Tended t) : s.StashAs t := by
  constructor <;> rw [h.only]

theorem State.Charged.stash {s t : State} (h : s.Charged t) : s.StashAs t := h.tended.stash

theorem State.count_stash (s : State) (off n : Nat) : s.StashAs (s.count off n) := ⟨State.count_stk .., State.count_store ..⟩

theorem State.cause_stash (s : State) (c : Nat) : s.StashAs (s.cause c) := ⟨State.cause_stk .., State.cause_store ..⟩

theorem State.quarantineAll_stash (s : State) (l : List Nat) : s.StashAs (s.quarantineAll l) := by
  induction l generalizing s with
  | nil => exact .refl s
  | cons a r ih => exact (s.setArray_charged a _).stash.trans (ih _)

theorem State.moveCore_stash (s : State) (c : Nat) : s.StashAs (s.moveCore c) :=
  .trans (t := s.queueMove c) ⟨rfl, rfl⟩ (State.cause_stash _ _)

theorem State.lose_stash (s : State) : s.StashAs s.lose := by
  unfold State.lose
  extract_lets x s1
  have h1 : s.StashAs s1 := ⟨rfl, rfl⟩
  split
  · exact h1
  · exact h1.trans ⟨State.setState_stk .., State.setState_store ..⟩

theorem State.permanent_stash (s : State) (cls unit : Nat) : s.StashAs (s.permanent cls unit) := by
  unfold State.permanent
  split
  · exact s.moveCore_stash _
  split
  · exact s.moveCore_stash _
  split
  · exact (s.setArray_charged _ _).stash
  split
  · exact s.quarantineAll_stash _
  split
  · split
    · split
      · exact s.moveCore_stash _
      · exact s.lose_stash
    · exact ⟨rfl, rfl⟩
  split
  · exact ⟨rfl, rfl⟩
  split
  · exact ⟨rfl, rfl⟩
  · exact .refl s

theorem State.chargeErr_stash (s : State) (cls unit code : Nat) (dt : Bool) : s.StashAs (s.chargeErr cls unit code dt) := by
  obtain ⟨u, hu, -, h | h⟩ := s.chargeErr_cases cls unit code dt
  · exact h ▸ hu.stash
  · exact h ▸ hu.stash.trans (u.permanent_stash _ _)

theorem State.storeCes_stash (s : State) (core : Nat) (l : List Nat) : s.StashAs (s.storeCes core l) := by
  induction l generalizing s with
  | nil => exact .refl s
  | cons a r ih => exact ((s.count_stash _ _).trans (State.chargeCe_charged _ _ _ _).stash).trans (ih _)

theorem State.storeUe_stash (s : State) (core : Nat) (a : Option Nat) : s.StashAs (s.storeUe core a) := by
  unfold State.storeUe
  split
  · exact .refl s
  · rename_i a
    extract_lets u loc s1 s2
    have h2 : s.StashAs s2 :=
      ((s.count_stash _ _).trans (State.raiseU_logged _ _ _ _).tended.stash).trans (State.chargeErr_stash _ _ _ _ _)
    split
    · exact h2.trans (State.cause_stash _ _)
    · exact h2

theorem State.memCe_stash (s : State) (l : List (Nat × Nat)) : s.StashAs (s.memCe l) := by
  induction l generalizing s with
  | nil => exact .refl s
  | cons x r ih => exact ((s.count_stash _ _).trans (State.chargeCe_charged _ _ _ _).stash).trans (ih _)

theorem State.meetUe_stash (s : State) (core : Nat) (ue : List (Nat × Nat)) : s.StashAs (s.meetUe core ue) := by
  unfold State.meetUe
  dsimp only
  split
  · exact (s.memUe_tended _ _ _).stash.trans (State.cause_stash _ _)
  · exact (s.memUe_tended _ _ _).stash

/-- What the store and the memory report of the traffic moves no byte. -/
theorem State.stkErrors_stash (s : State) (c : Nat) (e : Env) (ue : List (Nat × Nat)) : s.StashAs (s.stkErrors c e ue) :=
  (((s.storeCes_stash _ _).trans (State.storeUe_stash _ _ _)).trans (State.memCe_stash _ _)).trans (State.meetUe_stash _ _ _)

theorem State.stkErrors_calm (s : State) (c : Nat) : s.stkErrors c calm [] = s := by
  unfold State.stkErrors
  rw [State.meetUe_nil]
  rfl

theorem State.stkLoads_only (s : State) (r : Nat) (runs : List (Nat × Nat)) : s.stkLoads r runs = { s with ctr := (s.stkLoads r runs).ctr } := by
  induction runs generalizing s with
  | nil => rfl
  | cons x l ih =>
    unfold State.stkLoads
    rw [ih, s.account_only]

/-! ### Runs of a region that wraps -/

/-- The bytes of a range's runs together. -/
theorem wrapRuns_total (size off n : Nat) : ((wrapRuns size off n).map (·.2)).sum ≤ n := by
  unfold wrapRuns
  split
  · simp
  · dsimp only
    split
    · simp
    · simp

/-- A range in a region that is not smaller lies there in one run, or in two, the second of which ends before the first begins. -/
theorem wrapRuns_cases {size n : Nat} (off : Nat) (hn : n ≤ size) : (n = 0 ∧ wrapRuns size off n = []) ∨ wrapRuns size off n = [(off % size, n)]
    ∨ ∃ m, m ≤ n ∧ n - m ≤ off % size ∧ wrapRuns size off n = [(off % size, m), (0, n - m)] := by
  unfold wrapRuns
  by_cases hs : size = 0
  · exact .inl ⟨by omega, if_pos hs⟩
  · rw [if_neg hs]
    dsimp only
    have := Nat.mod_lt off (Nat.pos_of_ne_zero hs)
    split
    · exact .inr (.inl rfl)
    · exact .inr (.inr ⟨min n (size - off % size), by omega, by omega, rfl⟩)

theorem pieces_total (fuel off n : Nat) : ((pieces fuel off n).map (fun p => p.2.2)).sum ≤ n := by
  induction fuel generalizing off n with
  | zero => simp [pieces]
  | succ k ih =>
    unfold pieces
    split
    · simp
    · have := ih (off + min n (2048 - off % 2048)) (n - min n (2048 - off % 2048))
      simp only [List.map_cons, List.sum_cons]
      omega

theorem State.regRead_length_le (s : State) (attempt : Bool) (r off n : Nat) : (s.regRead attempt r off n).length ≤ n := by
  unfold State.regRead
  split
  · rw [List.length_flatMap]
    simpa [piecesOf] using pieces_total (n / 2048 + 2) off n
  · split <;> simp

theorem State.stkStored_length_le (s : State) (c off n : Nat) : (s.stkStored c off n).length ≤ n := by
  unfold State.stkStored
  split
  · refine le_trans ?_ (wrapRuns_total (s.stkSize c) off n)
    rw [List.length_flatMap]
    exact List.sum_le_sum fun x _ => s.regRead_length_le _ _ _ _
  · simp

theorem State.stkOf_setStk (s : State) (c j : Nat) (k : Stk) : (s.setStk c k).stkOf j = if j = c then k else s.stkOf j := by
  unfold State.stkOf State.setStk
  split
  · subst_vars
    exact Tab.get_put_same _ _ _ _
  · exact Tab.get_put_other _ _ _ _ _ ‹_›

/-! ### Fetches -/

/-- What is fetched from the region stands in the head. -/
theorem State.fetchStk_spec (s : State) (c : Nat) (k : Stk) {n : Nat} (hn : n ≤ k.low) :
    (s.fetchStk c k (k.low - n)).low = k.low - n ∧ (s.fetchStk c k (k.low - n)).frames = k.frames
    ∧ (s.fetchStk c k (k.low - n)).wrote = k.wrote ∧ (k.low ≤ k.top →
      Mem.read (s.fetchStk c k (k.low - n)).head (k.low - n) (s.stkStored c (k.low - n) n).length = s.stkStored c (k.low - n) n) := by
  have hlen := s.stkStored_length_le c (k.low - n) n
  unfold State.fetchStk
  split
  · refine ⟨rfl, rfl, rfl, fun ht => ?_⟩
    have hrun : min k.low k.top - (k.low - n) = n := by omega
    rw [hrun]
    refine (Mem.read_filter _ _ _ _ fun b h1 h2 => ?_).trans (Mem.read_write _ _ _)
    have htop : Stk.top { k with low := k.low - n, head := Mem.write k.head (k.low - n) (s.stkStored c (k.low - n) n) } = k.top := rfl
    rw [htop]
    simp
    omega
  · have hzero : n = 0 := by omega
    subst hzero
    refine ⟨rfl, rfl, rfl, fun _ => ?_⟩
    have hnil : s.stkStored c (k.low - 0) 0 = [] := List.eq_nil_of_length_eq_zero (by omega)
    rw [hnil]
    rfl

theorem execPopPrefetch_some {s : State} {c r : Nat} (hc : c < 16) (hr : s.stkRegion c = some r) (bytes : Nat) (e : Env) :
    exec (.popPrefetch c bytes e) s = .next (
      let k := s.stkOf c
      let n := min bytes (k.low - (k.frames.head?.map (·.start)).getD k.low)
      let runs := wrapRuns (s.stkSize c) (k.low - n) n
      let ue := e.mem.ue ++ (s.stkPoison r runs).filter (fun m => !e.mem.ue.contains m)
      let s1 := (s.stkLoads r runs).stkErrors c e ue
      if ue.isEmpty && e.storeUe.isNone then s1.setStk c (s.fetchStk c k (k.low - n)) else s1) := by
  change execPopPrefetch c bytes e s = _
  unfold execPopPrefetch
  rw [if_neg (by omega), hr]

theorem exec_stockpot_none {s : State} {c : Nat} (hc : c < 16) (hr : s.stkRegion c = none) (bytes : Nat) (e : Env) :
    exec (.popPrefetch c bytes e) s = .next s ∧ exec (.stashWriteback c bytes e) s = .next s := by
  constructor
  · change execPopPrefetch c bytes e s = _
    unfold execPopPrefetch
    rw [if_neg (by omega), hr]
  · change execStashWriteback c bytes e s = _
    unfold execStashWriteback
    rw [if_neg (by omega), hr]

/-- Where a word proves uncorrectable nothing is fetched (R173, R323). -/
theorem exec_popPrefetch_fails {s : State} {c r : Nat} (hc : c < 16) (hr : s.stkRegion c = some r) (bytes : Nat) (e : Env) :
    let k := s.stkOf c
    let n := min bytes (k.low - (k.frames.head?.map (·.start)).getD k.low)
    (e.storeUe.isSome = true ∨ e.mem.ue ≠ [] ∨ s.stkPoison r (wrapRuns (s.stkSize c) (k.low - n) n) ≠ []) →
      ∃ t, exec (.popPrefetch c bytes e) s = .next t ∧ t.stk = s.stk ∧ t.store = s.store := by
  intro k n hbad
  refine ⟨_, execPopPrefetch_some hc hr bytes e, ?_⟩
  dsimp only
  generalize hue : s.stkPoison r _ = ue at hbad ⊢
  have hno : ((e.mem.ue ++ ue.filter (fun m => !e.mem.ue.contains m)).isEmpty && e.storeUe.isNone) = false := by
    rcases hbad with h | h | h
    · cases hs : e.storeUe <;> simp_all
    · simp [h]
    · rw [Bool.and_eq_false_iff]
      left
      by_cases hm : e.mem.ue = []
      · simp [hm, h]
      · simp [hm]
  rw [hno, if_neg (by decide)]
  have hstash : s.StashAs (s.stkLoads r (wrapRuns (s.stkSize c) (k.low - n) n)) := by
    constructor <;> rw [State.stkLoads_only]
  exact ⟨(hstash.trans (State.stkErrors_stash _ _ _ _)).stk, (hstash.trans (State.stkErrors_stash _ _ _ _)).store⟩

/-- A fetch brings the bytes below the head into it. -/
theorem exec_popPrefetch_calm {s : State} {c r : Nat} (hc : c < 16) (hr : s.stkRegion c = some r) (bytes : Nat) :
    let k := s.stkOf c
    let n := min bytes (k.low - (k.frames.head?.map (·.start)).getD k.low)
    let bs := s.stkStored c (k.low - n) n
    s.stkPoison r (wrapRuns (s.stkSize c) (k.low - n) n) = [] → ∃ t, exec (.popPrefetch c bytes calm) s = .next t
      ∧ (t.stkOf c).low = k.low - n ∧ (t.stkOf c).frames = k.frames ∧ (t.stkOf c).wrote = k.wrote
      ∧ (k.low ≤ k.top → Mem.read (t.stkOf c).head (k.low - n) bs.length = bs)
      ∧ (∀ j, j ≠ c → t.stkOf j = s.stkOf j) ∧ t = { s with stk := t.stk, ctr := t.ctr } := by
  intro k n bs hclean
  have hn : n ≤ k.low := by omega
  have hexec := execPopPrefetch_some hc hr bytes calm
  dsimp only at hexec
  rw [hclean] at hexec
  have hloads := s.stkLoads_only r (wrapRuns (s.stkSize c) (k.low - n) n)
  change exec (.popPrefetch c bytes calm) s = .next (State.setStk (State.stkErrors (s.stkLoads r (wrapRuns (s.stkSize c) (k.low - n) n)) c calm [])
    c (s.fetchStk c k (k.low - n))) at hexec
  rw [State.stkErrors_calm] at hexec
  generalize s.stkLoads r (wrapRuns (s.stkSize c) (k.low - n) n) = u at hexec hloads
  obtain ⟨hlow, hframes, hwrote, hhead⟩ := s.fetchStk_spec c k hn
  refine ⟨_, hexec, ?_⟩
  rw [State.stkOf_setStk, if_pos rfl]
  refine ⟨hlow, hframes, hwrote, hhead, fun j hj => ?_, ?_⟩
  · rw [State.stkOf_setStk, if_neg hj, hloads]
    rfl
  · rw [hloads]
    rfl

/-! ### Write-backs -/

theorem execStashWriteback_some {s : State} {c r : Nat} (hc : c < 16) (hr : s.stkRegion c = some r) (bytes : Nat) (e : Env) :
    exec (.stashWriteback c bytes e) s = .next (
      let k := s.stkOf c
      let n := s.writebackLen c bytes
      let s0 := s.stkErrors c e e.mem.ue
      let s1 := s0.stkStore r (wrapRuns (s.stkSize c) k.wrote n) (Mem.read k.head k.wrote n)
      if e.storeUe.isSome then s0
      else s1.setStk c (Stk.cut { k with wrote := k.wrote + n, low := max k.low (k.wrote + n) })) := by
  change execStashWriteback c bytes e s = _
  unfold execStashWriteback
  rw [if_neg (by omega), hr]

theorem exec_stashWriteback_fails {s : State} {c r : Nat} (hc : c < 16) (hr : s.stkRegion c = some r) (bytes : Nat) (e : Env)
    (h : e.storeUe.isSome = true) : ∃ t, exec (.stashWriteback c bytes e) s = .next t ∧ t.stk = s.stk ∧ t.store = s.store := by
  refine ⟨_, execStashWriteback_some hc hr bytes e, ?_⟩
  dsimp only
  rw [if_pos h]
  exact ⟨(s.stkErrors_stash _ _ _).stk, (s.stkErrors_stash _ _ _).store⟩

/-- Bytes stored in a region change the regions' bytes and marks, and the counts of frames. -/
theorem State.stkStore_estimated (s : State) (r : Nat) (runs : List (Nat × Nat)) (bs : List Byte) : s.Estimated (s.stkStore r runs bs) := by
  induction runs generalizing s bs with
  | nil => exact .refl s
  | cons x l ih =>
    refine .trans ?_ (ih _ _)
    have hdevs := s.regWrite_devs r x.1 (bs.take x.2)
    refine ⟨?_, fun o h1 h2 => ?_⟩
    · rw [State.account_only, hdevs]
    · rw [State.ctrGet_account _ _ _ _ _ _ h1 h2]
      exact State.ctrGet_of_ctr (by rw [hdevs]) o

theorem State.Estimated.regionKind {s t : State} (h : s.Estimated t) (r : Nat) : t.regionKind r = s.regionKind r := by
  unfold State.regionKind State.region
  rw [h.only]

theorem State.Estimated.stkRegion {s t : State} (h : s.Estimated t) (c : Nat) : t.stkRegion c = s.stkRegion c := by
  unfold State.stkRegion State.cur State.runningRecipe State.recipe
  rw [h.only]

theorem State.Estimated.stkSize {s t : State} (h : s.Estimated t) (c : Nat) : t.stkSize c = s.stkSize c := by
  unfold State.stkSize State.regionBytes State.region
  rw [h.stkRegion, h.only]

theorem Stk.cut_wrote (k : Stk) : k.cut.wrote = k.wrote := rfl

theorem Stk.cut_low (k : Stk) : k.cut.low = k.low := rfl

theorem Stk.cut_frames (k : Stk) : k.cut.frames = k.frames := rfl

theorem State.setStk_stkRegion (s : State) (c j : Nat) (k : Stk) : (s.setStk c k).stkRegion j = s.stkRegion j := rfl

theorem State.setStk_stkSize (s : State) (c j : Nat) (k : Stk) : (s.setStk c k).stkSize j = s.stkSize j := rfl

/-- A Stockpot's region is written in place, and read where it was written. -/
theorem State.regWrite_stockpot {s : State} {r : Nat} (hk : s.regionKind r = 1) (off : Nat) (bs : List Byte) :
    (s.regWrite r off bs).store.gddr = Mem.write s.store.gddr (gkey r off) bs := by
  unfold State.regWrite State.keepOld
  rw [hk]
  rfl

theorem State.regRead_stockpot {s : State} {r : Nat} (hk : s.regionKind r = 1) (off n : Nat) :
    s.regRead true r off n = Mem.read s.store.gddr (gkey r off) n := by
  unfold State.regRead
  rw [hk]
  rfl

theorem State.stkStore_cons {s : State} {r : Nat} (hk : s.regionKind r = 1) (x : Nat × Nat) (l : List (Nat × Nat)) (bs : List Byte) :
    ∃ u : State, s.stkStore r (x :: l) bs = u.stkStore r l (bs.drop x.2) ∧ u.regionKind r = 1
      ∧ u.store.gddr = Mem.write s.store.gddr (gkey r x.1) (bs.take x.2) := by
  have hone : s.Estimated ((s.regWrite r x.1 (bs.take x.2)).account r x.1 x.2 true) := s.stkStore_estimated r [x] bs
  refine ⟨_, rfl, (hone.regionKind r).trans hk, ?_⟩
  rw [State.account_only]
  exact State.regWrite_stockpot hk _ _

/-- What has been written back reads back, in one run or in two. -/
theorem State.stkStore_read {s : State} {r size n : Nat} (off : Nat) (bs : List Byte) (hk : s.regionKind r = 1) (hn : n ≤ size)
    (hb : bs.length = n) : (wrapRuns size off n).flatMap (fun x =>
      Mem.read (s.stkStore r (wrapRuns size off n) bs).store.gddr (gkey r x.1) x.2) = bs := by
  rcases wrapRuns_cases off hn with ⟨hz, h⟩ | h | ⟨m, hm, hlow, h⟩
  · rw [h]
    exact (List.eq_nil_of_length_eq_zero (by omega)).symm
  · obtain ⟨u, hu, -, hw⟩ := State.stkStore_cons hk (off % size, n) [] bs
    rw [h, hu]
    unfold State.stkStore
    rw [hw, List.take_of_length_le (by omega)]
    simpa [hb] using Mem.read_write s.store.gddr (gkey r (off % size)) bs
  · obtain ⟨u, hu, hku, hw⟩ := State.stkStore_cons hk (off % size, m) [(0, n - m)] bs
    obtain ⟨v, hv, -, hw'⟩ := State.stkStore_cons hku (0, n - m) [] (bs.drop m)
    rw [h, hu, hv]
    unfold State.stkStore
    have htake : (bs.take m).length = m := by simp; omega
    have hrest : (bs.drop m).length = n - m := by simp; omega
    rw [List.take_of_length_le (Nat.le_of_eq hrest)] at hw'
    dsimp only at hw hw'
    have hfirst := Mem.read_write s.store.gddr (gkey r (off % size)) (bs.take m)
    have hsecond := Mem.read_write u.store.gddr (gkey r 0) (bs.drop m)
    rw [htake] at hfirst
    rw [hrest] at hsecond
    simp only [List.flatMap_cons, List.flatMap_nil, List.append_nil]
    rw [hw', hsecond, Mem.read_write_beside _ _ _ _ _ (by unfold gkey; omega), hw, hfirst, List.take_append_drop]

/-- A write-back takes the oldest bytes of the head to the region. -/
theorem exec_stashWriteback_calm {s : State} {c r : Nat} (hc : c < 16) (hr : s.stkRegion c = some r) (bytes : Nat) :
    let k := s.stkOf c
    let n := s.writebackLen c bytes
    ∃ t, exec (.stashWriteback c bytes calm) s = .next t ∧ (t.stkOf c).wrote = k.wrote + n ∧ (t.stkOf c).low = max k.low (k.wrote + n)
      ∧ (t.stkOf c).frames = k.frames ∧ (∀ j, j ≠ c → t.stkOf j = s.stkOf j)
      ∧ (s.regionKind r = 1 → n ≤ s.stkSize c → t.stkStored c k.wrote n = Mem.read k.head k.wrote n)
      ∧ t = { s with stk := t.stk, ctr := t.ctr, store := t.store, mem := t.mem } := by
  intro k n
  have hexec := execStashWriteback_some hc hr bytes calm
  rw [show calm.storeUe.isSome = false from rfl, show calm.mem.ue = [] from rfl, State.stkErrors_calm] at hexec
  simp only [Bool.false_eq_true, if_false] at hexec
  have hstored := s.stkStore_estimated r (wrapRuns (s.stkSize c) k.wrote n) (Mem.read k.head k.wrote n)
  have hback : s.regionKind r = 1 → n ≤ s.stkSize c → _ := fun hk hn =>
    State.stkStore_read k.wrote (Mem.read k.head k.wrote n) hk hn (Mem.read_length _ _ _)
  generalize s.stkStore r (wrapRuns (s.stkSize c) k.wrote n) (Mem.read k.head k.wrote n) = u at hexec hstored hback
  refine ⟨_, hexec, ?_⟩
  rw [State.stkOf_setStk, if_pos rfl]
  refine ⟨Stk.cut_wrote _, Stk.cut_low _, Stk.cut_frames _, fun j hj => ?_, fun hk hn => ?_, ?_⟩
  · rw [State.stkOf_setStk, if_neg hj, hstored.only]
    rfl
  · unfold State.stkStored
    rw [State.setStk_stkRegion, State.setStk_stkSize, hstored.stkRegion, hstored.stkSize, hr]
    refine Eq.trans ?_ (hback hk hn)
    refine List.flatMap_congr fun x _ => ?_
    exact State.regRead_stockpot (s := u.setStk c _) ((hstored.regionKind r).trans hk) _ _
  · rw [hstored.only]
    rfl

/-! ### O49 -/

/-- Settles O49: the packets by what their channel holds (`State.Owned`), the traffic by the runs of its region. -/
theorem collectivesTakePacketsAndEnd : Obligations.CollectivesTakePacketsAndEnd := by
  unfold Obligations.CollectivesTakePacketsAndEnd
  intro s
  refine ⟨fun d ht hfree hg => ?_, fun port vc p o hp hv => ⟨exec_collPacket_stale o hp hv, exec_collPacket_foreign o hp hv,
    fun hb hj => ⟨fun d => exec_collPacket_early o hp hv hb hj, fun x hx hd => ⟨fun cause hm => ?_, fun hm hf => ?_⟩⟩⟩, fun vc hv => ?_,
    fun c bytes hc => ⟨fun e hr => exec_stockpot_none hc hr bytes e, fun r hr => ?_⟩⟩
  · simp only [List.forall_mem_cons, List.not_mem_nil, false_imp_iff, implies_true, and_true]
    exact ⟨exec_collective_unserved ht hfree hg rfl, exec_collective_unserved ht hfree hg rfl, exec_collective_unserved ht hfree hg rfl,
      exec_collective_unserved ht hfree hg rfl, exec_collective_unserved ht hfree hg rfl⟩
  · exact exec_collPacket_malformed o hp hv hb hj hx hd hm
  · have h : s.Owned port vc p x := ⟨fun o => exec_collPacket_own o hp hv hb hj hx hd, hx, hd, hm, hf⟩
    refine ⟨?_, ?_, ?_, ?_, ?_, ?_⟩
    · rintro rfl h1 hk
      exact h.gathers h1 hk
    · rintro rfl h1 hk hs hmode hfmt hmem i ha
      exact h.writes h1 hk hs hmode hfmt hmem ha
    · rintro rfl h0 hk hr
      exact h.passesOn h0 hk hr
    · rintro rfl h0 hred hr hA hB hnone hnew
      exact h.holds h0 hred hr hA hB hnone hnew
    · rintro r rfl hdis hcon hn
      exact h.asks hdis hcon hn
    · rintro r rfl hdis hcon hn
      exact h.givesUp hdis hcon hn
  · refine ⟨fun h => ?_, fun x h hopen => ?_, fun x => exec_collComplete_ends hv⟩
    · rw [execCollComplete_eq s hv, State.collComplete_none h]
    · rw [execCollComplete_eq s hv, State.collComplete_open h hopen]
  · exact ⟨⟨exec_popPrefetch_fails hc hr bytes, exec_popPrefetch_calm hc hr bytes⟩,
      exec_stashWriteback_fails hc hr bytes, exec_stashWriteback_calm hc hr bytes⟩

end Sys2Proof.Machine
end

section
/-! Records of the Stockpot as bytes (R186): what a header says reads back, and so do the units of its payload, elided or not. -/

namespace Sys2Proof.Machine

/-! ### Little-endian words read back -/

theorem leBytes_length (n v : Nat) : (leBytes n v).length = n := by
  induction n generalizing v with
  | zero => rfl
  | succ n ih => rw [leBytes, List.length_cons, ih]

theorem leNat_leBytes (n v : Nat) : leNat (leBytes n v) = v % 256 ^ n := by
  induction n generalizing v with
  | zero => exact (Nat.mod_one v).symm
  | succ n ih =>
    have hcons : leNat (leBytes (n + 1) v) = v % 256 + 256 * leNat (leBytes n (v / 256)) := by simp [leBytes, leNat]
    rw [hcons, ih, Nat.pow_succ', Nat.mod_mul]

theorem leWords_wordBytes {n : Nat} {ws : List Word} (bs : List Byte) (h : n ≤ ws.length) :
    leWords n (wordBytes ws ++ bs) = ws.take n := by
  induction n generalizing ws with
  | zero => rfl
  | succ n ih =>
    cases ws with
    | nil => simp at h
    | cons w r =>
      have hlen : (leBytes 4 w.toNat).length = 4 := leBytes_length _ _
      have hbytes : wordBytes (w :: r) ++ bs = leBytes 4 w.toNat ++ (wordBytes r ++ bs) := by simp [wordBytes]
      have hword : BitVec.ofNat 32 (leNat (leBytes 4 w.toNat)) = w := by
        rw [leNat_leBytes, Nat.mod_eq_of_lt (show w.toNat < 256 ^ 4 from w.isLt), BitVec.ofNat_toNat, BitVec.setWidth_eq]
      unfold leWords
      rw [hbytes, List.take_left' hlen, List.drop_left' hlen, hword, ih (Nat.le_of_succ_le_succ h), List.take_succ_cons]

theorem wordBytes_length (ws : List Word) : (wordBytes ws).length = 4 * ws.length := by
  unfold wordBytes
  rw [List.length_flatMap]
  simp [leBytes_length, Nat.mul_comm]

/-! ### Packed bits read back -/

/-- A list of bits, each 0 or 1. -/
abbrev isBits (cs : List Nat) : Prop := ∀ c ∈ cs, c < 2

/-- The first k bits of packed flags are the flags, then zeros. -/
theorem packByte_bits (k : Nat) {cs : List Nat} (h : isBits cs) :
    (List.range k).map (fun i => packByte 1 cs / 2 ^ i % 2) = cs.take k ++ List.replicate (k - cs.length) 0 := by
  induction k generalizing cs with
  | zero => simp
  | succ k ih =>
    rw [List.range_succ_eq_map, List.map_cons, List.map_map]
    cases cs with
    | nil => simp [packByte, List.replicate_succ, Function.comp_def]
    | cons c r =>
      obtain ⟨hc, hr⟩ := List.forall_mem_cons.mp h
      have hshift : (fun i => packByte 1 (c :: r) / 2 ^ i % 2) ∘ Nat.succ = fun i => packByte 1 r / 2 ^ i % 2 := by
        funext i
        have : (c + 2 * packByte 1 r) / 2 = packByte 1 r := by omega
        simp [packByte, Nat.pow_succ', ← Nat.div_div_eq_div_mul, this]
      have hfirst : packByte 1 (c :: r) / 2 ^ 0 % 2 = c := by
        simp [packByte]
        omega
      rw [hshift, ih hr, hfirst]
      simp

theorem byteCodes_packByte {cs : List Nat} (h : isBits cs) :
    byteCodes 1 (BitVec.ofNat 8 (packByte 1 (cs.take 8))) = cs.take 8 ++ List.replicate (8 - cs.length) 0 := by
  have hbits := packByte_bits 8 (cs := cs.take 8) (fun c hc => h c (List.mem_of_mem_take hc))
  rw [List.take_take, Nat.min_self, List.length_take, show 8 - min 8 cs.length = 8 - cs.length by omega] at hbits
  rw [← hbits]
  refine List.map_congr_left fun i hi => ?_
  have hi : i < 8 := List.mem_range.mp hi
  have hbyte : 2 ^ 8 = 2 ^ i * 2 ^ (8 - i) := by rw [← Nat.pow_add, Nat.add_sub_cancel' (le_of_lt hi)]
  have htwo : 2 ∣ 2 ^ (8 - i) := dvd_pow_self 2 (by omega)
  simp only [BitVec.toNat_ofNat, Nat.mul_one, Nat.pow_one]
  rw [hbyte, Nat.mod_mul_right_div_self, Nat.mod_mod_of_dvd _ htwo]

/-- Flags packed into enough bytes are the flags, then zeros. -/
theorem flatMap_byteCodes_packCodes {m : Nat} {cs : List Nat} (h : isBits cs) (hm : cs.length ≤ 8 * m) :
    (packCodes 1 m cs).flatMap (byteCodes 1) = cs ++ List.replicate (8 * m - cs.length) 0 := by
  induction m generalizing cs with
  | zero =>
    have : cs = [] := List.eq_nil_of_length_eq_zero (by omega)
    subst this
    rfl
  | succ m ih =>
    have hstep : packCodes 1 (m + 1) cs = BitVec.ofNat 8 (packByte 1 (cs.take 8)) :: packCodes 1 m (cs.drop 8) := rfl
    rw [hstep, List.flatMap_cons, byteCodes_packByte h,
      ih (cs := cs.drop 8) (fun c hc => h c (List.mem_of_mem_drop hc)) (by rw [List.length_drop]; omega), List.length_drop]
    by_cases hl : 8 ≤ cs.length
    · rw [Nat.sub_eq_zero_of_le hl, List.replicate_zero, List.append_nil, ← List.append_assoc, List.take_append_drop]
      congr 2
      omega
    · rw [List.take_of_length_le (by omega), List.drop_of_length_le (by omega), List.nil_append, List.append_assoc,
        List.replicate_append_replicate]
      congr 2
      omega

theorem packCodes_length (bits n : Nat) (cs : List Nat) : (packCodes bits n cs).length = n := by
  induction n generalizing cs with
  | zero => rfl
  | succ n ih => simp [packCodes, ih]

theorem codesOf_packCodes {m : Nat} {cs : List Nat} (bs : List Byte) (h : isBits cs) (hm : cs.length ≤ 8 * m) :
    codesOf 1 cs.length (packCodes 1 m cs ++ bs) = cs := by
  unfold codesOf
  rw [List.flatMap_append, flatMap_byteCodes_packCodes h hm, List.append_assoc, List.take_left]

/-! ### Units -/

theorem flatten_chunk {α : Type} (k n : Nat) (l : List α) : (chunk k n l).flatten = l.take (k * n) := by
  induction n generalizing l with
  | zero => simp [chunk]
  | succ n ih => rw [chunk, List.flatten_cons, ih, Nat.mul_succ, Nat.add_comm, List.take_add]

theorem chunk_length {α : Type} (k n : Nat) (l : List α) : (chunk k n l).length = n := by
  induction n generalizing l with
  | zero => rfl
  | succ n ih => rw [chunk, List.length_cons, ih]

/-- A list of whole units of 256 bytes. -/
abbrev wholeUnits (us : List (List Byte)) : Prop := ∀ u ∈ us, u.length = 256

theorem wholeUnits_chunk {n : Nat} {l : List Byte} (h : l.length = 256 * n) : wholeUnits (chunk 256 n l) := by
  induction n generalizing l with
  | zero => simp [wholeUnits, chunk]
  | succ n ih =>
    unfold chunk
    refine List.forall_mem_cons.mpr ⟨?_, ih ?_⟩
    · rw [List.length_take]; omega
    · rw [List.length_drop]; omega

theorem wholeUnits.flatten_length {us : List (List Byte)} (h : wholeUnits us) : us.flatten.length = 256 * us.length := by
  induction us with
  | nil => rfl
  | cons u r ih =>
    obtain ⟨hu, hr⟩ := List.forall_mem_cons.mp h
    rw [List.flatten_cons, List.length_append, hu, ih hr, List.length_cons]
    omega

theorem eq_zeros_of_blankUnit {u : List Byte} (hb : blankUnit u = true) : u = List.replicate u.length 0 := by
  unfold blankUnit at hb
  exact List.eq_replicate_iff.mpr ⟨rfl, fun b h => by simpa using List.all_eq_true.mp hb b h⟩

/-- Presence bits and the units that are not blank give all units back (R186). -/
theorem restoreUnits_elided {us : List (List Byte)} (h : wholeUnits us) :
    restoreUnits (us.map (fun u => b2n (!blankUnit u))) (us.filter (fun u => !blankUnit u)).flatten = us.flatten := by
  induction us with
  | nil => rfl
  | cons u r ih =>
    obtain ⟨hu, hr⟩ := List.forall_mem_cons.mp h
    rw [List.map_cons, List.flatten_cons]
    cases hb : blankUnit u with
    | true =>
      have hz := eq_zeros_of_blankUnit hb
      rw [hu] at hz
      rw [List.filter_cons_of_neg (by simp [hb])]
      exact congrArg₂ (· ++ ·) hz.symm (ih hr)
    | false =>
      rw [List.filter_cons_of_pos (by simp [hb]), List.flatten_cons]
      unfold restoreUnits
      rw [if_pos (show b2n (!false) = 1 from rfl), List.take_left' hu, List.drop_left' hu, ih hr]

/-! ### The fields of PUSH and POP (R249) -/

theorem pUnits_lt (d : Desc) : pUnits d < 2 ^ 32 := (Desc.word d 11).isLt

theorem pSlot_lt (d : Desc) : pSlot d < 65536 := Nat.mod_lt _ (by decide)

theorem pFmt_lt (d : Desc) : pFmt d < 16 := Nat.mod_lt _ (by decide)

theorem pKind_lt (d : Desc) : pKind d < 16 := Nat.mod_lt _ (by decide)

/-! ### Records -/

theorem recHeader_length (layer mb kind fmt slot units stored epoch : Nat) (elided : Bool) :
    (recHeader layer mb kind fmt slot units stored epoch elided).length = 64 := by
  unfold recHeader
  rw [wordBytes_length]
  rfl

/-- The header's word 1: kind, format, whether elided, slot. -/
def headWord1 (kind fmt slot : Nat) (elided : Bool) : Word :=
  BitVec.ofNat 32 (kind * 2 ^ 28 + fmt * 2 ^ 24 + b2n elided * 2 ^ 23 + slot)

theorem leWords_recHeader (layer mb kind fmt slot units stored epoch : Nat) (elided : Bool) (bs : List Byte) {n : Nat} (hn : n ≤ 4) :
    leWords n (recHeader layer mb kind fmt slot units stored epoch elided ++ bs)
      = [headWord0 layer mb, headWord1 kind fmt slot elided, wd units, wd stored].take n := by
  unfold recHeader
  rw [leWords_wordBytes]
  · exact List.take_append_of_le_length (l₁ := [headWord0 layer mb, headWord1 kind fmt slot elided, wd units, wd stored]) hn
  · exact le_trans hn (by simp)

theorem b2n_le_one (b : Bool) : b2n b ≤ 1 := by cases b <;> decide

theorem headWord1_kind {kind fmt slot : Nat} (elided : Bool) (hk : kind < 16) (hf : fmt < 16) (hs : slot < 65536) :
    fld (headWord1 kind fmt slot elided) 31 28 = kind := by
  have := b2n_le_one elided
  unfold fld headWord1
  rw [BitVec.toNat_ofNat]
  omega

theorem headWord1_slot (kind fmt : Nat) {slot : Nat} (elided : Bool) (hs : slot < 65536) :
    fld (headWord1 kind fmt slot elided) 15 0 = slot := by
  unfold fld headWord1
  rw [BitVec.toNat_ofNat]
  omega

theorem headWord1_elided (kind fmt : Nat) {slot : Nat} (elided : Bool) (hs : slot < 65536) :
    (headWord1 kind fmt slot elided).getLsbD 23 = elided := by
  have hbit : (kind * 2 ^ 28 + fmt * 2 ^ 24 + b2n elided * 2 ^ 23 + slot) / 2 ^ 23 % 2 = b2n elided := by
    have := b2n_le_one elided
    omega
  unfold headWord1
  rw [BitVec.getLsbD_ofNat, Nat.testBit_eq_decide_div_mod_eq, hbit]
  cases elided <;> rfl

/-- A record's header is the one that a pop of its layer, micro-batch, kind and slot expects (R187). -/
theorem headerOk_recBytes {layer mb kind fmt slot : Nat} (epoch : Nat) (elide : Bool) (us : List (List Byte)) {p : Desc}
    (hl : Desc.layer p = layer) (hm : pMb p = mb) (hk : pKind p = kind) (hs : pSlot p = slot) (hf : fmt < 16) :
    headerOk p (recBytes layer mb kind fmt slot epoch elide us) = true := by
  subst hl hm hk hs
  unfold headerOk recBytes
  dsimp only
  rw [List.append_assoc, leWords_recHeader _ _ _ _ _ _ _ _ _ _ (by decide)]
  simp [headWord1_kind elide (pKind_lt p) hf (pSlot_lt p), headWord1_slot _ _ elide (pSlot_lt p)]

/-- A record's payload is the units it was made of, elided or not (R186). -/
theorem recPayload_recBytes (layer mb kind fmt : Nat) {slot : Nat} (epoch : Nat) (elide : Bool) {us : List (List Byte)}
    (hs : slot < 65536) (hu : wholeUnits us) (hn : us.length < 2 ^ 32) :
    recPayload (recBytes layer mb kind fmt slot epoch elide us) = us.flatten := by
  have hword {n : Nat} (h : n ≤ us.length) : (wd n).toNat = n := by
    unfold wd
    rw [BitVec.toNat_ofNat, Nat.mod_eq_of_lt (by omega)]
  unfold recPayload recBytes
  dsimp only
  rw [List.append_assoc, leWords_recHeader _ _ _ _ _ _ _ _ _ _ (le_refl 4), List.drop_left' (recHeader_length ..)]
  simp only [List.take_succ_cons, List.getD_cons_succ, List.getD_cons_zero, headWord1_elided _ _ elide hs, hword (le_refl _)]
  cases elide with
  | false =>
    rw [if_neg (by decide), if_neg (by decide), if_neg (by decide), List.nil_append, ← hu.flatten_length, List.take_length]
  | true =>
    simp only [if_true]
    have hkept : wholeUnits (us.filter (fun u => !blankUnit u)) := fun u h => hu u (List.mem_of_mem_filter h)
    have hbits : isBits (us.map (fun u => b2n (!blankUnit u))) := by
      intro c hc
      obtain ⟨u, -, rfl⟩ := List.mem_map.mp hc
      exact Nat.lt_succ_of_le (b2n_le_one _)
    have hroom : (us.map (fun u => b2n (!blankUnit u))).length ≤ 8 * bitmapBytes us.length := by
      unfold bitmapBytes cdiv
      rw [List.length_map]
      omega
    have hcodes := codesOf_packCodes (us.filter (fun u => !blankUnit u)).flatten hbits hroom
    rw [List.length_map] at hcodes
    rw [hcodes, List.drop_left' (packCodes_length ..), hword (List.length_filter_le _ _), ← hkept.flatten_length, List.take_length,
      restoreUnits_elided hu]

end Sys2Proof.Machine
end

section
/-! What a PUSH leaves on its Stockpot, and what a POP takes from it (R185 to R188, R249). -/

namespace Sys2Proof.Machine

/-! ### Bytes read from an operand -/

theorem pieces_length (fuel off : Nat) {n : Nat} (h : n = 0 ∨ n + off % 2048 ≤ 2048 * fuel) :
    ((pieces fuel off n).map (fun p => p.2.2)).sum = n := by
  induction fuel generalizing off n with
  | zero =>
    have : n = 0 := by omega
    subst this
    rfl
  | succ k ih =>
    unfold pieces
    split
    · exact Eq.symm ‹_›
    · simp only [List.map_cons, List.sum_cons]
      rw [ih _ (by omega)]
      omega

theorem State.regRead_length (s : State) (attempt : Bool) (r off n : Nat) : (s.regRead attempt r off n).length = n := by
  unfold State.regRead
  split
  · rw [List.length_flatMap]
    simpa [piecesOf] using pieces_length (n / 2048 + 2) off (n := n) (.inr (by omega))
  · split <;> exact Mem.read_length _ _ _

theorem State.opRead_length (s : State) (core : Nat) (o : Opnd) (n : Nat) : (s.opRead core o n).length = n := by
  unfold State.opRead State.coreRead
  split
  · exact s.regRead_length _ _ _ _
  · split <;> exact Mem.read_length _ _ _

/-! ### Stockpots -/

/-- A frame that opens with a record (R185). -/
def StkRec.opens (r : StkRec) (mb step : Nat) : StkFrame :=
  { mb := mb, step := step, start := r.off, recs := [r] }

@[simp] theorem StkRec.opens_mb (r : StkRec) (mb step : Nat) : (r.opens mb step).mb = mb := rfl

/-- What lies on top of a Stockpot after a push that opened a frame: over the frames that were there, none of them the micro-batch's, a frame
of one record, whose bytes the head holds (R185, R188). -/
structure Stk.Tops (k : Stk) (below : List StkFrame) (mb step : Nat) (r : StkRec) (bs : List Byte) : Prop where
  frames : k.frames = below ++ [r.opens mb step]
  new : below.find? (fun f => f.mb == mb) = none
  low : k.low ≤ r.off
  len : r.len = bs.length
  head : Mem.read k.head r.off bs.length = bs

/-- A record of a micro-batch without a frame opens one. -/
theorem Stk.push_opens {k : Stk} {mb : Nat} (step : Nat) (r : StkRec) (bs : List Byte) (h : k.frameOf mb = none) :
    k.push mb step r bs = ({ k with frames := k.frames ++ [r.opens mb step] }).put r.off bs := by
  unfold Stk.push
  cases hl : k.frames.getLast? with
  | none =>
    rw [List.getLast?_eq_none_iff.mp hl]
    rfl
  | some f =>
    have hf : ¬ f.mb = mb := by
      simpa using List.find?_eq_none.mp h f (List.mem_of_getLast? hl)
    dsimp only
    rw [if_neg (fun hm => hf hm.1)]
    rfl

theorem Stk.push_tops {k : Stk} {mb : Nat} (step : Nat) {r : StkRec} {bs : List Byte} (h : k.frameOf mb = none) (hlow : k.low ≤ r.off)
    (hlen : r.len = bs.length) : (k.push mb step r bs).Tops k.frames mb step r bs := by
  rw [Stk.push_opens step r bs h]
  exact ⟨rfl, h, hlow, hlen, Mem.read_write _ _ _⟩

section
variable {k : Stk} {below : List StkFrame} {mb step : Nat} {r : StkRec} {bs : List Byte}

theorem Stk.Tops.top (h : k.Tops below mb step r bs) : k.top = r.off + bs.length := by
  unfold Stk.top
  rw [h.frames, List.getLast?_concat, ← h.len]
  rfl

/-- A pop of the micro-batch takes from the frame on top. -/
theorem Stk.Tops.frameOf (h : k.Tops below mb step r bs) : k.frameOf mb = some (r.opens mb step) := by
  unfold Stk.frameOf
  rw [h.frames, List.find?_append, h.new]
  simp

/-- The pop of its one record frees the frame on top. -/
theorem Stk.Tops.pop_frames (h : k.Tops below mb step r bs) : (k.pop mb).frames = below := by
  have hnew : r.opens mb step ∉ below := fun hin => by simpa using List.find?_eq_none.mp h.new _ hin
  unfold Stk.pop
  rw [h.frameOf]
  change k.frames.erase (r.opens mb step) = below
  rw [h.frames, List.erase_append_right _ hnew]
  simp

end

/-! ### Frames and bytes that an operation leaves as they were -/

/-- STASH_HIGH noted changes of a Stockpot only whether it stands raised. -/
theorem State.noteHigh_stkOf (s : State) (c j : Nat) : ∃ b, (s.noteHigh c).stkOf j = { s.stkOf j with high := b } := by
  have hset (b : Bool) : ∃ b', (s.setStk c { s.stkOf c with high := b }).stkOf j = { s.stkOf j with high := b' } := by
    rw [State.stkOf_setStk]
    split
    · subst_vars
      exact ⟨b, rfl⟩
    · exact ⟨_, rfl⟩
  unfold State.noteHigh
  dsimp only
  split
  · split
    · exact ⟨_, rfl⟩
    · unfold State.stkOf at *
      rw [State.raise_stk]
      exact hset true
  · split
    · exact hset false
    · exact ⟨_, rfl⟩

theorem State.noteHigh_tops {s : State} {c j : Nat} {below : List StkFrame} {mb step : Nat} {r : StkRec}
    {bs : List Byte} (h : (s.stkOf j).Tops below mb step r bs) : ((s.noteHigh c).stkOf j).Tops below mb step r bs := by
  obtain ⟨b, hb⟩ := s.noteHigh_stkOf c j
  rw [hb]
  exact ⟨h.frames, h.new, h.low, h.len, h.head⟩

theorem State.noteHigh_store (s : State) (c : Nat) : (s.noteHigh c).store = s.store := by
  rw [(s.noteHigh_spec c).1]

theorem State.cur_congr {s t : State} (h : t.rcp = s.rcp) : t.cur = s.cur := congrArg (·.getD Recipe.none) (State.runningRecipe_congr h)

theorem State.noteHigh_cur (s : State) (c : Nat) : (s.noteHigh c).cur = s.cur := State.cur_congr (by rw [(s.noteHigh_spec c).1])

theorem State.noteHigh_frames (s : State) (c j : Nat) : ((s.noteHigh c).stkOf j).frames = (s.stkOf j).frames :=
  ((s.noteHigh_spec c).2.2 j).1

theorem State.recomputable_congr {s t : State} (h : t.cur = s.cur) (layer : Nat) : t.recomputable layer = s.recomputable layer := by
  unfold State.recomputable State.segOf
  rw [h]

theorem State.kindOf_congr {s t : State} (h : t.cur = s.cur) (d : Desc) : t.kindOf d = s.kindOf d := by
  unfold State.kindOf State.slotOf
  rw [h]

theorem State.stkOf_congr {s t : State} (h : t.stk = s.stk) (c : Nat) : t.stkOf c = s.stkOf c := by
  unfold State.stkOf
  rw [h]

theorem State.Passed.stkOf {s t : State} (h : s.Passed t) (c : Nat) : t.stkOf c = s.stkOf c := State.stkOf_congr (by rw [h]) c

theorem State.Passed.cur {s t : State} (h : s.Passed t) : t.cur = s.cur := State.cur_congr (by rw [h])

theorem State.costed_stkOf (s : State) (d : Desc) (c : Nat) : (s.costed d).stkOf c = s.stkOf c := State.stkOf_congr (by rw [s.costed_only]) c

theorem State.costed_cur (s : State) (d : Desc) : (s.costed d).cur = s.cur := State.cur_congr (by rw [s.costed_only])

theorem State.costed_opRead (s : State) (d : Desc) (core : Nat) (o : Opnd) (n : Nat) : (s.costed d).opRead core o n = s.opRead core o n := by
  rw [s.costed_only]
  rfl

theorem State.costed_stkSize (s : State) (d : Desc) (c : Nat) : (s.costed d).stkSize c = s.stkSize c := by
  rw [s.costed_only]
  rfl

/-! ### PUSH -/

/-- The units that a PUSH reads (R186). -/
def State.unitsOf (s : State) (d : Desc) : List (List Byte) :=
  chunk 256 (pUnits d) (s.opRead (Desc.home d) (Desc.opA d) (256 * pUnits d))

theorem State.unitsOf_whole (s : State) (d : Desc) : wholeUnits (s.unitsOf d) := wholeUnits_chunk (s.opRead_length _ _ _)

theorem State.unitsOf_flatten (s : State) (d : Desc) :
    (s.unitsOf d).flatten = (s.opRead (Desc.home d) (Desc.opA d) (256 * pUnits d)).take (256 * pUnits d) := flatten_chunk _ _ _

theorem State.unitsOf_length (s : State) (d : Desc) : (s.unitsOf d).length = pUnits d := chunk_length _ _ _

/-- The record of a PUSH with nothing to report holds what the PUSH read, whether its blank units are elided or not (R186). -/
theorem State.pushBytes_payload (s : State) (d : Desc) : recPayload (s.pushBytes d false)
    = (s.opRead (Desc.home d) (Desc.opA d) (256 * pUnits d)).take (256 * pUnits d) := by
  have hcount : (s.unitsOf d).length < 2 ^ 32 := by
    rw [s.unitsOf_length]
    exact pUnits_lt d
  rw [← s.unitsOf_flatten]
  exact recPayload_recBytes _ _ _ _ _ _ (pSlot_lt d) (s.unitsOf_whole d) hcount

/-- Its header is the one that a POP of its layer, micro-batch, kind and slot expects (R187). -/
theorem State.pushBytes_header (s : State) {d p : Desc} (hl : Desc.layer p = Desc.layer d) (hm : pMb p = pMb d) (hk : pKind p = pKind d)
    (hs : pSlot p = pSlot d) : headerOk p (s.pushBytes d false) = true :=
  headerOk_recBytes _ _ _ hl hm hk hs (pFmt_lt d)

/-- A segment that is not re-computable is never thinned: a PUSH of it goes ahead (R190). -/
theorem State.decideThin_lasting {s : State} {layer : Nat} (mb : Nat) (h : s.recomputable layer = false) : s.decideThin mb layer = s := by
  unfold State.decideThin
  exact if_pos (by simp [h])

/-- The Stockpot that a PUSH or POP acts on. -/
def State.stashOf (s : State) (d : Desc) : Stk := s.stkOf (Desc.home d / 8)

/-- The record of a PUSH on its Stockpot. -/
def State.recOf (s : State) (d : Desc) : StkRec :=
  { layer := Desc.layer d, kind := pKind d, slot := pSlot d, off := (s.stashOf d).top, len := (s.pushBytes d false).length }

/-- A PUSH that opens a frame: outside the recompute slots, in a segment that is not re-computable, with room for its record in the region, of a
micro-batch without a frame, on a Stockpot whose head holds its top (R185, R188, R190, R191). -/
structure State.Opens (s : State) (d : Desc) : Prop where
  kind : s.kindOf d ≠ 9
  kept : s.recomputable (Desc.layer d) = false
  room : (s.stashOf d).top + (s.pushBytes d false).length - ((s.stashOf d).frames.head?.map (·.start)).getD (s.stashOf d).top
    ≤ s.stkSize (Desc.home d / 8)
  low : (s.stashOf d).low ≤ (s.stashOf d).top
  new : (s.stashOf d).frameOf (pMb d) = none

/-- Such a PUSH puts its record on its Stockpot. -/
theorem State.Opens.pushOp {s : State} {d : Desc} (h : s.Opens d) : s.pushOp d false =
    (s.setStk (Desc.home d / 8) ((s.stashOf d).push (pMb d) s.stp.step (s.recOf d) (s.pushBytes d false))).noteHigh (Desc.home d / 8) := by
  have hgoes : s.pushes (pMb d) (Desc.layer d) (pKind d) = true := by
    unfold State.pushes
    simp [h.kept]
  unfold State.pushOp
  dsimp only
  rw [State.decideThin_lasting _ h.kept, if_neg h.kind, if_neg (by simp [hgoes])]
  exact if_neg (Nat.not_lt.mpr h.room)

/-- What it leaves: its record on top of its Stockpot, and the stores and the recipe as they were. -/
theorem State.Opens.tops {s : State} {d : Desc} (h : s.Opens d) :
    ((s.pushOp d false).stkOf (Desc.home d / 8)).Tops (s.stashOf d).frames (pMb d) s.stp.step (s.recOf d) (s.pushBytes d false)
      ∧ (s.pushOp d false).store = s.store ∧ (s.pushOp d false).cur = s.cur := by
  rw [h.pushOp]
  refine ⟨State.noteHigh_tops ?_, State.noteHigh_store _ _, State.noteHigh_cur _ _⟩
  rw [State.stkOf_setStk, if_pos rfl]
  exact Stk.push_tops _ h.new h.low rfl

/-! ### POP -/

/-- Bytes that the head holds are read from it alone (R188). -/
theorem State.stkRead_head (s : State) {c off : Nat} (n : Nat) (h : (s.stkOf c).low ≤ off) :
    s.stkRead c off n = Mem.read (s.stkOf c).head off n := by
  have hnone : min n ((s.stkOf c).low - off) = 0 := by omega
  have hnil : s.stkStored c off 0 = [] := List.eq_nil_of_length_eq_zero (Nat.le_zero.mp (s.stkStored_length_le c off 0))
  unfold State.stkRead
  dsimp only
  rw [hnone, hnil, List.nil_append, Nat.add_zero, Nat.sub_zero]

theorem State.poisonIn_zero (s : State) (r off : Nat) : s.poisonIn r off 0 = [] := by
  unfold State.poisonIn
  simp

theorem State.stkPoison_zero (s : State) (r size off : Nat) : s.stkPoison r (wrapRuns size off 0) = [] := by
  have hruns : ∀ x ∈ wrapRuns size off 0, x.2 = 0 := fun x hx =>
    Nat.le_zero.mp (le_trans (List.le_sum_of_mem (List.mem_map_of_mem (f := (·.2)) hx)) (wrapRuns_total size off 0))
  unfold State.stkPoison
  refine List.flatMap_eq_nil_iff.mpr fun x hx => ?_
  rw [hruns x hx]
  exact s.poisonIn_zero _ _

/-- A record that the head holds meets no marked codeword, and only frame costs are counted (R318, R323). -/
theorem State.loadRecord_head (s : State) (d : Desc) {c off : Nat} (n : Nat) (h : (s.stkOf c).low ≤ off) :
    ∃ k, s.loadRecord d c off n = ({ s with ctr := k }, false) := by
  have hnone : min n ((s.stkOf c).low - off) = 0 := by omega
  unfold State.loadRecord State.loadRuns
  split
  · exact ⟨s.ctr, rfl⟩
  · dsimp only
    rw [hnone, State.stkPoison_zero, State.meetUe_nil, State.stkLoads_only]
    exact ⟨_, rfl⟩

/-- A segment that is not re-computable has every record on the Stockpot (R190). -/
theorem State.popIdle_lasting {s : State} {d : Desc} (inst : Nat) (h : s.recomputable (Desc.layer d) = false) : s.popIdle d inst = false := by
  unfold State.popIdle
  rw [h, Bool.false_and]

theorem State.settleStk_frames (s : State) (c : Nat) (k : Stk) : ((s.settleStk c k).stkOf c).frames = k.frames := by
  unfold State.settleStk State.fetchStk
  dsimp only
  rw [State.stkOf_setStk, if_pos rfl]
  split <;> rfl

theorem State.nextPart_only (s : State) (mb : Nat) : ∃ l, s.nextPart mb = { s with stp := { s.stp with splits := l } } := by
  unfold State.nextPart
  split
  · exact ⟨s.stp.splits, rfl⟩
  · exact ⟨_, rfl⟩

theorem State.noteRecomp_only (s : State) (inst seg : Nat) :
    ∃ c l, s.noteRecomp inst seg = { s with ctr := c, stp := { s.stp with raised := l } } := by
  unfold State.noteRecomp
  dsimp only
  split
  · exact ⟨s.ctr, s.stp.raised, rfl⟩
  · rw [State.count_only]
    exact ⟨_, _, rfl⟩

/-- A frame's record gone, and what is noted with it: the stores stay, and the frames are those given (R188, R202). -/
theorem State.popped_spec (s : State) (c : Nat) (k : Stk) (mb inst seg kind : Nat) :
    let t := ((s.settleStk c k).noteHigh c).nextPart mb
    let u := if kind = 3 then t.noteRecomp inst seg else t
    u.store = s.store ∧ (u.stkOf c).frames = k.frames := by
  intro t u
  obtain ⟨l, hl⟩ := ((s.settleStk c k).noteHigh c).nextPart_only mb
  have ht : t.store = s.store ∧ (t.stkOf c).frames = k.frames := by
    unfold t
    rw [hl]
    exact ⟨State.noteHigh_store _ _, (State.noteHigh_frames _ _ _).trans (s.settleStk_frames c k)⟩
  unfold u
  split
  · obtain ⟨_, _, hn⟩ := t.noteRecomp_only inst seg
    rw [hn]
    exact ht
  · exact ht

/-- A POP of the record on top: what the record holds is written to D, and the frame goes. -/
theorem State.popOp_tops {s : State} {d : Desc} {below : List StkFrame} {step : Nat} {r : StkRec} {bs : List Byte}
    (htop : (s.stkOf (Desc.home d / 8)).Tops below (pMb d) step r bs) (hr : s.recomputable (Desc.layer d) = false) (hok : headerOk d bs = true)
    (hm : (Desc.opD d).mem = false) :
    (s.popOp d).store = (s.opWrite (Desc.home d) (Desc.opD d) ((recPayload bs).take (256 * pUnits d))).store
      ∧ ((s.popOp d).stkOf (Desc.home d / 8)).frames = below := by
  obtain ⟨k, hload⟩ := s.loadRecord_head d r.len htop.low
  have hread : s.stkRead (Desc.home d / 8) r.off r.len = bs := by rw [s.stkRead_head _ htop.low, htop.len, htop.head]
  have hrec : (some (r.opens (pMb d) step)).bind (fun f => f.recs.head?) = some r := rfl
  unfold State.popOp
  dsimp only
  rw [State.popIdle_lasting _ hr, if_neg Bool.false_ne_true, htop.frameOf, hrec]
  dsimp only
  rw [hread, hload, hok, if_neg (by decide), Bool.false_and, if_neg Bool.false_ne_true]
  have hput := State.opWrite_put { s with ctr := k } (Desc.home d) (Desc.opD d) ((recPayload bs).take (256 * pUnits d))
  have hstore := State.opWrite_congr (s := s) (t := { s with ctr := k }) rfl (Desc.home d) ((recPayload bs).take (256 * pUnits d)) hm
  generalize State.opWrite { s with ctr := k } _ _ _ = w at hput hstore
  have hstk : w.stkOf (Desc.home d / 8) = s.stkOf (Desc.home d / 8) := State.stkOf_congr (by rw [hput]) _
  obtain ⟨hs, hf⟩ := w.popped_spec (Desc.home d / 8) ((w.stkOf (Desc.home d / 8)).pop (pMb d)) (pMb d) (s.popInst d)
    (s.segOf (Desc.layer d)) (pKind d)
  exact ⟨hs.trans hstore, hf.trans (by rw [hstk, htop.pop_frames])⟩

/-! ### The commands -/

/-- A PUSH that the state takes and that opens a frame leaves its record on top of its Stockpot, and the stores and the recipe as they were. -/
theorem exec_push_tops {s : State} {d : Desc} (ht : s.takes d) (ho : Desc.opcode d = 0x50) (h : (s.costed d).Opens d) :
    ∃ t, exec (.push d calm) s = .next t ∧ d.num ∈ t.stp.done ∧ t.store = s.store ∧ t.cur = s.cur
      ∧ (t.stkOf (Desc.home d / 8)).Tops ((s.costed d).stashOf d).frames (pMb d) (s.costed d).stp.step ((s.costed d).recOf d)
        ((s.costed d).pushBytes d false) := by
  obtain ⟨htops, hstore, hcur⟩ := h.tops
  have hcosts : (s.costed d).store = s.store := s.accountExts_store _
  have hend := State.finish_passed ((s.costed d).pushOp d false) d.num
  exact ⟨_, exec_takes ht rfl (State.pushOp_calm s d) ho, State.mem_finish_done _ _, hend.store.trans (hstore.trans hcosts),
    hend.cur.trans (hcur.trans (s.costed_cur d)), (hend.stkOf _).symm ▸ htops⟩

/-- What a POP that the state takes gives back of the record on top. -/
theorem exec_pop_tops {s : State} {d : Desc} {below : List StkFrame} {step : Nat} {r : StkRec} {bs : List Byte} (ht : s.takes d)
    (ho : Desc.opcode d = 0x51) (htop : (s.stkOf (Desc.home d / 8)).Tops below (pMb d) step r bs) (hr : s.recomputable (Desc.layer d) = false)
    (hok : headerOk d bs = true) (hm : (Desc.opD d).mem = false) (ha : (Desc.opD d).addr < localBytes) :
    ∃ t, exec (.pop d calm) s = .next t ∧ (t.stkOf (Desc.home d / 8)).frames = below
      ∧ s.stored t (Desc.localAt d) ((recPayload bs).take (256 * pUnits d)) := by
  have hcosts : (s.costed d).store = s.store := s.accountExts_store _
  obtain ⟨hstore, hframes⟩ := State.popOp_tops (s := s.costed d) (d := d) (by rwa [s.costed_stkOf])
    (by rwa [State.recomputable_congr (s.costed_cur d)]) hok hm
  have hend := State.finish_passed ((s.costed d).popOp d) d.num
  refine ⟨_, exec_takes ht rfl (State.count_zero _ _) ho, ?_, ?_⟩
  · rw [hend.stkOf, hframes]
  · exact State.stored_congr ((s.costed d).opWrite_stored (Desc.home d) _ hm ha) hcosts.symm (hend.store.trans hstore)

/-! ### O48 -/

/-- Settles O48: the record that a PUSH leaves on top (`Stk.Tops`) is the one that the POP takes, and its payload is the units it was made of. -/
theorem popsGiveBackWhatWasPushed : Obligations.PopsGiveBackWhatWasPushed := by
  unfold Obligations.PopsGiveBackWhatWasPushed
  intro s d p ht ho hk hr c k bs hfit hlow hnew hop hc hmb hlayer hkind hslot hunits
  have hstash : (s.costed d).stashOf d = k := s.costed_stkOf d c
  have hopens : (s.costed d).Opens d := by
    refine ⟨?_, ?_, ?_, ?_, ?_⟩
    · rwa [State.kindOf_congr (s.costed_cur d)]
    · rwa [State.recomputable_congr (s.costed_cur d)]
    · rwa [hstash, State.costed_stkSize]
    · rwa [hstash]
    · rwa [hstash]
  obtain ⟨t, hexec, hdone, hstore, hcur, htops⟩ := exec_push_tops ht ho hopens
  rw [hstash] at htops
  refine ⟨t, hexec, ?_, hstore, hdone, fun htp hm ha => ?_⟩
  · rw [htops.top, ← hstash]
    rfl
  · have hkept : t.recomputable (Desc.layer p) = false := by rw [hlayer, State.recomputable_congr hcur, hr]
    obtain ⟨v, hpop, hframes, hput⟩ := exec_pop_tops htp hop (by rw [hc, hmb]; exact htops) hkept
      ((s.costed d).pushBytes_header hlayer hmb hkind hslot) hm ha
    refine ⟨v, hpop, ?_, ?_⟩
    · unfold Stk.frameOf
      rw [← hc, hframes]
      exact hnew
    · rw [State.pushBytes_payload, State.costed_opRead, hunits, List.take_take, Nat.min_self] at hput
      exact State.stored_congr hput hstore.symm rfl

end Sys2Proof.Machine
end

section
/-! Recipe tickets (R254, R255, R350, R355): what a load takes leaves the mailbox's tickets, and so each of these tickets ends in its own
completion, or stays in flight for the step boundary. -/

namespace Sys2Proof.Machine

/-! ### The regions of a recipe and the mailbox's tickets -/

theorem State.blankRegions_hif (s : State) (l : List RegionEnt) : (s.blankRegions l).hif = s.hif := by
  induction l generalizing s with
  | nil => rfl
  | cons e l ih =>
    unfold State.blankRegions
    rw [ih]
    split <;> rfl

theorem State.takePoison_hif (s : State) (r : Nat) : (s.takePoison r).hif = s.hif := by
  unfold State.takePoison
  split <;> rfl

theorem State.takePoisons_hif (s : State) (l : List Nat) : (s.takePoisons l).hif = s.hif := by
  induction l generalizing s with
  | nil => rfl
  | cons r l ih => exact (ih _).trans (s.takePoison_hif r)

theorem State.commitWriteAt_hif (s : State) (r : Nat) (ps : List (Nat × Nat × Nat)) (bs : List Byte) :
    (s.commitWriteAt r ps bs).hif = s.hif := by
  induction ps generalizing s bs with
  | nil => rfl
  | cons p ps ih => exact (ih _ _).trans (State.rawWrite_hif _ _ _ _)

theorem State.regWriteCommitted_hif (s : State) (r off : Nat) (bs : List Byte) : (s.regWriteCommitted r off bs).hif = s.hif := by
  unfold State.regWriteCommitted
  split
  · exact s.commitWriteAt_hif _ _ _
  · exact s.rawWrite_hif _ _ _

theorem State.copyConsts_hif (s : State) (l : List ConstBlock) : (s.copyConsts l).hif = s.hif := by
  induction l generalizing s with
  | nil => rfl
  | cons c l ih =>
    unfold State.copyConsts
    rw [ih, State.account_only]
    exact s.regWriteCommitted_hif _ _ _

theorem State.takeRegions_hif (s : State) (bs : List Byte) (r : Recipe) : (s.takeRegions bs r).hif = s.hif := by
  unfold State.takeRegions
  dsimp only
  rw [State.copyConsts_hif, State.takePoisons_hif]
  split <;> exact s.blankRegions_hif _

/-- A device that is no longer degraded may become READY; the mailbox's tickets stay as they are (R24). -/
theorem State.leaveDegraded_idle (s : State) (r : Recipe) (hi : s.hif.Idle) : (s.leaveDegraded r).hif.Idle := by
  unfold State.leaveDegraded
  split
  · dsimp only
    split
    · exact State.setState_idle _ _ hi
    · exact hi
  · exact hi

theorem State.takeRecipe_idle (s : State) (bs : List Byte) (h : Nat) (hi : s.hif.Idle) : (s.takeRecipe bs h).hif.Idle :=
  State.leaveDegraded_idle _ _ (by rw [← s.takeRegions_hif bs (recipeOf bs)] at hi; exact hi)

theorem State.startRecipe_idle (s : State) (h first : Nat) (hi : s.hif.Idle) : (s.startRecipe h first).hif.Idle := by
  obtain ⟨-, -, -, -, hwait, hdel, hbusy⟩ := s.startRecipe_spec h first
  exact ⟨hwait.trans hi.waits, hdel.trans hi.deletes, hbusy.trans hi.runs⟩

/-- An event raised and counted leaves the tickets. -/
theorem State.raise_count_idle (s : State) (code off n : Nat) (l : List Word) (hi : s.hif.Idle) :
    ((s.raise code l).count off n).hif.Idle := by
  rw [State.count_hif]
  exact (s.raise_logged code l).hif.idle hi

/-! ### What these tickets look at, as the ticket's own rail changes -/

theorem State.recipe_congr {s u : State} (h : u.rcp = s.rcp) (n : Nat) : u.recipe n = s.recipe n :=
  congrArg (fun x : Rcp => Tab.find x.slots n) h

theorem State.freeSlot_congr {s u : State} (h : u.rcp = s.rcp) : u.freeSlot = s.freeSlot := by
  unfold State.freeSlot
  simp only [State.recipe_congr h]

theorem State.admits_checkRecipe (s : State) (op : Half) (k : Ticket) (bs : List Byte) (n : Nat) :
    (s.admits op k).checkRecipe bs n = s.checkRecipe bs n := by
  obtain ⟨rs, hrs⟩ := s.admits_eq op k
  rw [hrs]
  rfl

/-- What a recipe that starts must meet: a STATE that admits it, no place on what is lost, the domain's period, and reports that reach
the master within the gap (R254, R305, R350, log 137). -/
structure State.Starts (s : State) (r : Recipe) : Prop where
  state : s.cannotStart = false
  placed : s.placedOnLost r = false
  period : r.head.beatUs = s.lnk.period
  gap : s.reportNs ≤ r.head.beatUs * r.head.gapPct * 10

theorem State.Starts.admits {s : State} {r : Recipe} (h : s.Starts r) (op : Half) (k : Ticket) : (s.admits op k).Starts r := by
  obtain ⟨rs, hrs⟩ := s.admits_eq op k
  rw [hrs]
  exact ⟨h.state, h.placed, h.period, h.gap⟩

/-! ### The tickets' own effects -/

theorem bufBytes_ok {k : Ticket} {b : List Byte} (h : k.buf = .ok b) (n : Nat) :
    bufBytes k n = some ((b ++ List.replicate (n - b.length) 0).take n) := by
  unfold bufBytes
  rw [h]

/-- RECIPE_LOAD of an image of the buffer's length, case by case of the slot and the checks. -/
theorem State.tkRecipeLoad_ok (u : State) (w : WaitTicket) {bs : List Byte} (hb : bufBytes w.t (bufLen w.t) = some bs)
    (hl : bufLen w.t = leAt bs 8 4) :
    (u.freeSlot = none → u.tkRecipeLoad w = u.complete w 4 [])
    ∧ ∀ h, u.freeSlot = some h →
      (u.checkRecipe bs (bufLen w.t) = none → u.tkRecipeLoad w = (u.takeRecipe bs h).complete w 0 [wd h])
      ∧ ∀ x, u.checkRecipe bs (bufLen w.t) = some x → u.tkRecipeLoad w =
        ((u.raise 0x9101 [wd x.1, wd x.2.1, wd x.2.2]).count cRefused 1).complete w 6 [wd x.1, wd x.2.1, wd x.2.2] := by
  unfold State.tkRecipeLoad
  dsimp only
  rw [hb]
  dsimp only
  rw [if_neg (not_not_intro hl)]
  refine ⟨fun hfree => by rw [hfree]; rfl, fun h hfree => ⟨fun hc => ?_, fun x hc => ?_⟩⟩
  · rw [hfree, hc]
    rfl
  · rw [hfree, hc]
    rfl

theorem State.tkRecipeUnload_ok (u : State) (w : WaitTicket) (hr : (u.recipe (par w.t 0)).isSome = true)
    (hf : u.runningRecipe = none ∨ u.rcp.handle ≠ par w.t 0) :
    u.tkRecipeUnload w = ({ u with rcp := { u.rcp with slots := Tab.del u.rcp.slots (par w.t 0) } }).complete w 0 [] := by
  unfold State.tkRecipeUnload
  dsimp only
  rw [← Option.not_isSome, hr, if_neg (by decide), if_neg]
  · rfl
  · rintro ⟨hsome, hh⟩
    rcases hf with hnone | hne
    · rw [hnone] at hsome
      cases hsome
    · exact hne hh

/-- RECIPE_START of a recipe that may start: at once, or at the step boundary of the one that runs (log 64). -/
theorem State.tkRecipeStart_ok (u : State) (w : WaitTicket) {r : Recipe} (hr : u.recipe (par w.t 0) = some r) (hs : u.Starts r) :
    u.tkRecipeStart w = if u.runningRecipe.isSome then
        ({ u with rcp := { u.rcp with startNext := some (par w.t 0, par w.t 1) } }).busy w
      else (u.startRecipe (par w.t 0) (par w.t 1)).complete w 0 [] := by
  unfold State.tkRecipeStart
  rw [hr]
  dsimp only
  rw [if_neg (by simp [hs.state, hs.placed, ← hs.period, hs.gap])]
  rfl

theorem State.tkRecipeStop_ok (u : State) (w : WaitTicket) (hr : u.runningRecipe.isSome = true) :
    u.tkRecipeStop w = ({ u with rcp := { u.rcp with state := .stopping } }).busy w := by
  unfold State.tkRecipeStop
  rw [← Option.not_isSome, hr]
  rfl

/-- A ticket with nothing beside it whose own effect is a change of the state beside the mailbox, and to wait for the step boundary. -/
theorem State.submit_waits {s u : State} {op : Half} {k : Ticket} {n a : Nat} {q : Bool} (h : TicketOk s op k n a)
    (he : opEntry op = some (n, a, q)) (hu : (s.admits op k).runTicket (plain op k) = u.busy (plain op k)) (hi : u.hif.Idle) :
    s.submit (plain op k) = u.busy (plain op k) :=
  State.submit_runs_on (plain op k) rfl rfl h he hu hi.waits hi.deletes

/-! ### O5 -/

/-- RECIPE_LOAD answers NO_RESOURCE before it checks the image (log 53), REFUSED with what broke its rule, or the recipe's handle. -/
theorem exec_recipeLoad {s : State} {k : Ticket} {b : List Byte} (h : TicketOk s 0x0301 k 0 1) (hb : k.buf = .ok b) :
    let bs := (b ++ List.replicate (bufLen k - b.length) 0).take (bufLen k)
    let u := s.admits 0x0301 k
    bufLen k = leAt bs 8 4 →
    exec (.recipeLoad k) s = .next (match s.freeSlot with
      | none => u.post 0x0301 k 4 []
      | some h => match s.checkRecipe bs (bufLen k) with
        | none => (u.takeRecipe bs h).post 0x0301 k 0 [wd h]
        | some x => ((u.raise 0x9101 [wd x.1, wd x.2.1, wd x.2.2]).count cRefused 1).post 0x0301 k 6
            [wd x.1, wd x.2.1, wd x.2.2]) := by
  intro bs u hl
  have hi : u.hif.Idle := h.free.idle_admits
  obtain ⟨-, hrcp, -⟩ := s.admits_same 0x0301 k
  obtain ⟨hfull, hload⟩ := u.tkRecipeLoad_ok (plain 0x0301 k) (bufBytes_ok hb _) hl
  rw [State.freeSlot_congr hrcp] at hfull hload
  cases hfree : s.freeSlot with
  | none => exact congrArg _ (State.submit_plain (q := true) h rfl (hfull hfree) hi)
  | some n =>
    obtain ⟨htaken, hrefused⟩ := hload n hfree
    rw [s.admits_checkRecipe] at htaken hrefused
    cases hcheck : s.checkRecipe bs (bufLen k) with
    | none => exact congrArg _ (State.submit_plain (q := true) h rfl (htaken hcheck) (u.takeRecipe_idle bs n hi))
    | some x => exact congrArg _ (State.submit_plain (q := true) h rfl (hrefused x hcheck) (u.raise_count_idle _ _ _ _ hi))

/-- RECIPE_START of a recipe that may start waits for the step boundary of the one that runs, and else takes effect at once (log 64). -/
theorem exec_recipeStart {s : State} {k : Ticket} {r : Recipe} (h : TicketOk s 0x0303 k 2 0) (hr : s.recipe (par k 0) = some r)
    (hs : s.Starts r) :
    exec (.recipeStart k) s = .next (if s.runningRecipe.isSome then
        ({ s.admits 0x0303 k with rcp := { s.rcp with startNext := some (par k 0, par k 1) } }).busy (plain 0x0303 k)
      else ((s.admits 0x0303 k).startRecipe (par k 0) (par k 1)).post 0x0303 k 0 []) := by
  obtain ⟨-, hrcp, -⟩ := s.admits_same 0x0303 k
  have hi := h.free.idle_admits
  have hrun := State.tkRecipeStart_ok _ (plain 0x0303 k) ((State.recipe_congr hrcp _).trans hr) (hs.admits 0x0303 k)
  rw [State.runningRecipe_congr hrcp, hrcp] at hrun
  split
  · rename_i hsome
    rw [if_pos hsome] at hrun
    exact congrArg _ (State.submit_waits (q := true) h rfl hrun hi)
  · rename_i hnone
    rw [if_neg hnone] at hrun
    exact congrArg _ (State.submit_plain (q := true) h rfl hrun (State.startRecipe_idle _ _ _ hi))

/-- Settles O5: each ticket's own effect leaves the mailbox idle and ends in its completion, or waits for the step boundary. -/
theorem recipeTicketsAnswer : Obligations.RecipeTicketsAnswer := by
  unfold Obligations.RecipeTicketsAnswer
  intro s k
  refine ⟨fun b h hb => exec_recipeLoad h hb, fun h hr hf => ?_, fun r h hr hn hst hp hper hgap => ?_,
    fun r h hr hn hst hp hper hgap => ?_, fun h hr => ?_⟩
  · obtain ⟨-, hrcp, -⟩ := s.admits_same 0x0302 k
    rw [← State.recipe_congr hrcp] at hr
    rw [← State.runningRecipe_congr hrcp, ← hrcp] at hf
    rw [← hrcp]
    exact congrArg _ (State.submit_plain (q := true) h rfl (State.tkRecipeUnload_ok _ (plain 0x0302 k) hr hf) h.free.idle_admits)
  · rw [exec_recipeStart h hr ⟨hst, hp, hper, hgap⟩, hn]
    rfl
  · rw [exec_recipeStart h hr ⟨hst, hp, hper, hgap⟩, if_pos hn]
    rfl
  · obtain ⟨-, hrcp, -⟩ := s.admits_same 0x0304 k
    rw [← State.runningRecipe_congr hrcp] at hr
    rw [← hrcp]
    exact congrArg _ (State.submit_waits (q := true) h rfl (State.tkRecipeStop_ok _ (plain 0x0304 k) hr) h.free.idle_admits)

end Sys2Proof.Machine
end

section
/-! Packets through the ports (R291, R295, R300): what they leave of a port, and that those which wait are sent or go on waiting. -/

namespace Sys2Proof.Machine

/-! ### One port -/

/-- Packets have passed a port: its blocks, its credits and its buffers are all that has moved, and, where it carries no traffic, its
receive buffers alone. -/
structure Port.Carried (x y : Port) : Prop where
  only : y = { x with sent := y.sent, txSeq := y.txSeq, blk := y.blk, wire := y.wire, plain := y.plain, sealCount := y.sealCount,
                      credit := y.credit, rx := y.rx, returned := y.returned, rr := y.rr }
  idle : x.works = false → y = { x with rx := y.rx, returned := y.returned }

theorem Port.Carried.refl (x : Port) : x.Carried x := ⟨rfl, fun _ => rfl⟩

theorem Port.Carried.works {x y : Port} (h : x.Carried y) : y.works = x.works := by
  rw [h.only]
  rfl

theorem Port.Carried.trans {x y z : Port} (h : x.Carried y) (k : y.Carried z) : x.Carried z := by
  refine ⟨?_, fun hx => ?_⟩
  · have hk := k.only
    rw [h.only] at hk
    exact hk
  · have hk := k.idle (h.works.trans hx)
    rw [h.idle hx] at hk
    exact hk

theorem Port.cutBlocks_only (n : Nat) (x : Port) :
    ∃ blk seq sent wire, Port.cutBlocks n x = { x with blk := blk, txSeq := seq, sent := sent, wire := wire } := by
  induction n generalizing x with
  | zero => exact ⟨_, _, _, _, rfl⟩
  | succ n ih =>
    unfold Port.cutBlocks
    split
    · exact ⟨_, _, _, _, rfl⟩
    · obtain ⟨blk, seq, sent, wire, h⟩ := ih { x with
        blk := x.blk.drop 8192, txSeq := (x.txSeq + 1) % 4096
        sent := x.sent ++ [{ seq := x.txSeq, crc := crc32 (x.blk.take 8192), data := x.blk.take 8192 }]
        wire := x.wire ++ [{ seq := x.txSeq, crc := crc32 (x.blk.take 8192), data := x.blk.take 8192 }] }
      exact ⟨blk, seq, sent, wire, h⟩

theorem Port.sealUnits_only (n : Nat) (key : List Byte) (port : Nat) (x : Port) :
    ∃ plain count blk, Port.sealUnits n key port x = { x with plain := plain, sealCount := count, blk := blk } := by
  induction n generalizing x with
  | zero => exact ⟨_, _, _, rfl⟩
  | succ n ih =>
    unfold Port.sealUnits
    split
    · exact ⟨_, _, _, rfl⟩
    · obtain ⟨plain, count, blk, h⟩ := ih { x with
        plain := x.plain.drop 4096, sealCount := (x.sealCount + 1) % 2 ^ 64
        blk := x.blk ++ Config.aesGcm key (sealNonce port x.sealCount) (x.plain.take 4096) }
      exact ⟨plain, count, blk, h⟩

theorem State.fillBlocks_only (s : State) (port : Nat) (x : Port) (data : List Byte) : ∃ plain count blk seq sent wire,
    s.fillBlocks port x data = { x with plain := plain, sealCount := count, blk := blk, txSeq := seq, sent := sent, wire := wire } := by
  unfold State.fillBlocks
  extract_lets y
  have hy : ∃ plain count blk, y = { x with plain := plain, sealCount := count, blk := blk } := by
    unfold y
    split
    · obtain ⟨plain, count, blk, h⟩ := Port.sealUnits_only _ _ _ _
      exact ⟨plain, count, blk, h⟩
    · exact ⟨_, _, _, rfl⟩
  obtain ⟨plain, count, _, hy⟩ := hy
  obtain ⟨blk, seq, sent, wire, h⟩ := Port.cutBlocks_only (y.blk.length / 8192) y
  rw [h, hy]
  exact ⟨plain, count, blk, seq, sent, wire, rfl⟩

/-! ### Every port -/

/-- Packets have passed the ports. -/
def State.Carries (s t : State) : Prop :=
  ∀ p, (s.port p).Carried (t.port p)

theorem State.Carries.refl (s : State) : s.Carries s := fun _ => .refl _

theorem State.Carries.trans {s t u : State} (h : s.Carries t) (k : t.Carries u) : s.Carries u := fun p => (h p).trans (k p)

theorem State.port_congr {s t : State} (h : t.lnk.ports = s.lnk.ports) (p : Nat) : t.port p = s.port p := by
  unfold State.port
  rw [h]

theorem State.Carries.of_ports {s t : State} (h : t.lnk.ports = s.lnk.ports) : s.Carries t := fun p => by
  rw [State.port_congr h]
  exact .refl _

theorem State.setPort_carries (s : State) {p : Nat} {x : Port} (h : (s.port p).Carried x) : s.Carries (s.setPort p x) := fun q => by
  rw [State.port_setPort]
  split
  · rename_i hq
    rw [hq]
    exact h
  · exact .refl _

/-! ### Packets that wait -/

/-- A packet that waits at a port, as it leaves by it (R299). -/
def State.outgoing (s : State) (k : LinkPkt × Nat) : LinkPkt × Nat :=
  ({ k.1 with second := k.1.second || s.crosses k.2 }, k.2)

/-- Packets have been sent, as their ports allow: those that waited go on waiting or have left, and nothing else has changed. -/
structure State.Pumped (s t : State) : Prop where
  only : t = { s with lnk := { s.lnk with ports := t.lnk.ports, routed := t.lnk.routed, out := t.lnk.out } }
  carries : s.Carries t
  sent : ∀ k ∈ s.lnk.out, k ∈ t.lnk.out
  waits : ∀ k ∈ s.lnk.routed, k ∈ t.lnk.routed ∨ s.outgoing k ∈ t.lnk.out

theorem State.Pumped.refl (s : State) : s.Pumped s := ⟨rfl, .refl s, fun _ h => h, fun _ h => Or.inl h⟩

theorem State.Pumped.outgoing {s t : State} (h : s.Pumped t) (k : LinkPkt × Nat) : t.outgoing k = s.outgoing k := by
  rw [h.only]
  rfl

theorem State.Pumped.trans {s t u : State} (h : s.Pumped t) (k : t.Pumped u) : s.Pumped u := by
  refine ⟨?_, h.carries.trans k.carries, fun e he => k.sent e (h.sent e he), fun e he => ?_⟩
  · have hk := k.only
    rw [h.only] at hk
    exact hk
  · rcases h.waits e he with hw | ho
    · rw [← h.outgoing]
      exact k.waits e hw
    · exact Or.inr (k.sent _ ho)

theorem State.Pumped.ctr {s t : State} (h : s.Pumped t) : t.ctr = s.ctr := by rw [h.only]

theorem State.rxFree_pumped (s : State) (port : Option Nat) (vc n : Nat) : s.Pumped (s.rxFree port vc n) := by
  cases port with
  | none => exact .refl s
  | some q => exact ⟨rfl, s.setPort_carries ⟨rfl, fun _ => rfl⟩, fun _ h => h, fun _ h => Or.inl h⟩

/-- A packet sent by a port that may send it. -/
theorem State.sendOut_pumped (s : State) (k : LinkPkt × Nat) (h : s.canSend k = true) : s.Pumped (s.sendOut k) := by
  have hworks : (s.port k.2).works = true := (Bool.and_eq_true_iff.mp (Bool.and_eq_true_iff.mp h).1).1
  unfold State.sendOut
  extract_lets x src p y s1
  have hport : (s.port k.2).Carried (s.fillBlocks k.2 y p.data) := by
    obtain ⟨plain, count, blk, seq, sent, wire, hfill⟩ := s.fillBlocks_only k.2 y p.data
    rw [hfill]
    exact ⟨rfl, fun hidle => absurd (hworks.symm.trans hidle) (by decide)⟩
  refine .trans ?_ (State.rxFree_pumped _ _ _ _)
  refine ⟨rfl, s.setPort_carries hport, fun e he => List.mem_append_left _ he, fun e he => ?_⟩
  by_cases hk : e = k
  · subst hk
    exact Or.inr (List.mem_append_right _ (List.mem_singleton_self _))
  · exact Or.inl ((List.mem_erase_of_ne hk).mpr he)

/-- What a port sends next is a packet that it may send. -/
theorem State.nextOut_canSend (s : State) (port : Nat) {k : LinkPkt × Nat} (h : s.nextOut port = some k) : s.canSend k = true := by
  unfold State.nextOut at h
  obtain ⟨vc, -, hvc⟩ := List.exists_of_findSome?_eq_some h
  obtain ⟨c, -, hc⟩ := List.exists_of_findSome?_eq_some hvc
  exact (Option.filter_eq_some_iff.mp hc).2

theorem State.pumpFor_pumped (s : State) (n port : Nat) : s.Pumped (s.pumpFor n port) := by
  induction n generalizing s with
  | zero => exact .refl s
  | succ n ih =>
    unfold State.pumpFor
    split
    · exact .refl s
    · rename_i k hk
      exact (s.sendOut_pumped k (s.nextOut_canSend port hk)).trans (ih _)

theorem State.pump_pumped (s : State) (port : Nat) : s.Pumped (s.pump port) := s.pumpFor_pumped _ _

/-- With no packet waiting, a port sends nothing. -/
theorem State.pump_idle (s : State) (port : Nat) (h : s.lnk.routed = []) : s.pump port = s := by
  unfold State.pump
  rw [h]
  rfl

/-- A packet put in a port's queue waits there, or leaves by it. -/
theorem State.mem_enqueue (s : State) (p : LinkPkt) (port : Nat) : (p, port) ∈ (s.enqueue p port).lnk.routed
    ∨ s.outgoing (p, port) ∈ (s.enqueue p port).lnk.out :=
  (State.pump_pumped _ _).waits _ (List.mem_append_right _ (List.mem_singleton_self _))

theorem State.enqueue_only (s : State) (p : LinkPkt) (port : Nat) : ∃ ports routed out,
    s.enqueue p port = { s with lnk := { s.lnk with ports := ports, routed := routed, out := out } } :=
  ⟨_, _, _, (State.pump_pumped _ _).only⟩

/-! ### Packets routed -/

theorem State.enqueue_carries (s : State) (p : LinkPkt) (port : Nat) : s.Carries (s.enqueue p port) := by
  refine .trans ?_ (State.pump_pumped _ _).carries
  exact .of_ports rfl

theorem State.dropPacket_carries (s : State) (p : LinkPkt) : s.Carries (s.dropPacket p) :=
  (s.rxFree_pumped _ _ _).carries.trans (.of_ports (congrArg Lnk.ports (State.count_lnk _ _ _)))

theorem State.dropPackets_carries (s : State) (l : List (LinkPkt × Nat)) : s.Carries (s.dropPackets l) := by
  induction l generalizing s with
  | nil => exact .refl s
  | cons k r ih => exact (s.dropPacket_carries k.1).trans (ih _)

theorem State.dropWaiting_carries (s : State) (port : Nat) : s.Carries (s.dropWaiting port) := by
  refine .trans ?_ (State.dropPackets_carries _ _)
  exact .of_ports rfl

theorem State.routeBy_carries (s : State) (r : Route) (p : LinkPkt) : s.Carries (s.routeBy r p) := by
  unfold State.routeBy
  split
  · exact s.dropPacket_carries p
  · split
    · exact s.dropPacket_carries p
    · exact s.enqueue_carries _ _

theorem State.deliver_carries (s : State) (p : LinkPkt) : s.Carries (s.deliver p) := by
  have h := (s.rxFree_pumped p.inPort p.vc p.data.length).carries
  unfold State.deliver
  dsimp only
  split
  · exact h.trans (.of_ports rfl)
  · exact h

theorem State.route_carries (s : State) (p : LinkPkt) : s.Carries (s.route p) := by
  unfold State.route
  split
  · exact s.deliver_carries p
  · split
    · split
      · exact s.routeBy_carries _ p
      · exact s.dropPacket_carries p
    · exact s.routeBy_carries _ p

/-- What is kept until it is acknowledged is all that the keeping of a packet changes. -/
theorem State.keep_only (s : State) (p : LinkPkt) : s.keep p = { s with lnk := { s.lnk with
    unacked := if p.vc = 1 ∨ p.vc = 3 then Tab.put s.lnk.unacked p.id p else s.lnk.unacked } } := by
  unfold State.keep
  split <;> rfl

theorem State.sendTable_carries (s : State) (r : Route) (gen beat : Nat) (l : List Nat) : s.Carries (s.sendTable r gen beat l) := by
  induction l generalizing s with
  | nil => exact .refl s
  | cons d l ih =>
    refine .trans ?_ ((State.route_carries _ _).trans (ih _))
    rw [s.keep_only]
    exact .of_ports rfl

theorem State.rebuild_carries (s : State) : s.Carries s.rebuild := by
  unfold State.rebuild
  extract_lets r now
  split
  · exact .refl s
  · refine .trans ?_ (State.sendTable_carries _ _ _ _ _)
    exact .of_ports rfl

theorem State.noteDowns_carries (s : State) : s.Carries s.noteDowns := by
  refine .trans ?_ (State.rebuild_carries _)
  exact .of_ports rfl

end Sys2Proof.Machine
end

section
/-! Routing (R298, R300): dimension order where the table in force avoids nothing, and packets kept until they are acknowledged. -/

namespace Sys2Proof.Machine

/-! ### Dimension order (R298) -/

/-- The table that avoids nothing. -/
def Route.free : Route := { dead := [], down := [] }

theorem State.usable_free (s : State) (p : Nat) : s.usable .free p = true := by
  simp [State.usable, Route.free]

/-- The first dimension in which a destination differs is the one travelled first. -/
theorem State.dimsTo_first (s : State) {dst k : Nat} (hk : k < 3) (hdiff : coordOf dst k ≠ coordOf s.device k)
    (hfirst : ∀ j, j < k → coordOf dst j = coordOf s.device j) : ∃ l, s.dimsTo dst = k :: l := by
  unfold State.dimsTo
  match k, hk with
  | 0, _ => simp [hdiff]
  | 1, _ => simp [hdiff, hfirst 0]
  | 2, _ => simp [hdiff, hfirst 0, hfirst 1]

/-- With nothing to avoid, a packet on no detour goes by the first dimension in which its destination differs. -/
theorem State.routeOf_free (s : State) {dst k : Nat} (hk : k < 3) (hdiff : coordOf dst k ≠ coordOf s.device k)
    (hfirst : ∀ j, j < k → coordOf dst j = coordOf s.device j) : s.routeOf .free dst none = some (s.wayIn .free dst k, none) := by
  obtain ⟨l, hl⟩ := s.dimsTo_first hk hdiff hfirst
  unfold State.routeOf
  simp [hl, s.usable_free]

/-- The shorter way round a ring, the + way when both are equal. -/
theorem State.wayIn_free (s : State) (dst k : Nat) : s.wayIn .free dst k =
    if 2 * ((coordOf dst k + max 1 (s.dimSize k) - coordOf s.device k) % max 1 (s.dimSize k)) ≤ max 1 (s.dimSize k) then 2 * k
    else 2 * k + 1 := by
  unfold State.wayIn
  simp [s.usable_free]

/-- A packet as it is launched, routed where the table in force avoids nothing: dropped where the port carries nothing or its
neighbour is dead, else put in the port's queue. -/
theorem State.route_launched (s : State) (x : LinkPkt) {k : Nat} (hnone : Tab.find s.lnk.routes s.lnk.gen = none) (hk : k < 3)
    (hdiff : coordOf x.dst k ≠ coordOf s.device k) (hfirst : ∀ j, j < k → coordOf x.dst j = coordOf s.device j) :
    s.route (s.launched x) =
      if (s.port (s.wayIn .free x.dst k)).works = true ∧ s.partnerOf (s.wayIn .free x.dst k) ∉ s.lnk.dead then
        s.enqueue (s.launched x) (s.wayIn .free x.dst k)
      else s.count cRouteDrop 1 := by
  have haway : (s.launched x).dst ≠ s.device := fun h => hdiff (congrArg (coordOf · k) h)
  have hfind : Tab.find s.lnk.routes (s.launched x).gen = none := hnone
  have hroute : s.route (s.launched x) = s.routeBy .free (s.launched x) := by
    unfold State.route
    rw [if_neg haway, hfind]
    exact if_pos rfl
  have hof : s.routeOf .free (s.launched x).dst (s.launched x).via = some (s.wayIn .free x.dst k, none) :=
    s.routeOf_free hk hdiff hfirst
  rw [hroute]
  unfold State.routeBy
  rw [hof]
  dsimp only
  by_cases hgo : (s.port (s.wayIn .free x.dst k)).works = true ∧ s.partnerOf (s.wayIn .free x.dst k) ∉ s.lnk.dead
  · rw [if_pos hgo, if_neg (by simpa using hgo)]
    rfl
  · rw [if_neg hgo, if_pos (by simpa [Classical.or_iff_not_imp_left] using hgo)]
    rfl

/-- What becomes of a packet as it is launched, while the packets kept and their resends change: it waits at the port of dimension order or
leaves by it, or it is dropped and counted. -/
theorem State.launched_spec (s : State) (x : LinkPkt) (kept : Tab LinkPkt) (resends : Tab Nat) {k : Nat}
    (hnone : Tab.find s.lnk.routes s.lnk.gen = none) (hk : k < 3) (hdiff : coordOf x.dst k ≠ coordOf s.device k)
    (hfirst : ∀ j, j < k → coordOf x.dst j = coordOf s.device j) :
    let q := s.wayIn .free x.dst k
    ∃ t, State.route { s with lnk := { s.lnk with unacked := kept, resends := resends } } (s.launched x) = t
      ∧ ((s.port q).works = true → s.partnerOf q ∉ s.lnk.dead →
        ((s.launched x, q) ∈ t.lnk.routed ∨ ({ s.launched x with second := s.crosses q }, q) ∈ t.lnk.out) ∧ t.ctr = s.ctr)
      ∧ ((s.port q).works = false ∨ s.partnerOf q ∈ s.lnk.dead → t.ctrGet cRouteDrop = satAdd (s.ctrGet cRouteDrop) 1)
      ∧ t.lnk.unacked = kept ∧ t.lnk.resends = resends := by
  intro q
  generalize hu : ({ s with lnk := { s.lnk with unacked := kept, resends := resends } } : State) = u
  have hroute : u.route (s.launched x) = if (s.port q).works = true ∧ s.partnerOf q ∉ s.lnk.dead then u.enqueue (s.launched x) q
      else u.count cRouteDrop 1 := by
    subst hu
    exact State.route_launched { s with lnk := { s.lnk with unacked := kept, resends := resends } } x hnone hk hdiff hfirst
  refine ⟨_, rfl, fun hworks hlive => ?_, fun hstop => ?_, ?_⟩
  · rw [hroute, if_pos ⟨hworks, hlive⟩]
    have hmem := u.mem_enqueue (s.launched x) q
    have hctr : (u.enqueue (s.launched x) q).ctr = u.ctr := (State.pump_pumped _ _).ctr
    subst hu
    exact ⟨hmem, hctr⟩
  · rw [hroute, if_neg (fun h => hstop.elim (fun hw => absurd (h.1.symm.trans hw) (by decide)) h.2), State.ctrGet_count, if_pos rfl]
    subst hu
    rfl
  · rw [hroute]
    split
    · obtain ⟨ports, routed, out, henq⟩ := u.enqueue_only (s.launched x) q
      rw [henq]
      subst hu
      exact ⟨rfl, rfl⟩
    · rw [State.count_lnk]
      subst hu
      exact ⟨rfl, rfl⟩

/-! ### The commands (R300) -/

theorem exec_packetRoute_launched (s : State) {x : LinkPkt} (hx : x.inPort = none) :
    exec (.packetRoute x) s = .next ((s.keep (s.launched x)).route (s.launched x)) := by
  change execPacketRoute x s = _
  unfold execPacketRoute
  rw [hx]

theorem exec_packetRoute_passing (s : State) {x : LinkPkt} {p : Nat} (hx : x.inPort = some p) (hp : p < 6) :
    exec (.packetRoute x) s = .next (((s.sealOk p).rxTake (some p) x.vc x.data.length).route x) := by
  change execPacketRoute x s = _
  unfold execPacketRoute
  rw [hx]
  exact if_neg (by omega)

theorem exec_e2eResendTimeout_kept (s : State) {id : Nat} {x : LinkPkt} (h : Tab.find s.lnk.unacked id = some x) :
    exec (.e2eResendTimeout id) s = .next (State.route
      { s with lnk := { s.lnk with resends := Tab.put s.lnk.resends id (Tab.get s.lnk.resends id 0 + 1) } } (s.launched x)) := by
  change execE2eResendTimeout id s = _
  unfold execE2eResendTimeout
  rw [h]

/-- A packet that has arrived by a port leaves the ports' buffers, and is acknowledged where its VC asks for it. -/
theorem State.deliver_lnk (s : State) (x : LinkPkt) {p : Nat} (hx : x.inPort = some p) : ∃ ports, (s.deliver x).lnk = { s.lnk with
    ports := ports, acked := if x.vc = 1 ∨ x.vc = 3 then s.lnk.acked ++ [(x.src, x.id)] else s.lnk.acked } := by
  unfold State.deliver State.rxFree
  rw [hx]
  dsimp only [Option.isSome_some]
  by_cases h : x.vc = 1 ∨ x.vc = 3
  · rw [if_pos ⟨h, rfl⟩, if_pos h]
    exact ⟨_, rfl⟩
  · rw [if_neg (fun hand => h hand.1), if_neg h]
    exact ⟨_, rfl⟩

/-! ### O39 -/

/-- Settles O39: a packet on no detour goes by its first dimension, since an empty table lets every port serve; the port's queue then
holds it until it leaves. -/
theorem packetsGoByDimensionOrder : Obligations.PacketsGoByDimensionOrder := by
  unfold Obligations.PacketsGoByDimensionOrder
  intro s x
  refine ⟨fun k hnone hk hdiff hfirst => ?_, fun p hp hin hdst => ?_⟩
  · intro n q y
    have hq : s.wayIn .free x.dst k = q := s.wayIn_free x.dst k
    have hspec := fun kept resends => s.launched_spec x kept resends hnone hk hdiff hfirst
    rw [hq] at hspec
    refine ⟨fun hin => ?_, fun id hkept hworks hlive => ?_⟩
    · obtain ⟨t, ht, hgoes, hdrops, hunacked, -⟩ := hspec (if x.vc = 1 ∨ x.vc = 3 then Tab.put s.lnk.unacked x.id y else s.lnk.unacked)
        s.lnk.resends
      refine ⟨t, ?_, hgoes, hdrops, fun hvc => ?_, fun h1 h3 => ?_⟩
      · rw [exec_packetRoute_launched s hin, ← ht, s.keep_only]
        rfl
      · rw [hunacked, if_pos hvc, Tab.find_put_same]
      · rw [hunacked, if_neg (not_or.mpr ⟨h1, h3⟩)]
    · obtain ⟨t, ht, hgoes, -, hunacked, hresends⟩ := hspec s.lnk.unacked
        (Tab.put s.lnk.resends id (Tab.get s.lnk.resends id 0 + 1))
      refine ⟨t, (exec_e2eResendTimeout_kept s hkept).trans (congrArg _ ht), (hgoes hworks hlive).1, ?_, ?_⟩
      · rw [hresends, Tab.get_put_same]
      · rw [hunacked, hkept]
  · have hroute : ((s.sealOk p).rxTake (some p) x.vc x.data.length).route x = ((s.sealOk p).rxTake (some p) x.vc x.data.length).deliver x :=
      if_pos hdst
    obtain ⟨ports, hlnk⟩ := ((s.sealOk p).rxTake (some p) x.vc x.data.length).deliver_lnk x hin
    refine ⟨_, exec_packetRoute_passing s hin hp, ?_⟩
    rw [hroute, hlnk]
    exact ⟨rfl, rfl, rfl⟩

end Sys2Proof.Machine
end

section
/-! What the link layer keeps (R291, R293 to R295, R300, R301): retry blocks, credit, acknowledgements, tables and tags, and what a port
that goes DOWN leaves. -/

namespace Sys2Proof.Machine

/-! ### Ports that go DOWN (R293) -/

@[simp] theorem State.port_putPort (s : State) (p q : Nat) (x : Port) : (s.putPort p x).port q = if q = p then x else s.port q :=
  s.port_setPort p q x

theorem State.Traffic.sec {s t : State} (h : s.Traffic t) : t.sec = s.sec := by rw [h.only]

/-- A port as it goes DOWN. -/
def Port.lost (x : Port) : Port :=
  { x with state := .down, wasDown := true, downNext := false, upNext := false }

/-- A port that goes DOWN drops what waits at it; beside that, packets and tables move. -/
theorem State.takeDown_traffic (s : State) (p : Nat) (x : Port) : (s.putPort p x.lost).Traffic (s.takeDown p x)
    ∧ (s.putPort p x.lost).Carries (s.takeDown p x) :=
  ⟨(State.dropWaiting_traffic _ p).trans (State.noteDowns_traffic _), (State.dropWaiting_carries _ p).trans (State.noteDowns_carries _)⟩

/-- A port that is DOWN sends nothing more: its receive buffers alone may empty. -/
theorem State.takeDown_port (s : State) (p : Nat) (x : Port) :
    ∃ rx returned, (s.takeDown p x).port p = { x.lost with rx := rx, returned := returned } := by
  have h := ((s.takeDown_traffic p x).2 p).idle
  rw [State.port_putPort, if_pos rfl] at h
  exact ⟨_, _, h rfl⟩

/-! ### Retry blocks (R291) -/

theorem blocksFrom_append {a r : List Block} {b : Block} (h : ∀ c ∈ a, c.seq ≠ b.seq) : blocksFrom (a ++ b :: r) b.seq = b :: r := by
  unfold blocksFrom
  rw [List.dropWhile_append_of_pos (fun c hc => bne_iff_ne.mpr (h c hc)), List.dropWhile_cons_of_neg (by simp)]

theorem blocksFrom_absent {l : List Block} {seq : Nat} (h : ∀ b ∈ l, b.seq ≠ seq) : blocksFrom l seq = [] :=
  List.dropWhile_eq_nil_iff.mpr (fun b hb => bne_iff_ne.mpr (h b hb))

theorem exec_linkResendRequest (s : State) {p : Nat} (hp : p < 6) (seq : Nat) : exec (.linkResendRequest p seq) s =
    .next (s.setPort p { s.port p with wire := (s.port p).wire ++ blocksFrom (s.port p).sent (seq % 4096) }) :=
  if_neg (by omega)

theorem State.count_ite (s : State) (off n : Nat) : (if n = 0 then s else s.count off n) = s.count off n := by
  split
  · rename_i h
    exact (if_pos h).symm
  · rfl

/-- A block that is kept, acknowledged: it and those before it leave the retry store. -/
theorem exec_retryBlockAcknowledgement_kept (s : State) {p : Nat} (hp : p < 6) (corr : Nat) {a r : List Block} {b : Block}
    (hsent : (s.port p).sent = a ++ b :: r) (hfirst : ∀ c ∈ a, c.seq ≠ b.seq) (hseq : b.seq < 4096) :
    exec (.retryBlockAcknowledgement p b.seq corr) s =
      .next (((s.count cFecCorr corr).setPort p { s.port p with sent := r }).pump p) := by
  change execRetryBlockAcknowledgement p b.seq corr s = _
  unfold execRetryBlockAcknowledgement
  rw [if_neg (by omega), s.count_ite, Nat.mod_eq_of_lt hseq]
  dsimp only
  rw [hsent, blocksFrom_append hfirst]
  exact if_pos (by simp)

/-- A block that is not kept, acknowledged with nothing corrected. -/
theorem exec_retryBlockAcknowledgement_absent (s : State) {p : Nat} (hp : p < 6) {seq : Nat}
    (h : ∀ b ∈ (s.port p).sent, b.seq ≠ seq % 4096) : exec (.retryBlockAcknowledgement p seq 0) s = .next s := by
  change execRetryBlockAcknowledgement p seq 0 s = _
  unfold execRetryBlockAcknowledgement
  rw [if_neg (by omega), if_pos rfl]
  exact if_neg (by simpa using h)

/-! ### Credit (R295) -/

theorem exec_creditReturn (s : State) {p vc : Nat} (hp : p < 6) (hvc : vc < 16) (bytes : Nat) : exec (.creditReturn p vc bytes) s =
    .next ((s.setPort p { s.port p with credit := Tab.put (s.port p).credit vc (Tab.get (s.port p).credit vc 0 - bytes) }).pump p) :=
  if_neg (by omega)

/-- How a packet leaves does not depend on the ports' own state. -/
theorem State.outgoing_congr {s t : State} (h : t.lnk = { s.lnk with ports := t.lnk.ports }) (k : LinkPkt × Nat) :
    t.outgoing k = s.outgoing k := by
  unfold State.outgoing State.crosses State.dimSize State.device
  rw [h]

/-- What waited before a port changed waits after its sending, or has left. -/
theorem State.pump_waits {s t : State} (p : Nat) (h : t.lnk = { s.lnk with ports := t.lnk.ports }) :
    ∀ k ∈ s.lnk.routed, k ∈ (t.pump p).lnk.routed ∨ s.outgoing k ∈ (t.pump p).lnk.out := by
  intro k hk
  rw [← State.outgoing_congr h]
  refine (t.pump_pumped p).waits k ?_
  rw [h]
  exact hk

/-! ### Tables (R300) -/

/-- A table of the other generation waits for its tick, and its packet is acknowledged. -/
theorem exec_routeTableReceive_other (s : State) {gen : Nat} (hgen : gen < 2) (hother : gen ≠ s.lnk.gen) (beat : Nat) (dead : List Nat)
    (down : List (Nat × Nat)) : exec (.routeTableReceive gen beat dead down) s = .next { s with lnk := { s.lnk with
      acked := s.lnk.acked ++ [(s.lnk.master, routeId s.device beat)]
      routes := Tab.put s.lnk.routes gen { dead := dead, down := down }, genNext := some (gen, beat) } } := by
  change execRouteTableReceive gen beat dead down s = _
  unfold execRouteTableReceive
  rw [Nat.mod_eq_of_lt hgen]
  exact if_neg hother

/-! ### Tags (R301) -/

theorem Sec.spoil_inactive (x : Sec) (p : Nat) : ∀ e ∈ (x.spoil p).linkKeys, e.1 = 2 * p ∨ e.1 = 2 * p + 1 → e.2.active = false := by
  intro e he hport
  obtain ⟨k, -, hk⟩ := List.mem_map.mp he
  split at hk
  · rw [← hk]
  · rename_i hother
    exact absurd (hk ▸ hport) hother

/-- A first or second failure in a row: the unit is asked for again. -/
theorem exec_sealTagFail_again (s : State) {p : Nat} (hp : p < 6) (seq : Nat) (hsealed : s.sec.rsealed.getLsbD p = true)
    (hfew : (s.port p).sealFails < 2) : exec (.sealTagFail p seq) s =
      .next (((s.setPort p { s.port p with sealFails := (s.port p).sealFails + 1 }).count cSealFail 1).askResend p seq) := by
  change execSealTagFail p seq s = _
  unfold execSealTagFail
  rw [if_neg (by omega), if_neg (by simp [hsealed])]
  exact if_neg (by omega)

/-- The third failure in a row takes the port DOWN. -/
theorem exec_sealTagFail_third (s : State) {p : Nat} (hp : p < 6) (seq : Nat) (hsealed : s.sec.rsealed.getLsbD p = true)
    (hthird : 2 ≤ (s.port p).sealFails) : ∃ (u : State) (x : Port), exec (.sealTagFail p seq) s =
      .next ((u.takeDown p { x with sealDown := true, sealFails := 0 }).raiseU 0x6009 (uPort * 2 ^ 22 + p) [])
      ∧ u.sec = s.sec.spoil p ∧ u.ctrGet cSealFail = satAdd (s.ctrGet cSealFail) 1 := by
  generalize hcount : (s.setPort p { s.port p with sealFails := (s.port p).sealFails + 1 }).count cSealFail 1 = v
  refine ⟨{ v with sec := v.sec.spoil p }, v.port p, ?_, ?_, ?_⟩
  · change execSealTagFail p seq s = _
    unfold execSealTagFail
    rw [if_neg (by omega), if_neg (by simp [hsealed])]
    dsimp only
    rw [if_pos (by omega), hcount]
    rfl
  · rw [← hcount, State.count_sec]
    rfl
  · change v.ctrGet cSealFail = _
    rw [← hcount, State.ctrGet_count, if_pos rfl]
    rfl

/-! ### O40 -/

/-- Settles O40: each command is its own change of the port or the tables, and what waits at a port that may send again goes on waiting
or leaves. -/
theorem linkStateIsKept : Obligations.LinkStateIsKept := by
  unfold Obligations.LinkStateIsKept
  intro s p hp waitsOrSent
  refine ⟨fun a r b hsent hfirst hseq => ⟨?_, fun corr => ?_⟩, fun seq habsent => ⟨?_, ?_⟩, fun vc bytes hvc => ?_, fun id => ?_,
    fun gen beat dead down hgen => ⟨fun hother => ?_, fun hsame => ?_⟩,
    fun seq => ⟨fun hsealed => ⟨fun hfew => ?_, fun hthird => ?_⟩, fun hplain => ?_⟩⟩
  · rw [exec_linkResendRequest s hp, Nat.mod_eq_of_lt hseq, hsent, blocksFrom_append hfirst]
  · have hlnk := s.count_lnk cFecCorr corr
    refine ⟨_, exec_retryBlockAcknowledgement_kept s hp corr hsent hfirst hseq, ?_, fun hnone => ?_, State.pump_waits p ?_⟩
    · rw [State.ctrGet_of_ctr (State.pump_pumped _ p).ctr, State.ctrGet_of_ctr (State.setPort_ctr _ _ _), State.ctrGet_count, if_pos rfl]
    · rw [State.pump_idle, State.port_setPort, if_pos rfl]
      rw [← hnone, ← hlnk]
      rfl
    · unfold State.setPort
      rw [hlnk]
  · rw [exec_linkResendRequest s hp, blocksFrom_absent habsent, List.append_nil]
  · exact exec_retryBlockAcknowledgement_absent s hp habsent
  · refine ⟨_, exec_creditReturn s hp hvc bytes, fun hnone => ?_, State.pump_waits p rfl, ?_⟩
    · rw [State.pump_idle _ _ (by exact hnone), State.port_setPort, if_pos rfl]
      exact Tab.get_put_same _ _ _ _
    · rw [(State.pump_pumped _ p).only]
      rfl
  · have hgone : Tab.find (Tab.del s.lnk.unacked id) id = none := by rw [Tab.find_del, if_pos rfl]
    refine ⟨_, rfl, hgone, fun j hj => ?_, ?_⟩
    · exact (Tab.find_del _ _ _).trans (if_neg hj)
    · change execE2eResendTimeout id _ = _
      unfold execE2eResendTimeout
      dsimp only
      rw [hgone]
  · exact ⟨_, exec_routeTableReceive_other s hgen hother beat dead down, Tab.find_put_same _ _ _, rfl, rfl, rfl,
      Tab.find_put_other _ _ _ _ (Ne.symm hother)⟩
  · exact if_pos ((Nat.mod_eq_of_lt hgen).trans hsame)
  · refine ⟨_, exec_sealTagFail_again s hp seq hsealed hfew, ?_, ?_, ?_⟩
    · unfold State.askResend
      rw [State.count_other _ _ (by decide), State.ctrGet_of_ctr (State.setPort_ctr _ _ _), State.ctrGet_count, if_pos rfl]
      rfl
    · unfold State.askResend
      rw [State.port_congr (congrArg Lnk.ports (State.count_lnk _ _ _)), State.port_setPort, if_pos rfl,
        State.port_congr (congrArg Lnk.ports (State.count_lnk _ _ _)), State.port_setPort, if_pos rfl]
    · unfold State.askResend
      rw [State.count_sec, State.setPort_sec, State.count_sec]
      rfl
  · obtain ⟨u, x, hexec, hsec, hctr⟩ := exec_sealTagFail_third s hp seq hsealed hthird
    have hlog := State.raiseU_logged (u.takeDown p { x with sealDown := true, sealFails := 0 }) 0x6009 (uPort * 2 ^ 22 + p) []
    have htraffic := (u.takeDown_traffic p { x with sealDown := true, sealFails := 0 }).1
    obtain ⟨rx, returned, hport⟩ := u.takeDown_port p { x with sealDown := true, sealFails := 0 }
    rw [← State.port_congr (congrArg Lnk.ports hlog.lnk)] at hport
    refine ⟨_, hexec, ?_, by rw [hport]; rfl, by rw [hport]; rfl, by rw [hport]; rfl, ?_⟩
    · rw [hlog.ctr _ (by decide) (by decide), htraffic.ctr _ (by decide), State.ctrGet_of_ctr (State.putPort_ctr _ _ _), hctr]
    · rw [State.raiseU_sec, htraffic.sec, State.putPort_sec, hsec]
      exact s.sec.spoil_inactive p
  · change execSealTagFail p seq s = _
    unfold execSealTagFail
    rw [if_neg (by omega), if_pos (by simp [hplain])]

end Sys2Proof.Machine
end

section
/-! Ports and lanes (R291 to R297, R301, R312, R363, R364, R397, R445): what training makes of a port, and what a lane's loss, return and
failed blocks do to it. -/

namespace Sys2Proof.Machine

/-! ### Ports and what goes through them -/

theorem Port.Carried.state {x y : Port} (h : x.Carried y) : y.state = x.state := by rw [h.only]
theorem Port.Carried.lanes {x y : Port} (h : x.Carried y) : y.lanes = x.lanes := by rw [h.only]
theorem Port.Carried.cable {x y : Port} (h : x.Carried y) : y.cable = x.cable := by rw [h.only]

/-- A port replaced, and routing told of it: packets may pass, and no other port changes otherwise. -/
theorem State.putPort_noted (s : State) (p : Nat) (x : Port) : x.Carried ((s.putPort p x).noteDowns.port p)
    ∧ ∀ q, q ≠ p → (s.port q).Carried ((s.putPort p x).noteDowns.port q) := by
  have h := (s.putPort p x).noteDowns_carries
  refine ⟨?_, fun q hq => ?_⟩
  · have hp := h p
    rwa [State.port_putPort, if_pos rfl] at hp
  · have hother := h q
    rwa [State.port_putPort, if_neg hq] at hother

/-- The ports that a change of one leaves: what goes through them is all that changes. -/
theorem State.takeDown_others (s : State) (p : Nat) (x : Port) {q : Nat} (hq : q ≠ p) : (s.port q).Carried ((s.takeDown p x).port q) := by
  have h := (s.takeDown_traffic p x).2 q
  rwa [State.port_putPort, if_neg hq] at h

/-- A port that goes DOWN, with its event. -/
theorem State.portDown_port (s : State) (p : Nat) :
    (∃ rx returned, (s.portDown p).port p = { (s.port p).lost with rx := rx, returned := returned })
    ∧ ∀ q, q ≠ p → (s.port q).Carried ((s.portDown p).port q) := by
  have hport (q : Nat) : (s.portDown p).port q = (s.takeDown p (s.port p)).port q :=
    State.port_congr (congrArg Lnk.ports (State.raiseU_lnk _ _ _ _)) q
  refine ⟨?_, fun q hq => ?_⟩
  · rw [hport]
    exact s.takeDown_port p _
  · rw [hport]
    exact s.takeDown_others p _ hq

/-- The counters that a port's going DOWN may change. -/
theorem State.portDown_ctr (s : State) (p : Nat) {o : Nat} (h : o ∉ [cRouteDrop, cRecCoal, cRecDrop]) :
    (s.portDown p).ctrGet o = s.ctrGet o := by
  simp only [List.mem_cons, List.not_mem_nil, or_false, not_or] at h
  obtain ⟨hdrop, hcoal, hrec⟩ := h
  unfold State.portDown
  rw [(State.raiseU_logged _ _ _ _).ctr _ hcoal hrec, (s.takeDown_traffic p _).1.ctr _ hdrop]
  rfl

/-! ### Training (R294, R296, R397, R445) -/

/-- The bit of a DISABLED port's power domain is cleared. -/
theorem State.putPort_disabled_power (s : State) (p : Nat) (x : Port) (h : x.state = .disabled) :
    (s.putPort p x).pwr.dom.getLsbD (20 + p) = false := by
  have hoff : s.portPower p x = false := by simp [State.portPower, h]
  unfold State.putPort
  dsimp only
  rw [hoff, if_neg (by decide)]
  simp only [BitVec.getLsbD_and, BitVec.getLsbD_not, BitVec.getLsbD_ofNat, Nat.testBit_two_pow_self]
  by_cases hp : 20 + p < 36
  · simp [hp]
  · rw [BitVec.getLsbD_of_ge _ _ (by omega), Bool.false_and]

/-- A port without its cable, or in a dimension of size 1, is DISABLED, and its domain off. -/
theorem State.startTraining_off (s : State) (p : Nat) (h : s.portOff p (s.port p).cable = true) :
    ((s.startTraining p).port p).cable = (s.port p).cable ∧ ((s.startTraining p).port p).state = .disabled
    ∧ (s.startTraining p).pwr.dom.getLsbD (20 + p) = false ∧ ∀ q, q ≠ p → ((s.startTraining p).port q).state = (s.port q).state := by
  unfold State.startTraining
  dsimp only
  rw [if_pos h]
  generalize hx : ({ s.port p with state := .disabled, lanes := 0, upNext := false } : Port) = x
  have hcarries := (State.dropWaiting_carries (s.putPort p x) p).trans (State.noteDowns_carries _)
  have htraffic := (State.dropWaiting_traffic (s.putPort p x) p).trans (State.noteDowns_traffic _)
  refine ⟨?_, ?_, ?_, fun q hq => ?_⟩
  · rw [(hcarries p).cable, State.port_putPort, if_pos rfl, ← hx]
  · rw [htraffic.port, State.port_putPort, if_pos rfl, ← hx]
  · rw [htraffic.pwr]
    exact s.putPort_disabled_power p x (by rw [← hx])
  · rw [htraffic.port, State.port_putPort, if_neg hq]

/-- A port that carries nothing trains where it may, and stays DOWN where it has been. -/
theorem State.startTraining_on (s : State) (p : Nat) (h : s.portOff p (s.port p).cable = false) (hidle : (s.port p).works = false) :
    ((s.startTraining p).port p).cable = (s.port p).cable
    ∧ ((s.startTraining p).port p).state = (if s.stuckDown p || (s.port p).wasDown then .down else .training)
    ∧ ∀ q, q ≠ p → (s.port q).Carried ((s.startTraining p).port q) := by
  unfold State.startTraining
  dsimp only
  rw [if_neg (by simp [h]), if_neg (by simp [hidle])]
  split
  · obtain ⟨hport, hothers⟩ := s.putPort_noted p { s.port p with state := .down, upNext := false }
    exact ⟨hport.cable, hport.state, hothers⟩
  · obtain ⟨hport, hothers⟩ := s.putPort_noted p { s.port p with state := .training, lanes := 0, upNext := false }
    exact ⟨hport.cable, hport.state, hothers⟩

theorem State.portOff_iff (s : State) (p : Nat) (cable : Bool) :
    s.portOff p cable = true ↔ cable = false ∨ s.lnk.domain = true ∧ s.dimSize (p / 2) = 1 := by
  simp [State.portOff]

theorem State.portOn_iff (s : State) (p : Nat) (cable : Bool) :
    s.portOff p cable = false ↔ cable = true ∧ (s.lnk.domain = false ∨ s.dimSize (p / 2) ≠ 1) := by
  cases h : s.lnk.domain <;> simp [State.portOff, h]

section
variable {s : State} {p : Nat} {o : TrainObs}

theorem exec_cablePresentChange (hp : p < 6) (present : Bool) :
    exec (.cablePresentChange p present) s = .next ((s.setPort p { s.port p with cable := present }).startTraining p) :=
  if_neg (by omega)

theorem exec_portTrainingDone_off (hp : p < 6) (hoff : s.portOff p (s.port p).cable = true) :
    exec (.portTrainingDone p o) s = .next (s.startTraining p) := by
  change execPortTrainingDone p o s = _
  simp [execPortTrainingDone, hp.not_ge, hoff]

theorem exec_portTrainingDone_stuck (hp : p < 6) (hon : s.portOff p (s.port p).cable = false) (hstuck : s.stuckDown p = true) :
    exec (.portTrainingDone p o) s = .next s := by
  change execPortTrainingDone p o s = _
  simp [execPortTrainingDone, hp.not_ge, hon, hstuck]

end

/-- A port with what training found of its partner (R297, R303). -/
def Port.found (x : Port) (o : TrainObs) : Port :=
  { x with partner := o.partner.getD 0, pport := o.pport, delay := o.delay }

/-- A port as it comes into service with some lanes. -/
def Port.opened (x : Port) (lanes : BitVec 6) : Port :=
  { x.freshLink with lanes := lanes, state := { x.freshLink with lanes := lanes }.upState }

/-- What training finds is judged where a port with its cable is in a dimension that has a partner (R297). -/
structure State.Trains (s : State) (p : Nat) : Prop where
  exists_port : p < 6
  on : s.portOff p (s.port p).cable = false
  free : s.stuckDown p = false

section
variable {s : State} {p : Nat} (h : s.Trains p) (o : TrainObs)
include h

/-- What is made of a port whose training ends, by what it found. -/
theorem State.Trains.exec_done : exec (.portTrainingDone p o) s = .next (
    if s.rightPartner p o = false then
      ((s.putPort p { (s.port p).found o with state := .miswired }).raiseU 0x6004 (uPort * 2 ^ 22 + p) [wd (o.partner.getD 0)]).noteDowns
    else if s.sec.rsealed.getLsbD p ≠ o.partnerSealed then (s.putPort p { (s.port p).found o with state := .sealMismatch }).noteDowns
    else if popCount 6 (s.trainedLanes p o).toNat < 5 then
      if (s.port p).wasDown then (s.putPort p { (s.port p).found o with state := .down, upNext := false }).noteDowns
      else (s.setPort p { (s.port p).found o with lanes := s.trainedLanes p o }).portDown p
    else if (s.port p).wasDown then
      (s.putPort p { (s.port p).found o with state := .down, upNext := true, laneNext := s.trainedLanes p o }).noteDowns
    else (s.putPort p (((s.port p).found o).opened (s.trainedLanes p o))).noteDowns) := by
  change execPortTrainingDone p o s = _
  simp only [execPortTrainingDone, h.exists_port.not_ge, h.on, h.free, if_false, Bool.false_eq_true, Bool.not_eq_true', bne_iff_ne]
  repeat' split
  all_goals rfl

/-- The wrong partner makes a port MISWIRED. -/
theorem State.Trains.miswired (hwrong : s.rightPartner p o = false) :
    ∃ t, exec (.portTrainingDone p o) s = .next t ∧ (t.port p).state = .miswired := by
  refine ⟨_, (h.exec_done o).trans (congrArg _ (if_pos hwrong)), ?_⟩
  rw [(State.noteDowns_carries _ p).state, State.port_congr (congrArg Lnk.ports (State.raiseU_lnk _ _ _ _)), State.port_putPort, if_pos rfl]

variable (hright : s.rightPartner p o = true)
include hright

/-- One sealed end alone makes it SEAL_MISMATCH. -/
theorem State.Trains.sealMismatch (hseal : s.sec.rsealed.getLsbD p ≠ o.partnerSealed) :
    ∃ t, exec (.portTrainingDone p o) s = .next t ∧ (t.port p).state = .sealMismatch :=
  ⟨_, (h.exec_done o).trans (congrArg _ ((if_neg (by simp [hright])).trans (if_pos hseal))), (State.putPort_noted _ _ _).1.state⟩

variable (hseal : s.sec.rsealed.getLsbD p = o.partnerSealed)
include hseal

/-- Below five lanes it is DOWN. -/
theorem State.Trains.down (hfew : popCount 6 (s.trainedLanes p o).toNat < 5) :
    ∃ t, exec (.portTrainingDone p o) s = .next t ∧ (t.port p).state = .down := by
  refine ⟨_, (h.exec_done o).trans (congrArg _ ((if_neg (by simp [hright])).trans ((if_neg (not_not.mpr hseal)).trans (if_pos hfew)))), ?_⟩
  split
  · exact (State.putPort_noted _ _ _).1.state
  · obtain ⟨rx, returned, hport⟩ := (State.portDown_port _ p).1
    rw [hport]
    rfl

/-- A port that has been DOWN returns at the next boundary. -/
theorem State.Trains.returns (hmany : 5 ≤ popCount 6 (s.trainedLanes p o).toNat) (hdown : (s.port p).wasDown = true) :
    ∃ t, exec (.portTrainingDone p o) s = .next t ∧ (t.port p).state = .down ∧ (t.port p).upNext = true
      ∧ (t.port p).laneNext = s.trainedLanes p o := by
  refine ⟨_, (h.exec_done o).trans (congrArg _ ((if_neg (by simp [hright])).trans ((if_neg (not_not.mpr hseal)).trans
    ((if_neg hmany.not_gt).trans (if_pos hdown))))), ?_⟩
  rw [(State.putPort_noted _ _ _).1.only]
  exact ⟨rfl, rfl, rfl⟩

/-- Another port is UP with six lanes, and DEGRADED with five. -/
theorem State.Trains.up (hmany : 5 ≤ popCount 6 (s.trainedLanes p o).toNat) (hnew : (s.port p).wasDown = false) :
    ∃ t, exec (.portTrainingDone p o) s = .next t
      ∧ (t.port p).state = (if popCount 6 (s.trainedLanes p o).toNat = 6 then .up else .degraded)
      ∧ (t.port p).lanes = s.trainedLanes p o ∧ (t.port p).delay = o.delay ∧ (t.port p).partner = s.partnerOf p := by
  have hpartner : o.partner.getD 0 = s.partnerOf p := by
    simp only [State.rightPartner, Bool.and_eq_true, beq_iff_eq] at hright
    rw [hright.1.2]
    rfl
  refine ⟨_, (h.exec_done o).trans (congrArg _ ((if_neg (by simp [hright])).trans ((if_neg (not_not.mpr hseal)).trans
    ((if_neg hmany.not_gt).trans (if_neg (by simp [hnew])))))), ?_⟩
  rw [(State.putPort_noted _ _ _).1.only]
  exact ⟨rfl, rfl, rfl, hpartner⟩

end

/-! ### Training asked for (R294) -/

theorem exec_portRetrain_misjudged {s : State} {p : Nat} (hp : p < 6) (h : (s.port p).state = .miswired ∨ (s.port p).state = .sealMismatch) :
    exec (.portRetrain p) s = .next (s.startTraining p) := by
  change execPortRetrain p s = _
  unfold execPortRetrain
  rw [if_neg (by omega)]
  exact if_pos h

/-- A DOWN port trains its lanes and stays DOWN; one that keys or history keep DOWN does not train. -/
theorem exec_portRetrain_down {s : State} {p : Nat} (hp : p < 6) (h : (s.port p).state = .down) : exec (.portRetrain p) s =
    .next (if s.stuckDown p then s else s.setPort p { s.port p with laneFails := [], upNext := false }) := by
  change execPortRetrain p s = _
  unfold execPortRetrain
  rw [if_neg (by omega)]
  dsimp only
  rw [if_neg (by simp [h])]
  cases hstuck : s.stuckDown p <;> simp [h]

/-! ### O37 -/

/-- Settles O37: a cable's coming and going and a new attempt are the start of training, which a dimension of size 1 keeps from a port;
what training finds is judged case by case. -/
theorem portsTrainAndReturn : Obligations.PortsTrainAndReturn := by
  unfold Obligations.PortsTrainAndReturn
  intro s p hp lanesOf
  refine ⟨?_, fun hdim hidle => ?_, fun hmis hdim hcable => ?_, fun hdown => ⟨fun hfree => ?_, fun hstuck => ?_⟩, fun o =>
    ⟨fun hoff => ?_, fun hcable hdim => ⟨fun hstuck => ?_, fun hfree => ?_⟩⟩⟩
  · have hoff : (s.setPort p { s.port p with cable := false }).portOff p ((s.setPort p { s.port p with cable := false }).port p).cable = true := by
      rw [State.port_setPort, if_pos rfl]
      rfl
    obtain ⟨hcable, hstate, hdom, hothers⟩ := State.startTraining_off _ p hoff
    refine ⟨_, exec_cablePresentChange hp false, ?_, hstate, hdom, fun q hq => ?_⟩
    · rw [hcable, State.port_setPort, if_pos rfl]
    · rw [hothers q hq, State.port_setPort, if_neg hq]
  · have hport : (s.setPort p { s.port p with cable := true }).port p = { s.port p with cable := true } := by
      rw [State.port_setPort, if_pos rfl]
    have hstuck : (s.setPort p { s.port p with cable := true }).stuckDown p = s.stuckDown p := by
      unfold State.stuckDown
      rw [hport]
      rfl
    obtain ⟨hcable, hstate, hothers⟩ := State.startTraining_on (s.setPort p { s.port p with cable := true }) p
      ((State.portOn_iff _ _ _).mpr ⟨by rw [hport], hdim⟩) (by rw [hport]; exact hidle)
    rw [hport] at hcable hstate
    rw [hstuck] at hstate
    refine ⟨_, exec_cablePresentChange hp true, hcable, hstate, fun q hq => ?_⟩
    have hother := hothers q hq
    rw [State.port_setPort, if_neg hq] at hother
    exact ⟨hother.state, hother.lanes⟩
  · have hidle : (s.port p).works = false := by rcases hmis with h | h <;> simp [Port.works, h]
    obtain ⟨-, hstate, hothers⟩ := s.startTraining_on p ((s.portOn_iff _ _).mpr ⟨hcable, hdim⟩) hidle
    exact ⟨_, exec_portRetrain_misjudged hp hmis, hstate, fun q hq => ⟨(hothers q hq).state, (hothers q hq).lanes⟩⟩
  · refine ⟨_, (exec_portRetrain_down hp hdown).trans (congrArg _ (if_neg (by simp [hfree]))), ?_, ?_, fun q hq => ?_⟩
    · rw [State.port_setPort, if_pos rfl]
      exact hdown
    · rw [State.port_setPort, if_pos rfl]
    · rw [State.port_setPort, if_neg hq]
  · exact (exec_portRetrain_down hp hdown).trans (congrArg _ (if_pos hstuck))
  · have hoff' := (s.portOff_iff p _).mpr hoff
    obtain ⟨-, hstate, hdom, -⟩ := s.startTraining_off p hoff'
    exact ⟨_, exec_portTrainingDone_off hp hoff', hstate, hdom⟩
  · exact exec_portTrainingDone_stuck hp ((s.portOn_iff p _).mpr ⟨hcable, hdim⟩) hstuck
  · have h : s.Trains p := ⟨hp, (s.portOn_iff p _).mpr ⟨hcable, hdim⟩, hfree⟩
    exact ⟨h.miswired o, fun hright => ⟨h.sealMismatch o hright, fun hseal =>
      ⟨h.down o hright hseal, h.returns o hright hseal, h.up o hright hseal⟩⟩⟩

end Sys2Proof.Machine
end

section
/-! Lanes of a port (R291 to R293, R363, R364): their loss and return, and the errors charged to them. -/

namespace Sys2Proof.Machine

/-! ### Lanes as a mask (R292) -/

/-- The numbers below n that a test picks, as a mask. -/
def maskOf (g : Nat → Bool) (n : Nat) : Nat :=
  ((List.range n).filter g).foldl (fun m l => m + 2 ^ l) 0

theorem maskOf_succ (g : Nat → Bool) (n : Nat) : maskOf g (n + 1) = if g n then 2 ^ n + maskOf g n else maskOf g n := by
  unfold maskOf
  rw [List.range_succ, List.filter_append, List.foldl_append]
  cases h : g n <;> simp [h, Nat.add_comm]

theorem maskOf_lt (g : Nat → Bool) (n : Nat) : maskOf g n < 2 ^ n := by
  induction n with
  | zero => exact Nat.one_pos
  | succ n ih =>
    rw [maskOf_succ, Nat.pow_succ]
    split <;> omega

theorem testBit_maskOf (g : Nat → Bool) {l n : Nat} (h : l < n) : (maskOf g n).testBit l = g l := by
  induction n with
  | zero => omega
  | succ n ih =>
    rw [maskOf_succ]
    rcases Nat.lt_succ_iff_lt_or_eq.mp h with hlt | rfl
    · rw [← ih hlt]
      split
      · exact Nat.testBit_two_pow_add_gt hlt _
      · rfl
    · have hclear : (maskOf g l).testBit l = false := Nat.testBit_lt_two_pow (maskOf_lt g l)
      split
      · rename_i hg
        rw [Nat.testBit_two_pow_add_eq, hclear, hg]
        rfl
      · rename_i hg
        rw [hclear, Bool.eq_false_iff.mpr hg]

/-- A lane is out of service for good where its entry says so. -/
theorem State.lanePerm_bit (s : State) (p : Nat) {l : Nat} (hl : l < 6) : (s.lanePerm p).getLsbD l =
    ((s.hist? uLane (p * 6 + l)).map (fun e => e.state == .permanent)).getD false := by
  change (BitVec.ofNat 6 (maskOf _ 6)).getLsbD l = _
  rw [BitVec.getLsbD_ofNat, testBit_maskOf _ hl]
  simp [hl]

theorem getLsbD_lane_cleared (b : BitVec 6) {l : Nat} (hl : l < 6) : (b &&& ~~~BitVec.ofNat 6 (2 ^ l)).getLsbD l = false := by
  simp only [BitVec.getLsbD_and, BitVec.getLsbD_not, BitVec.getLsbD_ofNat, Nat.testBit_two_pow_self, hl, decide_true, Bool.and_self,
    Bool.not_true, Bool.and_false]

/-- A port that has lost a lane does not have all six. -/
theorem popCount_cleared {l : Nat} (hl : l < 6) (b : BitVec 6) : popCount 6 (b &&& ~~~BitVec.ofNat 6 (2 ^ l)).toNat ≠ 6 := by
  have h : ∀ (l : Fin 6) (b : BitVec 6), popCount 6 (b &&& ~~~BitVec.ofNat 6 (2 ^ l.val)).toNat ≠ 6 := by decide
  exact h ⟨l, hl⟩ b

/-! ### A lane's loss (R291 to R293) -/

/-- A port whose lane leaves service: the blocks in flight go on the line again. -/
def Port.dropLane (x : Port) (l : Nat) : Port :=
  let y := { x with lanes := x.lanes &&& ~~~BitVec.ofNat 6 (2 ^ l), wire := x.wire ++ x.sent, laneFails := Tab.del x.laneFails l }
  if x.works then { y with state := y.upState } else y

theorem Port.dropLane_only (x : Port) (l : Nat) : ∃ st, x.dropLane l =
    { x with lanes := x.lanes &&& ~~~BitVec.ofNat 6 (2 ^ l), wire := x.wire ++ x.sent, laneFails := Tab.del x.laneFails l, state := st } := by
  unfold Port.dropLane
  dsimp only
  split <;> exact ⟨_, rfl⟩

theorem Port.dropLane_state (x : Port) {l : Nat} (hl : l < 6) (h : x.works = true) : (x.dropLane l).state = .degraded := by
  unfold Port.dropLane
  rw [if_pos h]
  exact if_neg (popCount_cleared hl x.lanes)

/-- An error charged to a lane changes no link. -/
theorem State.chargeErr_lane (s : State) (unit code : Nat) (dt : Bool) : s.Charged (s.chargeErr uLane unit code dt) := by
  obtain ⟨u, hu, -, h | h⟩ := s.chargeErr_cases uLane unit code dt
  · exact h ▸ hu
  · exact h ▸ hu

/-- The counters that a lane's loss may change. -/
def laneCtrs : List Nat := [cLaneDrop, cRecovery, cRouteDrop] ++ chargeCtrs

/-- A lane in service that is dropped: its port without the lane, which goes DOWN below five lanes. -/
theorem State.laneDrop_eq (s : State) (p l : Nat) (hin : (s.port p).lanes.getLsbD l = true) : ∃ u,
    u.lnk = (s.setPort p ((s.port p).dropLane l)).lnk ∧ u.ctrGet cLaneDrop = satAdd (s.ctrGet cLaneDrop) 1
    ∧ (∀ o, o ∉ laneCtrs → u.ctrGet o = s.ctrGet o)
    ∧ s.laneDrop p l = if (s.port p).works && decide (popCount 6 ((s.port p).lanes &&& ~~~BitVec.ofNat 6 (2 ^ l)).toNat < 5) then
        u.portDown p else u := by
  have hlog := State.raiseU_logged (s.setPort p ((s.port p).dropLane l)) 0x6002 (uLane * 2 ^ 22 + (p * 6 + l)) []
  generalize hv : State.raiseU (s.setPort p ((s.port p).dropLane l)) 0x6002 (uLane * 2 ^ 22 + (p * 6 + l)) [] = v at hlog
  have hcharge := (v.count cLaneDrop 1).chargeErr_lane (p * 6 + l) 0x6002 false
  refine ⟨((v.count cLaneDrop 1).chargeErr uLane (p * 6 + l) 0x6002 false).count cRecovery 1, ?_, ?_, fun o ho => ?_, ?_⟩
  · rw [State.count_lnk, hcharge.lnk, State.count_lnk, hlog.lnk]
  · rw [State.count_other _ _ (by decide), hcharge.ctr _ (by decide), State.ctrGet_count, if_pos rfl, hlog.ctr _ (by decide) (by decide)]
    rfl
  · simp only [laneCtrs, chargeCtrs, List.cons_append, List.nil_append, List.mem_cons, List.not_mem_nil, or_false, not_or] at ho
    rw [State.count_other _ _ (by tauto), hcharge.ctr _ (by simp [chargeCtrs]; tauto), State.count_other _ _ (by tauto),
      hlog.ctr _ (by tauto) (by tauto)]
    rfl
  · unfold State.laneDrop
    dsimp only
    rw [if_neg (by simp [hin]), ← hv]
    rfl

/-- What a dropped lane leaves of the ports. -/
theorem State.laneDrop_ports (s : State) (p : Nat) {l : Nat} (hl : l < 6) (hin : (s.port p).lanes.getLsbD l = true) :
    ((s.laneDrop p l).port p).lanes = (s.port p).lanes &&& ~~~BitVec.ofNat 6 (2 ^ l)
    ∧ ((s.laneDrop p l).port p).wire = (s.port p).wire ++ (s.port p).sent
    ∧ ((s.laneDrop p l).port p).rxWant = (s.port p).rxWant
    ∧ ((s.port p).works = true → ((s.laneDrop p l).port p).state =
        if popCount 6 ((s.port p).lanes &&& ~~~BitVec.ofNat 6 (2 ^ l)).toNat < 5 then .down else .degraded)
    ∧ ∀ q, q ≠ p → (s.port q).Carried ((s.laneDrop p l).port q) := by
  obtain ⟨u, hlnk, -, -, hdrop⟩ := s.laneDrop_eq p l hin
  obtain ⟨st, honly⟩ := (s.port p).dropLane_only l
  have hports (q : Nat) : u.port q = if q = p then (s.port p).dropLane l else s.port q :=
    (State.port_congr (congrArg Lnk.ports hlnk) q).trans (State.port_setPort _ _ _ _)
  have hport : u.port p = (s.port p).dropLane l := (hports p).trans (if_pos rfl)
  have hother (q : Nat) (hq : q ≠ p) : u.port q = s.port q := (hports q).trans (if_neg hq)
  rw [hdrop]
  split
  · rename_i hfew
    obtain ⟨⟨rx, returned, hdown⟩, hothers⟩ := u.portDown_port p
    rw [hdown, hport]
    refine ⟨?_, ?_, ?_, fun _ => ?_, fun q hq => ?_⟩
    · rw [honly]
      rfl
    · rw [honly]
      rfl
    · rw [honly]
      rfl
    · rw [if_pos (of_decide_eq_true (Bool.and_eq_true_iff.mp hfew).2)]
      rfl
    · rw [← hother q hq]
      exact hothers q hq
  · rename_i hmany
    rw [hport]
    refine ⟨by rw [honly], by rw [honly], by rw [honly], fun hworks => ?_, fun q hq => ?_⟩
    · rw [(s.port p).dropLane_state hl hworks, if_neg (fun h => hmany (Bool.and_eq_true_iff.mpr ⟨hworks, decide_eq_true h⟩))]
    · rw [hother q hq]
      exact .refl _

theorem State.laneDrop_out (s : State) {p l : Nat} (h : (s.port p).lanes.getLsbD l = false) : s.laneDrop p l = s := by
  unfold State.laneDrop
  exact if_pos (by simp [h])

/-- The counters of a lane's loss. -/
theorem State.laneDrop_ctr (s : State) (p l : Nat) : (∀ o, o ∉ laneCtrs → (s.laneDrop p l).ctrGet o = s.ctrGet o)
    ∧ ((s.port p).lanes.getLsbD l = true → (s.laneDrop p l).ctrGet cLaneDrop = satAdd (s.ctrGet cLaneDrop) 1) := by
  cases hin : (s.port p).lanes.getLsbD l with
  | false => exact ⟨fun o _ => by rw [s.laneDrop_out hin], fun h => absurd h (by decide)⟩
  | true =>
    obtain ⟨u, -, hcount, hctr, hdrop⟩ := s.laneDrop_eq p l hin
    rw [hdrop]
    split
    · refine ⟨fun o ho => ?_, fun _ => ?_⟩
      · rw [u.portDown_ctr p (fun h => ho (by simp [laneCtrs, chargeCtrs] at h ⊢; tauto)), hctr o ho]
      · rw [u.portDown_ctr p (by decide), hcount]
    · exact ⟨hctr, fun _ => hcount⟩

/-- After a lane's loss it is out of service, and its port waits for the same blocks. -/
theorem State.laneDrop_leaves (s : State) (p : Nat) {l : Nat} (hl : l < 6) : ((s.laneDrop p l).port p).lanes.getLsbD l = false
    ∧ ((s.laneDrop p l).port p).rxWant = (s.port p).rxWant := by
  cases hin : (s.port p).lanes.getLsbD l with
  | false =>
    rw [s.laneDrop_out hin]
    exact ⟨hin, rfl⟩
  | true =>
    obtain ⟨hlanes, -, hwant, -⟩ := s.laneDrop_ports p hl hin
    rw [hlanes]
    exact ⟨getLsbD_lane_cleared _ hl, hwant⟩

/-! ### Tests and failed blocks (R291, R292, R363, R364) -/

/-- A lane that fails to train is PERMANENT. -/
theorem State.laneFailed_entry (s : State) (unit : Nat) (h : (s.histOf uLane unit).state = .clean ∨ (s.histOf uLane unit).state = .transient) :
    ∃ e, (s.dtFailure uLane unit).hist? uLane unit = some e ∧ e.state = .permanent ∧ e.dtFail = true := by
  obtain ⟨u, -, -, hist, hcharge⟩ := s.chargeErr_failed uLane unit 0xB002 h
  have hentry : (s.dtFailure uLane unit).hist? uLane unit = u.hist? uLane unit := congrArg (fun t => t.hist? uLane unit) hcharge
  exact ⟨_, hentry.trans (s.charged_entry u rfl hist), UnitHist.withError_failed _ _ _ h⟩

section
variable {s : State} {p l : Nat}

theorem exec_laneDrop (hp : p < 6) (hl : l < 6) : exec (.laneDrop p l) s = .next (s.laneDrop p l) :=
  if_neg (by omega)

theorem exec_laneRetrain (hp : p < 6) (hl : l < 6) (hout : (s.port p).lanes.getLsbD l = false) (hperm : (s.lanePerm p).getLsbD l = false)
    (good : Bool) : exec (.laneRetrain p l good) s = .next (if good then
      s.setPort p { s.port p with laneNext := (s.port p).laneNext ||| BitVec.ofNat 6 (2 ^ l) } else s.dtFailure uLane (p * 6 + l)) := by
  change execLaneRetrain p l good s = _
  unfold execLaneRetrain
  rw [if_neg (by omega)]
  dsimp only
  rw [hout, hperm]
  cases good <;> rfl

/-- A block that holds is no retry. -/
theorem exec_retryBlockFail_holds {lane : Option Nat} (hp : p < 6) (hlane : ∀ k ∈ lane, k < 6) (seq : Nat) {data : List Byte} {crc : Word}
    (h : crc32 data = crc) : exec (.retryBlockFail p seq lane 0 data crc) s = .next s := by
  have hin : lane.getD 0 < 6 := by
    cases lane with
    | none => decide
    | some k => exact hlane k rfl
  change execRetryBlockFail p seq lane 0 data crc s = _
  unfold execRetryBlockFail
  rw [if_neg (by omega), if_pos (by simp [blockFails, h])]

end

theorem blockFails_iff {uncorr : Nat} {data : List Byte} {crc : Word} :
    blockFails uncorr data crc = true ↔ uncorr ≠ 0 ∨ crc32 data ≠ crc := by
  simp only [blockFails, Bool.or_eq_true, bne_iff_ne]

/-- A failed block, asked for again, with the codewords that could not be corrected. -/
def State.blockAsked (s : State) (p seq uncorr : Nat) : State :=
  (s.askResend p seq).count cFecUncorr uncorr

theorem State.blockAsked_lnk (s : State) (p seq uncorr : Nat) :
    (s.blockAsked p seq uncorr).lnk = (s.setPort p { s.port p with rxWant := some (seq % 4096) }).lnk := by
  unfold State.blockAsked State.askResend
  rw [State.count_lnk, State.count_lnk]

theorem State.blockAsked_port (s : State) (p seq uncorr : Nat) :
    (s.blockAsked p seq uncorr).port p = { s.port p with rxWant := some (seq % 4096) } := by
  rw [State.port_congr (congrArg Lnk.ports (s.blockAsked_lnk p seq uncorr)), State.port_setPort, if_pos rfl]

theorem State.blockAsked_flt (s : State) (p seq uncorr : Nat) : (s.blockAsked p seq uncorr).flt = s.flt := by
  unfold State.blockAsked State.askResend
  rw [State.count_flt, State.count_flt]
  rfl

theorem State.blockAsked_ctr (s : State) (p seq uncorr : Nat) :
    (s.blockAsked p seq uncorr).ctrGet cRetry = satAdd (s.ctrGet cRetry) 1
    ∧ (s.blockAsked p seq uncorr).ctrGet cFecUncorr = satAdd (s.ctrGet cFecUncorr) uncorr := by
  unfold State.blockAsked State.askResend
  refine ⟨?_, ?_⟩
  · rw [State.count_other _ _ (by decide), State.ctrGet_count, if_pos rfl]
    rfl
  · rw [State.ctrGet_count, if_pos rfl, State.count_other _ _ (by decide)]
    rfl

/-- A failed block traced to a lane: the retry is counted at the lane and charged to it. -/
def State.laneBlamed (s : State) (p l : Nat) : State :=
  (s.setPort p { s.port p with laneFails := Tab.put (s.port p).laneFails l (Tab.get (s.port p).laneFails l 0 + 1) }).chargeCe uLane (p * 6 + l) 1

theorem State.laneBlamed_charged (s : State) (p l : Nat) : State.Charged
    (s.setPort p { s.port p with laneFails := Tab.put (s.port p).laneFails l (Tab.get (s.port p).laneFails l 0 + 1) }) (s.laneBlamed p l) :=
  State.chargeCe_charged _ _ _ _

theorem State.laneBlamed_port (s : State) (p l : Nat) : (s.laneBlamed p l).port p =
    { s.port p with laneFails := Tab.put (s.port p).laneFails l (Tab.get (s.port p).laneFails l 0 + 1) } := by
  rw [State.port_congr (congrArg Lnk.ports (s.laneBlamed_charged p l).lnk), State.port_setPort, if_pos rfl]

/-- The corrected events of a lane count one more. -/
theorem State.chargeCe_lane (s : State) (unit : Nat) :
    ((s.chargeCe uLane unit 1).histOf uLane unit).ce = min 0xFFFFFFFF ((s.histOf uLane unit).ce + 1) := by
  obtain ⟨hcls, hunit⟩ := s.histOf_unit uLane unit
  have hentry := s.hist?_setHist { s.histOf uLane unit with ce := min 0xFFFFFFFF ((s.histOf uLane unit).ce + 1) } (by
    change pooled (s.histOf uLane unit).cls = false
    rw [hcls]
    rfl)
  change (s.chargeCe uLane unit 1).hist? (s.histOf uLane unit).cls (s.histOf uLane unit).unit = _ at hentry
  rw [hcls, hunit] at hentry
  unfold State.histOf at hentry ⊢
  rw [hentry]
  rfl

section
variable {s : State} {p l seq uncorr : Nat} {data : List Byte} {crc : Word}

theorem exec_retryBlockFail_untraced (hp : p < 6) (h : uncorr ≠ 0 ∨ crc32 data ≠ crc) :
    exec (.retryBlockFail p seq none uncorr data crc) s = .next (s.blockAsked p seq uncorr) := by
  change execRetryBlockFail p seq none uncorr data crc s = _
  unfold execRetryBlockFail
  rw [if_neg (by simp only [Option.getD_none]; omega), if_neg (by simp [blockFails_iff.mpr h])]
  rfl

theorem exec_retryBlockFail_traced (hp : p < 6) (hl : l < 6) (h : uncorr ≠ 0 ∨ crc32 data ≠ crc) :
    exec (.retryBlockFail p seq (some l) uncorr data crc) s = .next (if 3 ≤ Tab.get (s.port p).laneFails l 0 then
      ((s.blockAsked p seq uncorr).laneBlamed p l).laneDrop p l else (s.blockAsked p seq uncorr).laneBlamed p l) := by
  have hfails : (4 ≤ Tab.get ((s.blockAsked p seq uncorr).port p).laneFails l 0 + 1) = (3 ≤ Tab.get (s.port p).laneFails l 0) := by
    rw [s.blockAsked_port]
    exact propext Nat.succ_le_succ_iff
  change execRetryBlockFail p seq (some l) uncorr data crc s = _
  unfold execRetryBlockFail
  rw [if_neg (by simp only [Option.getD_some]; omega), if_neg (by simp [blockFails_iff.mpr h])]
  simp only [← hfails]
  rfl

end

/-! ### O38 -/

/-- Settles O38: a dropped lane, by what it leaves of its port; a failed block, by the asking for it and the count at its lane, which the
fourth turns into a drop. -/
theorem lanesDropAndReturn : Obligations.LanesDropAndReturn := by
  unfold Obligations.LanesDropAndReturn
  intro s p l hp hl bit
  refine ⟨fun hin => ?_, fun hout => ?_, fun hout hperm => ⟨?_, fun hserves => ?_⟩, fun seq uncorr data crc =>
    ⟨fun hfails => ⟨?_, ?_⟩, fun hholds lane hlane => exec_retryBlockFail_holds hp hlane seq hholds⟩⟩
  · obtain ⟨hlanes, hwire, -, hstate, hothers⟩ := s.laneDrop_ports p hl hin
    exact ⟨_, exec_laneDrop hp hl, hlanes, hwire, (s.laneDrop_ctr p l).2 hin, hstate,
      fun q hq => ⟨(hothers q hq).state, (hothers q hq).lanes⟩⟩
  · rw [exec_laneDrop hp hl, s.laneDrop_out hout]
  · exact exec_laneRetrain hp hl hout hperm true
  · obtain ⟨e, hentry, hstate, hfail⟩ := s.laneFailed_entry (p * 6 + l) hserves
    refine ⟨_, e, exec_laneRetrain hp hl hout hperm false, hentry, hstate, hfail, ?_⟩
    rw [State.lanePerm_bit _ p hl]
    change (((s.dtFailure uLane (p * 6 + l)).hist? uLane (p * 6 + l)).map _).getD false = true
    rw [hentry]
    simp [hstate]
  · obtain ⟨hretry, huncorr⟩ := s.blockAsked_ctr p seq uncorr
    exact ⟨_, exec_retryBlockFail_untraced hp hfails, by rw [s.blockAsked_port], hretry, huncorr⟩
  · have hexec := exec_retryBlockFail_traced (s := s) (seq := seq) hp hl hfails
    generalize hasked : s.blockAsked p seq uncorr = v at hexec
    have hport : v.port p = { s.port p with rxWant := some (seq % 4096) } := hasked ▸ s.blockAsked_port p seq uncorr
    have hretry : v.ctrGet cRetry = satAdd (s.ctrGet cRetry) 1 := hasked ▸ (s.blockAsked_ctr p seq uncorr).1
    have hblamed := v.laneBlamed_port p l
    have hcount : (v.laneBlamed p l).ctrGet cRetry = satAdd (s.ctrGet cRetry) 1 := by
      rw [(v.laneBlamed_charged p l).ctr _ (by decide)]
      exact hretry
    by_cases hfourth : 3 ≤ Tab.get (s.port p).laneFails l 0
    · rw [if_pos hfourth] at hexec
      obtain ⟨hlane, hwant⟩ := (v.laneBlamed p l).laneDrop_leaves p hl
      refine ⟨_, hexec, ?_, ?_, fun _ => hlane, fun hfew => absurd hfew (by omega)⟩
      · rw [hwant, hblamed, hport]
      · rw [((v.laneBlamed p l).laneDrop_ctr p l).1 _ (by decide), hcount]
    · rw [if_neg hfourth] at hexec
      refine ⟨_, hexec, by rw [hblamed, hport], hcount, fun hmany => absurd hmany hfourth, fun _ => ⟨by rw [hblamed, hport], ?_, ?_⟩⟩
      · rw [hblamed, hport]
        exact Tab.get_put_same _ _ _ _
      · have hist : v.flt = s.flt := hasked ▸ s.blockAsked_flt p seq uncorr
        exact (State.chargeCe_lane _ _).trans (congrArg (fun e : UnitHist => min 0xFFFFFFFF (e.ce + 1))
          (State.histOf_congr (congrArg Flt.hist hist) (by decide) _))

end Sys2Proof.Machine
end

section
/-! Keys and the debug state (R301, R413, R429, R431): the session's commands, and the recipes that a key's end unloads. -/

namespace Sys2Proof.Machine

/-! ### Commands in a session (R413) -/

theorem State.needRails_up (s t : State) (busy : Nat) (ha : s.pwr.aon = true) (hp : s.pwr.pwrgood = true) : s.needRails busy t = t := by
  simp [State.needRails, ha, hp]

theorem State.needSession_in (s t : State) (ha : s.pwr.aon = true) (hp : s.pwr.pwrgood = true) (hs : s.sbm.session = true) :
    s.needSession true t = t := by
  simp [State.needSession, s.needRails_up _ _ ha hp, hs]

/-! ### Recipes unloaded with their key (R429) -/

theorem Tab.find_filter {α : Type} (t : Tab α) (keep : Nat → Bool) (k : Nat) :
    Tab.find (t.filter (fun e => keep e.1)) k = if keep k then Tab.find t k else none := by
  induction t with
  | nil => simp
  | cons e r ih =>
    obtain ⟨j, w⟩ := e
    by_cases hj : j = k
    · subst hj
      cases hkeep : keep j <;> simp_all [Tab.find]
    · cases hkeep : keep j <;> simp_all [Tab.find]

theorem State.recipe_of_running (s : State) {r : Recipe} (h : s.runningRecipe = some r) : s.recipe s.rcp.handle = some r := by
  unfold State.runningRecipe at h
  split at h
  · exact h
  · exact h
  · cases h
  · cases h

/-- Whether a slot of region 63 holds a recipe that a key slot verified. -/
def State.keyed (s : State) (slot h : Nat) : Bool :=
  ((s.recipe h).map (fun r => r.head.keyId == slot)).getD false

theorem State.keyed_of_recipe (s : State) {slot h : Nat} {r : Recipe} (hr : s.recipe h = some r) :
    s.keyed slot h = (r.head.keyId == slot) := by
  unfold State.keyed
  rw [hr]
  rfl

/-- Whether the running recipe is one that a key slot verified. -/
def State.keyRuns (s : State) (slot : Nat) : Bool :=
  s.runningRecipe.isSome && s.keyed slot s.rcp.handle

/-- With no ticket in the mailbox, the recipes of a key slot are all that its end changes. -/
theorem State.unloadKey_idle (s : State) (slot : Nat) (h : s.hif.Idle) : ∃ next, s.unloadKey slot = { s with rcp := { s.rcp with
    slots := s.rcp.slots.filter (fun e => !s.keyed slot e.1 || (s.keyRuns slot && e.1 == s.rcp.handle))
    state := if s.keyRuns slot then .stopping else s.rcp.state
    unloadAtStop := s.rcp.unloadAtStop || s.keyRuns slot
    startNext := next } } := by
  obtain ⟨hw, -, hb⟩ := h
  unfold State.unloadKey
  extract_lets named running keep src s1 gone src' s2
  have hhif : s2.hif = s.hif := by
    unfold s2
    split <;> rfl
  have hquiet : (if running then s2.abortList [] else s2) = s2 := ite_self s2
  rw [hhif, hb, hw]
  dsimp only
  rw [hquiet]
  unfold s2
  split <;> exact ⟨_, rfl⟩

/-- What a key slot verified is unloaded, but the running recipe, which stops at its boundary; every other recipe stays. -/
theorem State.unloadKey_recipes (s : State) (slot : Nat) (hi : s.hif.Idle) :
    (∀ h r, s.recipe h = some r → r.head.keyId ≠ slot → (s.unloadKey slot).recipe h = some r)
    ∧ (∀ h r, s.recipe h = some r → r.head.keyId = slot → (s.runningRecipe = none ∨ h ≠ s.rcp.handle) →
      (s.unloadKey slot).recipe h = none)
    ∧ (∀ r, s.runningRecipe = some r → r.head.keyId = slot → (s.unloadKey slot).recipe s.rcp.handle = some r
      ∧ (s.unloadKey slot).rcp.state = .stopping ∧ (s.unloadKey slot).rcp.unloadAtStop = true) := by
  obtain ⟨next, hunload⟩ := s.unloadKey_idle slot hi
  have hrecipe (h : Nat) : (s.unloadKey slot).recipe h =
      if !s.keyed slot h || (s.keyRuns slot && h == s.rcp.handle) then s.recipe h else none := by
    rw [hunload]
    exact Tab.find_filter s.rcp.slots (fun j => !s.keyed slot j || (s.keyRuns slot && j == s.rcp.handle)) h
  refine ⟨fun h r hr hkey => ?_, fun h r hr hkey hidle => ?_, fun r hrun hkey => ?_⟩
  · rw [hrecipe, if_pos (by simp [s.keyed_of_recipe hr, hkey]), hr]
  · rw [hrecipe, if_neg]
    rcases hidle with hnone | hother
    · simp [s.keyed_of_recipe hr, hkey, State.keyRuns, hnone]
    · simp [s.keyed_of_recipe hr, hkey, hother]
  · have hr : s.recipe s.rcp.handle = some r := s.recipe_of_running hrun
    have hruns : s.keyRuns slot = true := by simp [State.keyRuns, hrun, s.keyed_of_recipe hr, hkey]
    refine ⟨by rw [hrecipe, if_pos (by simp [hruns]), hr], ?_, ?_⟩ <;> rw [hunload]
    · exact if_pos hruns
    · simp [hruns]

/-- The end of a key changes the recipes alone, when no ticket is in the mailbox. -/
theorem State.unloadKey_only (s : State) (slot : Nat) (hi : s.hif.Idle) : ∃ x, s.unloadKey slot = { s with rcp := x } := by
  obtain ⟨next, h⟩ := s.unloadKey_idle slot hi
  exact ⟨_, h⟩

/-- Every key erased, with no ticket in the mailbox (R431). -/
theorem State.eraseKeys_spec (s : State) (hi : s.hif.Idle) : ∃ t, s.eraseKeys = t ∧ s.hif.OnlySignals t.hif
    ∧ t.sec = { s.sec with keys := [], linkKeys := [], rsealed := 0 } ∧ t.evt.alarm.getLsbD 10 = true := by
  have only (t : State) (ht : t.hif.Idle) : ∃ x, (((t.unloadKey 0).unloadKey 1).unloadKey 2).unloadKey 3 = { t with rcp := x } := by
    obtain ⟨x0, h0⟩ := t.unloadKey_only 0 ht
    rw [h0]
    obtain ⟨x1, h1⟩ := State.unloadKey_only { t with rcp := x0 } 1 ht
    rw [h1]
    obtain ⟨x2, h2⟩ := State.unloadKey_only { t with rcp := x1 } 2 ht
    rw [h2]
    exact State.unloadKey_only { t with rcp := x2 } 3 ht
  have hlog := State.raise_logged { s with sec := { s.sec with keys := [], linkKeys := [], rsealed := 0 } } 0xA003 []
  have halarm := State.raiseU_alarm { s with sec := { s.sec with keys := [], linkKeys := [], rsealed := 0 } } 0xA003 0 [] (by decide) (by decide)
  obtain ⟨x, herase⟩ := only _ (hlog.hif.idle hi)
  exact ⟨_, herase, hlog.hif, State.raise_sec _ _ _, halarm⟩

/-! ### The commands -/

theorem Hif.Idle.of_still {s : State} (h : s.hostStill) : s.hif.Idle := by
  obtain ⟨hwaits, hdeletes, hruns, -⟩ := h
  exact ⟨hwaits, hdeletes, hruns⟩

/-- The keys with slot `slot` holding the given key, or none. -/
def Sec.withKey (x : Sec) (slot : Nat) (key : Option (List Byte)) : Sec :=
  { x with keys := match key with
      | some k => Tab.put x.keys slot k
      | none => Tab.del x.keys slot }

theorem Sec.find_withKey (x : Sec) (slot : Nat) (key : Option (List Byte)) (k : Nat) :
    Tab.find (x.withKey slot key).keys k = if k = slot then key else Tab.find x.keys k := by
  cases key with
  | none => exact Tab.find_del _ _ _
  | some v => exact Tab.find_put _ _ _ _

theorem exec_recipeKey (s : State) {slot : Nat} (key : Option (List Byte)) (ha : s.pwr.aon = true) (hp : s.pwr.pwrgood = true)
    (hs : s.sbm.session = true) (hslot : slot ≤ 3) : exec (.recipeKey true slot key) s =
      .next (((({ s with sec := s.sec.withKey slot key } : State).raise 0xA002 []).unloadKey slot).drain.rsp 0 []) := by
  change Host.Outcome.next (s.needSession true _) = _
  rw [s.needSession_in _ ha hp hs, if_neg (by omega)]
  rfl

theorem exec_debugUnlock (s : State) (x : Bool) (ha : s.pwr.aon = true) (hp : s.pwr.pwrgood = true) (hs : s.sbm.session = true)
    (hlocked : s.sec.debug = 1) : exec (.debugUnlock true x) s = .next (State.rsp (State.drain { s.eraseKeys with
      sec := if x then { s.eraseKeys.sec with sealArmed := true } else { s.eraseKeys.sec with unlockArmed := true } }) 0 []) := by
  change Host.Outcome.next (s.needSession true _) = _
  rw [s.needSession_in _ ha hp hs, if_neg (not_not.mpr hlocked)]
  rfl

/-! ### O32 -/

/-- Settles O32: in a session each command is its own change of the keys; what a key's end does besides is to unload recipes, since with
no ticket in the mailbox nothing else goes on. -/
theorem keysAreInstalledInASession : Obligations.KeysAreInstalledInASession := by
  unfold Obligations.KeysAreInstalledInASession
  intro s ha hp
  refine ⟨fun sec cert hmay => ?_, fun hs => ⟨fun slot key hslot => ?_, fun slot key hslot hstill => ?_,
    fun port sending key beat hport hlen => ?_, fun hopen x => ?_, fun hlocked hstill x => ?_⟩⟩
  · change Host.Outcome.next (if s.sec.owner.isNone then s.needRails mgBusy _ else s.needSession sec _) = _
    rw [s.needRails_up _ _ ha hp]
    split
    · rfl
    · rename_i howner
      obtain ⟨rfl, hs⟩ := hmay.resolve_left (fun h => howner (by rw [h]; rfl))
      rw [s.needSession_in _ ha hp hs]
      rfl
  · change Host.Outcome.next (s.needSession true _) = _
    rw [s.needSession_in _ ha hp hs, if_pos hslot]
    rfl
  · have hexec := exec_recipeKey s key ha hp hs hslot
    have hlog := State.raise_logged { s with sec := s.sec.withKey slot key } 0xA002 []
    have halarm := State.raiseU_alarm { s with sec := s.sec.withKey slot key } 0xA002 0 [] (by decide) (by decide)
    change (State.raise { s with sec := s.sec.withKey slot key } 0xA002 []).evt.alarm.getLsbD 10 = true at halarm
    have hsec : (State.raise { s with sec := s.sec.withKey slot key } 0xA002 []).sec = s.sec.withKey slot key := State.raise_sec _ _ _
    generalize State.raise { s with sec := s.sec.withKey slot key } 0xA002 [] = v at hexec hlog halarm hsec
    have hstillv : v.hostStill := hlog.hif.still hstill
    obtain ⟨hstay, hgone, hstops⟩ := v.unloadKey_recipes slot (.of_still hstillv)
    have hrcp : v.rcp = s.rcp := hlog.rcp
    obtain ⟨y, hunload⟩ := v.unloadKey_only slot (.of_still hstillv)
    have hdrain : (v.unloadKey slot).drain = v.unloadKey slot := State.drain_still _ (by rw [hunload]; exact hstillv)
    rw [hdrain] at hexec
    have hsecu : (v.unloadKey slot).sec = s.sec.withKey slot key := by
      rw [hunload]
      exact hsec
    simp only [State.recipe_congr hrcp, State.runningRecipe_congr hrcp, hrcp] at hstay hgone hstops
    refine ⟨_, hexec, rfl, ?_, fun k hk => ?_, ?_, hstay, hgone, hstops⟩
    · rw [State.rsp_sec, hsecu, Sec.find_withKey, if_pos rfl]
    · rw [State.rsp_sec, hsecu, Sec.find_withKey, if_neg hk]
    · rw [State.rsp_evt, hunload]
      exact halarm
  · change Host.Outcome.next (s.needSession true _) = _
    rw [s.needSession_in _ ha hp hs, if_neg (by omega)]
    rfl
  · change Host.Outcome.next (s.needSession true _) = _
    rw [s.needSession_in _ ha hp hs, if_pos hopen]
    rfl
  · obtain ⟨u, herase, hhif, hsec, halarm⟩ := s.eraseKeys_spec (.of_still hstill)
    have hexec := exec_debugUnlock s x ha hp hs hlocked
    rw [herase, State.drain_still _ (by exact hhif.still hstill), hsec] at hexec
    refine ⟨_, hexec, rfl, ?_, halarm⟩
    cases x <;> simp

end Sys2Proof.Machine
end

section
/-! The memory tickets (R320, R323, R342, R355): what they look at stays as their ticket is admitted, and each changes the region that it
names, or the host buffer, and the counters of frame costs; the mailbox's tickets stay for their own completion. -/

namespace Sys2Proof.Machine

/-! ### What these tickets look at, as the ticket's own rail changes -/

theorem State.admits_spanBad (s : State) (op : Half) (k t : Ticket) (n : Nat) : (s.admits op k).spanBad t n = s.spanBad t n := by
  obtain ⟨rs, hrs⟩ := s.admits_eq op k
  rw [hrs]
  rfl

theorem State.admits_named (s : State) (op : Half) (k : Ticket) (r : Nat) : (s.admits op k).named r = s.named r := by
  obtain ⟨-, hrcp, -⟩ := s.admits_same op k
  unfold State.named
  rw [State.cur_congr hrcp]

theorem State.region_congr {s u : State} (h : u.mem = s.mem) (r : Nat) : u.region r = s.region r :=
  congrArg (fun m : MemSys => Tab.find m.regions r) h

theorem State.regionKind_congr {s u : State} (h : u.mem = s.mem) (r : Nat) : u.regionKind r = s.regionKind r := by
  unfold State.regionKind
  rw [State.region_congr h]

/-- The marks that a read meets are the region's and the codewords' alone (R205, R323). -/
theorem State.viewPoison_congr {s u : State} (h : u.mem = s.mem) (r off n : Nat) : u.viewPoison r off n = s.viewPoison r off n := by
  calc u.viewPoison r off n = ({ s with mem := u.mem } : State).viewPoison r off n := rfl
    _ = s.viewPoison r off n := by rw [h]

theorem State.admits_regRead (s : State) (op : Half) (k : Ticket) (attempt : Bool) (r off n : Nat) :
    (s.admits op k).regRead attempt r off n = s.regRead attempt r off n := by
  obtain ⟨rs, hrs⟩ := s.admits_eq op k
  rw [hrs]
  rfl

theorem State.admits_epochWord (s : State) (op : Half) (k : Ticket) : (s.admits op k).epochWord = s.epochWord := by
  obtain ⟨rs, hrs⟩ := s.admits_eq op k
  rw [hrs]
  rfl

/-! ### What these tickets leave -/

theorem State.account_hif (s : State) (r off n : Nat) (write : Bool) : (s.account r off n write).hif = s.hif := by
  rw [s.account_only]

theorem State.account_mem (s : State) (r off n : Nat) (write : Bool) : (s.account r off n write).mem = s.mem := by
  rw [s.account_only]

theorem State.freePoison_hif (s : State) (r : Nat) : (s.freePoison r).hif = s.hif := by
  unfold State.freePoison
  split <;> rfl

/-- A read that meets no marked codeword, and in which G288 reports none, goes on (R323). -/
theorem State.viewErrors_clean (s : State) (reader r off n : Nat) (h : s.viewPoison r off n = []) :
    s.viewErrors reader r off n { ce := [], ue := [] } = (s, false) := by
  unfold State.viewErrors
  rw [h]
  rfl

/-! ### The tickets' own effects -/

/-- MEM_WRITE of bytes within a region that the running recipe does not name, or of kind GENERAL, HYPER or TELEMETRY (R342, R355). -/
theorem State.tkMemWrite_ok (u : State) (w : WaitTicket) {b : List Byte} (hspan : u.spanBad w.t (bufLen w.t) = none)
    (hkind : u.named (par w.t 0) = false ∨ u.regionKind (par w.t 0) = 0 ∨ u.regionKind (par w.t 0) = 8 ∨ u.regionKind (par w.t 0) = 9)
    (hb : w.t.buf = .ok b) :
    u.tkMemWrite w = ((u.regWriteCommitted (par w.t 0) (offsetOf w.t)
      ((b ++ List.replicate (bufLen w.t - b.length) 0).take (bufLen w.t))).account (par w.t 0) (offsetOf w.t) (bufLen w.t)
      true).complete w 0 [] := by
  have hopen : ¬ (u.named (par w.t 0) && !(u.regionKind (par w.t 0) == 0 || u.regionKind (par w.t 0) == 8
      || u.regionKind (par w.t 0) == 9)) = true := by
    rcases hkind with h | h | h | h <;> simp [h]
  unfold State.tkMemWrite
  dsimp only
  rw [hspan]
  dsimp only
  rw [if_neg hopen, bufBytes_ok hb]
  rfl

/-- MEM_READ of bytes without a marked codeword: what it answers fits the buffer, whose length is the number of bytes read (R323, R355). -/
theorem State.tkMemRead_ok (u : State) (w : WaitTicket) {b : List Byte} (hspan : u.spanBad w.t (bufLen w.t) = none)
    (hclean : u.viewPoison (par w.t 0) (offsetOf w.t) (bufLen w.t) = []) (hobs : w.obs = { ce := [], ue := [] }) (hb : w.t.buf = .ok b) :
    u.tkMemRead w = (((u.account (par w.t 0) (offsetOf w.t) (bufLen w.t) false).draw 1).toHost (bufFrom w.t 0)
      (u.regRead false (par w.t 0) (offsetOf w.t) (bufLen w.t))).complete w 0 [u.epochWord] := by
  have hread : 0 + (u.regRead false (par w.t 0) (offsetOf w.t) (bufLen w.t)).length ≤ bufLen w.t := by
    rw [Nat.zero_add, State.regRead_length]
  have hstill : ((u.account (par w.t 0) (offsetOf w.t) (bufLen w.t) false).draw 1).viewPoison (par w.t 0) (offsetOf w.t)
      (bufLen w.t) = [] := (State.viewPoison_congr (u.account_mem _ _ _ _) _ _ _).trans hclean
  unfold State.tkMemRead
  dsimp only
  rw [hspan]
  dsimp only
  rw [hobs, State.viewErrors_clean _ _ _ _ _ hstill]
  exact State.answer_fits _ _ _ _ _ b hread hb

/-- REGION_FREE of a region that no loaded recipe names (R320, R355). -/
theorem State.tkRegionFree_ok (u : State) (w : WaitTicket) (hr : par w.t 0 ≤ 62) (hsome : (u.region (par w.t 0)).isSome = true)
    (hfree : ∀ x ∈ u.rcp.slots, ∀ e ∈ x.2.regions, e.region ≠ par w.t 0) :
    u.tkRegionFree w = ({ u.freePoison (par w.t 0) with mem := { (u.freePoison (par w.t 0)).mem with
      regions := Tab.del (u.freePoison (par w.t 0)).mem.regions (par w.t 0) } }).complete w 0 [] := by
  have hunnamed : u.rcp.slots.any (fun x => x.2.regions.any (fun e => e.region == par w.t 0)) = false := by
    simpa using hfree
  unfold State.tkRegionFree
  dsimp only
  rw [if_neg, hunnamed]
  · rfl
  · rintro (hlarge | hnone)
    · omega
    · rw [← Option.not_isSome, hsome] at hnone
      cases hnone

/-! ### O4 -/

/-- Settles O4: each ticket's own effect leaves the mailbox's tickets as they are, and ends in its completion. -/
theorem memoryTicketsReachTheRegion : Obligations.MemoryTicketsReachTheRegion := by
  unfold Obligations.MemoryTicketsReachTheRegion
  intro s k b hb
  refine ⟨fun h hspan hkind => ?write, fun h hspan hclean => ?read, fun h hr hsome hfree => ?free⟩
  case write =>
    obtain ⟨-, -, -, -, hmem, -⟩ := s.admits_same 0x0201 k
    rw [← s.admits_spanBad 0x0201 k] at hspan
    rw [← s.admits_named 0x0201 k, ← State.regionKind_congr hmem] at hkind
    refine congrArg _ (State.submit_plain (q := true) h rfl (State.tkMemWrite_ok _ (plain 0x0201 k) hspan hkind hb) ?_)
    rw [State.account_hif, State.regWriteCommitted_hif]
    exact h.free.idle_admits
  case read =>
    obtain ⟨-, -, -, -, hmem, -⟩ := s.admits_same 0x0202 k
    rw [← s.admits_spanBad 0x0202 k] at hspan
    rw [← State.viewPoison_congr hmem] at hclean
    rw [← s.admits_regRead 0x0202 k, ← s.admits_epochWord 0x0202 k]
    refine congrArg _ (State.submit_plain (q := true) h rfl (State.tkMemRead_ok _ (plain 0x0202 k) hspan hclean rfl hb) ?_)
    rw [State.toHost_hif, State.draw_hif, State.account_hif]
    exact h.free.idle_admits
  case free =>
    obtain ⟨-, hrcp, -, -, hmem, -⟩ := s.admits_same 0x0204 k
    rw [← State.region_congr hmem] at hsome
    rw [← hrcp] at hfree
    refine congrArg _ (State.submit_plain (q := true) h rfl (State.tkRegionFree_ok _ (plain 0x0204 k) hr hsome hfree) ?_)
    change ((s.admits 0x0204 k).freePoison (par k 0)).hif.Idle
    rw [State.freePoison_hif]
    exact h.free.idle_admits

end Sys2Proof.Machine
end

section
/-! Tickets that report, and that write a page or a buffer (R345, R354 to R356, R361, R418 to R420, R426, R430): what they report does not
depend on the rails, and a report that fits its buffer is written there before the ticket's completion. -/

namespace Sys2Proof.Machine

/-! ### Reports -/

/-- A ticket whose own effect is a completion alone, whatever the rails hold. -/
theorem State.submit_reports {s : State} {op : Half} {k : Ticket} {n a st : Nat} {q : Bool} {res : List Word} (h : TicketOk s op k n a)
    (he : opEntry op = some (n, a, q))
    (hrun : ∀ rs, State.runTicket { s with hif := { s.hif with rails := rs } } (plain op k)
      = State.complete { s with hif := { s.hif with rails := rs } } (plain op k) st res) :
    s.submit (plain op k) = (s.admits op k).post op k st res := by
  refine State.submit_plain h he ?_ h.free.idle_admits
  obtain ⟨rs, hrs⟩ := s.admits_eq op k
  rw [hrs]
  exact hrun rs

theorem State.tkRegionQuery_ok (u : State) (w : WaitTicket) (hr : par w.t 0 ≤ 63) :
    u.tkRegionQuery w = u.complete w 0 [(u.regionWords (par w.t 0)).1, (u.regionWords (par w.t 0)).2] :=
  if_neg (by omega)

/-- Settles O1: what each ticket reports is read beside the rails. -/
theorem queryTicketsAnswer : Obligations.QueryTicketsAnswer := by
  unfold Obligations.QueryTicketsAnswer
  intro s k
  refine ⟨fun h => ?_, fun h hr => ?_, fun h => ?_, fun h => ?_, fun h => ?_⟩
  · exact congrArg Host.Outcome.next (State.submit_reports (q := false) h rfl fun _ => rfl)
  · exact congrArg Host.Outcome.next (State.submit_reports (q := false) h rfl fun _ => State.tkRegionQuery_ok _ (plain 0x0203 k) hr)
  · exact congrArg Host.Outcome.next (State.submit_reports (q := false) h rfl fun _ => rfl)
  · exact congrArg Host.Outcome.next (State.submit_reports (q := false) h rfl fun _ => rfl)
  · exact congrArg Host.Outcome.next (State.submit_reports (q := false) h rfl fun _ => rfl)

/-! ### Answers in the buffer -/

/-- A ticket whose own effect is an answer in its buffer, whatever the rails hold: BAD_PARAM with word 4 where it does not fit (log 55). -/
theorem State.submit_writes {s : State} {op : Half} {k : Ticket} {n a at0 : Nat} {q : Bool} {res : List Word} {b bs : List Byte}
    (h : TicketOk s op k n a) (he : opEntry op = some (n, a, q)) (hb : k.buf = .ok b)
    (hrun : ∀ rs, State.runTicket { s with hif := { s.hif with rails := rs } } (plain op k)
      = State.answer { s with hif := { s.hif with rails := rs } } (plain op k) at0 bs res) :
    s.submit (plain op k) = if bufLen k < at0 + bs.length then (s.admits op k).post op k 2 [wd 4]
      else ((s.admits op k).toHost (bufFrom k at0) bs).post op k 0 res := by
  have hi : (s.admits op k).hif.Idle := h.free.idle_admits
  have hanswer : (s.admits op k).runTicket (plain op k) = (s.admits op k).answer (plain op k) at0 bs res := by
    obtain ⟨rs, hrs⟩ := s.admits_eq op k
    rw [hrs]
    exact hrun rs
  split
  · rename_i hshort
    exact State.submit_plain h he (hanswer.trans (if_pos hshort)) hi
  · rename_i hfits
    exact State.submit_page (plain op k) rfl rfl h he hb (Nat.le_of_not_lt hfits) hanswer hi.runs hi.waits hi.deletes

/-- One whose answer fits the buffer. -/
theorem State.submit_fits {s : State} {op : Half} {k : Ticket} {n a : Nat} {q : Bool} {res : List Word} {b bs : List Byte}
    (h : TicketOk s op k n a) (he : opEntry op = some (n, a, q)) (hb : k.buf = .ok b)
    (hrun : ∀ rs, State.runTicket { s with hif := { s.hif with rails := rs } } (plain op k)
      = State.answer { s with hif := { s.hif with rails := rs } } (plain op k) 0 bs res) (hfits : bs.length ≤ bufLen k) :
    s.submit (plain op k) = ((s.admits op k).toHost (bufFrom k 0) bs).post op k 0 res := by
  rw [State.submit_writes h he hb hrun, if_neg (by omega)]

/-! ### The tickets' own answers -/

theorem State.tkHistoryRead_ok (u : State) (w : WaitTicket) (hu : par w.t 1 < unitCount (par w.t 0))
    (hn : par w.t 1 + par w.t 2 ≤ unitCount (par w.t 0)) :
    u.tkHistoryRead w = u.answer w 0
      (wordBytes ((List.range (par w.t 2)).flatMap (fun i => u.histWords (par w.t 0) (par w.t 1 + i)))) [] := by
  unfold State.tkHistoryRead
  dsimp only
  rw [if_neg (by omega), if_neg (by omega), if_neg (by omega)]

theorem State.tkEventRead_ok (u : State) (w : WaitTicket) (ha : par w.t 0 ≤ 1) (hn : 64 * par w.t 2 ≤ bufLen w.t) :
    u.tkEventRead w = u.answer w 0 (wordBytes ((u.recordsFrom (par w.t 0) (par w.t 1) (par w.t 2)).flatMap Record.words))
      [wd (((u.recordsFrom (par w.t 0) (par w.t 1) (par w.t 2)).getLast?.map (fun r => r.seq + 1)).getD (par w.t 1))] := by
  unfold State.tkEventRead
  rw [if_neg (by omega), if_neg (by omega)]

theorem State.tkMeasure_ok (u : State) (w : WaitTicket) {b : List Byte} (hb : w.t.buf = .ok b) :
    u.tkMeasure w = u.answer w 64 ((b ++ List.replicate (32 - b.length) 0).take 32 ++ u.measurements
      ++ Config.identitySign ((b ++ List.replicate (32 - b.length) 0).take 32 ++ u.measurements)) [] := by
  unfold State.tkMeasure
  rw [bufBytes_ok hb]

/-- RATIO_READ of rings in which no codeword is uncorrectable (R220, R354). -/
theorem State.tkRatioRead_ok (u : State) (w : WaitTicket) {n : Nat} (hf : u.free = n) (hl : par w.t 0 ≤ 65535)
    (hn : par w.t 0 + par w.t 1 ≤ 65536)
    (hclean : ((u.draw 1).lookRings (Config.freeWord n).toNat ((List.range (par w.t 1)).map (par w.t 0 + ·)) w.obs).2 = false) :
    u.tkRatioRead w = ((u.draw 1).lookRings (Config.freeWord n).toNat ((List.range (par w.t 1)).map (par w.t 0 + ·)) w.obs).1.answer
      w 0 ((List.range (par w.t 1)).flatMap (fun i => u.ring (par w.t 0 + i))) [wd u.upd.lastStep] := by
  unfold State.tkRatioRead
  subst hf
  dsimp only
  rw [if_neg (by omega), if_neg (by omega), hclean]
  rfl

/-- CKPT_SAVE without a marked codeword, into a buffer that holds the image (R354, R356). -/
theorem State.tkCkptSave_ok (u : State) (w : WaitTicket) {r : Recipe} (hr : u.ckptRecipe = some r) (hl : u.imageLen r ≤ bufLen w.t)
    (hp : u.ckptPoison r = []) :
    u.tkCkptSave w = (u.lookParts r ckptKinds).answer w 0 (u.ckptHead r ++ ckptKinds.flatMap (u.ckptPart r)) [u.epochWord] := by
  unfold State.tkCkptSave
  rw [hr]
  dsimp only
  rw [if_neg (by omega), hp]
  rfl

/-! ### Reads of regions that leave the mailbox -/

/-- Nothing uncorrectable in a read, and nothing corrected: the state stays as it is (R323). -/
theorem State.viewErrors_none {s : State} {reader r off n : Nat} (h : (s.viewErrors reader r off n { ce := [], ue := [] }).2 = false) :
    (s.viewErrors reader r off n { ce := [], ue := [] }).1 = s := by
  have hmarked : (s.viewErrors reader r off n { ce := [], ue := [] }).2
      = !((s.viewPoison r off n).filter (fun k => !List.contains [] k)).isEmpty := rfl
  have hall : (s.viewPoison r off n).filter (fun k => !List.contains [] k) = s.viewPoison r off n :=
    List.filter_eq_self.mpr fun _ _ => rfl
  rw [hmarked, hall, Bool.not_eq_false', List.isEmpty_iff] at h
  rw [s.viewErrors_clean reader r off n h]

theorem State.lookRings_hif (s : State) (reader : Nat) (l : List Nat) (h : (s.lookRings reader l { ce := [], ue := [] }).2 = false) :
    (s.lookRings reader l { ce := [], ue := [] }).1.hif = s.hif := by
  induction l generalizing s with
  | nil => rfl
  | cons n l ih =>
    unfold State.lookRings at h ⊢
    cases hhome : s.ringHome n with
    | none =>
      rw [hhome] at h
      exact ih s h
    | some r =>
      rw [hhome] at h
      obtain ⟨hread, hrest⟩ := Bool.or_eq_false_iff.mp h
      exact (ih _ hrest).trans (by rw [State.viewErrors_none hread, State.account_hif])

theorem State.lookParts_hif (s : State) (r : Recipe) (ks : List Nat) : (s.lookParts r ks).hif = s.hif := by
  induction ks generalizing s with
  | nil => rfl
  | cons k ks ih =>
    unfold State.lookParts
    rw [ih]
    split
    · rfl
    · exact s.account_hif _ _ _ _

/-! ### O2 -/

theorem padded_length {α : Type} (l : List α) (n : Nat) (x : α) : ((l ++ List.replicate n x).take n).length = n := by
  simp

/-- Settles O2: each ticket's own effect is an answer that is read beside the rails. -/
theorem pageTicketsWriteTheirPages : Obligations.PageTicketsWriteTheirPages := by
  unfold Obligations.PageTicketsWriteTheirPages
  intro s k b hb
  refine ⟨fun h hl => ?identify, fun h hl => ?sct, fun h hl => ?telemetry, fun h => ?cert, fun h hu hn hl => ?history,
    fun h hl hn hfit => ?ratio, fun h ha hn hl => ?events, fun r h hr hl hp hfit => ?checkpoint, fun h => ?measure⟩
  case identify =>
    exact congrArg Host.Outcome.next (State.submit_fits (q := false) h rfl hb (fun _ => rfl) ((padded_length _ 4096 0).trans_le hl))
  case sct => exact congrArg Host.Outcome.next (State.submit_fits (q := false) h rfl hb (fun _ => rfl) hl)
  case telemetry =>
    obtain ⟨rs, hrs⟩ := s.admits_eq 0x0704 k
    have hi : ((s.admits 0x0704 k).draw 1).hif.Idle := h.free.idle_admits
    have hpage : (s.admits 0x0704 k).runTicket (plain 0x0704 k) = ((s.admits 0x0704 k).draw 1).answer (plain 0x0704 k) 0 s.telemetryPage [] := by
      rw [hrs]
      rfl
    exact congrArg Host.Outcome.next
      (State.submit_page (q := false) (plain 0x0704 k) rfl rfl h rfl hb (by omega) hpage hi.runs hi.waits hi.deletes)
  case cert =>
    have hsub := State.submit_writes (q := false) (at0 := 0) (bs := Config.certChain) (res := [wd Config.certChain.length]) h rfl hb
      (fun _ => rfl)
    rw [Nat.zero_add] at hsub
    exact congrArg Host.Outcome.next hsub
  case history =>
    exact congrArg Host.Outcome.next (State.submit_fits (q := false) h rfl hb (fun _ => State.tkHistoryRead_ok _ (plain 0x0702 k) hu hn) hl)
  case ratio =>
    intro e hclean
    obtain ⟨rs, hrs⟩ := s.admits_eq 0x0703 k
    have hfree : (s.admits 0x0703 k).free = s.free := by rw [hrs]
    have hring : (List.range (par k 1)).flatMap (fun i => (s.admits 0x0703 k).ring (par k 0 + i))
        = (List.range (par k 1)).flatMap (fun i => s.ring (par k 0 + i)) := by
      rw [hrs]
      rfl
    have hstep : (s.admits 0x0703 k).upd.lastStep = s.upd.lastStep := by rw [hrs]
    have hi : e.1.hif.Idle := by
      rw [State.lookRings_hif _ _ _ hclean]
      exact h.free.idle_admits
    have hrun : (s.admits 0x0703 k).runTicket (plain 0x0703 k) = e.1.answer (plain 0x0703 k) 0
        ((List.range (par k 1)).flatMap (fun i => s.ring (par k 0 + i))) [wd s.upd.lastStep] := by
      rw [← hring, ← hstep]
      exact State.tkRatioRead_ok _ (plain 0x0703 k) hfree hl hn hclean
    exact congrArg Host.Outcome.next
      (State.submit_page (q := false) (plain 0x0703 k) rfl rfl h rfl hb (by omega) hrun hi.runs hi.waits hi.deletes)
  case events =>
    exact congrArg Host.Outcome.next (State.submit_fits (q := false) h rfl hb (fun _ => State.tkEventRead_ok _ (plain 0x0701 k) ha hn) hl)
  case checkpoint =>
    obtain ⟨rs, hrs⟩ := s.admits_eq 0x0501 k
    have hi : ((s.admits 0x0501 k).lookParts r ckptKinds).hif.Idle := by
      rw [State.lookParts_hif]
      exact h.free.idle_admits
    have hrun : (s.admits 0x0501 k).runTicket (plain 0x0501 k) = ((s.admits 0x0501 k).lookParts r ckptKinds).answer (plain 0x0501 k) 0
        (s.ckptHead r ++ ckptKinds.flatMap (s.ckptPart r)) [s.epochWord] := by
      rw [hrs]
      exact State.tkCkptSave_ok _ (plain 0x0501 k) hr hl hp
    exact congrArg Host.Outcome.next
      (State.submit_page (q := true) (plain 0x0501 k) rfl rfl h rfl hb (by omega) hrun hi.runs hi.waits hi.deletes)
  case measure => exact congrArg Host.Outcome.next (State.submit_writes (q := false) h rfl hb (fun _ => State.tkMeasure_ok _ (plain 0x0A03 k) hb))

end Sys2Proof.Machine
end

section
/-! Tickets of the rails, the passes and the steps, and the end of every ticket (R344 to R351, R354, R355, R358). -/

namespace Sys2Proof.Machine

/-! ### Rails and passes of the state that has a ticket in flight -/

theorem State.admits_setRail {s : State} {op : Half} {k : Ticket} {r : Rail} (hr : Tab.find s.hif.rails k.rail = some r) :
    s.admits op k = s.setRail k.rail (ticketTaken r op k) := by
  unfold State.admits
  rw [hr]
  rfl

theorem State.admits_passes (s : State) (op : Half) (k : Ticket) : (s.admits op k).hif.passes = s.hif.passes := by
  obtain ⟨rs, hrs⟩ := s.admits_eq op k
  rw [hrs]

/-- A rail that does not exist still does not once a ticket of another has been taken. -/
theorem State.admits_no_rail {s : State} {op : Half} {k : Ticket} {n : Nat} (h : MailboxFree s op k) (hn : Tab.find s.hif.rails n = none) :
    Tab.find (s.admits op k).hif.rails n = none := by
  obtain ⟨r, hr, -⟩ := h.rail
  have hne : n ≠ k.rail := fun e => by rw [e, hr] at hn; cases hn
  rw [State.admits_setRail hr]
  exact (Tab.find_put_other _ _ _ _ hne).trans hn

/-- What every rail says of its pass stays as its ticket is taken. -/
theorem State.admits_pass_free {s : State} {op : Half} {k : Ticket} {n : Nat} (h : MailboxFree s op k)
    (hn : ∀ e ∈ s.hif.rails, e.2.pass ≠ n) : ∀ e ∈ (s.admits op k).hif.rails, e.2.pass ≠ n := by
  obtain ⟨r, hr, -⟩ := h.rail
  rw [State.admits_setRail hr]
  intro e he
  rcases Tab.mem_put _ _ _ _ he with rfl | hold
  · exact hn (k.rail, r) (Tab.find_mem _ _ _ hr)
  · exact hn e hold

/-! ### Creation and deletion -/

theorem State.tkCreateRail_ok (u : State) (w : WaitTicket) (h1 : 1 ≤ par w.t 0) (h2 : par w.t 0 ≤ 63) (h3 : 4 ≤ par w.t 1)
    (h4 : par w.t 1 ≤ 16) (h5 : par w.t 3 ≤ 3) (hp : (Tab.find u.hif.passes (par w.t 2)).isSome = true)
    (hn : Tab.find u.hif.rails (par w.t 0) = none) :
    u.tkCreateRail w = (u.setRail (par w.t 0)
      { base := w.t.addr, log2 := par w.t 1, pass := par w.t 2, prio := par w.t 3, head := 0, tail := 0, err := false,
        inflight := [] }).complete w 0 [] := by
  unfold State.tkCreateRail
  dsimp only
  rw [if_neg (by omega), if_neg (by omega), ← Option.not_isSome, hp, if_neg (by decide), if_neg (by omega), hn]
  rfl

theorem State.tkCreatePass_ok (u : State) (w : WaitTicket) (h1 : 1 ≤ par w.t 0) (h2 : par w.t 0 ≤ 63) (h3 : 4 ≤ par w.t 1)
    (h4 : par w.t 1 ≤ 16) (h5 : 1 ≤ par w.t 2) (h6 : par w.t 2 ≤ 64) (h7 : par w.t 4 ≤ 1000)
    (hn : Tab.find u.hif.passes (par w.t 0) = none) :
    u.tkCreatePass w = (u.setPass (par w.t 0)
      { base := w.t.addr, log2 := par w.t 1, vec := par w.t 2, cnt := par w.t 3, time := par w.t 4, head := 0, tail := 0, phase := true,
        used := 0, waiting := [], since := 0, timer := false }).complete w 0 [] := by
  unfold State.tkCreatePass
  dsimp only
  rw [if_neg (by omega), if_neg (by omega), if_neg (by omega), if_neg (by omega), hn]
  rfl

theorem State.tkDeletePass_ok (u : State) (w : WaitTicket) (h1 : 1 ≤ par w.t 0) (h2 : par w.t 0 ≤ 63)
    (hp : (Tab.find u.hif.passes (par w.t 0)).isSome = true) (hfree : ∀ e ∈ u.hif.rails, e.2.pass ≠ par w.t 0) :
    u.tkDeletePass w = ({ u with hif := { u.hif with passes := Tab.del u.hif.passes (par w.t 0) } }).complete w 0 [] := by
  have hunused : u.hif.rails.any (fun e => e.2.pass == par w.t 0) = false := by simpa using hfree
  unfold State.tkDeletePass
  dsimp only
  rw [← Option.not_isSome, hp, if_neg (by simp; omega), hunused]
  rfl

theorem State.tkDeleteRail_ok (u : State) (w : WaitTicket) (h1 : 1 ≤ par w.t 0) (h2 : par w.t 0 ≤ 63)
    (hr : (Tab.find u.hif.rails (par w.t 0)).isSome = true) :
    u.tkDeleteRail w = { u with hif := { u.hif with deleting := u.hif.deleting ++ [w] } } := by
  unfold State.tkDeleteRail
  dsimp only
  rw [← Option.not_isSome, hr, if_neg (by simp; omega)]

theorem State.finishDeletes_idle {s : State} {w : WaitTicket} (l : List WaitTicket) (h : s.railIdle w = true) :
    s.finishDeletes (w :: l) = ((State.okT { s with hif := { s.hif with deleting := s.hif.deleting.erase w } } w []).dropRail
      (par w.t 0)).finishDeletes l :=
  if_pos h

/-- A deletion whose rail has no other ticket in flight takes place at once: its own ticket completes, and then the rail goes. -/
theorem State.drainN_delete (u : State) (w : WaitTicket) (hi : u.hif.Idle) (hidle : u.railIdle w = true) :
    State.drainN { u with hif := { u.hif with deleting := u.hif.deleting ++ [w] } } 1
      = (u.post w.op w.t 0 []).dropRail (par w.t 0) := by
  obtain ⟨hw, hd, hb⟩ := hi
  have hback : ({ u with hif := { u.hif with deleting := List.erase [w] w } } : State) = u := by
    rw [List.erase_cons_head, ← hd]
  have hfinish : State.finishDeletes { u with hif := { u.hif with deleting := [w] } } [w]
      = (u.post w.op w.t 0 []).dropRail (par w.t 0) := by
    refine (State.finishDeletes_idle (s := { u with hif := { u.hif with deleting := [w] } }) [] hidle).trans ?_
    dsimp only
    rw [hback, State.okT_eq, u.complete_post w 0 [] hb]
    rfl
  have hnone : ((u.post w.op w.t 0 []).dropRail (par w.t 0)).hif.waitq = [] := (u.post_waitq w.op w.t 0 []).1.trans hw
  unfold State.drainN
  dsimp only
  rw [hd, List.nil_append, hfinish, hnone, State.startable_nil]

theorem exec_deleteRail {s : State} {k : Ticket} {r : Rail} (h : TicketOk s 0x0103 k 1 0) (h1 : 1 ≤ par k 0) (h2 : par k 0 ≤ 63)
    (hr : Tab.find s.hif.rails (par k 0) = some r) (hrest : k.rail ≠ par k 0 → r.inflight = []) :
    exec (.deleteRail k) s = .next (((s.admits 0x0103 k).post 0x0103 k 0 []).dropRail (par k 0)) := by
  obtain ⟨own, hown, -⟩ := h.free.rail
  -- the rail as it stands with the ticket in flight: it has no ticket but this one
  have hfind : ∃ x, Tab.find (s.admits 0x0103 k).hif.rails (par k 0) = some x
      ∧ x.inflight.all (fun y => k.rail == par k 0 && y.id == k.slot) = true := by
    rw [State.admits_setRail hown]
    by_cases he : par k 0 = k.rail
    · rw [he]
      exact ⟨_, Tab.find_put_same _ _ _, by simp [ticketTaken]⟩
    · refine ⟨r, (Tab.find_put_other _ _ _ _ he).trans hr, ?_⟩
      rw [hrest (Ne.symm he)]
      rfl
  obtain ⟨x, hx, hall⟩ := hfind
  have hidle : (s.admits 0x0103 k).railIdle (plain 0x0103 k) = true := by
    unfold State.railIdle
    change (match Tab.find (s.admits 0x0103 k).hif.rails (par k 0) with
      | none => true
      | some r => r.inflight.all (fun y => k.rail == par k 0 && y.id == k.slot)) = true
    rw [hx]
    exact hall
  have hrun := State.tkDeleteRail_ok _ (plain 0x0103 k) h1 h2 (Option.isSome_of_mem hx)
  refine congrArg Host.Outcome.next ((State.submit_runs (w := plain 0x0103 k) (q := false) h rfl).trans ?_)
  exact (congrArg (State.drainN · 1) hrun).trans (State.drainN_delete _ (plain 0x0103 k) h.free.idle_admits hidle)

/-! ### O3 -/

/-- Settles O3: a rail or pass that is created is put beside the others; a rail's deletion takes place where the rail has no other ticket
in flight. -/
theorem railsAndPassesComeAndGo : Obligations.RailsAndPassesComeAndGo := by
  unfold Obligations.RailsAndPassesComeAndGo
  intro s k
  refine ⟨fun h h1 h2 h3 h4 h5 hp hn => ?_, fun h h1 h2 ⟨r, hr, hrest⟩ => exec_deleteRail h h1 h2 hr hrest,
    fun h h1 h2 h3 h4 h5 h6 h7 hn => ?_, fun h h1 h2 hp hfree => ?_⟩
  · obtain ⟨hw, hd, hb⟩ := h.free.idle_admits
    rw [← s.admits_passes 0x0102 k] at hp
    exact congrArg Host.Outcome.next (State.submit_plain (q := false) h rfl
      (State.tkCreateRail_ok _ (plain 0x0102 k) h1 h2 h3 h4 h5 hp (State.admits_no_rail h.free hn)) ⟨hw, hd, hb⟩)
  · obtain ⟨hw, hd, hb⟩ := h.free.idle_admits
    rw [← s.admits_passes 0x0104 k] at hn
    exact congrArg Host.Outcome.next (State.submit_plain (q := false) h rfl
      (State.tkCreatePass_ok _ (plain 0x0104 k) h1 h2 h3 h4 h5 h6 h7 hn) ⟨hw, hd, hb⟩)
  · obtain ⟨hw, hd, hb⟩ := h.free.idle_admits
    rw [← s.admits_passes 0x0105 k] at hp ⊢
    exact congrArg Host.Outcome.next (State.submit_plain (q := false) h rfl
      (State.tkDeletePass_ok _ (plain 0x0105 k) h1 h2 hp (State.admits_pass_free h.free hfree)) ⟨hw, hd, hb⟩)

/-! ### Steps (R358) -/

theorem State.tkStep_ok (u : State) (w : WaitTicket) (run : Bool) (hs : u.rcp.state = .running) (hr : u.runningRecipe.isSome = true)
    (hk : u.cur.head.isRun = run) : u.tkStep w run = u.enterStep.busy w :=
  if_pos ⟨hs, hr, hk⟩

/-- With a recipe of its kind running, a ticket of group 0x04 enters the step and waits for a tick. -/
theorem State.submit_enters {s : State} {op : Half} {k : Ticket} {run : Bool} (h : TicketOk s op k 0 0) (he : opEntry op = some (0, 0, true))
    (hop : (s.admits op k).runTicket (plain op k) = (s.admits op k).tkStep (plain op k) run) (hs : s.rcp.state = .running)
    (hr : s.runningRecipe.isSome = true) (hk : s.cur.head.isRun = run) : s.submit (plain op k) = (s.admits op k).enterStep.busy (plain op k) := by
  obtain ⟨-, hrcp, -⟩ := s.admits_same op k
  rw [← State.runningRecipe_congr hrcp] at hr
  rw [← State.cur_congr hrcp] at hk
  rw [← hrcp] at hs
  exact State.submit_waits h he (hop.trans (State.tkStep_ok _ _ _ hs hr hk)) h.free.idle_admits

/-- Settles O6: the step that a ticket enters is told by the state beside the rails. -/
theorem stepTicketsEnterTheStep : Obligations.StepTicketsEnterTheStep := by
  unfold Obligations.StepTicketsEnterTheStep
  intro s k
  have entered (op : Half) : (s.admits op k).enterStep = { s.admits op k with
      stp := { Stp.reset with active := true, step := s.rcp.nextStep, tags := s.stp.tags, pendMb := s.stp.pendMb, mbRan := s.stp.mbRan,
                              drops := s.stp.drops, thinSegs := s.stp.thinSegs, boundary := s.stp.boundary, held := s.stp.held } } := by
    obtain ⟨rs, hrs⟩ := s.admits_eq op k
    rw [hrs]
    rfl
  refine ⟨fun h hs hr hk => congrArg Host.Outcome.next ?_, fun h hs hr hk => congrArg Host.Outcome.next ?_⟩
  · rw [State.submit_enters (run := false) h rfl rfl hs hr hk, entered]
    rfl
  · rw [State.submit_enters (run := true) h rfl rfl hs hr hk, entered]
    rfl

/-! ### Tickets that do not run (R349 to R351, R354) -/

theorem State.startTicket_unlisted (u : State) (w : WaitTicket) (h : opEntry w.op = none) : u.startTicket w = u.complete w 1 [] := by
  unfold State.startTicket
  rw [h]
  rfl

theorem State.startTicket_badState (u : State) (w : WaitTicket) (h : (opEntry w.op).isSome = true) (hs : u.stateAllows w.op = false) :
    u.startTicket w = u.complete w 3 [wd u.hif.state.code] := by
  obtain ⟨e, he⟩ := Option.isSome_iff_exists.mp h
  unfold State.startTicket
  rw [he]
  dsimp only
  rw [hs]
  rfl

theorem State.startTicket_denied (u : State) (w : WaitTicket) (h : (opEntry w.op).isSome = true) (hs : u.stateAllows w.op = true)
    (hd : u.denies w.op = true) : u.startTicket w = u.complete w 5 [] := by
  obtain ⟨e, he⟩ := Option.isSome_iff_exists.mp h
  unfold State.startTicket
  rw [he]
  dsimp only
  rw [hs, hd]
  rfl

theorem State.startTicket_flawed (u : State) (w : WaitTicket) {e : Nat × Nat × Bool} {i : Nat} (h : opEntry w.op = some e)
    (hs : u.stateAllows w.op = true) (hd : u.denies w.op = false) (hf : w.flaw e = some i) : u.startTicket w = u.complete w 2 [wd i] := by
  unfold State.startTicket
  rw [h]
  dsimp only
  rw [hs, hd, hf]
  rfl

/-- STATE and the locks stay as a ticket is taken. -/
theorem State.admits_checks (s : State) (op : Half) (k : Ticket) :
    (s.admits op k).stateAllows op = s.stateAllows op ∧ (s.admits op k).denies op = s.denies op := by
  obtain ⟨rs, hrs⟩ := s.admits_eq op k
  rw [hrs]
  exact ⟨rfl, rfl⟩

theorem State.stateAllows_of_serving {s : State} (op : Half) (h : s.hif.state ≠ .fault) : s.stateAllows op = true := by
  unfold State.stateAllows
  simp [h]

/-- A ticket whose start is a completion alone ends with it. -/
theorem State.submit_refuses {s : State} {op : Half} {k : Ticket} {st : Nat} {res : List Word} (hf : MailboxFree s op k)
    (hover : s.hif.state = .lost ∨ s.hif.state = .fault → s.stp.saved = none ∧ s.runningRecipe = none)
    (hstart : (s.admits op k).startTicket (plain op k) = (s.admits op k).complete (plain op k) st res) :
    exec (.ticketBadOpcode op k) s = .next ((s.admits op k).post op k st res) := by
  obtain ⟨hw, hd, hb⟩ := hf.idle_admits
  obtain ⟨hwait, hdel⟩ := (s.admits op k).post_waitq op k st res
  refine congrArg Host.Outcome.next ?_
  rw [State.submit_starts (w := plain op k) hf hover]
  change ((s.admits op k).startTicket (plain op k)).drainN 1 = _
  rw [hstart, State.complete_post _ _ _ _ hb]
  exact State.drainN_quiet _ _ (hwait.trans hw) (hdel.trans hd)

/-! ### The end of every ticket (R347, R349) -/

/-- A completion put behind those that its rail's pass still has to write. -/
theorem State.post_eq {s : State} {op : Half} {k : Ticket} {st : Nat} {res : List Word} {r : Rail} {p : Pass}
    (hr : Tab.find s.hif.rails k.rail = some r) (hp : Tab.find s.hif.passes r.pass = some p) :
    s.post op k st res = { s with hif := { s.hif with
      rails := Tab.put s.hif.rails k.rail { r with inflight := r.inflight.filter (fun x => !(x.id == k.slot && x.op == op)) }
      passes := Tab.put s.hif.passes r.pass { p with waiting := p.waiting ++
        [{ rail := k.rail, head := r.head, tag := k.tag, status := BitVec.ofNat 16 st, res := res, quiet := k.quiet }] } } } := by
  unfold State.post
  rw [hr]
  dsimp only
  rw [hp]

/-! ### O11 -/

/-- Settles O11: the checks of a ticket's start in their order, and the completion that is put behind those of its pass. -/
theorem ticketsEndWithACompletion : Obligations.TicketsEndWithACompletion := by
  unfold Obligations.TicketsEndWithACompletion
  intro s op k
  refine ⟨fun hf hover => ?refused, fun st res r p hr hp => ?ended⟩
  case refused =>
    obtain ⟨hallows, hdenies⟩ := s.admits_checks op k
    obtain ⟨-, -, -, -, -, hstate⟩ := s.admits_same op k
    -- a lock that covers a listed opcode, of a device that serves it
    have locked (hlisted : (opEntry op).isSome = true) (hs : s.hif.state ≠ .fault) (hd : s.denies op = true) :
        exec (.ticketBadOpcode op k) s = .next ((s.admits op k).post op k 5 []) :=
      State.submit_refuses hf hover (State.startTicket_denied _ (plain op k) hlisted
        (hallows.trans (State.stateAllows_of_serving op hs)) (hdenies.trans hd))
    refine ⟨fun hnone => ?_, fun hlisted hs h1 h7 => ?_, fun hs hlock hop => ?_, fun hs hlock hop => ?_, fun e i he hs hd hflaw => ?_⟩
    · exact State.submit_refuses hf hover (State.startTicket_unlisted _ (plain op k) hnone)
    · have hdown : s.stateAllows op = false := by
        unfold State.stateAllows
        simp [hs, h1, h7]
      have hstart := State.startTicket_badState _ (plain op k) hlisted (hallows.trans hdown)
      rw [hstate, hs] at hstart
      exact State.submit_refuses hf hover hstart
    · refine locked ?_ hs ?_
      · rcases hop with rfl | rfl | rfl <;> rfl
      · unfold State.denies
        rcases hop with rfl | rfl | rfl <;> simp [hlock]
    · subst hop
      refine locked rfl hs ?_
      unfold State.denies
      simp [hlock]
    · exact State.submit_refuses hf hover (State.startTicket_flawed _ (plain op k) he (hallows.trans hs) (hdenies.trans hd) hflaw)
  case ended =>
    intro t
    have ht : t = _ := State.post_eq hr hp
    rw [ht]
    exact ⟨Tab.find_put_same _ _ _, Tab.find_put_same _ _ _, fun n hn => Tab.find_put_other _ _ _ _ hn,
      fun n hn => Tab.find_put_other _ _ _ _ hn, rfl⟩

end Sys2Proof.Machine
end

section
/-! Work that leaves the host interface but for its interrupt bits and vector requests: the taking of a shadow (R379), and the blocks and
arrays that a change of the idle level loses or loads (R146, R400). -/

namespace Sys2Proof.Machine

/-! ### Lists and numeric computations -/

theorem Hif.OnlySignals.of_eq {h g : Hif} (e : g = h) : h.OnlySignals g := e ▸ .refl h

theorem State.foldl_signals {α : Type} {f : State → α → State} (hf : ∀ (t : State) a, t.hif.OnlySignals (f t a).hif) (l : List α)
    (s : State) : s.hif.OnlySignals (l.foldl f s).hif := by
  induction l generalizing s with
  | nil => exact .refl _
  | cons a l ih => exact (hf s a).trans (ih _)

/-- The state that a numeric computation answers differs from a host interface in signals alone. -/
def Nm.Signals {α : Type} (h : Hif) (m : Nm (State × α)) : Prop :=
  ∀ f, h.OnlySignals (m.run f).1.1.hif

theorem Nm.Signals.pure {α : Type} {h : Hif} {a : State × α} (ha : h.OnlySignals a.1.hif) : Nm.Signals h (Pure.pure a) := fun _ => ha

theorem Nm.Signals.bind {α β : Type} {h : Hif} {m : Nm (State × α)} {g : State × α → Nm (State × β)} (hm : Nm.Signals h m)
    (hg : ∀ a, h.OnlySignals a.1.hif → Nm.Signals h (g a)) : Nm.Signals h (m >>= g) := fun f => hg _ (hm f) _

theorem Nm.Signals.skip {α β : Type} {h : Hif} {m : Nm α} {g : α → Nm (State × β)} (hg : ∀ a, Nm.Signals h (g a)) :
    Nm.Signals h (m >>= g) := fun _ => hg _ _

/-! ### Writes to the regions -/

theorem State.regWrite_hif (s : State) (r off : Nat) (bs : List Byte) : (s.regWrite r off bs).hif = s.hif := by
  have h := s.regWrite_devs r off bs
  unfold State.devsOf at h
  rw [h]

theorem State.opWrite_hif (s : State) (core : Nat) (o : Opnd) (bs : List Byte) : (s.opWrite core o bs).hif = s.hif := by
  unfold State.opWrite
  split
  · exact s.regWrite_hif _ _ _
  · exact s.coreWrite_hif _ _ _

theorem State.bothBanks_hif (s : State) (g n : Nat) (bs : List Byte) : (s.bothBanks g n bs).hif = s.hif := by
  unfold State.bothBanks
  dsimp only
  rw [State.account_hif, State.rawWrite_hif, State.account_hif, State.rawWrite_hif]

theorem State.putKind_hif (s : State) (r : Recipe) (k : Nat) (bs : List Byte) : (s.putKind r k bs).hif = s.hif := by
  unfold State.putKind
  split
  · rfl
  · exact s.bothBanks_hif _ _ _

/-! ### The logged steps of a shadow -/

theorem State.restore_hif (s : State) (r off n : Nat) : (s.restore r off n).hif = s.hif := s.regWrite_hif _ _ _

theorem State.holdLayer_hif (s : State) (d : Desc) (l : Layer) : (s.holdLayer d l).hif = s.hif := by
  unfold State.holdLayer
  dsimp only
  rw [State.restore_hif]
  split
  · rw [State.restore_hif, State.restore_hif]
  · exact s.restore_hif _ _ _

theorem State.updateWrites_hif (s : State) (d : Desc) (l : Layer) (r : UpdRun) : (s.updateWrites d l r).hif = s.hif := by
  unfold State.updateWrites
  extract_lets core oB s1 s2 s3
  have h1 : s1.hif = s.hif := s.opWrite_hif _ _ _
  have h2 : s2.hif = s.hif := by
    unfold s2
    split
    · rw [State.regWrite_hif, h1]
    · exact h1
  have h3 : s3.hif = s.hif := (State.opWrite_hif _ _ _ _).trans h2
  split
  · exact (State.opWrite_hif _ _ _ _).trans h3
  · exact h3

theorem State.logUpdate_hif (s : State) (grad : List Byte) (d : Desc) : (s.logUpdate grad d).hif = s.hif := by
  unfold State.logUpdate
  split
  · rfl
  · split
    · rfl
    · dsimp only
      split
      · rfl
      · split
        · exact s.holdLayer_hif _ _
        · exact s.updateWrites_hif _ _ _

theorem State.logUpdates_hif (s : State) (grad : List Byte) (l : List Desc) : (s.logUpdates grad l).hif = s.hif := by
  induction l generalizing s with
  | nil => rfl
  | cons d l ih => exact (ih _).trans (s.logUpdate_hif _ _)

theorem State.logSteps_hif (s : State) (ds : List Desc) (l : List ShadowLog) : (s.logSteps ds l).hif = s.hif := by
  induction l generalizing s with
  | nil => rfl
  | cons x l ih => exact (ih _).trans (State.logUpdates_hif _ _ _)

/-! ### The image and the arrays rebuilt from it -/

theorem State.observe_hif (s : State) (g : Nat) (e : Word) : (s.observe g e).hif = s.hif := by
  have hlook : (s.estLook g).hif = s.hif := by
    unfold State.estLook
    split
    · rfl
    · exact s.account_hif _ _ _ _
  unfold State.observe
  dsimp only
  rw [(State.estPut_estimated _ _ _ _).only]
  exact hlook

theorem State.corrects_hif (s : State) (md : FMode) (l : List (Nat × Word)) : (s.corrects md l).hif = s.hif := by
  induction l generalizing s with
  | nil => rfl
  | cons g l ih => exact (ih _).trans (State.count_hif _ _ _)

theorem State.spillWrite_hif (s : State) (array : Nat) (es : List OutEnt) : (s.spillWrite array es).hif = s.hif := by
  unfold State.spillWrite
  dsimp only
  split
  · rfl
  · exact (State.account_hif _ _ _ _ _).trans (s.regWrite_hif _ _ _)

theorem State.raiseOnce_signals (s : State) (code key unit : Nat) (l : List Word) : s.hif.OnlySignals (s.raiseOnce code key unit l).hif := by
  unfold State.raiseOnce
  split
  · exact .refl _
  · exact (State.raiseU_logged _ _ _ _).hif

theorem State.outlierOvf_signals (s : State) (d : Desc) (array : Nat) (excess : List Cand) (obs : List (Nat × Word)) :
    s.hif.OnlySignals (s.outlierOvf d array excess obs).1.hif := by
  unfold State.outlierOvf
  split
  · exact .refl _
  · extract_lets pol room spilled dropped s1 s2 s3
    have h1 : s1.hif = s.hif := by
      unfold s1
      split
      · rfl
      · exact s.spillWrite_hif _ _
    have h2 : s2.hif = s.hif := by
      unfold s2
      rw [State.count_hif, State.count_hif, h1]
    have h3 : s.hif.OnlySignals s3.hif := h2 ▸ s2.raiseOnce_signals _ _ _ _
    dsimp only
    split
    · rw [State.cause_hif, State.corrects_hif]
      exact h3
    · exact h3

theorem State.quantGroup_signals (s : State) (q : QCfg) (j g0 row0 : Nat) (xs : List Word) :
    Nm.Signals s.hif (s.quantGroup q j g0 row0 xs) := by
  have observed (g : Nat) (e : Word) : s.hif.OnlySignals (s.observe g e).hif := .of_eq (s.observe_hif g e)
  unfold State.quantGroup
  split
  · exact .pure (.refl _)
  · refine .skip fun a => ?_
    split
    · exact .skip fun e => .skip fun sc => .skip fun bs => .pure (.refl _)
    · exact .skip fun e => .skip fun sc => .skip fun bs => .pure (observed _ _)

theorem State.quantGroups_signals {h : Hif} {s : State} (hs : h.OnlySignals s.hif) (q : QCfg) (j r0 row0 : Nat) (gs : List (List Word)) :
    Nm.Signals h (s.quantGroups q j r0 row0 gs) := by
  induction gs generalizing s row0 with
  | nil => exact .pure hs
  | cons g gs ih =>
    exact .bind (fun f => hs.trans (s.quantGroup_signals q j _ row0 g f)) fun a ha => .bind (ih ha _) fun c hc => .pure hc

theorem State.quantCols_signals {h : Hif} {s : State} (hs : h.OnlySignals s.hif) (q : QCfg) (j r0 : Nat) (cols : List (List Word)) :
    Nm.Signals h (s.quantCols q j r0 cols) := by
  induction cols generalizing s j with
  | nil => exact .pure hs
  | cons c cols ih => exact .bind (State.quantGroups_signals hs _ _ _ _ _) fun a ha => .bind (ih ha _) fun c hc => .pure hc

theorem State.quantArray_signals {h : Hif} {s : State} (hs : h.OnlySignals s.hif) (d : Desc) (q : QCfg) (cols : List (List Word))
    (n part : Nat) : Nm.Signals h (s.quantArray d q cols n part) := by
  unfold State.quantArray
  refine .bind (State.quantCols_signals hs _ _ _ _) fun x hx => .skip fun rows => .pure ?_
  -- the writes of the image, the plane and the outlier part, and the note of the part
  have written (u : State) (b1 b2 b3 : List Byte) (o1 o2 o3 : Opnd) (l : List Ext) (p : PartInfo) :
      ((((((u.opWrite (Desc.home d) o1 b1).opWrite (Desc.home d) o2 b2).opWrite (Desc.home d) o3 b3).accountExts l).notePart p)).hif = u.hif := by
    change (State.accountExts _ l).hif = u.hif
    rw [State.accountExts_only]
    change (State.opWrite _ _ o3 b3).hif = u.hif
    rw [State.opWrite_hif, State.opWrite_hif, State.opWrite_hif]
  have hovf (e : List Cand) (o : List (Nat × Word)) : h.OnlySignals (x.1.outlierOvf d (qArray0 d + n) e o).1.hif :=
    hx.trans (State.outlierOvf_signals _ _ _ _ _)
  dsimp only
  split
  · rw [State.cause_hif, State.corrects_hif, written]
    exact hovf _ _
  · rw [written]
    exact hovf _ _

theorem State.quantArrays_signals {h : Hif} {s : State} (hs : h.OnlySignals s.hif) (d : Desc) (q : QCfg) (cols : List (List Word))
    (ns : List Nat) (part : Nat) (ov : Bool) : Nm.Signals h (s.quantArrays d q cols ns part ov) := by
  induction ns generalizing s part ov with
  | nil => exact .pure hs
  | cons n ns ih => exact .bind (State.quantArray_signals hs _ _ _ _ _) fun a ha => ih ha _ _

theorem State.rebuildImage_signals (s : State) (l : List Desc) : s.hif.OnlySignals (s.rebuildImage l).hif := by
  induction l generalizing s with
  | nil => exact .refl _
  | cons d l ih =>
    have hrun : Nm.Signals s.hif (s.quantiseRun d true) := .skip fun ws => State.quantArrays_signals (.refl _) _ _ _ _ _ _
    exact (hrun fx0).trans (ih _)

theorem State.noteWrite_hif (s : State) (a : Nat) (full more : Bool) : (s.noteWrite a full more).hif = s.hif := by
  unfold State.noteWrite
  dsimp only
  rw [apply_ite State.hif, apply_ite State.hif]
  exact (if_congr Iff.rfl (ite_self _) rfl).trans (ite_self _)

theorem State.awrite_signals (s : State) (d : Desc) : s.hif.OnlySignals (s.awrite d).hif := by
  unfold State.awrite
  dsimp only
  split
  · exact .of_eq (s.noteWrite_hif _ _ _)
  · split
    · exact .of_eq (State.noteWrite_hif _ _ _ _)
    · rw [State.noteWrite_hif]
      exact (s.program_tended _ _ _).hif

theorem State.rebuildArrays_signals (s : State) (l : List Desc) : s.hif.OnlySignals (s.rebuildArrays l).hif := by
  induction l generalizing s with
  | nil => exact .refl _
  | cons d l ih => exact (s.awrite_signals d).trans (ih _)

/-- A shadow taken leaves the host interface but for signals (R379). -/
theorem State.takeShadow_signals (s : State) (r : Recipe) (x : ShadowImage) : s.hif.OnlySignals (s.takeShadow r x).hif := by
  unfold State.takeShadow
  dsimp only
  refine Hif.OnlySignals.trans ?_ ((State.rebuildImage_signals _ _).trans (State.rebuildArrays_signals _ _))
  refine .of_eq ?_
  have logged : (State.logSteps (State.under (State.putKind (State.putKind (State.putKind (State.putKind (State.putKind s r 3 x.hi) r 4 x.comp)
      r 5 x.mom) r 6 x.est) r 0xA x.err) r) (r.ops 0x80) x.logs).hif = s.hif := by
    rw [State.logSteps_hif]
    change (State.putKind _ r 0xA x.err).hif = s.hif
    simp only [State.putKind_hif]
  cases x.logs.getLast? with
  | none => exact logged
  | some g => exact ((State.putKind_hif _ _ _ _).trans (State.putKind_hif _ _ _ _)).trans logged

/-! ### Blocks and arrays at a change of the idle level -/

theorem State.loseArrays_hif (s : State) (l : List Nat) : (s.loseArrays l).hif = s.hif := by
  induction l generalizing s with
  | nil => rfl
  | cons a l ih => exact ih _

theorem State.rewriteArrays_signals (s : State) (l : List Nat) : s.hif.OnlySignals (s.rewriteArrays l).hif := by
  induction l generalizing s with
  | nil => exact .refl _
  | cons a l ih =>
    unfold State.rewriteArrays
    dsimp only
    split
    · exact ih s
    · exact (s.programAll_tended _ _).hif.trans (ih _)

theorem State.calFail_signals (s : State) (unit : Nat) (l : List Word) : s.hif.OnlySignals (s.calFail unit l).hif := by
  unfold State.calFail
  rw [State.count_hif]
  exact (s.raiseU_logged _ _ _).hif

theorem State.rowsFail_signals (s : State) (a : Nat) (l : List Nat) : s.hif.OnlySignals (s.rowsFail a l).hif := by
  induction l generalizing s with
  | nil => exact .refl _
  | cons r l ih => exact (s.rowFails_tended _ _ _).hif.trans (ih _)

theorem State.useRemap_signals (s : State) (core : Nat) (bs : List Byte) : s.hif.OnlySignals (s.useRemap core bs).hif := by
  unfold State.useRemap
  refine State.foldl_signals ?_ _ _
  intro t i
  exact .of_eq rfl

theorem State.badRemap_signals (s : State) (core : Nat) : s.hif.OnlySignals (s.badRemap core).hif := by
  unfold State.badRemap
  refine (s.calFail_signals _ _).trans (State.foldl_signals ?_ _ _)
  intro t i
  have fails (u : State) (hu : u.hif = t.hif) (a : Nat) (l m : List Nat) : t.hif.OnlySignals ((u.rowsFail a l).rowsFail a m).hif :=
    hu ▸ (u.rowsFail_signals a l).trans (State.rowsFail_signals _ _ _)
  refine fails _ ?_ _ _ _
  rfl

theorem State.loadRemap_signals (s : State) (core : Nat) (n : NvmRead) : s.hif.OnlySignals (s.loadRemap core n).hif := by
  unfold State.loadRemap
  split
  · exact .refl _
  · split
    · exact s.useRemap_signals _ _
    · exact s.useRemap_signals _ _
    · exact s.useRemap_signals _ _
    · exact s.badRemap_signals _

theorem State.makeDue_hif (s : State) (core : Nat) (urgent : Bool) : (s.makeDue core urgent).hif = s.hif := by
  obtain ⟨d, u, h, -⟩ := s.makeDue_spec core urgent
  rw [h]

theorem State.badBlock_signals (s : State) (core : Nat) : s.hif.OnlySignals (s.badBlock core).hif := by
  unfold State.badBlock
  dsimp only
  rw [State.makeDue_hif, State.setCore_hif, State.count_hif]
  exact s.calFail_signals _ _

theorem State.useBlock_signals (s : State) (core : Nat) (bs : List Byte) : s.hif.OnlySignals (s.useBlock core bs).hif := by
  unfold State.useBlock
  dsimp only
  refine Hif.OnlySignals.trans (.of_eq ?_) (State.foldl_signals ?_ _ _)
  · rfl
  · intro t i
    exact .of_eq rfl

theorem State.loadBlock_signals (s : State) (core : Nat) (n : NvmRead) : s.hif.OnlySignals (s.loadBlock core n).hif := by
  unfold State.loadBlock
  split
  · exact .refl _
  · split
    · exact s.useBlock_signals _ _
    · exact s.badBlock_signals _

theorem State.loadBlocks_signals (s : State) (n : NvmRead) (l : List Nat) : s.hif.OnlySignals (s.loadBlocks n l).hif := by
  induction l generalizing s with
  | nil => exact .refl _
  | cons c l ih =>
    unfold State.loadBlocks
    split
    · exact ih s
    · exact ((s.loadRemap_signals c n).trans (State.loadBlock_signals _ c n)).trans (ih _)

theorem State.idleEffects_signals (s : State) (old new : Nat) (n : NvmRead) : s.hif.OnlySignals (s.idleEffects old new n).hif := by
  unfold State.idleEffects
  dsimp only
  have moved (t : State) (ht : t.hif = s.hif) : s.hif.OnlySignals (if old < 4 ∧ 4 ≤ new then t.loseArrays (List.range 2048)
      else if 4 ≤ old ∧ new < 4 then (t.loadBlocks n (List.range 128)).rewriteArrays (List.range 2048) else t).hif := by
    rw [← ht]
    split
    · exact .of_eq (t.loseArrays_hif _)
    · split
      · exact (t.loadBlocks_signals _ _).trans (State.rewriteArrays_signals _ _)
      · exact .refl _
  refine moved _ ?_
  split <;> rfl

/-- A change of the idle level leaves the host interface but for signals (R400, R401). -/
theorem State.setIdle_signals (s : State) (n : Nat) (nvm : NvmRead) : s.hif.OnlySignals (s.setIdle n nvm).hif := by
  unfold State.setIdle
  split
  · exact .refl _
  · dsimp only
    refine Hif.OnlySignals.trans ?_ (State.setIrq_signals _ 1)
    refine Hif.OnlySignals.trans ?_ (State.raise_logged _ 0x1007 []).hif
    refine Hif.OnlySignals.trans ?_ (State.idleEffects_signals _ _ _ _)
    exact .of_eq rfl

end Sys2Proof.Machine
end

section
/-! Restored images and shadows, and the idle level and the power limit by ticket (R351, R354 to R356, R378, R379, R400, R401, R407). -/

namespace Sys2Proof.Machine

/-! ### Restored images and shadows -/

/-- CKPT_RESTORE of a buffer that holds the image: the head's first flaw, or the digest, decides (R356). -/
theorem State.tkCkptRestore_ok (u : State) (w : WaitTicket) {r : Recipe} {bs : List Byte} (hr : u.ckptRecipe = some r)
    (hl : u.imageLen r ≤ bufLen w.t) (hb : bufBytes w.t (u.imageLen r) = some bs) :
    (∀ f, u.headFlaw r bs = some f → u.tkCkptRestore w = u.complete w 0xB [wd f])
    ∧ (u.headFlaw r bs = none →
      (headField bs 0x10 8 = leBytes 8 (sumDigest (u.imageDigests r (bs.drop 4096))).toNat → u.tkCkptRestore w = u.busy w)
      ∧ (headField bs 0x10 8 ≠ leBytes 8 (sumDigest (u.imageDigests r (bs.drop 4096))).toNat →
        u.tkCkptRestore w = u.complete w 0xB [wd 0x10])) := by
  unfold State.tkCkptRestore
  rw [hr]
  dsimp only
  rw [if_neg (by omega), hb]
  dsimp only
  refine ⟨fun f hf => by rw [hf]; rfl, fun hf => ?_⟩
  rw [hf]
  exact ⟨fun h => if_pos h, fun h => if_neg h⟩

theorem State.tkShadowCfg_ok (u : State) (w : WaitTicket) (h : par w.t 0 ≤ 1023) (hok : par w.t 1 = 0 ∨ w.ok = true) :
    u.tkShadowCfg w = State.complete { u with
      flt := { u.flt with shadowCfg := if par w.t 1 = 0 then none else some (par w.t 0, par w.t 1) } } w 0 [] := by
  unfold State.tkShadowCfg
  rw [if_neg (by rcases hok with h0 | h1 <;> simp [*])]
  rfl

theorem State.tkShadowCfg_refused (u : State) (w : WaitTicket) (h : ¬(par w.t 1 = 0 ∨ w.ok = true)) :
    u.tkShadowCfg w = u.complete w 2 [wd 5] := by
  unfold State.tkShadowCfg
  rw [if_pos (Or.inr (by simpa using h))]
  rfl

/-- SHADOW_RESTORE of a ready device without a recipe: a holder that is lost ends it; a shadow is taken if its digest matches (R379). -/
theorem State.tkShadowRestore_ok (u : State) (w : WaitTicket) {r : Recipe} (hr : u.ckptRecipe = some r) (hs : u.hif.state = .ready)
    (hn : u.runningRecipe = none) (h : par w.t 0 ≤ 1023) :
    (w.img = none → u.tkShadowRestore w = (u.raise 0xB00B []).complete w 0xA [])
    ∧ (∀ x, w.img = some x → u.tkShadowRestore w = if (u.takeShadow r x).upd.digest = x.digest then
          State.complete (((({ u.takeShadow r x with rcp := { u.rcp with nextStep := x.step + 1 }, stp := u.stp }).raise 0xB006 []).count
            cRecovery 1).recovered 3 |>.hasRestored (par w.t 0)) w 0 []
        else u.complete w 0xA []) := by
  unfold State.tkShadowRestore
  rw [hr, hn]
  dsimp only
  rw [if_neg (by simp [hs]), if_neg (by omega)]
  refine ⟨fun hi => ?_, fun x hx => ?_⟩
  · rw [hi]
    rfl
  · rw [hx]
    rfl

/-- Settles O7: each ticket's own effect is a completion or a wait; the taking of a shadow leaves the queues of the mailbox as they are. -/
theorem restoreTicketsTakeTheImage : Obligations.RestoreTicketsTakeTheImage := by
  unfold Obligations.RestoreTicketsTakeTheImage
  intro s k
  refine ⟨fun r b h hr hl hb => ?checkpoint, fun accepted h hd => ?config, fun r h hr hs hn hd => ?shadow⟩
  case checkpoint =>
    intro u bs
    have hi : u.hif.Idle := h.free.idle_admits
    have hsame : u.ckptRecipe = s.ckptRecipe ∧ u.imageLen r = s.imageLen r ∧ u.headFlaw r bs = s.headFlaw r bs := by
      obtain ⟨rs, hrs⟩ := s.admits_eq 0x0502 k
      unfold u
      rw [hrs]
      exact ⟨rfl, rfl, rfl⟩
    obtain ⟨hrec, hlen, hflaw⟩ := hsame
    obtain ⟨hbad, hgood⟩ := u.tkCkptRestore_ok (plain 0x0502 k) (hrec.trans hr) (hlen.trans_le hl) (bs := bs)
      (by rw [hlen]; exact bufBytes_ok hb _)
    rw [← hflaw]
    cases hf : u.headFlaw r bs with
    | some f => exact congrArg Host.Outcome.next (State.submit_plain (q := true) h rfl (hbad f hf) hi)
    | none =>
      obtain ⟨hyes, hno⟩ := hgood hf
      dsimp only
      split
      · rename_i hdig
        exact congrArg Host.Outcome.next (State.submit_waits (q := true) h rfl (hyes hdig) hi)
      · rename_i hdig
        exact congrArg Host.Outcome.next (State.submit_plain (q := true) h rfl (hno hdig) hi)
  case config =>
    obtain ⟨-, -, hflt, -⟩ := s.admits_same 0x0503 k
    have hi : (s.admits 0x0503 k).hif.Idle := h.free.idle_admits
    rw [← hflt]
    split
    · rename_i hok
      exact congrArg Host.Outcome.next (State.submit_ends (q := true) { plain 0x0503 k with ok := accepted } rfl rfl h rfl
        (State.tkShadowCfg_ok _ { plain 0x0503 k with ok := accepted } hd hok) hi.runs hi.waits hi.deletes)
    · rename_i hok
      exact congrArg Host.Outcome.next (State.submit_ends (q := true) { plain 0x0503 k with ok := accepted } rfl rfl h rfl
        (State.tkShadowCfg_refused _ { plain 0x0503 k with ok := accepted } hok) hi.runs hi.waits hi.deletes)
  case shadow =>
    intro u
    have hi : u.hif.Idle := h.free.idle_admits
    have hsame : u.ckptRecipe = s.ckptRecipe ∧ u.runningRecipe = s.runningRecipe ∧ u.stp = s.stp ∧ u.rcp = s.rcp
        ∧ u.hif.state = s.hif.state := by
      obtain ⟨rs, hrs⟩ := s.admits_eq 0x0504 k
      unfold u
      rw [hrs]
      exact ⟨rfl, rfl, rfl, rfl, rfl⟩
    obtain ⟨hrec, hrun, hstp, hrcp, hst⟩ := hsame
    have hopen (img : Option ShadowImage) := u.tkShadowRestore_ok { plain 0x0504 k with img := img } (hrec.trans hr) (hst.trans hs)
      (hrun.trans hn) hd
    refine ⟨fun x => ?_, ?_⟩
    · have hsome := (hopen (some x)).2 x rfl
      rw [hstp, hrcp] at hsome
      split
      · rename_i hdig
        rw [if_pos hdig] at hsome
        have hshadow : (u.takeShadow r x).hif.Idle := (u.takeShadow_signals r x).idle hi
        have hdone := State.raise_count_idle { u.takeShadow r x with rcp := { s.rcp with nextStep := x.step + 1 }, stp := s.stp }
          0xB006 cRecovery 1 [] hshadow
        exact congrArg Host.Outcome.next (State.submit_ends (q := true) { plain 0x0504 k with img := some x } rfl rfl h rfl hsome
          hdone.runs hdone.waits hdone.deletes)
      · rename_i hdig
        rw [if_neg hdig] at hsome
        exact congrArg Host.Outcome.next (State.submit_ends (q := true) { plain 0x0504 k with img := some x } rfl rfl h rfl hsome
          hi.runs hi.waits hi.deletes)
    · have hlost : (u.raise 0xB00B []).hif.Idle := (u.raise_logged _ _).hif.idle hi
      exact congrArg Host.Outcome.next (State.submit_ends (q := true) { plain 0x0504 k with img := none } rfl rfl h rfl ((hopen none).1 rfl)
        hlost.runs hlost.waits hlost.deletes)

/-! ### The idle level -/

theorem State.setIdle_idle (s : State) (n : Nat) (nvm : NvmRead) (hi : s.hif.Idle) : (s.setIdle n nvm).hif.Idle :=
  (s.setIdle_signals n nvm).idle hi

theorem State.tkSetWakeTol_keeps (u : State) (w : WaitTicket) (h : ¬(u.hif.state = .idle ∧ par w.t 0 < idleLatency u.pwr.idle)) :
    u.tkSetWakeTol w = State.complete { u with pwr := { u.pwr with wakeTol := wd (par w.t 0) } } w 0 [] := if_neg h

theorem State.tkSetWakeTol_leaves (u : State) (w : WaitTicket) (hs : u.hif.state = .idle) (h : par w.t 0 < idleLatency u.pwr.idle) :
    u.tkSetWakeTol w = State.complete
      (let v : State := { u with pwr := { u.pwr with wakeTol := wd (par w.t 0) } }
       if idleFor u.pwr.idle (par w.t 0) = 0 then (v.setIdle 0 w.nvm).setState .ready
       else v.setIdle (idleFor u.pwr.idle (par w.t 0)) w.nvm) w 0 [] := by
  have hexit : State.idleExit { u with pwr := { u.pwr with wakeTol := wd (par w.t 0) } } w.nvm
      = (State.setIdle { u with pwr := { u.pwr with wakeTol := wd (par w.t 0) } } 0 w.nvm).setState .ready := if_pos hs
  unfold State.tkSetWakeTol
  dsimp only
  rw [if_pos ⟨hs, h⟩, hexit]
  rfl

theorem State.tkIdleEnter_ok (u : State) (w : WaitTicket) (h1 : 1 ≤ par w.t 0) (h5 : par w.t 0 ≤ 5) (hr : u.runningRecipe = none)
    (hs : u.hif.state = .ready ∨ u.hif.state = .idle) (hn : idleFor (par w.t 0) u.pwr.wakeTol.toNat ≠ 0) :
    u.tkIdleEnter w = ((u.setIdle (idleFor (par w.t 0) u.pwr.wakeTol.toNat) w.nvm).setState .idle).complete w 0
      [wd (idleFor (par w.t 0) u.pwr.wakeTol.toNat)] := by
  have hallowed : (u.runningRecipe.isSome || !(u.hif.state == .ready || u.hif.state == .idle)) = false := by
    rcases hs with h | h <;> simp [hr, h]
  unfold State.tkIdleEnter
  rw [if_neg (by omega), hallowed]
  dsimp only
  rw [if_neg hn]
  rfl

theorem State.tkIdleExit_ok (u : State) (w : WaitTicket) (hs : u.hif.state = .idle) :
    u.tkIdleExit w = ((u.setIdle 0 w.nvm).setState .ready).complete w 0 [] := by
  have hexit : u.idleExit w.nvm = (u.setIdle 0 w.nvm).setState .ready := if_pos hs
  unfold State.tkIdleExit
  rw [if_pos (Or.inl hs), hexit]
  rfl

/-- POWER_LIMIT of a limit in its range: denied, held for the tick, or done (R351, log 82). -/
theorem State.tkPowerLimit_ok (u : State) (w : WaitTicket) (h1 : 450 ≤ par w.t 0) (h2 : par w.t 0 ≤ 1200) :
    u.tkPowerLimit w = (let v : State := { u with pwr := { u.pwr with limit := wd (par w.t 0) } }
      if u.pwr.mgmtLimit = true then u.complete w 5 []
      else if u.pwr.tickDriven = true then { v with hif := { v.hif with limits := v.hif.limits ++ [w] } }
      else v.complete w 0 []) := if_neg (by omega)

/-- Settles O9: each ticket's own effect leaves the queues of the mailbox as they are, and so completes at once; a POWER_LIMIT with
beats running joins those that wait for the tick. -/
theorem idleTicketsMoveTheLevel : Obligations.IdleTicketsMoveTheLevel := by
  unfold Obligations.IdleTicketsMoveTheLevel
  intro s k
  refine ⟨fun h hkeep => ?keeps, fun h hs hlate => ?leaves, fun h h1 h5 hr hs => ?enter, fun nvm h hs => ?exit, fun h h1 h2 => ?limit⟩
  case keeps =>
    obtain ⟨-, -, -, hpwr, -, hst⟩ := s.admits_same 0x0801 k
    have hi : (s.admits 0x0801 k).hif.Idle := h.free.idle_admits
    rw [← hpwr]
    rw [← hst, ← hpwr] at hkeep
    exact congrArg Host.Outcome.next (State.submit_plain (q := false) h rfl (State.tkSetWakeTol_keeps _ (plain 0x0801 k) hkeep) hi)
  case leaves =>
    obtain ⟨-, -, -, hpwr, -, hst⟩ := s.admits_same 0x0801 k
    have hi : (s.admits 0x0801 k).hif.Idle := h.free.idle_admits
    rw [← hst] at hs
    rw [← hpwr] at hlate ⊢
    refine congrArg Host.Outcome.next (State.submit_plain (q := false) h rfl (State.tkSetWakeTol_leaves _ (plain 0x0801 k) hs hlate) ?_)
    dsimp only
    split
    · exact State.setState_idle _ _ (State.setIdle_idle _ _ _ hi)
    · exact State.setIdle_idle _ _ _ hi
  case enter =>
    intro n hn
    obtain ⟨-, hrcp, -, hpwr, -, hst⟩ := s.admits_same 0x0802 k
    have hi : (s.admits 0x0802 k).hif.Idle := h.free.idle_admits
    have hlevel : idleFor (par k 0) (s.admits 0x0802 k).pwr.wakeTol.toNat = n := by rw [hpwr]
    have hrun := State.tkIdleEnter_ok (s.admits 0x0802 k) (plain 0x0802 k) h1 h5 ((State.runningRecipe_congr hrcp).trans hr)
      (by rw [hst]; exact hs) (hlevel ▸ hn)
    exact congrArg Host.Outcome.next (State.submit_plain (q := true) h rfl (hlevel ▸ hrun)
      (State.setState_idle _ _ (State.setIdle_idle _ _ _ hi)))
  case exit =>
    have hi := State.setState_idle _ .ready (State.setIdle_idle _ 0 nvm h.free.idle_admits)
    obtain ⟨-, -, -, -, -, hst⟩ := s.admits_same 0x0803 k
    exact congrArg Host.Outcome.next (State.submit_ends (q := true) { plain 0x0803 k with nvm := nvm } rfl rfl h rfl
      (State.tkIdleExit_ok _ { plain 0x0803 k with nvm := nvm } (hst.trans hs)) hi.runs hi.waits hi.deletes)
  case limit =>
    intro u
    obtain ⟨-, -, -, hpwr, -⟩ := s.admits_same 0x0804 k
    have hi : (s.admits 0x0804 k).hif.Idle := h.free.idle_admits
    have hlimits : (s.admits 0x0804 k).hif.limits = s.hif.limits := by
      obtain ⟨rs, hrs⟩ := s.admits_eq 0x0804 k
      rw [hrs]
    have hrun := State.tkPowerLimit_ok (s.admits 0x0804 k) (plain 0x0804 k) h1 h2
    rw [hpwr] at hrun
    dsimp only at hrun
    rw [hlimits] at hrun
    split
    · rename_i hm
      rw [if_pos hm] at hrun
      exact congrArg Host.Outcome.next (State.submit_plain (q := false) h rfl hrun hi)
    · rename_i hm
      rw [if_neg hm] at hrun
      split
      · rename_i ht
        rw [if_pos ht] at hrun
        exact congrArg Host.Outcome.next (State.submit_runs_on (q := false) (plain 0x0804 k) rfl rfl h rfl hrun hi.waits hi.deletes)
      · rename_i ht
        rw [if_neg ht] at hrun
        exact congrArg Host.Outcome.next (State.submit_plain (q := false) h rfl hrun hi)

end Sys2Proof.Machine
end

section
/-! Doorbells, reads of the rails, completions and the mailbox's control (R339, R340, R344 to R349, R353). -/

namespace Sys2Proof.Machine

/-! ### A rail in error -/

/-- A rail put in error: it keeps its ring, and the error is in HIF_RAIL_ERR and in RAIL_ERR of HIF_IRQ_STAT (R345, R346). -/
theorem State.railFails_spec (s : State) (n : Nat) (r : Rail) : Tab.find (s.railFails n r).hif.rails n = some { r with err := true }
    ∧ (s.railFails n r).hif.railErr = s.hif.railErr ||| BitVec.ofNat 64 (2 ^ n) ∧ (s.railFails n r).hif.irqStat = s.hif.irqStat ||| 4 := by
  unfold State.railFails
  dsimp only
  refine ⟨?_, ?_, State.setIrq_irqStat _ 2⟩
  · rw [State.setIrq_signals]
    exact Tab.find_put_same _ _ _
  · rw [State.setIrq_signals]
    rfl

/-! ### Doorbells -/

/-- A new tail of a rail that takes doorbells (R344, R345). -/
theorem execRailTail_moves {s : State} {n : Nat} {v : Word} {r : Rail} (hn : n < 64) (hr : Tab.find s.hif.rails n = some r)
    (hm : s.mboxRuns = true) (he : r.err = false) (ht : fld v 15 0 ≠ r.tail) :
    execRailTail n v s = if 2 ^ r.log2 ≤ fld v 15 0 ∨ 2 ^ r.log2 ≤ r.held + (fld v 15 0 + 2 ^ r.log2 - r.tail) % 2 ^ r.log2
      then .next (s.railFails n r)
      else .next (State.setRail { s with hif := { s.hif with turns := addOnce s.hif.turns n } } n { r with tail := fld v 15 0 }) := by
  unfold execRailTail
  rw [if_neg (by omega), hr]
  dsimp only
  rw [hm, if_neg (by decide), if_neg (by simp [he, ht])]
  rfl

theorem execRailTail_discarded {s : State} {n : Nat} (v : Word) (hn : n < 64)
    (h : s.mboxRuns = false ∨ Tab.find s.hif.rails n = none) : execRailTail n v s = .next (s.count cBadAcc 1) := by
  unfold execRailTail
  rw [if_neg (by omega)]
  cases hr : Tab.find s.hif.rails n with
  | none => rfl
  | some r =>
    have hm : s.mboxRuns = false := by simpa [hr] using h
    dsimp only
    rw [hm]
    rfl

/-- A new head of a pass (R346). -/
theorem execPassHead_moves {s : State} {n : Nat} (v : Word) {p : Pass} (hn : n < 64) (hp : Tab.find s.hif.passes n = some p)
    (hm : s.mboxRuns = true) :
    execPassHead n v s = if 2 ^ p.log2 ≤ fld v 15 0 ∨ p.used < (fld v 15 0 + 2 ^ p.log2 - p.head) % 2 ^ p.log2
      then .next (s.count cBadAcc 1)
      else .next (s.setPass n { p with head := fld v 15 0, used := p.used - (fld v 15 0 + 2 ^ p.log2 - p.head) % 2 ^ p.log2 }) := by
  unfold execPassHead
  rw [if_neg (by omega), hp]
  dsimp only
  rw [hm]
  rfl

theorem execPassHead_discarded {s : State} {n : Nat} (v : Word) (hn : n < 64)
    (h : s.mboxRuns = false ∨ Tab.find s.hif.passes n = none) : execPassHead n v s = .next (s.count cBadAcc 1) := by
  unfold execPassHead
  rw [if_neg (by omega)]
  cases hp : Tab.find s.hif.passes n with
  | none => rfl
  | some p =>
    have hm : s.mboxRuns = false := by simpa [hp] using h
    dsimp only
    rw [hm]
    rfl

/-- Settles O12. -/
theorem doorbellsMoveTheRings : Obligations.DoorbellsMoveTheRings := by
  unfold Obligations.DoorbellsMoveTheRings
  intro s n v hn
  refine ⟨fun r hr hm he ht => ⟨fun hlt hroom => ?tail, fun hbad => ?railError⟩,
    fun p hp hm => ⟨fun hlt hfreed => ?head, fun hbad => ?badHead⟩, execRailTail_discarded v hn, execPassHead_discarded v hn⟩
  case tail => exact (execRailTail_moves hn hr hm he ht).trans (if_neg (not_or.mpr ⟨Nat.not_le.mpr hlt, Nat.not_le.mpr hroom⟩))
  case railError => exact ⟨_, (execRailTail_moves hn hr hm he ht).trans (if_pos hbad), s.railFails_spec n r⟩
  case head => exact (execPassHead_moves v hn hp hm).trans (if_neg (not_or.mpr ⟨Nat.not_le.mpr hlt, Nat.not_lt.mpr hfreed⟩))
  case badHead => exact (execPassHead_moves v hn hp hm).trans (if_pos hbad)

/-! ### Reads of the rails -/

/-- The state with tickets read from a rail: they are in flight, and the rail goes behind the others that wait, or waits no longer. -/
def State.fetched (s : State) (n : Nat) (r : Rail) (l : List (List Word)) : State :=
  let left := s.hif.turns.filter (fun m => m != n)
  { s with hif := { s.hif with
    rails := Tab.put s.hif.rails n { r with head := (r.head + l.length) % 2 ^ r.log2,
                                            inflight := r.inflight ++ l.zipIdx.map (fun x => ticketSlot (r.nextId + x.2) x.1) },
    turns := if l.length < r.held then left ++ [n] else left } }

/-- The device's turn at a rail (R346). -/
theorem execTicketFetch_turn {s : State} {n : Nat} {r : Rail} (hn : n < 64) (hm : s.mboxRuns = true) (ht : s.fetchTurn = some n)
    (hr : Tab.find s.hif.rails n = some r) :
    execTicketFetch n none s = .next (s.railFails n r)
    ∧ ∀ ts : List (List Word), execTicketFetch n (some ts) s =
      .next (s.fetched n r (ts.take (min r.held (8 - s.readAhead n r)))) := by
  have hturn : (!s.mboxRuns || s.fetchTurn != some n) = false := by simp [hm, ht]
  have hopen (read : Option (List (List Word))) : execTicketFetch n read s = match read with
      | none => .next (s.railFails n r)
      | some ts => .next (s.fetched n r (ts.take (min r.held (8 - s.readAhead n r)))) := by
    unfold execTicketFetch
    rw [if_neg (by omega), hturn, hr]
    rfl
  exact ⟨hopen none, fun ts => hopen (some ts)⟩

/-- Settles O13: the tickets taken are the first of those read, as many as the rail holds and as may be ahead. -/
theorem fetchReadsTicketsAhead : Obligations.FetchReadsTicketsAhead := by
  unfold Obligations.FetchReadsTicketsAhead
  intro s n r hn hm ht hr
  obtain ⟨hfail, hread⟩ := execTicketFetch_turn hn hm ht hr
  refine ⟨fun ts => ?_, _, hfail, s.railFails_spec n r⟩
  have hlen : (ts.take (min r.held (8 - s.readAhead n r))).length = min ts.length (min r.held (8 - s.readAhead n r)) := by
    rw [List.length_take, Nat.min_comm]
  have htake : ts.take (min ts.length (min r.held (8 - s.readAhead n r))) = ts.take (min r.held (8 - s.readAhead n r)) := by
    rw [Nat.min_comm, ← List.take_eq_take_min]
  refine ⟨_, _, hread ts, Tab.find_put_same _ _ _, ?_, rfl, ?_⟩
  · dsimp only
    rw [htake, hlen]
    rfl
  · unfold State.fetched
    dsimp only
    rw [hlen]

/-! ### Completions -/

theorem Completion.words_length (c : Completion) (phase : Bool) : (c.words phase).length = 8 := by
  simp [Completion.words]

/-- The pass after its completion is written, with the coalescing count and timer of R348. -/
def Pass.counted (p : Pass) (c : Completion) (rest : List Completion) : Pass :=
  if c.quiet then p.wrote rest
  else if p.cnt ≤ p.since + 1 ∨ p.time = 0 then { p.wrote rest with since := 0, timer := false }
  else { p.wrote rest with since := p.since + 1, timer := true }

/-- A completion written to a pass with a free slot (R347, R348). -/
theorem execCompletionWrite_writes {s : State} {n : Nat} {p : Pass} {c : Completion} {rest : List Completion} (hn : n < 64)
    (hp : Tab.find s.hif.passes n = some p) (hm : s.mboxRuns = true) (hw : p.waiting = c :: rest) (hroom : p.used < 2 ^ p.log2) :
    execCompletionWrite n s = .next { s with
      store := { s.store with host := Mem.write s.store.host (p.base.toNat + 32 * p.tail) (wordBytes (c.words p.phase)) },
      hif := { s.hif with
        passes := Tab.put s.hif.passes n (p.counted c rest),
        vecReq := if !c.quiet && (decide (p.cnt ≤ p.since + 1) || p.time == 0)
          then Tab.put s.hif.vecReq p.vec (Tab.get s.hif.vecReq p.vec 0 + 1) else s.hif.vecReq } } := by
  have hfree : (!s.mboxRuns || decide (ringLen p.log2 ≤ p.used)) = false := by simp [hm, ringLen, Nat.not_le.mpr hroom]
  unfold execCompletionWrite Pass.counted
  rw [if_neg (by omega), hp]
  dsimp only
  rw [hw]
  dsimp only
  rw [hfree, if_neg (by decide)]
  cases hq : c.quiet
  · by_cases ha : p.cnt ≤ p.since + 1 ∨ p.time = 0
    · have hsignal : (!false && (decide (p.cnt ≤ p.since + 1) || p.time == 0)) = true := by simpa using ha
      rw [hsignal, if_pos ha]
      exact (if_neg Bool.false_ne_true).trans (if_pos ha)
    · have hsilent : (!false && (decide (p.cnt ≤ p.since + 1) || p.time == 0)) = false := by simpa using ha
      rw [hsilent, if_neg ha]
      exact (if_neg Bool.false_ne_true).trans (if_neg ha)
  · rfl

theorem execCompletionWrite_full {s : State} {n : Nat} {p : Pass} (hn : n < 64) (hp : Tab.find s.hif.passes n = some p)
    (hfull : 2 ^ p.log2 ≤ p.used) : execCompletionWrite n s = .next s := by
  have hwaits : (!s.mboxRuns || decide (ringLen p.log2 ≤ p.used)) = true := by simp [ringLen, hfull]
  unfold execCompletionWrite
  rw [if_neg (by omega), hp]
  dsimp only
  cases p.waiting with
  | nil => rfl
  | cons c rest => exact if_pos hwaits

theorem execPassTimer_signals {s : State} {n : Nat} {p : Pass} (hn : n < 64) (hp : Tab.find s.hif.passes n = some p)
    (ht : p.timer = true) : execPassTimer n s = .next (s.signal n p) := by
  unfold execPassTimer
  rw [if_neg (by omega), hp]
  exact if_pos ht

theorem Pass.counted_ring (p : Pass) (c : Completion) (rest : List Completion) :
    (p.counted c rest).tail = (p.tail + 1) % 2 ^ p.log2
    ∧ (p.counted c rest).phase = (if (p.tail + 1) % 2 ^ p.log2 = 0 then !p.phase else p.phase)
    ∧ (p.counted c rest).used = p.used + 1 ∧ (p.counted c rest).waiting = rest ∧ (p.counted c rest).head = p.head := by
  unfold Pass.counted
  split
  · exact ⟨rfl, rfl, rfl, rfl, rfl⟩
  · split <;> exact ⟨rfl, rfl, rfl, rfl, rfl⟩

theorem Pass.counted_signal (p : Pass) (c : Completion) (rest : List Completion) :
    let asks := !c.quiet && (decide (p.cnt ≤ p.since + 1) || p.time == 0)
    (p.counted c rest).since = (if asks then 0 else if c.quiet then p.since else p.since + 1)
    ∧ (p.counted c rest).timer = (if asks then false else if c.quiet then p.timer else true) := by
  unfold Pass.counted
  cases hq : c.quiet
  · by_cases ha : p.cnt ≤ p.since + 1 ∨ p.time = 0
    · have hsignal : (!false && (decide (p.cnt ≤ p.since + 1) || p.time == 0)) = true := by simpa using ha
      rw [hsignal, if_pos ha]
      exact ⟨rfl, rfl⟩
    · have hsilent : (!false && (decide (p.cnt ≤ p.since + 1) || p.time == 0)) = false := by simpa using ha
      rw [hsilent, if_neg ha]
      exact ⟨rfl, rfl⟩
  · exact ⟨rfl, rfl⟩

/-- Settles O14: the slot's 32 bytes are the completion's eight words. -/
theorem completionsReachTheRing : Obligations.CompletionsReachTheRing := by
  unfold Obligations.CompletionsReachTheRing
  intro s n p hn hp
  refine ⟨fun c rest hm hw hroom => ?_, execCompletionWrite_full hn hp, fun ht => execPassTimer_signals hn hp ht⟩
  have hlen : (wordBytes (c.words p.phase)).length = 32 := by rw [wordBytes_length, Completion.words_length]
  obtain ⟨htail, hphase, hused, hwaiting, hhead⟩ := p.counted_ring c rest
  obtain ⟨hsince, htimer⟩ := p.counted_signal c rest
  refine ⟨_, p.counted c rest, execCompletionWrite_writes hn hp hm hw hroom, Tab.find_put_same _ _ _, ?slot, ?others, htail,
    htail ▸ hphase, hused, hwaiting, hhead, ⟨rfl, hsince, htimer⟩, rfl⟩
  case slot => exact (congrArg _ hlen.symm).trans (Mem.read_write _ _ _)
  case others => exact fun a ha => Mem.get_write_out _ _ _ _ (by rw [hlen]; exact ha)

/-! ### The mailbox's control -/

/-- A mailbox reset: only the admin pair is left, if any, and a recipe that runs stops at its step boundary (R353). -/
theorem State.resetMailbox_eq (s : State) (on : Bool) : s.resetMailbox on = { s with
    hif := s.hif.clearMbox on,
    rcp := { s.rcp with startNext := none, state := if s.rcp.state = .running then .stopping else s.rcp.state } } := by
  unfold State.resetMailbox
  cases s.rcp.state <;> rfl

/-- Settles O15. -/
theorem mailboxStartsStopsAndResets : Obligations.MailboxStartsStopsAndResets := by
  unfold Obligations.MailboxStartsStopsAndResets
  intro s rail pass cleared stopped
  refine ⟨fun hoff => ?_, fun hon => ?_, congrArg Host.Outcome.next (s.resetMailbox_eq s.hif.mboxEn)⟩
  · exact if_neg (by simp [hoff])
  · exact (if_pos hon).trans (congrArg Host.Outcome.next (s.resetMailbox_eq false))

end Sys2Proof.Machine
end

section
/-! The windows of BAR4, the resets of the module interface, and the management port's locks and power (R336, R341 to R343, R351, R353, R393,
R394, R403, R413, R414, R443, R444). -/

namespace Sys2Proof.Machine

/-! ### BAR4 -/

theorem execBar4Access_reads {s : State} (h : s.hostUp = true) (off len : Nat) (g : MemObs) :
    execBar4Access none off len g s = .next (s.winRead off len g) := if_neg (by simp [h])

theorem execBar4Access_writes {s : State} (h : s.hostUp = true) (bs : List Byte) (off len : Nat) (g : MemObs) :
    execBar4Access (some bs) off len g s = .next (s.winWrite off bs) := if_neg (by simp [h])

/-- A window whose region may be read, and holds no marked codeword there, gives the region's bytes (R343). -/
theorem State.winRead_open {s : State} {off len r a : Nat} (h : s.winSpan off len = some (r, a))
    (ho : s.named r = true → shutKind (s.regionKind r) = false) (hc : s.viewPoison r a len = []) :
    s.winRead off len { ce := [], ue := [] } =
      (s.account r a len false).hostData (leWords (cdiv len 4) (s.regRead (openKind (s.regionKind r)) r a len)) := by
  have hopen : ¬(s.named r && shutKind (s.regionKind r)) = true := by simpa using ho
  have hclean : (s.account r a len false).viewPoison r a len = [] := (State.viewPoison_congr (s.account_mem _ _ _ _) _ _ _).trans hc
  unfold State.winRead
  rw [h]
  dsimp only
  rw [if_neg hopen, State.viewErrors_clean _ _ _ _ _ hclean]
  rfl

theorem State.winRead_refused {s : State} {off len : Nat} (g : MemObs)
    (h : s.winSpan off len = none ∨ ∃ r a, s.winSpan off len = some (r, a) ∧ s.named r = true ∧ shutKind (s.regionKind r) = true) :
    s.winRead off len g = (s.count cBadAcc 1).hostData (List.replicate (cdiv len 4) 0xFFFFFFFF) := by
  unfold State.winRead
  rcases h with h | ⟨r, a, h, hn, hk⟩
  · rw [h]
  · rw [h]
    dsimp only
    rw [hn, hk]
    rfl

theorem State.winWrite_open {s : State} {off r a : Nat} {bs : List Byte} (h : s.winSpan off bs.length = some (r, a))
    (hn : s.named r = false) : s.winWrite off bs = (s.regWriteCommitted r a bs).account r a bs.length true := by
  unfold State.winWrite
  rw [h]
  dsimp only
  rw [hn]
  rfl

theorem State.winWrite_refused {s : State} {off : Nat} {bs : List Byte}
    (h : s.winSpan off bs.length = none ∨ ∃ r a, s.winSpan off bs.length = some (r, a) ∧ s.named r = true) :
    s.winWrite off bs = s.count cBadAcc 1 := by
  unfold State.winWrite
  rcases h with h | ⟨r, a, h, hn⟩
  · rw [h]
  · rw [h]
    exact if_pos hn

/-- Settles O21. -/
theorem windowsReachTheirRegions : Obligations.WindowsReachTheirRegions := by
  unfold Obligations.WindowsReachTheirRegions
  intro s off len hup
  refine ⟨fun r a h ho hc => ?read, fun r a bs h hn hl => ?write, fun g h => ?badRead, fun bs g hl h => ?badWrite⟩
  case read =>
    refine ⟨_, (execBar4Access_reads hup off len _).trans (congrArg _ (State.winRead_open h ho hc)), rfl, rfl, ?_⟩
    rw [s.account_only]
    rfl
  case write =>
    rw [← hl]
    exact (execBar4Access_writes hup bs off bs.length { ce := [], ue := [] }).trans (congrArg Host.Outcome.next (State.winWrite_open h hn))
  case badRead => exact (execBar4Access_reads hup off len g).trans (congrArg _ (State.winRead_refused g h))
  case badWrite =>
    rw [← hl] at h
    exact (execBar4Access_writes hup bs off len g).trans (congrArg _ (State.winWrite_refused h))

/-! ### Events as the main rails go off -/

theorem Recorder.mem_takeAon (e : Recorder) (r : Record) : r ∈ (e.takeAon r).aonBuf := by
  unfold Recorder.takeAon
  split <;> simp

/-- An event below ALARM with the main rails off goes to the always-on buffer (R419). -/
theorem State.raise_rails_off (s : State) (code : Nat) (l : List Word) (h : prioOf code ≠ 0) (hp : s.pwr.pwrgood = false)
    (ha : s.pwr.aon = true) : s.raise code l = { s with evt := s.evt.takeAon (s.mkRecord code l) } := by
  have hc : (s.mkRecord code l).code = code := rfl
  change s.record (s.mkRecord code l) 0 = _
  unfold State.record
  simp [hc, h, hp, ha]

/-- An event below ALARM with the main rails on leaves EVT_ALARM and the always-on buffer as they are. -/
theorem State.raise_rails_on (s : State) (code : Nat) (l : List Word) (h : prioOf code ≠ 0) (hp : s.pwr.pwrgood = true) :
    (s.raise code l).evt.alarm = s.evt.alarm ∧ (s.raise code l).evt.aonBuf = s.evt.aonBuf := by
  have hc : (s.mkRecord code l).code = code := rfl
  have htake (e : Recorder) (r : Record) : (e.take r 0).alarm = e.alarm ∧ (e.take r 0).aonBuf = e.aonBuf := by
    unfold Recorder.take
    dsimp only
    split <;> exact ⟨rfl, rfl⟩
  change (s.record (s.mkRecord code l) 0).evt.alarm = _ ∧ (s.record (s.mkRecord code l) 0).evt.aonBuf = _
  unfold State.record
  simp only [hc, h, hp, if_false, if_true]
  split <;> simpa using htake s.evt (s.mkRecord code l)

theorem Recorder.put_aon (e : Recorder) (r : Record) : (e.put r).alarm = e.alarm ∧ (e.put r).aonBuf = e.aonBuf := by
  unfold Recorder.put
  dsimp only
  split <;> exact ⟨rfl, rfl⟩

theorem State.writeRecord_aon (s : State) (r : Record) (hp : s.pwr.pwrgood = true) :
    (s.writeRecord r).evt.alarm = s.evt.alarm ∧ (s.writeRecord r).evt.aonBuf = s.evt.aonBuf := by
  have written (t : State) (ht : t.evt = s.evt.put r) (hg : t.pwr = s.pwr) :
      let u := if t.evt.firstFull && !s.evt.firstFull then t.raise 0xD002 [] else t
      u.evt.alarm = s.evt.alarm ∧ u.evt.aonBuf = s.evt.aonBuf := by
    obtain ⟨halarm, hbuf⟩ := s.evt.put_aon r
    rw [← ht] at halarm hbuf
    intro u
    unfold u
    split
    · obtain ⟨halarm1, hbuf1⟩ := t.raise_rails_on 0xD002 [] (by decide) (hg ▸ hp)
      exact ⟨halarm1.trans halarm, hbuf1.trans hbuf⟩
    · exact ⟨halarm, hbuf⟩
  unfold State.writeRecord
  split <;> exact written _ rfl rfl

theorem State.writeRecords_aon (s : State) (l : List Record) (hp : s.pwr.pwrgood = true) :
    (s.writeRecords l).evt.alarm = s.evt.alarm ∧ (s.writeRecords l).evt.aonBuf = s.evt.aonBuf := by
  induction l generalizing s with
  | nil => exact ⟨rfl, rfl⟩
  | cons r l ih =>
    obtain ⟨halarm, hbuf⟩ := ih (s.writeRecord r) (by rw [(s.writeRecord_logged r).pwr, hp])
    obtain ⟨halarm1, hbuf1⟩ := s.writeRecord_aon r hp
    exact ⟨halarm.trans halarm1, hbuf.trans hbuf1⟩

theorem State.endBeatLog_aon (s : State) (hp : s.pwr.pwrgood = true) :
    s.endBeatLog.evt.alarm = s.evt.alarm ∧ s.endBeatLog.evt.aonBuf = s.evt.aonBuf := by
  have hstorm (t : State) : t.logStorm.evt.alarm = t.evt.alarm ∧ t.logStorm.evt.aonBuf = t.evt.aonBuf := by
    unfold State.logStorm
    split
    · exact ⟨rfl, rfl⟩
    · split
      · rw [State.count_evt]
        exact ⟨rfl, rfl⟩
      · exact ⟨rfl, rfl⟩
  obtain ⟨halarm, hbuf⟩ := s.writeRecords_aon (s.evt.storms.map Storm.record) hp
  exact ⟨(hstorm _).1.trans halarm, (hstorm _).2.trans hbuf⟩

/-- The log closed with the main rails on: EVT_ALARM stays, and the always-on buffer is written out (R419, log 120). -/
theorem State.closeLog_aon (s : State) (hp : s.pwr.pwrgood = true) : s.closeLog.evt.alarm = s.evt.alarm ∧ s.closeLog.evt.aonBuf = [] := by
  have hopen : ∃ t : State, (if s.evt.aonBuf.isEmpty then s else s.openLog) = t ∧ t.pwr = s.pwr ∧ t.evt.alarm = s.evt.alarm
      ∧ t.evt.aonBuf = [] := by
    refine ⟨_, rfl, ?_⟩
    split
    · rename_i hempty
      exact ⟨rfl, rfl, List.isEmpty_iff.mp hempty⟩
    · exact ⟨s.openLog_logged.pwr, State.writeRecords_aon _ _ hp⟩
  obtain ⟨t, ht, htp, halarm, hbuf⟩ := hopen
  have htg : t.pwr.pwrgood = true := htp ▸ hp
  obtain ⟨halarm1, hbuf1⟩ := t.endBeatLog_aon htg
  have hdrain := State.writeRecords_aon { t.endBeatLog with evt := { t.endBeatLog.evt with queue := [] } } t.endBeatLog.evt.queue
    (by rw [t.endBeatLog_logged.pwr]; exact htg)
  unfold State.closeLog
  rw [ht]
  exact ⟨(hdrain.1.trans halarm1).trans halarm, (hdrain.2.trans hbuf1).trans hbuf⟩

/-- The main rails switched off: READY falls, EVT_ALARM and the keys stay, and the always-on buffer is written out (R393, R417, R419). -/
theorem State.railsOff_on {s : State} (hp : s.pwr.pwrgood = true) : s.railsOff.pwr = s.pwr.off ∧ s.railsOff.hif.ready = false
    ∧ s.railsOff.evt.alarm = s.evt.alarm ∧ s.railsOff.evt.aonBuf = [] ∧ s.railsOff.sec.keys = s.sec.keys
    ∧ s.railsOff.sec.owner = s.sec.owner := by
  have hsec : s.closeLog.sec = s.sec := by rw [s.closeLog_logged.only]
  obtain ⟨halarm, hbuf⟩ := s.closeLog_aon hp
  refine ⟨s.railsOff_pwr hp, ?_⟩
  unfold State.railsOff
  rw [hp, ← hsec]
  exact ⟨rfl, halarm, hbuf, rfl, rfl⟩

/-- With the main rails off already, a stopped start-up alone is over. -/
theorem State.railsOff_off {s : State} (hp : s.pwr.pwrgood = false) : s.railsOff = { s with pwr := { s.pwr with startFail := none } } :=
  if_pos (by simp [hp])

/-! ### Resets -/

theorem State.resetFunction_eq (s : State) : s.resetFunction = { s with
    hif := s.hif.clearMbox s.hif.mboxEn,
    rcp := { s.rcp with startNext := none, state := if s.rcp.state = .running then .stopping else s.rcp.state } } :=
  s.resetMailbox_eq _

/-- A function's reset leaves the admin pair alone, and stops a running recipe at its boundary (R353, R444). -/
theorem State.resetFunction_spec (s : State) :
    (s.hif.mboxEn = true → s.resetFunction.hif.rails = [(0, s.hif.adminRail)] ∧ s.resetFunction.hif.passes = [(0, s.hif.adminPass)])
    ∧ s.resetFunction.hif.waitq = [] ∧ (s.rcp.state = .running → s.resetFunction.rcp.state = .stopping)
    ∧ s.resetFunction = { s with hif := s.resetFunction.hif,
                                 rcp := { s.rcp with startNext := none, state := s.resetFunction.rcp.state } } := by
  rw [s.resetFunction_eq]
  exact ⟨fun hon => ⟨if_pos hon, if_pos hon⟩, rfl, fun hr => if_pos hr, rfl⟩

/-- Settles O29. -/
theorem resetsActOnTheirSide : Obligations.ResetsActOnTheirSide := by
  unfold Obligations.ResetsActOnTheirSide
  intro s
  refine ⟨fun hm hp ha => ?modReset, rfl, ?perst, fun width rate hw => ?wide, fun width rate hw => ?narrow, fun hup => ?function⟩
  case modReset =>
    let v : State := { s with pwr := { s.pwr with modReset := true } }
    obtain ⟨hpwr, hready, -⟩ := State.railsOff_on (s := v) hp
    have hgood : v.railsOff.pwr.pwrgood = false := by rw [hpwr]; rfl
    have haon : v.railsOff.pwr.aon = true := by rw [hpwr]; exact ha
    refine ⟨v.railsOff.raise 0x1009 [], if_neg (by simp [hm]), ?_⟩
    rw [State.raise_rails_off _ _ _ (by decide) hgood haon]
    exact ⟨by rw [hpwr]; rfl, hgood, hready, _, Recorder.mem_takeAon _ _, rfl⟩
  case perst =>
    obtain ⟨hrails, hwait, hstops, honly⟩ := State.resetFunction_spec { s with hif := { s.hif with perst := true } }
    refine ⟨_, rfl, ?_, hrails, hwait, hstops, honly⟩
    rw [State.resetFunction_eq]
    rfl
  case wide =>
    have hheld : decide (width < 8) = false := by simpa using hw
    refine congrArg Host.Outcome.next ((if_neg (by omega)).trans ?_)
    rw [hheld]
  case narrow =>
    have hheld : decide (width < 8) = true := by simpa using hw
    refine ⟨_, congrArg Host.Outcome.next (if_pos hw), ?_⟩
    unfold State.hostUp
    rw [State.raise_hif _ _ _ (by decide), hheld]
    exact ⟨rfl, rfl, by simp⟩
  case function => exact ⟨_, if_pos hup, s.resetFunction_spec⟩

/-! ### Locks and power by the management port -/

theorem State.setLocks_frame (s : State) (p q : Bool) :
    (s.setLocks p q).pwr = s.pwr ∧ (s.setLocks p q).evt = s.evt ∧ (s.setLocks p q).sec = s.sec := by
  unfold State.setLocks
  split
  · exact ⟨rfl, rfl, rfl⟩
  · simp

theorem State.needRails_on {s t : State} (busy : Nat) (ha : s.pwr.aon = true) (hp : s.pwr.pwrgood = true) : s.needRails busy t = t := by
  simp [State.needRails, ha, hp]

theorem State.endLimits_pwr (s : State) (st : Nat) (l : List WaitTicket) : (s.endLimits st l).pwr = s.pwr := by
  induction l generalizing s with
  | nil => rfl
  | cons w l ih => exact (ih _).trans (State.complete_pwr _ _ _ _)

/-- With the latches released, the rails may start when they are off (R394, R403, R443). -/
theorem State.releaseLatches_mayStart {s : State} (ha : s.pwr.aon = true) (hm : s.pwr.modReset = false) (hf : s.pwr.startFail = none) :
    s.releaseLatches.mayStartRails = !s.pwr.pwrgood := by
  simp [State.mayStartRails, State.releaseLatches, ha, hm, hf]

/-- POWER_ON with MOD_RESET_N high and no start-up stopped (R394, R403). -/
theorem execPowerOn_starts {s : State} (ha : s.pwr.aon = true) (hm : s.pwr.modReset = false) (hf : s.pwr.startFail = none) :
    execPowerOn s = .next ((if enableRange s.pwr.vin.toNat && !s.pwr.pwrgood then s.releaseLatches.startRails
      else s.releaseLatches).rsp 0 []) := by
  unfold execPowerOn
  rw [← State.releaseLatches_mayStart ha hm hf, ha, hm, hf]
  rfl

theorem execPowerOff_switches {s : State} (ha : s.pwr.aon = true) :
    execPowerOff s = .next ((State.railsOff { s with pwr := { s.pwr with offLatch := true } }).rsp 0 []) := if_neg (by simp [ha])

/-- Settles O31. -/
theorem managementRulesLocksAndPower : Obligations.ManagementRulesLocksAndPower := by
  unfold Obligations.ManagementRulesLocksAndPower
  intro s ha
  refine ⟨fun power take hp => ?lock, fun hstop => ?stopped, fun hm hf => ?on, ?off, fun w hp => ⟨fun h1 h2 => ?limit, fun hout => ?range⟩⟩
  case lock =>
    refine ⟨_, congrArg Host.Outcome.next (State.needRails_on mgBusy ha hp), rfl, ?_⟩
    cases power with
    | true =>
      obtain ⟨hpower, hsecurity, hirq⟩ := s.setLocks_spec take s.sbm.lockSecurity
      exact ⟨hpower, hsecurity, fun hne => hirq (by simpa [State.rsp, hpower, hsecurity, eq_comm] using hne), s.setLocks_frame _ _⟩
    | false =>
      obtain ⟨hpower, hsecurity, hirq⟩ := s.setLocks_spec s.sbm.lockPower take
      exact ⟨hpower, hsecurity, fun hne => hirq (by simpa [State.rsp, hpower, hsecurity, eq_comm] using hne), s.setLocks_frame _ _⟩
  case stopped =>
    have hbad : (s.pwr.modReset || s.pwr.startFail.isSome) = true := by simpa using hstop
    change execPowerOn s = _
    unfold execPowerOn
    rw [ha, hbad]
    rfl
  case on =>
    refine ⟨_, execPowerOn_starts ha hm hf, ?_⟩
    cases hr : enableRange s.pwr.vin.toNat && !s.pwr.pwrgood with
    | true =>
      obtain ⟨hin, -⟩ := Bool.and_eq_true_iff.mp hr
      have hrange : 43000 ≤ s.pwr.vin.toNat ∧ s.pwr.vin.toNat ≤ 58000 := by simpa [enableRange] using hin
      exact ⟨rfl, rfl, rfl, rfl, fun _ _ => rfl, fun hout => absurd hrange (by omega)⟩
    | false =>
      refine ⟨rfl, rfl, rfl, rfl, fun hlo hhi => ?_, fun _ => rfl⟩
      have hin : enableRange s.pwr.vin.toNat = true := by simp [enableRange, hlo, hhi]
      rw [hin, Bool.true_and, Bool.not_eq_false'] at hr
      exact hr
  case off =>
    let v : State := { s with pwr := { s.pwr with offLatch := true } }
    refine ⟨v.railsOff.rsp 0 [], execPowerOff_switches ha, rfl, ?_⟩
    change v.railsOff.pwr.pwrgood = false ∧ v.railsOff.hif.ready = s.hif.ready.and (!s.pwr.pwrgood) ∧ v.railsOff.pwr.sticky = s.pwr.sticky
      ∧ v.railsOff.evt.alarm = s.evt.alarm ∧ (∀ r ∈ v.railsOff.evt.aonBuf, r ∈ s.evt.aonBuf) ∧ v.railsOff.mayStartRails = false
      ∧ v.railsOff.sec.keys = s.sec.keys ∧ v.railsOff.sec.owner = s.sec.owner
    -- the latch keeps the rails off
    have hlatch (t : State) (h : t.pwr.offLatch = true) : t.mayStartRails = false := by simp [State.mayStartRails, h]
    cases hp : s.pwr.pwrgood with
    | true =>
      obtain ⟨hpwr, hready, halarm, hbuf, hkeys, howner⟩ := State.railsOff_on (s := v) hp
      refine ⟨by rw [hpwr]; rfl, ?_, by rw [hpwr]; rfl, halarm, by rw [hbuf]; simp, hlatch _ (by rw [hpwr]; rfl), hkeys, howner⟩
      rw [hready, Bool.not_true, Bool.and_false]
    | false =>
      rw [State.railsOff_off (s := v) hp, Bool.not_false, Bool.and_true]
      exact ⟨hp, rfl, rfl, rfl, fun r hr => hr, hlatch _ rfl, rfl, rfl⟩
  case limit =>
    let v : State := { s with pwr := { s.pwr with limit := w, mgmtLimit := s.pwr.tickDriven } }
    have hpwr : ((v.endLimits 5 s.hif.limits).rsp 0 []).pwr = v.pwr := v.endLimits_pwr _ _
    refine ⟨(v.endLimits 5 s.hif.limits).rsp 0 [], ?_, rfl, hpwr, fun hnone => ?_, by rw [hpwr]⟩
    · exact congrArg Host.Outcome.next ((State.needRails_on mgBusy ha hp).trans (if_neg (by omega)))
    · rw [hnone]
      rfl
  case range => exact congrArg Host.Outcome.next ((State.needRails_on mgBusy ha hp).trans (if_pos hout))

end Sys2Proof.Machine
end

section
/-! What every command keeps (R408, R414, R415, R417, R418, R421, R428, R429, R431, R433), and which commands move what is guarded. -/

namespace Sys2Proof.Machine

/-- The guarded parts that a command may move: alarm and sticky bits, locks, owner and recipe keys, the first area. -/
def skipOf : Instr → Skip
  | .registerWrite _ _ _ => { Skip.no with bits := true }
  | .regWrite _ _ => { Skip.no with bits := true, locks := true }
  | .lock _ _ => { Skip.no with locks := true }
  | .ownerSet _ _ | .recipeKey _ _ _ | .debugUnlock _ _ => { Skip.no with keys := true }
  | .recClear _ => { Skip.no with first := true }
  | .inputBelow34V _ => { Skip.no with bits := true, locks := true, first := true }
  | _ => Skip.no

theorem skipOf_bits {c : Instr} (hhost : ∀ off v w, c ≠ .registerWrite off v w) (hmgmt : ∀ off v, c ≠ .regWrite off v)
    (hloss : ∀ mv, c ≠ .inputBelow34V mv) : (skipOf c).bits = false := by
  unfold skipOf
  split
  case h_1 => exact absurd rfl (hhost _ _ _)
  case h_2 => exact absurd rfl (hmgmt _ _)
  case h_8 => exact absurd rfl (hloss _)
  all_goals rfl

theorem skipOf_locks {c : Instr} (hlock : ∀ p k, c ≠ .lock p k) (hmgmt : ∀ off v, c ≠ .regWrite off v)
    (hloss : ∀ mv, c ≠ .inputBelow34V mv) : (skipOf c).locks = false := by
  unfold skipOf
  split
  case h_2 => exact absurd rfl (hmgmt _ _)
  case h_3 => exact absurd rfl (hlock _ _)
  case h_8 => exact absurd rfl (hloss _)
  all_goals rfl

theorem skipOf_keys {c : Instr} (howner : ∀ b x, c ≠ .ownerSet b x) (hkey : ∀ b n x, c ≠ .recipeKey b n x)
    (hdebug : ∀ b x, c ≠ .debugUnlock b x) : (skipOf c).keys = false := by
  unfold skipOf
  split
  case h_4 => exact absurd rfl (howner _ _)
  case h_5 => exact absurd rfl (hkey _ _ _)
  case h_6 => exact absurd rfl (hdebug _ _)
  all_goals rfl

theorem skipOf_first {c : Instr} (hclear : ∀ b, c ≠ .recClear b) (hloss : ∀ mv, c ≠ .inputBelow34V mv) : (skipOf c).first = false := by
  unfold skipOf
  split
  case h_7 => exact absurd rfl (hclear _)
  case h_8 => exact absurd rfl (hloss _)
  all_goals rfl

/-- Every command keeps all but the parts that skipOf gives it. -/
theorem exec_kept (c : Instr) (s : State) : KeptO (skipOf c) s (exec c s) :=
  match c with
  | .identify t => execIdentify_kept s t
  | .createRail t => execCreateRail_kept s t
  | .deleteRail t => execDeleteRail_kept s t
  | .createPass t => execCreatePass_kept s t
  | .deletePass t => execDeletePass_kept s t
  | .status t => execStatus_kept s t
  | .memWrite t => execMemWrite_kept s t
  | .memRead t g => execMemRead_kept s t g
  | .regionQuery t => execRegionQuery_kept s t
  | .regionFree t => execRegionFree_kept s t
  | .recipeLoad t => execRecipeLoad_kept s t
  | .recipeUnload t => execRecipeUnload_kept s t
  | .recipeStart t => execRecipeStart_kept s t
  | .recipeStop t => execRecipeStop_kept s t
  | .stepRun t => execStepRun_kept s t
  | .invoke t => execInvoke_kept s t
  | .ckptSave t => execCkptSave_kept s t
  | .ckptRestore t => execCkptRestore_kept s t
  | .shadowCfg t accepted => execShadowCfg_kept s t accepted
  | .shadowRestore t img => execShadowRestore_kept s t img
  | .calRun t => execCalRun_kept s t
  | .sctRead t => execSctRead_kept s t
  | .testEnter t => execTestEnter_kept s t
  | .testLeave t fails => execTestLeave_kept s t fails
  | .directedTest t fails => execDirectedTest_kept s t fails
  | .eventRead t => execEventRead_kept s t
  | .historyRead t => execHistoryRead_kept s t
  | .ratioRead t => execRatioRead_kept s t
  | .telemetryRead t => execTelemetryRead_kept s t
  | .setWakeTol t => execSetWakeTol_kept s t
  | .idleEnter t => execIdleEnter_kept s t
  | .idleExit t nvm => execIdleExit_kept s t nvm
  | .powerLimit t => execPowerLimit_kept s t
  | .powerQuery t => execPowerQuery_kept s t
  | .domainSet t => execDomainSet_kept s t
  | .groupDefine t => execGroupDefine_kept s t
  | .groupDelete t => execGroupDelete_kept s t
  | .beatSet t => execBeatSet_kept s t
  | .domainJoin t => execDomainJoin_kept s t
  | .linkQuery t => execLinkQuery_kept s t
  | .secQuery t => execSecQuery_kept s t
  | .certRead t => execCertRead_kept s t
  | .measure t => execMeasure_kept s t
  | .ticketBadOpcode op t => execTicketBadOpcode_kept s op t
  | .railTail n v => execRailTail_kept s n v
  | .passHead n v => execPassHead_kept s n v
  | .ticketFetch n read => execTicketFetch_kept s n read
  | .completionWrite n => execCompletionWrite_kept s n
  | .passTimer n => execPassTimer_kept s n
  | .mboxEnSet => execMboxEnSet_kept s
  | .mboxDisable => execMboxDisable_kept s
  | .mboxReset => execMboxReset_kept s
  | .registerWrite off v hwSet => execRegisterWrite_kept s off v hwSet rfl
  | .rcCounterRead off hwAdd => execRcCounterRead_kept s off hwAdd
  | .lowWordRead m off => execLowWordRead_kept s m off
  | .badAccess m write off size => execBadAccess_kept s m write off size
  | .anaRowlimWrite v => execAnaRowlimWrite_kept s v
  | .anaCtlWrite v => execAnaCtlWrite_kept s v
  | .calCtlWrite v => execCalCtlWrite_kept s v
  | .calCmdGo v => execCalCmdGo_kept s v
  | .memPatrolCfgWrite v => execMemPatrolCfgWrite_kept s v
  | .tgGo dev v => execTgGo_kept s dev v
  | .tgStop dev v => execTgStop_kept s dev v
  | .tgRunDone dev errors first => execTgRunDone_kept s dev errors first
  | .regRead off => execRegRead_kept s off
  | .regWrite off v => execRegWrite_kept s off v rfl rfl
  | .lock power take => execLock_kept s power take rfl
  | .powerOn => execPowerOn_kept s
  | .powerOff => execPowerOff_kept s
  | .mgmtPowerLimit watts => execMgmtPowerLimit_kept s watts
  | .ownerSet secured cert => execOwnerSet_kept s secured cert rfl
  | .recipeKey secured slot key => execRecipeKey_kept s secured slot key rfl
  | .linkKey secured port sending key beat => execLinkKey_kept s secured port sending key beat
  | .recClear secured => execRecClear_kept s secured rfl
  | .exportData secured page => execExportData_kept s secured page
  | .classClear secured cls unit => execClassClear_kept s secured cls unit
  | .debugUnlock secured doSeal => execDebugUnlock_kept s secured doSeal rfl
  | .mctpControl c => execMctpControl_kept s c
  | .mctpUnsupportedType ty => execMctpUnsupportedType_kept s ty
  | .pldmBase cmd => execPldmBase_kept s cmd
  | .pldmSensorRead id => execPldmSensorRead_kept s id
  | .pldmUnsupportedType ty => execPldmUnsupportedType_kept s ty
  | .pldmFirmwareUpdate c => execPldmFirmwareUpdate_kept s c
  | .activateFirmware selfContained => execActivateFirmware_kept s selfContained
  | .spdmGetCertificate => execSpdmGetCertificate_kept s
  | .spdmChallenge nonce => execSpdmChallenge_kept s nonce
  | .spdmGetMeasurements nonce => execSpdmGetMeasurements_kept s nonce
  | .spdmKeyExchange chains => execSpdmKeyExchange_kept s chains
  | .alwaysOnPowerUp mgmtSel addr => execAlwaysOnPowerUp_kept s mgmtSel addr
  | .inputBelow34V mv => execInputBelow34V_kept s mv rfl rfl rfl
  | .mainRailEnable mv => execMainRailEnable_kept s mv
  | .railPowerGoodTimeout rail => execRailPowerGoodTimeout_kept s rail
  | .domainRetry dom good nvm => execDomainRetry_kept s dom good nvm
  | .startupStep o => execStartupStep_kept s o
  | .selfHeatTimeout => execSelfHeatTimeout_kept s
  | .firmwareBoot aOk bOk => execFirmwareBoot_kept s aOk bOk
  | .bootWatchdog => execBootWatchdog_kept s
  | .sysctlWatchdog => execSysctlWatchdog_kept s
  | .pwrWarn mv => execPwrWarn_kept s mv
  | .braceLeave mv lowest us => execBraceLeave_kept s mv lowest us
  | .pwrUvReset mv => execPwrUvReset_kept s mv
  | .pwrOvw mv => execPwrOvw_kept s mv
  | .ovWarnClear mv => execOvWarnClear_kept s mv
  | .pwrOvShut mv => execPwrOvShut_kept s mv
  | .ovRestart mv => execOvRestart_kept s mv
  | .thermShutdown src temp => execThermShutdown_kept s src temp
  | .modReset => execModReset_kept s
  | .modResetRelease => execModResetRelease_kept s
  | .perstAssert => execPerstAssert_kept s
  | .perstRelease width rate => execPerstRelease_kept s width rate
  | .functionLevelReset => execFunctionLevelReset_kept s
  | .bar4Access write off len g => execBar4Access_kept s write off len g
  | .cablePresentChange port present => execCablePresentChange_kept s port present
  | .portRetrain port => execPortRetrain_kept s port
  | .portTrainingDone port o => execPortTrainingDone_kept s port o
  | .laneDrop port lane => execLaneDrop_kept s port lane
  | .laneRetrain port lane good => execLaneRetrain_kept s port lane good
  | .retryBlockFail port seq lane uncorr data crc => execRetryBlockFail_kept s port seq lane uncorr data crc
  | .linkResendRequest port seq => execLinkResendRequest_kept s port seq
  | .creditReturn port vc bytes => execCreditReturn_kept s port vc bytes
  | .packetRoute p => execPacketRoute_kept s p
  | .e2eResendTimeout id => execE2eResendTimeout_kept s id
  | .routeTableReceive gen beat dead down => execRouteTableReceive_kept s gen beat dead down
  | .sealTagFail port seq => execSealTagFail_kept s port seq
  | .tickMessage m skew => execTickMessage_kept s m skew
  | .beatTick pavg => execBeatTick_kept s pavg
  | .epochFenceStall => execEpochFenceStall_kept s
  | .flywheelTick pavg => execFlywheelTick_kept s pavg
  | .masterChange => execMasterChange_kept s
  | .windowClose o => execWindowClose_kept s o
  | .beatReport r => execBeatReport_kept s r
  | .stretchLimit => execStretchLimit_kept s
  | .slotStart slot => execSlotStart_kept s slot
  | .sequencerWaitRelease d => execSequencerWaitRelease_kept s d
  | .nop d e => execNop_kept s d e
  | .amp d e => execAmp_kept s d e
  | .dmp d e => execDmp_kept s d e
  | .diag d e => execDiag_kept s d e
  | .ewise d e => execEwise_kept s d e
  | .reduce d e => execReduce_kept s d e
  | .softmax d e => execSoftmax_kept s d e
  | .norm d e => execNorm_kept s d e
  | .deriv d e => execDeriv_kept s d e
  | .softmaxBwd d e => execSoftmaxBwd_kept s d e
  | .normBwd d e => execNormBwd_kept s d e
  | .lossXent d e => execLossXent_kept s d e
  | .gather d e => execGather_kept s d e
  | .scatter d e => execScatter_kept s d e
  | .scatterAdd d e => execScatterAdd_kept s d e
  | .convert d e => execConvert_kept s d e
  | .quantise d e => execQuantise_kept s d e
  | .push d e => execPush_kept s d e
  | .pop d e => execPop_kept s d e
  | .popPrefetch cluster bytes e => execPopPrefetch_kept s cluster bytes e
  | .stashWriteback cluster bytes e => execStashWriteback_kept s cluster bytes e
  | .move d e => execMove_kept s d e
  | .transpose d e => execTranspose_kept s d e
  | .gatherMem d e => execGatherMem_kept s d e
  | .expand d e => execExpand_kept s d e
  | .allreduce d e => execAllreduce_kept s d e
  | .reduceScatter d e => execReduceScatter_kept s d e
  | .allgather d e => execAllgather_kept s d e
  | .broadcast d e => execBroadcast_kept s d e
  | .sendrecv d e => execSendrecv_kept s d e
  | .collPacket port vc p o => execCollPacket_kept s port vc p o
  | .collComplete vc => execCollComplete_kept s vc
  | .update d e => execUpdate_kept s d e
  | .awrite d e => execAwrite_kept s d e
  | .compare d e => execCompare_kept s d e
  | .digestTensor d e => execDigestTensor_kept s d e
  | .digestExchange d e peers copy => execDigestExchange_kept s d e peers copy
  | .fence d e => execFence_kept s d e
  | .commit d e shadowArrived => execCommit_kept s d e shadowArrived
  | .replayStart => execReplayStart_kept s
  | .replayLimit => execReplayLimit_kept s
  | .boundaryApply => execBoundaryApply_kept s
  | .scrubStep core bank pos finds sigma => execScrubStep_kept s core bank pos finds sigma
  | .scrubLate core bank ageUs => execScrubLate_kept s core bank ageUs
  | .scrubAgeLimit core bank => execScrubAgeLimit_kept s core bank
  | .arrayReplace array => execArrayReplace_kept s array
  | .calBankRun core bank o => execCalBankRun_kept s core bank o
  | .dieTempSample cd0 cd1 iod clusters => execDieTempSample_kept s cd0 cd1 iod clusters
  | .coolantSample inlet outlet => execCoolantSample_kept s inlet outlet
  | .checksumWindow array => execChecksumWindow_kept s array
  | .tasting array => execTasting_kept s array
  | .patrolScrub region frame g lost => execPatrolScrub_kept s region frame g lost
  | .frameRepair region frame src data => execFrameRepair_kept s region frame src data
  | .memTempSample dev temp => execMemTempSample_kept s dev temp
  | .evacClear => execEvacClear_kept s
  | .localise core o => execLocalise_kept s core o
  | .coreSpare core failing us cals => execCoreSpare_kept s core failing us cals
  | .deviceLost dev choice => execDeviceLost_kept s dev choice
  | .replicaDrop dev members => execReplicaDrop_kept s dev members
  | .shadowTraffic m => execShadowTraffic_kept s m
  | .recordWrite => execRecordWrite_kept s
  | .pageFlush taken => execPageFlush_kept s taken
  | .operatingHourTick => execOperatingHourTick_kept s
  | .coreWatchdog core => execCoreWatchdog_kept s core
  | .endToEndAcknowledgement id => execEndToEndAcknowledgement_kept s id
  | .retryBlockAcknowledgement port seq corr => execRetryBlockAcknowledgement_kept s port seq corr
  | .highWordRead m off => execHighWordRead_kept s m off


theorem step_front {s : State} {c : Instr} {rest : List Instr} (hq : s.pending = c :: rest) :
    step s = exec c { s with pending := rest } := by
  unfold step
  rw [hq]
  rfl

theorem step_idle {s : State} (hq : s.pending = []) : step s = .next s := by
  unfold step
  rw [hq]

/-- A step keeps what its front command keeps of the state with the queue's rest. -/
theorem step_kept {s t : State} {c : Instr} {rest : List Instr} (hq : s.pending = c :: rest) (ht : step s = .next t) :
    Kept (skipOf c) { s with pending := rest } t := by
  have hk := exec_kept c { s with pending := rest }
  rw [← step_front hq, ht] at hk
  exact hk

/-- Settles O57: the cases of the queue; the operation table gives no row bits. -/
theorem stepRunsTheFrontCommand : Obligations.StepRunsTheFrontCommand := by
  unfold Obligations.StepRunsTheFrontCommand
  exact fun s => ⟨fun _ _ => step_front, step_idle, fun _ _ => ⟨rfl, rfl⟩⟩

/-- Settles O59: an idle step keeps everything, and each command keeps what `KeptCore` names. -/
theorem everyStepKeepsItsPromises : Obligations.EveryStepKeepsItsPromises := by
  unfold Obligations.EveryStepKeepsItsPromises
  intro s t ht
  match hq : s.pending with
  | [] =>
    obtain rfl : s = t := Host.Outcome.next.inj ((step_idle hq).symm.trans ht)
    exact ⟨id, hq, id, Nat.le_refl _, fun h => ⟨h, Nat.le_refl _⟩⟩
  | c :: rest =>
    have hk := (step_kept hq ht).toKeptCore
    exact ⟨hk.mem, hk.queue, hk.isSealed, hk.rollback, hk.hours⟩

/-- Settles O60: a command that is none of those named for a part keeps that part. -/
theorem guardedStateHasItsOwnCommands : Obligations.GuardedStateHasItsOwnCommands := by
  unfold Obligations.GuardedStateHasItsOwnCommands
  intro s t c rest hq ht
  have hk := step_kept hq ht
  refine ⟨fun h1 h2 h3 => ?bits, fun h1 h2 h3 => ?locks, fun h1 h2 h3 => ?keys, fun h1 h2 => hk.first (skipOf_first h1 h2)⟩
  case bits => exact ⟨hk.alarm (skipOf_bits h1 h2 h3), hk.sticky (skipOf_bits h1 h2 h3)⟩
  case locks => exact ⟨hk.lockP (skipOf_locks h1 h2 h3), hk.lockS (skipOf_locks h1 h2 h3)⟩
  case keys => exact ⟨hk.keys (skipOf_keys h1 h2 h3), hk.owner (skipOf_keys h1 h2 h3)⟩

end Sys2Proof.Machine
end

section
/-! The management port's answers (R410 to R413, R426, R430): commands that need the session, MCTP and PLDM, and SPDM. -/

namespace Sys2Proof.Machine

/-! ### Commands without the rails or the session (R412, R413) -/

theorem State.needRails_off {s : State} (t : State) (busy : Nat) (ha : s.pwr.aon = true) (hp : s.pwr.pwrgood = false) :
    s.needRails busy t = s.rsp busy [] := by
  simp [State.needRails, ha, hp]

theorem State.needSession_off {s : State} (sec : Bool) (t : State) (ha : s.pwr.aon = true) (hp : s.pwr.pwrgood = false) :
    s.needSession sec t = s.rsp mgBusy [] := State.needRails_off _ _ ha hp

/-- Outside a session a Secured command is refused, with AUTH_FAIL. -/
theorem State.needSession_out {s : State} {sec : Bool} (t : State) (ha : s.pwr.aon = true) (hp : s.pwr.pwrgood = true)
    (hout : sec = false ∨ s.sbm.session = false) : s.needSession sec t = (s.raise 0xA005 []).rsp mgNotAuth [] := by
  have hno : (sec && s.sbm.session) = false := by rcases hout with h | h <;> simp [h]
  simp [State.needSession, s.needRails_up _ _ ha hp, hno]

/-- A command marked Secured is one that needs the session before it does what it does. -/
theorem exec_secured {s : State} {sec : Bool} {c : Instr}
    (hc : (∃ slot key, c = .recipeKey sec slot key) ∨ (∃ p d key beat, c = .linkKey sec p d key beat) ∨ c = .recClear sec
      ∨ (∃ page, c = .exportData sec page) ∨ (∃ cls unit, c = .classClear sec cls unit) ∨ (∃ x, c = .debugUnlock sec x)
      ∨ (∃ cert, c = .ownerSet sec cert ∧ s.sec.owner.isSome = true)) : ∃ t, exec c s = .next (s.needSession sec t) := by
  rcases hc with ⟨_, _, rfl⟩ | ⟨_, _, _, _, rfl⟩ | rfl | ⟨_, rfl⟩ | ⟨_, _, rfl⟩ | ⟨_, rfl⟩ | ⟨cert, rfl, howner⟩
  case inr.inr.inr.inr.inr.inr =>
    have hset : ¬s.sec.owner.isNone = true := by simp [Option.isSome_iff_ne_none.mp howner]
    exact ⟨_, congrArg Host.Outcome.next (if_neg hset)⟩
  all_goals exact ⟨_, rfl⟩

/-- Settles O30: each of the commands asks for the session first. -/
theorem securedCommandsNeedTheSession : Obligations.SecuredCommandsNeedTheSession := by
  unfold Obligations.SecuredCommandsNeedTheSession
  intro s sec c ha hout hc
  obtain ⟨t, ht⟩ := exec_secured hc
  refine ⟨fun hp => ?refused, fun hp => ?waits⟩
  case refused =>
    have hlog := s.raise_events 0xA005 []
    exact ⟨_, ht.trans (congrArg _ (State.needSession_out t ha hp hout)), rfl, s.raiseU_alarm 0xA005 0 [] rfl (by decide),
      s.raise_sec _ _, hlog.log.first, hlog.flt⟩
  case waits => exact ht.trans (congrArg _ (State.needSession_off sec t ha hp))

/-! ### MCTP and PLDM (R410 to R412, R426) -/

theorem execMctpControl_setEid {s : State} (eid : Byte) (ha : s.pwr.aon = true) :
    execMctpControl (.setEid eid) s = .next (({ s with sbm := { s.sbm with eid := eid } }).rsp plSuccess []) := if_neg (by simp [ha])

theorem execMctpControl_other {s : State} (code : Nat) (ha : s.pwr.aon = true) :
    execMctpControl (.other code) s = .next (s.rspB plSuccess [Config.responseByte code 0]) := if_neg (by simp [ha])

theorem execMctpUnsupportedType_counts {s : State} {ty : Nat} (ha : s.pwr.aon = true) (hty : ty ∉ mctpTypes) :
    execMctpUnsupportedType ty s = .next (s.count cSbmDrop 1) := if_neg (by simp [ha, hty])

/-- A PLDM Type 0 command that is supported is answered with bytes. -/
theorem execPldmBase_known {s : State} {cmd : Nat} (ha : s.pwr.aon = true) (h1 : 1 ≤ cmd) (h5 : cmd ≤ 5) :
    ∃ bs, execPldmBase cmd s = .next (s.rspB plSuccess bs) := by
  unfold execPldmBase
  rw [if_neg (by simp [ha])]
  split
  · exact ⟨_, rfl⟩
  · exact ⟨_, if_pos ⟨h1, h5⟩⟩

theorem execPldmBase_unknown {s : State} {cmd : Nat} (ha : s.pwr.aon = true) (h : cmd = 0 ∨ 5 < cmd) :
    execPldmBase cmd s = .next (s.rsp plBadCmd []) := by
  unfold execPldmBase
  rw [if_neg (by simp [ha]), if_neg (by omega), if_neg (by omega)]

theorem execPldmSensorRead_none {s : State} {id : Nat} (ha : s.pwr.aon = true) (hid : s.sensor id = none) :
    execPldmSensorRead id s = .next (s.rsp (if s.pwr.pwrgood then plBadSensor else plNotReady) []) := by
  unfold execPldmSensorRead
  rw [if_neg (by simp [ha]), hid]

/-- A sensor that has power answers its status, 0, and its value. -/
theorem execPldmSensorRead_powered {s : State} {id : Nat} {v : Word} {main : Bool} (ha : s.pwr.aon = true)
    (hid : s.sensor id = some (v, main)) (h : main = false ∨ s.pwr.pwrgood = true) :
    execPldmSensorRead id s = .next ((s.draw 1).rsp plSuccess [0, v]) := by
  have hpower : (main && !s.pwr.pwrgood) = false := by rcases h with h | h <;> simp [h]
  have hstatus : wd (s.sensorStatus main) = 0 := congrArg wd (if_neg (by simp [hpower]))
  unfold execPldmSensorRead
  rw [if_neg (by simp [ha]), hid]
  dsimp only
  rw [hpower, if_neg Bool.false_ne_true, hstatus]

theorem execPldmSensorRead_unpowered {s : State} {id : Nat} {v : Word} (ha : s.pwr.aon = true) (hp : s.pwr.pwrgood = false)
    (hid : s.sensor id = some (v, true)) : execPldmSensorRead id s = .next (s.rsp plNotReady []) := by
  unfold execPldmSensorRead
  rw [if_neg (by simp [ha]), hid]
  exact if_pos (by simp [hp])

/-- Settles O34: each request by its own answer. -/
theorem mctpAndPldmAnswer : Obligations.MctpAndPldmAnswer := by
  unfold Obligations.MctpAndPldmAnswer
  intro s ha
  refine ⟨fun eid => execMctpControl_setEid eid ha, fun code => ⟨_, execMctpControl_other code ha, rfl, rfl⟩,
    fun ty h0 h1 h5 h6 hv => ?type, fun cmd h1 h5 => ?known, fun cmd h => ⟨_, execPldmBase_unknown ha h, rfl, rfl⟩,
    fun ty h0 h2 h5 => ?pldm, fun id v main hid => ⟨fun hup => ⟨_, execPldmSensorRead_powered ha hid hup, rfl, rfl, rfl⟩, fun hm hp => ?off⟩,
    fun id hid => ⟨_, execPldmSensorRead_none ha hid, rfl, rfl⟩⟩
  case type =>
    refine ⟨_, execMctpUnsupportedType_counts ha (by simp [mctpTypes, *]), ?_, fun o ho => s.count_other 1 ho, s.count_only _ _⟩
    rw [State.ctrGet_count, if_pos rfl]
  case known =>
    obtain ⟨bs, hbs⟩ := execPldmBase_known ha h1 h5
    exact ⟨_, hbs, rfl, rfl⟩
  case pldm =>
    have hexec : exec (.pldmUnsupportedType ty) s = .next (s.needRails plNotReady (s.rsp plBadType [])) := if_neg (by simp [*])
    cases hp : s.pwr.pwrgood with
    | true => exact ⟨_, hexec.trans (congrArg _ (s.needRails_up _ _ ha hp)), rfl, rfl⟩
    | false => exact ⟨_, hexec.trans (congrArg _ (State.needRails_off _ _ ha hp)), rfl, rfl⟩
  case off =>
    subst hm
    exact ⟨_, execPldmSensorRead_unpowered ha hp hid, rfl, rfl, rfl⟩

/-! ### SPDM (R412, R413, R430) -/

theorem execSpdmKeyExchange_up {s : State} (chains : Bool) (ha : s.pwr.aon = true) (hp : s.pwr.pwrgood = true) :
    execSpdmKeyExchange chains s = .next (if chains && s.sec.owner.isSome then
      ({ s with sbm := { s.sbm with session := true } }).rspB plSuccess [Config.responseByte 0x5E4 0] else s.rsp spUnspecified []) :=
  congrArg Host.Outcome.next (s.needRails_up _ _ ha hp)

/-- Settles O36: with the rails on each request has its own answer, and without them the same one. -/
theorem spdmAnswers : Obligations.SpdmAnswers := by
  unfold Obligations.SpdmAnswers
  intro s nonce ha
  have up {t : State} {o : Host.Outcome State Fault Refusal} (hp : s.pwr.pwrgood = true) (ho : o = .next (s.needRails spBusy t)) :
      o = .next t := ho.trans (congrArg _ (s.needRails_up _ _ ha hp))
  refine ⟨fun hp => ⟨⟨_, up hp rfl, rfl, rfl⟩, ⟨_, up hp rfl, rfl, rfl⟩, ⟨_, up hp rfl, rfl, rfl⟩, fun howner => ?opens,
    fun x hx => ?stays⟩, fun hp c hc => ?busy⟩
  case opens => exact ⟨_, (execSpdmKeyExchange_up true ha hp).trans (congrArg _ (if_pos howner)), rfl, rfl⟩
  case stays =>
    have hno : ¬(x && s.sec.owner.isSome) = true := by rcases hx with h | h <;> simp [h]
    exact ⟨_, (execSpdmKeyExchange_up x ha hp).trans (congrArg _ (if_neg hno)), rfl, rfl⟩
  case busy =>
    have hwaits : ∃ t, exec c s = .next (s.needRails spBusy t) := by
      simp only [List.mem_cons, List.not_mem_nil, or_false] at hc
      rcases hc with rfl | rfl | rfl | rfl | rfl <;> exact ⟨_, rfl⟩
    obtain ⟨t, ht⟩ := hwaits
    exact ht.trans (congrArg _ (State.needRails_off t _ ha hp))

end Sys2Proof.Machine
end

section
/-! Supply, shutdowns and the always-on domain (R389 to R394, R403, R407, R408, R414, R417, R421, R433). -/

namespace Sys2Proof.Machine

/-! ### Sticky bits and events -/

theorem State.setSticky_pwr (s : State) (i : Nat) : (s.setSticky i).pwr = { s.pwr with sticky := (s.setSticky i).pwr.sticky } := by
  rw [(s.setSticky_warned i).only]

/-- A sticky bit set, with its event: the rest of the power state stays. -/
theorem State.stickyEvent_pwr (s : State) {i : Nat} (code : Nat) (l : List Word) (hi : i < 10) : ∃ b : BitVec 10,
    ((s.setSticky i).raise code l).pwr = { s.pwr with sticky := b } ∧ b.getLsbD i = true
      ∧ ∀ j, s.pwr.sticky.getLsbD j = true → b.getLsbD j = true :=
  ⟨_, (State.raise_pwr _ _ _).trans (s.setSticky_pwr i), s.setSticky_sets hi, (s.setSticky_warned i).sticky⟩

/-- With the main rails off an event is kept in the always-on buffer (R419). -/
theorem State.raise_kept_aon {s : State} (code : Nat) (l : List Word) (hp : s.pwr.pwrgood = false) (ha : s.pwr.aon = true) :
    ∃ r ∈ (s.raise code l).evt.aonBuf, r.code = code := by
  refine ⟨s.mkRecord code l, ?_, rfl⟩
  change _ ∈ (s.record (s.mkRecord code l) 0).evt.aonBuf
  unfold State.record
  simp only [hp, ha, Bool.false_eq_true, if_false, if_true]
  exact Recorder.mem_takeAon _ _

/-! ### Brace and over-voltage (R390, R391, R394, R407) -/

theorem execPwrWarn_first {s : State} {mv : Nat} (hm : mv < 42000) (hp : s.pwr.pwrgood = true) (hb : s.pwr.braced = false) :
    ∃ (t : State) (b : BitVec 10), execPwrWarn mv s = .next t.dutyFall ∧ b.getLsbD 0 = true ∧ b.getLsbD 1 = true
      ∧ t.pwr = { s.pwr with vin := wd mv, supply := .brace, braced := true, braceLow := wd mv, sticky := b } := by
  obtain ⟨b, hpwr, hbit, -⟩ := State.stickyEvent_pwr { s with pwr := { s.pwr with vin := wd mv } } 0x1001 [] (i := 0) (by decide)
  generalize hu : (({ s with pwr := { s.pwr with vin := wd mv } } : State).setSticky 0).raise 0x1001 [] = u at hpwr
  let v : State := { u with pwr := { u.pwr with supply := .brace, braced := true, braceLow := wd mv } }
  refine ⟨((v.setSticky 1).count cBrace 1).raise 0x1002 [1, wd mv], (v.setSticky 1).pwr.sticky, ?_, ?_, v.setSticky_sets (by decide), ?_⟩
  · unfold execPwrWarn
    rw [if_neg (by simp [hm, hp]), if_neg (by simp [hb]), hu]
  · exact (v.setSticky_warned 1).sticky 0 (by rw [show v.pwr.sticky = b by simp [v, hpwr]]; exact hbit)
  · rw [State.raise_pwr, State.count_pwr, State.setSticky_pwr]
    simp [v, hpwr]

theorem execPwrWarn_again {s : State} {mv : Nat} (hm : mv < 42000) (hp : s.pwr.pwrgood = true) (hb : s.pwr.braced = true) :
    ∃ (t : State) (b : BitVec 10), execPwrWarn mv s = .next t ∧ b.getLsbD 0 = true ∧ t.pwr = { s.pwr with
      vin := wd mv, sticky := b, braceLow := if mv < s.pwr.braceLow.toNat then wd mv else s.pwr.braceLow } := by
  obtain ⟨b, hpwr, hbit, -⟩ := State.stickyEvent_pwr { s with pwr := { s.pwr with vin := wd mv } } 0x1001 [] (i := 0) (by decide)
  unfold execPwrWarn
  rw [if_neg (by simp [hm, hp]), if_pos hb]
  exact ⟨_, b, rfl, hbit, by rw [hpwr]⟩

theorem execPwrOvw_warns {s : State} {mv : Nat} (hm : 58000 < mv) (ha : s.pwr.aon = true) (hs : s.pwr.supply ≠ .ovWarn) :
    execPwrOvw mv s = .next ((({ s with pwr := { s.pwr with vin := wd mv, supply := .ovWarn } }).setSticky 2).raise 0x1004 []) :=
  if_neg (by simp [hm, ha, hs])

/-- The input has been at or below 58.0 V for one second. -/
theorem execOvRestart_low {s : State} {mv : Nat} (hm : mv ≤ 58000) (hw : s.pwr.ovWait = true) :
    let u : State := { s with pwr := { s.pwr with vin := wd mv, ovWait := false } }
    execOvRestart mv s = .next (if enableRange mv && u.mayStartRails then u.startRails else u) := if_neg (by simp [hm, hw])

/-- Settles O25: each crossing of a threshold by its own command. -/
theorem supplyFollowsTheInput : Obligations.SupplyFollowsTheInput := by
  unfold Obligations.SupplyFollowsTheInput
  intro s mv
  refine ⟨fun hm hp hb => ?enter, fun hm hp hb => ?again, fun lowest us hm hb => ?leave, fun hm ha hs => ?high, fun hm hs => ?clear,
    fun hlo hhi hw hl hr => ?restart, fun hm hw hl => ?latched⟩
  case enter =>
    obtain ⟨t, b, ht, h0, h1, hpwr⟩ := execPwrWarn_first hm hp hb
    refine ⟨_, ht, ?_⟩
    unfold State.dutyFall
    rw [hpwr]
    exact ⟨rfl, rfl, rfl, rfl, h0, h1⟩
  case again =>
    obtain ⟨t, b, ht, h0, hpwr⟩ := execPwrWarn_again hm hp hb
    refine ⟨t, ht, ?_⟩
    rw [hpwr]
    exact ⟨hb, rfl, rfl, h0⟩
  case leave =>
    refine ⟨_, if_neg (by simp [hm, hb]), ?_⟩
    rw [State.raise_pwr]
    exact ⟨rfl, rfl, rfl⟩
  case high =>
    let v : State := { s with pwr := { s.pwr with vin := wd mv, supply := .ovWarn } }
    obtain ⟨b, hpwr, hbit, -⟩ := v.stickyEvent_pwr 0x1004 [] (i := 2) (by decide)
    refine ⟨_, execPwrOvw_warns hm ha hs, ?_⟩
    rw [hpwr]
    exact ⟨rfl, hbit, rfl, by simp, by simp, by simp⟩
  case clear => exact if_neg (by simp [hm, hs])
  case restart =>
    let u : State := { s with pwr := { s.pwr with vin := wd mv, ovWait := false } }
    have hstart : (enableRange mv && u.mayStartRails) = true := by
      rw [show u.mayStartRails = true from hr]
      simp [enableRange, hlo, hhi]
    exact ⟨u.startRails, (execOvRestart_low hhi hw).trans (congrArg _ (if_pos hstart)), rfl, rfl, rfl⟩
  case latched => exact (execOvRestart_low hm hw).trans (congrArg _ (if_neg (by simp [State.mayStartRails, hl])))

/-! ### Shutdowns (R393, R394, R403, R408) -/

/-- A shutdown: the main rails go off, then its sticky bit is set and its event kept in the always-on buffer. -/
theorem State.shutdown_spec {v : State} {i code : Nat} (hp : v.pwr.pwrgood = true) (ha : v.pwr.aon = true) (hi : i < 10)
    (hprio : prioOf code = 0) (hcls : code / 4096 < 14) : ∃ t b, (v.railsOff.setSticky i).raise code [] = t
      ∧ t.pwr = { v.pwr.off with sticky := b } ∧ b.getLsbD i = true ∧ t.hif.ready = false
      ∧ (∃ r ∈ t.evt.aonBuf, r.code = code) ∧ t.evt.alarm.getLsbD (code / 4096) = true := by
  obtain ⟨hoff, hready, -⟩ := State.railsOff_on hp
  obtain ⟨b, hpwr, hbit, -⟩ := v.railsOff.stickyEvent_pwr code [] hi
  have hu : (v.railsOff.setSticky i).pwr = { v.pwr.off with sticky := b } := by
    rw [← hoff, ← hpwr, State.raise_pwr]
  have hif : v.railsOff.hif.OnlySignals ((v.railsOff.setSticky i).raise code []).hif :=
    (State.setSticky_warned _ i).hif.trans (State.raise_events _ _ _).hif
  refine ⟨_, b, rfl, hoff ▸ hpwr, hbit, ?_, State.raise_kept_aon code [] (by rw [hu]; rfl) (by rw [hu]; exact ha),
    State.raiseU_alarm _ code 0 [] hprio hcls⟩
  rw [hif]
  exact hready

/-- Settles O26: each shutdown by what it notes before the rails go off. -/
theorem shutdownsTakeTheRailsOff : Obligations.ShutdownsTakeTheRailsOff := by
  unfold Obligations.ShutdownsTakeTheRailsOff
  intro s hp ha
  refine ⟨fun mv hm => ?undervoltage, fun mv hm => ?overvoltage, fun src temp hm => ?thermal⟩
  case undervoltage =>
    obtain ⟨t, b, ht, hpwr, hbit, hready, hbuf, halarm⟩ := State.shutdown_spec (v := { s with pwr := { s.pwr with vin := wd mv } })
      (i := 6) (code := 0x1003) hp ha (by decide) rfl (by decide)
    refine ⟨t, (if_neg (by simp [hm, hp])).trans (congrArg Host.Outcome.next ht), ?_⟩
    rw [hpwr]
    exact ⟨rfl, hready, hbit, rfl, hbuf, halarm⟩
  case overvoltage =>
    intro recent
    obtain ⟨t, b, ht, hpwr, hbit, hready, hbuf, -⟩ := State.shutdown_spec (v := { s with pwr := { s.pwr with
      vin := wd mv, ovHours := recent ++ [s.evt.hours], ovLatch := decide (4 ≤ (recent ++ [s.evt.hours]).length), ovWait := true } })
      (i := 7) (code := 0x1005) hp ha (by decide) rfl (by decide)
    refine ⟨t, (if_neg (by simp [hm, hp])).trans (congrArg Host.Outcome.next ht), ?_⟩
    rw [hpwr]
    exact ⟨rfl, hready, hbit, hbuf, by simp [Pwr.off], rfl, rfl⟩
  case thermal =>
    obtain ⟨t, b, ht, hpwr, hbit, hready, hbuf, halarm⟩ := State.shutdown_spec (v := { s with pwr := { s.pwr with thermLatch := true } })
      (i := 8) (code := 0x2006) hp ha (by decide) rfl (by decide)
    refine ⟨t, congrArg Host.Outcome.next ((if_neg (by simp [hm, hp])).trans ht), ?_⟩
    rw [hpwr]
    exact ⟨rfl, hready, hbit, rfl, hbuf, halarm⟩

/-! ### The operating hours as the log is written (R421) -/

/-- The operating hours and their saved count stay. -/
structure Recorder.SameHours (e f : Recorder) : Prop where
  hours : f.hours = e.hours
  saved : f.savedHours = e.savedHours

theorem Recorder.SameHours.refl (e : Recorder) : e.SameHours e := ⟨rfl, rfl⟩

theorem Recorder.SameHours.trans {e f g : Recorder} (h : e.SameHours f) (k : f.SameHours g) : e.SameHours g :=
  ⟨k.hours.trans h.hours, k.saved.trans h.saved⟩

theorem RecKept.sameHours {e f : Recorder} (h : RecKept e f) : e.SameHours f := ⟨h.hours, h.saved⟩

theorem State.setAlarm_sameHours (s : State) (c : Nat) : s.evt.SameHours (s.setAlarm c).evt := by
  unfold State.setAlarm
  split
  · exact .refl _
  · rw [State.alert_evt]
    exact ⟨rfl, rfl⟩

theorem State.record_sameHours (s : State) (r : Record) (unit : Nat) : s.evt.SameHours (s.record r unit).evt := by
  have halarm : s.evt.SameHours (if prioOf r.code = 0 then s.setAlarm (r.code / 4096) else s).evt := by
    split
    · exact s.setAlarm_sameHours _
    · exact .refl _
  have htaken := halarm.trans (Recorder.take_kept _ r unit).sameHours
  unfold State.record
  dsimp only
  split
  · split <;> simpa using htaken
  · split
    · exact halarm.trans (Recorder.takeAon_kept _ r).sameHours
    · exact halarm

theorem State.writeRecord_sameHours (s : State) (r : Record) : s.evt.SameHours (s.writeRecord r).evt := by
  have hput : s.evt.SameHours (s.evt.put r) := (Recorder.put_kept _ _).sameHours
  have hfull (t : State) (ht : t.evt = s.evt.put r) : s.evt.SameHours
      (if t.evt.firstFull && !s.evt.firstFull then t.raise 0xD002 [] else t).evt := by
    rw [← ht] at hput
    split
    · exact hput.trans (State.record_sameHours _ _ _)
    · exact hput
  unfold State.writeRecord
  dsimp only
  split <;> exact hfull _ rfl

theorem State.writeRecords_sameHours (s : State) (l : List Record) : s.evt.SameHours (s.writeRecords l).evt := by
  induction l generalizing s with
  | nil => exact .refl _
  | cons r l ih => exact (s.writeRecord_sameHours r).trans (ih _)

theorem State.endBeatLog_sameHours (s : State) : s.evt.SameHours s.endBeatLog.evt := by
  have hstorm (t : State) : t.evt.SameHours t.logStorm.evt := by
    unfold State.logStorm
    split
    · exact ⟨rfl, rfl⟩
    · split
      · rw [State.count_evt]
        exact ⟨rfl, rfl⟩
      · exact ⟨rfl, rfl⟩
  exact (s.writeRecords_sameHours (s.evt.storms.map Storm.record)).trans (hstorm _)

theorem State.closeLog_sameHours (s : State) : s.evt.SameHours s.closeLog.evt := by
  have hopen : s.evt.SameHours (if s.evt.aonBuf.isEmpty then s else s.openLog).evt := by
    split
    · exact .refl _
    · have h := State.writeRecords_sameHours { s with evt := { s.evt.flushPage with aonBuf := [], aonLost := 0 } }
        (withLost s.evt.aonBuf s.evt.aonLost)
      exact ⟨h.hours, h.saved⟩
  have hdrain (t : State) : t.evt.SameHours t.drainLog.evt := by
    have h := State.writeRecords_sameHours { t with evt := { t.evt with queue := [] } } t.evt.queue
    exact ⟨h.hours, h.saved⟩
  exact (hopen.trans (State.endBeatLog_sameHours _)).trans (hdrain _)

/-- The main rails' going off leaves the hours, the keys and the rollback counter. -/
theorem State.railsOff_keeps (s : State) : s.evt.SameHours s.railsOff.evt ∧ s.railsOff.pwr.pwrgood = false
    ∧ s.railsOff.sec.keys = s.sec.keys ∧ s.railsOff.sec.owner = s.sec.owner ∧ s.railsOff.sec.rollback = s.sec.rollback := by
  cases hp : s.pwr.pwrgood with
  | true =>
    have hhours := s.closeLog_sameHours
    have hsec : s.closeLog.sec = s.sec := by rw [s.closeLog_logged.only]
    refine ⟨?_, by rw [s.railsOff_pwr hp]; rfl, ?_⟩
    · unfold State.railsOff
      rw [if_neg (by simp [hp])]
      exact ⟨hhours.hours, hhours.saved⟩
    · unfold State.railsOff
      rw [if_neg (by simp [hp]), ← hsec]
      exact ⟨rfl, rfl, rfl⟩
  | false =>
    rw [State.railsOff_off hp]
    exact ⟨⟨rfl, rfl⟩, hp, rfl, rfl, rfl⟩

/-! ### The always-on domain (R389, R408, R414, R417, R421, R433, R442) -/

theorem Recorder.powerLoss_spec (e : Recorder) : e.SameHours e.powerLoss ∧ e.powerLoss.alarm = 0 ∧ e.powerLoss.aonBuf = []
    ∧ e.powerLoss.page = [] := by
  unfold Recorder.powerLoss
  split
  · rename_i hpage
    exact ⟨⟨rfl, rfl⟩, rfl, rfl, List.isEmpty_iff.mp hpage⟩
  · exact ⟨⟨rfl, rfl⟩, rfl, rfl, rfl⟩

/-- Settles O23: the power-up is a plain change, and the loss takes what the main rails' going off leaves on the always-on side. -/
theorem alwaysOnDomainComesAndGoes : Obligations.AlwaysOnDomainComesAndGoes := by
  unfold Obligations.AlwaysOnDomainComesAndGoes
  intro s
  refine ⟨fun sel addr ha => if_neg (by simp [ha]), fun sel addr ha => if_pos ha, fun mv ha hm => ⟨_, if_neg (by simp [ha, hm]), ?_⟩⟩
  obtain ⟨hhours, hgood, hkeys, howner, hrollback⟩ := s.railsOff_keeps
  obtain ⟨hlost, halarm, hbuf, hpage⟩ := s.railsOff.evt.powerLoss_spec
  have h := hhours.trans hlost
  exact ⟨rfl, hgood, rfl, rfl, rfl, rfl, rfl, rfl, rfl, rfl, halarm, hbuf, hpage, h.hours, h.saved, hkeys, howner, hrollback⟩

end Sys2Proof.Machine
end

section
/-! Firmware (R381, R427, R428, R449): the copy that boots, the watchdogs, and the update of the inactive copy. -/

namespace Sys2Proof.Machine

/-! ### The boot ROM's choice (R427, R428, R449) -/

theorem State.refuseOld_keeps (s : State) (b ok : Bool) : (s.refuseOld b ok).sec = s.sec ∧ (s.refuseOld b ok).pwr = s.pwr := by
  unfold State.refuseOld
  extract_lets c
  split
  · exact ⟨s.raise_sec _ _, s.raise_pwr _ _⟩
  · exact ⟨rfl, rfl⟩

theorem State.failOver_spec (s : State) : s.failOver.sec = { s.sec with fwB := !s.sec.fwB, failover := true, wdCount := 0 }
    ∧ s.failOver.pwr.startStep = 6 :=
  ⟨State.raise_sec _ _ _, congrArg Pwr.startStep (State.raise_pwr _ _ _)⟩

theorem State.stopStart_sec (s : State) (step cause : Nat) : (s.stopStart step cause).sec = s.sec := State.raise_sec _ _ _

/-- The copy in use passes, so it boots. -/
theorem State.bootWith_mine {s : State} {aOk bOk : Bool} (h : s.copyPasses s.sec.fwB (if s.sec.fwB then bOk else aOk) = true) :
    s.bootWith aOk bOk = { s with pwr := { s.pwr with startStep := 6 } } := if_pos h

/-- The copy in use does not pass: the other one boots if it passes, else start-up stops. -/
theorem State.bootWith_other {s : State} {aOk bOk : Bool} (h : s.copyPasses s.sec.fwB (if s.sec.fwB then bOk else aOk) = false) :
    ∃ t u : State, t.sec = s.sec ∧ u.sec = s.sec ∧ s.bootWith aOk bOk =
      if s.copyPasses (!s.sec.fwB) (if s.sec.fwB then aOk else bOk) then t.failOver else u.stopStart 5 1 := by
  generalize ht : s.refuseOld s.sec.fwB (if s.sec.fwB then bOk else aOk) = t
  have hsec : t.sec = s.sec := ht ▸ (s.refuseOld_keeps _ _).1
  refine ⟨t, t.refuseOld (!t.sec.fwB) (if !t.sec.fwB then bOk else aOk), hsec, (t.refuseOld_keeps _ _).1.trans hsec, ?_⟩
  have hok : (if !s.sec.fwB then bOk else aOk) = if s.sec.fwB then aOk else bOk := by cases s.sec.fwB <;> rfl
  unfold State.bootWith
  dsimp only
  rw [if_neg (by simp [h]), ht, State.copyPasses_congr hsec, hsec, hok]

/-! ### Watchdogs (R381, R427) -/

theorem execBootWatchdog_third {s : State} (hs : 6 ≤ s.pwr.startStep) (hg : s.sec.bootGood = false) (hw : 2 ≤ s.sec.wdCount) :
    execBootWatchdog s = .next s.copyFails := by
  unfold execBootWatchdog
  rw [if_neg (by simp [hs, hg]), if_neg (by omega)]

/-- FAULT entered with an idle mailbox takes READY away (R350, R381). -/
theorem State.enterFault_ready {s : State} (hs : s.hif.state ≠ .fault) (hi : s.hif.Idle) : s.enterFault.hif.ready = false := by
  let v : State := { s with flt := { s.flt with fatal := true }, stp := { s.stp with active := false, halted := true },
                            pwr := { s.pwr with startStep := 0 } }
  have hev := v.raise_events 0xB00A []
  have hne : (v.raise 0xB00A []).hif.state ≠ .fault := by
    rw [hev.hif]
    exact hs
  obtain ⟨x, hx⟩ := ((v.raise 0xB00A []).setState .fault).drain_idle (State.setState_state _ _) (State.setState_idle _ _ (hev.hif.idle hi))
  have hready := State.setState_ready _ _ hne
  change (((v.raise 0xB00A []).setState .fault).drain).hif.ready = false
  rw [hx]
  change ((v.raise 0xB00A []).setState .fault).endAttempt.hif.ready = false
  rw [(State.endAttempt_events _).hif]
  exact hready

/-- The third firing of the controller's watchdog within an operating hour (R381). -/
theorem execSysctlWatchdog_fires {s : State} (hp : s.pwr.pwrgood = true) :
    let hours := s.flt.wdHours.filter (fun h => decide (s.evt.hours - h < 65536)) ++ [s.evt.hours]
    let u : State := { s with flt := { s.flt with wdHours := hours } }
    execSysctlWatchdog s = .next (if 3 ≤ hours.length ∧ s.hif.state ≠ .fault then u.enterFault else u) := if_neg (by simp [hp])

/-- Settles O27: the boot ROM's choice by which copies pass, each watchdog by how often it has fired. -/
theorem bootChoosesAGoodCopy : Obligations.BootChoosesAGoodCopy := by
  unfold Obligations.BootChoosesAGoodCopy
  intro s
  refine ⟨fun aOk bOk hstep hbraced => ?boot, fun hstep hgood => ⟨fun hw => ?again, fun hw hf hc => ?other, fun hw h => ?stops⟩,
    fun hp => ?fatal⟩
  case boot =>
    intro mine other
    have hexec : exec (.firmwareBoot aOk bOk) s = .next (s.bootWith aOk bOk) := if_pos ⟨hstep, hbraced⟩
    refine ⟨fun hm => hexec.trans (congrArg _ (State.bootWith_mine hm)), fun hm ho => ?_, fun hm ho => ?_⟩
    · obtain ⟨t, u, ht, -, hboot⟩ := State.bootWith_other hm
      obtain ⟨hsec, hnext⟩ := t.failOver_spec
      refine ⟨t.failOver, hexec.trans (congrArg _ (hboot.trans (if_pos ho))), ?_⟩
      rw [hsec, ht]
      exact ⟨rfl, rfl, hnext⟩
    · obtain ⟨t, u, -, hu, hboot⟩ := State.bootWith_other hm
      refine ⟨u.stopStart 5 1, hexec.trans (congrArg _ (hboot.trans (if_neg (Bool.eq_false_iff.mp ho)))), ?_⟩
      rw [State.stopStart_pwr, State.stopStart_sec, hu]
      exact ⟨rfl, rfl, rfl⟩
  case again =>
    change execBootWatchdog s = _
    unfold execBootWatchdog
    rw [if_neg (by simp [hstep, hgood]), if_pos hw]
  case other =>
    have hfails : s.copyFails = s.failOver := if_pos (by simp [hf, hc])
    obtain ⟨hsec, hnext⟩ := s.failOver_spec
    refine ⟨s.failOver, (execBootWatchdog_third hstep hgood hw).trans (congrArg _ hfails), ?_⟩
    rw [hsec]
    exact ⟨rfl, rfl, rfl, hnext⟩
  case stops =>
    refine ⟨s.stopStart 5 1, (execBootWatchdog_third hstep hgood hw).trans (congrArg _ (State.copyFails_stops h)), ?_⟩
    rw [State.stopStart_pwr]
  case fatal =>
    intro recent
    have hexec := execSysctlWatchdog_fires hp
    refine ⟨fun hfew => hexec.trans (congrArg _ (if_neg ?_)), fun hmany hs hw hd hb _ => ?_⟩
    · rintro ⟨hlen, -⟩
      rw [List.length_append] at hlen
      exact absurd hlen (Nat.not_le.mpr (Nat.succ_lt_succ hfew))
    · let u : State := { s with flt := { s.flt with wdHours := recent ++ [s.evt.hours] } }
      have hi : u.hif.Idle := ⟨hw, hd, hb⟩
      have hthird : 3 ≤ (recent ++ [s.evt.hours]).length := by
        rw [List.length_append]
        exact Nat.succ_le_succ hmany
      obtain ⟨hstate, hfatal⟩ := State.enterFault_spec hi
      exact ⟨u.enterFault, hexec.trans (congrArg _ (if_pos ⟨hthird, hs⟩)), hstate, hfatal, State.enterFault_ready hs hi⟩

/-! ### The inactive copy (R427, R428) -/

/-- Whether the inactive copy passes. -/
theorem State.copyPasses_inactive (s : State) (ok : Bool) : s.copyPasses (!s.sec.fwB) ok =
    (ok && s.sec.inactive.valid && decide (s.sec.rollback.toNat ≤ s.sec.inactive.svn.toNat)) := by
  unfold State.copyPasses Sec.inactive
  cases s.sec.fwB <;> rfl

/-- The inactive copy replaced: the copy in use, and which it is, stay. -/
theorem Sec.putInactive_spec (x : Sec) (c : FwCopy) : (x.putInactive c).inactive = c ∧ (x.putInactive c).fwB = x.fwB
    ∧ (x.putInactive c).rollback = x.rollback
    ∧ (if (x.putInactive c).fwB then (x.putInactive c).copyB else (x.putInactive c).copyA) = if x.fwB then x.copyB else x.copyA := by
  unfold Sec.putInactive Sec.inactive
  cases x.fwB <;> simp

/-- What a state whose inactive copy has been replaced boots from. -/
theorem State.putInactive_boots {s t : State} {c : FwCopy} (h : t.sec = s.sec.putInactive c) :
    t.copyPasses (!s.sec.fwB) true = (c.valid && decide (s.sec.rollback.toNat ≤ c.svn.toNat)) ∧ t.fwCopy = s.fwCopy
      ∧ t.sec.fwB = s.sec.fwB ∧ t.sec.rollback = s.sec.rollback := by
  obtain ⟨hinactive, hfwB, hrollback, hcopy⟩ := s.sec.putInactive_spec c
  rw [← h] at hinactive hfwB hrollback hcopy
  refine ⟨?_, hcopy, hfwB, hrollback⟩
  rw [← hfwB, State.copyPasses_inactive, hinactive, hrollback, Bool.true_and]

theorem execPldmFirmwareUpdate_done {s : State} (ok : Bool) (svn build : Half) (ha : s.pwr.aon = true) (hp : s.pwr.pwrgood = true) :
    execPldmFirmwareUpdate (.done ok svn build) s = .next (s.imageDone ok svn build) := congrArg Host.Outcome.next (s.needRails_up _ _ ha hp)

/-- An image below the rollback counter is refused, with ROLLBACK_REFUSED. -/
theorem State.imageDone_old {s : State} {svn : Half} (ok : Bool) (build : Half) (h : svn.toNat < s.sec.rollback.toNat) :
    s.imageDone ok svn build = (({ s with sbm := { s.sbm with fwDone := none } } : State).raise 0xA004 []).rsp plError [] := if_pos h

/-- An image that the ROM's key verifies is the inactive copy. -/
theorem State.imageDone_good {s : State} {svn build : Half} (h : s.sec.rollback.toNat ≤ svn.toNat) (hi : s.sbm.fwImage ≠ []) :
    s.imageDone true svn build = ({ s with
      sec := s.sec.putInactive { svn := svn, build := build, valid := true, hash := Config.sha384 s.sbm.fwImage },
      sbm := { s.sbm with fwDone := some (true, svn, build) } } : State).rsp plSuccess [] := by
  unfold State.imageDone
  dsimp only
  rw [if_neg (by omega), if_neg (by simp [hi])]

/-- An image that does not verify changes no copy. -/
theorem State.imageDone_bad {s : State} {ok : Bool} {svn build : Half} (h : s.sec.rollback.toNat ≤ svn.toNat)
    (hbad : ok = false ∨ s.sbm.fwImage = []) :
    s.imageDone ok svn build = ({ s with sbm := { s.sbm with fwDone := none } } : State).rsp plError [] := by
  unfold State.imageDone
  dsimp only
  rw [if_neg (by omega), if_pos (by rcases hbad with h | h <;> simp [h])]

/-! ### Activation (R428) -/

/-- The state whose activation has been accepted. -/
def State.activating (s : State) : State :=
  ({ s with sec := { s.sec with activate := true }, sbm := { s.sbm with fwDone := none } } : State).rsp plSuccess []

theorem execActivateFirmware_none {s : State} (x : Bool) (ha : s.pwr.aon = true) (hp : s.pwr.pwrgood = true) (h : s.sbm.fwDone = none) :
    execActivateFirmware x s = .next (s.rsp plIncomplete []) := by
  refine congrArg Host.Outcome.next ((s.needRails_up _ _ ha hp).trans ?_)
  rw [h]

/-- A verified image that is not below the rollback counter: its activation is accepted, and a self-contained one restarts the main rails. -/
theorem execActivateFirmware_some {s : State} {d : Bool × Half × Half} (x : Bool) (ha : s.pwr.aon = true) (hp : s.pwr.pwrgood = true)
    (h : s.sbm.fwDone = some d) (hd : s.sec.rollback.toNat ≤ d.2.1.toNat) :
    execActivateFirmware x s = .next (if !x then s.activating
      else if enableRange s.activating.railsOff.pwr.vin.toNat && s.activating.railsOff.mayStartRails then s.activating.railsOff.startRails
      else s.activating.railsOff) := by
  refine congrArg Host.Outcome.next ((s.needRails_up _ _ ha hp).trans ?_)
  rw [h]
  exact if_neg (Nat.not_lt.mpr hd)

/-- Settles O35: what each command leaves of the inactive copy and of the pending activation. -/
theorem firmwareIsUpdatedInTheInactiveCopy : Obligations.FirmwareIsUpdatedInTheInactiveCopy := by
  unfold Obligations.FirmwareIsUpdatedInTheInactiveCopy
  intro s ha hp
  have up {c : FwCmd} {t : State} (h : execPldmFirmwareUpdate c s = .next (s.needRails plNotReady t)) :
      exec (.pldmFirmwareUpdate c) s = .next t := h.trans (congrArg _ (s.needRails_up _ _ ha hp))
  refine ⟨⟨_, up rfl, rfl, rfl, rfl⟩, fun bs => ⟨_, up rfl, rfl, rfl, ?data⟩, fun ok svn build h => ?old, fun svn build h hi => ?good,
    fun ok svn build h hbad => ?bad, fun x h => ⟨_, execActivateFirmware_none x ha hp h, rfl, (by decide : plIncomplete ≠ plSuccess)⟩,
    fun d h hd => ⟨?accepted, fun hlo hhi hov htherm hoff hwait hreset => ?selfContained⟩⟩
  case data =>
    obtain ⟨hpasses, hcopy, hfwB, hrollback⟩ := State.putInactive_boots (s := s) (c := { s.sec.inactive with valid := false })
      (t := ({ s with sbm := { s.sbm with fwImage := s.sbm.fwImage ++ bs, fwDone := none },
                      sec := s.sec.putInactive { s.sec.inactive with valid := false } } : State).rsp plSuccess []) rfl
    exact ⟨hpasses.trans (Bool.false_and _), hcopy, hfwB, hrollback⟩
  case old =>
    let v : State := { s with sbm := { s.sbm with fwDone := none } }
    refine ⟨_, (execPldmFirmwareUpdate_done ok svn build ha hp).trans (congrArg _ (State.imageDone_old ok build h)), ?_⟩
    refine ⟨?_, v.raise_sec _ _, (by decide : plError ≠ plSuccess), v.raiseU_alarm 0xA004 0 [] rfl (by decide)⟩
    change (v.raise 0xA004 []).sbm.fwDone = none
    rw [State.raise_sbm]
  case good =>
    refine ⟨_, (execPldmFirmwareUpdate_done true svn build ha hp).trans (congrArg _ (State.imageDone_good h hi)), rfl, ?_⟩
    obtain ⟨hpasses, hrest⟩ := State.putInactive_boots (s := s)
      (c := { svn := svn, build := build, valid := true, hash := Config.sha384 s.sbm.fwImage })
      (t := ({ s with sec := s.sec.putInactive { svn := svn, build := build, valid := true, hash := Config.sha384 s.sbm.fwImage },
                      sbm := { s.sbm with fwDone := some (true, svn, build) } } : State).rsp plSuccess []) rfl
    exact ⟨hpasses.trans (by simp [h]), hrest⟩
  case bad =>
    exact ⟨_, (execPldmFirmwareUpdate_done ok svn build ha hp).trans (congrArg _ (State.imageDone_bad h hbad)), rfl, rfl⟩
  case accepted => exact ⟨s.activating, execActivateFirmware_some false ha hp h hd, rfl, rfl, rfl⟩
  case selfContained =>
    let u : State := s.activating.railsOff
    have hpwr : u.pwr = s.pwr.off := s.activating.railsOff_pwr hp
    have hstart : (enableRange u.pwr.vin.toNat && u.mayStartRails) = true := by
      have hin : enableRange s.pwr.vin.toNat = true := by simp [enableRange, hlo, hhi]
      rw [show u.mayStartRails = true by simp [State.mayStartRails, hpwr, Pwr.off, Pwr.reset, ha, hov, htherm, hoff, hwait, hreset], hpwr,
        Bool.and_true]
      exact hin
    have hsec : u.sec = { s.sec with activate := true, failover := false, bootGood := false, wdCount := 0 } := by
      have hclose : s.activating.closeLog.sec = { s.sec with activate := true } := by rw [s.activating.closeLog_logged.only]; rfl
      have hgood : ¬(!s.activating.pwr.pwrgood) = true := by simp [State.activating, hp]
      change (State.railsOff s.activating).sec = _
      unfold State.railsOff
      rw [if_neg hgood]
      change { s.activating.closeLog.sec with failover := false, bootGood := false, wdCount := 0 } = _
      rw [hclose]
    refine ⟨u.startRails, (execActivateFirmware_some true ha hp h hd).trans (congrArg _ (if_pos hstart)), ?_, ?_, rfl, rfl⟩
    · change u.sec.start.fwB = _
      rw [hsec]
      rfl
    · rfl

end Sys2Proof.Machine
end

section
/-! The recorder and the unit histories in a session (R361, R364, R413, R418): REC_CLEAR, EXPORT and CLASS_CLEAR. -/

namespace Sys2Proof.Machine

/-! ### REC_CLEAR (R418) -/

/-- The recorder as REC_CLEARED is about to be written: the first area empty, the event counted. -/
def Recorder.emptied (e : Recorder) : Recorder :=
  { e with first := [], firstFull := false, srcSeq := e.srcSeq + 1, seen := bumpSeen e.seen (0xD003, 0) }

/-- The first area cleared: what the queue held is written, and the areas are those of REC_CLEARED put into an empty first area. -/
theorem State.clearFirst_evt (s : State) : s.clearFirst.evt = s.drainLog.evt.emptied.put (s.drainLog.mkRecord 0xD003 []) := by
  obtain ⟨t, ht, -, -, -, -, hquiet⟩ :=
    State.writeRecord_spec { s.drainLog with evt := s.drainLog.evt.emptied } (s.drainLog.mkRecord 0xD003 [])
  obtain ⟨-, -, -, hfull⟩ := Recorder.put_first s.drainLog.evt.emptied (s.drainLog.mkRecord 0xD003 [])
  rw [show s.clearFirst = t from ht]
  exact (hquiet hfull).1

/-- With nothing in the queue there is nothing to write before. -/
theorem State.drainLog_empty {s : State} (h : s.evt.queue = []) : s.drainLog.evt = s.evt := by
  unfold State.drainLog
  rw [h]
  change { s.evt with queue := [] } = s.evt
  rw [← h]

/-- REC_CLEARED is the one record of the first area. -/
theorem State.clearFirst_first (s : State) : s.clearFirst.evt.first = [{ s.drainLog.mkRecord 0xD003 [] with seq := s.drainLog.evt.seq }]
    ∧ s.clearFirst.evt.firstFull = false := by
  obtain ⟨-, -, hfirst, hfull⟩ := Recorder.put_first s.drainLog.evt.emptied (s.drainLog.mkRecord 0xD003 [])
  rw [s.clearFirst_evt, hfirst, hfull]
  exact ⟨rfl, rfl⟩

/-- REC_CLEARED of an empty queue takes the next number, and leaves the queue, EVT_ALARM and, while the page has room, the circulating area. -/
theorem State.clearFirst_quiet {s : State} (h : s.evt.queue = []) : s.clearFirst.evt.queue = []
    ∧ s.clearFirst.evt.seq = (s.evt.seq + 1) % 2 ^ 32 ∧ s.clearFirst.evt.alarm = s.evt.alarm
    ∧ (s.evt.page.length < 63 → s.clearFirst.evt.circ = s.evt.circ
      ∧ s.clearFirst.evt.page = s.evt.page ++ [{ s.drainLog.mkRecord 0xD003 [] with seq := s.evt.seq }]) := by
  have hcleared := s.clearFirst_evt
  rw [State.drainLog_empty h] at hcleared
  obtain ⟨hseq, hqueue, -⟩ := Recorder.put_first s.evt.emptied (s.drainLog.mkRecord 0xD003 [])
  obtain ⟨halarm, -⟩ := s.evt.emptied.put_aon (s.drainLog.mkRecord 0xD003 [])
  rw [hcleared]
  refine ⟨hqueue.trans h, hseq, halarm, fun hroom => ?_⟩
  obtain ⟨hpage, hcirc⟩ := s.evt.emptied.put_page (s.drainLog.mkRecord 0xD003 []) (by decide : prioOf 0xD003 ≠ 0) hroom
  exact ⟨hcirc, hpage⟩

/-! ### EXPORT (R413) -/

/-- A page of 4,096 bytes of a longer text, the last one filled with zeros. -/
def pageOf (bs : List Byte) (page : Nat) : List Byte :=
  let x := (bs.drop (4096 * page)).take 4096
  x ++ List.replicate (4096 - x.length) 0

theorem pageOf_length (bs : List Byte) (page : Nat) : (pageOf bs page).length = 4096 := by
  have h : ((bs.drop (4096 * page)).take 4096).length ≤ 4096 := List.length_take_le _ _
  unfold pageOf
  rw [List.length_append, List.length_replicate]
  omega

theorem pageOf_getD (bs : List Byte) (page : Nat) {i : Nat} (hi : i < 4096) : (pageOf bs page).getD i 0 = bs.getD (4096 * page + i) 0 := by
  have hlen : ((bs.drop (4096 * page)).take 4096).length = min 4096 (bs.length - 4096 * page) := by
    rw [List.length_take, List.length_drop]
  unfold pageOf
  by_cases h : 4096 * page + i < bs.length
  · rw [List.getD_append _ _ _ _ (by omega)]
    simp [List.getD_eq_getElem?_getD, hi]
  · rw [List.getD_append_right _ _ _ _ (by omega), List.getD_replicate _ (by omega), List.getD_eq_default _ _ (by omega)]

theorem execExportData_in {s : State} (page : Nat) (ha : s.pwr.aon = true) (hp : s.pwr.pwrgood = true) (hs : s.sbm.session = true) :
    execExportData true page s = .next (if ((s.exportBytes.drop (4096 * page)).take 4096).isEmpty && page != 0 then s.rsp mgBadParam []
      else s.rspB mgDone (pageOf s.exportBytes page)) := congrArg Host.Outcome.next (s.needSession_in _ ha hp hs)

/-! ### CLASS_CLEAR (R361, R364) -/

/-- Entries that are not those replaced are found as before. -/
theorem find?_map_kept {α : Type} {p q : α → Bool} {e : α} (he : q e = false) (hpq : ∀ x, p x = true → q x = false) (l : List α) :
    (l.map (fun x => if p x then e else x)).find? q = l.find? q := by
  induction l with
  | nil => rfl
  | cons x l ih =>
    rw [List.map_cons, List.find?_cons, List.find?_cons, ih]
    by_cases hx : p x = true
    · rw [if_pos hx, he, hpq x hx]
    · rw [if_neg hx]

/-- The entry of a unit that has one replaced by another of the same unit. -/
theorem State.setHist_replaces {s : State} {e f : UnitHist} (h : s.hist? f.cls f.unit = some e) :
    (s.setHist f).hist? f.cls f.unit = some f ∧ ∀ c u, (c, u) ≠ (f.cls, f.unit) → (s.setHist f).hist? c u = s.hist? c u := by
  have hany : s.flt.hist.any (fun x => x.cls == f.cls && x.unit == f.unit) = true :=
    List.any_eq_true.mpr ⟨e, List.mem_of_find?_eq_some h, by simpa using List.find?_some h⟩
  have hset : (s.setHist f).flt.hist = s.flt.hist.map (fun x => if x.cls == f.cls && x.unit == f.unit then f else x) := by
    unfold State.setHist putHist
    rw [if_pos hany]
  unfold State.hist?
  rw [hset]
  refine ⟨find?_map_replaced (by simp) _ hany, fun c u hne => find?_map_kept ?_ (fun x hx => ?_) _⟩
  · simp only [Bool.and_eq_false_imp, beq_iff_eq, beq_eq_false_iff_ne]
    exact fun hc hu => hne (by rw [hc, hu])
  · simp only [Bool.and_eq_true, beq_iff_eq] at hx
    simp only [Bool.and_eq_false_imp, beq_iff_eq, beq_eq_false_iff_ne]
    exact fun hc hu => hne (by rw [← hc, ← hu, hx.1, hx.2])

theorem State.unitCleared_flt (s : State) (cls unit : Nat) : (s.unitCleared cls unit).flt = s.flt := by
  unfold State.unitCleared
  split <;> rfl

/-- A unit that has an entry keeps its count of corrected events in the entry that a charge would start from. -/
theorem State.histOf_ce {s : State} {cls unit : Nat} {e : UnitHist} (h : s.hist? cls unit = some e) : (s.histOf cls unit).ce = e.ce := by
  unfold State.histOf
  rw [h]
  dsimp only
  split <;> rfl

theorem execClassClear_clean {s : State} {cls unit : Nat} (ha : s.pwr.aon = true) (hp : s.pwr.pwrgood = true) (hs : s.sbm.session = true)
    (hu : unit < unitCount cls) (h : s.hist? cls unit = none) : execClassClear true cls unit s = .next (s.rsp mgDone []) := by
  unfold execClassClear
  rw [s.needSession_in _ ha hp hs, if_neg (Nat.not_le.mpr hu), h]

theorem execClassClear_retired {s : State} {cls unit : Nat} {e : UnitHist} (ha : s.pwr.aon = true) (hp : s.pwr.pwrgood = true)
    (hs : s.sbm.session = true) (hu : unit < unitCount cls) (h : s.hist? cls unit = some e) (he : e.state = .retired) :
    execClassClear true cls unit s = .next (s.rsp mgBadState []) := by
  unfold execClassClear
  rw [s.needSession_in _ ha hp hs, if_neg (Nat.not_le.mpr hu), h]
  exact congrArg _ (if_pos he)

theorem execClassClear_clears {s : State} {cls unit : Nat} {e : UnitHist} (ha : s.pwr.aon = true) (hp : s.pwr.pwrgood = true)
    (hs : s.sbm.session = true) (hu : unit < unitCount cls) (h : s.hist? cls unit = some e) (he : e.state ≠ .retired) :
    execClassClear true cls unit s = .next (((s.clearHist cls unit).unitCleared cls unit).rsp mgDone []) := by
  unfold execClassClear
  rw [s.needSession_in _ ha hp hs, if_neg (Nat.not_le.mpr hu), h]
  exact congrArg _ (if_neg he)

/-- The entry that a unit's clearing leaves (R361). -/
def State.clearedHist (s : State) (cls unit : Nat) : UnitHist :=
  { s.histOf cls unit with state := .clean, err := 0, first := 0, last := 0, prev := 0, dtFail := false, lastEvent := 0 }

/-- A unit's clearing replaces its entry alone. -/
theorem State.clearHist_spec {s : State} {cls unit : Nat} {e : UnitHist} (h : s.hist? cls unit = some e) :
    (s.clearHist cls unit).hist? cls unit = some (s.clearedHist cls unit)
      ∧ ∀ c u, (c, u) ≠ (cls, unit) → (s.clearHist cls unit).hist? c u = s.hist? c u := by
  obtain ⟨hcls, hunit⟩ := s.histOf_unit cls unit
  have hreplaces := State.setHist_replaces (s := s) (e := e) (f := s.clearedHist cls unit)
  rw [show (s.clearedHist cls unit).cls = cls from hcls, show (s.clearedHist cls unit).unit = unit from hunit] at hreplaces
  exact hreplaces h

/-- Settles O33: REC_CLEARED as it is put into an empty first area, a page of what EXPORT returns, and the entry that replaces a unit's. -/
theorem historiesAreReadAndCleared : Obligations.HistoriesAreReadAndCleared := by
  unfold Obligations.HistoriesAreReadAndCleared
  intro s ha hp hs
  refine ⟨?clear, fun page h => ?page, fun page h0 h => ?past, fun cls unit hu => ⟨fun e he => execClassClear_retired ha hp hs hu he,
    execClassClear_clean ha hp hs hu, fun e he hret => ?unit⟩⟩
  case clear =>
    obtain ⟨hfirst, hfull⟩ := s.clearFirst_first
    refine ⟨s.clearFirst.rsp mgDone [], _, congrArg Host.Outcome.next (s.needSession_in _ ha hp hs), rfl, hfirst, rfl, hfull, fun hq => ?_⟩
    rw [State.drainLog_empty hq]
    obtain ⟨hqueue, hseq, halarm, hroom⟩ := State.clearFirst_quiet hq
    exact ⟨hqueue, rfl, hseq, halarm, hroom⟩
  case page =>
    have hin : ¬(((s.exportBytes.drop (4096 * page)).take 4096).isEmpty && page != 0) = true := by
      simp only [Bool.and_eq_true, List.isEmpty_iff, bne_iff_ne, List.take_eq_nil_iff, List.drop_eq_nil_iff]
      omega
    exact ⟨_, (execExportData_in page ha hp hs).trans (congrArg _ (if_neg hin)), rfl, pageOf_length _ _,
      fun i hi => pageOf_getD _ _ hi, rfl⟩
  case past =>
    have hpast : (((s.exportBytes.drop (4096 * page)).take 4096).isEmpty && page != 0) = true := by
      simp [h0, List.drop_eq_nil_of_le h]
    exact (execExportData_in page ha hp hs).trans (congrArg _ (if_pos hpast))
  case unit =>
    obtain ⟨hentry, hothers⟩ := State.clearHist_spec he
    have hhist (c u : Nat) : (((s.clearHist cls unit).unitCleared cls unit).rsp mgDone []).hist? c u = (s.clearHist cls unit).hist? c u :=
      State.hist?_congr (congrArg Flt.hist (State.unitCleared_flt _ _ _)) c u
    exact ⟨_, s.clearedHist cls unit, execClassClear_clears ha hp hs hu he hret, rfl, (hhist _ _).trans hentry, rfl, State.histOf_ce he,
      rfl, rfl, rfl, rfl, rfl, rfl, fun c u hne => (hhist c u).trans (hothers c u hne)⟩

end Sys2Proof.Machine
end

section
/-! Routing tables as packets are sent (R299, R300): packets on their way leave the tables as they are, so that the table the master sends
is the one kept for its tick. -/

namespace Sys2Proof.Machine

/-- The routing tables and the one that takes effect next are as they were. -/
structure State.SameTables (s t : State) : Prop where
  routes : t.lnk.routes = s.lnk.routes
  next : t.lnk.genNext = s.lnk.genNext

theorem State.SameTables.refl (s : State) : s.SameTables s := ⟨rfl, rfl⟩

theorem State.SameTables.trans {s t u : State} (h : s.SameTables t) (k : t.SameTables u) : s.SameTables u :=
  ⟨k.routes.trans h.routes, k.next.trans h.next⟩

theorem State.Pumped.sameTables {s t : State} (h : s.Pumped t) : s.SameTables t := by
  rw [h.only]
  exact ⟨rfl, rfl⟩

theorem State.dropPacket_sameTables (s : State) (p : LinkPkt) : s.SameTables (s.dropPacket p) := by
  refine (s.rxFree_pumped p.inPort p.vc p.data.length).sameTables.trans ?_
  unfold State.dropPacket
  rw [State.count_only]
  exact ⟨rfl, rfl⟩

theorem State.enqueue_sameTables (s : State) (p : LinkPkt) (port : Nat) : s.SameTables (s.enqueue p port) := by
  obtain ⟨_, _, _, h⟩ := s.enqueue_only p port
  rw [h]
  exact ⟨rfl, rfl⟩

theorem State.routeBy_sameTables (s : State) (r : Route) (p : LinkPkt) : s.SameTables (s.routeBy r p) := by
  unfold State.routeBy
  split
  · exact s.dropPacket_sameTables p
  · split
    · exact s.dropPacket_sameTables p
    · exact s.enqueue_sameTables _ _

theorem State.route_sameTables (s : State) (p : LinkPkt) : s.SameTables (s.route p) := by
  have hdeliver : s.SameTables (s.deliver p) := by
    have h := (s.rxFree_pumped p.inPort p.vc p.data.length).sameTables
    unfold State.deliver
    dsimp only
    split
    · exact h.trans ⟨rfl, rfl⟩
    · exact h
  unfold State.route
  split
  · exact hdeliver
  · split
    · split
      · exact s.routeBy_sameTables _ p
      · exact s.dropPacket_sameTables p
    · exact s.routeBy_sameTables _ p

theorem State.sendTable_sameTables (s : State) (r : Route) (gen beat : Nat) (l : List Nat) : s.SameTables (s.sendTable r gen beat l) := by
  induction l generalizing s with
  | nil => exact .refl s
  | cons d l ih =>
    refine .trans ?_ ((State.route_sameTables _ _).trans (ih _))
    rw [s.keep_only]
    exact ⟨rfl, rfl⟩

/-- The master's new table, where the newest one does not avoid a device that is dead. -/
theorem State.rebuild_renews {s : State} {dev : Nat} (hm : s.mayRenew = true) (hd : dev ∈ s.lnk.dead) (ho : ∀ g, dev ∉ (s.tableOf g).dead) :
    s.rebuild.lnk.genNext = some (1 - s.lnk.gen, s.lnk.beat + 1)
      ∧ Tab.find s.rebuild.lnk.routes (1 - s.lnk.gen) = some { dead := s.lnk.dead, down := s.lnk.downs } := by
  have hdiffers (g : Nat) : Route.same { dead := s.lnk.dead, down := s.lnk.downs } (s.tableOf g) = false := by
    have h : s.lnk.dead.all (fun d => (s.tableOf g).dead.contains d) = false := by
      rw [List.all_eq_false]
      exact ⟨dev, hd, by simpa using ho g⟩
    simp only [Route.same, h, Bool.false_and]
  unfold State.rebuild
  extract_lets r now g _ t
  have hnow : r.same now = false := by
    unfold now
    split <;> exact hdiffers _
  rw [if_neg (by simp [hm, hnow])]
  have h := t.sendTable_sameTables r g (s.lnk.beat + 1) (s.liveDevs.filter (fun d => d != s.device))
  rw [h.next, h.routes]
  exact ⟨rfl, Tab.find_put_same _ _ _⟩

/-- A device that may send no table sends none. -/
theorem State.rebuild_none {s : State} (hm : s.mayRenew = false) : s.rebuild = s := if_pos (by simp [hm])

end Sys2Proof.Machine
end

section
/-! Lost devices (R375 to R378): the attempt discarded, the table that avoids the device, the recovery chosen, a replica's drop-out, and the
shadow held for another device. -/

namespace Sys2Proof.Machine

/-! ### Attempts discarded -/

/-- An attempt may have been discarded and events logged: nothing committed has changed, nor the links, the recipe and the fault manager. -/
structure State.Undone (s t : State) : Prop where
  upd : t.upd = s.upd
  lnk : t.lnk = s.lnk
  rcp : t.rcp = s.rcp
  flt : t.flt = s.flt
  ctr : ∀ o, o ≠ cRecCoal → o ≠ cRecDrop → t.ctrGet o = s.ctrGet o

theorem State.Undone.refl (s : State) : s.Undone s := ⟨rfl, rfl, rfl, rfl, fun _ _ _ => rfl⟩

theorem State.Undone.trans {s t u : State} (h : s.Undone t) (k : t.Undone u) : s.Undone u :=
  ⟨k.upd.trans h.upd, k.lnk.trans h.lnk, k.rcp.trans h.rcp, k.flt.trans h.flt, fun o h1 h2 => (k.ctr o h1 h2).trans (h.ctr o h1 h2)⟩

theorem State.Logged.undone {s t : State} (h : s.Logged t) : s.Undone t := ⟨by rw [h.only], h.lnk, h.rcp, h.flt, h.ctr⟩

theorem State.rewind_written (s : State) : s.rewind.mem.written = s.mem.written := by
  cases h : s.stp.saved with
  | none => rw [State.rewind_none h]
  | some v =>
    rw [State.rewind_some h, ((s.unwound v).rewindStk_rewound _ _).only]
    rfl

theorem State.discard_undone (s : State) : s.Undone s.discard := by
  obtain ⟨hupd, -, -, hctr, -⟩ := s.discard_spec
  obtain ⟨⟨tags, pend, ran, drops, honly⟩, -⟩ := s.dropBanks.rewind_putBack
  have hlnk : s.discard.lnk = s.dropBanks.rewind.lnk := rfl
  have hrcp : s.discard.rcp = s.dropBanks.rewind.rcp := rfl
  have hflt : s.discard.flt = s.dropBanks.rewind.flt := rfl
  refine ⟨hupd, ?_, ?_, ?_, hctr⟩
  · rw [hlnk, honly]
    rfl
  · rw [hrcp, honly]
    rfl
  · rw [hflt, honly]
    rfl

/-- The step of a discarded attempt goes on, and none of its writes to a bank is left. -/
theorem State.discard_step (s : State) : s.discard.stp.active = s.stp.active ∧ s.discard.mem.written = [] := by
  obtain ⟨⟨tags, pend, ran, drops, honly⟩, -⟩ := s.dropBanks.rewind_putBack
  have hact : s.discard.stp.active = s.dropBanks.rewind.stp.active := rfl
  refine ⟨?_, s.dropBanks.rewind_written⟩
  rw [hact, honly]
  rfl

theorem State.haltAttempt_undone (s : State) (c : Nat) : s.Undone (s.haltAttempt c) := by
  have h := s.discard_undone
  unfold State.haltAttempt
  split
  · exact ⟨h.upd, h.lnk, h.rcp, h.flt, h.ctr⟩
  · exact .refl s

/-- The attempt in flight is discarded, and its step waits for its replay. -/
theorem State.haltAttempt_halts {s : State} (c : Nat) (ha : s.stp.active = true) (hb : s.stp.begun = true) :
    (s.haltAttempt c).stp.active = true ∧ (s.haltAttempt c).stp.halted = true ∧ (s.haltAttempt c).stp.replayDue = some c
      ∧ (s.haltAttempt c).mem.written = [] := by
  obtain ⟨hact, hwritten⟩ := s.discard_step
  unfold State.haltAttempt
  rw [if_pos (by simp [ha, hb])]
  exact ⟨hact.trans ha, rfl, rfl, hwritten⟩

theorem State.leaveStep_keeps (s : State) : s.leaveStep.upd = s.upd ∧ s.leaveStep.lnk = s.lnk ∧ s.leaveStep.stp.active = false
    ∧ s.leaveStep.rcp = s.rcp ∧ s.leaveStep.mem = s.mem := ⟨rfl, rfl, rfl, rfl, rfl⟩

/-- The step in flight is over, and a recipe that runs stops at its boundary (R376, R377). -/
theorem State.stopAttempt_spec (s : State) : s.stopAttempt.upd = s.upd ∧ s.stopAttempt.lnk = s.lnk ∧ s.stopAttempt.stp.active = false
    ∧ s.stopAttempt.rcp.groups = s.rcp.groups ∧ (s.runningRecipe.isSome = true → s.stopAttempt.rcp.state = .stopping)
    ∧ (s.mem.written = [] → s.stopAttempt.mem.written = []) := by
  unfold State.stopAttempt
  extract_lets _ s0 _ s1 s2
  have hcur : s0.runningRecipe = s.runningRecipe := rfl
  have h1 : s1.upd = s.upd ∧ s1.lnk = s.lnk ∧ s1.stp = s.stp ∧ s1.mem = s.mem ∧ s1.rcp.groups = s.rcp.groups
      ∧ (s.runningRecipe.isSome = true → s1.rcp.state = .stopping) := by
    unfold s1
    rw [hcur]
    split
    · exact ⟨rfl, rfl, rfl, rfl, rfl, fun _ => rfl⟩
    · rename_i hnone
      exact ⟨rfl, rfl, rfl, rfl, rfl, fun h => absurd h hnone⟩
  obtain ⟨hupd, hlnk, hstp, hmem, hgroups, hstops⟩ := h1
  split
  · have hdisc := s1.discard_undone
    obtain ⟨hupd2, hlnk2, hact2, hrcp2, hmem2⟩ := s1.discard.leaveStep_keeps
    rw [← hdisc.upd, ← hupd2] at hupd
    rw [← hdisc.lnk, ← hlnk2] at hlnk
    rw [← hdisc.rcp, ← hrcp2] at hgroups hstops
    have hwritten : s2.mem.written = [] := (congrArg MemSys.written hmem2).trans s1.discard_step.2
    have hdone : ∀ u : State, u.upd = s2.upd → u.lnk = s2.lnk → u.stp = s2.stp → u.rcp = s2.rcp → u.mem = s2.mem →
        u.upd = s.upd ∧ u.lnk = s.lnk ∧ u.stp.active = false ∧ u.rcp.groups = s.rcp.groups
          ∧ (s.runningRecipe.isSome = true → u.rcp.state = .stopping) ∧ (s.mem.written = [] → u.mem.written = []) := by
      intro u h1 h2 h3 h4 h5
      rw [h1, h2, h3, h4, h5]
      exact ⟨hupd, hlnk, hact2, hgroups, hstops, fun _ => hwritten⟩
    split
    · split
      · exact hdone _ (State.complete_upd ..) (State.complete_lnk ..) (State.complete_stp ..) (State.complete_rcp ..) (State.complete_mem ..)
      · exact hdone _ rfl rfl rfl rfl rfl
    · exact hdone _ rfl rfl rfl rfl rfl
  · rename_i hidle
    refine ⟨hupd, hlnk, ?_, hgroups, hstops, fun h => by rw [hmem]; exact h⟩
    rw [hstp]
    exact Bool.eq_false_iff.mpr hidle

/-! ### The device's own loss (R375, R381) -/

/-- A bit of EVT_ALARM stays set while what is kept is kept. -/
theorem Kept.alarm_bit {s t : State} {i : Nat} (h : Kept Skip.no s t) (hs : s.evt.alarm.getLsbD i = true) : t.evt.alarm.getLsbD i = true := by
  have hbit := congrArg (fun v : BitVec 14 => v.getLsbD i) (h.alarm rfl)
  have hi := BitVec.lt_of_getLsbD hs
  simpa [hs, hi] using hbit

/-- This device's own loss stops its work. -/
theorem State.lose_drain_spec {s : State} (h : s.hostStill) : s.lose.drain.hif.state = .lost ∧ s.lose.drain.hif.ready = false
    ∧ s.lose.drain.stp.active = false ∧ s.lose.drain.stp.halted = true ∧ s.lose.drain.upd = s.upd := by
  obtain ⟨hw, hd, hb, hlost, hfault⟩ := h
  let v : State := { s with stp := { s.stp with active := false, halted := true } }
  have hlose : s.lose = v.setState .lost := if_neg hfault
  have hidle : (v.setState .lost).hif.Idle := v.setState_idle .lost ⟨hw, hd, hb⟩
  obtain ⟨x, hx⟩ := (v.setState .lost).drain_lost (v.setState_state _) hidle
  have hsignals := (v.setState .lost).endAttempt_events.hif
  have hstp : (v.setState .lost).stp = v.stp := State.setState_stp ..
  have hend : (v.setState .lost).endAttempt.stp.halted = true ∧ (v.setState .lost).endAttempt.upd = s.upd := by
    unfold State.endAttempt
    split
    · exact ⟨rfl, (v.setState .lost).discard_undone.upd.trans (State.setState_upd ..)⟩
    · exact ⟨by rw [hstp], State.setState_upd ..⟩
  rw [hlose, hx]
  refine ⟨?_, ?_, State.endAttempt_inactive _, hend⟩
  · change (v.setState .lost).endAttempt.hif.state = _
    rw [hsignals]
    exact v.setState_state _
  · change (v.setState .lost).endAttempt.hif.ready = _
    rw [hsignals]
    exact v.setState_ready .lost hlost

/-! ### Another device's loss (R375, R376) -/

/-- A device's loss known: its event, the attempt discarded, and the table that avoids it (R299, R375). -/
def State.without (s : State) (dev : Nat) : State :=
  let t := (s.raise 0xB004 []).haltAttempt 0xA
  State.rebuild { t with lnk := { t.lnk with dead := t.lnk.dead ++ [dev] } }

theorem State.deviceGone_dead {s : State} {dev : Nat} (c : Option Recov) (h : dev ∈ s.lnk.dead) : s.deviceGone dev c = s :=
  if_pos (by simpa using h)

theorem State.deviceGone_self {s : State} {dev : Nat} (c : Option Recov) (h : dev ∉ s.lnk.dead) (hd : dev = s.device) :
    s.deviceGone dev c = (s.raise 0xB004 []).lose.drain := by
  unfold State.deviceGone
  rw [if_neg (by simpa using h), if_pos hd]

theorem State.deviceGone_other {s : State} {dev : Nat} (c : Option Recov) (h : dev ∉ s.lnk.dead) (hd : dev ≠ s.device) :
    s.deviceGone dev c = ((s.without dev).takeChoice dev (c.getD ((s.without dev).chooses dev))).draw 1 := by
  unfold State.deviceGone
  rw [if_neg (by simpa using h), if_neg hd]
  rfl

/-- What a device's loss leaves as it was, before the recovery is chosen. -/
theorem State.without_keeps (s : State) (dev : Nat) : (s.without dev).lnk.dead = s.lnk.dead ++ [dev] ∧ (s.without dev).upd = s.upd
    ∧ (s.without dev).rcp = s.rcp ∧ (s.without dev).flt = s.flt ∧ (s.without dev).evt.alarm.getLsbD 11 = true := by
  have h := (s.raise_logged 0xB004 []).undone.trans (State.haltAttempt_undone _ 0xA)
  have halarm : (s.raise 0xB004 []).evt.alarm.getLsbD 11 = true := s.raiseU_alarm 0xB004 0 [] rfl (by decide)
  have hkept : Kept Skip.no (s.raise 0xB004 []) (s.without dev) :=
    State.rebuild_kept (Kept.mk_same (State.haltAttempt_kept (Kept.refl _) 0xA) rfl rfl rfl rfl rfl rfl rfl rfl rfl rfl rfl rfl)
  refine ⟨?_, ?_, ?_, ?_, hkept.alarm_bit halarm⟩
  all_goals
    unfold State.without
    rw [(State.rebuild_traffic _).only]
    dsimp only
  · rw [h.lnk]
  · exact h.upd
  · exact h.rcp
  · exact h.flt

/-- The step of an attempt that was in flight waits for its replay, with nothing of it written. -/
theorem State.without_halts {s : State} (dev : Nat) (ha : s.stp.active = true) (hb : s.stp.begun = true) :
    (s.without dev).stp.active = true ∧ (s.without dev).stp.halted = true ∧ (s.without dev).stp.replayDue = some 0xA
      ∧ (s.without dev).mem.written = [] := by
  have hstp := (s.raise_logged 0xB004 []).stp
  unfold State.without
  rw [(State.rebuild_traffic _).only]
  exact State.haltAttempt_halts 0xA (by rw [hstp, ha]) (by rw [hstp, hb])

/-- The master's table that avoids the lost device; a device that may send no table keeps those it has. -/
theorem State.without_tables (s : State) (dev : Nat) :
    (s.mayRenew = true → (∀ g, dev ∉ (s.tableOf g).dead) → (s.without dev).lnk.genNext = some (1 - s.lnk.gen, s.lnk.beat + 1)
      ∧ Tab.find (s.without dev).lnk.routes (1 - s.lnk.gen) = some { dead := s.lnk.dead ++ [dev], down := s.lnk.downs })
    ∧ (s.mayRenew = false → (s.without dev).lnk.genNext = s.lnk.genNext ∧ (s.without dev).lnk.routes = s.lnk.routes) := by
  have h := ((s.raise_logged 0xB004 []).undone.trans (State.haltAttempt_undone _ 0xA)).lnk
  unfold State.without
  extract_lets t
  generalize hv : ({ t with lnk := { t.lnk with dead := t.lnk.dead ++ [dev] } } : State) = v
  have hlnk : v.lnk = { s.lnk with dead := s.lnk.dead ++ [dev] } := by
    rw [← hv, ← h]
  have hmay : v.mayRenew = s.mayRenew := by
    unfold State.mayRenew State.device
    rw [hlnk]
  have htable (g : Nat) : v.tableOf g = s.tableOf g := by
    unfold State.tableOf
    rw [hlnk]
  refine ⟨fun hm ho => ?_, fun hm => ?_⟩
  · have hrenews := State.rebuild_renews (s := v) (dev := dev) (hmay.trans hm) (by rw [hlnk]; simp) (fun g => by rw [htable]; exact ho g)
    rw [hlnk] at hrenews
    exact hrenews
  · rw [State.rebuild_none (hmay.trans hm), hlnk]
    exact ⟨rfl, rfl⟩

/-- Whether drop-out applies does not change with the lost device's death. -/
theorem State.dropsOut_without (s : State) (dev : Nat) : (s.without dev).dropsOut dev = s.dropsOut dev := by
  obtain ⟨hdead, -, hrcp, -, -⟩ := s.without_keeps dev
  have hgroups : (s.without dev).replicaGroups = s.replicaGroups := by
    unfold State.replicaGroups State.cur State.runningRecipe State.recipe
    rw [hrcp]
  have hlive (m : Nat) : (m != dev && !(s.lnk.dead ++ [dev]).contains m) = (m != dev && !s.lnk.dead.contains m) := by
    by_cases hm : m = dev <;> simp [hm]
  unfold State.dropsOut
  rw [hgroups, hrcp, hdead]
  simp only [hlive]

/-- The recovery that is taken: drop-out before the shadow (R376). -/
theorem State.without_chooses {s : State} {dev : Nat} {c : Option Recov} {r : Recov} (h : c = some r
    ∨ (c = none ∧ s.dropsOut dev = true ∧ r = .dropOut)
    ∨ (c = none ∧ s.dropsOut dev = false ∧ s.holdsShadow dev = true ∧ r = .shadow)) : c.getD ((s.without dev).chooses dev) = r := by
  obtain ⟨-, -, -, hflt, -⟩ := s.without_keeps dev
  have hshadow : (s.without dev).holdsShadow dev = s.holdsShadow dev := by
    unfold State.holdsShadow
    rw [hflt]
  rcases h with rfl | ⟨rfl, hd, rfl⟩ | ⟨rfl, hd, hs, rfl⟩
  · rfl
  · exact if_pos ((s.dropsOut_without dev).trans hd)
  · have hno : ¬(s.without dev).dropsOut dev = true := by rw [s.dropsOut_without dev, hd]; decide
    exact (if_neg hno).trans (if_pos (hshadow.trans hs))

/-- Whatever is chosen, nothing is committed, the links stay, and a step goes on as it was or is over. -/
theorem State.takeChoice_spec (s : State) (dev : Nat) (c : Recov) : (s.takeChoice dev c).upd = s.upd ∧ (s.takeChoice dev c).lnk = s.lnk
    ∧ (s.mem.written = [] → (s.takeChoice dev c).mem.written = [])
    ∧ ((s.takeChoice dev c).stp.active = false ∨ (s.takeChoice dev c).stp = s.stp) := by
  cases c with
  | stop =>
    have hlog := s.raise_logged 0xB00B []
    obtain ⟨hupd, hlnk, hact, -, -, hwritten⟩ := (s.raise 0xB00B []).stopAttempt_spec
    exact ⟨hupd.trans hlog.undone.upd, hlnk.trans hlog.lnk, fun h => hwritten (by rw [hlog.only]; exact h), Or.inl hact⟩
  | dropOut => exact ⟨rfl, rfl, id, Or.inr rfl⟩
  | shadow => exact ⟨rfl, rfl, id, Or.inr rfl⟩
  | restored => exact ⟨rfl, rfl, id, Or.inr rfl⟩

/-- The drop-out and the shadow are waited for. -/
theorem State.takeChoice_waits (s : State) (dev : Nat) {r : Recov} (h : r = .dropOut ∨ r = .shadow) :
    s.takeChoice dev r = { s with flt := { s.flt with recov := Tab.put s.flt.recov dev r } } := by
  rcases h with rfl | rfl <;> rfl

/-! ### Replica drop-out (R377) -/

theorem State.replicaOf_congr {s t : State} (h : t.rcp = s.rcp) (n : Nat) (l : List Nat) : t.replicaOf n l = s.replicaOf n l := by
  have hgroups : t.replicaGroups = s.replicaGroups := by
    unfold State.replicaGroups State.cur State.runningRecipe State.recipe
    rw [h]
  induction n generalizing l with
  | zero => rfl
  | succ n ih =>
    unfold State.replicaOf
    rw [hgroups, h, ih]

/-- A group that some devices leave holds none of them. -/
theorem State.shrinkGroup_members (s : State) (g : Group) (gone : List Nat) : ∀ m ∈ (s.shrinkGroup g gone).members, m.1 ∉ gone := by
  intro m hm
  obtain ⟨x, hx, rfl⟩ := List.mem_map.mp hm
  have hout : x.1 ∉ gone := by simpa using (List.mem_filter.mp hx).2
  split <;> exact hout

/-- The devices that leave with a lost one: those that the leader names and those that this device's own groups reach (log 143). -/
def State.leavers (s : State) (dev : Nat) (members : List Nat) : List Nat :=
  members.foldl addOnce (s.replicaOf (s.rcp.groups.length + 1) [dev])

theorem State.leavers_congr {s t : State} (h : t.rcp = s.rcp) (dev : Nat) (members : List Nat) :
    t.leavers dev members = s.leavers dev members := by
  unfold State.leavers
  rw [State.replicaOf_congr h, h]

/-- Groups as some devices leave them. -/
def State.groupsWithout (s : State) (groups : Tab Group) (gone : List Nat) : Tab Group :=
  groups.map (fun (g : Nat × Group) => (g.1, if g.2.members.any (fun m => gone.contains m.1) then s.shrinkGroup g.2 gone else g.2))

theorem State.groupsWithout_members (s : State) (groups : Tab Group) (gone : List Nat) :
    ∀ g ∈ s.groupsWithout groups gone, ∀ m ∈ g.2.members, m.1 ∉ gone := by
  intro g hg
  obtain ⟨x, -, rfl⟩ := List.mem_map.mp hg
  dsimp only
  split
  · exact s.shrinkGroup_members x.2 gone
  · rename_i hnone
    simpa using hnone

theorem State.groupsWithout_fst (s : State) (groups : Tab Group) (gone : List Nat) :
    (s.groupsWithout groups gone).map (·.1) = groups.map (·.1) := by
  unfold State.groupsWithout
  rw [List.map_map]
  rfl

/-- A device's recovery waited for no more. -/
def State.recovDone (s : State) (dev : Nat) : State :=
  { s with flt := { s.flt with recov := Tab.del s.flt.recov dev } }

/-- The event of a drop-out changes nothing that the drop-out looks at. -/
theorem State.dropping_undone (s : State) (dev : Nat) : (s.recovDone dev).Undone ((s.recovDone dev).raise 0xB005 []) :=
  (State.raise_logged _ _ _).undone

/-- A device that stays goes on without those that leave, and its step replays. -/
theorem State.dropReplica_stays {s : State} {dev : Nat} {members : List Nat} (h : s.device ∉ s.leavers dev members) :
    let u := (s.recovDone dev).raise 0xB005 []
    s.dropReplica dev members = ((State.haltAttempt { u with rcp := { u.rcp with
      groups := (s.recovDone dev).groupsWithout u.rcp.groups (s.leavers dev members) } } 0xA).count cRecovery 1).recovered 2 := by
  have hgone : (s.recovDone dev).leavers dev members = s.leavers dev members := State.leavers_congr (s := s) (t := s.recovDone dev) rfl dev members
  rw [← hgone] at h ⊢
  have hstays : ¬((s.recovDone dev).leavers dev members).contains s.device = true := by simpa using h
  exact if_neg hstays

/-- What the drop-out leaves of a device that stays. -/
theorem State.dropReplica_spec {s : State} {dev : Nat} {members : List Nat} (h : s.device ∉ s.leavers dev members) :
    ∃ t, s.dropReplica dev members = t ∧ (∀ g ∈ t.rcp.groups, ∀ m ∈ g.2.members, m.1 ∉ s.leavers dev members)
      ∧ t.rcp.groups.map (·.1) = s.rcp.groups.map (·.1)
      ∧ (s.stp.active = true → s.stp.begun = true → t.stp.halted = true ∧ t.stp.replayDue = some 0xA)
      ∧ t.ctrGet cRecovery = satAdd (s.ctrGet cRecovery) 1 ∧ fld t.flt.lastRecov 31 28 = 2 ∧ t.upd = s.upd := by
  have hun := s.dropping_undone dev
  have hstp : ((s.recovDone dev).raise 0xB005 []).stp = s.stp := State.raise_stp ..
  have hdrop := State.dropReplica_stays h
  generalize (s.recovDone dev).raise 0xB005 [] = u at hun hstp hdrop
  let v : State := { u with rcp := { u.rcp with groups := (s.recovDone dev).groupsWithout u.rcp.groups (s.leavers dev members) } }
  have hundone := v.haltAttempt_undone 0xA
  have hcount := (v.haltAttempt 0xA).count_only cRecovery 1
  obtain ⟨w, n, hrecovered⟩ := ((v.haltAttempt 0xA).count cRecovery 1).recovered_only 2
  refine ⟨_, hdrop, ?_⟩
  change (∀ g ∈ (((v.haltAttempt 0xA).count cRecovery 1).recovered 2).rcp.groups, _) ∧ _
  rw [hrecovered]
  have hgroups : ((v.haltAttempt 0xA).count cRecovery 1).rcp.groups = v.rcp.groups := by rw [State.count_rcp, hundone.rcp]
  refine ⟨?_, ?_, fun ha hb => ?_, ?_, fld_at_top 2 w (by decide), ?_⟩
  · dsimp only
    rw [hgroups]
    exact State.groupsWithout_members _ _ _
  · dsimp only
    rw [hgroups]
    exact (State.groupsWithout_fst _ _ _).trans (congrArg (fun r : Rcp => r.groups.map (·.1)) hun.rcp)
  · obtain ⟨-, hhalted, hdue, -⟩ := State.haltAttempt_halts (s := v) 0xA (hstp ▸ ha) (hstp ▸ hb)
    dsimp only
    rw [State.count_stp]
    exact ⟨hhalted, hdue⟩
  · change ((v.haltAttempt 0xA).count cRecovery 1).ctrGet cRecovery = _
    rw [State.ctrGet_count, if_pos rfl, hundone.ctr _ (by decide) (by decide)]
    exact congrArg (satAdd · 1) (hun.ctr _ (by decide) (by decide))
  · dsimp only
    rw [State.count_upd]
    exact hundone.upd.trans hun.upd

/-- A device that is among those that leave stops. -/
theorem State.dropReplica_leaves {s : State} {dev : Nat} {members : List Nat} (h : s.device ∈ s.leavers dev members) :
    s.dropReplica dev members = ((s.recovDone dev).raise 0xB005 []).stopAttempt := by
  have hgone : (s.recovDone dev).leavers dev members = s.leavers dev members := State.leavers_congr (s := s) (t := s.recovDone dev) rfl dev members
  rw [← hgone] at h
  have hleaves : ((s.recovDone dev).leavers dev members).contains s.device = true := by simpa using h
  exact if_pos hleaves

/-! ### Shadows held (R378) -/

/-- A message taken in: the shadow's work is the message's step, and the message's bytes stand in the region. -/
theorem State.fillShadow_spec (s : State) (x : Shadow) (m : ShadowMsg) :
    (s.fillShadow x m).flt = { s.flt with shadow := some { x with
      n := m.n, work := some { step := m.step, epoch := m.epoch, full := shadowFull m, digest := m.digest, base := m.base } } }
    ∧ (∀ r, s.ownRegion 0xB = some r →
      Mem.read (s.fillShadow x m).store.gddr (gkey r (x.place m).1) (x.place m).2.length = (x.place m).2)
    ∧ s.fillShadow x m = { s with flt := (s.fillShadow x m).flt, store := (s.fillShadow x m).store, mem := (s.fillShadow x m).mem,
                                  ctr := (s.fillShadow x m).ctr } := by
  unfold State.fillShadow
  extract_lets w _ v
  have hown : v.ownRegion 0xB = s.ownRegion 0xB := rfl
  unfold State.putShadow
  rw [hown]
  split
  · rename_i hnone
    exact ⟨rfl, fun r hr => absurd (hnone.symm.trans hr) (by simp), rfl⟩
  · rename_i r hr
    rw [State.account_only]
    refine ⟨rfl, fun r' hr' => ?_, rfl⟩
    obtain rfl : r = r' := Option.some.inj (hr.symm.trans hr')
    exact Mem.read_write _ _ _

theorem execShadowTraffic_unfit {s : State} {m : ShadowMsg} (h : s.shadowFits m = false) : execShadowTraffic m s = .next s :=
  if_pos (by simp [h])

/-- Traffic of a device whose shadow is not held. -/
theorem execShadowTraffic_other {s : State} {m : ShadowMsg} {x : Shadow} (hx : s.flt.shadow = some x) (hd : x.dev ≠ m.dev) :
    execShadowTraffic m s = .next s := by
  unfold execShadowTraffic
  rw [hx]
  dsimp only
  rw [if_pos (show (x.dev != m.dev) = true by simpa using hd)]
  split <;> rfl

/-- Traffic of the device whose shadow is held; banks of another size begin it anew. -/
theorem execShadowTraffic_held {s : State} {m : ShadowMsg} {x : Shadow} (h : s.shadowFits m = true) (hx : s.flt.shadow = some x)
    (hd : x.dev = m.dev) : execShadowTraffic m s = .next (s.fillShadow (if x.size = m.size then x else Shadow.fresh m) m) := by
  unfold execShadowTraffic
  rw [if_neg (by simp [h]), hx]
  exact if_neg (by simp [hd])

theorem execShadowTraffic_first {s : State} {m : ShadowMsg} (h : s.shadowFits m = true) (hx : s.flt.shadow = none) :
    execShadowTraffic m s = .next (s.fillShadow (Shadow.fresh m) m) := by
  unfold execShadowTraffic
  rw [if_neg (by simp [h]), hx]

/-! ### O55 -/

/-- Another device's loss, by what is known before the recovery is chosen and what the choice then leaves. -/
theorem State.deviceGone_spec {s : State} {dev : Nat} (c : Option Recov) (h : dev ∉ s.lnk.dead) (hd : dev ≠ s.device) :
    (s.deviceGone dev c).lnk = (s.without dev).lnk ∧ (s.deviceGone dev c).upd = s.upd
      ∧ (s.deviceGone dev c).evt.alarm.getLsbD 11 = true
      ∧ (s.stp.active = true → s.stp.begun = true → (s.deviceGone dev c).mem.written = [] ∧ ((s.deviceGone dev c).stp.active = false
        ∨ ((s.deviceGone dev c).stp.halted = true ∧ (s.deviceGone dev c).stp.replayDue = some 0xA))) := by
  rw [State.deviceGone_other c h hd]
  generalize c.getD ((s.without dev).chooses dev) = r
  obtain ⟨hupd, hlnk, hwritten, hstp⟩ := (s.without dev).takeChoice_spec dev r
  obtain ⟨-, hupd0, -, -, halarm⟩ := s.without_keeps dev
  have hkept : Kept Skip.no (s.without dev) ((s.without dev).takeChoice dev r) := State.takeChoice_kept (Kept.refl _) dev r
  refine ⟨hlnk, hupd.trans hupd0, hkept.alarm_bit halarm, fun ha hb => ?_⟩
  obtain ⟨-, hhalted, hdue, hnone⟩ := State.without_halts dev ha hb
  refine ⟨hwritten hnone, hstp.imp id fun hsame => ?_⟩
  change ((s.without dev).takeChoice dev r).stp.halted = true ∧ ((s.without dev).takeChoice dev r).stp.replayDue = some 0xA
  rw [hsame]
  exact ⟨hhalted, hdue⟩

/-- Settles O55: the loss by whose it is, the choice that is taken, the groups without those that leave, and the shadow's bytes. -/
theorem lostDevicesAreRoutedAround : Obligations.LostDevicesAreRoutedAround := by
  unfold Obligations.LostDevicesAreRoutedAround
  intro s dev hdev
  have hlost (c : Option Recov) : exec (.deviceLost dev c) s = .next (s.deviceGone dev c) := if_neg (Nat.not_le.mpr hdev)
  have hdrop (members : List Nat) : exec (.replicaDrop dev members) s =
      if Tab.find s.flt.recov dev = some .dropOut then .next (s.dropReplica dev members) else .next s := if_neg (Nat.not_le.mpr hdev)
  refine ⟨fun c hd => (hlost c).trans (congrArg _ (State.deviceGone_dead c hd)), fun c hd hself hstill => ?self, fun c hd hother => ?other,
    fun members hno => (hdrop members).trans (if_neg hno), fun members hyes => ?drop, fun m => ?shadow⟩
  case self =>
    have hlog := s.raise_logged 0xB004 []
    obtain ⟨hstate, hready, hact, hhalt, hupd⟩ := State.lose_drain_spec (hlog.hif.still hstill)
    have hkept : Kept Skip.no (s.raise 0xB004 []) (s.raise 0xB004 []).lose.drain := State.drain_kept (State.lose_kept (Kept.refl _))
    exact ⟨_, (hlost c).trans (congrArg _ (State.deviceGone_self c hd hself)), hstate, hready, hact, hhalt,
      hkept.alarm_bit (s.raiseU_alarm 0xB004 0 [] rfl (by decide)), hupd.trans hlog.undone.upd⟩
  case other =>
    obtain ⟨hlnk, hupd, halarm, hundone⟩ := State.deviceGone_spec c hd hother
    obtain ⟨hdead, -, hrcp, -, -⟩ := s.without_keeps dev
    obtain ⟨hrenews, hkeeps⟩ := s.without_tables dev
    refine ⟨_, hlost c, by rw [hlnk, hdead], halarm, hupd, fun hm ho => hlnk ▸ hrenews hm ho, fun hm => hlnk ▸ hkeeps hm, hundone,
      fun r hr hc => ?_, fun hc => ?_⟩
    · rw [State.deviceGone_other c hd hother, State.without_chooses hc, State.takeChoice_waits _ dev hr]
      refine ⟨Tab.find_put_same _ _ _, hrcp, fun ha hb => ?_⟩
      obtain ⟨hact, hhalted, hdue, -⟩ := State.without_halts dev ha hb
      exact ⟨hact, hhalted, hdue⟩
    · subst hc
      obtain ⟨-, -, hact, -, hstops, -⟩ := ((s.without dev).raise 0xB00B []).stopAttempt_spec
      have hrun : ((s.without dev).raise 0xB00B []).runningRecipe = s.runningRecipe := by
        unfold State.runningRecipe State.recipe
        rw [State.raise_rcp, hrcp]
      rw [State.deviceGone_other _ hd hother]
      exact ⟨hact, fun h => hstops (hrun ▸ h)⟩
  case drop =>
    have hexec := (hdrop members).trans (if_pos hyes)
    intro gone
    have hun := s.dropping_undone dev
    refine ⟨fun hstays => ?_, fun hleaves hidle => ?_⟩
    · obtain ⟨t, ht, hspec⟩ := State.dropReplica_spec hstays
      exact ⟨t, hexec.trans (congrArg _ ht), hspec⟩
    · rw [State.dropReplica_leaves hleaves] at hexec
      obtain ⟨hupd, -, -, hgroups, hstops, -⟩ := ((s.recovDone dev).raise 0xB005 []).stopAttempt_spec
      refine ⟨_, hexec, hgroups.trans (congrArg Rcp.groups hun.rcp), fun h => hstops ?_, hupd.trans hun.upd⟩
      unfold State.runningRecipe State.recipe
      rw [hun.rcp]
      exact h
  case shadow =>
    intro w takes
    have takesIt {x : Shadow} (h : exec (.shadowTraffic m) s = .next (s.fillShadow x m)) : takes x := by
      obtain ⟨hflt, hread, honly⟩ := s.fillShadow_spec x m
      exact ⟨_, h, hflt, hread, honly⟩
    refine ⟨fun h => execShadowTraffic_unfit h, fun x hx hne => execShadowTraffic_other hx hne, fun hfits => ⟨fun x hx hdv hsize => takesIt ?_,
      fun h => takesIt ?_⟩⟩
    · exact (execShadowTraffic_held hfits hx hdv).trans (by rw [if_pos hsize])
    · rcases h with hnone | ⟨x, hx, hdv, hsize⟩
      · exact execShadowTraffic_first hfits hnone
      · exact (execShadowTraffic_held hfits hx hdv).trans (by rw [if_neg hsize])

end Sys2Proof.Machine
end
